-- ==== Sys2Proof/Word.lean ====
section
/-! DEFINITION. The word types and the sparse map type of the model, with the plainest arithmetic on them. -/

namespace Sys2Proof

/-- A register of the control space: 32 bits (R7). -/
abbrev Word := BitVec 32

/-- A byte of a memory. -/
abbrev Byte := BitVec 8

/-- A sparse map from natural numbers: pairs with strictly rising keys. What an unlisted key
reads as is said by each field that has this type. -/
abbrev SMap (α : Type) := List (Nat × α)

/-- `2 ^ n`, the one spelling of it in the model. -/
abbrev pow2 (n : Nat) : Nat := 2 ^ n

/-- Bits `lo` to `lo + width - 1` of a number. -/
def bits (x lo width : Nat) : Nat := (x >>> lo) % pow2 width

/-- `x` with bits `lo` to `lo + width - 1` replaced by `v` taken modulo the width. -/
def setBits (x lo width v : Nat) : Nat :=
  (x >>> (lo + width)) <<< (lo + width) + ((v % pow2 width) <<< lo) + x % pow2 lo

/-- The two's-complement value of the low `width` bits. -/
def signed (width x : Nat) : Int :=
  let y := x % pow2 width
  if y < pow2 (width - 1) then Int.ofNat y else Int.ofNat y - Int.ofNat (pow2 width)

/-- The low `width` bits of an integer in two's complement. -/
def unsigned (width : Nat) (x : Int) : Nat := (x % Int.ofNat (pow2 width)).toNat

/-- Bit `n` of a number. -/
def bit (x n : Nat) : Bool := (x >>> n) % 2 == 1

/-- 1 for true and 0 for false. -/
def b2n (b : Bool) : Nat := if b then 1 else 0

end Sys2Proof
end

