-- ==== Sys2Proof/Machine/Fp.lean ====
section
/-! DEFINITION. Machine/Fp: the floating-point and logarithmic formats, their rounding, their arithmetic and
every conversion between them (02_number_formats.md). Values are the bit patterns of the formats, as numbers. -/

namespace Sys2Proof.Machine

/-! ## Exact values and rounding (R24, R25, R26) -/

/-- The value of a floating-point encoding: not a number, an infinity with its sign, or
`(-1)^neg * m * 2^e`. -/
inductive FVal where
  | nan
  | inf (neg : Bool)
  | fin (neg : Bool) (m : Nat) (e : Int)
deriving DecidableEq, Repr

/-- The width of a value in bits. -/
def bitLen (m : Nat) : Nat := if m = 0 then 0 else Nat.log2 m + 1

/-- `m / 2^k` rounded to nearest, ties to even (R25). -/
def rneShift (m k : Nat) : Nat :=
  let q := m >>> k
  let r := m % pow2 k
  if k = 0 then m
  else if r > pow2 (k - 1) ∨ (r = pow2 (k - 1) ∧ q % 2 = 1) then q + 1 else q

/-- `m * 2^k` for a signed `k`, rounded to nearest, ties to even. -/
def rneScale (m : Nat) (k : Int) : Nat :=
  match k with
  | .ofNat n => m <<< n
  | .negSucc n => rneShift m (n + 1)

/-- The exponent of the smallest step of a format with `eb` exponent bits and `fb` fraction bits. -/
def lsbExp (eb fb : Nat) : Int := 2 - Int.ofNat (pow2 (eb - 1)) - Int.ofNat fb

/-- The encoding, in a format of `eb` exponent and `fb` fraction bits, of `(-1)^neg * m * 2^e` rounded by R25;
subnormal results are kept and a magnitude beyond the format becomes an infinity. -/
def packF (eb fb : Nat) (neg : Bool) (m : Nat) (e : Int) : Nat :=
  let s := b2n neg <<< (eb + fb)
  let q0 := lsbExp eb fb
  let q := max q0 (e + Int.ofNat (bitLen m) - Int.ofNat (fb + 1))
  let mant := rneScale m (e - q)
  let mag := if m = 0 then 0 else ((q - q0).toNat <<< fb) + mant
  s + min mag ((pow2 eb - 1) <<< fb)

/-- The value of an encoding (the table of floating-point encodings). -/
def unpackF (eb fb x : Nat) : FVal :=
  let neg := bit x (eb + fb)
  let ex := bits x fb eb
  let fr := bits x 0 fb
  if ex = pow2 eb - 1 then (if fr = 0 then .inf neg else .nan)
  else if ex = 0 then .fin neg fr (lsbExp eb fb)
  else .fin neg (fr + pow2 fb) (lsbExp eb fb + Int.ofNat (ex - 1))

/-- The encoding of a value; a NaN is the canonical one (R26), with the top fraction bit set. -/
def packVal (eb fb : Nat) : FVal → Nat
  | .nan => ((pow2 eb - 1) <<< fb) + pow2 (fb - 1)
  | .inf neg => (b2n neg <<< (eb + fb)) + ((pow2 eb - 1) <<< fb)
  | .fin neg m e => packF eb fb neg m e

/-- The canonical NaN of FP32. -/
abbrev nan32 : Nat := 0x7FC00000
/-- Plus infinity of FP32. -/
abbrev pinf32 : Nat := 0x7F800000
/-- Minus infinity of FP32. -/
abbrev ninf32 : Nat := 0xFF800000
/-- 1.0 in FP32. -/
abbrev one32 : Nat := 0x3F800000

/-- The value of an FP32 encoding. -/
def val32 (x : Nat) : FVal := unpackF 8 23 x
/-- The FP32 encoding of a value, rounded by R25. -/
def enc32 (v : FVal) : Nat := packVal 8 23 v

/-- The encoding is a NaN of FP32. -/
def isNan32 (x : Nat) : Bool := decide (bits x 23 8 = 255 ∧ bits x 0 23 ≠ 0)
/-- The encoding is an infinity of FP32. -/
def isInf32 (x : Nat) : Bool := decide (bits x 0 31 = pinf32)
/-- The encoding is a zero of FP32, of either sign. -/
def isZero32 (x : Nat) : Bool := decide (bits x 0 31 = 0)
/-- The infinity of FP32 of a sign. -/
def inf32 (neg : Bool) : Nat := if neg then ninf32 else pinf32
/-- The zero of FP32 of a sign. -/
def zero32 (neg : Bool) : Nat := if neg then 0x80000000 else 0

/-! ## Arithmetic on values (R25 to R27, R99) -/

/-- The signed integer `(-1)^neg * m`. -/
def signedMag (neg : Bool) (m : Nat) : Int := if neg then - Int.ofNat m else Int.ofNat m

/-- `m * 2^(e - q)` for `q ≤ e`. -/
def alignTo (m : Nat) (e q : Int) : Nat := m <<< (e - q).toNat

/-- Exact sum of two values; a zero sum is plus zero unless both terms are minus zero or a like-signed zero. -/
def addV : FVal → FVal → FVal
  | .nan, _ => .nan
  | _, .nan => .nan
  | .inf a, .inf b => if a = b then .inf a else .nan
  | .inf a, .fin .. => .inf a
  | .fin .., .inf b => .inf b
  | .fin a ma ea, .fin b mb eb =>
    let q := min ea eb
    let t := signedMag a (alignTo ma ea q) + signedMag b (alignTo mb eb q)
    if t = 0 then .fin (a && b) 0 0 else .fin (decide (t < 0)) t.natAbs q

/-- The value with its sign turned. -/
def negV : FVal → FVal
  | .nan => .nan
  | .inf a => .inf (!a)
  | .fin a m e => .fin (!a) m e

/-- Exact product of two values, special operands by IEEE 754 (R27). -/
def mulV : FVal → FVal → FVal
  | .nan, _ => .nan
  | _, .nan => .nan
  | .inf a, .inf b => .inf (a != b)
  | .inf a, .fin b m _ => if m = 0 then .nan else .inf (a != b)
  | .fin a m _, .inf b => if m = 0 then .nan else .inf (a != b)
  | .fin a ma ea, .fin b mb eb => .fin (a != b) (ma * mb) (ea + eb)

/-- Quotient of two values, with 80 quotient bits at least and a last bit that says whether more follow, so that
one rounding to FP32 is the IEEE 754 result; a finite value over zero is an infinity (R99). -/
def divV : FVal → FVal → FVal
  | .nan, _ => .nan
  | _, .nan => .nan
  | .inf _, .inf _ => .nan
  | .inf a, .fin b .. => .inf (a != b)
  | .fin a .., .inf b => .fin (a != b) 0 0
  | .fin a ma ea, .fin b mb eb =>
    if mb = 0 then (if ma = 0 then .nan else .inf (a != b))
    else
      let n := ma <<< 128
      let q := n / mb
      .fin (a != b) (2 * q + b2n (decide (q * mb ≠ n))) (ea - eb - 129)

/-- Integer square root, digit by digit: the largest `r` below `2^n` with `r * r ≤ m`. -/
def isqrt (m : Nat) : Nat → Nat → Nat
  | 0, r => r
  | k + 1, r =>
    let t := r + pow2 k
    isqrt m k (if t * t ≤ m then t else r)

/-- Square root of a positive `m * 2^e` with a last bit that says whether more follow. -/
def sqrtPos (m : Nat) (e : Int) : FVal :=
  -- an even exponent and at least 128 bits of root
  let k := 256 + (e % 2).toNat
  let n := m <<< k
  let r := isqrt n ((bitLen n + 1) / 2) 0
  .fin false (2 * r + b2n (decide (r * r ≠ n))) ((e - Int.ofNat k) / 2 - 1)

/-- Reciprocal square root of a positive `m * 2^e` with a last bit that says whether more follow. -/
def rsqrtPos (m : Nat) (e : Int) : FVal :=
  let k := 400 + (e % 2).toNat
  let n := pow2 k
  let d := n / m
  let r := isqrt d ((bitLen d + 1) / 2) 0
  .fin false (2 * r + b2n (decide (r * r * m ≠ n))) ((- e - Int.ofNat k) / 2 - 1)

/-- A result and whether a NaN was generated: a NaN from operands that hold none (R39). -/
structure NumRes where
  val : Nat
  gen : Bool
deriving DecidableEq, Repr

/-- An FP32 result of operands `ops`: generated where it is a NaN and no operand is. -/
def numRes (ops : List Nat) (v : FVal) : NumRes :=
  { val := enc32 v, gen := decide (v = .nan) && !(ops.any isNan32) }

/-- FP32 sum (R98 ADD, R45). -/
def fAdd (a b : Nat) : NumRes := numRes [a, b] (addV (val32 a) (val32 b))
/-- FP32 difference (R98 SUB). -/
def fSub (a b : Nat) : NumRes := numRes [a, b] (addV (val32 a) (negV (val32 b)))
/-- FP32 product (R98 MUL, R27). -/
def fMul (a b : Nat) : NumRes := numRes [a, b] (mulV (val32 a) (val32 b))
/-- FP32 A × B + C with one rounding (R98 FMA). -/
def fFma (a b c : Nat) : NumRes := numRes [a, b, c] (addV (mulV (val32 a) (val32 b)) (val32 c))
/-- FP32 A × B − C with one rounding (R98 FMS). -/
def fFms (a b c : Nat) : NumRes := numRes [a, b, c] (addV (mulV (val32 a) (val32 b)) (negV (val32 c)))
/-- FP32 quotient (R98 DIV). -/
def fDiv (a b : Nat) : NumRes := numRes [a, b] (divV (val32 a) (val32 b))

/-- The place of a value that is no NaN in the order of MIN and MAX: minus zero lies below plus zero (R99). -/
def ordKey (x : Nat) : Int :=
  if bit x 31 then - Int.ofNat (bits x 0 31) - 1 else Int.ofNat (bits x 0 31)

/-- FP32 minimum (R99); a NaN operand gives the canonical NaN. -/
def fMin (a b : Nat) : Nat :=
  if isNan32 a || isNan32 b then nan32 else if ordKey a ≤ ordKey b then a else b
/-- FP32 maximum (R99). -/
def fMax (a b : Nat) : Nat :=
  if isNan32 a || isNan32 b then nan32 else if ordKey a ≤ ordKey b then b else a
/-- FP32 magnitude; a NaN gives the canonical NaN (R99). -/
def fAbs (a : Nat) : Nat := if isNan32 a then nan32 else bits a 0 31
/-- FP32 with the sign turned; a NaN gives the canonical NaN (R99). -/
def fNeg (a : Nat) : Nat := if isNan32 a then nan32 else if bit a 31 then bits a 0 31 else a + 0x80000000

/-- A < B in FP32, false where either is a NaN (R99). -/
def fLt (a b : Nat) : Bool :=
  !isNan32 a && !isNan32 b && decide (ordKey a < ordKey b) && !(isZero32 a && isZero32 b)
/-- A = B in FP32, with the two zeros equal. -/
def fEq (a b : Nat) : Bool :=
  !isNan32 a && !isNan32 b && (decide (ordKey a = ordKey b) || (isZero32 a && isZero32 b))
/-- A ≤ B in FP32. -/
def fLe (a b : Nat) : Bool := fLt a b || fEq a b

/-- FP32 to INT32 by R25, saturating; a NaN gives 0 (R98 F2I). -/
def fToInt (a : Nat) : Nat :=
  match val32 a with
  | .nan => 0
  | .inf neg => if neg then 0x80000000 else 0x7FFFFFFF
  | .fin neg m e =>
    let v := signedMag neg (rneScale m e)
    unsigned 32 (max (- Int.ofNat (pow2 31)) (min v (Int.ofNat (pow2 31) - 1)))

/-- INT32 to FP32 by R25 (R98 I2F). -/
def intToF (a : Nat) : Nat :=
  let v := signed 32 a
  packF 8 23 (decide (v < 0)) v.natAbs 0

/-! ## Logarithmic formats (R28 to R32) -/

/-- A logarithmic value: NaN, zero, or a sign and a log field. -/
inductive LVal where
  | nan
  | zero
  | val (neg : Bool) (l : Int)
deriving DecidableEq, Repr

/-- The value of a logarithmic code whose log field has `w` bits (R28 with 7, R29 with 15). -/
def unpackL (w x : Nat) : LVal :=
  let l := signed w x
  if l = - Int.ofNat (pow2 (w - 1)) then (if bit x w then .nan else .zero) else .val (bit x w) l

/-- The code of a logarithmic value whose field lies in range. -/
def packL (w : Nat) : LVal → Nat
  | .nan => pow2 w + pow2 (w - 1)
  | .zero => pow2 (w - 1)
  | .val neg l => (b2n neg <<< w) + unsigned w l

/-- The product of two values of one logarithmic format, held exactly (R30). -/
def mulL : LVal → LVal → LVal
  | .nan, _ => .nan
  | _, .nan => .nan
  | .zero, _ => .zero
  | _, .zero => .zero
  | .val a la, .val b lb => .val (a != b) (la + lb)

/-- Binary search for the largest `n` with `(2 n - 1)^512 < target`. -/
def tSearch (target : Nat) : Nat → Nat → Nat
  | 0, n => n
  | k + 1, n =>
    let t := n + pow2 k
    tSearch target k (if (2 * t - 1) ^ 512 < target then t else n)

/-- The table T (R31): the integer nearest to 2^(i/512) × 2^23. The 512th power of 2^(i/512) × 2^24 is compared
with the 512th powers of the odd numbers, so that the nearest integer is found exactly. -/
def tTab (i : Nat) : Nat := if i = 512 then pow2 24 else tSearch (pow2 (512 * 24 + i)) 25 0

/-- A conversion's result, and whether R38 counts it as an overflow or as an underflow. -/
structure CvtRes where
  val : Nat
  ovf : Bool
  unf : Bool
deriving DecidableEq, Repr

/-- A conversion that R38 does not count. -/
def cvtPlain (v : Nat) : CvtRes := { val := v, ovf := false, unf := false }

/-- FP32 of a non-zero log value `x` in units of 2^-12, with a sign (R32). -/
def lnsToF (neg : Bool) (x : Int) : CvtRes :=
  let n := x / 4096
  let phi := (x % 4096).toNat
  let i := phi / 8
  let r := phi % 8
  let m := tTab i + (((tTab (i + 1) - tTab i) * r + 4) >>> 3)
  let s := b2n neg <<< 31
  if n > 127 then { val := inf32 neg, ovf := true, unf := false }
  else if n ≥ -126 then cvtPlain (s + ((n + 127).toNat <<< 23) + (m - pow2 23))
  else
    let v := packF 8 23 neg m (n - 23)
    { val := v, ovf := false, unf := isZero32 v }

/-- FP32 of a logarithmic value whose unit is 2^-12 × 2^sh, with a log offset (R31, R32). -/
def lvalToF (sh : Nat) (off : Int) : LVal → CvtRes
  | .nan => cvtPlain nan32
  | .zero => cvtPlain 0
  | .val neg l => lnsToF neg (l * Int.ofNat (pow2 sh) + off)

/-- A log field brought into a format of `w` log bits: above the largest it saturates, below the smallest it becomes
zero (R30, R37), each counted by R38. -/
def satL (w : Nat) (neg : Bool) (l : Int) : CvtRes :=
  let top := Int.ofNat (pow2 (w - 1)) - 1
  if l > top then { val := packL w (.val neg top), ovf := true, unf := false }
  else if l < - top then { val := packL w .zero, ovf := false, unf := true }
  else cvtPlain (packL w (.val neg l))

/-- FP32 to a logarithmic format with `f` steps an octave and `w` log bits (R37): the logarithm of the exact value,
rounded to the nearest integer; no tie can occur. With `k` the floor of log2 of |x|^(2 f), the nearest integer to
f log2 |x| is the floor of (k + 1) / 2. -/
def fToL (w f x : Nat) : CvtRes :=
  match val32 x with
  | .nan => cvtPlain (packL w .nan)
  | .inf neg => cvtPlain (packL w (.val neg (Int.ofNat (pow2 (w - 1)) - 1)))
  | .fin neg m e =>
    if m = 0 then cvtPlain (packL w .zero)
    else satL w neg ((Int.ofNat (Nat.log2 (m ^ (2 * f))) + Int.ofNat (2 * f) * e + 1) / 2)

/-! ## Formats and conversions (R24, R37) -/

/-- The element formats of streams and pumps: the five that convert, and the three raw widths. -/
inductive Fmt where
  | fp32 | bf16 | fp16 | lns16 | lns8 | raw32 | raw16 | raw8
deriving DecidableEq, Repr

/-- The width of a format in bytes. -/
def Fmt.bytes : Fmt → Nat
  | .fp32 => 4 | .bf16 => 2 | .fp16 => 2 | .lns16 => 2 | .lns8 => 1 | .raw32 => 4 | .raw16 => 2 | .raw8 => 1

/-- The format of a three-bit code of a stream descriptor (R90). -/
def fmtOfCode (n : Nat) : Option Fmt :=
  [Fmt.fp32, .bf16, .fp16, .lns16, .lns8, .raw32, .raw16, .raw8][n]?

/-- The format is one of the five that R37 converts. -/
def Fmt.converts : Fmt → Bool
  | .raw32 | .raw16 | .raw8 => false
  | _ => true

/-- The format is logarithmic. -/
def Fmt.isLns : Fmt → Bool
  | .lns16 | .lns8 => true
  | _ => false

/-- To FP32 (R37), logarithmic formats with a log offset (R32). -/
def toF32 (f : Fmt) (off : Int) (x : Nat) : CvtRes :=
  match f with
  | .fp32 => cvtPlain (if isNan32 x then nan32 else x)
  | .bf16 => cvtPlain (let y := x <<< 16; if isNan32 y then nan32 else y)
  | .fp16 => cvtPlain (enc32 (unpackF 5 10 x))
  | .lns16 => lvalToF 3 off (unpackL 15 x)
  | .lns8 => lvalToF 9 off (unpackL 7 x)
  | .raw32 | .raw16 | .raw8 => cvtPlain x

/-- FP32 to a narrower floating-point format (R37), counted by R38 where a finite value became an infinity or a
non-zero value became zero. -/
def fToNarrow (eb fb x : Nat) : CvtRes :=
  match val32 x with
  | .fin neg m e =>
    let v := packF eb fb neg m e
    let mag := bits v 0 (eb + fb)
    { val := v, ovf := decide (mag = (pow2 eb - 1) <<< fb), unf := decide (mag = 0 ∧ m ≠ 0) }
  | v => cvtPlain (packVal eb fb v)

/-- From FP32 to a format (R37). -/
def ofF32 (f : Fmt) (x : Nat) : CvtRes :=
  match f with
  | .fp32 => cvtPlain x
  | .bf16 => fToNarrow 8 7 x
  | .fp16 => fToNarrow 5 10 x
  | .lns16 => fToL 15 512 x
  | .lns8 => fToL 7 8 x
  | .raw32 => cvtPlain (x % pow2 32)
  | .raw16 => cvtPlain (x % pow2 16)
  | .raw8 => cvtPlain (x % pow2 8)

/-- `l / 64` rounded to the nearest integer, ties to even (R37, LNS16 to LNS8). -/
def lns16To8 (l : Int) : Int :=
  let q := l / 64
  let r := l % 64
  if r > 32 ∨ (r = 32 ∧ q % 2 = 1) then q + 1 else q

/-- A conversion between two formats (R37): the same format copies the bits unchanged (R26); none exists between a
raw format and another. -/
def convert (src dst : Fmt) (off : Int) (x : Nat) : CvtRes :=
  if src = dst ∧ off = 0 then cvtPlain x
  else match src, dst with
  | .lns8, .lns16 =>
    match unpackL 7 x with
    | .val neg l => cvtPlain (packL 15 (.val neg (l * 64)))
    | v => cvtPlain (packL 15 v)
  | .lns16, .lns8 =>
    match unpackL 15 x with
    | .val neg l => satL 7 neg (lns16To8 l)
    | v => cvtPlain (packL 7 v)
  | s, d =>
    let a := toF32 s off x
    let b := ofF32 d a.val
    { val := b.val, ovf := a.ovf || b.ovf, unf := a.unf || b.unf }

/-- The encoding is a NaN of the format. -/
def isNanIn (f : Fmt) (x : Nat) : Bool :=
  match f with
  | .fp32 => isNan32 x
  | .bf16 => isNan32 (x <<< 16)
  | .fp16 => decide (unpackF 5 10 x = .nan)
  | .lns16 => decide (unpackL 15 x = .nan)
  | .lns8 => decide (unpackL 7 x = .nan)
  | .raw32 | .raw16 | .raw8 => false

/-- An array product in FP32 of two operands of one activation format (R27, R30, R31). -/
def arrayProduct (f : Fmt) (a b : Nat) : NumRes :=
  match f with
  | .lns16 => { val := (lvalToF 3 0 (mulL (unpackL 15 a) (unpackL 15 b))).val, gen := false }
  | .lns8 => { val := (lvalToF 9 0 (mulL (unpackL 7 a) (unpackL 7 b))).val, gen := false }
  | .fp16 =>
    let v := mulV (unpackF 5 10 a) (unpackF 5 10 b)
    { val := enc32 v, gen := decide (v = .nan) && !(isNanIn .fp16 a) && !(isNanIn .fp16 b) }
  | .bf16 =>
    let v := mulV (unpackF 8 7 a) (unpackF 8 7 b)
    { val := enc32 v, gen := decide (v = .nan) && !(isNanIn .bf16 a) && !(isNanIn .bf16 b) }
  | _ => { val := (fMul a b).val, gen := (fMul a b).gen }

end Sys2Proof.Machine
end

