-- ==== Sys2Proof/Config.lean ====
section
/-! DEFINITION. Config: the free values of the model. Each is an opaque constant with no body, applied to
plain data of the state or to operands, so that a statement about it holds for every value. -/

namespace Sys2Proof.Config

/-- A byte of a memory whose contents the spec calls indeterminate, or gives no value for: `epoch` counts the
events that left contents indeterminate, `unit` names the memory, `addr` the byte (log entry 4). -/
opaque indetByte (epoch unit addr : Nat) : BitVec 8

/-- A value the spec leaves open after an event of the machine (log entry 4): `epoch` as above, `site` names
which value it is. -/
opaque openValue (epoch site : Nat) : Nat

/-- Identity values that the part carries and the spec does not state: ROM root hashes, serial numbers and the
like, by register and part (log entry 5). -/
opaque identity (unit index : Nat) : Nat

/-- The signature that the part's identity key, derived from its physical unclonable function, gives for a
message (log entry 5). -/
opaque sign (key : Nat) (message : List (BitVec 8)) : List (BitVec 8)

/-- The identity blob belongs to this module: the part's physical unclonable function, corrected with the blob's helper
data, gives the key that unwraps its private key, and that key matches its certificate (log entry 5). -/
opaque unwraps (blob : List (BitVec 8)) : Bool

end Sys2Proof.Config
end

