-- ==== Sys2Proof/Machine/Inputs.lean ====
section
/-! DEFINITION. Machine/Inputs: what a command brings from outside the device, as the operands of commands spell it:
locations, access paths, parity outcomes, frames and samples (log entry 1). Plain data. -/

namespace Sys2Proof.Machine

/-! ## Locations -/

/-- A compute die (R5). -/
abbrev DieId := Fin 48
/-- Any die: 0 to 47 compute, 48 to 55 reservoir stacks, 56 to 63 aqueduct heads (R5). -/
abbrev AnyDie := Fin 64
/-- A reservoir stack, by its number 0 to 7. -/
abbrev StackId := Fin 8
/-- An aqueduct head, by its number 0 to 7. -/
abbrev HeadId := Fin 8
/-- A block of a die. -/
abbrev BlockId := Fin 24
/-- A Town Hall core of a die. -/
abbrev CoreId := Fin 4

/-- A bank of a block whose power a register controls (R124). -/
inductive BankId where
  | sub (n : Fin 32)      -- a cistern sub-bank
  | wide (n : Fin 12)     -- a wide well bank
  | narrow (n : Fin 8)    -- a narrow well bank
deriving DecidableEq, Repr

/-- A pump of a block. -/
inductive PumpId where
  | a | b
deriving DecidableEq, Repr

/-- A queue of a pump (R130). -/
inductive QueueId where
  | direct | sluice | ring
deriving DecidableEq, Repr

/-! ## Parity outcomes -/

/-- A row or basin entry that a read finds in error; outside data, an operand of the command that reads. -/
inductive BadRead where
  | wide (row : Nat)
  | narrow (row : Nat)
  | basin (entry : Nat)
  | program
deriving DecidableEq, Repr

/-- Outside data of a line read: the line, and how many of the three reads failed parity (R113). -/
structure LineErr where
  place : Fin 131072
  failed : Fin 4
deriving DecidableEq, Repr

/-- The line (R108). -/
def LineErr.line (e : LineErr) : Nat := e.place.val

/-- How many of the three reads failed (R113). -/
def LineErr.fails (e : LineErr) : Nat := e.failed.val

/-- What the reads of a command meet in the well: rows and entries found in error, and arbitrations lost at wide and
narrow ports (R117, R122). -/
structure WellEnv where
  bad : List BadRead := []
  program : Bool := false       -- the bundle or a table fetched from the program store failed parity (R161)
  lostWide : Nat := 0
  lostNarrow : Nat := 0
deriving DecidableEq, Repr

/-- The block at which a write lands, and what its access meets in the well. -/
structure LandingAt where
  block : BlockId
  env : WellEnv := {}
deriving DecidableEq, Repr

/-- A square of the streets (R141). -/
structure SquareAt where
  die : DieId
  block : BlockId
deriving DecidableEq, Repr

/-- A read request that merges: the pump that asks, and the number of the outstanding read (R154). -/
structure MergeEvent where
  die : DieId
  block : BlockId
  pump : PumpId
  read : Nat
deriving DecidableEq, Repr

/-- A die that completes its step, and the rows of results on it that the Town Hall's reads at the commit point will find in
error (R122). -/
structure DieEnd where
  die : DieId
  bad : List BadRead := []
deriving DecidableEq, Repr

/-- Outside data of a pump's reads, and how many segments the pump moves before the next command comes: all it can where
none is named. -/
structure PumpEnv where
  well : WellEnv := {}
  far : WellEnv := {}
  errs : List LineErr := []
  segments : Option Nat := none
deriving DecidableEq, Repr

/-- A unit of a block that reads its memories. -/
inductive Consumer where
  | quartet | tile | vector | eaf | pumpA | pumpB | sequencer | hall
deriving DecidableEq, Repr

/-! ## Control accesses (R328) -/

/-- The mode of a Town Hall core. -/
inductive CoreMode where
  | user | supervisor | machine
deriving DecidableEq, Repr

/-- The path a control access takes. -/
inductive Path where
  | core (die : DieId) (core : CoreId) (mode : CoreMode)
  | i3c
  | jtag
  | peer (fa : Fin 65536)
deriving DecidableEq, Repr

/-- A control access: its path, control address and width in bytes. -/
structure CtlAccess where
  path : Path
  addr : BitVec 32
  width : Nat := 4
deriving DecidableEq, Repr

/-- A Town Hall access through the reservoir aperture. -/
structure ApertureAccess where
  die : DieId
  core : CoreId
  addr : BitVec 40
  width : Nat
  data : Option (List Byte)
deriving DecidableEq, Repr

/-- A write that reaches the program store (R161, R162): a word through SEQ_PS_DATA, a whole program that firmware loads, or
the fallback program that the compiler has supplied for a model's epoch (R382), which firmware keeps. -/
inductive StoreWrite where
  | word (path : Path) (die : DieId) (block : BlockId) (v : BitVec 32)
  | program (bytes : List Byte)
  | fallback (model : Fin 64) (bytes : List Byte)
deriving DecidableEq, Repr

/-- What reaches a base die or sets out for one (R198): the access at a place of the list of those on their way to a
stack, or a Town Hall's access through the aperture. -/
inductive RsvArrival where
  | queued (stack : StackId) (n : Nat)
  | aperture (a : ApertureAccess)
deriving DecidableEq, Repr

/-- An apply group (R334), whose APPLY is written. -/
inductive ApplyGroup where
  | pumpRing (die : DieId) (block : BlockId) (pump : PumpId)
  | square (die : DieId) (block : BlockId)
  | placement (die : DieId)
  | share (stack : StackId)
  | aqueduct (g : Fin 64)
  | barrier (head : HeadId) (slot : Fin 64)
  | model
  | timer (die : DieId) (core : CoreId)
  | point
deriving DecidableEq, Repr

/-! ## Links, frames and flits -/

/-- A link that replays: a street link by the square that receives and the bit of its port, or a bridge lane by the port
that sends. -/
inductive LinkId where
  | street (die : DieId) (blk : BlockId) (link : Fin 5)
  | bridge (die : AnyDie) (port : Fin 4) (lane : Fin 64)
deriving DecidableEq, Repr

/-- An aqueduct, by its global number. -/
abbrev AqdId := Fin 64

/-- A laser input of a head. -/
inductive LaserInput where
  | a | b
deriving DecidableEq, Repr

/-- What happens to a codeword pair (R225, R227): this end finds it bad, with the corrected or uncorrectable symbols on each
lane, whether FEC fails or a CRC-32C; the far end's NACK names it; or a pair that this end has refused arrives again. -/
inductive PairEvent where
  | found (symbols : Vector Nat 8) (uncorrectable : Bool)
  | named (pair : Fin 65536) (crc : Bool)
  | again
deriving DecidableEq, Repr

/-- What link-control flits bring with an acknowledgement (R221, R226): the symbols that FEC has corrected on each lane since the one before; credits returned for VC0 to VC7; ISOLATED announced or withdrawn;
whether a time-service time stamp is among them. -/
structure LinkMsg where
  corrected : List Nat := []
  credits : List Nat := []
  isolated : Option Bool := none
  time : Bool := false
deriving DecidableEq, Repr

/-- What a HELLO of the far end says (R253). -/
structure HelloMsg where
  fa : Fin 65536
  aqd : AqdId
  verMin : Nat
  verMax : Nat
  edition : Nat
deriving DecidableEq, Repr

/-- Where a frame arrives, the addresses of its header (R235), and the aqueduct of the head that it comes by; none where it
comes over the package. -/
structure FrameHdr where
  head : HeadId
  dst : Fin 65536
  src : Fin 65536
  link : Option (Fin 8) := none
deriving DecidableEq, Repr

/-- A window frame: its VC (1 to 4), window, generation and offset. -/
structure WindowHdr where
  vcM1 : Fin 4
  window : Fin 4096
  gen : Fin 65536
  offset : Fin 1048576
deriving DecidableEq, Repr

/-- Window frames travel on VC 1 to 4 (R239). -/
def WindowHdr.vc (w : WindowHdr) : Nat := w.vcM1.val + 1

/-- What returns a credit to a fountain (R156): the VC buffer of a block's square, or a window of a device. -/
inductive CreditFrom where
  | square (die : DieId) (block : BlockId) (vc : Fin 8)
  | window (fa : Fin 65536) (window : Fin 4096) (gen : Fin 65536)
deriving DecidableEq, Repr

/-- An express flit (R239): where it arrives, its destination, stamp and destination die. -/
structure ExpressHdr where
  head : HeadId
  dst : Fin 65536
  stamp : BitVec 32
  die : AnyDie
  link : Option (Fin 8) := none
deriving DecidableEq, Repr

/-- What a frame and an express flit have in common as they arrive; `src` is the SRC of the one or the STAMP of the other. -/
structure Arrival where
  head : Nat
  dst : Nat
  src : Nat
  die : Nat := 0
  link : Option Nat := none
deriving DecidableEq, Repr

/-- The arrival of a frame. -/
def FrameHdr.arrival (h : FrameHdr) : Arrival := { head := h.head, dst := h.dst, src := h.src, link := h.link.map Fin.val }

/-- The arrival of an express flit. -/
def ExpressHdr.arrival (h : ExpressHdr) : Arrival :=
  { head := h.head, dst := h.dst, src := h.stamp.toNat, die := h.die, link := h.link.map Fin.val }

/-- An ACK record (R243). -/
structure AckRecord where
  window : Fin 4096
  offset : Fin 1048576
  lenM1 : Fin 4096
  status : Fin 16
  gen : Fin 65536
deriving DecidableEq, Repr

/-- A discovery record (R254). -/
structure DiscoveryRecord where
  fa : Fin 65536
  verMin : Nat
  verMax : Nat
  edition : Nat
  flags : Nat
  capacity : Nat
  identity : List Byte
  models : List Byte
deriving DecidableEq, Repr

/-- What is dropped and counted: an express flit with an operation that R240 does not list, or a BARRIER flit of a type or slot
that R260 does not; a frame of VC6 with an unknown subtype or service code (R333). `args` are the flit's arguments. -/
inductive DropEvent where
  | express (hdr : ExpressHdr) (eop : Byte) (args : Vector Byte 52)
  | control
deriving DecidableEq, Repr

/-! ## Clients and devices -/

/-- The connection of a client (R293, R298): a stream of an HTTP/2 connection on an Ethernet aqueduct, with the SHA-512 of
its certificate or its PSK identity; or a front end's frame with its tenant tag. -/
inductive ClientConn where
  | http (aqd : AqdId) (conn stream : Nat) (identity : List Byte)
  | fabric (hdr : FrameHdr) (tenant : Fin 65536)
deriving DecidableEq, Repr

/-- The KV that a model's step program keeps for one position on this device (R208, R213): its K and V vectors of 128
elements, and whether they are FP16 or BF16. No table gives it: it is the program's (log entry 99). -/
structure KvShape where
  vectors : Nat := 0
  fp16 : Bool := false
deriving DecidableEq, Repr

/-- A request as it arrives: the bytes of its record, and the KV that its model's program keeps. -/
structure RequestIn where
  bytes : List Byte
  kv : KvShape := {}
deriving DecidableEq, Repr

/-- A span assignment as this model lays it out (R305; log entry 111): positions, and the request that they are of. -/
structure HoldSpan where
  first : Nat
  count : Nat
  tenant : Nat := 0
  reqId : Nat := 0
  model : Nat := 0
  epoch : Nat := 0
  conv : Nat := 0
  ttl : Nat := 0
  kv : KvShape := {}
deriving DecidableEq, Repr

/-- A HOLD frame (R305): this device asks another to hold a span of a slot's positions, or is asked. -/
inductive HoldMsg where
  | send (slot : Fin 65536) (fa : Fin 65536) (first count : Nat)
  | arrive (hdr : FrameHdr) (slot : Fin 65536) (span : HoldSpan)
deriving DecidableEq, Repr

/-- Request state as MIGRATE frames carry it (R304), in this model's layout (log entry 111), with the KV as it has arrived in
windows: the full form of all positions, or nothing. -/
structure MigrateMsg where
  slot : Fin 65536
  tenant : Nat
  record : List Byte
  tokens : List Nat
  emitted : Nat
  epoch : Nat
  alt : Bool := false
  deadline : Option Nat
  counts : List (Nat × Nat)
  prompts : List (Nat × Nat) := []
  kv : KvShape
  data : List Byte := []
deriving DecidableEq, Repr

/-- A page of weights: half a sub-bank of a block's cistern, or a page of the reservoir (R279). -/
inductive PageRef where
  | cistern (die : DieId) (block : BlockId) (half : Fin 64)
  | reservoir (page : Fin 393216)
deriving DecidableEq, Repr

/-- What comes of the reads of a shard (R276): its bytes; a read of one piece of 1 MiB fails; or what a recipient is to receive
does not come. -/
inductive ShardArrival where
  | read (bytes : List Byte)
  | failed (piece : Nat)
deriving DecidableEq, Repr

/-- What the candidates of a page repair deliver from outside the cistern (R283): whether reads of the ground copy fail
parity, the page as a peer sends it, the page as the source holds it. -/
structure RepairEnv where
  groundFails : Bool := false
  peer : Option (Fin 65536 × List Byte) := none
  source : Option (List Byte) := none
deriving DecidableEq, Repr

/-- What a page request names (R283, R333). -/
structure PageMsg where
  modelId : BitVec 64
  epoch : BitVec 32
  page : BitVec 32
  window : Fin 65536
  gen : Fin 65536
deriving DecidableEq, Repr

/-- The way a tenant entry comes: a frame of a partner, or a mailbox message with its stamp (R333). -/
inductive TenantRoute where
  | frame (hdr : FrameHdr)
  | mailbox (stamp : BitVec 32)
deriving DecidableEq, Repr

/-- A GROUP_FORM (R256): this device, as master, begins to form a group, or one arrives. -/
inductive GroupFormMsg where
  | start (num edition : Nat) (members : List (Fin 65536))
  | arrive (hdr : FrameHdr) (num gen edition : Nat) (members : List (Fin 65536))
deriving DecidableEq, Repr

/-- A place where a junction temperature is sampled: a district of a compute die, or an edge die (R362). -/
inductive ThermalPlace where
  | district (die : DieId) (n : Fin 4)
  | edge (n : Fin 16)
deriving DecidableEq, Repr

/-- A rail that leaves its transient bound (R356, R357, R375). -/
inductive RailId where
  | vcore (die : DieId) (district : Fin 4)
  | vcoreEdge (n : Fin 16)
  | vhall (die : DieId)
  | vrsv (stack : StackId)
  | vph (head : HeadId)
deriving DecidableEq, Repr

/-- The regions of the configuration flash as a boot reads them (R342, R343). -/
structure Flash where
  config : List Byte
  blob : List Byte
  slotA : List Byte
  slotB : List Byte
deriving DecidableEq, Repr

/-- What a boot meets: Town Halls and blocks that fail their self-tests, the flash where it answers, dies whose copy of
the HALL section fails its digest (R344, R350). -/
structure BootEnv where
  badHalls : List DieId := []
  badBlocks : List (DieId × BlockId) := []
  flash : Option Flash := none
  badCopies : List DieId := []
deriving DecidableEq, Repr

/-- A piece of a live update (R389): the image is supplied, or the next die or head takes it; `copyFails` where the die's
copy fails its digest twice. -/
inductive UpdateInput where
  | image (bytes : List Byte)
  | next (copyFails : Bool)
deriving DecidableEq, Repr

end Sys2Proof.Machine
end

