-- ==== Sys2Proof/Machine/Eaf.lean ====
section
/-! DEFINITION. Machine/Eaf: the exact accumulation format, its deposits, its rounding, and its storage and transport
forms (03_canonical_reduction.md). -/

namespace Sys2Proof.Machine

/-- An EAF word (R51): `v` times 2^-149, four sticky flags and the count of deposits. -/
structure EafWord where
  v : Int := 0
  nan : Bool := false
  pinf : Bool := false
  ninf : Bool := false
  ovf : Bool := false
  partials : Nat := 0
deriving DecidableEq, Repr

/-- The cleared word (R58). -/
def eafZero : EafWord := {}

/-- The largest value of V (R51). -/
def eafMax : Int := Int.ofNat (pow2 319) - 1
/-- The smallest value of V (R51). -/
def eafMin : Int := - Int.ofNat (pow2 319)

/-- PARTIALS saturates at 2^48 - 1 (R51). -/
def satPartials (n : Nat) : Nat := min n (pow2 48 - 1)

/-- V and OVERFLOW after an exact value is added (R53): out of range sets OVERFLOW and V becomes the limit of the
overflow's direction; while OVERFLOW is set V stays. -/
def eafAddV (w : EafWord) (x : Int) : EafWord :=
  let t := w.v + x
  if w.ovf then w
  else if t > eafMax then { w with v := eafMax, ovf := true }
  else if t < eafMin then { w with v := eafMin, ovf := true }
  else { w with v := t }

/-- Deposit of an FP32 value (R52). -/
def eafDepF (w : EafWord) (x : Nat) : EafWord :=
  let w := { w with partials := satPartials (w.partials + 1) }
  match val32 x with
  | .nan => { w with nan := true }
  | .inf neg => if neg then { w with ninf := true } else { w with pinf := true }
  | .fin neg m e => eafAddV w (signedMag neg (m <<< (e + 149).toNat))

/-- Deposit of an EAF word (R52). -/
def eafDepW (w x : EafWord) : EafWord :=
  let y := eafAddV w x.v
  { v := y.v, nan := w.nan || x.nan, pinf := w.pinf || x.pinf, ninf := w.ninf || x.ninf,
    ovf := y.ovf || x.ovf, partials := satPartials (w.partials + x.partials) }

/-- The FP32 value of a word (R54): the value, whether rule 2 made a NaN event, and whether a finite V became an
infinity (counted by R38). -/
def eafRound (w : EafWord) : NumRes × Bool :=
  if w.nan then ({ val := nan32, gen := false }, false)
  else if w.pinf && w.ninf then ({ val := nan32, gen := true }, false)
  else if w.pinf then ({ val := pinf32, gen := false }, false)
  else if w.ninf then ({ val := ninf32, gen := false }, false)
  else if w.ovf then ({ val := inf32 (decide (w.v < 0)), gen := false }, false)
  else
    let r := if w.v = 0 then 0 else packF 8 23 (decide (w.v < 0)) w.v.natAbs (-149)
    ({ val := r, gen := false }, isInf32 r)

/-- Limb `j` of V (R51). -/
def eafLimb (v : Int) (j : Nat) : Nat := bits (unsigned 320 v) (64 * j) 64

/-- TOP (R56): the smallest limb index whose sign extension gives every limb above. -/
def eafTop (v : Int) : Nat :=
  ((List.range 5).find? fun t =>
    (List.range 5).all fun j =>
      decide (j ≤ t) || decide (eafLimb v j = if bit (eafLimb v t) 63 then pow2 64 - 1 else 0)).getD 4

/-- The lowest limb carried (R56): the lowest that is not zero, or TOP where V is zero. -/
def eafLow (v : Int) : Nat :=
  ((List.range 5).find? fun j => decide (eafLimb v j ≠ 0)).getD (eafTop v)

/-- The EAF header (the table of R56). -/
def eafHeader (w : EafWord) : Nat :=
  let top := eafTop w.v
  let count := top - eafLow w.v + 1
  b2n w.nan + 2 * b2n w.pinf + 4 * b2n w.ninf + 8 * b2n w.ovf + (top <<< 8) + (count <<< 12) + (w.partials <<< 16)

/-- The low `n` bytes of a number, least significant first (R4). -/
def leBytes : Nat → Nat → List (BitVec 8)
  | 0, _ => []
  | n + 1, x => BitVec.ofNat 8 x :: leBytes n (x / 256)

/-- The number that bytes spell, least significant first (R4). -/
def ofLeBytes : List (BitVec 8) → Nat
  | [] => 0
  | b :: bs => b.toNat + 256 * ofLeBytes bs

/-- The 48 bytes of the storage form (R55). -/
def eafStorage (w : EafWord) : List (BitVec 8) := leBytes 40 (unsigned 320 w.v) ++ leBytes 8 (eafHeader w)

/-- The flags and the count that a header carries. -/
def eafOfHeader (h : Nat) (v : Int) : EafWord :=
  { v := v, nan := bit h 0, pinf := bit h 1, ninf := bit h 2, ovf := bit h 3, partials := bits h 16 48 }

/-- A word read back from storage form; TOP and COUNT are ignored (R55). -/
def eafOfStorage (bs : List (BitVec 8)) : EafWord :=
  eafOfHeader (ofLeBytes (bs.drop 40)) (signed 320 (ofLeBytes (bs.take 40)))

/-- The bytes of the transport form (R56): the header and limbs from the lowest carried to TOP. -/
def eafTransport (w : EafWord) : List (BitVec 8) :=
  let lo := eafLow w.v
  leBytes 8 (eafHeader w) ++
    ((List.range (eafTop w.v - lo + 1)).map fun k => leBytes 8 (eafLimb w.v (lo + k))).flatten

/-- What stands at a place of a row of packed transport words (R57). -/
inductive TransportItem where
  | word (w : EafWord) (size : Nat)
  | finish
  | malformed
deriving DecidableEq, Repr

/-- Reads one transport word from the bytes that are left of a row (R56, R57). Fewer than eight bytes left end the
row. -/
def eafOfTransport (bs : List (BitVec 8)) : TransportItem :=
  let h := ofLeBytes (bs.take 8)
  let top := bits h 8 3
  let count := bits h 12 3
  if bs.length < 8 ∨ h = 0 then .finish
  else if bits h 4 4 ≠ 0 ∨ bit h 11 ∨ bit h 15 ∨ top > 4 ∨ count = 0 ∨ count > 5 ∨ count > top + 1
      ∨ 8 * (count + 1) > bs.length then .malformed
  else
    let body := ofLeBytes ((bs.drop 8).take (8 * count)) <<< (64 * (top + 1 - count))
    .word (eafOfHeader h (signed (64 * (top + 1)) body)) (8 * (count + 1))

end Sys2Proof.Machine
end

