-- ==== Sys2Proof/Machine/Mem.lean ====
section
/-! DEFINITION. Machine/Mem: sparse maps and byte memories, and the named operations over them. A byte memory is a
list of (address, byte) cells in one canonical form: addresses strictly rising, and no cell that holds what its address
reads as unlisted. An unlisted address reads as zero where a zero-fill has covered it, and elsewhere as a free value:
its contents are indeterminate (R10, R126; log entry 4). -/

namespace Sys2Proof.Machine

/-! ## Sparse maps -/

/-- The entry of a key, if listed. -/
def mget {α : Type} : SMap α → Nat → Option α
  | [], _ => none
  | (i, x) :: m, k => if k = i then some x else mget m k

/-- The entry of a key, or what an unlisted key reads as. -/
def mgetD {α : Type} (m : SMap α) (k : Nat) (d : α) : α := (mget m k).getD d

/-- The map with an entry put at its place in the order. -/
def mset {α : Type} : SMap α → Nat → α → SMap α
  | [], k, v => [(k, v)]
  | (i, x) :: m, k, v =>
    if k < i then (k, v) :: (i, x) :: m
    else if k = i then (k, v) :: m
    else (i, x) :: mset m k v

/-- The map without a key's entry. -/
def mdel {α : Type} (m : SMap α) (k : Nat) : SMap α := m.filter fun e => e.1 != k

/-- The map with the entries of a range of keys removed. -/
def mdelRange {α : Type} (m : SMap α) (lo n : Nat) : SMap α := m.filter fun e => e.1 < lo || lo + n ≤ e.1

/-- The keys of a map rise strictly. -/
def mapWf {α : Type} (m : SMap α) : Bool := (m.map Prod.fst).Pairwise (· < ·)

/-! ## Sets of addresses: rising, disjoint half-open intervals -/

/-- The address lies in one of the intervals. -/
def ivHas (l : List (Nat × Nat)) (a : Nat) : Bool := l.any fun p => p.1 ≤ a && a < p.2

/-- The intervals with `[lo, hi)` taken away. -/
def ivSub (lo hi : Nat) (l : List (Nat × Nat)) : List (Nat × Nat) :=
  if hi ≤ lo then l
  else l.flatMap fun p => [(p.1, min p.2 lo), (max p.1 hi, p.2)].filter fun q => q.1 < q.2

/-- The intervals with `[lo, hi)` added, merged with those it touches. -/
def ivAdd (lo hi : Nat) (l : List (Nat × Nat)) : List (Nat × Nat) :=
  if hi ≤ lo then l
  else
    let touch := l.filter fun p => p.1 ≤ hi && lo ≤ p.2
    let a := touch.foldl (fun m p => min m p.1) lo
    let b := touch.foldl (fun m p => max m p.2) hi
    (l.filter fun p => p.2 < lo) ++ (a, b) :: (l.filter fun p => hi < p.1)

/-- The intervals are not empty, rise, and do not touch. -/
def ivWf (l : List (Nat × Nat)) : Bool := l.all (fun p => decide (p.1 < p.2)) && decide (l.Pairwise fun p q => p.2 < q.1)

/-! ## Byte memories -/

/-- A byte memory: its listed cells and the address ranges that a zero-fill has covered. -/
structure Mem where
  cells : List Host.Cell := []
  zeroed : List (Nat × Nat) := []
deriving DecidableEq, Repr

/-- What an unlisted address holds for certain: zero where a zero-fill covered it, nothing elsewhere. -/
def memKnown (m : Mem) (a : Nat) : Option Byte := if ivHas m.zeroed a then some 0 else none

/-- The canonical form of a byte memory (log entry 4): addresses rise, no cell holds what its address reads as unlisted,
and the intervals are in their own canonical form. -/
def Mem.wf (m : Mem) : Bool :=
  mapWf m.cells && m.cells.all (fun c => memKnown m c.1 != some c.2) && ivWf m.zeroed

/-- One byte; `epoch` and `unit` name the free value of a byte that is indeterminate (log entry 4). -/
def memByte (epoch unit : Nat) (m : Mem) (a : Nat) : Byte :=
  ((mget m.cells a).or (memKnown m a)).getD (Config.indetByte epoch unit a)

/-- The cells of the addresses from `a` on, below `a + n`. -/
def memSlice (m : Mem) (a n : Nat) : List Host.Cell := m.cells.filter fun c => a ≤ c.1 && c.1 < a + n

/-- `n` bytes from address `a` on. -/
def memRead (epoch unit : Nat) (m : Mem) (a n : Nat) : List Byte :=
  let s : Mem := { cells := memSlice m a n, zeroed := m.zeroed }
  (List.range n).map fun i => memByte epoch unit s (a + i)

/-- The bytes to list for a run of writes: `none` leaves a byte as it stands. -/
def mergeCells : List Host.Cell → Nat → List (Option Byte) → List Host.Cell
  | _, _, [] => []
  | old, a, o :: os =>
    let keep := (mget old a).toList
    ((o.toList ++ keep).take 1).map (fun b => (a, b)) ++ mergeCells old (a + 1) os

/-- Writes with byte enables from address `a` on; the canonical form is kept. -/
def memWriteOpt (m : Mem) (a : Nat) (bs : List (Option Byte)) : Mem :=
  let n := bs.length
  let mid := (mergeCells (memSlice m a n) a bs).filter fun c => memKnown m c.1 != some c.2
  { m with cells := (m.cells.filter fun c => c.1 < a) ++ mid ++ (m.cells.filter fun c => a + n ≤ c.1) }

/-- Writes bytes from address `a` on. -/
def memWrite (m : Mem) (a : Nat) (bs : List Byte) : Mem := memWriteOpt m a (bs.map some)

/-- A zero-fill of `n` bytes from `a` on. -/
def memZero (m : Mem) (a n : Nat) : Mem :=
  { cells := m.cells.filter fun c => c.1 < a || a + n ≤ c.1, zeroed := ivAdd a (a + n) m.zeroed }

/-- The contents of `n` bytes from `a` on are lost: they read as indeterminate. -/
def memForget (m : Mem) (a n : Nat) : Mem :=
  { cells := m.cells.filter fun c => c.1 < a || a + n ≤ c.1, zeroed := ivSub a (a + n) m.zeroed }

/-- The little-endian number of `n` bytes from `a` on (R4). -/
def memNat (epoch unit : Nat) (m : Mem) (a n : Nat) : Nat := ofLeBytes (memRead epoch unit m a n)

/-- Splits bytes into groups of `w` and reads each as a little-endian number. -/
def groupLe (w : Nat) : Nat → List Byte → List Nat
  | 0, _ => []
  | n + 1, bs => ofLeBytes (bs.take w) :: groupLe w n (bs.drop w)

end Sys2Proof.Machine
end

