-- ==== Sys2Proof/Machine/Types.lean ====
section
/-! DEFINITION. Machine/Types: the records that the tables of a block program spell (headers, bundles, tile
descriptors, chain programs, pump descriptors), and the records of work in flight. Plain data. -/

namespace Sys2Proof.Machine

/-- The fields of a step program header that the device acts on (R159). -/
structure StepHdr where
  lockstep : Bool := false
  strict : Bool := false
  nanHalt : Bool := false
  zeroFill : Bool := false
  slip : Nat := 0
  startGate : Nat := 0
  units : Nat := 0
  watchdogUs : Nat := 0
  cisBanks : Nat := 0
  wellBanks : Nat := 0
  programId : Nat := 0
deriving DecidableEq, Repr

/-- A unit header (R160). -/
structure UnitHdr where
  home : Nat := 0
  index : Nat := 0
  bundles : Nat := 0
  tiles : Nat := 0
  chains : Nat := 0
  descs : Nat := 0
  cisLines : Nat := 0
  wideRows : Nat := 0
  homeWide : Nat := 0
  narrowRows : Nat := 0
  entries : Nat := 0
  rowtab : Nat := 0
  codeOff : Nat := 0
  tileOff : Nat := 0
  chainOff : Nat := 0
  descOff : Nat := 0
deriving DecidableEq, Repr

/-- The segment bases of a unit slot (the unit-slot registers of R163). -/
structure UnitBase where
  ps : Nat := 0
  cis : Nat := 0
  wide : Nat := 0
  narrow : Nat := 0
  entry : Nat := 0
deriving DecidableEq, Repr

/-- The formats that arrays take (TFMT and AFMT of R73, in code order). -/
def arrayFmt : Nat → Fmt
  | 0 => .bf16 | 1 => .fp16 | 2 => .lns16 | _ => .lns8

/-- A tile descriptor (R73). -/
structure TileDesc where
  tfmt : Fmt
  store : Nat        -- 0 plain, 1 INT4, 2 INT3, 3 INT2
  scale : Bool       -- EXP_KIND
  cbFmt : Fmt
  expLoad : Bool
  expSlot : Nat
  fromWell : Bool    -- SRC
  column : Bool
  epochAlt : Bool
  gen : Nat
  afmt : Fmt
  tenant : Nat
  img0 : Nat
  exp0 : Nat
  img1 : Nat
  exp1 : Nat
deriving DecidableEq, Repr

/-- The matrix slot of a bundle (R171). -/
structure MatrixSlot where
  tile : Nat
  treg : Nat
  vcount : Nat
  areg : Nat
  actOff : Nat
  actStride : Nat
  actGen : Nat
  rreg : Nat
  rowOff : Nat
  entry : Nat
  klen : Nat
  tail : Nat
  first : Bool
  sealing : Bool
  tag : Nat
deriving DecidableEq, Repr

/-- The vector slot of a bundle. -/
structure VectorSlot where
  chain : Nat
  iter : Nat
  genOffset : Nat
  rreg : Nat
  rowOff : Nat
deriving DecidableEq, Repr

/-- A pump slot of a bundle. -/
structure PumpSlot where
  desc : Nat
  genOffset : Nat
deriving DecidableEq, Repr

/-- The operations of the control slot (R172). -/
inductive Cop where
  | nop
  | end_
  | loop (count len : Nat)
  | gsig (gate die add : Nat) (remote : Bool) (fareg : Nat)
  | gwait (gate : Nat)
  | gset (gate value : Nat) (rel : Bool)
  | fence (mask : Nat)
  | eclr (acc count : Nat)
  | edepb (entry count acc : Nat)
  | edepw (reg off gen qtr qcnt acc : Nat)
  | edeps (reg off gen msh acc count : Nat)
  | edept (reg off gen msh acc count : Nat)
  | ernd (reg off gen qtr acc count : Nat)
  | ests (reg off gen acc count : Nat)
  | estt (reg off gen acc count : Nat)
deriving DecidableEq, Repr

/-- The operations of the address slot (R170). -/
inductive Aop where
  | set (reg imm : Nat)
  | add (reg imm : Nat)
  | sethi (reg imm : Nat)
  | mov (reg imm : Nat)
deriving DecidableEq, Repr

/-- A decoded bundle (R167). -/
structure Bundle where
  matrix : Option MatrixSlot
  vector : Option VectorSlot
  pumpA : Option PumpSlot
  pumpB : Option PumpSlot
  control : Cop
  address : Option Aop
  delta : Nat
deriving DecidableEq, Repr

/-- The slots of a bundle, in their order of issue. -/
inductive SlotId where
  | matrix | vector | pumpA | pumpB | control | address
deriving DecidableEq, Repr

/-- The kinds of a stream (R90). -/
inductive StreamKind where
  | wide | basin | lookup | eaf | narrow
deriving DecidableEq, Repr

/-- The lane modes of a stream (R93). -/
inductive LaneMode where
  | contig | repeat64 | quarter | scalar
deriving DecidableEq, Repr

/-- A stream descriptor (R90). -/
structure Stream where
  kind : StreamKind
  fmt : Fmt
  lane : LaneMode
  gen : Nat
  fill : Bool
  base : Nat
  index : Nat
  offset : Nat
  stride : Int
deriving DecidableEq, Repr

/-- An operation word of a chain (R91). -/
structure ChainOp where
  opc : Nat
  dst : Nat
  a : Nat
  b : Nat
  c : Nat
  pred : Nat
  pneg : Bool
  imm : Nat
deriving DecidableEq, Repr

/-- A chain program (R89): streams S0 to S3 and O0, O1, and the operations. -/
structure Chain where
  streams : List (Option Stream)
  qstep : Nat
  tstep : Nat
  tag : Nat
  ops : List ChainOp
deriving DecidableEq, Repr

/-- The operations of a pump (R131). -/
inductive PumpOp where
  | copy | gather | scatter | unskew16 | skew16
deriving DecidableEq, Repr

/-- A pump endpoint (R132), its base register already added. -/
inductive Endpoint where
  | ownWell (addr : Nat)
  | package (die block addr : Nat)
  | cistern (addr : Nat)
  | reservoir (addr : Nat)
  | window (fa win off : Nat)
  | fountain (head list off : Nat)
deriving DecidableEq, Repr

/-- A pump descriptor (R131). -/
structure PumpDesc where
  op : PumpOp
  sfmt : Fmt
  dfmt : Fmt
  logOff : Int
  sbase : Option Nat
  dbase : Option Nat
  sgen : Nat
  scheck : Bool
  dgen : Nat
  dmark : Bool
  vc : Nat
  src : Endpoint
  dst : Endpoint
  sstride : Int
  dstride : Int
  len : Nat
  rows : Nat
  wgen : Nat
  gate : Nat
  gateDie : Nat
  gateFa : Nat
  gateEn : Bool
  gateRemote : Bool
  idxAddr : Nat
  idxGen : Nat
  idxCheck : Bool
  tag : Nat
deriving DecidableEq, Repr

/-- The interlock causes of R177, with the codes that slip records carry. -/
inductive Cause where
  | mark | basin | gate | bank | replay | tile | refresh | queue | fence | start | retry | droop | spacing
deriving DecidableEq, Repr

/-- The cause code of R177. -/
def Cause.code : Cause → Nat
  | .mark => 0 | .basin => 1 | .gate => 2 | .bank => 3 | .replay => 4 | .tile => 5 | .refresh => 6 | .queue => 7
  | .fence => 8 | .start => 9 | .retry => 10 | .droop => 11 | .spacing => 12

/-- What a waiting unit waits for. -/
inductive WaitOn where
  | wideMark (row gen : Nat)
  | narrowMark (row gen : Nat)
  | basin (entry : Nat)
  | gate (die gate : Nat)
  | repairLine (line : Nat)
  | chainQueue
  | pumpQueue (b : Bool)
  | other
deriving DecidableEq, Repr

/-- A wait of a unit: its cause and what it waits for. -/
structure Wait where
  cause : Cause
  on : WaitOn
deriving DecidableEq, Repr

/-- The kind of a row or entry in a fault record (R191). -/
inductive EntryKind where
  | none | basin | wide | narrow
deriving DecidableEq, Repr

/-- The fault codes of R192. -/
inductive FaultCode where
  | decode | segment | bankClass | bankDown | overtaken | windowClosed | remoteTimeout | reservoir | cistern
  | formatMismatch | sealCount | unsealedDeposit | gateUnderflow | gateOverflow | gateOwner | deadlock | slip
  | nanHalt | abortRemote
deriving DecidableEq, Repr

/-- The number of a fault code (R192). -/
def FaultCode.code : FaultCode → Nat
  | .decode => 0x01 | .segment => 0x02 | .bankClass => 0x03 | .bankDown => 0x04 | .overtaken => 0x05
  | .windowClosed => 0x06 | .remoteTimeout => 0x07 | .reservoir => 0x08 | .cistern => 0x09
  | .formatMismatch => 0x0A | .sealCount => 0x0B | .unsealedDeposit => 0x0C | .gateUnderflow => 0x0D
  | .gateOverflow => 0x0E | .gateOwner => 0x0F | .deadlock => 0x10 | .slip => 0x11 | .nanHalt => 0x12
  | .abortRemote => 0x13

/-- The class of a fault code (R192): what the serving engine does after the abort. -/
inductive FaultClass where
  | program | retry | numeric
deriving DecidableEq, Repr

/-- The class column of R192. -/
def FaultCode.cls : FaultCode → FaultClass
  | .bankDown | .windowClosed | .remoteTimeout | .reservoir | .cistern | .deadlock | .abortRemote => .retry
  | .nanHalt => .numeric
  | _ => .program

/-- A fault with its identity fields (R191); step, die and cycle are added where it is recorded. -/
structure FaultEv where
  code : FaultCode
  unit : Nat
  block : Nat
  bundle : Nat
  cycle : Nat
  kind : EntryKind := .none
  entry : Nat := 0
  row : Option Nat := none
  tag : Nat := 0
  aux : Nat := 0
deriving DecidableEq, Repr

/-- A NaN event (R39, R40): whether admitted, its unit, block, step cycle, batch row and identity. -/
structure NanEv where
  admitted : Bool
  unit : Nat
  block : Nat
  cycle : Nat
  row : Nat
  bundle : Nat
  basin : Bool      -- the entry is a basin entry
  narrow : Bool
  entry : Nat
  tag : Nat
deriving DecidableEq, Repr

/-- A loaded tile in a weight plane: its format and the weights, `w[n][k]` for output column `n`. -/
structure PlaneTile where
  fmt : Fmt
  weights : List (List Nat)
  tenant : Nat
  epochAlt : Bool
deriving DecidableEq, Repr

/-- A tile load in progress (R76): the bundle whose pass needs it, the descriptor, the plane, and what is left to do.
The rows of a well tile are read one after another, each when its fill mark allows (R79). -/
structure TileLoad where
  bundle : Nat
  tile : Nat
  desc : TileDesc
  alt : Bool
  rowBase : Nat
  tag : Nat
  vcount : Nat
  plane : Nat
  nextRow : Nat
  rows : Nat
  lines : List (List Byte)     -- lines read so far
  expLines : List (List Byte)
  repairs : List Nat           -- lines waiting for their ground copy (R113)
  ready : Bool
  wait : Option Wait
deriving DecidableEq, Repr

/-- A pass in flight (R68): its fields, the vectors that have entered the arrays, and the entries done. -/
structure PassRun where
  seq : Nat
  bundle : Nat
  slot : Nat
  start : Nat         -- elapsed cycle of the die at which vector 0 enters: that of the issue, later by every stall (R68)
  desc : TileDesc
  plane : PlaneTile
  vcount : Nat
  actBase : Nat
  actStride : Nat
  actGen : Nat
  rowBase : Nat
  entry : Nat         -- first basin entry, segment base added
  klen : Nat
  tail : Nat
  first : Bool
  sealing : Bool
  tag : Nat
  entered : Nat       -- vectors of each array that have been read
  vectors : List (List (List Nat))   -- for each vector that entered and is not complete, the four arrays' elements
  stopped : Bool      -- an activation read faulted: no more vectors enter (R193)
  done : Nat          -- entries complete
  masked : List Nat   -- vectors whose tenant differs from the tile's (R82)
  faulted : Bool      -- a seal fault has been raised
  wait : Option Wait
deriving DecidableEq, Repr

/-- A basin entry of one array (R49, R70): `none` is an indeterminate value. -/
structure BasinEntry where
  value : Option (List Nat)
  counter : Nat
  sealBit : Bool
deriving DecidableEq, Repr

/-- A void entry (R70). -/
def voidEntry : BasinEntry := { value := none, counter := 256, sealBit := false }

/-- A chain that runs or is queued (R103). -/
structure ChainRun where
  seq : Nat
  bundle : Nat
  slot : Nat
  chain : Chain
  iters : Nat
  next : Nat
  genOffset : Nat
  rowBase : Nat
  bases : List Nat     -- the address registers at issue
  mask : Nat           -- the active mask in force at issue (R303, R105)
  halted : Bool        -- an iteration faulted (R193)
  wait : Option Wait
deriving DecidableEq, Repr

/-- A vector store that has not landed (R96): the row's bytes with enables, and the mark to set. -/
structure VecStore where
  addr : Nat
  bytes : List (Option Byte)
  mark : Option (Bool × Nat × Nat)   -- narrow?, row, generation
  lastOfChain : Bool
  bundle : Nat                       -- the bundle, TAG and batch row of the chain that formed it
  tag : Nat
  row : Nat
deriving DecidableEq, Repr

/-- An EAF operation of a bundle, queued in issue order (R102, R173). -/
structure EafOp where
  seq : Nat
  bundle : Nat
  slot : Nat
  cop : Cop
  row : Nat            -- first wide row of the run, unit address
  progress : Nat       -- rows handled
  taken : Nat          -- words taken or placed
  wait : Option Wait
deriving DecidableEq, Repr

/-- A piece of pump data on its way to its destination (R136, R137): the source bytes in parts, each with the identifier
of the read that brings it where it has not arrived; the destination; and the marks to set once it and every earlier
store of its queue have landed. A piece without parts only sets marks. -/
structure PumpPiece where
  no : Nat                               -- place in the order of issue of the device's pieces (R137)
  rid : Nat
  row : Nat                              -- transfer row
  parts : List (Nat × Option (List Byte))
  dst : Option Endpoint
  marks : List (Nat × Nat × Nat × Nat)   -- (die, block, wide row of that block, generation)
  sent : Bool                            -- handed to a base die, head or fountain
  landed : Bool
deriving DecidableEq, Repr

/-- A descriptor in a pump queue, and its progress (R130). -/
structure PumpItem where
  desc : PumpDesc
  serial : Nat         -- numbers the descriptor among all of the device
  index : Nat          -- table index, or ring entry index
  ring : Bool
  bundle : Nat
  slot : Nat
  genOffset : Nat
  started : Bool := false
  row : Nat := 0       -- transfer row to be read next
  at_ : Nat := 0       -- elements of that row read so far
  idx : Nat := 0       -- the index that this row uses, once read
  idxFrom : Nat := 0   -- own-well address of the index bytes read last, and those bytes (R140)
  idxBytes : List Byte := []
  slots : List (List Byte) := []    -- slots or vectors that a skew operation has read (R135)
  pieces : List PumpPiece := []
  openRow : Option (Nat × Nat × Nat) := none     -- the last destination wide row written, where it is not marked yet
  marked : List (Nat × Nat × Nat) := []          -- destination wide rows marked (R136)
  failed : Bool := false
  refusedBy : Option (FaultCode × Nat) := none   -- a refusal, with its transfer row, that ends it when it completes (R158)
  wait : Option Wait := none
  merged : Option (Nat × Nat × Nat) := none      -- the read that its next read has merged into, the die and square (R154)
deriving DecidableEq, Repr

/-- A pump (R130): direct queue, sluice and the ring descriptor in service. -/
structure Pump where
  direct : List PumpItem := []
  sluice : List PumpItem := []
  ring : List PumpItem := []
deriving DecidableEq, Repr

/-- An open loop (R174): first bundle of the body, its length, passes left. -/
structure LoopFrame where
  start : Nat
  len : Nat
  left : Nat
deriving DecidableEq, Repr

/-- Where control stands in a unit: bundle index, open loops, address registers. -/
structure SeqPos where
  pc : Nat := 0
  loops : List LoopFrame := []
  regs : List Nat := [0, 0, 0, 0, 0, 0, 0, 0]
deriving DecidableEq, Repr

/-- The states of a block in a step (R166, R127). -/
inductive SeqPhase where
  | idle        -- no step has started in the block
  | waiting     -- waits for its start gate, the start tally having passed (R181)
  | armed       -- its start condition is met before the start tally (R181)
  | filling     -- step zero-fill runs (R127)
  | between     -- the next unit slot has not started
  | running     -- a unit runs
  | ended       -- the unit's END has issued; its operations drain
  | done
deriving DecidableEq, Repr

/-- A sequencer (R166 to R170, R181 to R185). -/
structure Sequencer where
  phase : SeqPhase := .idle
  slot : Nat := 0
  pos : SeqPos := {}
  issuing : List SlotId := []        -- slots of the bundle in issue that have not been performed
  lastIssue : Nat := 0               -- step cycle of the last issue, or of the unit's start
  fresh : Bool := true               -- no bundle of the unit has issued
  cycle : Nat := 0                   -- step cycle
  held : Option Wait := none         -- why the next bundle is held
  gateOpen : Bool := false           -- the gate it waited on has released it (R179)
  heldSince : Nat := 0               -- elapsed cycles of the die when the hold or stall began
  holdCause : Option Cause := none   -- the cause of the hold or stall, for the slip record
  holds : List (Cause × Nat) := []   -- holds it has raised since its last issue, with their elapsed cycles (R189)
  raising : Bool := false            -- this block's raise line (R183)
  frozen : Bool := false
  lead : Nat := 0
  resumeAt : Option Nat := none      -- resume tally of the release sent to it while frozen (R185)
  thawed : Nat := 0                  -- cycles passed since that tally
  nextPlane : Nat := 0
  lastPass : Option (Nat × Nat) := none   -- block cycle (DIE_STEP_ELAPSED) and VCOUNT of the last pass
  passed : Bool := false             -- a pass of the unit has issued (R76)
deriving DecidableEq, Repr

/-- A repair of a cistern line from its ground copy (R113). -/
structure Repair where
  line : Nat
  reader : Nat         -- 0 tile loader, 1 pump, 2 scrubber
  tries : Nat
deriving DecidableEq, Repr

/-- A digest-scrub run (R282). -/
structure ScrubRun where
  line : Nat
  left : Nat
  dest : Nat
deriving DecidableEq, Repr

/-- One block: its memories and the state of its units (R14). -/
structure Block where
  ps : Mem := {}                       -- program store (R161)
  cistern : Mem := {}                  -- 128 MiB (R107)
  well : Mem := {}                     -- 8 MiB by well byte address (R115)
  wideMarks : SMap Nat := []           -- filled wide rows and their generation; unlisted is clear (R119)
  narrowMarks : SMap Nat := []
  seq : Sequencer := {}
  issueNo : Nat := 0                   -- counts issued operations, for their order
  planes : SMap PlaneTile := []
  load : Option TileLoad := none
  expSlots : Mem := { zeroed := [(0, 131072)] }   -- 32 slots of 4 KiB, cleared (R75)
  basins : SMap BasinEntry := []       -- array × 1,024 + entry; unlisted is void (R70)
  passes : List PassRun := []
  quartetWait : Option Wait := none
  temps : SMap (List Nat) := []        -- T0 to T15; unlisted is all zero (R88)
  preds : SMap (List Bool) := []       -- P1 to P3; unlisted is false
  chains : List ChainRun := []         -- running, then queued
  stores : List VecStore := []
  accs : SMap EafWord := []            -- 64 accumulators; unlisted is cleared (R58)
  eafQueue : List EafOp := []
  pumpA : Pump := {}
  pumpB : Pump := {}
  mask : Nat := 0                      -- the active mask (R303)
  maskLoads : List (Nat × Nat) := []   -- masks read at layer marks, and the step cycles they take effect (R303)
  debt : SMap Nat := []                -- refresh debt of a sub-bank in lines (R109)
  group : SMap Nat := []               -- next refresh group of a sub-bank
  action : SMap (Bool × Nat) := []     -- a refresh action in progress: whether forced, and its cycles left (R109, R110)
  claims : List Nat := []              -- sub-banks where a claim waits for a forced action (R110)
  repairs : List Repair := []
  scrub : Option ScrubRun := none
  zeroLeft : Option (Bool × Nat × Nat) := none   -- ranged zero-fill: narrow?, first row, count (R128)
deriving DecidableEq, Repr

end Sys2Proof.Machine
end

