-- ==== Sys2Proof/Machine/FabTypes.lean ====
section
/-! DEFINITION. Machine/FabTypes: the records of the reservoir stacks, the aqueduct heads and the fabric transactions
that are in flight. Plain data. -/

namespace Sys2Proof.Machine

/-- What the device sends out of itself, and what firmware learns: kinds of the records in `Dev.out`. -/
inductive EmitKind where
  | gateOp | gateAck | ack | creditReq | credit | readReq | readResp | writeFrame | mbxPart | mbxAck | barrierArrive
  | barrierRelease | abortFrame | cancelFrame | hello | discovery | roster | groupForm | groupJoin | groupCommit
  | ctlRead | ctlWrite | ctlResp | service | hold | holdAck | released | migrate | relay
  | tokenRecord | endRecord | cancelResult | refusal | ethFrame | ethSend | ppsOut | heartbeat | healthMsg | attestResponse
  | linkAck | linkNack | linkCredit | linkTime | laneMap | isolated | coreFault | readData | laneMapChange | i3cData | i3cNack | i3cInterrupt | tdo | loadResult | pageData | storageRead | snapshotDone | boundary | expressFlit
deriving DecidableEq, Repr

/-- One record sent: its kind, its numbers in the order its sender names them, and its bytes. A frame or express flit also
has its VC, the SRC or STAMP that the sending head writes (R241), the DST_DIE of a flit, the codeword pair in which it goes
out (R220), and the retry flag of a replay (R225). -/
structure Emit where
  kind : EmitKind
  nums : List Nat := []
  bytes : List Byte := []
  vc : Nat := 0
  src : Nat := 0
  die : Nat := 0
  pair : Nat := 0
  retry : Bool := false
deriving DecidableEq, Repr

/-- The identity that a gate fault of a signal is recorded with (R179): the issuing block or pump, its bundle and step
cycle, and the gate. `step` is true where a bundle of the step issued it (R194). -/
structure SignalId where
  die : Nat
  block : Nat
  unit : Nat
  bundle : Nat
  cycle : Nat
  tag : Nat
  aux : Nat
  step : Bool
deriving DecidableEq, Repr

/-- Who made a request, and so who receives its answer. -/
inductive Origin where
  | pump (die block : Nat) (b : Bool) (rid : Nat)
  | repair (die block : Nat)
  | core (die core : Nat)
  | signal (s : SignalId)
  | coreGate (die : Nat)
  | buffer (addr : Nat)
  | window (id : Nat)
  | send (id off : Nat)
  | fountain (head frame target : Nat)
  | firmware
deriving DecidableEq, Repr

/-- An access to the reservoir (R198): a read, or a write with its bytes. `ring` where it is checked as a ring
descriptor's; `seq` numbers accepted accesses and fences in their order. -/
structure RsvAcc where
  addr : Nat
  len : Nat
  data : Option (List Byte)
  vc : Nat
  ring : Bool
  origin : Origin
  seq : Nat := 0
deriving DecidableEq, Repr

/-- A reservoir stack: accesses on their way to its base die, accesses accepted and not yet performed, in order (R202),
and page entry writes that wait as fences (R199). -/
structure Stack where
  arriving : List RsvAcc := []
  accepted : List RsvAcc := []
  fences : List (Nat × Nat × Word) := []   -- local page, place in the order, entry
deriving DecidableEq, Repr

/-- What a transaction waits for (R249). -/
inductive TxnKind where
  | write (fa win gen off len : Nat)
  | read (fa win gen off len : Nat)
  | gate (xid : Nat)
  | mbx (xid : Nat)
deriving DecidableEq, Repr

/-- An outstanding transaction of this device: the head that sent it, its origin and the tally when it was sent. -/
structure Txn where
  head : Nat
  kind : TxnKind
  origin : Origin
  start : Nat
deriving DecidableEq, Repr

/-- Credits that a remote window has granted to a head of this device (R247), the XID of a request that waits for its answer,
and whether a snapshot has kept a request back (R266). -/
structure SendCredit where
  head : Nat
  fa : Nat
  win : Nat
  gen : Nat
  have_ : Nat
  asked : Option Nat := none
  kept : Bool := false
deriving DecidableEq, Repr

/-- A credit request that waits at a window of this device (R247). -/
structure CreditWait where
  fa : Nat
  head : Nat
  xid : Nat
  gen : Nat
  wanted : Nat
  die : Nat := 0
deriving DecidableEq, Repr

/-- A window read that is accepted and not answered (R248): the frame it answers, and whether its bytes lie in wells: then the
pump that reads, the rows that are in error; else their first reservoir address, the segments read so far, and whether a segment
has been refused (R202). `id` is its place in the order of what is accepted. -/
structure WinRead where
  id : Nat
  head : Nat
  src : Nat
  vc : Nat
  win : Nat
  gen : Nat
  off : Nat
  addr : Nat
  len : Nat
  well : Bool := false
  pumpB : Bool := false
  bad : List BadRead := []
  got : List (Nat × List Byte) := []
  refused : Bool := false
deriving DecidableEq, Repr

/-- A write accepted at a head that has not landed (R244); `seq` is its place in the order of what is accepted. -/
structure Accepted where
  seq : Nat
  head : Nat
  src : Nat
  win : Nat
  gen : Nat
  off : Nat
  vc : Nat
  bytes : List Byte
deriving DecidableEq, Repr

/-- A window of this device (R242): its state (0 CLOSED, 1 OPEN, 2 CLOSING), the settings that the last OPEN applied,
the credits granted and not landed, by sender, and the heads that have reported drained (R245). -/
structure Window where
  state : Nat := 0
  gen : Nat := 0
  target : Nat := 0
  size : Nat := 0
  wr : Bool := false
  rd : Bool := false
  ring : Bool := false
  pool : Nat := 1
  granted : SMap Nat := []
  waiting : List CreditWait := []
  drained : List Nat := []
  held : List Nat := []      -- the slots of snapshots that have set its HOLD (R266, R269)
deriving DecidableEq, Repr

/-- A frame of a fountain (R156): the descriptor it belongs to, where it goes, and which targets it has been offered to
and delivered to. -/
structure FtnFrame where
  id : Nat
  die : Nat
  block : Nat
  pumpB : Bool
  rid : Nat               -- the pump's piece of data, or 0 for a relayed frame
  relay : Option Nat      -- the relay entry that handed it over (R264)
  desc : Nat              -- frames with one number belong to one descriptor
  list : Nat
  off : Nat
  wgen : Nat
  vc : Nat
  bytes : List Byte
  delivered : List Bool := []
  offered : List Bool := []
  since : Nat := 0        -- tally of its acceptance
deriving DecidableEq, Repr

/-- What a fountain keeps of a descriptor from its first frame on (R155, R158): the entries' numbers and 64 bits, and
the targets that have refused it. -/
structure FtnDesc where
  targets : List Nat
  entries : List Nat
  refused : List Bool
deriving DecidableEq, Repr

/-- What grants a fountain credits (R156): the VC buffer of a block's square, or a window. -/
inductive FtnPlace where
  | square (die : Nat) (block : Nat) (vc : Nat)
  | window (fa : Nat) (win : Nat) (gen : Nat)
deriving DecidableEq, Repr

/-- A fountain: frames that wait to be accepted, frames held, descriptors in progress, credits of squares, stalls raised by
descriptor and target. -/
structure Fountain where
  incoming : List FtnFrame := []
  held : List FtnFrame := []
  descs : SMap FtnDesc := []
  credits : List (FtnPlace × Nat) := []
  stalled : List (Nat × Nat) := []
  lastCredit : List (FtnPlace × Nat) := []   -- tally at which a credit of the target was last used or returned (R157)
deriving DecidableEq, Repr

/-- An aqueduct besides its registers: lanes in its map, lanes whose own laser input or far end withdrew them, lanes
lost in traffic since the last map (R219, R228, R229); training (R218); error counts held back (R227); the pair whose
replay failed last and how often in a row (R226); a planned lane-map change (R228); what has been sent and not
acknowledged, and what waits (R222, R226); the link credits that the far end has granted, by VC; the codeword pairs of
both directions, counted from a number at a tally (R220); the negotiated version (R253). -/
structure Aqd where
  map : Nat := 0
  ownLaser : Nat := 0
  farLaser : Nat := 0
  lost : Nat := 0
  since : Nat := 0                       -- tally at which the training state began
  mapped : Bool := false                 -- the lane-map exchange of this training has given a map
  emptyFrom : Option Nat := none         -- tally at which an empty lane map began its wait
  greeted : Bool := false                -- the HELLO of this training is done
  noVersion : Bool := false              -- the ends share no version
  helloAt : Nat := 0                     -- tally of the HELLO sent last (R253)
  held : List (Nat × Nat) := []          -- lane and tally of a count held back
  replays : Nat × Nat := (0, 0)
  change : Option (Nat × Nat) := none    -- lanes and pair
  unacked : List Emit := []
  express : List Emit := []              -- express flits that wait for room in the replay buffer
  waiting : SMap (List Emit) := []       -- frames that wait, by VC (R222)
  credits : SMap Nat := []               -- frames that the far end still takes, by VC (R222)
  shares : SMap Nat := []                -- slots that each VC has had of the 256 that run, with what it owes of those before
  window : Nat := 0                      -- slots of those 256 that have gone (R222)
  outPair : Nat := 0                     -- the pair that went out at tally `outAt`
  outAt : Nat := 0
  inPair : Nat := 0                      -- the pair that came in at tally `inAt`
  inAt : Nat := 0
  refusing : Option Nat := none          -- the pair that a NACK has named and that has not arrived again (R225)
  got : SMap Nat := []                   -- frames received and not yet returned as credits, by VC (R221)
  ackAt : Nat := 0                       -- tally of the last acknowledgement sent (R226)
  peerIsolated : Bool := false           -- the far end has announced ISOLATED (R215)
  down : Bool := false                   -- an Ethernet aqueduct whose lanes leave no rate: it stays in EQ (R232)
  pause : Nat := 0                       -- tally until which priority 3 is paused (R231)
  version : Nat := 0
deriving DecidableEq, Repr

/-- What an Ethernet port has learnt of its addresses (R234): how far its DHCPv4 client has come (0 not begun, 1 offers awaited, 2 an
acknowledgement awaited) and with which transaction, the address leased with its prefix length, the gateway, and the addresses
that SLAAC has formed. -/
structure PortNet where
  stage : Nat := 0
  xid : Nat := 0
  lease : Option (Nat × List Byte) := none
  gw : Option (List Byte) := none
  slaac : List (List Byte) := []
deriving DecidableEq, Repr

/-- The laser inputs of a head (R217): low samples in a row, whether lost, the tally since which the power has been
sufficient; and the aqueducts still to be re-admitted with their lanes (R229). -/
structure LaserIn where
  low : Nat := 0
  lost : Bool := false
  okSince : Option Nat := none
  readmit : List Nat := []
deriving DecidableEq, Repr

/-- The first part of a mailbox message that waits for its second (R251). -/
structure MbxHalf where
  stamp : Nat
  xid : Nat
  die : Nat
  mailbox : Nat
  part : Nat
  bytes : List Byte
deriving DecidableEq, Repr

/-- The message that a mailbox holds: whom to answer, and the tally of its delivery (R341). -/
structure MbxHeld where
  fa : Nat
  die : Nat := 0
  xid : Nat
  at_ : Nat
deriving DecidableEq, Repr

/-- What a partner's discovery record says (R254), and the tally when it was last heard. -/
structure Partner where
  fa : Nat
  verMin : Nat
  verMax : Nat
  edition : Nat
  flags : Nat
  capacity : Nat
  identity : List Byte
  models : List Byte
  heard : Nat
  aqd : Nat
deriving DecidableEq, Repr

/-- A collective group as this device knows it (R256): as master it collects the joins. -/
structure Group where
  num : Nat
  gen : Nat
  edition : Nat
  members : List Nat
  wanted : List Nat := []                  -- the members that the forming master was given
  formed : List Nat := []                  -- those of them that were there when this generation was formed
  joined : List (Nat × Nat × Nat) := []    -- fabric address, lowest and highest version
  committed : Bool := false
  version : Nat := 0
  master : Nat := 0
deriving DecidableEq, Repr

/-- What a barrier slot holds besides its registers (R259, R260): the children that have arrived for the current and the
next sequence, and what their payloads combine to. -/
structure BarSlot where
  cur : List Nat := []
  next : List Nat := []
  curPay : Nat := 0
  nextPay : Nat := 0
deriving DecidableEq, Repr

/-- What a relay entry has counted (R264): bytes its window has received, and whether it has signalled. -/
structure Relay where
  bytes : Nat := 0
  signalled : Bool := false
deriving DecidableEq, Repr

/-- Where a snapshot of a group stands at this member (R266). -/
inductive SnapPhase where
  | waved                     -- arrived for wave 1
  | draining (from_ : Nat)    -- wave 1 released at this tally
  | arrived                   -- arrived for wave 2
deriving DecidableEq, Repr

/-- A snapshot in progress: its barrier slot, by head × 64 + slot, the slot's group, and where it stands (R266). -/
structure Snapshot where
  slot : Nat
  group : Nat
  phase : SnapPhase
deriving DecidableEq, Repr

end Sys2Proof.Machine
end

