-- ==== Sys2Proof/Machine/Wire.lean ====
section
/-! DEFINITION. Machine/Wire: frames and express flits as they lie on the fibre (R235 to R241, R260, R299, R333): the bytes
of what is sent, and the fields of what is received. -/

namespace Sys2Proof.Machine

/-! ## CRC-32C (R238) -/

/-- One bit of the CRC, reflected. -/
def crcStep (c : Nat) : Nat := if c % 2 = 1 then (c / 2) ^^^ 0x82F63B78 else c / 2

/-- One byte of the CRC. -/
def crcAdd (c : Nat) (b : Byte) : Nat := (List.range 8).foldl (fun c _ => crcStep c) (c ^^^ b.toNat)

/-- CRC-32C of a byte string. -/
def crc32c (bs : List Byte) : Nat := bs.foldl crcAdd 0xFFFFFFFF ^^^ 0xFFFFFFFF

/-- Bytes with their CRC-32C behind them. -/
def withCrc (bs : List Byte) : List Byte := bs ++ leBytes 4 (crc32c bs)

/-! ## Headers (R235 to R237) -/

/-- The fields of the fabric form; `mid` is bits [95:48]: window, generation and offset, or SUB and ARG. -/
structure FabricHeader where
  kind : Nat
  lenM1 : Nat
  dst : Nat
  src : Nat
  mid : Nat
deriving DecidableEq, Repr

/-- The header's 16 bytes. -/
def FabricHeader.bytes (h : FabricHeader) : List Byte :=
  withCrc (leBytes 12 (h.kind % 16 + h.lenM1 % 4096 * pow2 4 + h.dst % 65536 * pow2 16 + h.src % 65536 * pow2 32
    + h.mid % pow2 48 * pow2 48))

/-- The middle of a window frame's header. -/
def windowMid (window gen offset : Nat) : Nat := window + gen * pow2 12 + offset * pow2 28

/-- The middle of the header of KIND 0xC to 0xE. -/
def subMid (sub arg : Nat) : Nat := sub + arg * pow2 8

/-- Reads a fabric-form header; none where its CRC fails or it is of the package form. -/
def parseFabric (bs : List Byte) : Option FabricHeader :=
  let x := ofLeBytes (bs.take 12)
  if bs.length < 16 ∨ ofLeBytes ((bs.drop 12).take 4) ≠ crc32c (bs.take 12) ∨ bits x 0 4 = 15 then none
  else some { kind := bits x 0 4, lenM1 := bits x 4 12, dst := bits x 16 16, src := bits x 32 16, mid := bits x 48 48 }

/-- The VC that a KIND fixes (R236); the package form holds its own. -/
def kindVc (kind : Nat) : Nat := if kind < 12 then kind % 4 + 1 else kind - 7

/-- The fields of the package form (R237). -/
structure PackageHeader where
  pop : Nat
  vc : Nat
  lenM1 : Nat
  dstDie : Nat
  dstUnit : Nat
  srcDie : Nat
  srcUnit : Nat
  addr : Nat
  mark : Option Nat := none
  tag : Nat := 0
deriving DecidableEq, Repr

/-- The header's 16 bytes. -/
def PackageHeader.bytes (h : PackageHeader) : List Byte :=
  withCrc (leBytes 12 (15 + h.pop % 4 * pow2 4 + h.vc % 8 * pow2 6 + h.lenM1 % 4096 * pow2 9 + h.dstDie % 64 * pow2 21
    + h.dstUnit % 32 * pow2 27 + h.srcDie % 64 * pow2 32 + h.srcUnit % 32 * pow2 38 + h.addr % pow2 40 * pow2 43
    + (match h.mark with
       | some g => pow2 83 + g % 8 * pow2 84
       | none => 0)
    + h.tag % 256 * pow2 87))

/-- Reads a package-form header; none where its CRC fails or it is of the fabric form. -/
def parsePackage (bs : List Byte) : Option PackageHeader :=
  let x := ofLeBytes (bs.take 12)
  if bs.length < 16 ∨ ofLeBytes ((bs.drop 12).take 4) ≠ crc32c (bs.take 12) ∨ bits x 0 4 ≠ 15 then none
  else some
    { pop := bits x 4 2, vc := bits x 6 3, lenM1 := bits x 9 12, dstDie := bits x 21 6, dstUnit := bits x 27 5,
      srcDie := bits x 32 6, srcUnit := bits x 38 5, addr := bits x 43 40,
      mark := if bit x 83 then some (bits x 84 3) else none, tag := bits x 87 8 }

/-! ## Express flits (R239, R240) -/

/-- The fields of an express flit; `args` are bytes [59:8]. -/
structure ExpressFlit where
  dst : Nat
  stamp : Nat
  eop : Nat
  die : Nat
  args : List Byte
deriving DecidableEq, Repr

/-- `n` bytes of a byte string, zeros behind it. -/
def fill (n : Nat) (bs : List Byte) : List Byte := (bs ++ List.replicate n 0).take n

/-- The flit's 64 bytes. -/
def ExpressFlit.bytes (f : ExpressFlit) : List Byte :=
  withCrc (leBytes 2 f.dst ++ leBytes 4 f.stamp ++ leBytes 1 f.eop ++ leBytes 1 (f.die % 64) ++ fill 52 f.args)

/-- Reads an express flit; none where its CRC fails. -/
def parseExpress (bs : List Byte) : Option ExpressFlit :=
  if bs.length < 64 ∨ ofLeBytes ((bs.drop 60).take 4) ≠ crc32c (bs.take 60) then none
  else some { dst := ofLeBytes (bs.take 2), stamp := ofLeBytes ((bs.drop 2).take 4), eop := ofLeBytes ((bs.drop 6).take 1),
              die := ofLeBytes ((bs.drop 7).take 1) % 64, args := (bs.drop 8).take 52 }

/-- An ACK record (R243). -/
def ackBytes (window offset lenM1 status gen : Nat) : List Byte :=
  leBytes 8 (window + offset * pow2 12 + lenM1 * pow2 32 + status * pow2 44 + gen * pow2 48)

/-- ACK records, five numbers each, in order. -/
def ackRecords : List Nat → List (List Byte)
  | w :: o :: l :: s :: g :: rest => ackBytes w o l s g :: ackRecords rest
  | _ => []

/-- The operation and arguments of an express flit that a record stands for (R240, R260, R299), from its numbers after head
and destination. -/
def expressArgs (kind : EmitKind) (nums : List Nat) (bytes : List Byte) : Option (Nat × List Byte) :=
  match kind, nums with
  | .gateOp, [_, _, xid, gate, opc, v] => some (1, leBytes 2 xid ++ leBytes 2 gate ++ leBytes 1 opc ++ leBytes 3 v)
  | .gateAck, [xid, status] => some (2, leBytes 2 xid ++ leBytes 1 status)
  | .ack, l => some (3, leBytes 1 (ackRecords l).length ++ leBytes 3 0 ++ (ackRecords l).flatten)
  | .creditReq, [xid, w, g, n] => some (4, leBytes 2 xid ++ leBytes 2 w ++ leBytes 2 g ++ leBytes 1 n)
  | .credit, [xid, w, g, n] => some (5, leBytes 2 xid ++ leBytes 2 w ++ leBytes 2 g ++ leBytes 1 n)
  | .mbxPart, [_, _, xid, m, part] => some (6, leBytes 2 xid ++ leBytes 1 m ++ leBytes 1 part ++ bytes)
  | .mbxAck, [xid, status] => some (7, leBytes 2 xid ++ leBytes 1 status)
  | .cancelFrame, [req, tenant, slot, k] => some (8, leBytes 8 req ++ leBytes 2 tenant ++ leBytes 2 slot ++ leBytes 1 k)
  | .barrierArrive, [s, g, gen, seq, pay] =>
    some (9, leBytes 1 0 ++ leBytes 1 s ++ leBytes 2 g ++ leBytes 2 gen ++ leBytes 2 seq ++ leBytes 4 pay)
  | .barrierRelease, [s, g, gen, seq, pay] =>
    some (9, leBytes 1 1 ++ leBytes 1 s ++ leBytes 2 g ++ leBytes 2 gen ++ leBytes 2 seq ++ leBytes 4 pay)
  | .abortFrame, [step, g] => some (10, leBytes 8 step ++ leBytes 2 g)
  | .expressFlit, [eop] => some (eop, bytes)
  | _, _ => none

/-! ## Payloads of HOLD and MIGRATE

The spec says what they carry and gives no layout: theirs is the model's (log entry 111). -/

/-- A number of a payload. -/
def wireNat (bs : List Byte) (off n : Nat) : Nat := ofLeBytes ((bs.drop off).take n)

/-- The KV of a position: vectors, and 1 for FP16. -/
def KvShape.bytes (k : KvShape) : List Byte := leBytes 4 k.vectors ++ leBytes 4 (if k.fp16 then 1 else 0)

/-- The KV of a position that stands at a place of a payload. -/
def wireShape (bs : List Byte) (off : Nat) : KvShape := { vectors := wireNat bs off 4, fp16 := wireNat bs (off + 4) 4 % 2 == 1 }

/-- A span assignment in its 56 bytes. -/
def HoldSpan.bytes (s : HoldSpan) : List Byte :=
  leBytes 4 s.first ++ leBytes 4 s.count ++ leBytes 8 s.reqId ++ leBytes 16 s.conv ++ leBytes 4 s.tenant ++ leBytes 4 s.model
    ++ leBytes 4 s.epoch ++ leBytes 4 s.ttl ++ s.kv.bytes

/-- The span assignment of a payload. -/
def parseSpan (bs : List Byte) : HoldSpan :=
  { first := wireNat bs 0 4, count := wireNat bs 4 4, reqId := wireNat bs 8 8, conv := wireNat bs 16 16,
    tenant := wireNat bs 32 4, model := wireNat bs 36 4, epoch := wireNat bs 40 4, ttl := wireNat bs 44 4, kv := wireShape bs 48 }

/-- Pairs of numbers of four bytes each. -/
def pairBytes (l : List (Nat × Nat)) : List Byte := l.flatMap fun p => leBytes 4 p.1 ++ leBytes 4 p.2

/-- `n` pairs at a place of a payload. -/
def wirePairs (bs : List Byte) (off n : Nat) : List (Nat × Nat) :=
  (List.range n).map fun i => (wireNat bs (off + 8 * i) 4, wireNat bs (off + 8 * i + 4) 4)

/-- The state of a request in its bytes: a header of 52, prompts, tokens and counts, the request record. -/
def MigrateMsg.bytes (m : MigrateMsg) : List Byte :=
  leBytes 4 m.tenant ++ leBytes 4 m.epoch ++ leBytes 4 m.emitted ++ leBytes 4 (if m.alt then 1 else 0)
    ++ leBytes 8 (m.deadline.getD (pow2 64 - 1)) ++ m.kv.bytes ++ leBytes 4 m.prompts.length ++ leBytes 4 m.tokens.length
    ++ leBytes 4 m.counts.length ++ leBytes 8 m.record.length
    ++ pairBytes m.prompts ++ m.tokens.flatMap (leBytes 4) ++ pairBytes m.counts ++ m.record

/-- The state of a request from its bytes; none where they are too few. -/
def parseMigrate (slot : Fin 65536) (bs : List Byte) : Option MigrateMsg :=
  let np := wireNat bs 32 4
  let nt := wireNat bs 36 4
  let nc := wireNat bs 40 4
  let nr := wireNat bs 44 8
  let tokens := 52 + 8 * np
  let counts := tokens + 4 * nt
  let record := counts + 8 * nc
  if bs.length < 52 ∨ bs.length < record + nr then none
  else
    let due := wireNat bs 16 8
    some { slot, tenant := wireNat bs 0 4, epoch := wireNat bs 4 4, emitted := wireNat bs 8 4, alt := wireNat bs 12 4 % 2 == 1,
           deadline := if due = pow2 64 - 1 then none else some due, kv := wireShape bs 24, prompts := wirePairs bs 52 np,
           tokens := groupLe 4 nt (bs.drop tokens), counts := wirePairs bs counts nc, record := (bs.drop record).take nr }

/-! ## Frames (R236, R254, R299, R333) -/

/-- The payload of a SERVICE frame by its code (R333). -/
def servicePayload (code : Nat) (nums : List Nat) (bytes : List Byte) : List Byte :=
  match code, nums with
  | 1, [w, g, p] => leBytes 2 w ++ leBytes 2 g ++ leBytes 4 p ++ fill 8 bytes
  | 4, [tag] => fill 32 bytes ++ leBytes 2 tag
  | _, [m, e, p, w, g] => leBytes 8 m ++ leBytes 4 e ++ leBytes 4 p ++ leBytes 2 w ++ leBytes 2 g
  | _, _ => bytes

/-- KIND, bits [95:48] and payload of the frame that a record stands for, from its numbers after head and destination. The
spec gives no layout of the payloads of HOLD, of VC7's HELLO and group frames: theirs are the model's (log entry 102). -/
def frameArgs (vc : Nat) (kind : EmitKind) (nums : List Nat) (bytes : List Byte) : Option (Nat × Nat × List Byte) :=
  match kind, nums with
  | .writeFrame, [v, w, g, off] => some (v - 1, windowMid w g off, bytes)
  | .readReq, [v, w, g, off, _] => some (v + 3, windowMid w g off, [])
  | .readResp, [v, w, g, off] => some (v + 7, windowMid w g off, bytes)
  | .tokenRecord, [seq] | .endRecord, [seq] => some (12, subMid 2 seq, bytes)
  | .cancelResult, [] => some (12, subMid 3 0, bytes)
  | .hold, [n] => some (12, subMid 0x10 n, bytes)
  | .holdAck, [k, refused] => some (12, subMid 0x11 (k + refused * 65536), [])
  | .released, [k] => some (12, subMid 0x12 k, [])
  | .migrate, n :: _ => some (12, subMid 0x13 n, bytes)
  | .relay, [n] => some (12, subMid 0x14 n, bytes)
  | .ctlRead, [a] => some (13, subMid 1 a, [])
  | .ctlWrite, [a] => some (13, subMid 2 a, bytes)
  | .ctlResp, [a, status] => some (13, subMid 3 (a + status * pow2 32), bytes)
  | .service, code :: l =>
    if vc = 5 then some (12, subMid code (l.headD 0), bytes) else some (13, subMid 0x10 code, servicePayload code l bytes)
  | .hello, [fa, g, lo, hi, edn] =>
    some (14, subMid 1 0, leBytes 2 fa ++ leBytes 1 g ++ leBytes 1 lo ++ leBytes 1 hi ++ leBytes 2 edn)
  | .discovery, _ => some (14, subMid 2 0, bytes)
  | .roster, _ => some (14, subMid 3 0, bytes)
  | .groupForm, l => some (14, subMid 4 0, l.flatMap (leBytes 2))
  | .groupJoin, l => some (14, subMid 5 0, l.flatMap (leBytes 2))
  | .groupCommit, l => some (14, subMid 6 0, l.flatMap (leBytes 2))
  | _, _ => none

/-- LEN_M1 of a frame: the bytes asked for by a read, else of its payload. -/
def frameLen (kind : EmitKind) (nums : List Nat) (payload : List Byte) : Nat :=
  match kind, nums with
  | .readReq, [_, _, _, _, n] => n - 1
  | _, _ => payload.length - 1

/-- The bytes of a record on an aqueduct: an express flit, or a frame's header and payload; none for a record that is
neither. -/
def Emit.wire (e : Emit) : Option (List Byte) :=
  match e.nums with
  | _ :: dst :: rest =>
    match expressArgs e.kind rest e.bytes with
    | some (eop, args) => some (ExpressFlit.bytes { dst, stamp := e.src, eop, die := e.die, args })
    | none => (frameArgs e.vc e.kind rest e.bytes).map fun f =>
        FabricHeader.bytes { kind := f.1, lenM1 := frameLen e.kind rest f.2.2, dst, src := e.src, mid := f.2.1 } ++ f.2.2
  | _ => none

/-! ## Codeword pairs (R220) -/

/-- The flit slots that a record takes, each with its tag: an express flit, or the flits of a frame, of which the first is marked. -/
def Emit.slots (e : Emit) : List (Nat × List Byte) :=
  match e.wire with
  | none => []
  | some bs =>
    if 0 < e.vc then (List.range ((bs.length + 63) / 64)).map fun i => (if i = 0 then 3 else 2, fill 64 (bs.drop (64 * i)))
    else [(1, fill 64 bs)]

/-- A link-control flit in its slot. -/
def controlSlot (flit : List Byte) : Nat × List Byte := (0, fill 64 flit)

/-- The slots of a pair (R221): one carries link control, at a place that the spec leaves open, the others what is sent. -/
def pairSlots (place : Nat) (control : List Byte) (l : List (Nat × List Byte)) : List (Nat × List Byte) :=
  l.take (place % 20) ++ controlSlot control :: (l.drop (place % 20)).take (19 - place % 20)

/-- The 10,280 bits of a pair's content: 20 slots of 64 bytes, then 20 tags of 2 bits. -/
def pairContent (l : List (Nat × List Byte)) : Nat :=
  ofLeBytes (l.flatMap fun s => fill 64 s.2) + (List.range l.length).foldl (fun x i => x + ((l[i]?.map Prod.fst).getD 0) % 4 * pow2 (10240 + 2 * i)) 0

/-- The lane that carries a symbol of a pair: round-robin over the lanes of the map. -/
def symbolLane (map i : Nat) : Option Nat :=
  let l := (List.range 8).filter (bit map)
  l[i % l.length]?

end Sys2Proof.Machine
end

