-- ==== Sys2Proof/Syntax.lean ====
section
/-! DEFINITION. Syntax: the commands of the device, one constructor per row of the opcode table, in its order. The table
gives its rows no operands: what a command brings from outside the device are its operands here (log entry 1). -/

namespace Sys2Proof

open Sys2Proof.Machine

/-- A command. -/
inductive Instr where
  /-- POWER_UP (R358): The input rises above 44.0 V and the rails come up in order until MOD_PG rises. -/
  | powerUp (railsOk : Bool)
  /-- INPUT_UNDERVOLTAGE (R358): The input stays below 42.0 V for 100 µs; MOD_PG falls, every rail switches off and all
  state is lost. -/
  | inputUndervoltage
  /-- INPUT_OVERVOLTAGE (R358): The input stays above 60.0 V for 10 µs; MOD_PG falls and every rail switches off. -/
  | inputOvervoltage
  /-- INPUT_BAND_CHANGE (R358): The input enters or leaves the 42–44 V or 58–60 V band, and IN_LOW or IN_HIGH is set. -/
  | inputBandChange (v : BitVec 16)
  /-- MOD_RST_N_RISE (R402): A qualified rise of MOD_RST_N starts boot at stage ROM, with core 0 of each compute die
  released. -/
  | modRstNRise (env : BootEnv)
  /-- MOD_RST_N_FALL (R402): MOD_RST_N stays low for 10 µs and the whole device resets. -/
  | modRstNFall
  /-- BOOT_RETRY (R345): After a failed boot, the boot ROM repeats stage FLASH once per second until an image verifies. -/
  | bootRetry (flash : Option Flash)
  /-- REFERENCE_LOST (R370): REFCLK misses edges for 100 ns or deviates by more than 1,000 ppm; the reference PLL enters
  holdover and time is marked DEGRADED. -/
  | referenceLost
  /-- REFERENCE_RESTORED (R370): REFCLK has been in tolerance for 100 ms; the PLL slews back and HOLDOVER and DEGRADED
  clear. -/
  | referenceRestored
  /-- PPS_IN_EDGE (R398): A rising edge on PPS_IN is timestamped, or ignored if it comes less than 0.5 s after the last
  accepted edge. -/
  | ppsInEdge
  /-- PPS_OUT_PULSE (R373): At each whole second of device time PPS_OUT rises for 100 ms. -/
  | ppsOutPulse
  /-- TEMPERATURE_SAMPLE (R363): A district temperature sample is compared with THROTTLE, RESUME, 102 °C and 108 °C. -/
  | temperatureSample (place : ThermalPlace) (t : BitVec 8)
  /-- CEILING_LOWER (R363): A 1 ms period at or above THROTTLE lowers the district ceiling by one more point. -/
  | ceilingLower (place : ThermalPlace)
  /-- CEILING_RAISE (R363): A 1 ms period at or below RESUME raises the district ceiling by one point. -/
  | ceilingRaise (place : ThermalPlace)
  /-- CEILING_CHANGE (R364): A ceiling change arrives at the coordinator, which chooses the operating point and
  schedules a lowering. -/
  | ceilingChange
  /-- OP_RAISE_ALLOWED (R364): A higher operating point has been allowed for 1 ms, and the coordinator schedules the
  raise. -/
  | opRaiseAllowed
  /-- SUPPLY_CEILING_LOWER (R364): The 1 ms average input power or current exceeds PWR_LIMIT, and the supply ceiling
  drops by one point. -/
  | supplyCeilingLower (watts : BitVec 16) (amps : BitVec 16)
  /-- SUPPLY_CEILING_RAISE (R364): After 10 ms below 95 % of both limits, the supply ceiling rises by one point. -/
  | supplyCeilingRaise (watts : BitVec 16) (amps : BitVec 16)
  /-- OP_APPLY (R367): At the apply tally the operating point group applies with clamping, and every die switches its
  block clock. -/
  | opApply
  /-- VOLTAGE_RAMP_DONE (R367): An IVR ramp reaches its new VCORE target. -/
  | voltageRampDone
  /-- DROOP_STRETCH (R368): The critical-path margin falls below threshold, and die control stretches the die clock and
  raises the hold. -/
  | droopStretch (die : DieId) (n : Fin 4) (deep : Bool) (margin : BitVec 8)
  /-- DROOP_STRETCH_END (R368): A stretch of at most 16 cycles ends and the hold is lowered, or a new stretch starts. -/
  | droopStretchEnd (die : DieId) (again : Option (Fin 4 × Bool × BitVec 8))
  /-- RAIL_ALERT (R357): A rail stays outside its transient bound for 10 µs; PWR_ALERT.RAIL is set and a detected error
  is counted. -/
  | railAlert (rail : RailId)
  /-- TIME_STEP (R371): A write to CLK_TIME_STEP adds signed ns to device time at the next tally edge. -/
  | timeStep (p : Path) (v : Word)
  /-- TIME_RATE (R371): A write to CLK_TIME_RATE sets RATE_ADJ, clamped, at the next tally edge. -/
  | timeRate (p : Path) (v : Word)
  /-- TIME_SOURCE_SILENT (R372): The selected time source has been silent for 3 s, and device time is marked DEGRADED. -/
  | timeSourceSilent
  /-- TALLY_READ (R360): A read of CLK_TALLY_LO latches CLK_TALLY_HI. -/
  | tallyRead (p : Path)
  /-- TIME_READ (R371): A read of CLK_TIME_NS latches the seconds. -/
  | timeRead (p : Path)
  /-- RC_COUNTER_READ (R9): A read of an RC field returns its value and clears it, unless a hardware event sets it in
  the same cycle. -/
  | rcCounterRead (c : CtlAccess)
  /-- REGISTER_WRITE (R9): A control write to a register with no row of its own acts on it by its access codes, landing
  in a shadow for an apply group. -/
  | registerWrite (c : CtlAccess) (v : Word)
  /-- APPLY_ARM (R334): Writing 1 to a group's APPLY arms the apply group. -/
  | applyArm (p : Path) (g : ApplyGroup)
  /-- PUMP_RING_APPLY (R335): The pump ring group applies at an idle cycle with the ring empty, and HEAD and TAIL become
  0. -/
  | pumpRingApply (die : DieId) (b : BlockId) (pump : PumpId)
  /-- SQUARE_RETIRE_APPLY (R144): SQR_RETIRE applies at a step boundary, retiring links. -/
  | squareRetireApply (die : DieId) (b : BlockId)
  /-- PLACEMENT_APPLY (R165): The placement group applies at a step boundary. -/
  | placementApply (die : DieId)
  /-- RESERVOIR_SHARE_APPLY (R200): RSV_SHARE applies at a step boundary, or the defaults apply with SHARE_ERR set. -/
  | reservoirShareApply (stack : StackId)
  /-- AQUEDUCT_CTRL_APPLY (R230): AQD_CTRL applies at the next idle cycle, and a change of ENABLE, MODE or ETH_HALF
  starts a full training. -/
  | aqueductCtrlApply (g : AqdId)
  /-- BARRIER_SLOT_APPLY (R259): A barrier slot group applies at an idle cycle with no arrival. -/
  | barrierSlotApply (h : HeadId) (slot : Fin 64)
  /-- MODEL_TABLE_APPLY (R287): A model table entry applies at the model's step boundary, publishing a new epoch. -/
  | modelTableApply (m : Fin 64) (target : Option (Fin 65536))
  /-- CORE_TIMER_APPLY (R335): The core timer group applies at the timer's next idle cycle. -/
  | coreTimerApply (die : DieId) (core : CoreId)
  /-- REFRESH_TICK (R109): Every 4,882 tally ticks each powered sub-bank's debt grows by 16 lines, and a forced action
  starts where the debt exceeds 64. -/
  | refreshTick (die : DieId) (b : BlockId)
  /-- OPPORTUNISTIC_REFRESH (R110): At the start of an idle window of 8 cycles, a sub-bank with debt starts a refresh
  action. -/
  | opportunisticRefresh (die : DieId) (b : BlockId) (sub : Fin 32)
  /-- REFRESH_ACTION_END (R109): A 6-cycle refresh action ends, reducing the debt and freeing the sub-bank to claims. -/
  | refreshActionEnd (die : DieId) (b : BlockId) (sub : Fin 32)
  /-- GROUND_REPAIR_DONE (R113): The reservoir ground read of a repair returns, and the line is written and served, or
  the repair is retried or fails with CIS_REPAIR_FAIL. -/
  | groundRepairDone (die : DieId) (b : BlockId) (fails : Fin 4) (bad : Bool)
  /-- BANK_POWER_DOWN (R124): Writing 0 to a bank's ON bit powers it down at once and discards its contents. -/
  | bankPowerDown (p : Path) (die : DieId) (b : BlockId) (bank : BankId)
  /-- BANK_WAKE (R124): Writing 1 to a bank's ON bit starts a wake. -/
  | bankWake (p : Path) (die : DieId) (b : BlockId) (bank : BankId)
  /-- BANK_READY (R124): A woken bank sets READY with indeterminate data and clear marks. -/
  | bankReady (die : DieId) (b : BlockId) (bank : BankId)
  /-- MARK_WRITE (R120): A WEL_MARK_CTRL write sets or clears a row's fill mark after earlier Town Hall writes land. -/
  | markWrite (p : Path) (die : DieId) (b : BlockId) (row : BitVec 15) (narrow : Bool) (gen : BitVec 3) (filled : Bool)
  /-- ZERO_RANGE_GO (R128): WEL_ZERO_CTRL.GO starts a ranged zero-fill over WEL_ZERO_RANGE. -/
  | zeroRangeGo (p : Path) (die : DieId) (b : BlockId) (narrow : Bool)
  /-- ZERO_RANGE_DONE (R128): A ranged zero-fill ends, and BUSY and GO clear. -/
  | zeroRangeDone (die : DieId) (b : LandingAt)
  /-- PROGRAM_STORE_WRITE (R161): A SEQ_PS_DATA write lands in the program store, or is ignored with PS_REFUSED during a
  step. -/
  | programStoreWrite (w : StoreWrite)
  /-- START_TALLY (R181): In lockstep mode the start tally is reached, and every block begins step cycle 0 or raises the
  hold with cause START. -/
  | startTally (bad : List (DieId × BlockId × BadRead))
  /-- BLOCK_STEP_START (R181): The die's start gate reaches threshold, and the block begins its step, starting zero-fill
  where the header requests it. -/
  | blockStepStart (die : DieId) (b : BlockId) (bad : List BadRead)
  /-- ZERO_FILL_DONE (R127): The 512-cycle step zero-fill ends, and step cycle 0 begins. -/
  | zeroFillDone (die : DieId) (b : BlockId) (bad : List BadRead)
  /-- UNIT_START (R166): Every operation of the ending unit has completed, and the next unit slot starts after a
  16-cycle state reset. -/
  | unitStart (die : DieId) (b : BlockId)
  /-- BLOCK_DONE (R166): Every operation of the block's last unit has completed, and DONE sets. -/
  | blockDone (die : DieId) (b : BlockId)
  /-- PASS (R68): A matrix slot PASS issues VCOUNT vectors per array through the quartet against the loaded tile. -/
  | pass (die : DieId) (b : BlockId) (env : WellEnv)
  /-- ENTRY_COMPLETE (R71): A basin entry completes in all 64 columns; the seal check is made and the counter and sealed
  bit are updated. -/
  | entryComplete (die : DieId) (b : BlockId) (bad : List BadRead)
  /-- TILE_LOAD_START (R76): The tile loader starts reading the next tile, with its expansion records, at the issue of
  the preceding pass. -/
  | tileLoadStart (die : DieId) (b : BlockId) (errs : List LineErr) (env : WellEnv)
  /-- TILE_READY (R76): The last line of a tile is granted, and the pass that needs it may issue. -/
  | tileReady (die : DieId) (b : BlockId)
  /-- QUARTET_STALL_END (R72): The wait of a stalled pass ends, and the frozen passes resume on the same relative
  cycles. -/
  | quartetStallEnd (die : DieId) (b : BlockId) (env : WellEnv)
  /-- FILL_MARK_WAIT_END (R119): A consumer stalled on a fill mark sees the expected generation and proceeds. -/
  | fillMarkWaitEnd (die : DieId) (b : BlockId) (unit : Consumer) (env : PumpEnv)
  /-- READ_REPLAY (R121): A read that met a write on one row replays in the next cycle and returns the new data. -/
  | readReplay (die : DieId) (b : BlockId) (unit : Consumer)
  /-- CHAIN_ISSUE (R103): A vector slot with VEN issues a chain to the chain queue. -/
  | chainIssue (die : DieId) (b : BlockId) (env : WellEnv)
  /-- CHAIN_ITERATION (R103): The vector engine issues one chain iteration per interval, reading its input streams once. -/
  | chainIteration (die : DieId) (b : BlockId) (env : WellEnv)
  /-- VECTOR_STORE_LAND (R96): An iteration's output stores land, and fill marks are set where FILL = 1. -/
  | vectorStoreLand (die : DieId) (b : LandingAt)
  /-- NOP (R172): Control operation with no effect. -/
  | nop (die : DieId) (b : BlockId) (env : WellEnv)
  /-- END (R172): Ends the unit after this bundle. -/
  | end_ (die : DieId) (b : BlockId) (env : WellEnv)
  /-- LOOP (R174): Runs the following LEN bundles COUNT times. -/
  | loop (die : DieId) (b : BlockId) (env : WellEnv)
  /-- GSIG (R172): Adds ADD_M1 + 1 to a gate, locally or remotely by an express gate operation. -/
  | gsig (die : DieId) (b : BlockId) (env : WellEnv)
  /-- GWAIT (R172): Holds the bundle until the gate's count reaches its threshold. -/
  | gwait (die : DieId) (b : BlockId) (env : WellEnv)
  /-- GSET (R172): Sets or raises a gate threshold. -/
  | gset (die : DieId) (b : BlockId) (env : WellEnv)
  /-- FENCE (R172): Holds the bundle until the earlier operations of the selected units complete. -/
  | fence (die : DieId) (b : BlockId) (env : WellEnv)
  /-- ECLR (R172): Clears a range of EAF accumulators. -/
  | eclr (die : DieId) (b : BlockId) (env : WellEnv)
  /-- EDEPB (R172): Deposits sealed basin entries into EAF accumulators. -/
  | edepb (die : DieId) (b : BlockId) (env : WellEnv)
  /-- EDEPW (R172): Deposits FP32 elements of well row quarters. -/
  | edepw (die : DieId) (b : BlockId) (env : WellEnv)
  /-- EDEPS (R173): Deposits EAF words in storage form. -/
  | edeps (die : DieId) (b : BlockId) (env : WellEnv)
  /-- EDEPT (R173): Deposits EAF words in transport form. -/
  | edept (die : DieId) (b : BlockId) (env : WellEnv)
  /-- ERND (R172): Rounds accumulators to FP32 into a well row. -/
  | ernd (die : DieId) (b : BlockId) (env : WellEnv)
  /-- ESTS (R173): Stores accumulators as storage-form words. -/
  | ests (die : DieId) (b : BlockId) (env : WellEnv)
  /-- ESTT (R173): Stores accumulators as transport-form words. -/
  | estt (die : DieId) (b : BlockId) (env : WellEnv)
  /-- ADDR_SET (R170): Address slot SET: A[REG] ← IMM. -/
  | addrSet (die : DieId) (b : BlockId) (env : WellEnv)
  /-- ADDR_ADD (R170): Address slot ADD: A[REG] += sign-extended IMM. -/
  | addrAdd (die : DieId) (b : BlockId) (env : WellEnv)
  /-- ADDR_SETHI (R170): Address slot SETHI: sets bits [31:24] of A[REG]. -/
  | addrSethi (die : DieId) (b : BlockId) (env : WellEnv)
  /-- ADDR_MOV (R170): Address slot MOV: A[REG] ← A[IMM[2:0]] + offset. -/
  | addrMov (die : DieId) (b : BlockId) (env : WellEnv)
  /-- DESCRIPTOR_ISSUE (R130): A pump slot with PEN enqueues a bundle descriptor to the pump's direct queue or sluice. -/
  | descriptorIssue (die : DieId) (b : BlockId) (pump : PumpId) (env : WellEnv)
  /-- RING_DOORBELL (R129): A write to PMP_RING_TAIL makes new ring descriptors available to the pump. -/
  | ringDoorbell (p : Path) (die : DieId) (b : BlockId) (pump : PumpId) (tail : BitVec 12)
  /-- COPY (R133): The pump starts a COPY descriptor, moving strided transfer rows. -/
  | copy (die : DieId) (b : BlockId) (pump : PumpId) (env : PumpEnv)
  /-- GATHER (R133): The pump starts a GATHER descriptor, indexing source rows. -/
  | gather (die : DieId) (b : BlockId) (pump : PumpId) (env : PumpEnv)
  /-- SCATTER (R133): The pump starts a SCATTER descriptor, indexing destination rows. -/
  | scatter (die : DieId) (b : BlockId) (pump : PumpId) (env : PumpEnv)
  /-- UNSKEW16 (R135): The pump converts the ZT16 skewed layout to vectors. -/
  | unskew16 (die : DieId) (b : BlockId) (pump : PumpId) (env : PumpEnv)
  /-- SKEW16 (R135): The pump converts vectors to the ZT16 skewed layout. -/
  | skew16 (die : DieId) (b : BlockId) (pump : PumpId) (env : PumpEnv)
  /-- PUMP_WRITE_LAND (R136): A pump write lands at its destination, setting the destination fill mark where due. -/
  | pumpWriteLand (die : DieId) (b : LandingAt) (pump : PumpId) (queue : QueueId)
  /-- DESCRIPTOR_COMPLETE (R138): Every write of a descriptor has landed or been acknowledged, and its gate is
  signalled. -/
  | descriptorComplete (die : DieId) (b : BlockId) (pump : PumpId) (queue : QueueId)
  /-- READ_MERGE (R154): A pump read request reaching a square merges into an identical outstanding request. -/
  | readMerge (sq : SquareAt) (m : MergeEvent)
  /-- LINK_RETRY (R147): A bridge or street lane refuses a flit on a parity or CRC error, and the sender replays from
  it. -/
  | linkRetry (link : LinkId) (crc : Bool) (waiter : Option (DieId × BlockId))
  /-- BRIDGE_LANE_RETIRE (R381): A DIE_BRG_RETIRE write with GO retires a bridge lane in both directions. -/
  | bridgeLaneRetire (p : Path) (die : AnyDie) (port : Fin 4) (lane : Fin 64)
  /-- BRIDGE_STATE_CHANGE (R215): A bridge goes up or down, making a stack or head reachable or unreachable and setting
  or withdrawing ISOLATED. -/
  | bridgeStateChange (die : AnyDie) (port : Fin 4) (up : Bool)
  /-- FOUNTAIN_FRAME_ACCEPT (R156): The fountain accepts a frame and offers it to every target with a credit. -/
  | fountainFrameAccept (h : HeadId)
  /-- FOUNTAIN_ACCEPTANCE (R156): A target's acceptance sets its delivered bit, releasing the frame when the bitmap is
  full. -/
  | fountainAcceptance (h : HeadId) (frame : Nat) (target : Fin 64)
  /-- FOUNTAIN_CREDIT_RETURN (R156): A target returns credit, and the fountain re-offers held frames to that target. -/
  | fountainCreditReturn (h : HeadId) (target : CreditFrom) (n : Fin 65)
  /-- FNT_STALL (R157): A target has had no credit for FNT_TIMEOUT, and the stall is recorded once. -/
  | fntStall (h : HeadId) (frame : Nat) (target : Fin 64)
  /-- FOUNTAIN_TARGET_REFUSED (R158): A window target answers NACK WINDOW_CLOSED and is marked refused. -/
  | fountainTargetRefused (h : HeadId) (frame : Nat) (target : Fin 64)
  /-- FNT_ENTRY_COMMIT (R155): A write to FNT_ENTRY_HI commits the selected target entry. -/
  | fntEntryCommit (p : Path) (h : HeadId) (v : Word)
  /-- FNT_LIST_COMMIT (R155): A write to FNT_LIST commits the selected target list. -/
  | fntListCommit (p : Path) (h : HeadId) (first : BitVec 13) (countM1 : BitVec 6) (valid : Bool)
  /-- SIGNAL (R179): Gate SIGNAL adds n to the count and releases satisfied waiters. -/
  | signal (p : Path) (die : AnyDie) (gate : Fin 512) (n : BitVec 24)
  /-- CONSUME (R179): Gate CONSUME subtracts n from the count under the owner check. -/
  | consume (p : Path) (die : AnyDie) (gate : Fin 512) (n : BitVec 24)
  /-- SET_THRESH (R179): Gate SET_THRESH sets the threshold. -/
  | setThresh (p : Path) (die : AnyDie) (gate : Fin 512) (n : BitVec 24)
  /-- ADD_THRESH (R179): Gate ADD_THRESH raises the threshold. -/
  | addThresh (p : Path) (die : AnyDie) (gate : Fin 512) (n : BitVec 24)
  /-- RESET (R179): Gate RESET zeroes the count and threshold and releases every waiter. -/
  | reset (p : Path) (die : AnyDie) (gate : Fin 512)
  /-- HALLWAIT_ARM (R179): GAT_HALLWAIT.ARM arms a Town Hall wait on a gate, or sets REFUSED when the list is full. -/
  | hallwaitArm (p : Path) (die : AnyDie) (gate : Fin 512) (core : CoreId) (coreDie : AnyDie)
  /-- HOLD_ARRIVE (R184): A raise edge of the package-wide hold reaches a sequencer, which freezes. -/
  | holdArrive (die : DieId) (b : BlockId)
  /-- HOLD_RELEASE (R185): Every raise line is low, and the root sends a release with a resume tally. -/
  | holdRelease
  /-- HOLD_RESUME (R185): A frozen sequencer resumes its lead's worth of cycles after the resume tally. -/
  | holdResume (die : DieId) (b : BlockId)
  /-- STEP_ABORT (R193): A fault or the watchdog aborts the step, stopping issue on every sequencer. -/
  | stepAbort
  /-- ABORT_END (R193): Every issued operation of an aborted step has ended. -/
  | abortEnd
  /-- STEP_WATCHDOG_EXPIRY (R193): The step watchdog expires, and DEADLOCK is recorded before the abort. -/
  | stepWatchdogExpiry
  /-- DIE_STEP_COMPLETE (R194): A die's blocks are DONE, its queues have completed and its signals are performed. -/
  | dieStepComplete (e : DieEnd)
  /-- STEP_COMPLETE (R194): The coordinator has seen all 48 dies complete, and DIE_STEP_ELAPSED latches. -/
  | stepComplete
  /-- STEP_REPLAY (R379): After a retry-class abort, the step is replayed under a new step number. -/
  | stepReplay
  /-- RESERVOIR_ACCESS (R198): An access arrives at a base die and is checked against readiness and its page entry. -/
  | reservoirAccess (a : RsvArrival)
  /-- RESERVOIR_SERVICE (R202): A base die performs an accepted segment access in order, re-reading on parity errors. -/
  | reservoirService (stack : StackId) (n : Nat) (fails : Fin 4)
  /-- PAGE_ENTRY_WRITE (R199): A write to RSV_PT_ENTRY takes effect as a fence, starting a zero-fill on a change to
  FREE. -/
  | pageEntryWrite (p : Path) (stack : StackId) (v : Word)
  /-- PAGE_ZERO_FILL_DONE (R199): A page zero-fill ends, and ZEROING clears. -/
  | pageZeroFillDone (stack : StackId) (page : Fin 49152)
  /-- STACK_REFRESH (R203): A base die refreshes its DRAM layers on its own schedule. -/
  | stackRefresh (stack : StackId)
  /-- CONVERSATION_EXPIRY (R209): The tally reaches a record's expiry, and the record is discarded and its pages freed. -/
  | conversationExpiry (conv : Nat)
  /-- CONDENSING_CHANGE (R212): The coordinator sets or clears the condensing state. -/
  | condensingChange
  /-- TRAINING_STATE_DONE (R218): An aqueduct completes a training state and moves to the next. -/
  | trainingStateDone (g : AqdId)
  /-- TRAINING_TIMEOUT (R218): A training state exceeds its bound, and training restarts at EQ. -/
  | trainingTimeout (g : AqdId)
  /-- LANE_MAP_EXCHANGE (R219): Both ends exchange usable lanes in MAP, forming the lane map. -/
  | laneMapExchange (g : AqdId) (own : BitVec 8) (far : BitVec 8) (farLaser : BitVec 8)
  /-- MAP_RETRY_WAIT (R219): An empty lane map waits 100 ms and training returns to EQ. -/
  | mapRetryWait (g : AqdId)
  /-- LASER_SAMPLE (R217): A laser input's power is sampled; after 10 low samples the input is lost and its lanes
  retired. -/
  | laserSample (h : HeadId) (input : LaserInput) (power : BitVec 16)
  /-- LASER_RESTORED (R229): An input has stayed at or above threshold for 1 s, and its lanes are re-admitted by partial
  retrains. -/
  | laserRestored (h : HeadId) (input : LaserInput)
  /-- CODEWORD_NACK (R225): A codeword pair fails FEC or CRC; the receiver NACKs it and the sender replays from it. -/
  | codewordNack (g : AqdId) (e : PairEvent)
  /-- LINK_ACK (R226): A link acknowledgement frees replay buffer space. -/
  | linkAck (g : AqdId) (n : Nat) (m : LinkMsg)
  /-- ERROR_COUNT_RELEASE (R227): A held uncorrectable-pair count is passed on after 1 ms UP, or discarded on a LASER
  withdrawal. -/
  | errorCountRelease (g : AqdId)
  /-- LANE_RETIRE_REQ (R228): A write to AQD_LANE_RET.RETIRE_REQ sends a lane-map change naming a future codeword pair. -/
  | laneRetireReq (p : Path) (g : AqdId) (lanes : BitVec 8)
  /-- LANE_MAP_SWITCH (R228): Both ends switch to the new lane map at the named codeword pair. -/
  | laneMapSwitch (g : AqdId) (far : Option (BitVec 8 × Fin 65536))
  /-- LANE_LOSS (R228): A lane fails during traffic, and the aqueduct starts a partial retrain. -/
  | laneLoss (g : AqdId) (lane : Fin 8)
  /-- ETH_FRAME_RX (R231): An Ethernet frame is received, timestamped if PTP, and handed on or dropped. -/
  | ethFrameRx (g : AqdId) (frame : List Byte)
  /-- HELLO (R253): A VC7 HELLO exchange negotiates the link version, or repeats every 100 ms. -/
  | hello (g : AqdId) (msg : Option HelloMsg)
  /-- WRITE (R244): A window write frame arrives at a head, is checked and lands whole or is refused. -/
  | write (hdr : FrameHdr) (w : WindowHdr) (bytes : List Byte)
  /-- WRITE_LANDED (R244): An accepted write lands in full, and its ACK record LANDED is sent. -/
  | writeLanded (n : Nat)
  /-- READ_REQ (R248): A window read request arrives and is served with a READ_RESP or a refusal. -/
  | readReq (hdr : FrameHdr) (w : WindowHdr) (lenM1 : Fin 4096) (pump : PumpId) (bad : List BadRead)
  /-- READ_RESP (R248): A read response arrives at the requesting pump. -/
  | readResp (hdr : FrameHdr) (w : WindowHdr) (bytes : List Byte)
  /-- ACK (R243): An express ACK with ACK records arrives at the sender. -/
  | ack (x : ExpressHdr) (records : List AckRecord)
  /-- CREDIT_REQ (R247): A credit request for a window arrives and is queued or granted. -/
  | creditReq (x : ExpressHdr) (xid : Fin 65536) (window : Fin 4096) (gen : Fin 65536) (wanted : Fin 65)
  /-- CREDIT (R247): A credit grant arrives at the sending head. -/
  | credit (x : ExpressHdr) (xid : Fin 65536) (window : Fin 4096) (gen : Fin 65536) (n : Fin 65)
  /-- GATE_OP (R250): An express gate operation is performed at the gate's home and answered. -/
  | gateOp (x : ExpressHdr) (xid : Fin 65536) (gate : Fin 512) (opc : BitVec 3) (v : BitVec 24)
  /-- GATE_ACK (R250): A gate acknowledgement arrives, recording any fault at the sender's die. -/
  | gateAck (x : ExpressHdr) (xid : Fin 65536) (status : Byte)
  /-- MBX_PART (R251): A message part arrives; with both parts held, the message is delivered to the mailbox. -/
  | mbxPart (x : ExpressHdr) (xid : Fin 65536) (mailbox : Fin 64) (part : Fin 2) (bytes : Vector Byte 32)
  /-- MBX_ACK (R337): A mailbox answer lands in the send buffer, clearing BUSY and raising TX_DONE. -/
  | mbxAck (x : ExpressHdr) (xid : Fin 65536) (status : Byte)
  /-- ABORT (R193): An express ABORT arrives, and the device aborts with ABORT_REMOTE. -/
  | abort (x : ExpressHdr) (number : BitVec 64) (group : Fin 65536)
  /-- EXPRESS_FLIT_DROP (R240): An express flit with an unknown EOP is dropped and counted. -/
  | expressFlitDrop (e : DropEvent)
  /-- WINDOW_OPEN (R246): AQD_WIN_OP OPEN applies the window's settings, or is ignored with OPEN_ERR. -/
  | windowOpen (p : Path) (h : HeadId)
  /-- WINDOW_CLOSE (R245): AQD_WIN_OP CLOSE increments the generation and sets the window CLOSING. -/
  | windowClose (p : Path) (h : HeadId)
  /-- WINDOW_DRAINED (R245): A head reports drained; after all eight, the window becomes CLOSED. -/
  | windowDrained (window : Fin 4096) (h : HeadId)
  /-- TRANSACTION_TIMEOUT (R249): An answer does not arrive within AQD_TXN_TIMEOUT, and the transaction ends
  REMOTE_TIMEOUT. -/
  | transactionTimeout (n : Nat)
  /-- DISCOVERY_SEND (R254): Every 10 ms the coordinator sends its discovery record on every fabric aqueduct. -/
  | discoverySend
  /-- DISCOVERY_RECEIVE (R255): A discovery record arrives and is relayed by the precinct master. -/
  | discoveryReceive (hdr : FrameHdr) (r : DiscoveryRecord)
  /-- ROSTER_PUBLISH (R255): Every 10 ms the precinct master publishes a roster. -/
  | rosterPublish
  /-- ROSTER_RECEIVE (R255): A roster arrives, possibly ending this device's role as master. -/
  | rosterReceive (hdr : FrameHdr) (l : List DiscoveryRecord)
  /-- PARTNER_SILENT (R255): A partner has been silent for 30 ms and leaves the roster. -/
  | partnerSilent (fa : Fin 65536)
  /-- GROUP_FORM (R256): A GROUP_FORM arrives naming a group, generation, edition and members. -/
  | groupForm (m : GroupFormMsg)
  /-- GROUP_JOIN (R256): A member's GROUP_JOIN arrives at the master, which accepts or refuses it. -/
  | groupJoin (hdr : FrameHdr) (num : Fin 65536) (gen : Fin 65536) (edition : Fin 65536) (lo : Fin 256) (hi : Fin 256)
  /-- GROUP_COMMIT (R256): GROUP_COMMIT fixes the final member list and the group version. -/
  | groupCommit (hdr : FrameHdr) (num : Fin 65536) (gen : Fin 65536) (version : Fin 256) (members : List (Fin 65536))
  /-- ARRIVE (R260): A BARRIER ARRIVE from a child arrives at an engine and counts toward its sequence. -/
  | arrive (x : ExpressHdr) (slot : Fin 64) (group : Fin 65536) (ggen : Fin 65536) (seq : Fin 65536) (pay : Word)
  /-- RELEASE (R259): A BARRIER RELEASE arrives; its payload is stored and forwarded, and release gates are signalled. -/
  | release (x : ExpressHdr) (slot : Fin 64) (group : Fin 65536) (ggen : Fin 65536) (seq : Fin 65536) (pay : Word)
  /-- BARRIER_GENERATION_WRITE (R262): A write of GGEN discards arrivals, sets SEQ to 0 and releases waiters with FAIL. -/
  | barrierGenerationWrite (p : Path) (h : HeadId) (slot : Fin 64) (ggen : Fin 65536)
  /-- SNAPSHOT_DRAIN_DONE (R266): A member's snapshot drain ends, and it arrives for wave 2. -/
  | snapshotDrainDone
  /-- SNAPSHOT_DRAIN_TIMEOUT (R266): A drain has not ended within AQD_TXN_TIMEOUT, and the member arrives with FAIL. -/
  | snapshotDrainTimeout
  /-- REQUEST (R294): A request record arrives whole and is admitted or refused. -/
  | request (conn : ClientConn) (r : RequestIn)
  /-- CANCEL_RECORD (R296): A cancel record arrives, clears the request's mask bits and is answered with a cancel
  result. -/
  | cancelRecord (conn : ClientConn) (bytes : List Byte)
  /-- RST_STREAM (R296): An HTTP/2 RST_STREAM cancels the stream's request without an answer. -/
  | rstStream (g : AqdId) (conn : Nat) (stream : Nat)
  /-- CANCEL (R299): An express CANCEL arrives as a client cancel or a holder stop. -/
  | cancel (x : ExpressHdr) (reqId : BitVec 64) (tenant : Fin 65536) (slot : Fin 65536) (kind : Byte)
  /-- DEADLINE_EXPIRY (R306): A request's deadline tally passes with no rows in a running step, and it ends DEADLINE. -/
  | deadlineExpiry (slot : Fin 65536)
  /-- ACTIVE_MASK_LOAD (R303): Eight cycles after a layer mark or at step start, the sequencer replaces its active mask. -/
  | activeMaskLoad (die : DieId) (b : BlockId)
  /-- COMMIT_POINT (R306): After step completion and intake-through, the serving engine decides each request and emits
  tokens. -/
  | commitPoint
  /-- HOLD (R305): A HOLD frame assigns a KV span to a holder. -/
  | hold (m : HoldMsg)
  /-- HOLD_ACK (R305): A holder's HOLD_ACK arrives, accepting or refusing the span. -/
  | holdAck (hdr : FrameHdr) (slot : Fin 65536) (refused : Bool)
  /-- RELEASED (R307): A holder's RELEASED arrives; the slot is freed once every holder has sent it. -/
  | released (hdr : FrameHdr) (slot : Fin 65536)
  /-- MIGRATE (R304): Request state arrives in MIGRATE frames, and a slot is taken in RUNNING. -/
  | migrate (hdr : FrameHdr) (m : MigrateMsg)
  /-- RELAY (R304): Token records arrive for forwarding on the client connection. -/
  | relay (hdr : FrameHdr) (slot : Fin 65536) (bytes : List Byte)
  /-- CTL_READ (R333): A peer's VC6 control read is performed and answered with CTL_RESP. -/
  | ctlRead (hdr : FrameHdr) (a : Word)
  /-- CTL_WRITE (R333): A peer's VC6 control write is performed and answered with CTL_RESP. -/
  | ctlWrite (hdr : FrameHdr) (a : Word) (v : Word)
  /-- CTL_RESP (R333): A control response arrives at the requesting device. -/
  | ctlResp (hdr : FrameHdr) (a : Word) (status : Byte) (v : Word)
  /-- WINDOW_READY (R277): A recipient reports a staging window open, allowing the loader to send the piece. -/
  | windowReady (hdr : FrameHdr) (window : Fin 65536) (gen : Fin 65536) (piece : Word) (digest8 : Vector Byte 8)
  /-- PAGE_REQUEST (R283): A peer asks for a page, and it is written into the requester's staging window. -/
  | pageRequest (hdr : FrameHdr) (m : PageMsg)
  /-- PAGE_REFUSED (R283): A peer reports that it does not hold the requested page. -/
  | pageRefused (hdr : FrameHdr) (m : PageMsg)
  /-- TENANT_SET (R333): A tenant table entry is set or removed. -/
  | tenantSet (route : TenantRoute) (identity : List Byte) (tag : Fin 65536)
  /-- MODEL_PART (R349): A mailbox message delivers one part of a boot model entry. -/
  | modelPart (stamp : Word) (msg : Vector Byte 64)
  /-- MODEL_COMMIT (R349): A mailbox message starts loading a model whose parts are complete. -/
  | modelCommit (stamp : Word) (msg : Vector Byte 64)
  /-- MODEL_REMOVE (R349): A mailbox message ends a model when its pins reach zero. -/
  | modelRemove (stamp : Word) (msg : Vector Byte 64)
  /-- RETIRE (R378): A RETIRE message marks a location permanently faulty. -/
  | retire (stamp : Word) (msg : Vector Byte 64)
  /-- MANIFEST_CHECK (R274): A fetched manifest is checked and accepted or refused whole. -/
  | manifestCheck (m : Fin 64) (slice : Fin 65536) (bytes : List Byte)
  /-- SHARD_STAGED (R276): A loader's reads of a shard into staging pages complete, or fail after retries. -/
  | shardStaged (m : Fin 64) (shard : Nat) (a : ShardArrival)
  /-- SHARD_DIGEST_DONE (R278): A shard's SHA-512 is compared with DIGEST, leading to placement or another attempt. -/
  | shardDigestDone (m : Fin 64) (shard : Nat)
  /-- SHARD_PLACE (R279): A verified shard is placed in ground pages and cisterns or in reservoir pages. -/
  | shardPlace (m : Fin 64) (shard : Nat)
  /-- SCRUB_INTERVAL (R282): The scrub interval comes due for a page of a live epoch. -/
  | scrubInterval (page : PageRef)
  /-- SCRUB_RUN_START (R282): CIS_SCRUB_CTRL.GO starts a scrub run into hall SRAM. -/
  | scrubRunStart (p : Path) (die : DieId) (b : BlockId) (gap : Byte) (errs : List LineErr)
  /-- SCRUB_RUN_DONE (R282): A scrub run ends, and the page digest is checked. -/
  | scrubRunDone (die : DieId) (b : BlockId)
  /-- PAGE_REPAIR (R283): A page is repaired from the ground copy, a peer or the source. -/
  | pageRepair (page : PageRef) (env : RepairEnv)
  /-- ATTEST_REQUEST (R354): A POST to /zt/attest/1 requests signed reports, or is answered 503. -/
  | attestRequest (g : AqdId) (conn : Nat) (stream : Nat) (nonce : Vector Byte 64)
  /-- ATTEST_SIGNED (R354): Report signing completes and the response is sent. -/
  | attestSigned
  /-- TX_GO (R337): HAL_TX_CTRL.GO sends a send buffer as a stamped two-part message. -/
  | txGo (p : Path) (die : DieId) (inst : Fin 6) (buffer : Fin 4)
  /-- MBX_DRAIN (R340): A write to MBX_DRAIN drains the message if it names the current SEQ. -/
  | mbxDrain (p : Path) (die : DieId) (mailbox : Fin 64) (seq : Byte)
  /-- MAILBOX_TIMEOUT (R341): The mailbox timeout expires undrained, and the sender is answered TIMEOUT. -/
  | mailboxTimeout (die : DieId) (mailbox : Fin 64)
  /-- MBX_ENABLE_CLEAR (R341): Clearing MBX_CTRL.ENABLE discards the message and answers its sender TIMEOUT. -/
  | mbxEnableClear (p : Path) (die : DieId) (mailbox : Fin 64)
  /-- HEARTBEAT (R386): The coordinator sends its heartbeat message to the standby every 100 µs. -/
  | heartbeat
  /-- COORDINATOR_TAKEOVER (R386): The standby takes over when the coordinator retires or three heartbeats are missing. -/
  | coordinatorTakeover
  /-- I3C_READ (R400): An I3C private write starts a control read. -/
  | i3cRead (bytes : List Byte)
  /-- I3C_WRITE (R400): An I3C private write starts a control write. -/
  | i3cWrite (bytes : List Byte)
  /-- I3C_RESULT (R400): An I3C private read returns the status and data of the last command. -/
  | i3cResult
  /-- GETPID (R400): The I3C agent answers GETPID with its provisional identifier. -/
  | getpid
  /-- SETDASA (R400): The I3C agent takes a dynamic address from its static address 0x5A. -/
  | setdasa (static : Fin 128) (dyn : Fin 128)
  /-- ENTDAA (R400): The I3C agent takes part in dynamic address assignment. -/
  | entdaa (dyn : Fin 128)
  /-- TAP_RESET (R401): TRST_N low or five TCK cycles with TMS high reset the TAP. -/
  | tapReset
  /-- EXTEST (R401): The TAP selects boundary scan for external test. -/
  | extest (pins : Vector Bool 49) (scan : Vector Bool 147)
  /-- SAMPLE_PRELOAD (R401): The TAP samples or preloads the boundary scan chain. -/
  | samplePreload (pins : Vector Bool 49) (scan : Vector Bool 147)
  /-- IDCODE (R401): The TAP returns the 32-bit identification code. -/
  | idcode
  /-- BYPASS (R401): The TAP selects the 1-bit bypass register. -/
  | bypass (code : Byte) (scan : List Bool)
  /-- CTL_ACCESS_READ (R401): Update-DR with OP read starts a JTAG control read. -/
  | ctlAccessRead (a : Word)
  /-- CTL_ACCESS_WRITE (R401): Update-DR with OP write starts a JTAG control write. -/
  | ctlAccessWrite (a : Word) (v : Word)
  /-- RETIREMENT_DECISION (R381): Firmware decides a retirement for a permanently faulty location. -/
  | retirementDecision
  /-- GATE_REHOME (R384): A write to DIE_GATE_REHOME makes die control serve an isolated block's gates. -/
  | gateRehome (p : Path) (die : DieId) (blocks : BitVec 24)
  /-- SELFTEST_SLICE (R387): A self-test slice runs as an extra work unit and is checked against reference digests. -/
  | selftestSlice (die : DieId) (b : BlockId) (pass : Bool)
  /-- SELFTEST_INTERVAL (R387): A block's self-test interval expires, and a run-time test begins. -/
  | selftestInterval (die : DieId) (b : BlockId)
  /-- RESERVOIR_TEST_START (R388): SRV_ST_CTRL.RSV_GO starts a reservoir page test over FREE pages. -/
  | reservoirTestStart (p : Path)
  /-- LIVE_UPDATE (R389): An image supplied for live update is verified and applied die by die and head by head. -/
  | liveUpdate (u : UpdateInput)
  /-- MACHINE_TIMER_INTERRUPT (R323): A core's mtime, counting tally ticks, reaches its mtimecmp and the core's machine
  timer interrupt becomes pending. -/
  | machineTimerInterrupt (die : DieId) (core : CoreId)
  /-- WELL_APERTURE_WRITE (R325): A Town Hall store through the narrow well aperture writes a narrow bank row at the
  Town Hall's port place, or is refused CLASS or TARGET. -/
  | wellApertureWrite (die : DieId) (core : CoreId) (mode : CoreMode) (off : BitVec 34) (bytes : List Byte) (env : WellEnv)
  /-- PROGRAM_STORE_READ (R161): A read of SEQ_PS_DATA returns the program-store word and advances SEQ_PS_ADDR by one
  word. -/
  | programStoreRead (p : Path) (die : DieId) (b : BlockId)
  /-- RESERVOIR_TEST_DONE (R388): A reservoir page test started by RSV_GO ends, RSV_GO clears and the tested pages are
  released. -/
  | reservoirTestDone (bad : List (Fin 393216))
  /-- REFUSED_READ (R330): A control read that its path may not make, or that is not decoded, returns zero, is recorded
  in HAL_ACC_STATUS and faults the requesting core. -/
  | refusedRead (c : CtlAccess)
deriving DecidableEq, Repr

end Sys2Proof
end

