-- ==== Sys2Proof/Decode.lean ====
section
/-! DEFINITION. Decode: the opcode table gives no row any bits, so no word of it spells a command. What spells commands is
what arrives on the fibre: a frame by its KIND and SUB (R236, R299, R333), an express flit by its EOP (R240). -/

namespace Sys2Proof

open Sys2Proof.Machine

/-- The command that a word spells by the table's bits: none of its rows has any. -/
def decodeTableWord (_nbits _w : Nat) : Option Instr := none

/-- The number at a place of a payload. -/
def field (bs : List Byte) (off n : Nat) : Nat := ofLeBytes ((bs.drop off).take n)

/-- `n` bytes at a place of a payload. -/
def byteVec (n : Nat) (bs : List Byte) (off : Nat) : Vector Byte n := Vector.ofFn fun i => bs.getD (off + i.val) 0

/-- A window frame (R235). -/
def decodeWindow (hdr : FrameHdr) (h : FabricHeader) (payload : List Byte) (pump : PumpId) (bad : List BadRead) :
    Option Instr :=
  let w : WindowHdr :=
    { vcM1 := Fin.ofNat 4 h.kind, window := Fin.ofNat 4096 (bits h.mid 0 12), gen := Fin.ofNat 65536 (bits h.mid 12 16),
      offset := Fin.ofNat 1048576 (bits h.mid 28 20) }
  if h.kind / 4 = 1 then some (.readReq hdr w (Fin.ofNat 4096 h.lenM1) pump bad)
  else if payload.length ≠ h.lenM1 + 1 then none
  else if h.kind / 4 = 0 then some (.write hdr w payload)
  else some (.readResp hdr w payload)

/-- A client frame of VC5 (R299). A request record may go on in further frames; for HOLD and MIGRATE, of which the spec says
what they carry, the layout is the model's (log entry 111). -/
def decodeClient (hdr : FrameHdr) (sub arg : Nat) (kv : KvShape) (payload : List Byte) : Option Instr :=
  let slot := Fin.ofNat 65536 arg
  match sub with
  | 0x01 => some (.request (.fabric hdr slot) { bytes := payload, kv })
  | 0x10 => some (.hold (.arrive hdr slot (parseSpan payload)))
  | 0x11 => some (.holdAck hdr slot (bit arg 16))
  | 0x12 => some (.released hdr slot)
  | 0x13 => (parseMigrate slot payload).map (.migrate hdr)
  | 0x14 => some (.relay hdr slot payload)
  | _ => none

/-- A SERVICE frame by its code (R333). -/
def decodeService (hdr : FrameHdr) (code : Nat) (payload : List Byte) : Instr :=
  let page : PageMsg :=
    { modelId := BitVec.ofNat 64 (field payload 0 8), epoch := BitVec.ofNat 32 (field payload 8 4),
      page := BitVec.ofNat 32 (field payload 12 4), window := Fin.ofNat 65536 (field payload 16 2),
      gen := Fin.ofNat 65536 (field payload 18 2) }
  match code with
  | 1 => .windowReady hdr (Fin.ofNat 65536 (field payload 0 2)) (Fin.ofNat 65536 (field payload 2 2))
      (BitVec.ofNat 32 (field payload 4 4)) (byteVec 8 payload 8)
  | 2 => .pageRequest hdr page
  | 3 => .pageRefused hdr page
  | 4 => .tenantSet (.frame hdr) (payload.take 32) (Fin.ofNat 65536 (field payload 32 2))
  | _ => .expressFlitDrop .control

/-- A management frame of VC6 (R333): one with another SUB or service code is dropped. -/
def decodeManagement (hdr : FrameHdr) (sub arg : Nat) (payload : List Byte) : Instr :=
  let a : Word := BitVec.ofNat 32 arg
  match sub with
  | 0x01 => .ctlRead hdr a
  | 0x02 => .ctlWrite hdr a (BitVec.ofNat 32 (field payload 0 4))
  | 0x03 => .ctlResp hdr a (BitVec.ofNat 8 (bits arg 32 4)) (BitVec.ofNat 32 (field payload 0 4))
  | 0x10 => decodeService hdr (bits arg 0 16) payload
  | _ => .expressFlitDrop .control

/-- A discovery record (R254). -/
def decodeRecord (bs : List Byte) : DiscoveryRecord :=
  { fa := Fin.ofNat 65536 (field bs 0 2), verMin := field bs 2 1, verMax := field bs 3 1, edition := field bs 4 2,
    flags := field bs 6 1, capacity := field bs 7 1, identity := fill 8 (bs.drop 8), models := fill 8 (bs.drop 16) }

/-- Addresses of two bytes each. -/
def addresses (bs : List Byte) : List (Fin 65536) := (groupLe 2 (bs.length / 2) bs).map (Fin.ofNat 65536)

/-- A fabric control frame of VC7 (R253 to R256): HELLO and records of an aqueduct, rosters, and group frames. -/
def decodeFabricControl (hdr : FrameHdr) (sub : Nat) (payload : List Byte) : Option Instr :=
  let n (i : Nat) : Fin 65536 := Fin.ofNat 65536 (field payload (2 * i) 2)
  let g : Option AqdId := hdr.link.map fun l => Fin.ofNat 64 (hdr.head.val * 8 + l.val)
  match sub with
  | 1 => g.map fun g => .hello g (some
      { fa := n 0, aqd := Fin.ofNat 64 (field payload 2 1), verMin := field payload 3 1, verMax := field payload 4 1,
        edition := field payload 5 2 })
  | 2 => some (.discoveryReceive hdr (decodeRecord payload))
  | 3 => some (.rosterReceive hdr ((List.range (payload.length / 32)).map fun i => decodeRecord (payload.drop (32 * i))))
  | 4 => some (.groupForm (.arrive hdr (n 0) (n 1) (n 2) (addresses (payload.drop 6))))
  | 5 => some (.groupJoin hdr (n 0) (n 1) (n 2) (Fin.ofNat 256 (n 3)) (Fin.ofNat 256 (n 4)))
  | 6 => some (.groupCommit hdr (n 0) (n 1) (Fin.ofNat 256 (n 2)) (addresses (payload.drop 6)))
  | _ => none

/-- The command that a frame's bytes spell at a head and aqueduct; none where its CRC fails or nothing is defined for it.
`pump`, `bad` and `kv` are what a frame does not say: which pump reads, the rows that it finds in error, the model's KV
(log entry 1). -/
def decodeFrame (head : HeadId) (link : Option (Fin 8)) (bs : List Byte) (pump : PumpId := .a) (bad : List BadRead := [])
    (kv : KvShape := {}) : Option Instr :=
  (parseFabric bs).bind fun h =>
    let hdr : FrameHdr := { head, dst := Fin.ofNat 65536 h.dst, src := Fin.ofNat 65536 h.src, link }
    let payload := bs.drop 16
    let sub := bits h.mid 0 8
    let arg := bits h.mid 8 40
    if h.kind < 12 then decodeWindow hdr h payload pump bad
    else if h.kind = 12 then decodeClient hdr sub arg kv payload
    else if h.kind = 13 then some (decodeManagement hdr sub arg payload)
    else decodeFabricControl hdr sub payload

/-- An ACK record (R243). -/
def decodeAckRecord (bs : List Byte) : AckRecord :=
  let x := ofLeBytes (bs.take 8)
  { window := Fin.ofNat 4096 (bits x 0 12), offset := Fin.ofNat 1048576 (bits x 12 20), lenM1 := Fin.ofNat 4096 (bits x 32 12),
    status := Fin.ofNat 16 (bits x 44 4), gen := Fin.ofNat 65536 (bits x 48 16) }

/-- The arguments of an express flit lie in the ranges of R240: 1 to 6 records, a window and the frames wanted or granted, a part
of a message. -/
def argsInRange (f : ExpressFlit) : Bool :=
  let n (off w : Nat) : Nat := field f.args (off - 8) w
  match f.eop with
  | 3 => decide (1 ≤ n 8 1) && decide (n 8 1 ≤ 6)
  | 4 => decide (n 10 2 < 4096) && decide (1 ≤ n 14 1) && decide (n 14 1 ≤ 64)
  | 5 => decide (n 10 2 < 4096) && decide (n 14 1 ≤ 64)
  | 6 => decide (n 11 1 < 2)
  | _ => true

/-- The command that an express flit's bytes spell at a head and aqueduct; none where its CRC fails or an argument is out of
its range (R239, R240, R260, R299). -/
def decodeExpress (head : HeadId) (link : Option (Fin 8)) (bs : List Byte) : Option Instr :=
  ((parseExpress bs).filter argsInRange).map fun f =>
    let x : ExpressHdr :=
      { head, dst := Fin.ofNat 65536 f.dst, stamp := BitVec.ofNat 32 f.stamp, die := Fin.ofNat 64 f.die, link }
    let n (off w : Nat) : Nat := field f.args (off - 8) w
    let id (off : Nat) : Fin 65536 := Fin.ofNat 65536 (n off 2)
    let w : Fin 4096 := Fin.ofNat 4096 (n 10 2)
    match f.eop with
    | 1 => .gateOp x (id 8) (Fin.ofNat 512 (n 10 2)) (BitVec.ofNat 3 (n 12 1)) (BitVec.ofNat 24 (n 13 3))
    | 2 => .gateAck x (id 8) (BitVec.ofNat 8 (n 10 1))
    | 3 => .ack x ((List.range (n 8 1)).map fun i => decodeAckRecord (f.args.drop (4 + 8 * i)))
    | 4 => .creditReq x (id 8) w (id 12) (Fin.ofNat 65 (n 14 1))
    | 5 => .credit x (id 8) w (id 12) (Fin.ofNat 65 (n 14 1))
    | 6 => .mbxPart x (id 8) (Fin.ofNat 64 (n 10 1)) (Fin.ofNat 2 (n 11 1)) (byteVec 32 f.args 4)
    | 7 => .mbxAck x (id 8) (BitVec.ofNat 8 (n 10 1))
    | 8 => .cancel x (BitVec.ofNat 64 (n 8 8)) (id 16) (id 18) (BitVec.ofNat 8 (n 20 1))
    | 9 =>
      if 64 ≤ n 9 1 then .expressFlitDrop (.express x 9 (byteVec 52 f.args 0))
      else if n 8 1 = 0 then .arrive x (Fin.ofNat 64 (n 9 1)) (id 10) (id 12) (id 14) (BitVec.ofNat 32 (n 16 4))
      else if n 8 1 = 1 then .release x (Fin.ofNat 64 (n 9 1)) (id 10) (id 12) (id 14) (BitVec.ofNat 32 (n 16 4))
      else .expressFlitDrop (.express x 9 (byteVec 52 f.args 0))
    | 10 => .abort x (BitVec.ofNat 64 (n 8 8)) (id 16)
    | e => .expressFlitDrop (.express x (BitVec.ofNat 8 e) (byteVec 52 f.args 0))

end Sys2Proof
end

