-- ==== Sys2Proof/Machine/Regs.lean ====
section
/-! DEFINITION. Machine/Regs: the registers of the control space, as the register tables of spec/ give them: the name
and place of each (`R`), its fields (`F`), and their access codes and reset values (`regTable`). Generated from the
tables; the address layout is R6, the decoding R327. A reset value the tables leave open ('ind.') is 0 here
(DESIGN CHOICE, log entry 6). -/

namespace Sys2Proof.Machine

/-- The access codes of R9. -/
inductive Acc where
  | ro | rw | w1c | w1s | wo | rc
deriving DecidableEq, Repr

/-- The place of a field in its register. -/
structure Fld where
  lo : Nat
  width : Nat
deriving DecidableEq, Repr

/-- One row of a field map. -/
structure FieldRow where
  fld : Fld
  acc : Acc
  reset : Nat
deriving DecidableEq, Repr

/-- The dies on which a register stands (R327, R411). -/
inductive DieSet where
  | compute | stack | head | computeOrHead | every | dieZero | coordinator
deriving DecidableEq, Repr

/-- The instances of its class that hold a register (R327). -/
inductive InstSet where
  | one | block | port | bank | bank0 | bank1 | mailbox | core | coreOrAgent | hall | district | aqueduct | laser
  | transactions
deriving DecidableEq, Repr

/-- A register: class and offset as one number (`class * 2^20 + offset`), how often it repeats and at what stride,
where it stands, and its fields. -/
structure RegRow where
  place : Nat
  count : Nat
  stride : Nat
  dies : DieSet
  insts : InstSet
  fields : List FieldRow
deriving DecidableEq, Repr

/-- A field row, written short. -/
def fr (lo hi : Nat) (acc : Acc) (reset : Nat) : FieldRow := { fld := { lo := lo, width := hi + 1 - lo }, acc, reset }

namespace R

/-- DIE_NAN_STATUS (02_number_formats.md). -/
abbrev DIE_NAN_STATUS : Nat := 0x200
/-- DIE_NAN_STEP_LO (02_number_formats.md). -/
abbrev DIE_NAN_STEP_LO : Nat := 0x204
/-- DIE_NAN_STEP_HI (02_number_formats.md). -/
abbrev DIE_NAN_STEP_HI : Nat := 0x208
/-- DIE_NAN_CYCLE (02_number_formats.md). -/
abbrev DIE_NAN_CYCLE : Nat := 0x20C
/-- DIE_NAN_BUNDLE (02_number_formats.md). -/
abbrev DIE_NAN_BUNDLE : Nat := 0x210
/-- DIE_NAN_ENTRY (02_number_formats.md). -/
abbrev DIE_NAN_ENTRY : Nat := 0x214
/-- DIE_NAN_ROW (02_number_formats.md). -/
abbrev DIE_NAN_ROW : Nat := 0x218
/-- DIE_NAN_TAG (02_number_formats.md). -/
abbrev DIE_NAN_TAG : Nat := 0x21C
/-- DIE_NAN_CNT (02_number_formats.md). -/
abbrev DIE_NAN_CNT : Nat := 0x220
/-- DIE_CVT_CNT (02_number_formats.md). -/
abbrev DIE_CVT_CNT : Nat := 0x224
/-- EAF_STATUS (03_canonical_reduction.md). -/
abbrev EAF_STATUS : Nat := 0xC00000
/-- EAF_FMT_CNT (03_canonical_reduction.md). -/
abbrev EAF_FMT_CNT : Nat := 0xC00004
/-- EAF_OVF_CNT (03_canonical_reduction.md). -/
abbrev EAF_OVF_CNT : Nat := 0xC00008
/-- DIE_EDITION (03_canonical_reduction.md). -/
abbrev DIE_EDITION : Nat := 0x228
/-- SEQ_MQ_STATUS (04_matrix_quartet.md). -/
abbrev SEQ_MQ_STATUS : Nat := 0x100100
/-- SEQ_MQ_PASS_CNT (04_matrix_quartet.md). -/
abbrev SEQ_MQ_PASS_CNT : Nat := 0x100104
/-- SEQ_MQ_STALL_A (04_matrix_quartet.md). -/
abbrev SEQ_MQ_STALL_A : Nat := 0x100108
/-- SEQ_MQ_STALL_B (04_matrix_quartet.md). -/
abbrev SEQ_MQ_STALL_B : Nat := 0x10010C
/-- SEQ_MQ_TENANT_CNT (04_matrix_quartet.md). -/
abbrev SEQ_MQ_TENANT_CNT : Nat := 0x100110
/-- SEQ_MQ_EXP_VALID (04_matrix_quartet.md). -/
abbrev SEQ_MQ_EXP_VALID : Nat := 0x100114
/-- VEC_STATUS (05_vector_engine.md). -/
abbrev VEC_STATUS : Nat := 0x500000
/-- VEC_CHAIN_CNT (05_vector_engine.md). -/
abbrev VEC_CHAIN_CNT : Nat := 0x500004
/-- VEC_ITER_CNT (05_vector_engine.md). -/
abbrev VEC_ITER_CNT : Nat := 0x500008
/-- VEC_STALL_A (05_vector_engine.md). -/
abbrev VEC_STALL_A : Nat := 0x50000C
/-- VEC_STALL_B (05_vector_engine.md). -/
abbrev VEC_STALL_B : Nat := 0x500010
/-- VEC_MASKED_CNT (05_vector_engine.md). -/
abbrev VEC_MASKED_CNT : Nat := 0x500014
/-- CIS_STATUS (06_cisterns_and_wells.md). -/
abbrev CIS_STATUS : Nat := 0x200000
/-- CIS_PWR_CTRL (06_cisterns_and_wells.md). -/
abbrev CIS_PWR_CTRL : Nat := 0x200004
/-- CIS_PWR_RDY (06_cisterns_and_wells.md). -/
abbrev CIS_PWR_RDY : Nat := 0x200008
/-- CIS_REFRESH_CNT (06_cisterns_and_wells.md). -/
abbrev CIS_REFRESH_CNT : Nat := 0x20000C
/-- CIS_PERR_CNT (06_cisterns_and_wells.md). -/
abbrev CIS_PERR_CNT : Nat := 0x200018
/-- CIS_PERR_STATUS (06_cisterns_and_wells.md). -/
abbrev CIS_PERR_STATUS : Nat := 0x200010
/-- CIS_PERR_LINE (06_cisterns_and_wells.md). -/
abbrev CIS_PERR_LINE : Nat := 0x200014
/-- CIS_GROUND 0; the others follow at a stride of 4 (06_cisterns_and_wells.md). -/
abbrev CIS_GROUND : Nat := 0x200100
/-- WEL_PWR_CTRL (06_cisterns_and_wells.md). -/
abbrev WEL_PWR_CTRL : Nat := 0x300004
/-- WEL_PWR_RDY (06_cisterns_and_wells.md). -/
abbrev WEL_PWR_RDY : Nat := 0x300008
/-- WEL_REPLAY_CNT (06_cisterns_and_wells.md). -/
abbrev WEL_REPLAY_CNT : Nat := 0x30000C
/-- WEL_ARB_CNT (06_cisterns_and_wells.md). -/
abbrev WEL_ARB_CNT : Nat := 0x300010
/-- WEL_PERR_CNT (06_cisterns_and_wells.md). -/
abbrev WEL_PERR_CNT : Nat := 0x30001C
/-- WEL_ZERO_RANGE (06_cisterns_and_wells.md). -/
abbrev WEL_ZERO_RANGE : Nat := 0x300020
/-- WEL_PERR_STATUS (06_cisterns_and_wells.md). -/
abbrev WEL_PERR_STATUS : Nat := 0x300014
/-- WEL_PERR_ROW (06_cisterns_and_wells.md). -/
abbrev WEL_PERR_ROW : Nat := 0x300018
/-- WEL_ZERO_CTRL (06_cisterns_and_wells.md). -/
abbrev WEL_ZERO_CTRL : Nat := 0x300024
/-- WEL_MARK_CTRL (06_cisterns_and_wells.md). -/
abbrev WEL_MARK_CTRL : Nat := 0x300028
/-- PMP_STATUS 0; the others follow at a stride of 256 (07_pumps.md). -/
abbrev PMP_STATUS : Nat := 0x400000
/-- PMP_RING_BASE 0; the others follow at a stride of 256 (07_pumps.md). -/
abbrev PMP_RING_BASE : Nat := 0x400004
/-- PMP_RING_SIZE 0; the others follow at a stride of 256 (07_pumps.md). -/
abbrev PMP_RING_SIZE : Nat := 0x400008
/-- PMP_RING_APPLY 0; the others follow at a stride of 256 (07_pumps.md). -/
abbrev PMP_RING_APPLY : Nat := 0x40000C
/-- PMP_RING_HEAD 0; the others follow at a stride of 256 (07_pumps.md). -/
abbrev PMP_RING_HEAD : Nat := 0x400010
/-- PMP_RING_TAIL 0; the others follow at a stride of 256 (07_pumps.md). -/
abbrev PMP_RING_TAIL : Nat := 0x400014
/-- PMP_DESC_CNT 0; the others follow at a stride of 256 (07_pumps.md). -/
abbrev PMP_DESC_CNT : Nat := 0x400020
/-- PMP_FLIT_CNT 0; the others follow at a stride of 256 (07_pumps.md). -/
abbrev PMP_FLIT_CNT : Nat := 0x400024
/-- PMP_STALL_CNT 0; the others follow at a stride of 256 (07_pumps.md). -/
abbrev PMP_STALL_CNT : Nat := 0x400028
/-- PMP_ERR_STATUS 0; the others follow at a stride of 256 (07_pumps.md). -/
abbrev PMP_ERR_STATUS : Nat := 0x400018
/-- PMP_ERR_DESC 0; the others follow at a stride of 256 (07_pumps.md). -/
abbrev PMP_ERR_DESC : Nat := 0x40001C
/-- SQR_STATUS (08_streets_and_bridges.md). -/
abbrev SQR_STATUS : Nat := 0x600000
/-- SQR_RETIRE (08_streets_and_bridges.md). -/
abbrev SQR_RETIRE : Nat := 0x600004
/-- SQR_APPLY (08_streets_and_bridges.md). -/
abbrev SQR_APPLY : Nat := 0x600008
/-- SQR_MERGE_CNT (08_streets_and_bridges.md). -/
abbrev SQR_MERGE_CNT : Nat := 0x60000C
/-- SQR_RETRY_CNT (08_streets_and_bridges.md). -/
abbrev SQR_RETRY_CNT : Nat := 0x600010
/-- SQR_EXCESS_CNT (08_streets_and_bridges.md). -/
abbrev SQR_EXCESS_CNT : Nat := 0x600014
/-- BRG_STATUS (08_streets_and_bridges.md). -/
abbrev BRG_STATUS : Nat := 0x700000
/-- BRG_LANE_RET_LO (08_streets_and_bridges.md). -/
abbrev BRG_LANE_RET_LO : Nat := 0x700004
/-- BRG_LANE_RET_HI (08_streets_and_bridges.md). -/
abbrev BRG_LANE_RET_HI : Nat := 0x700008
/-- BRG_RATE (08_streets_and_bridges.md). -/
abbrev BRG_RATE : Nat := 0x70000C
/-- BRG_RETRY_CNT (08_streets_and_bridges.md). -/
abbrev BRG_RETRY_CNT : Nat := 0x700010
/-- BRG_MAX_LAT (08_streets_and_bridges.md). -/
abbrev BRG_MAX_LAT : Nat := 0x700014
/-- FNT_STATUS (08_streets_and_bridges.md). -/
abbrev FNT_STATUS : Nat := 0x1900000
/-- FNT_TIMEOUT (08_streets_and_bridges.md). -/
abbrev FNT_TIMEOUT : Nat := 0x1900004
/-- FNT_STALL_TGT (08_streets_and_bridges.md). -/
abbrev FNT_STALL_TGT : Nat := 0x1900008
/-- FNT_SEL (08_streets_and_bridges.md). -/
abbrev FNT_SEL : Nat := 0x190000C
/-- FNT_ENTRY_LO (08_streets_and_bridges.md). -/
abbrev FNT_ENTRY_LO : Nat := 0x1900010
/-- FNT_ENTRY_HI (08_streets_and_bridges.md). -/
abbrev FNT_ENTRY_HI : Nat := 0x1900014
/-- FNT_LIST (08_streets_and_bridges.md). -/
abbrev FNT_LIST : Nat := 0x1900018
/-- FNT_REOFFER_CNT (08_streets_and_bridges.md). -/
abbrev FNT_REOFFER_CNT : Nat := 0x190001C
/-- FNT_STALL_CNT (08_streets_and_bridges.md). -/
abbrev FNT_STALL_CNT : Nat := 0x1900020
/-- FNT_REFUSE_CNT (08_streets_and_bridges.md). -/
abbrev FNT_REFUSE_CNT : Nat := 0x1900024
/-- SEQ_STATUS (09_block_programs.md). -/
abbrev SEQ_STATUS : Nat := 0x100000
/-- SEQ_BUNDLE (09_block_programs.md). -/
abbrev SEQ_BUNDLE : Nat := 0x100004
/-- SEQ_CYCLE (09_block_programs.md). -/
abbrev SEQ_CYCLE : Nat := 0x100008
/-- SEQ_PS_ADDR (09_block_programs.md). -/
abbrev SEQ_PS_ADDR : Nat := 0x100010
/-- SEQ_PS_DATA (09_block_programs.md). -/
abbrev SEQ_PS_DATA : Nat := 0x100014
/-- SEQ_US_CTRL 0; the others follow at a stride of 32 (09_block_programs.md). -/
abbrev SEQ_US_CTRL : Nat := 0x100040
/-- SEQ_US_PS 0; the others follow at a stride of 32 (09_block_programs.md). -/
abbrev SEQ_US_PS : Nat := 0x100044
/-- SEQ_US_CIS 0; the others follow at a stride of 32 (09_block_programs.md). -/
abbrev SEQ_US_CIS : Nat := 0x100048
/-- SEQ_US_WIDE 0; the others follow at a stride of 32 (09_block_programs.md). -/
abbrev SEQ_US_WIDE : Nat := 0x10004C
/-- SEQ_US_NARROW 0; the others follow at a stride of 32 (09_block_programs.md). -/
abbrev SEQ_US_NARROW : Nat := 0x100050
/-- SEQ_US_ENTRY 0; the others follow at a stride of 32 (09_block_programs.md). -/
abbrev SEQ_US_ENTRY : Nat := 0x100054
/-- DIE_PLACE_APPLY (09_block_programs.md). -/
abbrev DIE_PLACE_APPLY : Nat := 0x3F0
/-- DIE_HOME_A 0; the others follow at a stride of 8 (09_block_programs.md). -/
abbrev DIE_HOME_A : Nat := 0x400
/-- DIE_HOME_B 0; the others follow at a stride of 8 (09_block_programs.md). -/
abbrev DIE_HOME_B : Nat := 0x404
/-- DIE_STEP_STATUS (10_schedule_contract.md). -/
abbrev DIE_STEP_STATUS : Nat := 0x100
/-- DIE_START_TALLY_LO (10_schedule_contract.md). -/
abbrev DIE_START_TALLY_LO : Nat := 0x104
/-- DIE_START_TALLY_HI (10_schedule_contract.md). -/
abbrev DIE_START_TALLY_HI : Nat := 0x108
/-- DIE_STEP_ELAPSED (10_schedule_contract.md). -/
abbrev DIE_STEP_ELAPSED : Nat := 0x10C
/-- DIE_HOLD_CNT (10_schedule_contract.md). -/
abbrev DIE_HOLD_CNT : Nat := 0x110
/-- DIE_HOLD_CYC (10_schedule_contract.md). -/
abbrev DIE_HOLD_CYC : Nat := 0x114
/-- DIE_WDOG (10_schedule_contract.md). -/
abbrev DIE_WDOG : Nat := 0x118
/-- DIE_FAULT_STATUS (10_schedule_contract.md). -/
abbrev DIE_FAULT_STATUS : Nat := 0x120
/-- DIE_FAULT_STEP_LO (10_schedule_contract.md). -/
abbrev DIE_FAULT_STEP_LO : Nat := 0x124
/-- DIE_FAULT_STEP_HI (10_schedule_contract.md). -/
abbrev DIE_FAULT_STEP_HI : Nat := 0x128
/-- DIE_FAULT_CYCLE (10_schedule_contract.md). -/
abbrev DIE_FAULT_CYCLE : Nat := 0x12C
/-- DIE_FAULT_BUNDLE (10_schedule_contract.md). -/
abbrev DIE_FAULT_BUNDLE : Nat := 0x130
/-- DIE_FAULT_ENTRY (10_schedule_contract.md). -/
abbrev DIE_FAULT_ENTRY : Nat := 0x134
/-- DIE_FAULT_ROW (10_schedule_contract.md). -/
abbrev DIE_FAULT_ROW : Nat := 0x138
/-- DIE_FAULT_TAG (10_schedule_contract.md). -/
abbrev DIE_FAULT_TAG : Nat := 0x13C
/-- DIE_FAULT_AUX (10_schedule_contract.md). -/
abbrev DIE_FAULT_AUX : Nat := 0x140
/-- DIE_FAULT_CNT (10_schedule_contract.md). -/
abbrev DIE_FAULT_CNT : Nat := 0x144
/-- DIE_SLIP_STATUS (10_schedule_contract.md). -/
abbrev DIE_SLIP_STATUS : Nat := 0x160
/-- DIE_SLIP_SEL (10_schedule_contract.md). -/
abbrev DIE_SLIP_SEL : Nat := 0x164
/-- DIE_SLIP_E 0; the others follow at a stride of 4 (10_schedule_contract.md). -/
abbrev DIE_SLIP_E : Nat := 0x168
/-- GAT_COUNT 0; the others follow at a stride of 64 (10_schedule_contract.md). -/
abbrev GAT_COUNT : Nat := 0x800000
/-- GAT_THRESH 0; the others follow at a stride of 64 (10_schedule_contract.md). -/
abbrev GAT_THRESH : Nat := 0x800004
/-- GAT_CTRL 0; the others follow at a stride of 64 (10_schedule_contract.md). -/
abbrev GAT_CTRL : Nat := 0x800008
/-- GAT_OP 0; the others follow at a stride of 64 (10_schedule_contract.md). -/
abbrev GAT_OP : Nat := 0x80000C
/-- GAT_HALLWAIT 0; the others follow at a stride of 64 (10_schedule_contract.md). -/
abbrev GAT_HALLWAIT : Nat := 0x800010
/-- GAT_BANK_STATUS (10_schedule_contract.md). -/
abbrev GAT_BANK_STATUS : Nat := 0x800400
/-- RSV_STATUS (11_reservoir.md). -/
abbrev RSV_STATUS : Nat := 0x1000000
/-- RSV_SHARE (11_reservoir.md). -/
abbrev RSV_SHARE : Nat := 0x1000004
/-- RSV_APPLY (11_reservoir.md). -/
abbrev RSV_APPLY : Nat := 0x1000008
/-- RSV_PT_SEL (11_reservoir.md). -/
abbrev RSV_PT_SEL : Nat := 0x1000010
/-- RSV_PERR_CNT (11_reservoir.md). -/
abbrev RSV_PERR_CNT : Nat := 0x1000020
/-- RSV_REFUSE_CNT (11_reservoir.md). -/
abbrev RSV_REFUSE_CNT : Nat := 0x100002C
/-- RSV_RATE_A (11_reservoir.md). -/
abbrev RSV_RATE_A : Nat := 0x1000030
/-- RSV_RATE_B (11_reservoir.md). -/
abbrev RSV_RATE_B : Nat := 0x1000034
/-- RSV_MAX_LAT (11_reservoir.md). -/
abbrev RSV_MAX_LAT : Nat := 0x1000038
/-- RSV_PT_ENTRY (11_reservoir.md). -/
abbrev RSV_PT_ENTRY : Nat := 0x1000014
/-- RSV_PERR_STATUS (11_reservoir.md). -/
abbrev RSV_PERR_STATUS : Nat := 0x1000018
/-- RSV_PERR_ADDR (11_reservoir.md). -/
abbrev RSV_PERR_ADDR : Nat := 0x100001C
/-- AQD_STATUS (12_aqueducts.md). -/
abbrev AQD_STATUS : Nat := 0x1800000
/-- AQD_CTRL (12_aqueducts.md). -/
abbrev AQD_CTRL : Nat := 0x1800004
/-- AQD_APPLY (12_aqueducts.md). -/
abbrev AQD_APPLY : Nat := 0x1800008
/-- AQD_RETRY_CNT (12_aqueducts.md). -/
abbrev AQD_RETRY_CNT : Nat := 0x1800010
/-- AQD_FEC_CNT (12_aqueducts.md). -/
abbrev AQD_FEC_CNT : Nat := 0x1800014
/-- AQD_MAX_LAT (12_aqueducts.md). -/
abbrev AQD_MAX_LAT : Nat := 0x1800018
/-- AQD_PEER (12_aqueducts.md). -/
abbrev AQD_PEER : Nat := 0x180001C
/-- AQD_ETH_RX (12_aqueducts.md). -/
abbrev AQD_ETH_RX : Nat := 0x1800020
/-- AQD_ETH_TX (12_aqueducts.md). -/
abbrev AQD_ETH_TX : Nat := 0x1800024
/-- AQD_ETH_DROP (12_aqueducts.md). -/
abbrev AQD_ETH_DROP : Nat := 0x1800028
/-- AQD_LANE_SER 0; the others follow at a stride of 4 (12_aqueducts.md). -/
abbrev AQD_LANE_SER : Nat := 0x1800040
/-- AQD_LANE_RET (12_aqueducts.md). -/
abbrev AQD_LANE_RET : Nat := 0x180000C
/-- AQD_LASER_STATUS (12_aqueducts.md). -/
abbrev AQD_LASER_STATUS : Nat := 0x1800000
/-- AQD_LASER_PWR (12_aqueducts.md). -/
abbrev AQD_LASER_PWR : Nat := 0x1800004
/-- AQD_LASER_THRESH (12_aqueducts.md). -/
abbrev AQD_LASER_THRESH : Nat := 0x1800008
/-- AQD_TXN_STATUS (13_fabric_transactions.md). -/
abbrev AQD_TXN_STATUS : Nat := 0x1800000
/-- AQD_FA (13_fabric_transactions.md). -/
abbrev AQD_FA : Nat := 0x1800004
/-- AQD_TXN_TIMEOUT (13_fabric_transactions.md). -/
abbrev AQD_TXN_TIMEOUT : Nat := 0x1800008
/-- AQD_WIN_SEL (13_fabric_transactions.md). -/
abbrev AQD_WIN_SEL : Nat := 0x1800010
/-- AQD_WIN_TGT_LO (13_fabric_transactions.md). -/
abbrev AQD_WIN_TGT_LO : Nat := 0x1800014
/-- AQD_WIN_TGT_HI (13_fabric_transactions.md). -/
abbrev AQD_WIN_TGT_HI : Nat := 0x1800018
/-- AQD_WIN_CTRL (13_fabric_transactions.md). -/
abbrev AQD_WIN_CTRL : Nat := 0x180001C
/-- AQD_WIN_OP (13_fabric_transactions.md). -/
abbrev AQD_WIN_OP : Nat := 0x1800020
/-- AQD_WIN_STATUS (13_fabric_transactions.md). -/
abbrev AQD_WIN_STATUS : Nat := 0x1800024
/-- AQD_RT_SEL (13_fabric_transactions.md). -/
abbrev AQD_RT_SEL : Nat := 0x1800030
/-- AQD_RT_LO (13_fabric_transactions.md). -/
abbrev AQD_RT_LO : Nat := 0x1800034
/-- AQD_RT_HI (13_fabric_transactions.md). -/
abbrev AQD_RT_HI : Nat := 0x1800038
/-- AQD_TXN_CNT_A (13_fabric_transactions.md). -/
abbrev AQD_TXN_CNT_A : Nat := 0x1800040
/-- AQD_TXN_CNT_B (13_fabric_transactions.md). -/
abbrev AQD_TXN_CNT_B : Nat := 0x1800044
/-- GAT_BAR_CTRL 0; the others follow at a stride of 32 (14_global_operations.md). -/
abbrev GAT_BAR_CTRL : Nat := 0x800500
/-- GAT_BAR_PARENT 0; the others follow at a stride of 32 (14_global_operations.md). -/
abbrev GAT_BAR_PARENT : Nat := 0x800504
/-- GAT_BAR_DIES_LO 0; the others follow at a stride of 32 (14_global_operations.md). -/
abbrev GAT_BAR_DIES_LO : Nat := 0x800508
/-- GAT_BAR_DIES_HI 0; the others follow at a stride of 32 (14_global_operations.md). -/
abbrev GAT_BAR_DIES_HI : Nat := 0x80050C
/-- GAT_BAR_STATE 0; the others follow at a stride of 32 (14_global_operations.md). -/
abbrev GAT_BAR_STATE : Nat := 0x800510
/-- GAT_BAR_ARRIVED 0; the others follow at a stride of 32 (14_global_operations.md). -/
abbrev GAT_BAR_ARRIVED : Nat := 0x800514
/-- GAT_BAR_PAYLOAD 0; the others follow at a stride of 32 (14_global_operations.md). -/
abbrev GAT_BAR_PAYLOAD : Nat := 0x800518
/-- GAT_BAR_RESULT 0; the others follow at a stride of 32 (14_global_operations.md). -/
abbrev GAT_BAR_RESULT : Nat := 0x80051C
/-- GAT_RLY_WIN 0; the others follow at a stride of 16 (14_global_operations.md). -/
abbrev GAT_RLY_WIN : Nat := 0x800400
/-- GAT_RLY_GEN 0; the others follow at a stride of 16 (14_global_operations.md). -/
abbrev GAT_RLY_GEN : Nat := 0x800404
/-- GAT_RLY_DONE 0; the others follow at a stride of 16 (14_global_operations.md). -/
abbrev GAT_RLY_DONE : Nat := 0x800408
/-- GAT_RLY_GATE 0; the others follow at a stride of 16 (14_global_operations.md). -/
abbrev GAT_RLY_GATE : Nat := 0x80040C
/-- GAT_BAR_STATUS (14_global_operations.md). -/
abbrev GAT_BAR_STATUS : Nat := 0x8004F0
/-- SRV_MT_SEL (15_weight_lifecycle.md). -/
abbrev SRV_MT_SEL : Nat := 0x2000100
/-- SRV_MT_EPOCH (15_weight_lifecycle.md). -/
abbrev SRV_MT_EPOCH : Nat := 0x2000104
/-- SRV_MT_PROG_LO (15_weight_lifecycle.md). -/
abbrev SRV_MT_PROG_LO : Nat := 0x2000108
/-- SRV_MT_PROG_HI (15_weight_lifecycle.md). -/
abbrev SRV_MT_PROG_HI : Nat := 0x200010C
/-- SRV_MT_CTRL (15_weight_lifecycle.md). -/
abbrev SRV_MT_CTRL : Nat := 0x2000110
/-- SRV_MT_APPLY (15_weight_lifecycle.md). -/
abbrev SRV_MT_APPLY : Nat := 0x2000114
/-- SRV_MT_PREV (15_weight_lifecycle.md). -/
abbrev SRV_MT_PREV : Nat := 0x2000118
/-- SRV_MT_PIN_ACT (15_weight_lifecycle.md). -/
abbrev SRV_MT_PIN_ACT : Nat := 0x200011C
/-- SRV_MT_PIN_PREV (15_weight_lifecycle.md). -/
abbrev SRV_MT_PIN_PREV : Nat := 0x2000120
/-- SRV_MT_LOAD (15_weight_lifecycle.md). -/
abbrev SRV_MT_LOAD : Nat := 0x2000124
/-- SRV_WT_CNT_A (15_weight_lifecycle.md). -/
abbrev SRV_WT_CNT_A : Nat := 0x2000128
/-- SRV_WT_CNT_B (15_weight_lifecycle.md). -/
abbrev SRV_WT_CNT_B : Nat := 0x200012C
/-- CIS_SCRUB_CTRL (15_weight_lifecycle.md). -/
abbrev CIS_SCRUB_CTRL : Nat := 0x200020
/-- CIS_SCRUB_RUN (15_weight_lifecycle.md). -/
abbrev CIS_SCRUB_RUN : Nat := 0x200024
/-- CIS_SCRUB_DEST (15_weight_lifecycle.md). -/
abbrev CIS_SCRUB_DEST : Nat := 0x200028
/-- SRV_STATUS (16_serving_requests.md). -/
abbrev SRV_STATUS : Nat := 0x2000000
/-- SRV_CTRL (16_serving_requests.md). -/
abbrev SRV_CTRL : Nat := 0x2000004
/-- SRV_CONV (16_serving_requests.md). -/
abbrev SRV_CONV : Nat := 0x2000008
/-- SRV_COMMIT_LO (16_serving_requests.md). -/
abbrev SRV_COMMIT_LO : Nat := 0x2000010
/-- SRV_COMMIT_HI (16_serving_requests.md). -/
abbrev SRV_COMMIT_HI : Nat := 0x2000014
/-- SRV_COMMIT_STEP_LO (16_serving_requests.md). -/
abbrev SRV_COMMIT_STEP_LO : Nat := 0x2000018
/-- SRV_COMMIT_STEP_HI (16_serving_requests.md). -/
abbrev SRV_COMMIT_STEP_HI : Nat := 0x200001C
/-- SRV_END_CNT_A (16_serving_requests.md). -/
abbrev SRV_END_CNT_A : Nat := 0x2000020
/-- SRV_END_CNT_B (16_serving_requests.md). -/
abbrev SRV_END_CNT_B : Nat := 0x2000024
/-- SRV_END_CNT_C (16_serving_requests.md). -/
abbrev SRV_END_CNT_C : Nat := 0x2000028
/-- SRV_END_CNT_D (16_serving_requests.md). -/
abbrev SRV_END_CNT_D : Nat := 0x200002C
/-- SRV_CANCEL_CNT (16_serving_requests.md). -/
abbrev SRV_CANCEL_CNT : Nat := 0x2000030
/-- SRV_CONV_CNT (16_serving_requests.md). -/
abbrev SRV_CONV_CNT : Nat := 0x2000034
/-- SRV_CANCEL_LAT (16_serving_requests.md). -/
abbrev SRV_CANCEL_LAT : Nat := 0x2000038
/-- SRV_SPEC_CNT (17_token_selection.md). -/
abbrev SRV_SPEC_CNT : Nat := 0x200003C
/-- SRV_SEL_CNT (17_token_selection.md). -/
abbrev SRV_SEL_CNT : Nat := 0x2000040
/-- HAL_CORE_STATUS (18_town_hall_and_mailboxes.md). -/
abbrev HAL_CORE_STATUS : Nat := 0xB00000
/-- HAL_CORE_CTRL (18_town_hall_and_mailboxes.md). -/
abbrev HAL_CORE_CTRL : Nat := 0xB00004
/-- HAL_IRQ_PEND (18_town_hall_and_mailboxes.md). -/
abbrev HAL_IRQ_PEND : Nat := 0xB00008
/-- HAL_IRQ_EN (18_town_hall_and_mailboxes.md). -/
abbrev HAL_IRQ_EN : Nat := 0xB0000C
/-- HAL_IRQ_TGT (18_town_hall_and_mailboxes.md). -/
abbrev HAL_IRQ_TGT : Nat := 0xB00010
/-- HAL_MTIMECMP_LO (18_town_hall_and_mailboxes.md). -/
abbrev HAL_MTIMECMP_LO : Nat := 0xB00018
/-- HAL_MTIMECMP_HI (18_town_hall_and_mailboxes.md). -/
abbrev HAL_MTIMECMP_HI : Nat := 0xB0001C
/-- HAL_TIMER_APPLY (18_town_hall_and_mailboxes.md). -/
abbrev HAL_TIMER_APPLY : Nat := 0xB00020
/-- HAL_TX_DATA 0; the others follow at a stride of 4 (18_town_hall_and_mailboxes.md). -/
abbrev HAL_TX_DATA : Nat := 0xB00100
/-- HAL_TX_DST (18_town_hall_and_mailboxes.md). -/
abbrev HAL_TX_DST : Nat := 0xB00140
/-- HAL_TX_CTRL (18_town_hall_and_mailboxes.md). -/
abbrev HAL_TX_CTRL : Nat := 0xB00144
/-- HAL_COORD (18_town_hall_and_mailboxes.md). -/
abbrev HAL_COORD : Nat := 0xB00000
/-- HAL_REMOTE (18_town_hall_and_mailboxes.md). -/
abbrev HAL_REMOTE : Nat := 0xB00004
/-- HAL_ACC_STATUS (18_town_hall_and_mailboxes.md). -/
abbrev HAL_ACC_STATUS : Nat := 0xB00008
/-- HAL_ACC_ADDR (18_town_hall_and_mailboxes.md). -/
abbrev HAL_ACC_ADDR : Nat := 0xB0000C
/-- HAL_PERR (18_town_hall_and_mailboxes.md). -/
abbrev HAL_PERR : Nat := 0xB00010
/-- MBX_MSG 0; the others follow at a stride of 4 (18_town_hall_and_mailboxes.md). -/
abbrev MBX_MSG : Nat := 0x900000
/-- MBX_STAMP (18_town_hall_and_mailboxes.md). -/
abbrev MBX_STAMP : Nat := 0x900040
/-- MBX_STATUS (18_town_hall_and_mailboxes.md). -/
abbrev MBX_STATUS : Nat := 0x900044
/-- MBX_DRAIN (18_town_hall_and_mailboxes.md). -/
abbrev MBX_DRAIN : Nat := 0x900048
/-- MBX_CTRL (18_town_hall_and_mailboxes.md). -/
abbrev MBX_CTRL : Nat := 0x90004C
/-- MBX_CNT (18_town_hall_and_mailboxes.md). -/
abbrev MBX_CNT : Nat := 0x900050
/-- CFG_STATUS (19_boot_configuration_trust.md). -/
abbrev CFG_STATUS : Nat := 0x3E00000
/-- CFG_SEL (19_boot_configuration_trust.md). -/
abbrev CFG_SEL : Nat := 0x3E00004
/-- CFG_DATA (19_boot_configuration_trust.md). -/
abbrev CFG_DATA : Nat := 0x3E00008
/-- CFG_DIGEST 0; the others follow at a stride of 4 (19_boot_configuration_trust.md). -/
abbrev CFG_DIGEST : Nat := 0x3E00040
/-- TRU_STATUS (19_boot_configuration_trust.md). -/
abbrev TRU_STATUS : Nat := 0x3F00000
/-- TRU_FW_VER (19_boot_configuration_trust.md). -/
abbrev TRU_FW_VER : Nat := 0x3F00004
/-- TRU_FW_SVN (19_boot_configuration_trust.md). -/
abbrev TRU_FW_SVN : Nat := 0x3F00008
/-- TRU_FW_DIGEST 0; the others follow at a stride of 4 (19_boot_configuration_trust.md). -/
abbrev TRU_FW_DIGEST : Nat := 0x3F00040
/-- TRU_ID_DIGEST 0; the others follow at a stride of 4 (19_boot_configuration_trust.md). -/
abbrev TRU_ID_DIGEST : Nat := 0x3F00080
/-- TRU_ROOT_HASH 0; the others follow at a stride of 4 (19_boot_configuration_trust.md). -/
abbrev TRU_ROOT_HASH : Nat := 0x3F000C0
/-- CLK_DIE_STATUS (20_power_and_clocking.md). -/
abbrev CLK_DIE_STATUS : Nat := 0xA00000
/-- PWR_RAIL_CORE (20_power_and_clocking.md). -/
abbrev PWR_RAIL_CORE : Nat := 0xA00004
/-- PWR_RAIL_AUX (20_power_and_clocking.md). -/
abbrev PWR_RAIL_AUX : Nat := 0xA00008
/-- CLK_DROOP_CNT (20_power_and_clocking.md). -/
abbrev CLK_DROOP_CNT : Nat := 0xA0000C
/-- CLK_TJ (20_power_and_clocking.md). -/
abbrev CLK_TJ : Nat := 0xA00010
/-- CLK_DST_STATUS (20_power_and_clocking.md). -/
abbrev CLK_DST_STATUS : Nat := 0xA00000
/-- CLK_DST_MARGIN (20_power_and_clocking.md). -/
abbrev CLK_DST_MARGIN : Nat := 0xA00004
/-- CLK_DEV_STATUS (20_power_and_clocking.md). -/
abbrev CLK_DEV_STATUS : Nat := 0xA00100
/-- CLK_OP_NEXT (20_power_and_clocking.md). -/
abbrev CLK_OP_NEXT : Nat := 0xA00104
/-- PWR_VTARGET (20_power_and_clocking.md). -/
abbrev PWR_VTARGET : Nat := 0xA00108
/-- CLK_OP_TALLY_LO (20_power_and_clocking.md). -/
abbrev CLK_OP_TALLY_LO : Nat := 0xA0010C
/-- CLK_OP_TALLY_HI (20_power_and_clocking.md). -/
abbrev CLK_OP_TALLY_HI : Nat := 0xA00110
/-- CLK_OP_APPLY (20_power_and_clocking.md). -/
abbrev CLK_OP_APPLY : Nat := 0xA00114
/-- CLK_OP_LIMIT (20_power_and_clocking.md). -/
abbrev CLK_OP_LIMIT : Nat := 0xA00118
/-- CLK_THERM (20_power_and_clocking.md). -/
abbrev CLK_THERM : Nat := 0xA0011C
/-- PWR_IN (20_power_and_clocking.md). -/
abbrev PWR_IN : Nat := 0xA00120
/-- PWR_IN_POWER (20_power_and_clocking.md). -/
abbrev PWR_IN_POWER : Nat := 0xA00124
/-- PWR_LIMIT (20_power_and_clocking.md). -/
abbrev PWR_LIMIT : Nat := 0xA00128
/-- PWR_ALERT (20_power_and_clocking.md). -/
abbrev PWR_ALERT : Nat := 0xA0012C
/-- CLK_CHG_CNT (20_power_and_clocking.md). -/
abbrev CLK_CHG_CNT : Nat := 0xA00130
/-- CLK_TALLY_LO (20_power_and_clocking.md). -/
abbrev CLK_TALLY_LO : Nat := 0xA00140
/-- CLK_TALLY_HI (20_power_and_clocking.md). -/
abbrev CLK_TALLY_HI : Nat := 0xA00144
/-- CLK_TIME_NS (20_power_and_clocking.md). -/
abbrev CLK_TIME_NS : Nat := 0xA00150
/-- CLK_TIME_SEC_LO (20_power_and_clocking.md). -/
abbrev CLK_TIME_SEC_LO : Nat := 0xA00154
/-- CLK_TIME_SEC_HI (20_power_and_clocking.md). -/
abbrev CLK_TIME_SEC_HI : Nat := 0xA00158
/-- CLK_TIME_RATE (20_power_and_clocking.md). -/
abbrev CLK_TIME_RATE : Nat := 0xA0015C
/-- CLK_TIME_STEP (20_power_and_clocking.md). -/
abbrev CLK_TIME_STEP : Nat := 0xA00160
/-- CLK_TIME_CTRL (20_power_and_clocking.md). -/
abbrev CLK_TIME_CTRL : Nat := 0xA00164
/-- DIE_GATE_REHOME (21_continuity.md). -/
abbrev DIE_GATE_REHOME : Nat := 0x180
/-- DIE_BLOCK_RET (21_continuity.md). -/
abbrev DIE_BLOCK_RET : Nat := 0x184
/-- DIE_BRG_RETIRE (21_continuity.md). -/
abbrev DIE_BRG_RETIRE : Nat := 0x188
/-- SRV_CAP_STATUS (21_continuity.md). -/
abbrev SRV_CAP_STATUS : Nat := 0x2000200
/-- SRV_CAP_ALARM (21_continuity.md). -/
abbrev SRV_CAP_ALARM : Nat := 0x2000204
/-- SRV_CAP_RET_A (21_continuity.md). -/
abbrev SRV_CAP_RET_A : Nat := 0x2000208
/-- SRV_CAP_RET_B (21_continuity.md). -/
abbrev SRV_CAP_RET_B : Nat := 0x200020C
/-- SRV_CAP_RET_C (21_continuity.md). -/
abbrev SRV_CAP_RET_C : Nat := 0x2000210
/-- SRV_CAP_RET_D (21_continuity.md). -/
abbrev SRV_CAP_RET_D : Nat := 0x2000214
/-- SRV_FLT_CNT (21_continuity.md). -/
abbrev SRV_FLT_CNT : Nat := 0x2000218
/-- SRV_REPLAY_CNT (21_continuity.md). -/
abbrev SRV_REPLAY_CNT : Nat := 0x200021C
/-- SRV_ST_CTRL (21_continuity.md). -/
abbrev SRV_ST_CTRL : Nat := 0x2000220
/-- SRV_ST_STATUS (21_continuity.md). -/
abbrev SRV_ST_STATUS : Nat := 0x2000224
/-- SRV_UPD_STATUS (21_continuity.md). -/
abbrev SRV_UPD_STATUS : Nat := 0x2000228
/-- SRV_LEDGER_SEL (21_continuity.md). -/
abbrev SRV_LEDGER_SEL : Nat := 0x200022C
/-- SRV_LEDGER_LOC (21_continuity.md). -/
abbrev SRV_LEDGER_LOC : Nat := 0x2000230
/-- SRV_LEDGER_STATE (21_continuity.md). -/
abbrev SRV_LEDGER_STATE : Nat := 0x2000234
/-- DIE_GPIO_IN (22_module_interfaces.md). -/
abbrev DIE_GPIO_IN : Nat := 0x800
/-- DIE_GPIO_OUT (22_module_interfaces.md). -/
abbrev DIE_GPIO_OUT : Nat := 0x804
/-- DIE_GPIO_OE (22_module_interfaces.md). -/
abbrev DIE_GPIO_OE : Nat := 0x808

end R

namespace F

abbrev DIE_NAN_STATUS_VALID : Fld := ⟨0, 1⟩
abbrev DIE_NAN_STATUS_OVERRUN : Fld := ⟨1, 1⟩
abbrev DIE_NAN_STATUS_HALTED : Fld := ⟨2, 1⟩
abbrev DIE_NAN_STATUS_KIND : Fld := ⟨3, 1⟩
abbrev DIE_NAN_STATUS_UNIT : Fld := ⟨4, 4⟩
abbrev DIE_NAN_STATUS_BLOCK : Fld := ⟨8, 5⟩
abbrev DIE_NAN_STATUS_DIE : Fld := ⟨13, 6⟩
abbrev DIE_NAN_STATUS_ENTRY_KIND : Fld := ⟨19, 1⟩
abbrev DIE_NAN_STATUS_ROW_VALID : Fld := ⟨20, 1⟩
abbrev DIE_NAN_STATUS_ROW_CLASS : Fld := ⟨21, 1⟩
abbrev DIE_NAN_STEP_LO_STEP : Fld := ⟨0, 32⟩
abbrev DIE_NAN_STEP_HI_STEP : Fld := ⟨0, 32⟩
abbrev DIE_NAN_CYCLE_CYCLE : Fld := ⟨0, 32⟩
abbrev DIE_NAN_BUNDLE_ADDR : Fld := ⟨0, 24⟩
abbrev DIE_NAN_ENTRY_INDEX : Fld := ⟨0, 24⟩
abbrev DIE_NAN_ROW_ROW : Fld := ⟨0, 16⟩
abbrev DIE_NAN_TAG_TAG : Fld := ⟨0, 16⟩
abbrev DIE_NAN_CNT_COUNT : Fld := ⟨0, 32⟩
abbrev DIE_CVT_CNT_OVERFLOW : Fld := ⟨0, 16⟩
abbrev DIE_CVT_CNT_UNDERFLOW : Fld := ⟨16, 16⟩
abbrev EAF_STATUS_NAN_SEEN : Fld := ⟨0, 1⟩
abbrev EAF_STATUS_INF_CONFLICT : Fld := ⟨1, 1⟩
abbrev EAF_STATUS_OVF_SEEN : Fld := ⟨2, 1⟩
abbrev EAF_STATUS_FMT_ERR : Fld := ⟨3, 1⟩
abbrev EAF_FMT_CNT_COUNT : Fld := ⟨0, 16⟩
abbrev EAF_OVF_CNT_COUNT : Fld := ⟨0, 16⟩
abbrev DIE_EDITION_EDITION : Fld := ⟨0, 16⟩
abbrev SEQ_MQ_STATUS_BUSY : Fld := ⟨0, 1⟩
abbrev SEQ_MQ_STATUS_TILE_READY : Fld := ⟨1, 1⟩
abbrev SEQ_MQ_STATUS_NEXT_PLANE : Fld := ⟨2, 1⟩
abbrev SEQ_MQ_STATUS_STALLED : Fld := ⟨3, 1⟩
abbrev SEQ_MQ_PASS_CNT_COUNT : Fld := ⟨0, 32⟩
abbrev SEQ_MQ_STALL_A_TILE_WAIT : Fld := ⟨0, 16⟩
abbrev SEQ_MQ_STALL_A_CHAIN_WAIT : Fld := ⟨16, 16⟩
abbrev SEQ_MQ_STALL_B_ACT_WAIT : Fld := ⟨0, 16⟩
abbrev SEQ_MQ_STALL_B_READER_WAIT : Fld := ⟨16, 16⟩
abbrev SEQ_MQ_TENANT_CNT_COUNT : Fld := ⟨0, 32⟩
abbrev SEQ_MQ_EXP_VALID_SLOTS : Fld := ⟨0, 32⟩
abbrev VEC_STATUS_BUSY : Fld := ⟨0, 1⟩
abbrev VEC_STATUS_QUEUED : Fld := ⟨1, 1⟩
abbrev VEC_STATUS_STALLED : Fld := ⟨2, 1⟩
abbrev VEC_CHAIN_CNT_COUNT : Fld := ⟨0, 32⟩
abbrev VEC_ITER_CNT_COUNT : Fld := ⟨0, 32⟩
abbrev VEC_STALL_A_OPERAND_WAIT : Fld := ⟨0, 16⟩
abbrev VEC_STALL_A_EAF_WAIT : Fld := ⟨16, 16⟩
abbrev VEC_STALL_B_LOOKUP_CYC : Fld := ⟨0, 16⟩
abbrev VEC_STALL_B_ISSUE_WAIT : Fld := ⟨16, 16⟩
abbrev VEC_MASKED_CNT_COUNT : Fld := ⟨0, 32⟩
abbrev CIS_STATUS_MAX_DEBT : Fld := ⟨0, 8⟩
abbrev CIS_STATUS_FORCED : Fld := ⟨8, 1⟩
abbrev CIS_STATUS_REPAIR_BUSY : Fld := ⟨9, 1⟩
abbrev CIS_PWR_CTRL_ON : Fld := ⟨0, 32⟩
abbrev CIS_PWR_RDY_READY : Fld := ⟨0, 32⟩
abbrev CIS_REFRESH_CNT_FORCED : Fld := ⟨0, 16⟩
abbrev CIS_REFRESH_CNT_STALL_CYC : Fld := ⟨16, 16⟩
abbrev CIS_PERR_CNT_REREAD : Fld := ⟨0, 16⟩
abbrev CIS_PERR_CNT_RELOAD : Fld := ⟨16, 16⟩
abbrev CIS_PERR_STATUS_VALID : Fld := ⟨0, 1⟩
abbrev CIS_PERR_STATUS_OUTCOME : Fld := ⟨1, 2⟩
abbrev CIS_PERR_STATUS_READER : Fld := ⟨3, 2⟩
abbrev CIS_PERR_LINE_LINE : Fld := ⟨0, 17⟩
abbrev CIS_GROUND_PAGE : Fld := ⟨0, 19⟩
abbrev CIS_GROUND_VALID : Fld := ⟨31, 1⟩
abbrev WEL_PWR_CTRL_WIDE_ON : Fld := ⟨0, 12⟩
abbrev WEL_PWR_CTRL_NARROW_ON : Fld := ⟨12, 8⟩
abbrev WEL_PWR_RDY_WIDE_RDY : Fld := ⟨0, 12⟩
abbrev WEL_PWR_RDY_NARROW_RDY : Fld := ⟨12, 8⟩
abbrev WEL_REPLAY_CNT_COUNT : Fld := ⟨0, 32⟩
abbrev WEL_ARB_CNT_WIDE_LOST : Fld := ⟨0, 16⟩
abbrev WEL_ARB_CNT_NARROW_LOST : Fld := ⟨16, 16⟩
abbrev WEL_PERR_CNT_COUNT : Fld := ⟨0, 32⟩
abbrev WEL_ZERO_RANGE_FIRST : Fld := ⟨0, 16⟩
abbrev WEL_ZERO_RANGE_COUNT : Fld := ⟨16, 16⟩
abbrev WEL_PERR_STATUS_VALID : Fld := ⟨0, 1⟩
abbrev WEL_PERR_STATUS_CLASS : Fld := ⟨1, 1⟩
abbrev WEL_PERR_STATUS_BASIN : Fld := ⟨2, 1⟩
abbrev WEL_PERR_STATUS_READER : Fld := ⟨3, 3⟩
abbrev WEL_PERR_ROW_ROW : Fld := ⟨0, 15⟩
abbrev WEL_ZERO_CTRL_GO : Fld := ⟨0, 1⟩
abbrev WEL_ZERO_CTRL_CLASS : Fld := ⟨1, 1⟩
abbrev WEL_ZERO_CTRL_BUSY : Fld := ⟨2, 1⟩
abbrev WEL_MARK_CTRL_ROW : Fld := ⟨0, 15⟩
abbrev WEL_MARK_CTRL_CLASS : Fld := ⟨15, 1⟩
abbrev WEL_MARK_CTRL_GEN : Fld := ⟨16, 3⟩
abbrev WEL_MARK_CTRL_FILLED : Fld := ⟨19, 1⟩
abbrev PMP_STATUS_BUSY : Fld := ⟨0, 1⟩
abbrev PMP_STATUS_DIRECT_DEPTH : Fld := ⟨1, 3⟩
abbrev PMP_STATUS_SLUICE_DEPTH : Fld := ⟨4, 6⟩
abbrev PMP_STATUS_RING_ACTIVE : Fld := ⟨10, 1⟩
abbrev PMP_STATUS_PEND : Fld := ⟨11, 1⟩
abbrev PMP_RING_BASE_BASE : Fld := ⟨6, 18⟩
abbrev PMP_RING_SIZE_LOG2 : Fld := ⟨0, 4⟩
abbrev PMP_RING_APPLY_APPLY : Fld := ⟨0, 1⟩
abbrev PMP_RING_HEAD_HEAD : Fld := ⟨0, 12⟩
abbrev PMP_RING_TAIL_TAIL : Fld := ⟨0, 12⟩
abbrev PMP_DESC_CNT_COUNT : Fld := ⟨0, 32⟩
abbrev PMP_FLIT_CNT_COUNT : Fld := ⟨0, 32⟩
abbrev PMP_STALL_CNT_QUEUE_FULL : Fld := ⟨0, 16⟩
abbrev PMP_STALL_CNT_NACK : Fld := ⟨16, 16⟩
abbrev PMP_ERR_STATUS_VALID : Fld := ⟨0, 1⟩
abbrev PMP_ERR_STATUS_CODE : Fld := ⟨1, 4⟩
abbrev PMP_ERR_STATUS_QUEUE : Fld := ⟨5, 2⟩
abbrev PMP_ERR_STATUS_ROW : Fld := ⟨7, 12⟩
abbrev PMP_ERR_DESC_INDEX : Fld := ⟨0, 16⟩
abbrev PMP_ERR_DESC_TAG : Fld := ⟨16, 16⟩
abbrev SQR_STATUS_LINK_UP : Fld := ⟨0, 5⟩
abbrev SQR_STATUS_RETIRED : Fld := ⟨5, 5⟩
abbrev SQR_STATUS_DETOUR : Fld := ⟨10, 1⟩
abbrev SQR_STATUS_PEND : Fld := ⟨11, 1⟩
abbrev SQR_RETIRE_LINKS : Fld := ⟨0, 5⟩
abbrev SQR_APPLY_APPLY : Fld := ⟨0, 1⟩
abbrev SQR_MERGE_CNT_COUNT : Fld := ⟨0, 32⟩
abbrev SQR_RETRY_CNT_RETRY : Fld := ⟨0, 16⟩
abbrev SQR_RETRY_CNT_DETOURED : Fld := ⟨16, 16⟩
abbrev SQR_EXCESS_CNT_CYCLES : Fld := ⟨0, 32⟩
abbrev BRG_STATUS_PRESENT : Fld := ⟨0, 1⟩
abbrev BRG_STATUS_UP : Fld := ⟨1, 1⟩
abbrev BRG_STATUS_LANES : Fld := ⟨2, 7⟩
abbrev BRG_STATUS_DEGRADED : Fld := ⟨9, 1⟩
abbrev BRG_LANE_RET_LO_LANES : Fld := ⟨0, 32⟩
abbrev BRG_LANE_RET_HI_LANES : Fld := ⟨0, 32⟩
abbrev BRG_RATE_RATE : Fld := ⟨0, 16⟩
abbrev BRG_RATE_PERIOD : Fld := ⟨16, 16⟩
abbrev BRG_RETRY_CNT_RETRY : Fld := ⟨0, 16⟩
abbrev BRG_RETRY_CNT_CRC : Fld := ⟨16, 16⟩
abbrev BRG_MAX_LAT_NS : Fld := ⟨0, 16⟩
abbrev FNT_STATUS_BUSY : Fld := ⟨0, 1⟩
abbrev FNT_STATUS_STALL : Fld := ⟨1, 1⟩
abbrev FNT_STATUS_HELD : Fld := ⟨2, 10⟩
abbrev FNT_TIMEOUT_US : Fld := ⟨0, 20⟩
abbrev FNT_STALL_TGT_LIST : Fld := ⟨0, 9⟩
abbrev FNT_STALL_TGT_INDEX : Fld := ⟨9, 6⟩
abbrev FNT_STALL_TGT_FA : Fld := ⟨16, 16⟩
abbrev FNT_SEL_ENTRY : Fld := ⟨0, 13⟩
abbrev FNT_SEL_LIST : Fld := ⟨16, 9⟩
abbrev FNT_ENTRY_LO_ENTRY : Fld := ⟨0, 32⟩
abbrev FNT_ENTRY_HI_ENTRY : Fld := ⟨0, 32⟩
abbrev FNT_LIST_FIRST : Fld := ⟨0, 13⟩
abbrev FNT_LIST_COUNT_M1 : Fld := ⟨13, 6⟩
abbrev FNT_LIST_VALID : Fld := ⟨31, 1⟩
abbrev FNT_REOFFER_CNT_COUNT : Fld := ⟨0, 32⟩
abbrev FNT_STALL_CNT_COUNT : Fld := ⟨0, 16⟩
abbrev FNT_REFUSE_CNT_COUNT : Fld := ⟨0, 16⟩
abbrev SEQ_STATUS_RUNNING : Fld := ⟨0, 1⟩
abbrev SEQ_STATUS_DONE : Fld := ⟨1, 1⟩
abbrev SEQ_STATUS_HELD : Fld := ⟨2, 1⟩
abbrev SEQ_STATUS_SLOT : Fld := ⟨3, 2⟩
abbrev SEQ_STATUS_PS_REFUSED : Fld := ⟨5, 1⟩
abbrev SEQ_BUNDLE_ADDR : Fld := ⟨0, 24⟩
abbrev SEQ_CYCLE_CYCLE : Fld := ⟨0, 32⟩
abbrev SEQ_PS_ADDR_WORD : Fld := ⟨2, 17⟩
abbrev SEQ_PS_DATA_DATA : Fld := ⟨0, 32⟩
abbrev SEQ_US_CTRL_UNIT : Fld := ⟨0, 16⟩
abbrev SEQ_US_CTRL_VALID : Fld := ⟨31, 1⟩
abbrev SEQ_US_PS_BASE : Fld := ⟨0, 19⟩
abbrev SEQ_US_CIS_BASE : Fld := ⟨0, 17⟩
abbrev SEQ_US_WIDE_BASE : Fld := ⟨0, 13⟩
abbrev SEQ_US_NARROW_BASE : Fld := ⟨0, 15⟩
abbrev SEQ_US_ENTRY_BASE : Fld := ⟨0, 10⟩
abbrev DIE_PLACE_APPLY_APPLY : Fld := ⟨0, 1⟩
abbrev DIE_PLACE_APPLY_PEND : Fld := ⟨1, 1⟩
abbrev DIE_HOME_A_FIRST : Fld := ⟨0, 13⟩
abbrev DIE_HOME_A_COUNT : Fld := ⟨13, 13⟩
abbrev DIE_HOME_A_VALID : Fld := ⟨31, 1⟩
abbrev DIE_HOME_B_HOST : Fld := ⟨0, 5⟩
abbrev DIE_HOME_B_HOST_BASE : Fld := ⟨5, 13⟩
abbrev DIE_STEP_STATUS_RUNNING : Fld := ⟨0, 1⟩
abbrev DIE_STEP_STATUS_DONE : Fld := ⟨1, 1⟩
abbrev DIE_STEP_STATUS_ABORTED : Fld := ⟨2, 1⟩
abbrev DIE_STEP_STATUS_LOCKSTEP : Fld := ⟨3, 1⟩
abbrev DIE_STEP_STATUS_HOLD : Fld := ⟨4, 1⟩
abbrev DIE_START_TALLY_LO_TALLY : Fld := ⟨0, 32⟩
abbrev DIE_START_TALLY_HI_TALLY : Fld := ⟨0, 32⟩
abbrev DIE_STEP_ELAPSED_CYCLES : Fld := ⟨0, 32⟩
abbrev DIE_HOLD_CNT_RAISED : Fld := ⟨0, 16⟩
abbrev DIE_HOLD_CYC_CYCLES : Fld := ⟨0, 32⟩
abbrev DIE_WDOG_US : Fld := ⟨0, 32⟩
abbrev DIE_FAULT_STATUS_VALID : Fld := ⟨0, 1⟩
abbrev DIE_FAULT_STATUS_CODE : Fld := ⟨1, 5⟩
abbrev DIE_FAULT_STATUS_UNIT : Fld := ⟨6, 4⟩
abbrev DIE_FAULT_STATUS_BLOCK : Fld := ⟨10, 5⟩
abbrev DIE_FAULT_STATUS_ENTRY_KIND : Fld := ⟨15, 2⟩
abbrev DIE_FAULT_STATUS_ROW_VALID : Fld := ⟨17, 1⟩
abbrev DIE_FAULT_STEP_LO_STEP : Fld := ⟨0, 32⟩
abbrev DIE_FAULT_STEP_HI_STEP : Fld := ⟨0, 32⟩
abbrev DIE_FAULT_CYCLE_CYCLE : Fld := ⟨0, 32⟩
abbrev DIE_FAULT_BUNDLE_ADDR : Fld := ⟨0, 24⟩
abbrev DIE_FAULT_ENTRY_INDEX : Fld := ⟨0, 24⟩
abbrev DIE_FAULT_ROW_ROW : Fld := ⟨0, 16⟩
abbrev DIE_FAULT_TAG_TAG : Fld := ⟨0, 16⟩
abbrev DIE_FAULT_AUX_AUX : Fld := ⟨0, 32⟩
abbrev DIE_FAULT_CNT_COUNT : Fld := ⟨0, 16⟩
abbrev DIE_SLIP_STATUS_COUNT : Fld := ⟨0, 9⟩
abbrev DIE_SLIP_STATUS_OVERRUN : Fld := ⟨9, 1⟩
abbrev DIE_SLIP_SEL_ENTRY : Fld := ⟨0, 8⟩
abbrev DIE_SLIP_E_WORD : Fld := ⟨0, 32⟩
abbrev GAT_COUNT_COUNT : Fld := ⟨0, 32⟩
abbrev GAT_THRESH_THRESH : Fld := ⟨0, 32⟩
abbrev GAT_CTRL_OWNER_KIND : Fld := ⟨0, 2⟩
abbrev GAT_CTRL_OWNER_BLOCK : Fld := ⟨2, 5⟩
abbrev GAT_CTRL_REMOTE_EN : Fld := ⟨7, 1⟩
abbrev GAT_CTRL_WAITERS : Fld := ⟨8, 7⟩
abbrev GAT_OP_OPC : Fld := ⟨0, 3⟩
abbrev GAT_OP_VALUE : Fld := ⟨8, 24⟩
abbrev GAT_HALLWAIT_CORE : Fld := ⟨0, 2⟩
abbrev GAT_HALLWAIT_DIE : Fld := ⟨2, 6⟩
abbrev GAT_HALLWAIT_ARM : Fld := ⟨8, 1⟩
abbrev GAT_HALLWAIT_REFUSED : Fld := ⟨9, 1⟩
abbrev GAT_BANK_STATUS_REMOTE_REFUSED : Fld := ⟨0, 16⟩
abbrev GAT_BANK_STATUS_FAULTS : Fld := ⟨16, 16⟩
abbrev RSV_STATUS_READY : Fld := ⟨0, 1⟩
abbrev RSV_STATUS_PORT_UP : Fld := ⟨1, 2⟩
abbrev RSV_STATUS_PEND : Fld := ⟨3, 1⟩
abbrev RSV_STATUS_SHARE_ERR : Fld := ⟨4, 1⟩
abbrev RSV_STATUS_ZEROING : Fld := ⟨5, 1⟩
abbrev RSV_STATUS_RETIRED : Fld := ⟨6, 16⟩
abbrev RSV_SHARE_VC1 : Fld := ⟨0, 8⟩
abbrev RSV_SHARE_VC2 : Fld := ⟨8, 8⟩
abbrev RSV_SHARE_VC3 : Fld := ⟨16, 8⟩
abbrev RSV_SHARE_VC4 : Fld := ⟨24, 8⟩
abbrev RSV_APPLY_APPLY : Fld := ⟨0, 1⟩
abbrev RSV_PT_SEL_PAGE : Fld := ⟨0, 16⟩
abbrev RSV_PERR_CNT_REREAD : Fld := ⟨0, 16⟩
abbrev RSV_PERR_CNT_REFUSED : Fld := ⟨16, 16⟩
abbrev RSV_REFUSE_CNT_COUNT : Fld := ⟨0, 32⟩
abbrev RSV_RATE_A_VC1 : Fld := ⟨0, 16⟩
abbrev RSV_RATE_A_VC2 : Fld := ⟨16, 16⟩
abbrev RSV_RATE_B_VC3 : Fld := ⟨0, 16⟩
abbrev RSV_RATE_B_VC4 : Fld := ⟨16, 16⟩
abbrev RSV_MAX_LAT_NS : Fld := ⟨0, 16⟩
abbrev RSV_PT_ENTRY_KIND : Fld := ⟨0, 3⟩
abbrev RSV_PT_ENTRY_STEP_RD : Fld := ⟨3, 1⟩
abbrev RSV_PT_ENTRY_STEP_WR : Fld := ⟨4, 1⟩
abbrev RSV_PT_ENTRY_ZEROING : Fld := ⟨5, 1⟩
abbrev RSV_PT_ENTRY_REFS : Fld := ⟨16, 16⟩
abbrev RSV_PERR_STATUS_VALID : Fld := ⟨0, 1⟩
abbrev RSV_PERR_STATUS_OUTCOME : Fld := ⟨1, 1⟩
abbrev RSV_PERR_STATUS_VC : Fld := ⟨2, 2⟩
abbrev RSV_PERR_STATUS_KIND : Fld := ⟨4, 3⟩
abbrev RSV_PERR_ADDR_PAGE : Fld := ⟨0, 16⟩
abbrev RSV_PERR_ADDR_SEGMENT : Fld := ⟨16, 11⟩
abbrev AQD_STATUS_UP : Fld := ⟨0, 1⟩
abbrev AQD_STATUS_STATE : Fld := ⟨1, 3⟩
abbrev AQD_STATUS_MODE_ACTIVE : Fld := ⟨4, 1⟩
abbrev AQD_STATUS_MODE_REFUSED : Fld := ⟨5, 1⟩
abbrev AQD_STATUS_LANES : Fld := ⟨6, 4⟩
abbrev AQD_STATUS_DEGRADED : Fld := ⟨10, 1⟩
abbrev AQD_STATUS_HALF : Fld := ⟨11, 1⟩
abbrev AQD_STATUS_ISOLATED : Fld := ⟨12, 1⟩
abbrev AQD_STATUS_PEND : Fld := ⟨13, 1⟩
abbrev AQD_CTRL_ENABLE : Fld := ⟨0, 1⟩
abbrev AQD_CTRL_MODE : Fld := ⟨1, 1⟩
abbrev AQD_CTRL_ETH_HALF : Fld := ⟨2, 1⟩
abbrev AQD_CTRL_VLAN : Fld := ⟨3, 12⟩
abbrev AQD_APPLY_APPLY : Fld := ⟨0, 1⟩
abbrev AQD_RETRY_CNT_RETRY : Fld := ⟨0, 16⟩
abbrev AQD_RETRY_CNT_CRC : Fld := ⟨16, 16⟩
abbrev AQD_FEC_CNT_UNCORR : Fld := ⟨0, 16⟩
abbrev AQD_FEC_CNT_RETRAIN : Fld := ⟨16, 16⟩
abbrev AQD_MAX_LAT_NS : Fld := ⟨0, 16⟩
abbrev AQD_PEER_FA : Fld := ⟨0, 16⟩
abbrev AQD_PEER_AQ : Fld := ⟨16, 6⟩
abbrev AQD_PEER_VALID : Fld := ⟨31, 1⟩
abbrev AQD_ETH_RX_FRAMES : Fld := ⟨0, 32⟩
abbrev AQD_ETH_TX_FRAMES : Fld := ⟨0, 32⟩
abbrev AQD_ETH_DROP_FCS : Fld := ⟨0, 16⟩
abbrev AQD_ETH_DROP_UNSUP : Fld := ⟨16, 16⟩
abbrev AQD_LANE_SER_SYMBOLS : Fld := ⟨0, 32⟩
abbrev AQD_LANE_RET_RETIRED : Fld := ⟨0, 8⟩
abbrev AQD_LANE_RET_CAUSE_LASER : Fld := ⟨8, 8⟩
abbrev AQD_LANE_RET_RETIRE_REQ : Fld := ⟨16, 8⟩
abbrev AQD_LASER_STATUS_A_OK : Fld := ⟨0, 1⟩
abbrev AQD_LASER_STATUS_B_OK : Fld := ⟨1, 1⟩
abbrev AQD_LASER_STATUS_A_LOST : Fld := ⟨2, 1⟩
abbrev AQD_LASER_STATUS_B_LOST : Fld := ⟨3, 1⟩
abbrev AQD_LASER_PWR_A : Fld := ⟨0, 16⟩
abbrev AQD_LASER_PWR_B : Fld := ⟨16, 16⟩
abbrev AQD_LASER_THRESH_DBM : Fld := ⟨0, 16⟩
abbrev AQD_TXN_STATUS_PRIMARY : Fld := ⟨0, 1⟩
abbrev AQD_TXN_STATUS_FA_VALID : Fld := ⟨1, 1⟩
abbrev AQD_TXN_STATUS_VER_MAX : Fld := ⟨2, 3⟩
abbrev AQD_TXN_STATUS_VER_MIN : Fld := ⟨5, 3⟩
abbrev AQD_TXN_STATUS_WIN_BUSY : Fld := ⟨8, 1⟩
abbrev AQD_TXN_STATUS_OPEN_ERR : Fld := ⟨9, 1⟩
abbrev AQD_FA_FA : Fld := ⟨0, 16⟩
abbrev AQD_FA_VALID : Fld := ⟨16, 1⟩
abbrev AQD_TXN_TIMEOUT_US : Fld := ⟨0, 20⟩
abbrev AQD_WIN_SEL_WINDOW : Fld := ⟨0, 12⟩
abbrev AQD_WIN_TGT_LO_TGT : Fld := ⟨0, 32⟩
abbrev AQD_WIN_TGT_HI_TGT : Fld := ⟨0, 32⟩
abbrev AQD_WIN_CTRL_SIZE_M1 : Fld := ⟨0, 8⟩
abbrev AQD_WIN_CTRL_WR_EN : Fld := ⟨8, 1⟩
abbrev AQD_WIN_CTRL_RD_EN : Fld := ⟨9, 1⟩
abbrev AQD_WIN_CTRL_RING_CLASS : Fld := ⟨10, 1⟩
abbrev AQD_WIN_CTRL_CREDITS_M1 : Fld := ⟨11, 6⟩
abbrev AQD_WIN_CTRL_HOLD : Fld := ⟨17, 1⟩
abbrev AQD_WIN_OP_OP : Fld := ⟨0, 2⟩
abbrev AQD_WIN_STATUS_GEN : Fld := ⟨0, 16⟩
abbrev AQD_WIN_STATUS_STATE : Fld := ⟨16, 2⟩
abbrev AQD_WIN_STATUS_GRANTED : Fld := ⟨18, 7⟩
abbrev AQD_RT_SEL_ENTRY : Fld := ⟨0, 11⟩
abbrev AQD_RT_LO_MASK : Fld := ⟨0, 32⟩
abbrev AQD_RT_HI_MASK : Fld := ⟨0, 32⟩
abbrev AQD_TXN_CNT_A_CLOSED : Fld := ⟨0, 16⟩
abbrev AQD_TXN_CNT_A_REFUSED : Fld := ⟨16, 16⟩
abbrev AQD_TXN_CNT_B_TIMEOUT : Fld := ⟨0, 16⟩
abbrev AQD_TXN_CNT_B_DROPPED : Fld := ⟨16, 16⟩
abbrev GAT_BAR_CTRL_ARRIVE_GATE : Fld := ⟨0, 9⟩
abbrev GAT_BAR_CTRL_RELEASE_GATE : Fld := ⟨9, 8⟩
abbrev GAT_BAR_CTRL_CHILDREN : Fld := ⟨17, 8⟩
abbrev GAT_BAR_CTRL_ROOT : Fld := ⟨25, 1⟩
abbrev GAT_BAR_CTRL_VALID : Fld := ⟨31, 1⟩
abbrev GAT_BAR_PARENT_FA : Fld := ⟨0, 16⟩
abbrev GAT_BAR_PARENT_GROUP : Fld := ⟨16, 16⟩
abbrev GAT_BAR_DIES_LO_DIES : Fld := ⟨0, 32⟩
abbrev GAT_BAR_DIES_HI_DIES : Fld := ⟨0, 16⟩
abbrev GAT_BAR_STATE_SEQ : Fld := ⟨0, 16⟩
abbrev GAT_BAR_STATE_GGEN : Fld := ⟨16, 16⟩
abbrev GAT_BAR_ARRIVED_CUR : Fld := ⟨0, 8⟩
abbrev GAT_BAR_ARRIVED_NEXT : Fld := ⟨8, 8⟩
abbrev GAT_BAR_ARRIVED_LOCAL : Fld := ⟨16, 1⟩
abbrev GAT_BAR_ARRIVED_SENT : Fld := ⟨17, 1⟩
abbrev GAT_BAR_ARRIVED_APPLY : Fld := ⟨18, 1⟩
abbrev GAT_BAR_ARRIVED_PEND : Fld := ⟨19, 1⟩
abbrev GAT_BAR_PAYLOAD_PAYLOAD : Fld := ⟨0, 32⟩
abbrev GAT_BAR_RESULT_PAYLOAD : Fld := ⟨0, 32⟩
abbrev GAT_RLY_WIN_WINDOW : Fld := ⟨0, 12⟩
abbrev GAT_RLY_WIN_LIST : Fld := ⟨12, 9⟩
abbrev GAT_RLY_WIN_VALID : Fld := ⟨31, 1⟩
abbrev GAT_RLY_GEN_WGEN : Fld := ⟨0, 16⟩
abbrev GAT_RLY_DONE_BYTES : Fld := ⟨0, 32⟩
abbrev GAT_RLY_GATE_GATE : Fld := ⟨0, 9⟩
abbrev GAT_BAR_STATUS_DROPPED : Fld := ⟨0, 16⟩
abbrev GAT_BAR_STATUS_FAILED : Fld := ⟨16, 16⟩
abbrev SRV_MT_SEL_MODEL : Fld := ⟨0, 6⟩
abbrev SRV_MT_EPOCH_EPOCH : Fld := ⟨0, 32⟩
abbrev SRV_MT_PROG_LO_PROGRAM_ID : Fld := ⟨0, 32⟩
abbrev SRV_MT_PROG_HI_PROGRAM_ID : Fld := ⟨0, 32⟩
abbrev SRV_MT_CTRL_VALID : Fld := ⟨0, 1⟩
abbrev SRV_MT_CTRL_ALT : Fld := ⟨1, 1⟩
abbrev SRV_MT_CTRL_SHARED : Fld := ⟨2, 1⟩
abbrev SRV_MT_APPLY_APPLY : Fld := ⟨0, 1⟩
abbrev SRV_MT_APPLY_PEND : Fld := ⟨1, 1⟩
abbrev SRV_MT_PREV_EPOCH : Fld := ⟨0, 32⟩
abbrev SRV_MT_PIN_ACT_PINS : Fld := ⟨0, 17⟩
abbrev SRV_MT_PIN_PREV_PINS : Fld := ⟨0, 17⟩
abbrev SRV_MT_LOAD_STATE : Fld := ⟨0, 3⟩
abbrev SRV_MT_LOAD_SHARDS : Fld := ⟨16, 16⟩
abbrev SRV_WT_CNT_A_MISMATCH : Fld := ⟨0, 16⟩
abbrev SRV_WT_CNT_A_GROUND : Fld := ⟨16, 16⟩
abbrev SRV_WT_CNT_B_PEER : Fld := ⟨0, 11⟩
abbrev SRV_WT_CNT_B_STORAGE : Fld := ⟨11, 11⟩
abbrev SRV_WT_CNT_B_LOADFAIL : Fld := ⟨22, 10⟩
abbrev CIS_SCRUB_CTRL_GO : Fld := ⟨0, 1⟩
abbrev CIS_SCRUB_CTRL_BUSY : Fld := ⟨1, 1⟩
abbrev CIS_SCRUB_CTRL_ENDED : Fld := ⟨2, 1⟩
abbrev CIS_SCRUB_CTRL_GAP : Fld := ⟨8, 8⟩
abbrev CIS_SCRUB_RUN_LINE : Fld := ⟨0, 17⟩
abbrev CIS_SCRUB_RUN_COUNT_M1 : Fld := ⟨17, 6⟩
abbrev CIS_SCRUB_DEST_ADDR : Fld := ⟨6, 18⟩
abbrev SRV_STATUS_ACTIVE : Fld := ⟨0, 17⟩
abbrev SRV_STATUS_CONDENSING : Fld := ⟨17, 1⟩
abbrev SRV_STATUS_DRAINING : Fld := ⟨18, 1⟩
abbrev SRV_CTRL_ADMIT : Fld := ⟨0, 1⟩
abbrev SRV_CTRL_ROWS_M1 : Fld := ⟨1, 12⟩
abbrev SRV_CONV_RECORDS : Fld := ⟨0, 21⟩
abbrev SRV_COMMIT_LO_TALLY : Fld := ⟨0, 32⟩
abbrev SRV_COMMIT_HI_TALLY : Fld := ⟨0, 32⟩
abbrev SRV_COMMIT_STEP_LO_STEP : Fld := ⟨0, 32⟩
abbrev SRV_COMMIT_STEP_HI_STEP : Fld := ⟨0, 32⟩
abbrev SRV_END_CNT_A_COMPLETE : Fld := ⟨0, 16⟩
abbrev SRV_END_CNT_A_CANCELLED : Fld := ⟨16, 16⟩
abbrev SRV_END_CNT_B_DEADLINE : Fld := ⟨0, 16⟩
abbrev SRV_END_CNT_B_NUMERIC : Fld := ⟨16, 16⟩
abbrev SRV_END_CNT_C_FAULT : Fld := ⟨0, 16⟩
abbrev SRV_END_CNT_C_EPOCH : Fld := ⟨16, 16⟩
abbrev SRV_END_CNT_D_REFUSED : Fld := ⟨0, 16⟩
abbrev SRV_END_CNT_D_NOT_FOUND : Fld := ⟨16, 16⟩
abbrev SRV_CANCEL_CNT_FINAL_SUPPRESSED : Fld := ⟨0, 16⟩
abbrev SRV_CANCEL_CNT_ALREADY_COMPLETE : Fld := ⟨16, 16⟩
abbrev SRV_CONV_CNT_EXPIRED : Fld := ⟨0, 16⟩
abbrev SRV_CONV_CNT_EVICTED : Fld := ⟨16, 16⟩
abbrev SRV_CANCEL_LAT_US : Fld := ⟨0, 16⟩
abbrev SRV_SPEC_CNT_PROPOSED : Fld := ⟨0, 16⟩
abbrev SRV_SPEC_CNT_ACCEPTED : Fld := ⟨16, 16⟩
abbrev SRV_SEL_CNT_SPILLED : Fld := ⟨0, 16⟩
abbrev SRV_SEL_CNT_PROP_NAN : Fld := ⟨16, 16⟩
abbrev HAL_CORE_STATUS_RUN : Fld := ⟨0, 1⟩
abbrev HAL_CORE_STATUS_RETIRED : Fld := ⟨1, 1⟩
abbrev HAL_CORE_STATUS_PRIV : Fld := ⟨2, 2⟩
abbrev HAL_CORE_CTRL_HOLD : Fld := ⟨0, 1⟩
abbrev HAL_IRQ_PEND_SRC : Fld := ⟨0, 8⟩
abbrev HAL_IRQ_EN_SRC : Fld := ⟨0, 8⟩
abbrev HAL_IRQ_TGT_SRC : Fld := ⟨0, 8⟩
abbrev HAL_MTIMECMP_LO_CMP : Fld := ⟨0, 32⟩
abbrev HAL_MTIMECMP_HI_CMP : Fld := ⟨0, 32⟩
abbrev HAL_TIMER_APPLY_APPLY : Fld := ⟨0, 1⟩
abbrev HAL_TIMER_APPLY_PEND : Fld := ⟨1, 1⟩
abbrev HAL_TX_DATA_DATA : Fld := ⟨0, 32⟩
abbrev HAL_TX_DST_FA : Fld := ⟨0, 16⟩
abbrev HAL_TX_DST_DIE : Fld := ⟨16, 6⟩
abbrev HAL_TX_DST_MAILBOX : Fld := ⟨22, 6⟩
abbrev HAL_TX_DST_LOCAL : Fld := ⟨28, 1⟩
abbrev HAL_TX_CTRL_GO : Fld := ⟨0, 1⟩
abbrev HAL_TX_CTRL_BUSY : Fld := ⟨1, 1⟩
abbrev HAL_TX_CTRL_STATUS : Fld := ⟨2, 3⟩
abbrev HAL_COORD_DIE : Fld := ⟨0, 6⟩
abbrev HAL_REMOTE_CTL_EN : Fld := ⟨0, 1⟩
abbrev HAL_REMOTE_TENANT_EN : Fld := ⟨1, 1⟩
abbrev HAL_ACC_STATUS_VALID : Fld := ⟨0, 1⟩
abbrev HAL_ACC_STATUS_REASON : Fld := ⟨1, 3⟩
abbrev HAL_ACC_STATUS_PATH : Fld := ⟨4, 3⟩
abbrev HAL_ACC_STATUS_WRITE : Fld := ⟨7, 1⟩
abbrev HAL_ACC_STATUS_COUNT : Fld := ⟨8, 12⟩
abbrev HAL_ACC_STATUS_DROPPED : Fld := ⟨20, 12⟩
abbrev HAL_ACC_ADDR_ADDR : Fld := ⟨0, 32⟩
abbrev HAL_PERR_VALID : Fld := ⟨0, 1⟩
abbrev HAL_PERR_CORE : Fld := ⟨1, 2⟩
abbrev HAL_PERR_HALL : Fld := ⟨3, 1⟩
abbrev HAL_PERR_ADDR : Fld := ⟨4, 24⟩
abbrev HAL_PERR_COUNT : Fld := ⟨28, 4⟩
abbrev MBX_MSG_DATA : Fld := ⟨0, 32⟩
abbrev MBX_STAMP_STAMP : Fld := ⟨0, 32⟩
abbrev MBX_STATUS_SEQ : Fld := ⟨0, 8⟩
abbrev MBX_STATUS_FULL : Fld := ⟨8, 1⟩
abbrev MBX_STATUS_COLLISION : Fld := ⟨9, 1⟩
abbrev MBX_STATUS_TIMED_OUT : Fld := ⟨10, 1⟩
abbrev MBX_DRAIN_SEQ : Fld := ⟨0, 8⟩
abbrev MBX_CTRL_ENABLE : Fld := ⟨0, 1⟩
abbrev MBX_CTRL_CORE : Fld := ⟨1, 2⟩
abbrev MBX_CTRL_DOORBELL : Fld := ⟨3, 1⟩
abbrev MBX_CTRL_REMOTE_OK : Fld := ⟨4, 1⟩
abbrev MBX_CTRL_MIN_PRIV : Fld := ⟨5, 2⟩
abbrev MBX_CTRL_TIMEOUT_US : Fld := ⟨7, 20⟩
abbrev MBX_CNT_COLLISIONS : Fld := ⟨0, 16⟩
abbrev MBX_CNT_STALE : Fld := ⟨16, 8⟩
abbrev MBX_CNT_REFUSED : Fld := ⟨24, 8⟩
abbrev CFG_STATUS_STAGE : Fld := ⟨0, 4⟩
abbrev CFG_STATUS_ERR : Fld := ⟨4, 4⟩
abbrev CFG_STATUS_SLOT_B : Fld := ⟨8, 1⟩
abbrev CFG_STATUS_IDENT : Fld := ⟨9, 2⟩
abbrev CFG_STATUS_BOOT_DIE : Fld := ⟨11, 6⟩
abbrev CFG_SEL_WORD : Fld := ⟨0, 10⟩
abbrev CFG_DATA_DATA : Fld := ⟨0, 32⟩
abbrev CFG_DIGEST_DIGEST : Fld := ⟨0, 32⟩
abbrev TRU_STATUS_IDENT : Fld := ⟨0, 2⟩
abbrev TRU_STATUS_DEBUG : Fld := ⟨2, 1⟩
abbrev TRU_FW_VER_VERSION : Fld := ⟨0, 32⟩
abbrev TRU_FW_SVN_SVN : Fld := ⟨0, 32⟩
abbrev TRU_FW_DIGEST_DIGEST : Fld := ⟨0, 32⟩
abbrev TRU_ID_DIGEST_DIGEST : Fld := ⟨0, 32⟩
abbrev TRU_ROOT_HASH_HASH : Fld := ⟨0, 32⟩
abbrev CLK_DIE_STATUS_OP : Fld := ⟨0, 3⟩
abbrev CLK_DIE_STATUS_PLL_LOCK : Fld := ⟨3, 1⟩
abbrev CLK_DIE_STATUS_STRETCH : Fld := ⟨4, 1⟩
abbrev CLK_DIE_STATUS_ALIGNED : Fld := ⟨5, 1⟩
abbrev CLK_DIE_STATUS_GATED : Fld := ⟨6, 1⟩
abbrev PWR_RAIL_CORE_MV : Fld := ⟨0, 10⟩
abbrev PWR_RAIL_CORE_MIN_MV : Fld := ⟨16, 10⟩
abbrev PWR_RAIL_AUX_AUX1_MV : Fld := ⟨0, 11⟩
abbrev PWR_RAIL_AUX_AUX2_MV : Fld := ⟨11, 11⟩
abbrev CLK_DROOP_CNT_EPISODES : Fld := ⟨0, 16⟩
abbrev CLK_DROOP_CNT_CYCLES : Fld := ⟨16, 16⟩
abbrev CLK_TJ_MAX_C : Fld := ⟨0, 8⟩
abbrev CLK_DST_STATUS_TJ : Fld := ⟨0, 8⟩
abbrev CLK_DST_STATUS_CEILING : Fld := ⟨8, 3⟩
abbrev CLK_DST_STATUS_THROTTLE : Fld := ⟨11, 1⟩
abbrev CLK_DST_STATUS_EMERG : Fld := ⟨12, 1⟩
abbrev CLK_DST_MARGIN_MIN_PS : Fld := ⟨0, 8⟩
abbrev CLK_DST_MARGIN_DROOPS : Fld := ⟨8, 16⟩
abbrev CLK_DEV_STATUS_OP : Fld := ⟨0, 3⟩
abbrev CLK_DEV_STATUS_CEILING : Fld := ⟨3, 3⟩
abbrev CLK_DEV_STATUS_PEND : Fld := ⟨6, 1⟩
abbrev CLK_DEV_STATUS_REF_OK : Fld := ⟨7, 1⟩
abbrev CLK_DEV_STATUS_HOLDOVER : Fld := ⟨8, 1⟩
abbrev CLK_DEV_STATUS_LOSS_OF_REFERENCE : Fld := ⟨9, 1⟩
abbrev CLK_DEV_STATUS_EMERG : Fld := ⟨10, 1⟩
abbrev CLK_DEV_STATUS_TRIP : Fld := ⟨11, 1⟩
abbrev CLK_DEV_STATUS_RAMP : Fld := ⟨12, 1⟩
abbrev CLK_DEV_STATUS_DEGRADED : Fld := ⟨13, 1⟩
abbrev CLK_OP_NEXT_OP : Fld := ⟨0, 3⟩
abbrev PWR_VTARGET_MV : Fld := ⟨0, 10⟩
abbrev CLK_OP_TALLY_LO_TALLY : Fld := ⟨0, 32⟩
abbrev CLK_OP_TALLY_HI_TALLY : Fld := ⟨0, 32⟩
abbrev CLK_OP_APPLY_APPLY : Fld := ⟨0, 1⟩
abbrev CLK_OP_APPLY_PEND : Fld := ⟨1, 1⟩
abbrev CLK_OP_LIMIT_LIMIT : Fld := ⟨0, 3⟩
abbrev CLK_THERM_THROTTLE : Fld := ⟨0, 8⟩
abbrev CLK_THERM_RESUME : Fld := ⟨8, 8⟩
abbrev PWR_IN_VIN : Fld := ⟨0, 16⟩
abbrev PWR_IN_IIN : Fld := ⟨16, 16⟩
abbrev PWR_IN_POWER_W : Fld := ⟨0, 16⟩
abbrev PWR_IN_POWER_PEAK_W : Fld := ⟨16, 16⟩
abbrev PWR_LIMIT_W : Fld := ⟨0, 16⟩
abbrev PWR_LIMIT_DECI_A : Fld := ⟨16, 16⟩
abbrev PWR_ALERT_CAUSE : Fld := ⟨0, 7⟩
abbrev PWR_ALERT_MASK : Fld := ⟨16, 7⟩
abbrev CLK_CHG_CNT_CHANGES : Fld := ⟨0, 16⟩
abbrev CLK_CHG_CNT_EMERG : Fld := ⟨16, 16⟩
abbrev CLK_TALLY_LO_TALLY : Fld := ⟨0, 32⟩
abbrev CLK_TALLY_HI_TALLY : Fld := ⟨0, 32⟩
abbrev CLK_TIME_NS_NS : Fld := ⟨0, 30⟩
abbrev CLK_TIME_SEC_LO_SEC : Fld := ⟨0, 32⟩
abbrev CLK_TIME_SEC_HI_SEC : Fld := ⟨0, 16⟩
abbrev CLK_TIME_RATE_RATE_ADJ : Fld := ⟨0, 32⟩
abbrev CLK_TIME_STEP_NS : Fld := ⟨0, 32⟩
abbrev CLK_TIME_CTRL_SRC : Fld := ⟨0, 2⟩
abbrev CLK_TIME_CTRL_PPS_OUT_EN : Fld := ⟨2, 1⟩
abbrev CLK_TIME_CTRL_LOCKED : Fld := ⟨3, 1⟩
abbrev CLK_TIME_CTRL_DEGRADED : Fld := ⟨4, 1⟩
abbrev DIE_GATE_REHOME_BLOCKS : Fld := ⟨0, 24⟩
abbrev DIE_BLOCK_RET_BLOCKS : Fld := ⟨0, 24⟩
abbrev DIE_BRG_RETIRE_PORT : Fld := ⟨0, 2⟩
abbrev DIE_BRG_RETIRE_LANE : Fld := ⟨2, 6⟩
abbrev DIE_BRG_RETIRE_GO : Fld := ⟨8, 1⟩
abbrev SRV_CAP_STATUS_CAPACITY : Fld := ⟨0, 7⟩
abbrev SRV_CAP_STATUS_ALARM : Fld := ⟨7, 1⟩
abbrev SRV_CAP_STATUS_LIMIT : Fld := ⟨8, 3⟩
abbrev SRV_CAP_STATUS_UPDATING : Fld := ⟨11, 1⟩
abbrev SRV_CAP_STATUS_MIXED : Fld := ⟨12, 1⟩
abbrev SRV_CAP_ALARM_PCT : Fld := ⟨0, 7⟩
abbrev SRV_CAP_RET_A_BLOCKS : Fld := ⟨0, 11⟩
abbrev SRV_CAP_RET_A_SUBBANKS : Fld := ⟨11, 16⟩
abbrev SRV_CAP_RET_B_WELL_BANKS : Fld := ⟨0, 15⟩
abbrev SRV_CAP_RET_B_CORES : Fld := ⟨15, 8⟩
abbrev SRV_CAP_RET_C_PAGES : Fld := ⟨0, 19⟩
abbrev SRV_CAP_RET_C_AQD_LANES : Fld := ⟨19, 10⟩
abbrev SRV_CAP_RET_D_BRIDGE_LANES : Fld := ⟨0, 14⟩
abbrev SRV_CAP_RET_D_STREET_LINKS : Fld := ⟨14, 12⟩
abbrev SRV_FLT_CNT_TRANSIENT : Fld := ⟨0, 16⟩
abbrev SRV_FLT_CNT_PERMANENT : Fld := ⟨16, 16⟩
abbrev SRV_REPLAY_CNT_REPLAYS : Fld := ⟨0, 16⟩
abbrev SRV_REPLAY_CNT_FAILED : Fld := ⟨16, 8⟩
abbrev SRV_REPLAY_CNT_LEDGER_DROP : Fld := ⟨24, 8⟩
abbrev SRV_ST_CTRL_INTERVAL_H : Fld := ⟨0, 8⟩
abbrev SRV_ST_CTRL_CONCURRENT : Fld := ⟨8, 5⟩
abbrev SRV_ST_CTRL_RSV_GO : Fld := ⟨13, 1⟩
abbrev SRV_ST_STATUS_TESTING : Fld := ⟨0, 5⟩
abbrev SRV_ST_STATUS_DEFERRED : Fld := ⟨5, 11⟩
abbrev SRV_UPD_STATUS_PHASE : Fld := ⟨0, 3⟩
abbrev SRV_UPD_STATUS_DIE : Fld := ⟨3, 6⟩
abbrev SRV_LEDGER_SEL_ENTRY : Fld := ⟨0, 16⟩
abbrev SRV_LEDGER_LOC_LOC : Fld := ⟨0, 32⟩
abbrev SRV_LEDGER_STATE_COUNT : Fld := ⟨0, 2⟩
abbrev SRV_LEDGER_STATE_RETIRED : Fld := ⟨2, 1⟩
abbrev SRV_LEDGER_STATE_VALID : Fld := ⟨3, 1⟩
abbrev DIE_GPIO_IN_LEVEL : Fld := ⟨0, 16⟩
abbrev DIE_GPIO_OUT_LEVEL : Fld := ⟨0, 16⟩
abbrev DIE_GPIO_OE_OE : Fld := ⟨0, 16⟩

end F

/-- The registers of 02_number_formats.md. -/
def regs02 : List RegRow :=
  [
  ⟨R.DIE_NAN_STATUS, 1, 0, .compute, .one, [fr 0 0 .w1c 0x0, fr 1 1 .w1c 0x0, fr 2 2 .ro 0x0, fr 3 3 .ro 0x0, fr 4 7 .ro 0x0, fr 8 12 .ro 0x0, fr 13 18 .ro 0, fr 19 19 .ro 0x0, fr 20 20 .ro 0x0, fr 21 21 .ro 0x0]⟩,
  ⟨R.DIE_NAN_STEP_LO, 1, 0, .compute, .one, [fr 0 31 .ro 0x0]⟩,
  ⟨R.DIE_NAN_STEP_HI, 1, 0, .compute, .one, [fr 0 31 .ro 0x0]⟩,
  ⟨R.DIE_NAN_CYCLE, 1, 0, .compute, .one, [fr 0 31 .ro 0x0]⟩,
  ⟨R.DIE_NAN_BUNDLE, 1, 0, .compute, .one, [fr 0 23 .ro 0x0]⟩,
  ⟨R.DIE_NAN_ENTRY, 1, 0, .compute, .one, [fr 0 23 .ro 0x0]⟩,
  ⟨R.DIE_NAN_ROW, 1, 0, .compute, .one, [fr 0 15 .ro 0x0]⟩,
  ⟨R.DIE_NAN_TAG, 1, 0, .compute, .one, [fr 0 15 .ro 0x0]⟩,
  ⟨R.DIE_NAN_CNT, 1, 0, .compute, .one, [fr 0 31 .ro 0x0]⟩,
  ⟨R.DIE_CVT_CNT, 1, 0, .compute, .one, [fr 0 15 .rc 0x0, fr 16 31 .rc 0x0]⟩]

/-- The registers of 03_canonical_reduction.md. -/
def regs03 : List RegRow :=
  [
  ⟨R.EAF_STATUS, 1, 0, .compute, .block, [fr 0 0 .w1c 0x0, fr 1 1 .w1c 0x0, fr 2 2 .w1c 0x0, fr 3 3 .w1c 0x0]⟩,
  ⟨R.EAF_FMT_CNT, 1, 0, .compute, .block, [fr 0 15 .rc 0x0]⟩,
  ⟨R.EAF_OVF_CNT, 1, 0, .compute, .block, [fr 0 15 .rc 0x0]⟩,
  ⟨R.DIE_EDITION, 1, 0, .compute, .one, [fr 0 15 .ro 0x1]⟩]

/-- The registers of 04_matrix_quartet.md. -/
def regs04 : List RegRow :=
  [
  ⟨R.SEQ_MQ_STATUS, 1, 0, .compute, .block, [fr 0 0 .ro 0x0, fr 1 1 .ro 0x0, fr 2 2 .ro 0x0, fr 3 3 .ro 0x0]⟩,
  ⟨R.SEQ_MQ_PASS_CNT, 1, 0, .compute, .block, [fr 0 31 .ro 0x0]⟩,
  ⟨R.SEQ_MQ_STALL_A, 1, 0, .compute, .block, [fr 0 15 .rc 0x0, fr 16 31 .rc 0x0]⟩,
  ⟨R.SEQ_MQ_STALL_B, 1, 0, .compute, .block, [fr 0 15 .rc 0x0, fr 16 31 .rc 0x0]⟩,
  ⟨R.SEQ_MQ_TENANT_CNT, 1, 0, .compute, .block, [fr 0 31 .rc 0x0]⟩,
  ⟨R.SEQ_MQ_EXP_VALID, 1, 0, .compute, .block, [fr 0 31 .ro 0x0]⟩]

/-- The registers of 05_vector_engine.md. -/
def regs05 : List RegRow :=
  [
  ⟨R.VEC_STATUS, 1, 0, .compute, .block, [fr 0 0 .ro 0x0, fr 1 1 .ro 0x0, fr 2 2 .ro 0x0]⟩,
  ⟨R.VEC_CHAIN_CNT, 1, 0, .compute, .block, [fr 0 31 .ro 0x0]⟩,
  ⟨R.VEC_ITER_CNT, 1, 0, .compute, .block, [fr 0 31 .ro 0x0]⟩,
  ⟨R.VEC_STALL_A, 1, 0, .compute, .block, [fr 0 15 .rc 0x0, fr 16 31 .rc 0x0]⟩,
  ⟨R.VEC_STALL_B, 1, 0, .compute, .block, [fr 0 15 .rc 0x0, fr 16 31 .rc 0x0]⟩,
  ⟨R.VEC_MASKED_CNT, 1, 0, .compute, .block, [fr 0 31 .rc 0x0]⟩]

/-- The registers of 06_cisterns_and_wells.md. -/
def regs06 : List RegRow :=
  [
  ⟨R.CIS_STATUS, 1, 0, .compute, .block, [fr 0 7 .ro 0x0, fr 8 8 .ro 0x0, fr 9 9 .ro 0x0]⟩,
  ⟨R.CIS_PWR_CTRL, 1, 0, .compute, .block, [fr 0 31 .rw 0xFFFFFFFF]⟩,
  ⟨R.CIS_PWR_RDY, 1, 0, .compute, .block, [fr 0 31 .ro 0xFFFFFFFF]⟩,
  ⟨R.CIS_REFRESH_CNT, 1, 0, .compute, .block, [fr 0 15 .rc 0x0, fr 16 31 .rc 0x0]⟩,
  ⟨R.CIS_PERR_CNT, 1, 0, .compute, .block, [fr 0 15 .rc 0x0, fr 16 31 .rc 0x0]⟩,
  ⟨R.CIS_PERR_STATUS, 1, 0, .compute, .block, [fr 0 0 .w1c 0x0, fr 1 2 .ro 0x0, fr 3 4 .ro 0x0]⟩,
  ⟨R.CIS_PERR_LINE, 1, 0, .compute, .block, [fr 0 16 .ro 0x0]⟩,
  ⟨R.CIS_GROUND, 32, 4, .compute, .block, [fr 0 18 .rw 0x0, fr 31 31 .rw 0x0]⟩,
  ⟨R.WEL_PWR_CTRL, 1, 0, .compute, .block, [fr 0 11 .rw 0xFFF, fr 12 19 .rw 0xFF]⟩,
  ⟨R.WEL_PWR_RDY, 1, 0, .compute, .block, [fr 0 11 .ro 0xFFF, fr 12 19 .ro 0xFF]⟩,
  ⟨R.WEL_REPLAY_CNT, 1, 0, .compute, .block, [fr 0 31 .rc 0x0]⟩,
  ⟨R.WEL_ARB_CNT, 1, 0, .compute, .block, [fr 0 15 .rc 0x0, fr 16 31 .rc 0x0]⟩] ++ [
  ⟨R.WEL_PERR_CNT, 1, 0, .compute, .block, [fr 0 31 .rc 0x0]⟩,
  ⟨R.WEL_ZERO_RANGE, 1, 0, .compute, .block, [fr 0 15 .rw 0x0, fr 16 31 .rw 0x0]⟩,
  ⟨R.WEL_PERR_STATUS, 1, 0, .compute, .block, [fr 0 0 .w1c 0x0, fr 1 1 .ro 0x0, fr 2 2 .ro 0x0, fr 3 5 .ro 0x0]⟩,
  ⟨R.WEL_PERR_ROW, 1, 0, .compute, .block, [fr 0 14 .ro 0x0]⟩,
  ⟨R.WEL_ZERO_CTRL, 1, 0, .compute, .block, [fr 0 0 .w1s 0x0, fr 1 1 .rw 0x0, fr 2 2 .ro 0x0]⟩,
  ⟨R.WEL_MARK_CTRL, 1, 0, .compute, .block, [fr 0 14 .wo 0, fr 15 15 .wo 0, fr 16 18 .wo 0, fr 19 19 .wo 0]⟩]

/-- The registers of 07_pumps.md. -/
def regs07 : List RegRow :=
  [
  ⟨R.PMP_STATUS, 2, 256, .compute, .block, [fr 0 0 .ro 0x0, fr 1 3 .ro 0x0, fr 4 9 .ro 0x0, fr 10 10 .ro 0x0, fr 11 11 .ro 0x0]⟩,
  ⟨R.PMP_RING_BASE, 2, 256, .compute, .block, [fr 6 23 .rw 0x0]⟩,
  ⟨R.PMP_RING_SIZE, 2, 256, .compute, .block, [fr 0 3 .rw 0x0]⟩,
  ⟨R.PMP_RING_APPLY, 2, 256, .compute, .block, [fr 0 0 .w1s 0x0]⟩,
  ⟨R.PMP_RING_HEAD, 2, 256, .compute, .block, [fr 0 11 .ro 0x0]⟩,
  ⟨R.PMP_RING_TAIL, 2, 256, .compute, .block, [fr 0 11 .rw 0x0]⟩,
  ⟨R.PMP_DESC_CNT, 2, 256, .compute, .block, [fr 0 31 .rc 0x0]⟩,
  ⟨R.PMP_FLIT_CNT, 2, 256, .compute, .block, [fr 0 31 .rc 0x0]⟩,
  ⟨R.PMP_STALL_CNT, 2, 256, .compute, .block, [fr 0 15 .rc 0x0, fr 16 31 .rc 0x0]⟩,
  ⟨R.PMP_ERR_STATUS, 2, 256, .compute, .block, [fr 0 0 .w1c 0x0, fr 1 4 .ro 0x0, fr 5 6 .ro 0x0, fr 7 18 .ro 0x0]⟩,
  ⟨R.PMP_ERR_DESC, 2, 256, .compute, .block, [fr 0 15 .ro 0x0, fr 16 31 .ro 0x0]⟩]

/-- The registers of 08_streets_and_bridges.md. -/
def regs08 : List RegRow :=
  [
  ⟨R.SQR_STATUS, 1, 0, .compute, .block, [fr 0 4 .ro 0, fr 5 9 .ro 0x0, fr 10 10 .ro 0x0, fr 11 11 .ro 0x0]⟩,
  ⟨R.SQR_RETIRE, 1, 0, .compute, .block, [fr 0 4 .rw 0x0]⟩,
  ⟨R.SQR_APPLY, 1, 0, .compute, .block, [fr 0 0 .w1s 0x0]⟩,
  ⟨R.SQR_MERGE_CNT, 1, 0, .compute, .block, [fr 0 31 .rc 0x0]⟩,
  ⟨R.SQR_RETRY_CNT, 1, 0, .compute, .block, [fr 0 15 .rc 0x0, fr 16 31 .rc 0x0]⟩,
  ⟨R.SQR_EXCESS_CNT, 1, 0, .compute, .block, [fr 0 31 .rc 0x0]⟩,
  ⟨R.BRG_STATUS, 1, 0, .every, .port, [fr 0 0 .ro 0, fr 1 1 .ro 0x0, fr 2 8 .ro 0x0, fr 9 9 .ro 0x0]⟩,
  ⟨R.BRG_LANE_RET_LO, 1, 0, .every, .port, [fr 0 31 .ro 0x0]⟩,
  ⟨R.BRG_LANE_RET_HI, 1, 0, .every, .port, [fr 0 31 .ro 0x0]⟩,
  ⟨R.BRG_RATE, 1, 0, .every, .port, [fr 0 15 .ro 0x0, fr 16 31 .ro 0x0]⟩,
  ⟨R.BRG_RETRY_CNT, 1, 0, .every, .port, [fr 0 15 .rc 0x0, fr 16 31 .rc 0x0]⟩,
  ⟨R.BRG_MAX_LAT, 1, 0, .every, .port, [fr 0 15 .rc 0x0]⟩] ++ [
  ⟨R.FNT_STATUS, 1, 0, .head, .one, [fr 0 0 .ro 0x0, fr 1 1 .w1c 0x0, fr 2 11 .ro 0x0]⟩,
  ⟨R.FNT_TIMEOUT, 1, 0, .head, .one, [fr 0 19 .rw 0x64]⟩,
  ⟨R.FNT_STALL_TGT, 1, 0, .head, .one, [fr 0 8 .ro 0x0, fr 9 14 .ro 0x0, fr 16 31 .ro 0x0]⟩,
  ⟨R.FNT_SEL, 1, 0, .head, .one, [fr 0 12 .rw 0x0, fr 16 24 .rw 0x0]⟩,
  ⟨R.FNT_ENTRY_LO, 1, 0, .head, .one, [fr 0 31 .rw 0]⟩,
  ⟨R.FNT_ENTRY_HI, 1, 0, .head, .one, [fr 0 31 .rw 0]⟩,
  ⟨R.FNT_LIST, 1, 0, .head, .one, [fr 0 12 .rw 0x0, fr 13 18 .rw 0x0, fr 31 31 .rw 0x0]⟩,
  ⟨R.FNT_REOFFER_CNT, 1, 0, .head, .one, [fr 0 31 .rc 0x0]⟩,
  ⟨R.FNT_STALL_CNT, 1, 0, .head, .one, [fr 0 15 .rc 0x0]⟩,
  ⟨R.FNT_REFUSE_CNT, 1, 0, .head, .one, [fr 0 15 .rc 0x0]⟩]

/-- The registers of 09_block_programs.md. -/
def regs09 : List RegRow :=
  [
  ⟨R.SEQ_STATUS, 1, 0, .compute, .block, [fr 0 0 .ro 0x0, fr 1 1 .ro 0x0, fr 2 2 .ro 0x0, fr 3 4 .ro 0x0, fr 5 5 .w1c 0x0]⟩,
  ⟨R.SEQ_BUNDLE, 1, 0, .compute, .block, [fr 0 23 .ro 0x0]⟩,
  ⟨R.SEQ_CYCLE, 1, 0, .compute, .block, [fr 0 31 .ro 0x0]⟩,
  ⟨R.SEQ_PS_ADDR, 1, 0, .compute, .block, [fr 2 18 .rw 0x0]⟩,
  ⟨R.SEQ_PS_DATA, 1, 0, .compute, .block, [fr 0 31 .rw 0]⟩,
  ⟨R.SEQ_US_CTRL, 4, 32, .compute, .block, [fr 0 15 .rw 0x0, fr 31 31 .rw 0x0]⟩,
  ⟨R.SEQ_US_PS, 4, 32, .compute, .block, [fr 0 18 .rw 0x0]⟩,
  ⟨R.SEQ_US_CIS, 4, 32, .compute, .block, [fr 0 16 .rw 0x0]⟩,
  ⟨R.SEQ_US_WIDE, 4, 32, .compute, .block, [fr 0 12 .rw 0x0]⟩,
  ⟨R.SEQ_US_NARROW, 4, 32, .compute, .block, [fr 0 14 .rw 0x0]⟩,
  ⟨R.SEQ_US_ENTRY, 4, 32, .compute, .block, [fr 0 9 .rw 0x0]⟩,
  ⟨R.DIE_PLACE_APPLY, 1, 0, .compute, .one, [fr 0 0 .w1s 0x0, fr 1 1 .ro 0x0]⟩] ++ [
  ⟨R.DIE_HOME_A, 96, 8, .compute, .one, [fr 0 12 .rw 0x0, fr 13 25 .rw 0x0, fr 31 31 .rw 0x0]⟩,
  ⟨R.DIE_HOME_B, 96, 8, .compute, .one, [fr 0 4 .rw 0x0, fr 5 17 .rw 0x0]⟩]

/-- The registers of 10_schedule_contract.md. -/
def regs10 : List RegRow :=
  [
  ⟨R.DIE_STEP_STATUS, 1, 0, .compute, .one, [fr 0 0 .ro 0x0, fr 1 1 .ro 0x0, fr 2 2 .ro 0x0, fr 3 3 .ro 0x0, fr 4 4 .ro 0x0]⟩,
  ⟨R.DIE_START_TALLY_LO, 1, 0, .compute, .one, [fr 0 31 .rw 0x0]⟩,
  ⟨R.DIE_START_TALLY_HI, 1, 0, .compute, .one, [fr 0 31 .rw 0x0]⟩,
  ⟨R.DIE_STEP_ELAPSED, 1, 0, .compute, .one, [fr 0 31 .ro 0x0]⟩,
  ⟨R.DIE_HOLD_CNT, 1, 0, .compute, .one, [fr 0 15 .rc 0x0]⟩,
  ⟨R.DIE_HOLD_CYC, 1, 0, .compute, .one, [fr 0 31 .rc 0x0]⟩,
  ⟨R.DIE_WDOG, 1, 0, .compute, .one, [fr 0 31 .ro 0xC350]⟩,
  ⟨R.DIE_FAULT_STATUS, 1, 0, .compute, .one, [fr 0 0 .w1c 0x0, fr 1 5 .ro 0x0, fr 6 9 .ro 0x0, fr 10 14 .ro 0x0, fr 15 16 .ro 0x0, fr 17 17 .ro 0x0]⟩,
  ⟨R.DIE_FAULT_STEP_LO, 1, 0, .compute, .one, [fr 0 31 .ro 0x0]⟩,
  ⟨R.DIE_FAULT_STEP_HI, 1, 0, .compute, .one, [fr 0 31 .ro 0x0]⟩,
  ⟨R.DIE_FAULT_CYCLE, 1, 0, .compute, .one, [fr 0 31 .ro 0x0]⟩,
  ⟨R.DIE_FAULT_BUNDLE, 1, 0, .compute, .one, [fr 0 23 .ro 0x0]⟩] ++ [
  ⟨R.DIE_FAULT_ENTRY, 1, 0, .compute, .one, [fr 0 23 .ro 0x0]⟩,
  ⟨R.DIE_FAULT_ROW, 1, 0, .compute, .one, [fr 0 15 .ro 0x0]⟩,
  ⟨R.DIE_FAULT_TAG, 1, 0, .compute, .one, [fr 0 15 .ro 0x0]⟩,
  ⟨R.DIE_FAULT_AUX, 1, 0, .compute, .one, [fr 0 31 .ro 0x0]⟩,
  ⟨R.DIE_FAULT_CNT, 1, 0, .compute, .one, [fr 0 15 .rc 0x0]⟩,
  ⟨R.DIE_SLIP_STATUS, 1, 0, .compute, .one, [fr 0 8 .ro 0x0, fr 9 9 .w1c 0x0]⟩,
  ⟨R.DIE_SLIP_SEL, 1, 0, .compute, .one, [fr 0 7 .rw 0x0]⟩,
  ⟨R.DIE_SLIP_E, 4, 4, .compute, .one, [fr 0 31 .ro 0x0]⟩,
  ⟨R.GAT_COUNT, 16, 64, .computeOrHead, .bank, [fr 0 31 .ro 0x0]⟩,
  ⟨R.GAT_THRESH, 16, 64, .computeOrHead, .bank, [fr 0 31 .ro 0x0]⟩,
  ⟨R.GAT_CTRL, 16, 64, .computeOrHead, .bank, [fr 0 1 .rw 0x0, fr 2 6 .rw 0x0, fr 7 7 .rw 0x0, fr 8 14 .ro 0x0]⟩,
  ⟨R.GAT_OP, 16, 64, .computeOrHead, .bank, [fr 0 2 .wo 0, fr 8 31 .wo 0]⟩] ++ [
  ⟨R.GAT_HALLWAIT, 16, 64, .computeOrHead, .bank, [fr 0 1 .rw 0x0, fr 2 7 .rw 0x0, fr 8 8 .w1s 0x0, fr 9 9 .w1c 0x0]⟩,
  ⟨R.GAT_BANK_STATUS, 1, 0, .computeOrHead, .bank0, [fr 0 15 .rc 0x0, fr 16 31 .rc 0x0]⟩]

/-- The registers of 11_reservoir.md. -/
def regs11 : List RegRow :=
  [
  ⟨R.RSV_STATUS, 1, 0, .stack, .one, [fr 0 0 .ro 0x0, fr 1 2 .ro 0x0, fr 3 3 .ro 0x0, fr 4 4 .ro 0x0, fr 5 5 .ro 0x0, fr 6 21 .ro 0x0]⟩,
  ⟨R.RSV_SHARE, 1, 0, .stack, .one, [fr 0 7 .rw 0xA, fr 8 15 .rw 0x32, fr 16 23 .rw 0xF, fr 24 31 .rw 0x19]⟩,
  ⟨R.RSV_APPLY, 1, 0, .stack, .one, [fr 0 0 .w1s 0x0]⟩,
  ⟨R.RSV_PT_SEL, 1, 0, .stack, .one, [fr 0 15 .rw 0x0]⟩,
  ⟨R.RSV_PERR_CNT, 1, 0, .stack, .one, [fr 0 15 .rc 0x0, fr 16 31 .rc 0x0]⟩,
  ⟨R.RSV_REFUSE_CNT, 1, 0, .stack, .one, [fr 0 31 .rc 0x0]⟩,
  ⟨R.RSV_RATE_A, 1, 0, .stack, .one, [fr 0 15 .ro 0x0, fr 16 31 .ro 0x0]⟩,
  ⟨R.RSV_RATE_B, 1, 0, .stack, .one, [fr 0 15 .ro 0x0, fr 16 31 .ro 0x0]⟩,
  ⟨R.RSV_MAX_LAT, 1, 0, .stack, .one, [fr 0 15 .rc 0x0]⟩,
  ⟨R.RSV_PT_ENTRY, 1, 0, .stack, .one, [fr 0 2 .rw 0x0, fr 3 3 .rw 0x0, fr 4 4 .rw 0x0, fr 5 5 .ro 0x0, fr 16 31 .rw 0x0]⟩,
  ⟨R.RSV_PERR_STATUS, 1, 0, .stack, .one, [fr 0 0 .w1c 0x0, fr 1 1 .ro 0x0, fr 2 3 .ro 0x0, fr 4 6 .ro 0x0]⟩,
  ⟨R.RSV_PERR_ADDR, 1, 0, .stack, .one, [fr 0 15 .ro 0x0, fr 16 26 .ro 0x0]⟩]

/-- The registers of 12_aqueducts.md. -/
def regs12 : List RegRow :=
  [
  ⟨R.AQD_STATUS, 1, 0, .head, .aqueduct, [fr 0 0 .ro 0x0, fr 1 3 .ro 0x0, fr 4 4 .ro 0x0, fr 5 5 .ro 0x0, fr 6 9 .ro 0x0, fr 10 10 .ro 0x0, fr 11 11 .ro 0x0, fr 12 12 .ro 0x0, fr 13 13 .ro 0x0]⟩,
  ⟨R.AQD_CTRL, 1, 0, .head, .aqueduct, [fr 0 0 .rw 0x0, fr 1 1 .rw 0x0, fr 2 2 .rw 0x0, fr 3 14 .rw 0x0]⟩,
  ⟨R.AQD_APPLY, 1, 0, .head, .aqueduct, [fr 0 0 .w1s 0x0]⟩,
  ⟨R.AQD_RETRY_CNT, 1, 0, .head, .aqueduct, [fr 0 15 .rc 0x0, fr 16 31 .rc 0x0]⟩,
  ⟨R.AQD_FEC_CNT, 1, 0, .head, .aqueduct, [fr 0 15 .rc 0x0, fr 16 31 .rc 0x0]⟩,
  ⟨R.AQD_MAX_LAT, 1, 0, .head, .aqueduct, [fr 0 15 .rc 0x0]⟩,
  ⟨R.AQD_PEER, 1, 0, .head, .aqueduct, [fr 0 15 .ro 0x0, fr 16 21 .ro 0x0, fr 31 31 .ro 0x0]⟩,
  ⟨R.AQD_ETH_RX, 1, 0, .head, .aqueduct, [fr 0 31 .rc 0x0]⟩,
  ⟨R.AQD_ETH_TX, 1, 0, .head, .aqueduct, [fr 0 31 .rc 0x0]⟩,
  ⟨R.AQD_ETH_DROP, 1, 0, .head, .aqueduct, [fr 0 15 .rc 0x0, fr 16 31 .rc 0x0]⟩,
  ⟨R.AQD_LANE_SER, 8, 4, .head, .aqueduct, [fr 0 31 .rc 0x0]⟩,
  ⟨R.AQD_LANE_RET, 1, 0, .head, .aqueduct, [fr 0 7 .ro 0x0, fr 8 15 .ro 0x0, fr 16 23 .w1s 0x0]⟩] ++ [
  ⟨R.AQD_LASER_STATUS, 1, 0, .head, .laser, [fr 0 0 .ro 0x0, fr 1 1 .ro 0x0, fr 2 2 .w1c 0x0, fr 3 3 .w1c 0x0]⟩,
  ⟨R.AQD_LASER_PWR, 1, 0, .head, .laser, [fr 0 15 .ro 0x8000, fr 16 31 .ro 0x8000]⟩,
  ⟨R.AQD_LASER_THRESH, 1, 0, .head, .laser, [fr 0 15 .rw 0x3E8]⟩]

/-- The registers of 13_fabric_transactions.md. -/
def regs13 : List RegRow :=
  [
  ⟨R.AQD_TXN_STATUS, 1, 0, .head, .transactions, [fr 0 0 .ro 0, fr 1 1 .ro 0x0, fr 2 4 .ro 0x3, fr 5 7 .ro 0x2, fr 8 8 .ro 0x0, fr 9 9 .w1c 0x0]⟩,
  ⟨R.AQD_FA, 1, 0, .head, .transactions, [fr 0 15 .rw 0x0, fr 16 16 .rw 0x0]⟩,
  ⟨R.AQD_TXN_TIMEOUT, 1, 0, .head, .transactions, [fr 0 19 .rw 0x7D0]⟩,
  ⟨R.AQD_WIN_SEL, 1, 0, .head, .transactions, [fr 0 11 .rw 0x0]⟩,
  ⟨R.AQD_WIN_TGT_LO, 1, 0, .head, .transactions, [fr 0 31 .rw 0]⟩,
  ⟨R.AQD_WIN_TGT_HI, 1, 0, .head, .transactions, [fr 0 31 .rw 0]⟩,
  ⟨R.AQD_WIN_CTRL, 1, 0, .head, .transactions, [fr 0 7 .rw 0x0, fr 8 8 .rw 0x0, fr 9 9 .rw 0x0, fr 10 10 .rw 0x0, fr 11 16 .rw 0x0, fr 17 17 .rw 0x0]⟩,
  ⟨R.AQD_WIN_OP, 1, 0, .head, .transactions, [fr 0 1 .wo 0]⟩,
  ⟨R.AQD_WIN_STATUS, 1, 0, .head, .transactions, [fr 0 15 .ro 0x0, fr 16 17 .ro 0x0, fr 18 24 .ro 0x0]⟩,
  ⟨R.AQD_RT_SEL, 1, 0, .head, .transactions, [fr 0 10 .rw 0x0]⟩,
  ⟨R.AQD_RT_LO, 1, 0, .head, .transactions, [fr 0 31 .rw 0x0]⟩,
  ⟨R.AQD_RT_HI, 1, 0, .head, .transactions, [fr 0 31 .rw 0x0]⟩] ++ [
  ⟨R.AQD_TXN_CNT_A, 1, 0, .head, .transactions, [fr 0 15 .rc 0x0, fr 16 31 .rc 0x0]⟩,
  ⟨R.AQD_TXN_CNT_B, 1, 0, .head, .transactions, [fr 0 15 .rc 0x0, fr 16 31 .rc 0x0]⟩]

/-- The registers of 14_global_operations.md. -/
def regs14 : List RegRow :=
  [
  ⟨R.GAT_BAR_CTRL, 64, 32, .head, .bank0, [fr 0 8 .rw 0x0, fr 9 16 .rw 0x0, fr 17 24 .rw 0x0, fr 25 25 .rw 0x0, fr 31 31 .rw 0x0]⟩,
  ⟨R.GAT_BAR_PARENT, 64, 32, .head, .bank0, [fr 0 15 .rw 0x0, fr 16 31 .rw 0x0]⟩,
  ⟨R.GAT_BAR_DIES_LO, 64, 32, .head, .bank0, [fr 0 31 .rw 0x0]⟩,
  ⟨R.GAT_BAR_DIES_HI, 64, 32, .head, .bank0, [fr 0 15 .rw 0x0]⟩,
  ⟨R.GAT_BAR_STATE, 64, 32, .head, .bank0, [fr 0 15 .ro 0x0, fr 16 31 .rw 0x0]⟩,
  ⟨R.GAT_BAR_ARRIVED, 64, 32, .head, .bank0, [fr 0 7 .ro 0x0, fr 8 15 .ro 0x0, fr 16 16 .ro 0x0, fr 17 17 .ro 0x0, fr 18 18 .w1s 0x0, fr 19 19 .ro 0x0]⟩,
  ⟨R.GAT_BAR_PAYLOAD, 64, 32, .head, .bank0, [fr 0 31 .rw 0x0]⟩,
  ⟨R.GAT_BAR_RESULT, 64, 32, .head, .bank0, [fr 0 31 .ro 0x0]⟩,
  ⟨R.GAT_RLY_WIN, 64, 16, .head, .bank1, [fr 0 11 .rw 0x0, fr 12 20 .rw 0x0, fr 31 31 .rw 0x0]⟩,
  ⟨R.GAT_RLY_GEN, 64, 16, .head, .bank1, [fr 0 15 .rw 0x0]⟩,
  ⟨R.GAT_RLY_DONE, 64, 16, .head, .bank1, [fr 0 31 .rw 0x0]⟩,
  ⟨R.GAT_RLY_GATE, 64, 16, .head, .bank1, [fr 0 8 .rw 0x0]⟩] ++ [
  ⟨R.GAT_BAR_STATUS, 1, 0, .head, .bank0, [fr 0 15 .rc 0x0, fr 16 31 .rc 0x0]⟩]

/-- The registers of 15_weight_lifecycle.md. -/
def regs15 : List RegRow :=
  [
  ⟨R.SRV_MT_SEL, 1, 0, .coordinator, .one, [fr 0 5 .rw 0x0]⟩,
  ⟨R.SRV_MT_EPOCH, 1, 0, .coordinator, .one, [fr 0 31 .rw 0xFFFFFFFF]⟩,
  ⟨R.SRV_MT_PROG_LO, 1, 0, .coordinator, .one, [fr 0 31 .rw 0x0]⟩,
  ⟨R.SRV_MT_PROG_HI, 1, 0, .coordinator, .one, [fr 0 31 .rw 0x0]⟩,
  ⟨R.SRV_MT_CTRL, 1, 0, .coordinator, .one, [fr 0 0 .rw 0x0, fr 1 1 .rw 0x0, fr 2 2 .rw 0x0]⟩,
  ⟨R.SRV_MT_APPLY, 1, 0, .coordinator, .one, [fr 0 0 .w1s 0x0, fr 1 1 .ro 0x0]⟩,
  ⟨R.SRV_MT_PREV, 1, 0, .coordinator, .one, [fr 0 31 .ro 0xFFFFFFFF]⟩,
  ⟨R.SRV_MT_PIN_ACT, 1, 0, .coordinator, .one, [fr 0 16 .ro 0x0]⟩,
  ⟨R.SRV_MT_PIN_PREV, 1, 0, .coordinator, .one, [fr 0 16 .ro 0x0]⟩,
  ⟨R.SRV_MT_LOAD, 1, 0, .coordinator, .one, [fr 0 2 .ro 0x0, fr 16 31 .ro 0x0]⟩,
  ⟨R.SRV_WT_CNT_A, 1, 0, .coordinator, .one, [fr 0 15 .rc 0x0, fr 16 31 .rc 0x0]⟩,
  ⟨R.SRV_WT_CNT_B, 1, 0, .coordinator, .one, [fr 0 10 .rc 0x0, fr 11 21 .rc 0x0, fr 22 31 .rc 0x0]⟩] ++ [
  ⟨R.CIS_SCRUB_CTRL, 1, 0, .compute, .block, [fr 0 0 .w1s 0x0, fr 1 1 .ro 0x0, fr 2 2 .w1c 0x0, fr 8 15 .rw 0x64]⟩,
  ⟨R.CIS_SCRUB_RUN, 1, 0, .compute, .block, [fr 0 16 .rw 0x0, fr 17 22 .rw 0x0]⟩,
  ⟨R.CIS_SCRUB_DEST, 1, 0, .compute, .block, [fr 6 23 .rw 0x0]⟩]

/-- The registers of 16_serving_requests.md. -/
def regs16 : List RegRow :=
  [
  ⟨R.SRV_STATUS, 1, 0, .coordinator, .one, [fr 0 16 .ro 0x0, fr 17 17 .ro 0x0, fr 18 18 .ro 0x0]⟩,
  ⟨R.SRV_CTRL, 1, 0, .coordinator, .one, [fr 0 0 .rw 0x0, fr 1 12 .rw 0xFFF]⟩,
  ⟨R.SRV_CONV, 1, 0, .coordinator, .one, [fr 0 20 .ro 0x0]⟩,
  ⟨R.SRV_COMMIT_LO, 1, 0, .coordinator, .one, [fr 0 31 .ro 0x0]⟩,
  ⟨R.SRV_COMMIT_HI, 1, 0, .coordinator, .one, [fr 0 31 .ro 0x0]⟩,
  ⟨R.SRV_COMMIT_STEP_LO, 1, 0, .coordinator, .one, [fr 0 31 .ro 0x0]⟩,
  ⟨R.SRV_COMMIT_STEP_HI, 1, 0, .coordinator, .one, [fr 0 31 .ro 0x0]⟩,
  ⟨R.SRV_END_CNT_A, 1, 0, .coordinator, .one, [fr 0 15 .rc 0x0, fr 16 31 .rc 0x0]⟩,
  ⟨R.SRV_END_CNT_B, 1, 0, .coordinator, .one, [fr 0 15 .rc 0x0, fr 16 31 .rc 0x0]⟩,
  ⟨R.SRV_END_CNT_C, 1, 0, .coordinator, .one, [fr 0 15 .rc 0x0, fr 16 31 .rc 0x0]⟩,
  ⟨R.SRV_END_CNT_D, 1, 0, .coordinator, .one, [fr 0 15 .rc 0x0, fr 16 31 .rc 0x0]⟩,
  ⟨R.SRV_CANCEL_CNT, 1, 0, .coordinator, .one, [fr 0 15 .rc 0x0, fr 16 31 .rc 0x0]⟩] ++ [
  ⟨R.SRV_CONV_CNT, 1, 0, .coordinator, .one, [fr 0 15 .rc 0x0, fr 16 31 .rc 0x0]⟩,
  ⟨R.SRV_CANCEL_LAT, 1, 0, .coordinator, .one, [fr 0 15 .rc 0x0]⟩]

/-- The registers of 17_token_selection.md. -/
def regs17 : List RegRow :=
  [
  ⟨R.SRV_SPEC_CNT, 1, 0, .coordinator, .one, [fr 0 15 .rc 0x0, fr 16 31 .rc 0x0]⟩,
  ⟨R.SRV_SEL_CNT, 1, 0, .coordinator, .one, [fr 0 15 .rc 0x0, fr 16 31 .rc 0x0]⟩]

/-- The registers of 18_town_hall_and_mailboxes.md. -/
def regs18 : List RegRow :=
  [
  ⟨R.HAL_CORE_STATUS, 1, 0, .compute, .core, [fr 0 0 .ro 0x0, fr 1 1 .ro 0x0, fr 2 3 .ro 0x3]⟩,
  ⟨R.HAL_CORE_CTRL, 1, 0, .compute, .core, [fr 0 0 .rw 0]⟩,
  ⟨R.HAL_IRQ_PEND, 1, 0, .compute, .core, [fr 0 7 .w1c 0x0]⟩,
  ⟨R.HAL_IRQ_EN, 1, 0, .compute, .core, [fr 0 7 .rw 0x0]⟩,
  ⟨R.HAL_IRQ_TGT, 1, 0, .compute, .core, [fr 0 7 .rw 0x0]⟩,
  ⟨R.HAL_MTIMECMP_LO, 1, 0, .compute, .core, [fr 0 31 .rw 0xFFFFFFFF]⟩,
  ⟨R.HAL_MTIMECMP_HI, 1, 0, .compute, .core, [fr 0 31 .rw 0xFFFFFFFF]⟩,
  ⟨R.HAL_TIMER_APPLY, 1, 0, .compute, .core, [fr 0 0 .w1s 0x0, fr 1 1 .ro 0x0]⟩,
  ⟨R.HAL_TX_DATA, 16, 4, .compute, .coreOrAgent, [fr 0 31 .rw 0]⟩,
  ⟨R.HAL_TX_DATA + 0x80, 16, 4, .compute, .coreOrAgent, [fr 0 31 .rw 0]⟩,
  ⟨R.HAL_TX_DATA + 0x100, 16, 4, .compute, .coreOrAgent, [fr 0 31 .rw 0]⟩,
  ⟨R.HAL_TX_DATA + 0x180, 16, 4, .compute, .coreOrAgent, [fr 0 31 .rw 0]⟩,
  ⟨R.HAL_TX_DST, 1, 0, .compute, .coreOrAgent, [fr 0 15 .rw 0x0, fr 16 21 .rw 0x0, fr 22 27 .rw 0x0, fr 28 28 .rw 0x0]⟩,
  ⟨R.HAL_TX_DST + 0x80, 1, 0, .compute, .coreOrAgent, [fr 0 15 .rw 0x0, fr 16 21 .rw 0x0, fr 22 27 .rw 0x0, fr 28 28 .rw 0x0]⟩,
  ⟨R.HAL_TX_DST + 0x100, 1, 0, .compute, .coreOrAgent, [fr 0 15 .rw 0x0, fr 16 21 .rw 0x0, fr 22 27 .rw 0x0, fr 28 28 .rw 0x0]⟩,
  ⟨R.HAL_TX_DST + 0x180, 1, 0, .compute, .coreOrAgent, [fr 0 15 .rw 0x0, fr 16 21 .rw 0x0, fr 22 27 .rw 0x0, fr 28 28 .rw 0x0]⟩,
  ⟨R.HAL_TX_CTRL, 1, 0, .compute, .coreOrAgent, [fr 0 0 .w1s 0x0, fr 1 1 .ro 0x0, fr 2 4 .ro 0x0]⟩,
  ⟨R.HAL_TX_CTRL + 0x80, 1, 0, .compute, .coreOrAgent, [fr 0 0 .w1s 0x0, fr 1 1 .ro 0x0, fr 2 4 .ro 0x0]⟩,
  ⟨R.HAL_TX_CTRL + 0x100, 1, 0, .compute, .coreOrAgent, [fr 0 0 .w1s 0x0, fr 1 1 .ro 0x0, fr 2 4 .ro 0x0]⟩,
  ⟨R.HAL_TX_CTRL + 0x180, 1, 0, .compute, .coreOrAgent, [fr 0 0 .w1s 0x0, fr 1 1 .ro 0x0, fr 2 4 .ro 0x0]⟩,
  ⟨R.HAL_COORD, 1, 0, .compute, .hall, [fr 0 5 .rw 0x0]⟩] ++ [
  ⟨R.HAL_REMOTE, 1, 0, .compute, .hall, [fr 0 0 .rw 0x0, fr 1 1 .rw 0x0]⟩,
  ⟨R.HAL_ACC_STATUS, 1, 0, .compute, .hall, [fr 0 0 .w1c 0x0, fr 1 3 .ro 0x0, fr 4 6 .ro 0x0, fr 7 7 .ro 0x0, fr 8 19 .rc 0x0, fr 20 31 .rc 0x0]⟩,
  ⟨R.HAL_ACC_ADDR, 1, 0, .compute, .hall, [fr 0 31 .ro 0x0]⟩,
  ⟨R.HAL_PERR, 1, 0, .compute, .hall, [fr 0 0 .w1c 0x0, fr 1 2 .ro 0x0, fr 3 3 .ro 0x0, fr 4 27 .ro 0x0, fr 28 31 .rc 0x0]⟩,
  ⟨R.MBX_MSG, 16, 4, .compute, .mailbox, [fr 0 31 .ro 0]⟩,
  ⟨R.MBX_STAMP, 1, 0, .compute, .mailbox, [fr 0 31 .ro 0x0]⟩,
  ⟨R.MBX_STATUS, 1, 0, .compute, .mailbox, [fr 0 7 .ro 0x0, fr 8 8 .ro 0x0, fr 9 9 .w1c 0x0, fr 10 10 .ro 0x0]⟩,
  ⟨R.MBX_DRAIN, 1, 0, .compute, .mailbox, [fr 0 7 .wo 0]⟩,
  ⟨R.MBX_CTRL, 1, 0, .compute, .mailbox, [fr 0 0 .rw 0x0, fr 1 2 .rw 0x0, fr 3 3 .rw 0x0, fr 4 4 .rw 0x0, fr 5 6 .rw 0x2, fr 7 26 .rw 0x3E8]⟩,
  ⟨R.MBX_CNT, 1, 0, .compute, .mailbox, [fr 0 15 .rc 0x0, fr 16 23 .rc 0x0, fr 24 31 .rc 0x0]⟩]

/-- The registers of 19_boot_configuration_trust.md. -/
def regs19 : List RegRow :=
  [
  ⟨R.CFG_STATUS, 1, 0, .dieZero, .one, [fr 0 3 .ro 0x0, fr 4 7 .ro 0x0, fr 8 8 .ro 0x0, fr 9 10 .ro 0x1, fr 11 16 .ro 0x0]⟩,
  ⟨R.CFG_SEL, 1, 0, .dieZero, .one, [fr 0 9 .rw 0x0]⟩,
  ⟨R.CFG_DATA, 1, 0, .dieZero, .one, [fr 0 31 .ro 0]⟩,
  ⟨R.CFG_DIGEST, 16, 4, .dieZero, .one, [fr 0 31 .ro 0]⟩,
  ⟨R.TRU_STATUS, 1, 0, .dieZero, .one, [fr 0 1 .ro 0x1, fr 2 2 .ro 0x0]⟩,
  ⟨R.TRU_FW_VER, 1, 0, .dieZero, .one, [fr 0 31 .ro 0x0]⟩,
  ⟨R.TRU_FW_SVN, 1, 0, .dieZero, .one, [fr 0 31 .ro 0x0]⟩,
  ⟨R.TRU_FW_DIGEST, 16, 4, .dieZero, .one, [fr 0 31 .ro 0x0]⟩,
  ⟨R.TRU_ID_DIGEST, 16, 4, .dieZero, .one, [fr 0 31 .ro 0x0]⟩,
  ⟨R.TRU_ROOT_HASH, 16, 4, .dieZero, .one, [fr 0 31 .ro 0]⟩]

/-- The registers of 20_power_and_clocking.md. -/
def regs20 : List RegRow :=
  [
  ⟨R.CLK_DIE_STATUS, 1, 0, .every, .one, [fr 0 2 .ro 0x0, fr 3 3 .ro 0x0, fr 4 4 .ro 0x0, fr 5 5 .ro 0x0, fr 6 6 .ro 0x0]⟩,
  ⟨R.PWR_RAIL_CORE, 1, 0, .every, .one, [fr 0 9 .ro 0x2EE, fr 16 25 .rc 0x3FF]⟩,
  ⟨R.PWR_RAIL_AUX, 1, 0, .every, .one, [fr 0 10 .ro 0x0, fr 11 21 .ro 0x0]⟩,
  ⟨R.CLK_DROOP_CNT, 1, 0, .every, .one, [fr 0 15 .rc 0x0, fr 16 31 .rc 0x0]⟩,
  ⟨R.CLK_TJ, 1, 0, .every, .one, [fr 0 7 .ro 0x0]⟩,
  ⟨R.CLK_DST_STATUS, 1, 0, .compute, .district, [fr 0 7 .ro 0x0, fr 8 10 .ro 0x7, fr 11 11 .ro 0x0, fr 12 12 .ro 0x0]⟩,
  ⟨R.CLK_DST_MARGIN, 1, 0, .compute, .district, [fr 0 7 .rc 0xFF, fr 8 23 .rc 0x0]⟩,
  ⟨R.CLK_DEV_STATUS, 1, 0, .dieZero, .one, [fr 0 2 .ro 0x0, fr 3 5 .ro 0x7, fr 6 6 .ro 0x0, fr 7 7 .ro 0x0, fr 8 8 .ro 0x0, fr 9 9 .w1c 0x0, fr 10 10 .ro 0x0, fr 11 11 .ro 0x0, fr 12 12 .ro 0x0, fr 13 13 .ro 0x0]⟩,
  ⟨R.CLK_OP_NEXT, 1, 0, .dieZero, .one, [fr 0 2 .rw 0x0]⟩,
  ⟨R.PWR_VTARGET, 1, 0, .dieZero, .one, [fr 0 9 .rw 0x2EE]⟩,
  ⟨R.CLK_OP_TALLY_LO, 1, 0, .dieZero, .one, [fr 0 31 .rw 0x0]⟩,
  ⟨R.CLK_OP_TALLY_HI, 1, 0, .dieZero, .one, [fr 0 31 .rw 0x0]⟩] ++ [
  ⟨R.CLK_OP_APPLY, 1, 0, .dieZero, .one, [fr 0 0 .w1s 0x0, fr 1 1 .ro 0x0]⟩,
  ⟨R.CLK_OP_LIMIT, 1, 0, .dieZero, .one, [fr 0 2 .rw 0x7]⟩,
  ⟨R.CLK_THERM, 1, 0, .dieZero, .one, [fr 0 7 .rw 0x5F, fr 8 15 .rw 0x5A]⟩,
  ⟨R.PWR_IN, 1, 0, .dieZero, .one, [fr 0 15 .ro 0x0, fr 16 31 .ro 0x0]⟩,
  ⟨R.PWR_IN_POWER, 1, 0, .dieZero, .one, [fr 0 15 .ro 0x0, fr 16 31 .rc 0x0]⟩,
  ⟨R.PWR_LIMIT, 1, 0, .dieZero, .one, [fr 0 15 .rw 0x4074, fr 16 31 .rw 0xEA6]⟩,
  ⟨R.PWR_ALERT, 1, 0, .dieZero, .one, [fr 0 6 .w1c 0x0, fr 16 22 .rw 0x7D]⟩,
  ⟨R.CLK_CHG_CNT, 1, 0, .dieZero, .one, [fr 0 15 .rc 0x0, fr 16 31 .rc 0x0]⟩,
  ⟨R.CLK_TALLY_LO, 1, 0, .dieZero, .one, [fr 0 31 .ro 0x0]⟩,
  ⟨R.CLK_TALLY_HI, 1, 0, .dieZero, .one, [fr 0 31 .ro 0x0]⟩,
  ⟨R.CLK_TIME_NS, 1, 0, .dieZero, .one, [fr 0 29 .ro 0x0]⟩,
  ⟨R.CLK_TIME_SEC_LO, 1, 0, .dieZero, .one, [fr 0 31 .ro 0x0]⟩] ++ [
  ⟨R.CLK_TIME_SEC_HI, 1, 0, .dieZero, .one, [fr 0 15 .ro 0x0]⟩,
  ⟨R.CLK_TIME_RATE, 1, 0, .dieZero, .one, [fr 0 31 .rw 0x0]⟩,
  ⟨R.CLK_TIME_STEP, 1, 0, .dieZero, .one, [fr 0 31 .wo 0]⟩,
  ⟨R.CLK_TIME_CTRL, 1, 0, .dieZero, .one, [fr 0 1 .rw 0x0, fr 2 2 .rw 0x1, fr 3 3 .rw 0x0, fr 4 4 .ro 0x0]⟩]

/-- The registers of 21_continuity.md. -/
def regs21 : List RegRow :=
  [
  ⟨R.DIE_GATE_REHOME, 1, 0, .compute, .one, [fr 0 23 .rw 0x0]⟩,
  ⟨R.DIE_BLOCK_RET, 1, 0, .compute, .one, [fr 0 23 .rw 0x0]⟩,
  ⟨R.DIE_BRG_RETIRE, 1, 0, .compute, .one, [fr 0 1 .wo 0, fr 2 7 .wo 0, fr 8 8 .wo 0]⟩,
  ⟨R.SRV_CAP_STATUS, 1, 0, .coordinator, .one, [fr 0 6 .ro 0x64, fr 7 7 .ro 0x0, fr 8 10 .ro 0x0, fr 11 11 .ro 0x0, fr 12 12 .ro 0x0]⟩,
  ⟨R.SRV_CAP_ALARM, 1, 0, .coordinator, .one, [fr 0 6 .rw 0x50]⟩,
  ⟨R.SRV_CAP_RET_A, 1, 0, .coordinator, .one, [fr 0 10 .ro 0x0, fr 11 26 .ro 0x0]⟩,
  ⟨R.SRV_CAP_RET_B, 1, 0, .coordinator, .one, [fr 0 14 .ro 0x0, fr 15 22 .ro 0x0]⟩,
  ⟨R.SRV_CAP_RET_C, 1, 0, .coordinator, .one, [fr 0 18 .ro 0x0, fr 19 28 .ro 0x0]⟩,
  ⟨R.SRV_CAP_RET_D, 1, 0, .coordinator, .one, [fr 0 13 .ro 0x0, fr 14 25 .ro 0x0]⟩,
  ⟨R.SRV_FLT_CNT, 1, 0, .coordinator, .one, [fr 0 15 .rc 0x0, fr 16 31 .rc 0x0]⟩,
  ⟨R.SRV_REPLAY_CNT, 1, 0, .coordinator, .one, [fr 0 15 .rc 0x0, fr 16 23 .rc 0x0, fr 24 31 .rc 0x0]⟩,
  ⟨R.SRV_ST_CTRL, 1, 0, .coordinator, .one, [fr 0 7 .rw 0x18, fr 8 12 .rw 0x12, fr 13 13 .w1s 0x0]⟩] ++ [
  ⟨R.SRV_ST_STATUS, 1, 0, .coordinator, .one, [fr 0 4 .ro 0x0, fr 5 15 .ro 0x0]⟩,
  ⟨R.SRV_UPD_STATUS, 1, 0, .coordinator, .one, [fr 0 2 .ro 0x0, fr 3 8 .ro 0x0]⟩,
  ⟨R.SRV_LEDGER_SEL, 1, 0, .coordinator, .one, [fr 0 15 .rw 0x0]⟩,
  ⟨R.SRV_LEDGER_LOC, 1, 0, .coordinator, .one, [fr 0 31 .ro 0x0]⟩,
  ⟨R.SRV_LEDGER_STATE, 1, 0, .coordinator, .one, [fr 0 1 .ro 0x0, fr 2 2 .ro 0x0, fr 3 3 .ro 0x0]⟩]

/-- The registers of 22_module_interfaces.md. -/
def regs22 : List RegRow :=
  [
  ⟨R.DIE_GPIO_IN, 1, 0, .dieZero, .one, [fr 0 15 .ro 0]⟩,
  ⟨R.DIE_GPIO_OUT, 1, 0, .dieZero, .one, [fr 0 15 .rw 0x0]⟩,
  ⟨R.DIE_GPIO_OE, 1, 0, .dieZero, .one, [fr 0 15 .rw 0x0]⟩]

/-- Every register of the control space. -/
def regTable : List RegRow :=
  regs02 ++ regs03 ++ regs04 ++ regs05 ++ regs06 ++ regs07 ++ regs08 ++ regs09 ++ regs10 ++ regs11 ++ regs12 ++ regs13 ++ regs14 ++ regs15 ++ regs16 ++ regs17 ++ regs18 ++ regs19 ++ regs20 ++ regs21 ++ regs22

end Sys2Proof.Machine
end

