-- ==== Sys2Proof/Machine/SrvTypes.lean ====
section
/-! DEFINITION. Machine/SrvTypes: the records that firmware keeps: requests, conversations, models, boot, power, the
ledger, and the management agents. Plain data. -/

namespace Sys2Proof.Machine

/-- The connection a request came by (R293, R304): a stream of an HTTP/2 connection on an Ethernet aqueduct, a front end
on the fabric, or the admitting device of a request that has moved here. -/
inductive Conn where
  | http (aqd conn stream : Nat)
  | fabric (fa : Nat)
  | relay (fa slot : Nat)
deriving DecidableEq, Repr

/-- A row that a step runs, as its row table entry gives it (R302, R312). -/
structure RowUse where
  row : Nat
  slot : Nat
  pos : Nat
  prefill : Bool
  sample : Bool
  vidx : Nat
  proposal : Bool
  srec : Nat := 0       -- selection record
  propose : Nat := 0    -- extra heads that it runs
deriving DecidableEq, Repr

/-- A holder of a request's KV (R305): its address, its slot once it has acknowledged, its span, and whether it has refused
the span. -/
structure Holder where
  fa : Nat
  slot : Option Nat
  first : Nat
  count : Nat
  refused : Bool := false
deriving DecidableEq, Repr

/-- The states of a slot that is not FREE (R300). -/
inductive SlotState where
  | admitted | running | ending
deriving DecidableEq, Repr

/-- A slot (R300): as admitting device the request of R294 and what it has produced; as holder (`holderOf`) the admitting
device and its slot; or, where the request has moved (`gone`), the device that it has moved to (R304). A resumption that
waits for the copy of its conversation is ADMITTED (R208). -/
structure Slot where
  state : SlotState := .running
  holderOf : Option (Nat × Nat) := none
  gone : Bool := false
  record : List Byte := []       -- the request record
  conn : Conn := .fabric 0
  tenant : Nat := 0
  model : Nat := 0
  reqId : Nat := 0
  conv : Nat := 0
  assigned : Nat := 0            -- conversation identifier that the device has assigned, 0 for none (R308)
  textOut : Bool := false
  keep : Bool := false
  maxTokens : Nat := 0
  deadline : Option Nat := none
  ttl : Nat := 0
  seed : Nat := 0
  sampling : List Byte := []
  stops : List Nat := []
  tokens : List Nat := []        -- input and emitted tokens; token k is at position k
  emitted : Nat := 0
  pendingText : List Byte := []  -- bytes of a character that is not complete (R295)
  epoch : Nat := 0
  alt : Bool := false
  stamp : Nat := 0
  cancel : Option Nat := none
  asked : List Conn := []        -- connections to which a cancel result is owed (R306)
  proposals : List Nat := []
  noSpec : Bool := false         -- SPEC_MAX is treated as 0 for the next step (R322)
  holders : List Holder := []
  condensed : Bool := false
  kvShape : KvShape := {}
  kv : List Nat := []            -- KV pages, in the order of positions (R208)
  stored : Nat := 0              -- positions whose KV came back from a paused conversation (R308)
  gaps : List Nat := []          -- lengths of the condensed records that its KV was restored from (R214)
  prompts : List (Nat × Nat) := []   -- runs of positions that inputs gave: first and count
  counts : SMap Nat := []        -- count list: token and count, tokens rising (R314)
  spill : List Nat := []         -- KV pages of the entries beyond the pool's (R314)
  span : Option (Nat × Nat) := none  -- a holder's span: first position and count (R305)
  passed : List Nat := []        -- devices that have refused a span of the request (R305)
  commit : Nat := 0
deriving DecidableEq, Repr

/-- A paused conversation (R209): its directory record with where its KV and the copies of the record lie; the KV pages that
still are to be copied while the copy has not landed (R208). -/
structure Conv where
  conv : Nat
  tenant : Nat
  model : Nat
  tokens : List Nat
  expiry : Nat
  condensed : Bool
  pinned : Bool
  holders : List Holder              -- the holders of its spans (R308)
  edition : Nat
  marked : Bool := false             -- requests of it are marked CONDENSED (R214)
  kvShape : KvShape := {}
  stack : Option Nat := none         -- the stack that holds its KV
  pages : List Nat := []             -- CONVERSATION pages, in order
  copies : List Nat := []            -- stacks of the copies of its directory record
  landed : Bool := true
  source : List Nat := []            -- KV pages that its KV is copied from
  lost : Bool := false               -- its KV is gone, and it is resumed by prefill (R204, R211)
  gaps : List Nat := []
  prompts : List (Nat × Nat) := []
  span : Option (Nat × Nat) := none  -- a holder's span of the conversation (R308)
deriving DecidableEq, Repr

/-- A shard record of a manifest (R270). -/
structure Shard where
  offset : Nat
  length : Nat
  source : Nat
  kind : Nat
  slice : Nat
  tenant : Nat
  placeFirst : Nat
  placeCount : Nat
  digest : List Byte
deriving DecidableEq, Repr

/-- A source of weights (R270): NVMe/TCP, NVMe/RDMA or HTTPS by `kind`, its port and IPv6 address, its namespace, its name and
path without their padding. -/
structure Source where
  kind : Nat
  port : Nat
  addr : List Byte
  nsid : Nat
  name : List Byte
  path : List Byte
deriving DecidableEq, Repr

/-- A manifest (R270). -/
structure Manifest where
  edition : Nat
  modelId : Nat
  epoch : Nat
  slices : Nat
  sources : List Source
  shards : List Shard
  placements : List Nat
  prevEpoch : Nat
deriving DecidableEq, Repr

/-- How far a shard has come (R276 to R279). -/
inductive ShardStage where
  | waiting
  | receiving (page : Nat) (landed : List Nat)   -- pieces that have landed in staging windows (R277)
  | staged (page : Nat) | verified (page : Nat) | placed | failed
deriving DecidableEq, Repr

/-- What a loader keeps of a shard that it distributes (R277): its staging pages while it holds them, whether they have been
freed with nothing more asked for, the recipients that have reported windows, and the pieces that have landed there. -/
structure Loading where
  page : Option Nat := none
  done : Bool := false
  askers : List Nat := []
  served : List (Nat × Nat) := []
deriving DecidableEq, Repr

/-- An epoch of a model (R286): its manifest and digest, the stages and failures of its shards, the scrub digests of its
pages (R280). -/
structure EpochRec where
  epoch : Nat
  modelId : Nat
  digest : List Byte
  manifest : Manifest
  slice : Nat
  stages : List ShardStage
  tries : SMap Nat := []
  asked : List Nat := []             -- shards whose reads have gone out to their source (R276)
  retries : SMap Nat := []           -- failed reads, by shard × 4096 + piece of 1 MiB (R276)
  hall : List Nat := []              -- HALL pages of the manifest (R274)
  digests : List Nat := []           -- HALL pages of the scrub digests (R280)
  scrub : SMap (List Byte) := []     -- by page key: global block × 64 + half page, or 2^20 + reservoir page
  lastScrub : SMap Nat := []
  program : Nat := 0
  alt : Bool := false               -- its image alternative (R286)
  live : Bool := false              -- its staging has ended (R286)
  members : List Nat := []          -- the members that serve the model, as the loaders were chosen last (R275)
  loads : SMap Loading := []        -- by shard, where this device is its loader
deriving DecidableEq, Repr

/-- A model table entry besides its registers (R286). -/
structure Model where
  parts : SMap (List Byte) := []     -- parts of a boot model entry (R349)
  entry : List Byte := []
  expected : List Byte := []         -- expected SHA-512 of the manifest
  staged : Option EpochRec := none
  active : Option EpochRec := none
  prev : Option EpochRec := none
  removing : Bool := false
  stepped : Bool := false            -- a first step has completed (R212)
  fallback : List Byte := []         -- the fallback program supplied for its epoch (R382)
deriving DecidableEq, Repr

/-- A staging window of a shard that is being received (R277): the piece it is for, the frames of it that have landed, and
whether it is open for it. -/
structure StageWin where
  window : Nat
  model : Nat
  epoch : Nat
  shard : Nat
  piece : Nat
  got : List Nat := []
  opened : Bool := false
deriving DecidableEq, Repr

/-- What firmware writes into a window of another device: reservoir bytes from `addr` on, as frames at the offsets still to
be sent; for a piece of a shard, the model, epoch, shard and piece. -/
structure FwSend where
  id : Nat
  fa : Nat
  win : Nat
  gen : Nat
  addr : Nat
  len : Nat
  todo : List Nat
  landed : List Nat := []
  piece : Option (Nat × Nat × Nat × Nat) := none
deriving DecidableEq, Repr

/-- A report that a staging window is open (R277). -/
structure ReadyMsg where
  src : Nat
  window : Nat
  gen : Nat
  piece : Nat
  digest8 : List Byte
deriving DecidableEq, Repr

/-- Host lines of a block that hold tiles of a tenant (R292). -/
structure TagLines where
  tag : Nat
  block : Nat      -- global block
  line : Nat
  count : Nat
deriving DecidableEq, Repr

/-- The serving engine (R293 to R309) and the weights' firmware (R270 to R292). -/
structure Serving where
  slots : SMap Slot := []
  ended : List (Nat × Nat) := []           -- tenant and REQUEST_ID of requests that have ended (R306)
  convs : List Conv := []
  intake : SMap (List Byte) := []          -- what has arrived of request records on the fabric, by SRC (R299)
  dirPages : SMap (List Nat) := []         -- HALL pages of the conversation directory, by stack (R209)
  tenants : List (List Byte × Nat) := []   -- the tenant table (R298)
  models : SMap Model := []
  ready : List ReadyMsg := []              -- reports that wait for the shard to be staged here
  stageWins : List StageWin := []
  sends : List FwSend := []
  portsMoved : SMap Nat := []              -- aqueducts that serve the addresses of others, by these (R304)
  responses : SMap Nat := []               -- RESPONSE frames sent, by front end, modulo 2^16 (R299)
  lostPages : List Nat := []               -- reservoir pages of which a read has been refused, to be restored (R204)
  noPage : List (Nat × Nat) := []          -- pages that a peer has said it does not hold, and the peer (R283)
  badPages : List Nat := []                -- pages that no repair has mended, by page key (R283)
  scrubDue : List Nat := []                -- pages whose scrub is due, by page key
  scrubbed : SMap Nat := []                -- lines of a cistern page that scrub runs have read so far, in order, by page key
  repairWait : List (PageRef × RepairEnv) := []   -- repairs that wait for the step that reads their page (R284)
  tagLines : List TagLines := []           -- cistern lines that hold private tiles (R292)
  tagOwners : List (Nat × List Byte) := [] -- tenant tags, and the identities that have had them (R292)
deriving DecidableEq, Repr

/-- An entry of the ledger (R377). -/
structure LedgerEntry where
  loc : Nat
  stamps : List Nat
  retired : Bool
deriving DecidableEq, Repr

/-- Continuity (R375 to R393): the ledger, retirements decided and not applied, blocks under test, their slice, when each
block was tested last. -/
structure Continuity where
  ledger : List LedgerEntry := []
  due : List Nat := []                     -- permanent locations for which no decision has been made
  pending : List Nat := []                 -- decisions to be applied at the next step boundary
  retired : List Nat := []                 -- retirements that have been applied
  testing : List (Nat × Nat) := []         -- block and its next slice
  lastTest : SMap Nat := []
  testedPages : List Nat := []             -- pages that a reservoir test holds
  standby : Option Nat := none
  heartbeats : Nat := 0                    -- tally of the last heartbeat sent
deriving DecidableEq, Repr

/-- A firmware image (R350), as far as it is used after it has verified. -/
structure Image where
  edition : Nat
  version : Nat
  svn : Nat
  digest : List Byte
  sections : List (Nat × List Byte × List Byte)   -- kind, expected digest and bytes
deriving DecidableEq, Repr

/-- Boot, configuration and trust (R342 to R355). -/
structure BootState where
  on : Bool := true                        -- MOD_PG is high
  admitted : Bool := false                 -- SRV_CTRL.ADMIT has been set on the first READY (R344)
  inReset : Bool := false                  -- MOD_RST_N counts as low
  config : List Byte := []                 -- the record as read (R346)
  identityBlob : List Byte := []
  certificate : List Byte := []
  image : Option Image := none
  env : BootEnv := {}                      -- what this boot meets (R344)
  until_ : Nat := 0                        -- tally at which the boot stage ends, or of the last failure (R345)
  images : List (Bool × Image) := []       -- images to be tried, with their slot (R350)
  newImage : Option Image := none          -- the image of a live update
  updatedHeads : List Nat := []
  updatedDies : List Nat := []
  signing : List (Nat × Nat × Nat × List Byte) := []  -- attestation requests in hand: aqueduct, connection, stream, nonce
  ppsIn : Option Nat := none               -- tally of the last accepted PPS_IN edge
  ppsStamp : Nat := 0                      -- its time stamp in ns
deriving DecidableEq, Repr

/-- Device time (R371): BASE in units of 10⁻¹³ ns at the tally TALLY_BASE, and changes that the next tally edge takes. -/
structure Clock where
  base : Nat := 0
  at_ : Nat := 0
  steps : List Int := []                   -- steps in ns
  newRate : Option Nat := none
deriving DecidableEq, Repr

/-- Power and clocking (R356 to R374) besides its registers. -/
structure Power where
  hotSince : SMap Nat := []                -- by die × 4 + district: tally of the last lowering at or above THROTTLE
  coolSince : SMap Nat := []               -- tally since which the temperature has been at or below RESUME
  edgeCeiling : SMap Nat := []             -- ceilings of dies 48 to 63; unlisted: 7
  droops : SMap (List Nat) := []           -- by die × 4 + district: tallies of its stretches of the last ms
  edgeTj : SMap Nat := []                  -- junction temperatures of dies 48 to 63, °C in 8 bits
  supply : Nat := 7                        -- the supply ceiling (R364)
  supplyAt : Nat := 0                      -- tally of the supply ceiling's last change
  allowed : Option (Nat × Nat) := none     -- a higher point and the tally since which it has been allowed
  emergency : Bool := false
  trip : Bool := false
  sourceHeard : Nat := 0                   -- tally at which the time source was last heard
  sourceSilent : Bool := false
  ramp : Option Nat := none                -- target of a voltage ramp in progress
deriving DecidableEq, Repr

/-- The I3C agent (R400): its last result, the access under way (address, and data of a write), its dynamic address. -/
structure I3c where
  status : Nat := 0
  data : Nat := 0
  pending : Option (Nat × Option Nat) := none
  address : Option Nat := none
deriving DecidableEq, Repr

/-- The TAP (R401): its instruction, the access register's last result and the access under way, the boundary scan
chain. -/
structure Tap where
  ir : Nat := 2
  status : Nat := 0
  data : Nat := 0
  pending : Option (Nat × Option Nat) := none
  scan : List Bool := []
  bypass : Bool := false
deriving DecidableEq, Repr

end Sys2Proof.Machine
end

