-- ==== Sys2Proof/Machine/Device.lean ====
section
/-! DEFINITION. Machine/Device: everything the spec gives the device that lasts from one command to the next, but the
queue of commands. Plain data. -/

namespace Sys2Proof.Machine

/-- A slip log entry (R190), with the number of the step that it belongs to (R19), which no word of the entry shows. -/
structure SlipRec where
  cycle : Nat
  bundle : Nat
  block : Nat
  slip : Nat
  held : Nat
  cause : Cause
  tag : Nat
  step : Nat := 0
deriving DecidableEq, Repr

/-- The answer of a read of a package well (R154): none yet, a row already overtaken, or bytes and whether a row of them was in
error. -/
inductive AskReply where
  | pending
  | overtaken
  | data (bytes : List Byte) (bad : Bool)
deriving DecidableEq, Repr

/-- A read of a package well that checks a mark, from its sending until its response has come (R154): the number that its data
carries at the pump, the descriptor that asked, what it asked for, who asked, its answer, the square at which it merged into
another's read, if it did, and how many requests have merged into it, by square. -/
structure WellAsk where
  id : Nat
  serial : Nat
  die : Nat
  block : Nat
  addr : Nat
  len : Nat
  vc : Nat
  gen : Nat
  byDie : Nat
  byBlock : Nat
  byPumpB : Bool
  reply : AskReply := .pending
  at_ : Option (Nat × Nat) := none        -- die and square where it merged
  merged : List (Nat × Nat × Nat) := []   -- die, square, requests
deriving DecidableEq, Repr

/-- A waiter of a gate (R179): a block of the gate's die, or a Town Hall core. -/
inductive Waiter where
  | block (b : Nat)
  | hall (die core : Nat)
deriving DecidableEq, Repr

/-- A Town Hall core waits. -/
def Waiter.isHall : Waiter → Bool
  | .block _ => false
  | .hall .. => true

/-- The state of a compute die or head that is no register (R189 to R194, R368). -/
structure DieState where
  nanKey : Option (Nat × Nat × Nat × Nat) := none   -- key of the recorded NaN event (R40)
  nanStep : Nat := 0                                -- step number of the record
  slips : List SlipRec := []
  stepDone : Bool := false
  elapsed : Nat := 0                                -- cycles since step cycle 0 (DIE_STEP_ELAPSED)
  phase : Nat := 0                                  -- fraction of a block cycle at the last tally tick
  droop : Option (Nat × Bool) := none               -- cycles of the stretch left, and whether by 25 %
  droopRec : Option (Nat × Nat) := none             -- a stretch to record: elapsed and step cycle when it began
  waiters : SMap (List Waiter) := []                -- gate to its waiters
  signals : Nat := 0                                -- remote gate signals of the step not performed (R194)
deriving DecidableEq, Repr

/-- Where an abort stands (R193). -/
inductive AbortPhase where
  | none
  | requested (code : FaultCode)
  | draining (code : FaultCode)
deriving DecidableEq, Repr

/-- What a commit point needs of a completed step (R306): its number, mode of failure by rows. -/
structure CommitRec where
  number : Nat
  rows : List RowUse := []
  nanRows : List Nat
  badRows : List Nat
  badAll : Bool
  found : List (Nat × BadRead) := []
deriving DecidableEq, Repr

/-- The step of the device (R19, R181, R193, R194). -/
structure StepState where
  hdr : StepHdr := {}                 -- header of the program in place (R159)
  nextHdr : Option StepHdr := none    -- header of a program whose placement is not applied (R162)
  number : Nat := 0                   -- number of the running step, or of the next
  running : Bool := false
  lockstep : Bool := false
  begun : Nat := 0                    -- tally at which it began
  wdogFrom : Nat := 0                 -- tally at the step's start
  signalled : Option Nat := none      -- tally of the first signal that the serving engine sent the next step's start gates (R193)
  loads : List (List Byte) := []      -- step programs whose load waits for the step boundary (R162)
  abort : AbortPhase := .none
  holdFrom : Option Nat := none       -- earliest step cycle that a raise edge carries (R183)
  tallied : Bool := false             -- the start tally of a lockstep step has passed (R181)
  aborts : List FaultCode := []       -- aborts of this step's rows so far, latest first (R379)
  aborted : Bool := false             -- the last step ended its abort, and what follows from it is not done (R192)
  loaded : List (Nat × List Byte) := []   -- programs loaded and not replaced, with the SHA-512 of each (R354)
  barred : List Nat := []             -- programs that no step runs until they are reloaded (R192)
  commits : List CommitRec := []      -- completed steps whose commit points are not taken (R306)
  rows : List RowUse := []            -- rows that the step runs (R302)
  replayOf : Option Nat := none       -- number of the aborted step whose rows are to run again (R379)
  nanRows : List Nat := []            -- batch rows attributed a NaN in this step (R41)
  badRows : List Nat := []            -- batch rows affected by a parity error (R122)
  badAll : Bool := false              -- every row of the step is affected (R122)
  found : List (Nat × BadRead) := []  -- by die, rows of results that the Town Hall's reads will find in error (R122)
  badWells : List (Nat × BadRead) := []   -- well rows found in error in the step, by global block, to be written anew (R123)
  nanLost : Bool := false             -- a die held an earlier step's record, so this step's first NaN is unknown (R43)
  firstNan : Option (Nat × Nat × Nat × Nat × Nat) := none   -- key of the last step's first NaN: step cycle, die, block,
                                                            -- unit code, batch row (R40)
deriving DecidableEq, Repr

/-- The device. -/
structure Dev where
  epoch : Nat := 0                  -- the model's own: counts the events that leave values open (log entry 4)
  tally : Nat := 0                  -- the 64-bit tally (R360)
  regs : SMap Word := []            -- registers by control address; unlisted: the reset value (R6, R10)
  shadow : SMap Word := []          -- shadows written since their group last applied (R334)
  selBank : SMap Word := []         -- selector values by path and place (R329)
  since : SMap Nat := []            -- by address of a measuring register: the tally of the last read that cleared it, or
                                    -- found it (R9); unlisted: 0, the reset
  blocks : SMap Block := []         -- by global block (R5)
  dies : SMap DieState := []        -- by compute die
  step : StepState := {}
  halls : SMap Mem := []            -- hall SRAM by compute die, 16 MiB each (R324)
  tcms : SMap Mem := []             -- tightly coupled memory by core, 4 MiB each (R324)
  rsv : Mem := {}                   -- the reservoir, by reservoir byte address (R196)
  stackTab : SMap Stack := []         -- by stack 0 to 7
  fountains : SMap Fountain := []   -- by head 0 to 7
  asks : List WellAsk := []         -- reads of package wells that others can merge into (R154)
  windows : SMap Window := []       -- the window table (R242)
  winCopies : SMap Window := []     -- by head × 4096 + window: copies that a change of the table has not reached (R242, R243)
  accepted : List Accepted := []    -- writes accepted at a head that have not landed (R244)
  winReads : List WinRead := []     -- window reads accepted and not answered (R248)
  txns : List Txn := []             -- outstanding transactions (R249)
  credits : List SendCredit := []   -- credits of remote windows
  aqds : SMap Aqd := []             -- by global aqueduct
  nets : SMap PortNet := []         -- by Ethernet port (R234)
  lasers : SMap LaserIn := []       -- by head × 2, plus 1 for input B
  mbxHalves : List MbxHalf := []    -- first parts of messages (R251)
  mailboxes : SMap MbxHeld := []    -- the message held, by die × 64 + mailbox
  partners : List Partner := []     -- partners heard (R254, R255)
  groups : List Group := []         -- collective groups (R256)
  barriers : SMap BarSlot := []     -- by head × 64 + slot
  relays : SMap Relay := []         -- by head × 64 + entry
  barEvents : List (Bool × Nat × Nat) := []   -- what barrier engines have done and firmware has not yet acted on:
                                              -- release or local part complete, slot, payload
  snaps : List Snapshot := []       -- snapshots in progress (R266)
  nextId : Nat := 1                 -- numbers reads, frames and descriptors
  coord : Nat := 0                  -- the die that holds coordination (R22)
  roster : List Nat := []           -- fabric addresses of the current precinct roster (R255)
  errors : List (Nat × Nat) := []   -- detected errors not yet collected: location and tally (R375)
  srv : Serving := {}
  cont : Continuity := {}
  boot : BootState := {}
  clock : Clock := {}
  power : Power := {}
  timerIrq : List Nat := []         -- cores whose machine timer interrupt is pending (R323)
  i3c : I3c := {}
  tap : Tap := {}
  out : List Emit := []             -- what has been sent, oldest first
deriving DecidableEq, Repr

end Sys2Proof.Machine
end

