-- ==== Sys2Proof/Machine/Ops.lean ====
section
/-! DEFINITION. Machine/Ops: the named operations over registers, blocks and records that every command is written
with: reading and writing a register field, saturating counters, recording a NaN event (R40) and a fault (R191). -/

namespace Sys2Proof.Machine

/-! ## Registers (R6 to R10) -/

/-- The control address of a register: its place (class and offset), die and instance (R6). -/
abbrev ctl (place die inst : Nat) : Nat := die * pow2 26 + inst * pow2 12 + place

/-- Where an indexed register of a unit is kept: its entry `n` behind its control address (R329). -/
abbrev ctlSel (place die inst n : Nat) : Nat := ctl place die inst + (n + 1) * pow2 32

/-- The die field of a control address. -/
def ctlDie (a : Nat) : Nat := bits a 26 6
/-- The class field of a control address. -/
def ctlClass (a : Nat) : Nat := bits a 20 6
/-- The field of a control address that names the unit within its class. -/
def ctlInst (a : Nat) : Nat := bits a 12 8
/-- The offset field of a control address. -/
def ctlOff (a : Nat) : Nat := bits a 0 12
/-- Class and offset of a control address. -/
def ctlPlace (a : Nat) : Nat := ctlClass a * pow2 20 + ctlOff a

/-- A die is one of a set; class 0x20 is judged by its routing copy (R411), not here. -/
def DieSet.has (s : DieSet) (die : Nat) : Bool :=
  match s with
  | .compute | .coordinator => die < 48
  | .stack => 48 ≤ die && die < 56
  | .head => 56 ≤ die && die < 64
  | .computeOrHead => die < 48 || (56 ≤ die && die < 64)
  | .every => die < 64
  | .dieZero => die == 0

/-- A unit number of its class holds a register (R327). -/
def InstSet.has (s : InstSet) (die i : Nat) : Bool :=
  match s with
  | .one => i == 0
  | .block => i < 24
  | .port => if die < 48 then i < 4 else if die < 56 then i < 2 else i == 0
  | .bank => if die < 48 then i < 16 else i < 32
  | .bank0 => i == 0
  | .bank1 => i == 1
  | .mailbox => i < 64
  | .core => i < 4
  | .coreOrAgent => i < 4 || (i == 5 && die == 0)
  | .hall => i == 4
  | .district => 1 ≤ i && i ≤ 4
  | .aqueduct => i < 8
  | .laser => i == 8
  | .transactions => i == 9

/-- The address is one of the register's. -/
def RegRow.has (r : RegRow) (a : Nat) : Bool :=
  let p := ctlPlace a
  r.dies.has (ctlDie a) && r.insts.has (ctlDie a) (ctlInst a)
    && r.place ≤ p
    && (if r.stride = 0 then p == r.place
        else (p - r.place) % r.stride == 0 && (p - r.place) / r.stride < r.count)

/-- The register at an address, if one is there. -/
def regAt (a : Nat) : Option RegRow := regTable.find? fun r => r.has a

/-- The bits of a register that are not reserved. -/
def RegRow.mask (r : RegRow) : Nat := r.fields.foldl (fun m f => m ||| (pow2 f.fld.width - 1) <<< f.fld.lo) 0

/-- The value that the fields' reset column spells. -/
def RegRow.resetNat (r : RegRow) : Nat := r.fields.foldl (fun v f => v + (f.reset <<< f.fld.lo)) 0

/-- The compute die and port that a bridge port of an edge die joins, by the edge bridge map (R12): stack ports go to
the west or east edge, heads to the north or south edge. -/
def edgePeer (die port : Nat) : Option Nat :=
  if 48 ≤ die ∧ die < 52 ∧ port < 2 then some (12 * (die - 48) + 6 * port)
  else if 52 ≤ die ∧ die < 56 ∧ port < 2 then some (12 * (die - 52) + 6 * port + 5)
  else if 56 ≤ die ∧ die < 60 ∧ port = 0 then some (die - 56 + 1)
  else if 60 ≤ die ∧ die < 64 ∧ port = 0 then some (die - 60 + 43)
  else none

/-- A bridge port is connected (R12): the ports of compute dies are N, E, S, W in the order 0 to 3. -/
def portPresent (die port : Nat) : Bool :=
  if die < 48 then
    match port with
    | 0 => decide (6 ≤ die ∨ (1 ≤ die ∧ die ≤ 4))
    | 1 => true
    | 2 => decide (die < 42 ∨ (43 ≤ die ∧ die ≤ 46))
    | 3 => true
    | _ => false
  else (edgePeer die port).isSome

/-- The links of a square (R141): mesh ports N, E, S, W of a grid of 4 rows and 6 columns, and the port link of the
squares that a bridge port stop reaches. -/
def squareLinks (b : Nat) : Nat :=
  b2n (6 ≤ b) + 2 * b2n (b % 6 != 5) + 4 * b2n (b < 18) + 8 * b2n (b % 6 != 0)
    + 16 * b2n ([2, 3, 11, 17, 20, 21, 6, 12].contains b)

/-- Reset values that the tables give in words (R10): the die's own number, ports present, cores held, the ROM's root
hash (log entry 5), the primary head. -/
def specialReset (a : Nat) : Nat :=
  let p := ctlPlace a
  let die := ctlDie a
  if p = R.DIE_NAN_STATUS then die <<< F.DIE_NAN_STATUS_DIE.lo
  else if p = R.SQR_STATUS then squareLinks (ctlInst a)
  else if p = R.BRG_STATUS then b2n (portPresent die (ctlInst a))
  else if p = R.AQD_TXN_STATUS ∧ ctlInst a = 9 then b2n (die == 56)
  else if p = R.HAL_CORE_CTRL ∧ ctlInst a < 4 then b2n (ctlInst a != 0)
  else if R.TRU_ROOT_HASH ≤ p ∧ p < R.TRU_ROOT_HASH + 64 then Config.identity 0x3F (p - R.TRU_ROOT_HASH) % pow2 32
  else 0

/-- The reset value of the register at an address; where no register is, 0 (R8). -/
def resetWord (a : Nat) : Word :=
  BitVec.ofNat 32 (((regAt a).map RegRow.resetNat).getD 0 + specialReset a)

/-- The stored value of a register. -/
def rd (d : Dev) (a : Nat) : Word := (mget d.regs a).getD (resetWord a)

/-- Stores a register. -/
def wr (d : Dev) (a : Nat) (v : Word) : Dev := { d with regs := mset d.regs a v }

/-- A field of a register. -/
def fget (d : Dev) (a : Nat) (f : Fld) : Nat := bits (rd d a).toNat f.lo f.width

/-- A one-bit field of a register. -/
def flag (d : Dev) (a : Nat) (f : Fld) : Bool := fget d a f == 1

/-- Stores a field of a register; its other bits stay. -/
def fset (d : Dev) (a : Nat) (f : Fld) (v : Nat) : Dev :=
  wr d a (BitVec.ofNat 32 (setBits (rd d a).toNat f.lo f.width v))

/-- Adds to a counter field that saturates at its largest value. -/
def fcnt (d : Dev) (a : Nat) (f : Fld) (n : Nat) : Dev :=
  if n = 0 then d else fset d a f (min (fget d a f + n) (pow2 f.width - 1))

/-- Registers of one die and unit. -/
abbrev blockReg (place die blk : Nat) : Nat := ctl place die blk

/-- Stores several fields of one register, in order. -/
def fsets (d : Dev) (a : Nat) (l : List (Fld × Nat)) : Dev := l.foldl (fun d p => fset d a p.1 p.2) d

/-! ## Blocks and dies -/

/-- The global number of a block (R5). -/
abbrev gblock (die blk : Nat) : Nat := die * 24 + blk

/-- A block. -/
def blk (d : Dev) (die b : Nat) : Block := mgetD d.blocks (gblock die b) {}

/-- Stores a block. -/
def setBlk (d : Dev) (die b : Nat) (x : Block) : Dev := { d with blocks := mset d.blocks (gblock die b) x }

/-- The state of a compute die. -/
def dieSt (d : Dev) (die : Nat) : DieState := mgetD d.dies die {}

/-- Stores the state of a compute die. -/
def setDie (d : Dev) (die : Nat) (x : DieState) : Dev := { d with dies := mset d.dies die x }

/-- Sends a record. -/
def emit (d : Dev) (kind : EmitKind) (nums : List Nat) (bytes : List Byte := []) : Dev :=
  { d with out := d.out ++ [{ kind, nums, bytes }] }

/-- An event that leaves a value open happens: later free values are others (log entry 4). -/
def bumpEpoch (d : Dev) : Dev := { d with epoch := d.epoch + 1 }

/-- The compute dies. -/
def computeDies : List Nat := List.range 48
/-- The blocks of a die. -/
def dieBlocks : List Nat := List.range 24

/-- Names of memories for their free bytes (log entry 4). -/
abbrev unitPs (g : Nat) : Nat := 0x10000 + g
/-- As `unitPs`, for the cistern. -/
abbrev unitCis (g : Nat) : Nat := 0x20000 + g
/-- As `unitPs`, for the well. -/
abbrev unitWell (g : Nat) : Nat := 0x30000 + g
/-- As `unitPs`, for the expansion slots. -/
abbrev unitExp (g : Nat) : Nat := 0x40000 + g
/-- As `unitPs`, for the basins. -/
abbrev unitBasin (g : Nat) : Nat := 0x50000 + g

/-- As `unitPs`, for hall SRAM. -/
abbrev unitHall (die : Nat) : Nat := 0x60000 + die
/-- As `unitPs`, for a core's tightly coupled memory. -/
abbrev unitTcm (core : Nat) : Nat := 0x70000 + core
/-- As `unitPs`, for the reservoir. -/
abbrev unitRsv : Nat := 0x80000

/-- Bytes of a die's hall SRAM. -/
def hallRead (d : Dev) (die a n : Nat) : List Byte :=
  memRead d.epoch (unitHall die) (mgetD d.halls die {}) a n

/-- Writes bytes into a die's hall SRAM. -/
def hallWrite (d : Dev) (die a : Nat) (bs : List Byte) : Dev :=
  { d with halls := mset d.halls die (memWrite (mgetD d.halls die {}) a bs) }

/-! ## Detected errors (R375, R376) -/

/-- A location identifier. -/
abbrev locId (die kind index : Nat) : Nat := die + kind * pow2 6 + index * pow2 10

/-- An error is detected at a location; firmware collects it later. -/
def detect (d : Dev) (loc : Nat) : Dev := { d with errors := d.errors ++ [(loc, d.tally)] }

/-! ## Interrupt sources (R326) -/

/-- Sets a source in HAL_IRQ_PEND of a core. -/
def irq (d : Dev) (die core src : Nat) : Dev :=
  fset d (ctl R.HAL_IRQ_PEND die core) ⟨src, 1⟩ 1

/-- Sets a source in every core of a die. -/
def irqAll (d : Dev) (die src : Nat) : Dev := [0, 1, 2, 3].foldl (fun d c => irq d die c src) d

/-! ## Faults (R191 to R193) -/

/-- A step is draining an abort. -/
def draining (d : Dev) : Bool :=
  match d.step.abort with
  | .draining _ => true
  | _ => false

/-- The number of an entry kind in DIE_FAULT_STATUS. -/
def EntryKind.code : EntryKind → Nat
  | .none => 0 | .basin => 1 | .wide => 2 | .narrow => 3

/-- A page whose repair has failed (R283), by its key: a cistern page by global block and half sub-bank, a reservoir page
above 2^20. -/
def pageBad (d : Dev) (k : Nat) : Bool := d.srv.badPages.contains k

/-- Asks for the abort of the running step (R193 step 1); one abort is enough. -/
def requestAbort (d : Dev) (code : FaultCode) : Dev :=
  match d.step.abort with
  | .none => if d.step.running then { d with step := { d.step with abort := .requested code } } else d
  | _ => d

/-- Writes the identity fields of a fault into the record of its die. -/
def writeFault (d : Dev) (die : Nat) (e : FaultEv) : Dev :=
  let reg (p : Nat) := ctl p die 0
  let d := fsets d (reg R.DIE_FAULT_STATUS)
    [(F.DIE_FAULT_STATUS_VALID, 1), (F.DIE_FAULT_STATUS_CODE, e.code.code), (F.DIE_FAULT_STATUS_UNIT, e.unit),
     (F.DIE_FAULT_STATUS_BLOCK, e.block), (F.DIE_FAULT_STATUS_ENTRY_KIND, e.kind.code),
     (F.DIE_FAULT_STATUS_ROW_VALID, b2n e.row.isSome)]
  let w (d : Dev) (p v : Nat) : Dev := wr d (reg p) (BitVec.ofNat 32 v)
  let d := w d R.DIE_FAULT_STEP_LO d.step.number
  let d := w d R.DIE_FAULT_STEP_HI (d.step.number >>> 32)
  let d := w d R.DIE_FAULT_CYCLE (min e.cycle (pow2 32 - 1))
  let d := fset d (reg R.DIE_FAULT_BUNDLE) F.DIE_FAULT_BUNDLE_ADDR e.bundle
  let d := fset d (reg R.DIE_FAULT_ENTRY) F.DIE_FAULT_ENTRY_INDEX e.entry
  let d := fset d (reg R.DIE_FAULT_ROW) F.DIE_FAULT_ROW_ROW (e.row.getD 0)
  let d := fset d (reg R.DIE_FAULT_TAG) F.DIE_FAULT_TAG_TAG e.tag
  irqAll (w d R.DIE_FAULT_AUX e.aux) die 3

/-- Records a fault of a die (R191): counted always, kept where no earlier record stands and no abort drains, and the
step aborts (R193). -/
def fault (d : Dev) (die : Nat) (e : FaultEv) : Dev :=
  let st := ctl R.DIE_FAULT_STATUS die 0
  let d := fcnt d (ctl R.DIE_FAULT_CNT die 0) F.DIE_FAULT_CNT_COUNT 1
  let d := if flag d st F.DIE_FAULT_STATUS_VALID || draining d then d else writeFault d die e
  requestAbort d e.code

/-! ## NaN events (R39 to R43) -/

/-- The order of keys (step cycle, block, unit code, batch row) (R40). -/
def keyLt (a b : Nat × Nat × Nat × Nat) : Bool :=
  if a.1 ≠ b.1 then a.1 < b.1
  else if a.2.1 ≠ b.2.1 then a.2.1 < b.2.1
  else if a.2.2.1 ≠ b.2.2.1 then a.2.2.1 < b.2.2.1
  else a.2.2.2 < b.2.2.2

/-- Writes the trap record of a die. -/
def writeNan (d : Dev) (die : Nat) (e : NanEv) : Dev :=
  let reg (p : Nat) := ctl p die 0
  let d := fsets d (reg R.DIE_NAN_STATUS)
    [(F.DIE_NAN_STATUS_VALID, 1), (F.DIE_NAN_STATUS_KIND, b2n e.admitted), (F.DIE_NAN_STATUS_UNIT, e.unit),
     (F.DIE_NAN_STATUS_BLOCK, e.block), (F.DIE_NAN_STATUS_ENTRY_KIND, b2n (!e.basin)),
     (F.DIE_NAN_STATUS_ROW_VALID, b2n (!e.admitted)), (F.DIE_NAN_STATUS_ROW_CLASS, b2n (!e.basin && e.narrow))]
  let w (d : Dev) (p v : Nat) : Dev := wr d (reg p) (BitVec.ofNat 32 v)
  let d := w d R.DIE_NAN_STEP_LO d.step.number
  let d := w d R.DIE_NAN_STEP_HI (d.step.number >>> 32)
  let d := w d R.DIE_NAN_CYCLE (min e.cycle (pow2 32 - 1))
  let d := fset d (reg R.DIE_NAN_BUNDLE) F.DIE_NAN_BUNDLE_ADDR e.bundle
  let d := fset d (reg R.DIE_NAN_ENTRY) F.DIE_NAN_ENTRY_INDEX e.entry
  let d := fset d (reg R.DIE_NAN_ROW) F.DIE_NAN_ROW_ROW e.row
  let d := fset d (reg R.DIE_NAN_TAG) F.DIE_NAN_TAG_TAG e.tag
  let ds := dieSt d die
  setDie d die { ds with nanKey := some (e.cycle, e.block, e.unit, e.row), nanStep := d.step.number }

/-- Entry or row of the NaN record of a die, with its kind and its batch row (R40). -/
def nanRecord (d : Dev) (die : Nat) : EntryKind × Nat × Option Nat :=
  let st := ctl R.DIE_NAN_STATUS die 0
  (if !flag d st F.DIE_NAN_STATUS_ENTRY_KIND then .basin else if flag d st F.DIE_NAN_STATUS_ROW_CLASS then .narrow else .wide,
   fget d (ctl R.DIE_NAN_ENTRY die 0) F.DIE_NAN_ENTRY_INDEX,
   if flag d st F.DIE_NAN_STATUS_ROW_VALID then some (fget d (ctl R.DIE_NAN_ROW die 0) F.DIE_NAN_ROW_ROW) else none)

/-- The halt policy (R42): the first event of a die aborts the step with NAN_HALT, and the die's record is marked where
it is one of this step. The fault names the entry or row of that record (R191); where the record that stands is of an
earlier step (R43), those of the event itself (log entry 28). -/
def nanHalt (d : Dev) (die : Nat) (e : NanEv) : Dev :=
  if d.step.hdr.nanHalt && d.step.running && !draining d then
    let mine := (dieSt d die).nanStep = d.step.number
    let d := if mine then fset d (ctl R.DIE_NAN_STATUS die 0) F.DIE_NAN_STATUS_HALTED 1 else d
    let place := if mine then nanRecord d die
      else (if e.basin then .basin else if e.narrow then .narrow else .wide, e.entry, if e.admitted then none else some e.row)
    fault d die
      { code := .nanHalt, unit := e.unit, block := e.block, bundle := e.bundle, cycle := e.cycle,
        kind := place.1, entry := place.2.1, row := place.2.2, tag := e.tag }
  else d

/-- Records a NaN event (R40, R43). -/
def nanEvent (d : Dev) (die : Nat) (e : NanEv) : Dev :=
  let st := ctl R.DIE_NAN_STATUS die 0
  let d := fcnt d (ctl R.DIE_NAN_CNT die 0) F.DIE_NAN_CNT_COUNT 1
  let ds := dieSt d die
  let key := (e.cycle, e.block, e.unit, e.row)
  if !flag d st F.DIE_NAN_STATUS_VALID then nanHalt (irqAll (writeNan d die e) die 5) die e
  else if ds.nanStep = d.step.number then
    nanHalt (if (ds.nanKey.map (keyLt key)).getD false then writeNan d die e else d) die e
  else
    let d := { d with step := { d.step with nanLost := true } }
    nanHalt (fset d st F.DIE_NAN_STATUS_OVERRUN 1) die e

/-- Marks batch rows as bearing a NaN (R41), for the commit point (R306). -/
def nanRows (d : Dev) (rows : List Nat) : Dev :=
  { d with step := { d.step with nanRows := (d.step.nanRows ++ rows).eraseDups } }

/-! ## Conversion counts (R38) -/

/-- Counts conversions in DIE_CVT_CNT of a die. -/
def cvtCount (d : Dev) (die ovf unf : Nat) : Dev :=
  fcnt (fcnt d (ctl R.DIE_CVT_CNT die 0) F.DIE_CVT_CNT_OVERFLOW ovf) (ctl R.DIE_CVT_CNT die 0)
    F.DIE_CVT_CNT_UNDERFLOW unf

/-! ## Effects of a unit's work

The units compute on their own block; what they do besides (counters, events, faults) they hand on as a list of
effects, applied in order. -/

/-- An effect of a unit's work on its die and step. -/
inductive Fx where
  | cnt (addr : Nat) (f : Fld) (n : Nat)
  | set (addr : Nat) (f : Fld) (v : Nat)
  | nan (die : Nat) (e : NanEv)
  | fault (die : Nat) (e : FaultEv)
  | cvt (die ovf unf : Nat)
  | nanRows (rows : List Nat)
  | badRows (rows : List Nat)
  | badAll
deriving DecidableEq, Repr

/-- Applies one effect. -/
def applyFx (d : Dev) : Fx → Dev
  | .cnt a f n => fcnt d a f n
  | .set a f v => fset d a f v
  | .nan die e => nanEvent d die e
  | .fault die e => fault d die e
  | .cvt die o u => cvtCount d die o u
  | .nanRows rows => nanRows d rows
  | .badRows rows => { d with step := { d.step with badRows := (d.step.badRows ++ rows).eraseDups } }
  | .badAll => { d with step := { d.step with badAll := true } }

/-- Applies effects in order. -/
def applyAll (d : Dev) (l : List Fx) : Dev := l.foldl applyFx d

/-- Stores a block and applies the effects of its work. -/
def putBlk (d : Dev) (die b : Nat) (r : Block × List Fx) : Dev := applyAll (setBlk d die b r.1) r.2

end Sys2Proof.Machine
end

