-- ==== Sys2Proof/Machine/Access.lean ====
section
/-! DEFINITION. Machine/Access: control accesses: what each path may do (R328), what is decoded (R327, R411), refusals
(R330), selector banks (R329), and a write by access codes (R9). -/

namespace Sys2Proof.Machine

/-- The refusal reasons of R330. -/
inductive Reason where
  | width | priv | notDecoded | cls | target
deriving DecidableEq, Repr

/-- The code of a reason. -/
def Reason.code : Reason → Nat
  | .width => 1 | .priv => 2 | .notDecoded => 3 | .cls => 4 | .target => 5

/-- The die on which a path's refusals are recorded (R330). -/
def Path.die : Path → Nat
  | .core d _ _ => d
  | _ => 0

/-- The PATH code of HAL_ACC_STATUS. -/
def Path.code : Path → Nat
  | .core _ c _ => c
  | .i3c => 4
  | .jtag => 5
  | .peer _ => 6

/-- The number of a path's selector bank (R329). -/
def Path.bank : Path → Nat
  | .core d c _ => d * 4 + c
  | .i3c => 192
  | .jtag => 193
  | .peer _ => 194

/-- The selector registers of R329, by place. -/
def isSelector (place : Nat) : Bool :=
  [R.CFG_SEL, R.DIE_SLIP_SEL, R.RSV_PT_SEL, R.AQD_WIN_SEL, R.AQD_RT_SEL, R.FNT_SEL, R.SRV_MT_SEL,
   R.SRV_LEDGER_SEL].contains place

/-- The key of a path's bank of a selector. -/
def bankKey (p : Path) (a : Nat) : Nat := p.bank * pow2 32 + a

/-- The value of a path's bank of a selector. -/
def selValue (d : Dev) (p : Path) (a : Nat) : Word := (mget d.selBank (bankKey p a)).getD (resetWord a)

/-- A field of the selector of a path. -/
def selField (d : Dev) (p : Path) (a : Nat) (f : Fld) : Nat := bits (selValue d p a).toNat f.lo f.width

/-- A core is retired. -/
def coreRetired (d : Dev) (die core : Nat) : Bool := flag d (ctl R.HAL_CORE_STATUS die core) F.HAL_CORE_STATUS_RETIRED

/-- A die's Town Hall is retired: all of its cores are. -/
def hallRetired (d : Dev) (die : Nat) : Bool := [0, 1, 2, 3].all fun c => coreRetired d die c

/-- The die to which a path's HAL_COORD copy routes class 0x20 (R411). -/
def coordCopy (d : Dev) (p : Path) : Nat := fget d (ctl R.HAL_COORD p.die 4) F.HAL_COORD_DIE

/-- Unit classes decoded on a die, with the number of their instances (R327); class 0x20 is judged by R411. -/
def classInsts (die cls : Nat) : Nat :=
  let compute := decide (die < 48)
  let stack := decide (48 ≤ die ∧ die < 56)
  let only (c : Bool) (n : Nat) : Nat := if c then n else 0
  if cls = 0x00 then 1
  else if 0x01 ≤ cls ∧ cls ≤ 0x06 ∨ cls = 0x0C then only compute 24
  else if cls = 0x07 then (if compute then 4 else if stack then 2 else 1)
  else if cls = 0x08 then (if compute then 16 else if stack then 0 else 32)
  else if cls = 0x09 then only compute 64
  else if cls = 0x0A then (if compute then 5 else 1)
  else if cls = 0x0B then (if die = 0 then 6 else only compute 5)
  else if cls = 0x10 then only stack 1
  else if cls = 0x18 then only (!compute && !stack) 10
  else if cls = 0x19 then only (!compute && !stack) 1
  else if cls = 0x3E ∨ cls = 0x3F then only (die == 0) 1
  else 0

/-- An access is decoded (R327, R411). -/
def decoded (d : Dev) (p : Path) (a : Nat) : Bool :=
  if ctlClass a = 0x20 then
    ctlDie a == coordCopy d p && ctlDie a == d.coord && !hallRetired d (ctlDie a) && ctlInst a == 0
  else ctlInst a < classInsts (ctlDie a) (ctlClass a)

/-- A register of a send buffer. -/
def isSendBuffer (a : Nat) : Bool := ctlClass a == 0x0B && 0x100 ≤ ctlOff a && ctlOff a < 0x300

/-- A path may make an access (R328). -/
def granted (d : Dev) (p : Path) (write : Bool) (a : Nat) : Bool :=
  let cls := ctlClass a
  let asSupervisor : Bool :=
    !write || !(cls == 0x0A || cls == 0x3E || cls == 0x3F || ctlPlace a == R.HAL_CORE_CTRL && ctlInst a < 4)
  match p with
  | .core _ _ .machine => true
  | .core _ _ .supervisor => asSupervisor
  | .core die c .user => isSendBuffer a && ctlDie a == die.val && ctlInst a == c.val
  | .i3c =>
    if write then
      ctlDie a == 0 && ctlInst a == 5 && isSendBuffer a
        || ctlDie a == 0 && ctlInst a == 63 && (ctlPlace a == R.MBX_STATUS || ctlPlace a == R.MBX_DRAIN)
        || isSelector (ctlPlace a)
    else cls != 0x3F
  | .jtag => flag d (ctl R.TRU_STATUS 0 0) F.TRU_STATUS_DEBUG
  | .peer fa => flag d (ctl R.HAL_REMOTE 0 4) F.HAL_REMOTE_CTL_EN && d.roster.contains fa.val && asSupervisor

/-- The first ground on which an access is refused, in the order of R330; the target's own refusal is not among these. -/
def refusal (d : Dev) (c : CtlAccess) (write : Bool) : Option Reason :=
  let a := c.addr.toNat
  if c.width ≠ 4 ∨ a % 4 ≠ 0 then some .width
  else if !granted d c.path write a then some .priv
  else if !decoded d c.path a then some .notDecoded
  else none

/-- Records a refused access on the requester's die (R330, R326): the first since VALID was cleared is kept, and every
one is counted. A core receives its access fault. -/
def refuse (d : Dev) (p : Path) (write : Bool) (addr : Nat) (r : Reason) : Dev :=
  let st := ctl R.HAL_ACC_STATUS p.die 4
  let d := fcnt d st F.HAL_ACC_STATUS_COUNT 1
  let d :=
    if flag d st F.HAL_ACC_STATUS_VALID then d
    else
      let d := fsets d st [(F.HAL_ACC_STATUS_VALID, 1), (F.HAL_ACC_STATUS_REASON, r.code),
        (F.HAL_ACC_STATUS_PATH, p.code), (F.HAL_ACC_STATUS_WRITE, b2n write)]
      irqAll (wr d (ctl R.HAL_ACC_ADDR p.die 4) (BitVec.ofNat 32 addr)) p.die 6
  match p with
  | .core die c _ => emit d .coreFault [die, c, if write then 7 else 5, addr]
  | _ => d

/-- The value of a register after a write, by the access codes of its fields (R9). -/
def writeByCodes (r : RegRow) (old v : Nat) : Nat :=
  r.fields.foldl (fun x f =>
    let n := bits v f.fld.lo f.fld.width
    let o := bits x f.fld.lo f.fld.width
    match f.acc with
    | .rw => setBits x f.fld.lo f.fld.width n
    | .w1c => setBits x f.fld.lo f.fld.width (o - (o &&& n))
    | .w1s => setBits x f.fld.lo f.fld.width (o ||| n)
    | _ => x) old

/-- The value of a register after a read: RC fields clear (R9). A cleared field holds its reset value: 0, and for a field
that keeps a least value since the last read (CLK_DST_MARGIN.MIN_PS, PWR_RAIL_CORE.MIN_MV) the largest one, at which no value
has been met (DESIGN CHOICE, log entry 94). -/
def readClears (r : RegRow) (old : Nat) : Nat :=
  r.fields.foldl (fun x f => if f.acc = .rc then setBits x f.fld.lo f.fld.width f.reset else x) old

/-! ## Apply groups (R334, R335) -/

/-- The shadow of a register, or its active value where none was written since the group applied. -/
def shadowOf (d : Dev) (a : Nat) : Word := (mget d.shadow a).getD (rd d a)

/-- A write to a register of an apply group lands in its shadow. -/
def writeShadow (d : Dev) (a : Nat) (v : Word) : Dev := { d with shadow := mset d.shadow a v }

/-- The group's registers take their shadows (R334). -/
def applyShadows (d : Dev) (addrs : List Nat) : Dev :=
  addrs.foldl (fun d a =>
    match mget d.shadow a with
    | some v => { wr d a v with shadow := mdel d.shadow a }
    | none => d) d

/-- A register of the group holds a shadow that has not been applied: the group's PEND. -/
def pend (d : Dev) (addrs : List Nat) : Bool := addrs.any fun a => (mget d.shadow a).isSome

/-- No step runs: a step boundary (R334). -/
def atBoundary (d : Dev) : Bool := !d.step.running

end Sys2Proof.Machine
end

