-- ==== Sys2Proof/Machine/Program.lean ====
section
/-! DEFINITION. Machine/Program: reading a block program: the step program header and unit headers (R159, R160), tile
descriptors (R73), chain programs (R89 to R91, R106), pump descriptors (R131 to R136), bundles (R167 to R172), and the
decode errors that each names (R175). A reader answers `none` where the spec calls a decode error. -/

namespace Sys2Proof.Machine

/-- `some x` where the check holds. -/
def need {α : Type} (c : Bool) (x : Option α) : Option α := if c then x else none

/-- Little-endian field of `n` bytes at byte `a` of a list. -/
def byteField (bs : List Byte) (a n : Nat) : Nat := ofLeBytes ((bs.drop a).take n)

/-- The step program header (R159) from its first 64 bytes. A SLIP setting of 0b11 acts as 0b10. -/
def parseStepHdr (bs : List Byte) : StepHdr :=
  let b4 := byteField bs 4 1
  { lockstep := !bit b4 0, strict := bit b4 1, nanHalt := bit b4 2, zeroFill := bit b4 3,
    slip := min (bits b4 4 2) 2, startGate := byteField bs 5 1, units := byteField bs 6 2,
    watchdogUs := byteField bs 8 4, cisBanks := byteField bs 12 4, wellBanks := byteField bs 16 4,
    programId := byteField bs 20 8 }

/-- A unit header (R160) from its first 64 bytes. -/
def parseUnitHdr (bs : List Byte) : UnitHdr :=
  { home := byteField bs 0 2, index := byteField bs 2 1, bundles := byteField bs 4 2, tiles := byteField bs 6 2,
    chains := byteField bs 8 2, descs := byteField bs 10 2, cisLines := byteField bs 12 4,
    wideRows := byteField bs 16 2, homeWide := byteField bs 18 2, narrowRows := byteField bs 20 2,
    entries := byteField bs 22 2, rowtab := byteField bs 24 2, codeOff := byteField bs 28 4,
    tileOff := byteField bs 32 4, chainOff := byteField bs 36 4, descOff := byteField bs 40 4 }

/-! ## Bundles (R167 to R172) -/

/-- The matrix slot: `some none` where no operation is named, `none` on a decode error. A disabled slot is all zero. -/
def parseMatrix (x : Nat) : Option (Option MatrixSlot) :=
  match bits x 0 2 with
  | 0 => need (x == 0) (some none)
  | 1 => some (some
      { tile := bits x 2 10, treg := bits x 12 3, vcount := bits x 15 8 + 1, areg := bits x 23 3,
        actOff := bits x 26 10, actStride := bits x 36 12, actGen := bits x 48 3, rreg := bits x 51 3,
        rowOff := bits x 54 6, entry := bits x 60 10, klen := bits x 70 8 + 1, tail := bits x 78 8,
        first := bit x 86, sealing := bit x 87, tag := bits x 88 16 })
  | _ => none

/-- The vector slot. -/
def parseVector (x : Nat) : Option (Option VectorSlot) :=
  if bit x 0 then
    need (bits x 33 3 == 0)
      (some (some { chain := bits x 1 8, iter := bits x 9 12 + 1, genOffset := bits x 21 3, rreg := bits x 24 3,
                    rowOff := bits x 27 6 }))
  else need (x == 0) (some none)

/-- A pump slot. -/
def parsePump (x : Nat) : Option (Option PumpSlot) :=
  if bit x 0 then some (some { desc := bits x 1 12, genOffset := bits x 13 3 }) else need (x == 0) (some none)

/-- The control slot (R172): operand bits that a COP does not name must be 0; a GSIG names a die that holds gates, and a
gate of that die (R175). -/
def parseControl (x : Nat) : Option Cop :=
  let o := x >>> 6
  let z (n : Nat) : Bool := o >>> n == 0
  match bits x 0 6 with
  | 0x00 => need (z 0) (some .nop)
  | 0x01 => need (z 0) (some .end_)
  | 0x02 => need (z 26) (some (.loop (bits o 0 16 + 1) (bits o 16 10 + 1)))
  | 0x03 =>
    let gate := bits o 0 9
    let die := bits o 9 6
    need (z 23 && !(48 ≤ die && die < 56) && !(die < 48 && 256 ≤ gate))
      (some (.gsig gate die (bits o 15 4 + 1) (bit o 19) (bits o 20 3)))
  | 0x04 => need (z 8) (some (.gwait (bits o 0 8)))
  | 0x05 => need (z 25) (some (.gset (bits o 0 8) (bits o 8 16) (bit o 24)))
  | 0x06 => need (z 5) (some (.fence (bits o 0 5)))
  | 0x08 => need (z 12) (some (.eclr (bits o 0 6) (bits o 6 6 + 1)))
  | 0x09 => need (z 24) (some (.edepb (bits o 0 12) (bits o 12 6 + 1) (bits o 18 6)))
  | 0x0A =>
    let qtr := bits o 11 2
    let qcnt := bits o 13 2 + 1
    need (z 21 && qtr + qcnt ≤ 4) (some (.edepw (bits o 0 3) (bits o 3 5) (bits o 8 3) qtr qcnt (bits o 15 6)))
  | 0x0B =>
    need (z 26 && bits o 11 3 != 7)
      (some (.edeps (bits o 0 3) (bits o 3 5) (bits o 8 3) (bits o 11 3) (bits o 14 6) (bits o 20 6 + 1)))
  | 0x0C =>
    need (z 26 && bits o 11 3 != 7)
      (some (.edept (bits o 0 3) (bits o 3 5) (bits o 8 3) (bits o 11 3) (bits o 14 6) (bits o 20 6 + 1)))
  | 0x0D =>
    let qtr := bits o 11 2
    let count := bits o 19 6 + 1
    need (z 25 && qtr * 64 + count ≤ 256)
      (some (.ernd (bits o 0 3) (bits o 3 5) (bits o 8 3) qtr (bits o 13 6) count))
  | 0x0E => need (z 23) (some (.ests (bits o 0 3) (bits o 3 5) (bits o 8 3) (bits o 11 6) (bits o 17 6 + 1)))
  | 0x0F => need (z 23) (some (.estt (bits o 0 3) (bits o 3 5) (bits o 8 3) (bits o 11 6) (bits o 17 6 + 1)))
  | _ => none

/-- The address slot (R170). -/
def parseAddress (x : Nat) : Option (Option Aop) :=
  let reg := bits x 3 3
  let imm := bits x 6 24
  need (bits x 30 2 == 0)
    (match bits x 0 3 with
     | 0 => need (x == 0) (some none)
     | 1 => need (reg != 0) (some (some (.set reg imm)))
     | 2 => need (reg != 0) (some (some (.add reg imm)))
     | 3 => need (reg != 0) (some (some (.sethi reg imm)))
     | 4 => need (reg != 0) (some (some (.mov reg imm)))
     | _ => none)

/-- A bundle from its 256 bits (R167); `none` on a decode error of the bundle itself (R175). -/
def parseBundle (x : Nat) : Option Bundle :=
  need (bits x 252 4 == 0) <|
    match parseMatrix (bits x 0 104), parseVector (bits x 104 36), parsePump (bits x 140 16),
        parsePump (bits x 156 16), parseControl (bits x 172 32), parseAddress (bits x 204 32) with
    | some m, some v, some pa, some pb, some c, some a =>
      some { matrix := m, vector := v, pumpA := pa, pumpB := pb, control := c, address := a,
             delta := bits x 236 16 }
    | _, _, _, _, _, _ => none

/-- The result of an address operation on the registers (R170); A0 always reads 0. -/
def applyAop (regs : List Nat) : Aop → List Nat
  | .set r imm => regs.set r imm
  | .add r imm => regs.set r (unsigned 32 (Int.ofNat (regs.getD r 0) + signed 24 imm))
  | .sethi r imm => regs.set r (setBits (regs.getD r 0) 24 8 imm)
  | .mov r imm => regs.set r (unsigned 32 (Int.ofNat (regs.getD (bits imm 0 3) 0) + signed 21 (bits imm 3 21)))

/-- An address register. -/
def areg (regs : List Nat) (r : Nat) : Nat := regs.getD r 0

/-! ## Tile descriptors (R73) -/

/-- The k depth of a tile format (R67). -/
def tileDepth : Fmt → Nat
  | .lns16 => 128
  | .lns8 => 256
  | _ => 64

/-- The width of an INTn code of a STORE field. -/
def codeWidth (store : Nat) : Nat := 5 - store

/-- A tile descriptor from its 256 bits; `none` on a decode error of R73 or R80. FORMAT_MISMATCH is another fault
(R36). -/
def parseTile (x : Nat) : Option TileDesc :=
  let tfmt := bits x 0 4
  let store := bits x 4 4
  let scale := bit x 8
  let cb := bits x 9 2
  let fromWell := bit x 17
  let column := bit x 18
  let alt := bit x 19
  let gen := bits x 20 3
  let afmt := bits x 23 2
  let img1 := bits x 128 32
  let exp1 := bits x 160 32
  need (tfmt ≤ 3 && store ≤ 3 && bits x 25 7 == 0 && bits x 48 16 == 0 && bits x 192 64 == 0
      && (store != 0 || !scale) && (cb == 0 || (store != 0 && !scale)) && (fromWell || gen == 0)
      && (alt || (img1 == 0 && exp1 == 0)) && !(store != 0 && fromWell) && (store == 0 || tfmt == afmt)
      && (!column || (tfmt ≤ 1 && store == 0)))
    (some { tfmt := arrayFmt tfmt, store, scale, cbFmt := arrayFmt cb, expLoad := bit x 11, expSlot := bits x 12 5,
            fromWell, column, epochAlt := alt, gen, afmt := arrayFmt afmt, tenant := bits x 32 16,
            img0 := bits x 64 32, exp0 := bits x 96 32, img1, exp1 })

/-- A pairing of weight storage and activation format that R36 lets pass in the program's mode. -/
def pairingOk (strict : Bool) (t : TileDesc) : Bool :=
  if t.store = 0 then t.tfmt == t.afmt
  else if t.scale then !strict || t.afmt == .bf16
  else !strict || t.cbFmt == t.afmt

/-- The bytes of a tile image (R74). -/
def imageBytes (t : TileDesc) : Nat :=
  if t.store = 0 then 64 * tileDepth t.tfmt * t.tfmt.bytes else 64 * tileDepth t.tfmt * codeWidth t.store / 8

/-- The size of one expansion record (R75). -/
def recordSize (t : TileDesc) : Nat := if t.scale then 4 else if t.cbFmt = .lns8 then 16 else 32

/-- Groups of a column (R75). -/
def groupsPerColumn (t : TileDesc) : Nat := if t.tfmt = .lns8 then 2 else 1

/-- The lines of the expansion records (R75, R77). A plain tile with EXP_LOAD = 1 reads them too, for tiles that use the
slot after it; its record size is that of its CB_FMT, which must be 0. -/
def expLineCount (t : TileDesc) : Nat :=
  if t.expLoad then (64 * groupsPerColumn t * recordSize t + 1023) / 1024 else 0

/-- The lines or rows of the image. -/
def imageLines (t : TileDesc) : Nat := (imageBytes t + 1023) / 1024

/-- The load time of a tile in cycles (R77). -/
def loadCycles (t : TileDesc) : Nat := imageLines t + expLineCount t

/-! ## Chain programs (R89 to R93, R106) -/

/-- The stream kind of a code (R90). -/
def streamKind : Nat → Option StreamKind
  | 1 => some .wide | 2 => some .basin | 3 => some .lookup | 4 => some .eaf | 5 => some .narrow | _ => none

/-- The lane mode of a code (R93). -/
def laneMode : Nat → LaneMode
  | 0 => .contig | 1 => .repeat64 | 2 => .quarter | _ => .scalar

/-- Elements of one position (R93). -/
def LaneMode.elements : LaneMode → Nat
  | .contig => 256 | .repeat64 => 64 | .quarter => 4 | .scalar => 1

/-- A kind, format and lane mode that R93 allows in a direction. -/
def streamOk (out : Bool) (k : StreamKind) (f : Fmt) (l : LaneMode) : Bool :=
  match k with
  | .wide => !(out && l == .repeat64)
  | .basin => !out && f == .fp32 && l == .contig
  | .lookup => !out && l == .contig
  | .eaf => !out && f == .fp32 && l != .contig
  | .narrow => out && (l == .quarter || l == .scalar)

/-- A stream descriptor whose SVALID bit is 1 (R90). -/
def parseStream (out : Bool) (x : Nat) : Option Stream :=
  match streamKind (bits x 0 3), fmtOfCode (bits x 3 3) with
  | some k, some f =>
    let l := laneMode (bits x 6 2)
    need (streamOk out k f l && !bit x 19 && bits x 60 4 == 0 && (out || !bit x 11)
        && (k == .lookup || bits x 15 4 == 0))
      (some { kind := k, fmt := f, lane := l, gen := bits x 8 3, fill := bit x 11, base := bits x 12 3,
              index := bits x 15 4, offset := bits x 20 24, stride := signed 16 (bits x 44 16) })
  | _, _ => none

/-- Which of A, B, C an operation reads as values, which as predicates, and what kind of destination it writes. -/
structure OpShape where
  vals : List Nat      -- operand places 0 (A), 1 (B), 2 (C) read as values
  preds : List Nat     -- operand places read as predicates
  dest : Nat           -- 0 a temporary or output, 1 a predicate, 2 none
deriving DecidableEq, Repr

/-- The operations of R98 and the operands each uses. -/
def opShape (opc : Nat) : Option OpShape :=
  let v (n : Nat) : Option OpShape := some { vals := List.range n, preds := [], dest := 0 }
  if (0x01 ≤ opc ∧ opc ≤ 0x03) ∨ opc = 0x06 ∨ opc = 0x07 ∨ opc = 0x10 ∨ opc = 0x26 ∨ opc = 0x27
      ∨ (0x30 ≤ opc ∧ opc ≤ 0x33) ∨ (0x35 ≤ opc ∧ opc ≤ 0x3D) then v 2
  else if opc = 0x04 ∨ opc = 0x05 ∨ opc = 0x34 then v 3
  else if opc = 0x08 ∨ opc = 0x09 ∨ opc = 0x0A ∨ (0x11 ≤ opc ∧ opc ≤ 0x1C) ∨ (0x20 ≤ opc ∧ opc ≤ 0x25)
      ∨ (0x60 ≤ opc ∧ opc ≤ 0x64) then v 1
  else if 0x40 ≤ opc ∧ opc ≤ 0x45 then some { vals := [0, 1], preds := [], dest := 1 }
  else if opc = 0x46 ∨ opc = 0x47 then some { vals := [], preds := [0, 1], dest := 1 }
  else if opc = 0x48 then some { vals := [], preds := [0], dest := 1 }
  else if opc = 0x50 then some { vals := [0, 1], preds := [2], dest := 0 }
  else if opc = 0x70 ∨ opc = 0x71 then some { vals := [0], preds := [], dest := 2 }
  else none

/-- The vector-engine cycles of an operation (R98). -/
def opCycles (opc : Nat) : Nat :=
  if opc = 0x10 ∨ opc = 0x11 ∨ opc = 0x12 ∨ opc = 0x13 ∨ opc = 0x18 ∨ opc = 0x19 then 4
  else if (0x14 ≤ opc ∧ opc ≤ 0x17) ∨ (0x60 ≤ opc ∧ opc ≤ 0x64) then 2
  else if 0x1A ≤ opc ∧ opc ≤ 0x1C then 8
  else 1

/-- An operation that deposits (R101). -/
def isDeposit (opc : Nat) : Bool := opc == 0x70 || opc == 0x71

/-- The selector of an operand place. -/
def ChainOp.sel (o : ChainOp) (place : Nat) : Nat := if place = 0 then o.a else if place = 1 then o.b else o.c

/-- An operation word (R91) from its 64 bits. -/
def parseOp (x : Nat) : ChainOp :=
  { opc := bits x 0 8, dst := bits x 8 5, a := bits x 13 5, b := bits x 18 5, c := bits x 23 5,
    pred := bits x 28 2, pneg := bit x 30, imm := bits x 32 32 }

/-- The checks of R106 on one operation word, given which streams are defined. -/
def opOk (svalid : Nat) (x : Nat) : Bool :=
  let o := parseOp x
  match opShape o.opc with
  | none => false
  | some sh =>
    let usesImm := sh.vals.any fun p => o.sel p == 20
    !bit x 31
      && ([0, 1, 2].all fun p =>
        let s := o.sel p
        if sh.vals.contains p then
          s ≤ 15 || (16 ≤ s && s ≤ 19 && bit svalid (s - 16)) || (20 ≤ s && s ≤ 22)
        else if sh.preds.contains p then 24 ≤ s && s ≤ 27
        else s == 0)
      && (usesImm || o.imm == 0)
      && (match sh.dest with
          | 0 => o.dst ≤ 15 || (o.dst == 16 && bit svalid 4) || (o.dst == 17 && bit svalid 5)
          | 1 => 25 ≤ o.dst && o.dst ≤ 27
          | _ => o.dst == 0)
      && !(o.pred == 0 && o.pneg)

/-- A chain program from its bytes (R89); `none` on a decode error of R106. -/
def parseChain (bs : List Byte) : Option Chain :=
  let h := byteField bs 0 16
  let nops := bits h 0 5 + 1
  let svalid := bits h 5 6
  let desc (i : Nat) : Nat := byteField bs (16 + 8 * i) 8
  let words := groupLe 8 nops (bs.drop 64)
  let streams : List (Option (Option Stream)) := (List.range 6).map fun i =>
    if bit svalid i then (parseStream (4 ≤ i) (desc i)).map some else need (desc i == 0) (some none)
  let ops := words.map parseOp
  let outputs := (ops.filter fun o => (opShape o.opc).any fun s => s.dest == 0).map ChainOp.dst
  let hasEaf := streams.any fun s => match s with
    | some (some st) => st.kind == .eaf
    | _ => false
  need (!bit h 11 && h >>> 52 == 0 && bs.length ≥ 64 + 8 * nops && streams.all Option.isSome
      && words.all (opOk svalid)
      && (outputs.filter (· == 16)).length ≤ 1 && (outputs.filter (· == 17)).length ≤ 1
      && !(hasEaf && ops.any fun o => isDeposit o.opc))
    (some { streams := streams.map fun s => s.getD none, qstep := bits h 12 12, tstep := bits h 24 12,
            tag := bits h 36 16, ops })

/-! ## Pump descriptors (R131 to R136) -/

/-- The operation of a code. -/
def pumpOp : Nat → Option PumpOp
  | 0 => some .copy | 1 => some .gather | 2 => some .scatter | 3 => some .unskew16 | 4 => some .skew16 | _ => none

/-- The element format of a pump code (R134). -/
def pumpFmt (n : Nat) : Option Fmt :=
  [Fmt.fp32, .bf16, .fp16, .lns16, .lns8, .raw8, .raw16, .raw32][n]?

/-- An endpoint (R132) with a base register's value added; `none` is a decode error, `some none` a sum that does not fit
its field (segment fault). -/
def parseEndpoint (x base : Nat) : Option (Option Endpoint) :=
  let fit (width v : Nat) (e : Nat → Endpoint) : Option (Option Endpoint) :=
    some (if v + base < pow2 width then some (e (v + base)) else none)
  match bits x 0 4 with
  | 0 => need (x >>> 27 == 0) (fit 23 (bits x 4 23) .ownWell)
  | 1 =>
    need (x >>> 38 == 0 && bits x 27 5 < 24 && bits x 32 6 < 48)
      (fit 23 (bits x 4 23) (.package (bits x 32 6) (bits x 27 5)))
  | 2 => need (x >>> 31 == 0) (fit 27 (bits x 4 27) .cistern)
  | 3 => need (x >>> 44 == 0) (fit 40 (bits x 4 40) .reservoir)
  | 4 => fit 32 (bits x 4 32) (.window (bits x 48 16) (bits x 36 12))
  | 5 => need (x >>> 48 == 0) (fit 32 (bits x 16 32) (.fountain (bits x 4 3) (bits x 7 9)))
  | _ => none

/-- The endpoint lies in a well. -/
def Endpoint.isWell : Endpoint → Bool
  | .ownWell _ | .package .. => true
  | _ => false

/-- The endpoint is a cistern. -/
def Endpoint.isCistern : Endpoint → Bool
  | .cistern _ => true
  | _ => false

/-- The endpoint goes to the sluice (R132). -/
def Endpoint.isSluice : Endpoint → Bool
  | .reservoir _ | .window .. | .fountain .. => true
  | _ => false

/-- The endpoint is a fountain. -/
def Endpoint.isFountain : Endpoint → Bool
  | .fountain .. => true
  | _ => false

/-- The conversion of a descriptor is one that R134 allows. -/
def pumpCvtOk (s d : Fmt) (off : Int) : Bool :=
  (s == d || (s.converts && d.converts)) && (off == 0 || (s.isLns && d.converts && !d.isLns))

/-- What reading a pump descriptor gives. -/
inductive DescRes where
  | ok (d : PumpDesc)
  | decode
  | segment
deriving DecidableEq, Repr

/-- A gate that a descriptor or a GSIG may name (R131, R175). -/
def gateNameOk (die gate : Nat) : Bool := !(48 ≤ die && die < 56) && !(die < 48 && 256 ≤ gate)

/-- TAG of a pump descriptor's 512 bits (R131). -/
def descTag (x : Nat) : Nat := bits x 448 16

/-- A pump descriptor from its 512 bits, with the address registers to add; `ring` where the descriptor comes from a
ring (R129): base registers are then ignored. -/
def parseDesc (ring : Bool) (regs : List Nat) (x : Nat) : DescRes :=
  let w (i : Nat) : Nat := bits x (64 * i) 64
  let w0 := w 0
  let base (en r : Nat) : Nat := if bit w0 en && !ring then areg regs (bits w0 r 3) else 0
  match pumpOp (bits w0 0 4), pumpFmt (bits w0 4 4), pumpFmt (bits w0 8 4),
      parseEndpoint (w 1) (base 35 32), parseEndpoint (w 2) (base 39 36) with
  | some op, some sf, some df, some se, some de =>
    let off := signed 20 (bits w0 12 20)
    let len := bits (w 4) 0 12 + 1
    let rows := bits (w 4) 12 12 + 1
    let ss := signed 32 (bits (w 3) 0 32)
    let ds := signed 32 (bits (w 3) 32 32)
    let gateEn := bit (w 5) 32
    let reserved := w0 >>> 50 == 0 && w 4 >>> 40 == 0 && bits (w 5) 15 1 == 0 && w 5 >>> 34 == 0
      && w 6 >>> 27 == 0 && w 7 >>> 16 == 0
    match se, de with
    | some s, some e =>
      let skew := op == .unskew16 || op == .skew16
      let cis := s.isCistern || e.isCistern
      let addrOk : Endpoint → Bool := fun p => match p with
        | .cistern a => a % 1024 == 0
        | _ => true
      let zt16 := if op == .unskew16 then ss else ds
      let zw := if op == .unskew16 then sf.bytes else df.bytes
      if reserved && pumpCvtOk sf df off && (!gateEn || gateNameOk (bits (w 5) 9 6) (bits (w 5) 0 9))
          && !s.isFountain && (ring || !cis)
          && !(ds == 0 && rows > 1 && (op == .copy || op == .gather))
          -- of a cistern endpoint, its address and its stride (R133; DEDUCED, log entry 106)
          && (!cis || (!sf.converts && sf == df && len * sf.bytes % 1024 == 0 && addrOk s && addrOk e
                && (!s.isCistern || ss % 1024 == 0) && (!e.isCistern || ds % 1024 == 0)))
          && (!skew || (len == 64 && s.isWell && e.isWell && zt16 ≥ Int.ofNat (64 * zw)))
          && !(bit w0 43 && !s.isWell) && !(bit w0 47 && !e.isWell) then
        .ok { op, sfmt := sf, dfmt := df, logOff := off,
              sbase := if bit w0 35 then some (bits w0 32 3) else none,
              dbase := if bit w0 39 then some (bits w0 36 3) else none,
              sgen := bits w0 40 3, scheck := bit w0 43, dgen := bits w0 44 3, dmark := bit w0 47,
              vc := bits w0 48 2 + 1, src := s, dst := e, sstride := ss, dstride := ds, len, rows,
              wgen := bits (w 4) 24 16, gate := bits (w 5) 0 9, gateDie := bits (w 5) 9 6,
              gateFa := bits (w 5) 16 16, gateEn, gateRemote := bit (w 5) 33, idxAddr := bits (w 6) 0 23,
              idxGen := bits (w 6) 23 3, idxCheck := bit (w 6) 26, tag := descTag x }
      else .decode
    | _, _ => .segment
  | _, _, _, _, _ => .decode

/-! ## The program store (R160, R161) -/

/-- The unit header of a unit slot, read from the program store at its base. -/
def unitHdrAt (d : Dev) (die b : Nat) (base : UnitBase) : UnitHdr :=
  parseUnitHdr (memRead d.epoch (unitPs (gblock die b)) (blk d die b).ps base.ps 64)

/-- `n` bytes of a unit's image from an offset on, as a number. -/
def imageNat (d : Dev) (die b : Nat) (base : UnitBase) (off n : Nat) : Nat :=
  memNat d.epoch (unitPs (gblock die b)) (blk d die b).ps (base.ps + off) n

/-- `n` bytes of a unit's image from an offset on. -/
def imageBytesAt (d : Dev) (die b : Nat) (base : UnitBase) (off n : Nat) : List Byte :=
  memRead d.epoch (unitPs (gblock die b)) (blk d die b).ps (base.ps + off) n

/-- The bases of a unit slot from its registers (R163). -/
def unitBase (d : Dev) (die b slot : Nat) : UnitBase :=
  let f (p : Nat) (fl : Fld) : Nat := fget d (ctl (p + 0x20 * slot) die b) fl
  { ps := f R.SEQ_US_PS F.SEQ_US_PS_BASE / 64 * 64, cis := f R.SEQ_US_CIS F.SEQ_US_CIS_BASE,
    wide := f R.SEQ_US_WIDE F.SEQ_US_WIDE_BASE, narrow := f R.SEQ_US_NARROW F.SEQ_US_NARROW_BASE,
    entry := f R.SEQ_US_ENTRY F.SEQ_US_ENTRY_BASE }

/-- A unit slot runs in each step. -/
def slotValid (d : Dev) (die b slot : Nat) : Bool :=
  flag d (ctl (R.SEQ_US_CTRL + 0x20 * slot) die b) F.SEQ_US_CTRL_VALID

/-- The unit a block runs: its slot, bases and header. -/
structure UnitCtx where
  slot : Nat
  base : UnitBase
  hdr : UnitHdr
deriving DecidableEq, Repr

/-- The context of a unit slot. -/
def unitCtx (d : Dev) (die b slot : Nat) : UnitCtx :=
  let base := unitBase d die b slot
  { slot, base, hdr := unitHdrAt d die b base }

/-- The bundle at an index of a unit; `none` where it is past the code section or decodes to no bundle. -/
def bundleAt (d : Dev) (die b : Nat) (u : UnitCtx) (pc : Nat) : Option Bundle :=
  need (pc < u.hdr.bundles) (parseBundle (imageNat d die b u.base (u.hdr.codeOff + 32 * pc) 32))

/-- DELTA of the bundle at an index, whether or not the bundle decodes; 0 past the code section. -/
def bundleDelta (d : Dev) (die b : Nat) (u : UnitCtx) (pc : Nat) : Nat :=
  if pc < u.hdr.bundles then bits (imageNat d die b u.base (u.hdr.codeOff + 32 * pc) 32) 236 16 else 0

/-- The tile descriptor at an index: `none` where the index or the descriptor is a decode error. -/
def tileAt (d : Dev) (die b : Nat) (u : UnitCtx) (i : Nat) : Option TileDesc :=
  need (i < u.hdr.tiles) (parseTile (imageNat d die b u.base (u.hdr.tileOff + 32 * i) 32))

/-- The chain at an index. -/
def chainAt (d : Dev) (die b : Nat) (u : UnitCtx) (i : Nat) : Option Chain :=
  let off := imageNat d die b u.base (u.hdr.chainOff + 4 * i) 4
  need (i < u.hdr.chains) (parseChain (imageBytesAt d die b u.base (u.hdr.chainOff + off) 320))

/-- The TAG of the chain program at an index as its header stands, well-formed or not (R89); 0 where the unit has no such
chain. -/
def chainTag (d : Dev) (die b : Nat) (u : UnitCtx) (i : Nat) : Nat :=
  let off := imageNat d die b u.base (u.hdr.chainOff + 4 * i) 4
  if i < u.hdr.chains then bits (imageNat d die b u.base (u.hdr.chainOff + off) 8) 36 16 else 0

/-- The pump descriptor at an index, with the address registers. -/
def descAt (d : Dev) (die b : Nat) (u : UnitCtx) (regs : List Nat) (i : Nat) : DescRes :=
  if i < u.hdr.descs then parseDesc false regs (imageNat d die b u.base (u.hdr.descOff + 64 * i) 64) else .decode

/-- A bundle address: bundle index [13:0] and unit slot [23:22] (R175). -/
abbrev bundleAddr (slot pc : Nat) : Nat := slot * pow2 22 + pc % pow2 14

/-! ## Control flow (R172, R174) -/

/-- Control after a bundle of the body has issued: at the end of a loop's body it goes back while passes are left. -/
def closeLoops : List LoopFrame → Nat → Nat × List LoopFrame
  | [], pc => (pc, [])
  | f :: fs, pc =>
    if pc = f.start + f.len then
      if f.left > 1 then (f.start, { f with left := f.left - 1 } :: fs) else closeLoops fs pc
    else (pc, f :: fs)

/-- The position after a bundle (R174): a LOOP opens a loop on the bundles that follow; the address slot has acted.
`none` after END. -/
def advance (p : SeqPos) (bu : Bundle) : Option SeqPos :=
  let regs := match bu.address with
    | some a => applyAop p.regs a
    | none => p.regs
  match bu.control with
  | .end_ => none
  | .loop count len =>
    some { pc := p.pc + 1, loops := { start := p.pc + 1, len, left := count } :: p.loops, regs }
  | _ =>
    let r := closeLoops p.loops (p.pc + 1)
    some { pc := r.1, loops := r.2, regs }

/-- A LOOP that R175 calls a decode error: a fifth level, a body past the last bundle or beyond its enclosing body. -/
def loopBad (u : UnitCtx) (p : SeqPos) (len : Nat) : Bool :=
  4 ≤ p.loops.length || u.hdr.bundles < p.pc + 1 + len
    || (p.loops.head?.map fun f => decide (f.start + f.len < p.pc + 1 + len)).getD false

/-- The next pass at or after a position (R76): the sequencer finds it by following control flow and the address slots.
The fuel bounds the search. -/
def findPass (d : Dev) (die b : Nat) (u : UnitCtx) : Nat → SeqPos → Option (SeqPos × MatrixSlot)
  | 0, _ => none
  | n + 1, p =>
    match bundleAt d die b u p.pc with
    | none => none
    | some bu =>
      match bu.matrix with
      | some m => some (p, m)
      | none =>
        match advance p bu with
        | none => none
        | some q => findPass d die b u n q

end Sys2Proof.Machine
end

