-- ==== Sys2Proof/Machine/Operands.lean ====
section
/-! DEFINITION. Machine/Operands: where an operand lies and what it reads as: well rows and the order of their checks
(R115, R116, R163), fill marks (R119), basin entries (R70), the row table and the row mask (R302), the home map (R164). -/

namespace Sys2Proof.Machine

/-! ## Well addresses (R115) -/

/-- The first well byte address of the narrow banks. -/
def narrowBase : Nat := 0x600000

/-- The well byte address of a row. -/
def rowAddr (narrow : Bool) (row : Nat) : Nat := if narrow then narrowBase + row * 64 else row * 1024

/-- The bytes of a row. -/
def rowBytes (narrow : Bool) : Nat := if narrow then 64 else 1024

/-- The bank of a row, numbered as the power registers number it: wide 0 to 11, narrow 12 to 19. -/
def bankOf (narrow : Bool) (row : Nat) : Nat := if narrow then 12 + row / 4096 else row / 512

/-- The READY bit of a well row's bank (R124). -/
def wellReady (d : Dev) (die b : Nat) (narrow : Bool) (row : Nat) : Bool :=
  bit (rd d (ctl R.WEL_PWR_RDY die b)).toNat (bankOf narrow row)

/-- The READY bit of a cistern line's sub-bank. -/
def cisReady (d : Dev) (die b line : Nat) : Bool := bit (rd d (ctl R.CIS_PWR_RDY die b)).toNat (line / 4096)

/-- A row found, or the fault its first failing check raises. -/
inductive Loc where
  | row (r : Nat)
  | bad (c : FaultCode)
deriving DecidableEq, Repr

/-- The well row that a unit address names, checked in the order of R163: the segment, then the bank class. The row is
the row of the host's well. -/
def locate (u : UnitCtx) (wantNarrow : Bool) (addr : Nat) : Loc :=
  let narrow := decide (narrowBase ≤ addr)
  let r := if narrow then (addr - narrowBase) / 64 else addr / 1024
  let len := if narrow then u.hdr.narrowRows else u.hdr.wideRows
  let abs := r + (if narrow then u.base.narrow else u.base.wide)
  if 0x800000 ≤ addr ∨ len ≤ r ∨ (if narrow then 32768 else 6144) ≤ abs then .bad .segment
  else if narrow != wantNarrow then .bad .bankClass
  else .row abs

/-- As `locate`, of a wide row by its number: one past the last wide row lies outside every segment (R163). -/
def wideAddr (row : Nat) : Nat := if row < 6144 then row * 1024 else 0x800000

/-- As `locate`, and then the READY bit of the bank. -/
def locateReady (d : Dev) (die b : Nat) (u : UnitCtx) (wantNarrow : Bool) (addr : Nat) : Loc :=
  match locate u wantNarrow addr with
  | .row r => if wellReady d die b wantNarrow r then .row r else .bad .bankDown
  | x => x

/-- Bytes of a block's well. -/
def wellRead (d : Dev) (die b addr n : Nat) : List Byte :=
  memRead d.epoch (unitWell (gblock die b)) (blk d die b).well addr n

/-! ## Fill marks (R119, R120) -/

/-- What a fill-mark check answers. -/
inductive MarkRes where
  | ok | wait | overtaken
deriving DecidableEq, Repr

/-- The fill-mark check of a row against the generation a consumer expects (R119). -/
def markCheck (x : Block) (narrow : Bool) (row gen : Nat) : MarkRes :=
  match mget (if narrow then x.narrowMarks else x.wideMarks) row with
  | none => .wait
  | some g =>
    let dist := (g + 8 - gen % 8) % 8
    if dist = 0 then .ok else if dist ≤ 3 then .overtaken else .wait

/-- Sets the fill mark of a row. -/
def setMark (x : Block) (narrow : Bool) (row gen : Nat) : Block :=
  if narrow then { x with narrowMarks := mset x.narrowMarks row (gen % 8) }
  else { x with wideMarks := mset x.wideMarks row (gen % 8) }

/-- Clears the fill mark of a row. -/
def clearMark (x : Block) (narrow : Bool) (row : Nat) : Block :=
  if narrow then { x with narrowMarks := mdel x.narrowMarks row }
  else { x with wideMarks := mdel x.wideMarks row }

/-- The wait of a consumer on a row's mark. -/
def markWait (narrow : Bool) (row gen : Nat) : Wait :=
  { cause := .mark, on := if narrow then .narrowMark row gen else .wideMark row gen }

/-! ## Parity (R122) -/

/-- Records a parity error of a well row or basin entry: the first while VALID is clear, each counted. `reader` is the
reader code of WEL_PERR_STATUS. -/
def wellParity (d : Dev) (die b reader : Nat) (e : BadRead) : Dev :=
  let st := ctl R.WEL_PERR_STATUS die b
  let d := detect d (match e with
    | .wide r => locId die 1 (b * 20 + bankOf false r)
    | .narrow r => locId die 1 (b * 20 + bankOf true r)
    | _ => locId die 2 b)
  let d := fcnt d (ctl R.WEL_PERR_CNT die b) F.WEL_PERR_CNT_COUNT 1
  let row : Bool := match e with
    | .wide _ | .narrow _ => reader != 7
    | _ => false
  let d := if row && d.step.running then
      { d with step := { d.step with badWells := (d.step.badWells ++ [(gblock die b, e)]).eraseDups } }
    else d
  if flag d st F.WEL_PERR_STATUS_VALID then d
  else
    let (cls, bas, row) := match e with
      | .wide r => (0, 0, r)
      | .narrow r => (1, 0, r)
      | .basin r => (0, 1, r)
      | .program => (0, 0, Config.openValue d.epoch (unitPs (gblock die b)) % 32768)   -- no row is stated (log entry 4)
    let d := fsets d st [(F.WEL_PERR_STATUS_VALID, 1), (F.WEL_PERR_STATUS_CLASS, cls),
      (F.WEL_PERR_STATUS_BASIN, bas), (F.WEL_PERR_STATUS_READER, reader)]
    fset d (ctl R.WEL_PERR_ROW die b) F.WEL_PERR_ROW_ROW row

/-- The parity errors of a read, and the batch rows they affect. -/
def wellParities (d : Dev) (die b reader : Nat) (bad : List BadRead) (rows : List Nat) : Dev :=
  if bad.isEmpty then d
  else applyFx (bad.foldl (fun d e => wellParity d die b reader e) d) (.badRows rows)

/-- Parity errors of a read that affects every row of the step on the device. -/
def wellParitiesAll (d : Dev) (die b reader : Nat) (bad : List BadRead) : Dev :=
  if bad.isEmpty then d else applyFx (bad.foldl (fun d e => wellParity d die b reader e) d) .badAll

/-! ## Basins (R70) -/

/-- A basin entry by its block-wide number. -/
def basinAt (x : Block) (e : Nat) : BasinEntry := mgetD x.basins e voidEntry

/-- The 64 values of a basin entry; an indeterminate value is free (log entry 4). -/
def basinVals (d : Dev) (die b : Nat) (e : Nat) : List Nat :=
  ((basinAt (blk d die b) e).value).getD
    ((List.range 64).map fun c => Config.openValue (d.epoch + d.step.number * pow2 40) (unitBasin (gblock die b) * pow2 20 + e * 64 + c) % pow2 32)

/-- An earlier-issued pass has not completed an entry: a whole-entry read waits (R71). -/
def passPending (x : Block) (seq entry : Nat) : Bool :=
  x.passes.any fun p => p.seq < seq && p.entry + p.done ≤ entry && entry < p.entry + p.vcount
    && !(p.stopped && p.entry + p.entered ≤ entry)

/-- The entries that the iterations left of a chain's basin streams read, segment base added. -/
def chainReads (entryBase : Nat) (c : ChainRun) : List Nat :=
  if c.halted then []
  else
    (c.chain.streams.take 4).flatMap fun s =>
      match s with
      | some st =>
        if st.kind = .basin then
          (List.range (c.iters - c.next)).map fun k =>
            let t := c.next + k
            (Int.ofNat (st.offset + areg c.bases st.base + entryBase) + Int.ofNat t * st.stride).toNat
        else []
      | none => []

/-- An earlier-issued whole-entry read of an entry has not taken place: a column write is held (R71). -/
def readerPending (x : Block) (entryBase seq entry : Nat) : Bool :=
  (x.chains.any fun c => c.seq < seq && (chainReads entryBase c).contains entry)
    || x.eafQueue.any fun o => o.seq < seq &&
      match o.cop with
      | .edepb e n _ => decide (entryBase + e % 1024 ≤ entry ∧ entry < entryBase + e % 1024 + n)
      | _ => false

/-! ## The row table and the row mask (R302, R303) -/

/-- A unit's narrow segment holds the row area. -/
def hasRowArea (u : UnitCtx) : Bool := u.hdr.rowtab + 2064 ≤ u.hdr.narrowRows

/-- The narrow row of a row table entry, or the fault that the read of it meets: in a segment too short for the row area, or in
a bank that is not ready (R163). -/
def rowLoc (d : Dev) (die b : Nat) (u : UnitCtx) (row : Nat) : Loc :=
  if row < 4096 && hasRowArea u then
    locateReady d die b u true (narrowBase + (u.hdr.rowtab + 1024 * (d.step.number % 2) + row / 4) * 64)
  else .bad .segment

/-- The fault of a place, if it has one. -/
def Loc.fault : Loc → Option FaultCode
  | .row _ => none
  | .bad c => some c

/-- A row table entry as a number, or none where the read of it faults. -/
def rowEntry (d : Dev) (die b : Nat) (u : UnitCtx) (row : Nat) : Option Nat :=
  match rowLoc d die b u row with
  | .row a => some (ofLeBytes (wellRead d die b (rowAddr true a + 16 * (row % 4)) 16))
  | .bad _ => none

/-- The tenant tag of a row table entry. -/
def entryTenant (e : Nat) : Nat := bits e 16 16
/-- The epoch bit of a row table entry. -/
def entryEpoch (e : Nat) : Bool := bit e 56
/-- The slot of a row table entry. -/
def entrySlot (e : Nat) : Nat := bits e 0 16

/-- The place of one of the 8 narrow rows that hold the row mask of the running step (R303), in a segment that holds the row
area. -/
def maskLoc (d : Dev) (die b : Nat) (u : UnitCtx) (i : Nat) : Loc :=
  if hasRowArea u then locateReady d die b u true (narrowBase + (u.hdr.rowtab + 2048 + 8 * (d.step.number % 2) + i) * 64)
  else .bad .segment

/-- The fault that a read of the row mask meets. -/
def maskFault (d : Dev) (die b : Nat) (u : UnitCtx) : Option FaultCode :=
  (List.range 8).findSome? fun i => (maskLoc d die b u i).fault

/-- The 4,096 bits of the row mask of the running step, or none where a read of it faults (R303). -/
def rowMask (d : Dev) (die b : Nat) (u : UnitCtx) : Option Nat :=
  match maskFault d die b u, maskLoc d die b u 0 with
  | none, .row a => some (ofLeBytes (wellRead d die b (rowAddr true a) 512))
  | _, _ => none

/-- Rows of the running mask that a sequencer's read of it finds in error are recorded; they hold no row's entry (R122,
R303). -/
def maskParity (d : Dev) (die b : Nat) (u : UnitCtx) (bad : List BadRead) : Dev :=
  let r0 := u.base.narrow + u.hdr.rowtab + 2048 + 8 * (d.step.number % 2)
  wellParities d die b 6 (bad.filter fun e => match e with
    | .narrow r => decide (r0 ≤ r ∧ r < r0 + 8)
    | _ => false) []

/-! ## The home map (R164) -/

/-- A home map entry translates: valid, its host a block, its range inside both wells. -/
def homeValid (d : Dev) (die n : Nat) : Bool :=
  let a := ctl (R.DIE_HOME_A + 8 * n) die 0
  let b := ctl (R.DIE_HOME_B + 8 * n) die 0
  flag d a F.DIE_HOME_A_VALID && fget d b F.DIE_HOME_B_HOST < 24
    && fget d a F.DIE_HOME_A_FIRST + fget d a F.DIE_HOME_A_COUNT ≤ 6144
    && fget d b F.DIE_HOME_B_HOST_BASE + fget d a F.DIE_HOME_A_COUNT ≤ 6144

/-- The block and well byte address at which a package-well address is delivered. -/
def translateHome (d : Dev) (die home addr : Nat) : Nat × Nat :=
  let row := addr / 1024
  match (List.range 4).find? fun i =>
      let n := home * 4 + i
      let a := ctl (R.DIE_HOME_A + 8 * n) die 0
      homeValid d die n && fget d a F.DIE_HOME_A_FIRST ≤ row
        && row < fget d a F.DIE_HOME_A_FIRST + fget d a F.DIE_HOME_A_COUNT with
  | none => (home, addr)
  | some i =>
    let n := home * 4 + i
    let b := ctl (R.DIE_HOME_B + 8 * n) die 0
    (fget d b F.DIE_HOME_B_HOST,
     (fget d b F.DIE_HOME_B_HOST_BASE + row - fget d (ctl (R.DIE_HOME_A + 8 * n) die 0) F.DIE_HOME_A_FIRST) * 1024
       + addr % 1024)

/-- A block is retired: its sequencer starts no unit slot (R381). -/
def blockRetired (d : Dev) (die b : Nat) : Bool := bit (rd d (ctl R.DIE_BLOCK_RET die 0)).toNat b

/-- A block is not at home, or retired: the device runs in sluice mode (R182). -/
def lockstepBarred (d : Dev) : Bool :=
  computeDies.any fun die =>
    (rd d (ctl R.DIE_BLOCK_RET die 0)).toNat != 0 ||
      (List.range 96).any fun n =>
        homeValid d die n && fget d (ctl (R.DIE_HOME_B + 8 * n) die 0) F.DIE_HOME_B_HOST != n / 4

end Sys2Proof.Machine
end

