-- ==== Sys2Proof/Machine/Hold.lean ====
section
/-! DEFINITION. Machine/Hold: interlock stalls and the package-wide hold (R177, R183 to R186). -/

namespace Sys2Proof.Machine

/-- A step runs and no abort has been asked for. -/
def stepLive (d : Dev) : Bool :=
  d.step.running && match d.step.abort with
    | .none => true
    | _ => false

/-- Stores a sequencer. -/
def setSeq (d : Dev) (die b : Nat) (q : Sequencer) : Dev := setBlk d die b { blk d die b with seq := q }

/-- The step cycle that die control names: that of the die's first block. In sluice mode the blocks of a die count
apart and the spec names none, so the value is free (log entry 4). -/
def dieCycle (d : Dev) (die : Nat) : Nat :=
  if d.step.lockstep then (blk d die 0).seq.cycle else Config.openValue d.epoch (0x90000 + die) % pow2 32

/-- The most that a sequencer counts beyond the raiser before the raise reaches it, and so the largest lead (R184). -/
def maxLead : Nat := 24

/-- The lead of a sequencer (R184): how far its step cycle stands beyond the earliest that a raise edge carries. -/
def leadOf (c : Nat) (q : Sequencer) : Nat := min maxLead (q.cycle - c)

/-- A raise edge joins those on the hold tree: the earliest step cycle travels on (R183). The wires carry it modulo 32,
which tells leads of at most 24 apart. -/
def joinRaise (d : Dev) (c : Nat) : Dev :=
  { d with step := { d.step with holdFrom := some ((d.step.holdFrom.map (min c)).getD c) } }

/-- Raises the hold (R183): in lockstep mode a stall of an operation that a bundle issued stops the raiser's issue and
step cycle and sends a raise edge with its step cycle. A sequencer that a release has reached but that has not resumed
raises after it has (R185). A bundle that is held stops it at the intended cycle `due` (R169), which a tick of the model,
of several cycles, may have passed (log entry 96). -/
def raiseHold (d : Dev) (die b : Nat) (c : Cause) (due : Option Nat := none) : Dev :=
  let q := (blk d die b).seq
  if d.step.lockstep && stepLive d && !q.raising && q.resumeAt.isNone then
    let at_ := due.getD q.cycle
    let cycle := if at_ ≤ q.cycle ∧ q.cycle ≤ at_ + maxLead then at_ else q.cycle
    let d := setSeq d die b
      { q with raising := true, frozen := true, cycle, thawed := 0, holdCause := some c,
               heldSince := (dieSt d die).elapsed }
    joinRaise (fcnt d (ctl R.DIE_HOLD_CNT die 0) F.DIE_HOLD_CNT_RAISED 1) cycle
  else d

/-- Cycles that a refresh action holds its sub-bank (R109). -/
def actionCycles : Nat := 6

/-- A forced action runs in a sub-bank (R110). -/
def forcedIn (x : Block) (s : Nat) : Bool := (mget x.action s).any Prod.fst

/-- The sub-banks of lines in which a forced action runs: claims on those lines wait (R108, R110). -/
def forcedSubs (x : Block) (lines : List Nat) : List Nat := ((lines.map fun l => l / 4096).eraseDups).filter (forcedIn x)

/-- Claims on sub-banks wait for the forced actions there, and are counted as they do (R110). -/
def holdClaims (d : Dev) (die b : Nat) (subs : List Nat) : Dev :=
  setBlk d die b { blk d die b with claims := ((blk d die b).claims ++ subs).eraseDups }

/-- The lines of a tile load: image lines, then expansion lines, as lines of the unit's segment. -/
def loadLines (t : TileDesc) (alt : Bool) : List Nat × List Nat :=
  let img := if alt then t.img1 else t.img0
  let ex := if alt then t.exp1 else t.exp0
  ((List.range (imageLines t)).map fun i => img + i, (List.range (expLineCount t)).map fun i => ex + i)

/-- The cistern lines that a tile load reads: of a well tile, those of its expansion records alone. -/
def cisternLines (t : TileDesc) (alt : Bool) : List Nat :=
  (if t.fromWell then [] else (loadLines t alt).1) ++ (loadLines t alt).2

/-- The cistern lines of the host that the load in progress reads. -/
def loadingLines (d : Dev) (die b : Nat) : List Nat :=
  let x := blk d die b
  match x.load with
  | some l =>
    if l.ready then []
    else
      let base := (unitBase d die b x.seq.slot).cis
      (cisternLines l.desc l.alt).map fun i => i + base
  | none => []

/-- The tile loader claims the line port in every cycle (R108): a load of it is in progress, which neither awaits a repair
or a fill mark nor a forced action. The lower claimants wait. -/
def loaderClaims (d : Dev) (die b : Nat) : Bool :=
  let lines := loadingLines d die b
  !lines.isEmpty && (forcedSubs (blk d die b) lines).isEmpty
    && ((blk d die b).load.map fun l => l.repairs.isEmpty && l.wait.isNone).getD false

/-- Arbitrations lost at the ports of a block's well are counted there (R117). -/
def countLost (d : Dev) (die b : Nat) (e : WellEnv) : Dev :=
  let a := ctl R.WEL_ARB_CNT die b
  fcnt (fcnt d a F.WEL_ARB_CNT_WIDE_LOST e.lostWide) a F.WEL_ARB_CNT_NARROW_LOST e.lostNarrow

/-- Some access of a command lost an arbitration. Who loses is the port order of R117: of two accesses of one kind at one
bank in one cycle, the later in its table, one that has lost 16 times before excepted. Which accesses meet in a cycle is
timing, and the command reports it. -/
def lostPorts (e : WellEnv) : Bool := e.lostWide + e.lostNarrow != 0

/-- Arbitrations that a command's accesses lost: each is counted, and is an interlock stall (R117, R177). -/
def arbLost (d : Dev) (die b : Nat) (e : WellEnv) : Dev :=
  if lostPorts e then raiseHold (countLost d die b e) die b .bank else d

/-- Arbitrations lost by accesses of a unit that is at work: counted, an interlock stall, and cycles that the unit's stall
counter counts. -/
def unitLost (d : Dev) (die b : Nat) (busy : Block → Bool) (stall : Nat × Fld) (e : WellEnv) : Dev :=
  if busy (blk d die b) && lostPorts e then
    fcnt (arbLost d die b e) (ctl stall.1 die b) stall.2 (e.lostWide + e.lostNarrow)
  else d

/-- The counter of the quartet's waits for activations: fill marks, bank conflicts and replays (R72). -/
abbrev actWait : Nat × Fld := (R.SEQ_MQ_STALL_B, F.SEQ_MQ_STALL_B_ACT_WAIT)
/-- The counter of the vector engine's waits for its operands: fill marks, basins, conflicts and replays (R103). -/
abbrev operandWait : Nat × Fld := (R.VEC_STALL_A, F.VEC_STALL_A_OPERAND_WAIT)

/-- Lost arbitrations of the arrays' activation reads. -/
def quartetLost (d : Dev) (die b : Nat) (e : WellEnv) : Dev := unitLost d die b (fun x => !x.passes.isEmpty) actWait e
/-- Lost arbitrations of a chain's reads (R103, R104). -/
def chainLost (d : Dev) (die b : Nat) (e : WellEnv) : Dev := unitLost d die b (fun x => !x.chains.isEmpty) operandWait e
/-- Lost arbitrations of a vector store. -/
def storeLost (d : Dev) (die b : Nat) (e : WellEnv) : Dev := unitLost d die b (fun x => !x.stores.isEmpty) operandWait e
/-- Lost arbitrations of the tile path: counted; a pass that comes to wait for its tile raises the hold itself. -/
def tileLost (d : Dev) (die b : Nat) (e : WellEnv) : Dev :=
  if (blk d die b).seq.phase == .running && lostPorts e then countLost d die b e else d

/-- A wait found as a unit works: its unit keeps it, and in lockstep mode it raises the hold. -/
def stallBlk (d : Dev) (die b : Nat) (w : Option Wait) : Dev :=
  match w with
  | some v => raiseHold d die b v.cause
  | none => d

/-- The next bundle is held for its pass's tile: a load in progress, a forced refresh or a fill mark (R72, R76). -/
def Block.tileHeld (x : Block) : Bool :=
  x.seq.held.any fun w => w.cause == .tile || w.cause == .refresh || w.cause == .mark

/-- A unit of the block waits on work that a bundle issued (R183); waits of ring descriptors do not count. -/
def unitsWait (x : Block) : Bool :=
  x.quartetWait.isSome || (x.passes.any fun p => p.wait.isSome)
    || (x.chains.any fun c => c.wait.isSome) || (x.eafQueue.any fun o => o.wait.isSome)
    || ((x.pumpA.direct ++ x.pumpA.sluice ++ x.pumpB.direct ++ x.pumpB.sluice).any fun i => i.wait.isSome)

end Sys2Proof.Machine
end

