-- ==== Sys2Proof/Machine/Route.lean ====
section
/-! DEFINITION. Machine/Route: the ways that flits take in the package (R12, R141 to R144, R148): the street mesh, the port
links and the ring road of a die, the bridges between dies, and the detours round links that are retired. -/

namespace Sys2Proof.Machine

/-! ## The ring road and the port links (R141) -/

/-- The stops of the ring road, in clockwise order. -/
inductive Stop where
  | portN | hall | portE | portS | control | portW
deriving DecidableEq, Repr

/-- The six stops, clockwise. -/
def ringStops : List Stop := [.portN, .hall, .portE, .portS, .control, .portW]

/-- The place of a stop on the ring. -/
def Stop.index (s : Stop) : Nat := ringStops.idxOf s

/-- The stop of a bridge port (0 N, 1 E, 2 S, 3 W). -/
def portStop : Nat → Stop
  | 0 => .portN | 1 => .portE | 2 => .portS | _ => .portW

/-- The two squares on the port links of a bridge port. -/
def portSquares : Nat → List Nat
  | 0 => [2, 3] | 1 => [11, 17] | 2 => [20, 21] | _ => [6, 12]

/-- The stops that the shorter direction passes from one stop to another, both ends included; a tie goes clockwise
(R143). -/
def ringPath (s t : Stop) : List Stop :=
  let c := (t.index + 6 - s.index) % 6
  if c ≤ 3 then (List.range (c + 1)).map fun k => ringStops.getD ((s.index + k) % 6) s
  else (List.range (7 - c)).map fun k => ringStops.getD ((s.index + 6 - k) % 6) s

/-! ## The mesh (R141, R143) -/

/-- The square beyond a mesh port (0 N, 1 E, 2 S, 3 W). -/
def meshNext (b port : Nat) : Nat :=
  match port with
  | 0 => b - 6 | 1 => b + 1 | 2 => b + 6 | _ => b - 1

/-- Hops of the mesh between two squares. -/
def meshDist (a b : Nat) : Nat := (a / 6 - b / 6) + (b / 6 - a / 6) + (a % 6 - b % 6) + (b % 6 - a % 6)

/-- `n` hops from a square through one port: the squares left and the ports taken. -/
def meshRun (port : Nat) : Nat → Nat → List (Nat × Nat)
  | 0, _ => []
  | n + 1, b => (b, port) :: meshRun port n (meshNext b port)

/-- The east–west part of a walk. -/
def runEw (a b : Nat) : List (Nat × Nat) :=
  if a % 6 ≤ b % 6 then meshRun 1 (b % 6 - a % 6) a else meshRun 3 (a % 6 - b % 6) a

/-- The north–south part of a walk. -/
def runNs (a b : Nat) : List (Nat × Nat) :=
  if a / 6 ≤ b / 6 then meshRun 2 (b / 6 - a / 6) a else meshRun 0 (a / 6 - b / 6) a

/-- A walk between two squares of a die, east–west first where `ew`, else north–south first. -/
def meshWalk (ew : Bool) (a b : Nat) : List (Nat × Nat) :=
  if ew then
    let corner := a / 6 * 6 + b % 6
    runEw a corner ++ runNs corner b
  else
    let corner := b / 6 * 6 + a % 6
    runNs a corner ++ runEw corner b

/-- The nearer square of a port's pair; a tie goes to the lower-numbered square (R143). -/
def exitSquare (port b : Nat) : Nat :=
  match portSquares port with
  | [x, y] => if meshDist b y < meshDist b x then y else x
  | _ => b

/-! ## Hops -/

/-- One hop of a route: through a mesh port, between a square and its bridge port stop, along a ring segment, over a
bridge. -/
inductive Hop where
  | mesh (die square port : Nat)
  | port (die square port : Nat)
  | ring (die : Nat) (a b : Stop)
  | bridge (die port : Nat)
deriving DecidableEq, Repr

/-- Part of a route, and the squares at which it was detoured. -/
structure Way where
  hops : List Hop := []
  detours : List (Nat × Nat) := []
deriving DecidableEq, Repr

/-- One part after another. -/
def Way.then_ (x y : Way) : Way := { hops := x.hops ++ y.hops, detours := x.detours ++ y.detours }

/-- The hops of a walk. -/
def walkHops (die : Nat) (w : List (Nat × Nat)) : List Hop := w.map fun s => .mesh die s.1 s.2

/-- The segments of the ring between two stops. -/
def ringHops (die : Nat) (s t : Stop) : List Hop :=
  let l := ringPath s t
  (l.zip (l.drop 1)).map fun p => .ring die p.1 p.2

/-! ## Retired links and detours (R144) -/

/-- A link of a square is retired: mesh ports N, E, S, W and the port link, bits 0 to 4. -/
def linkRetired (d : Dev) (die b link : Nat) : Bool :=
  bit (fget d (ctl R.SQR_STATUS die b) F.SQR_STATUS_RETIRED) link

/-- A square lists a retired link: the first thing a route asks for. -/
def anyRetired (d : Dev) : Bool :=
  d.regs.any fun e =>
    ctlPlace e.1 == R.SQR_STATUS && bits e.2.toNat F.SQR_STATUS_RETIRED.lo F.SQR_STATUS_RETIRED.width != 0

/-- The first square of a walk whose next hop crosses a retired link. -/
def blockedAt (d : Dev) (die : Nat) (w : List (Nat × Nat)) : Option Nat :=
  (w.find? fun s => linkRetired d die s.1 s.2).map Prod.fst

/-- The port links of a stop are intact. -/
def stopIntact (d : Dev) (die port : Nat) : Bool := (portSquares port).all fun b => !linkRetired d die b 4

/-- A square has a mesh port (R141): a neighbour on that side. -/
def meshHas (b port : Nat) : Bool :=
  match port with
  | 0 => 6 ≤ b | 1 => b % 6 < 5 | 2 => b < 18 | _ => 0 < b % 6

/-- Hops over intact links from every square of a die to one: one more round of a search outward. -/
def meshRound (d : Dev) (die : Nat) (m : List (Option Nat)) : List (Option Nat) :=
  (List.range 24).map fun x =>
    (m.getD x none).or (([0, 1, 2, 3].filterMap fun p =>
      if meshHas x p && !linkRetired d die x p then m.getD (meshNext x p) none else none).min?.map (· + 1))

/-- Those distances after `n` rounds. -/
def meshFrom (d : Dev) (die b : Nat) : Nat → List (Option Nat)
  | 0 => (List.range 24).map fun x => if x = b then some 0 else none
  | n + 1 => meshRound d die (meshFrom d die b n)

/-- A walk over intact links that leads nearer at each square, its ports in the order N, E, S, W. -/
def walkNear (d : Dev) (die : Nat) (m : List (Option Nat)) (b : Nat) : Nat → Nat → Option (List (Nat × Nat))
  | 0, a => if a = b then some [] else none
  | n + 1, a =>
    if a = b then some []
    else
      ([0, 1, 2, 3].find? fun p => meshHas a p && !linkRetired d die a p
        && (m.getD (meshNext a p) none).any fun k => (m.getD a none).any fun j => k < j).bind fun p =>
      (walkNear d die m b n (meshNext a p)).map fun l => (a, p) :: l

/-- The walk of a detour: east–west first, else the other dimension first, else the shortest over intact links (DESIGN CHOICE,
log entry 95): none crosses a retired link. -/
def detourWalk (d : Dev) (die a b : Nat) : Option (List (Nat × Nat)) :=
  ([meshWalk true a b, meshWalk false a b].find? fun w => (blockedAt d die w).isNone).or
    (walkNear d die (meshFrom d die b 24) b 24 a)

/-- The way from a square to a bridge port's pair: the nearer square of it, or the other where no way leads there. -/
def toPort (d : Dev) (die b port : Nat) : Option (Nat × List (Nat × Nat)) :=
  let x := exitSquare port b
  (x :: (portSquares port).filter fun y => y != x).findSome? fun y => (detourWalk d die b y).map fun w => (y, w)

/-- The bridge port whose stop is nearest a square, of those whose port links are intact and to which a way leads; a tie goes to
the lower number (DESIGN CHOICE, log entry 95). -/
def nearestPort (d : Dev) (die b : Nat) : Option Nat :=
  let dist (p : Nat) : Nat := meshDist b (exitSquare p b)
  ([0, 1, 2, 3].filter fun p => stopIntact d die p && (toPort d die b p).isSome).foldl (fun m p =>
    match m with
    | some q => if dist p < dist q then some p else some q
    | none => some p) none

/-- Up from a square to the ring road by its nearest intact stop. -/
def climb (d : Dev) (die b : Nat) : Option (List Hop × Stop) :=
  (nearestPort d die b).bind fun p => (toPort d die b p).map fun w =>
    (walkHops die w.2 ++ [.port die w.1 p], portStop p)

/-- Down from the ring road to a square by the intact stop nearest to it. -/
def descend (d : Dev) (die b : Nat) : Option (List Hop × Stop) :=
  (nearestPort d die b).bind fun p => (toPort d die b p).bind fun x => (detourWalk d die x.1 b).map fun w =>
    (.port die x.1 p :: walkHops die w, portStop p)

/-- A route on the mesh of a die (R143), with its detour (R144): at a square whose next hop crosses a retired link the
other dimension is taken first; where that meets a retired link too, the flit takes the ring road. -/
def meshWay (d : Dev) (die a b : Nat) : Way :=
  let w := meshWalk true a b
  match blockedAt d die w with
  | none => { hops := walkHops die w }
  | some q =>
    let before := walkHops die (w.takeWhile fun s => s.1 != q)
    let other := meshWalk false q b
    match blockedAt d die other with
    | none => { hops := before ++ walkHops die other, detours := [(die, q)] }
    | some _ =>
      match climb d die q, descend d die b with
      | some u, some v => { hops := before ++ u.1 ++ ringHops die u.2 v.2 ++ v.1, detours := [(die, q)] }
      | _, _ => { hops := before, detours := [(die, q)] }

/-- From a square to a stop by a bridge port: the nearer square of its pair and that port link, then the ring. A retired
port link is a detour at its square. -/
def upBy (d : Dev) (die b port : Nat) (t : Stop) : Way :=
  let x := exitSquare port b
  let w := meshWay d die b x
  if !linkRetired d die x 4 then
    w.then_ { hops := .port die x port :: ringHops die (portStop port) t }
  else
    match climb d die x with
    | some u => w.then_ { hops := u.1 ++ ringHops die u.2 t, detours := [(die, x)] }
    | none => w.then_ { detours := [(die, x)] }

/-- From a stop to a square by a bridge port. A retired port link is a detour at its square. -/
def downBy (d : Dev) (die b port : Nat) (s : Stop) : Way :=
  let x := exitSquare port b
  if !linkRetired d die x 4 then
    Way.then_ { hops := ringHops die s (portStop port) ++ [.port die x port] } (meshWay d die x b)
  else
    match descend d die b with
    | some v => { hops := ringHops die s v.2 ++ v.1, detours := [(die, x)] }
    | none => { detours := [(die, x)] }

/-- The bridge port by which a square and a stop that is no port's reach each other: the fewest hops, the lower number of
two (DESIGN CHOICE, log entry 95). -/
def hallPort (b : Nat) (s : Stop) : Nat :=
  let n (p : Nat) : Nat := meshDist b (exitSquare p b) + (ringPath (portStop p) s).length
  [1, 2, 3].foldl (fun m p => if n p < n m then p else m) 0

/-! ## Places -/

/-- Where traffic begins or ends: a block's square, a Town Hall, die control, or an edge die. -/
inductive Place where
  | square (die b : Nat)
  | hall (die : Nat)
  | control (die : Nat)
  | edge (die : Nat)
deriving DecidableEq, Repr

/-- Bridges between two compute dies. -/
def dieDist (a b : Nat) : Nat := meshDist a b

/-- The port of a compute die that an edge die joins (R12). -/
def edgeSide (edge : Nat) : Nat := if edge < 52 then 3 else if edge < 56 then 1 else if edge < 60 then 0 else 2

/-- The far end of a bridge port (R12): die and port. -/
def bridgePeer (die port : Nat) : Option (Nat × Nat) :=
  if die < 48 then
    match port with
    | 0 => if 6 ≤ die then some (die - 6, 2) else if 1 ≤ die ∧ die ≤ 4 then some (56 + die - 1, 0) else none
    | 1 => if die % 6 < 5 then some (die + 1, 3) else some (52 + die / 12, die / 6 % 2)
    | 2 => if die < 42 then some (die + 6, 0) else if 43 ≤ die ∧ die ≤ 46 then some (60 + die - 43, 0) else none
    | 3 => if 0 < die % 6 then some (die - 1, 1) else some (48 + die / 12, die / 6 % 2)
    | _ => none
  else (edgePeer die port).map fun c => (c, edgeSide die)

/-- A bridge port is up. -/
def bridgeUp (d : Dev) (die port : Nat) : Bool := flag d (ctl R.BRG_STATUS die port) F.BRG_STATUS_UP

/-- The port of a stack or head by which a compute die is joined to it: the one whose compute die is nearest, with a tie
going to port 0 (R143); the other where that bridge is down (R148). -/
def edgePort (d : Dev) (edge die : Nat) : Nat :=
  match edgePeer edge 0, edgePeer edge 1 with
  | some x, some y =>
    let near := if dieDist die y < dieDist die x then 1 else 0
    if !bridgeUp d edge near && bridgeUp d edge (1 - near) then 1 - near else near
  | _, _ => 0

/-! ## Between dies (R143, R148) -/

/-- The bridges of the grid from one compute die to another: east–west to the column first, then north–south. -/
def diePath (a b : Nat) : List (Nat × Nat) := meshWalk true a b

/-- Bridges from every compute die to one, over bridges that are up: one more round of a search outward. -/
def distRound (d : Dev) (m : List (Option Nat)) : List (Option Nat) :=
  (List.range 48).map fun x =>
    match m.getD x none with
    | some n => some n
    | none =>
      let near := [0, 1, 2, 3].filterMap fun p =>
        match bridgePeer x p with
        | some (y, _) => if y < 48 && bridgeUp d x p then m.getD y none else none
        | none => none
      (near.min?).map (· + 1)

/-- Those distances after `n` rounds. -/
def distFrom (d : Dev) (b : Nat) : Nat → List (Option Nat)
  | 0 => (List.range 48).map fun x => if x = b then some 0 else none
  | n + 1 => distRound d (distFrom d b n)

/-- The way round bridges that are down: at each die a bridge that is up and leads nearer, in the order N, E, S, W (DESIGN
CHOICE, log entry 95). `none` where there is no way. -/
def wayRound (d : Dev) (m : List (Option Nat)) (b : Nat) : Nat → Nat → Option (List (Nat × Nat))
  | 0, a => if a = b then some [] else none
  | n + 1, a =>
    if a = b then some []
    else
      match [0, 1, 2, 3].find? fun p =>
          match bridgePeer a p with
          | some (y, _) => y < 48 && bridgeUp d a p && (m.getD y none).any fun k => (m.getD a none).any fun j => k < j
          | none => false with
      | none => none
      | some p => (bridgePeer a p).bind fun y => (wayRound d m b n y.1).map fun l => (a, p) :: l

/-- The bridges that a flit crosses between two compute dies (R143). Where one of them is down, the other dimension is
taken first from that die, and where that fails too, the way leads over other dies (R148). -/
def dieWay (d : Dev) (a b : Nat) : Option (List (Nat × Nat)) :=
  let up (w : List (Nat × Nat)) : Bool := w.all fun s => bridgeUp d s.1 s.2
  let w := diePath a b
  match w.find? fun s => !bridgeUp d s.1 s.2 with
  | none => some w
  | some q =>
    let other := meshWalk false q.1 b
    let before := w.takeWhile fun s => s.1 != q.1
    if up other then some (before ++ other)
    else (wayRound d (distFrom d b 48) b 48 q.1).map fun l => before ++ l

/-- The compute die by which a place takes part in the grid, seen from another compute die. -/
def Place.die (d : Dev) (p : Place) (other : Nat) : Nat :=
  match p with
  | .square die _ | .hall die | .control die => die
  | .edge e => (edgePeer e (edgePort d e other)).getD 0

/-- The stop at which a place joins the ring of its compute die; a square has none. -/
def Place.stop : Place → Option Stop
  | .square .. => none
  | .hall _ => some .hall
  | .control _ => some .control
  | .edge e => some (portStop (edgeSide e))

/-- A part of a route within one die: from a square or a stop to a square or a stop. -/
def dieLeg (d : Dev) (die : Nat) : (Nat ⊕ Stop) → (Nat ⊕ Stop) → (port : Option Nat) → Way
  | .inl a, .inl b, _ => meshWay d die a b
  | .inl a, .inr t, p => upBy d die a (p.getD (hallPort a t)) t
  | .inr s, .inl b, p => downBy d die b (p.getD (hallPort b s)) s
  | .inr s, .inr t, _ => { hops := ringHops die s t }

/-- The bridges of a grid path, each with the ring of the die that it leads into. -/
def transit (d : Dev) (last : Nat ⊕ Stop) : List (Nat × Nat) → Way
  | [] => {}
  | [s] =>
    match bridgePeer s.1 s.2 with
    | some (y, p) => Way.then_ { hops := [.bridge s.1 s.2] } (dieLeg d y (.inr (portStop p)) last (some p))
    | none => {}
  | s :: t :: l =>
    match bridgePeer s.1 s.2 with
    | some (y, p) =>
      Way.then_ { hops := .bridge s.1 s.2 :: ringHops y (portStop p) (portStop t.2) } (transit d last (t :: l))
    | none => {}

/-- The bridge by which a place beyond the grid is reached from its compute die, or leaves for it. -/
def edgeHop (d : Dev) (p : Place) (other : Nat) (out : Bool) : List Hop :=
  match p with
  | .edge e =>
    let port := edgePort d e other
    if out then [.bridge e port] else ((edgePeer e port).map fun c => Hop.bridge c (edgeSide e)).toList
  | _ => []

/-- A place within its compute die: a square, or a stop. -/
def Place.at_ : Place → Nat ⊕ Stop
  | .square _ b => .inl b
  | .hall _ => .inr .hall
  | .control _ => .inr .control
  | .edge e => .inr (portStop (edgeSide e))

/-- The bridge port of a compute die that an edge place joins. -/
def Place.port : Place → Option Nat
  | .edge e => some (edgeSide e)
  | _ => none

/-- The compute dies by which two places take part in the grid: a stack is reached through the bridge whose compute die is
nearest the source (R143), and what a stack sends leaves by the one nearest the destination (DESIGN CHOICE, log entry 95). -/
def gridEnds (d : Dev) (a b : Place) : Nat × Nat :=
  match a, b with
  | .edge e, .edge _ =>
    let x := a.die d (b.die d ((edgePeer e 0).getD 0))
    (x, b.die d x)
  | .edge _, _ => let y := b.die d 0; (a.die d y, y)
  | _, _ => let x := a.die d 0; (x, b.die d x)

/-- The route of a flit from one place to another (R143), with detours. `none` where bridges that are down leave no way. -/
def route (d : Dev) (a b : Place) : Option Way :=
  let e := gridEnds d a b
  (dieWay d e.1 e.2).map fun path =>
    let inner : Way :=
      match path with
      | [] => dieLeg d e.1 a.at_ b.at_ ((a.port).or b.port)
      | s :: _ =>
        Way.then_ (dieLeg d e.1 a.at_ (.inr (portStop s.2)) (some s.2)) (transit d b.at_ path)
    { hops := edgeHop d a e.2 true ++ inner.hops ++ edgeHop d b e.1 false, detours := inner.detours }

/-- Street hops of a route: mesh links, port links and ring segments (R142). -/
def Way.streetHops (w : Way) : Nat :=
  (w.hops.filter fun h => match h with
    | .bridge .. => false
    | _ => true).length

/-- Bridges of a route. -/
def Way.bridges (w : Way) : Nat := w.hops.length - w.streetHops

/-- The squares that a route passes. -/
def Way.squares (w : Way) : List (Nat × Nat) :=
  (w.hops.flatMap fun h => match h with
    | .mesh die b p => [(die, b), (die, meshNext b p)]
    | .port die b _ => [(die, b)]
    | _ => []).eraseDups

/-- `n` flits travel from one place to another: those detoured are counted at their squares (R144). -/
def travel (d : Dev) (a b : Place) (n : Nat) : Dev :=
  if !anyRetired d then d
  else
    match route d a b with
    | none => d
    | some w =>
      w.detours.foldl (fun d s =>
        let d := fcnt d (ctl R.SQR_RETRY_CNT s.1 s.2) F.SQR_RETRY_CNT_DETOURED n
        if n = 0 then d else fset d (ctl R.SQR_STATUS s.1 s.2) F.SQR_STATUS_DETOUR 1) d

end Sys2Proof.Machine
end

