-- ==== Sys2Proof/Machine/Link.lean ====
section
/-! DEFINITION. Machine/Link: how a request leaves the device: stamps (R338, R241), reachability (R215), routes (R252),
outstanding transactions (R249) and credits of remote windows (R247). -/

namespace Sys2Proof.Machine

/-! ## Addresses and stamps -/

/-- The device's fabric address as AQD_FA holds it. -/
def ownFa (d : Dev) : Nat := fget d (ctl R.AQD_FA 56 9) F.AQD_FA_FA

/-- The fabric address is in use. -/
def faValid (d : Dev) : Bool := flag d (ctl R.AQD_FA 56 9) F.AQD_FA_VALID

/-- A stamp (R338). -/
def stamp (d : Dev) (die cls inst priv : Nat) : Nat :=
  ownFa d + die * pow2 16 + cls * pow2 22 + inst * pow2 26 + priv * pow2 30

/-- The stamp of a block's sequencer. -/
def blockStamp (d : Dev) (die b : Nat) : Nat :=
  if b < 16 then stamp d die 0x1 b 0 else stamp d die 0x2 (b - 16) 0

/-- The stamp of a pump. -/
def pumpStamp (d : Dev) (die b : Nat) (pumpB : Bool) : Nat :=
  let c := (if pumpB then 0x6 else 0x4) + (if b < 16 then 0 else 1)
  stamp d die c (if b < 16 then b else b - 16) 0

/-- The stamp of a Town Hall core in a mode. -/
def coreStamp (d : Dev) (die core : Nat) (m : CoreMode) : Nat :=
  stamp d die 0xB core (match m with | .user => 1 | .supervisor => 2 | .machine => 3)

/-! ## Reachability (R215) -/

/-- A stack is reachable. -/
def stackReachable (d : Dev) (s : Nat) : Bool := bridgeUp d (48 + s) 0 || bridgeUp d (48 + s) 1

/-- A head is reachable. -/
def headReachable (d : Dev) (h : Nat) : Bool := bridgeUp d (56 + h) 0

/-- The primary head (R242): head 0, or the lowest-numbered reachable head while head 0 is unreachable. -/
def primaryHead (d : Dev) : Nat := ((List.range 8).find? (headReachable d)).getD 0

/-! ## Routes (R252) -/

/-- The control address of a register of a global aqueduct. -/
abbrev aqdReg (place g : Nat) : Nat := ctl place (56 + g / 8) (g % 8)

/-- An aqueduct is UP in fabric mode. -/
def aqdFabricUp (d : Dev) (g : Nat) : Bool :=
  flag d (aqdReg R.AQD_STATUS g) F.AQD_STATUS_UP && !flag d (aqdReg R.AQD_STATUS g) F.AQD_STATUS_MODE_ACTIVE

/-- An aqueduct is UP in Ethernet mode. -/
def aqdEthernetUp (d : Dev) (g : Nat) : Bool :=
  flag d (aqdReg R.AQD_STATUS g) F.AQD_STATUS_UP && flag d (aqdReg R.AQD_STATUS g) F.AQD_STATUS_MODE_ACTIVE

/-- The mask of a route entry. -/
def routeMask (d : Dev) (n : Nat) : Nat :=
  (rd d (ctlSel R.AQD_RT_LO 56 9 n)).toNat + (rd d (ctlSel R.AQD_RT_HI 56 9 n)).toNat * pow2 32

/-- The entry that a destination uses: its precinct's, or within the own precinct its member's. -/
def routeIndex (d : Dev) (fa : Nat) : Nat := if fa / 64 = ownFa d / 64 then 1024 + fa % 64 else fa / 64

/-- An aqueduct's record. -/
def aqd (d : Dev) (g : Nat) : Aqd := mgetD d.aqds g {}

/-- Stores an aqueduct's record. -/
def setAqd (d : Dev) (g : Nat) (a : Aqd) : Dev := { d with aqds := mset d.aqds g a }

/-- The aqueduct a frame leaves by: one of the mask that is UP in fabric mode, and whose far end has not announced ISOLATED
(R215). -/
def routeAqd (d : Dev) (fa vc : Nat) : Option Nat :=
  let m := routeMask d (routeIndex d fa)
  let ups := (List.range 64).filter fun g => bit m g && aqdFabricUp d g && !(aqd d g).peerIsolated
  if ups.isEmpty then none else ups[(fa + vc) % ups.length]?

/-- The head a frame leaves by: the primary head for the device's own address. -/
def routeHead (d : Dev) (fa vc : Nat) : Option Nat :=
  let h := if fa = ownFa d then some (primaryHead d) else (routeAqd d fa vc).map (· / 8)
  h.bind fun h => if headReachable d h && faValid d then some h else none

/-! ## Codeword pairs (R220) -/

/-- The number of lanes of a mask. -/
def laneCount (m : Nat) : Nat := ((List.range 8).filter (bit m)).length

/-- The codeword pairs that pass in a number of ticks: 10,880 bits each, 224 Gbit/s on each lane, 1.6 ns a tick (R3). -/
def pairsIn (lanes ticks : Nat) : Nat := ticks * 3584 * lanes / 108800

/-- The number of the pair that goes out now. -/
def pairOut (d : Dev) (g : Nat) : Nat :=
  let a := aqd d g
  (a.outPair + pairsIn (laneCount a.map) (d.tally - a.outAt)) % 65536

/-- The number of the pair that comes in now. -/
def pairIn (d : Dev) (g : Nat) : Nat :=
  let a := aqd d g
  (a.inPair + pairsIn (laneCount a.map) (d.tally - a.inAt)) % 65536

/-- A pair number that is reached or passed, modulo 2^16. -/
def pairPassed (now pair : Nat) : Bool := (now + 65536 - pair) % 65536 < 32768

/-! ## Sending on aqueducts (R220 to R226) -/

/-- Sends by express flit. -/
def EmitKind.express : EmitKind → Bool
  | .gateOp | .gateAck | .ack | .creditReq | .credit | .mbxPart | .mbxAck | .barrierArrive | .barrierRelease
  | .abortFrame | .cancelFrame | .expressFlit => true
  | _ => false

/-- The bytes that a record takes on the fibre: its flits of 64 bytes. -/
def Emit.fibre (e : Emit) : Nat := if e.kind.express then 64 else (16 + e.bytes.length + 63) / 64 * 64

/-- Bytes in the replay buffer. -/
def bufferBytes (l : List Emit) : Nat := (l.map Emit.fibre).sum

/-- What waits on an aqueduct. -/
def Aqd.queue (a : Aqd) : List Emit := a.express ++ a.waiting.flatMap Prod.snd

/-- The share of a VC in the slots that VC0 and link control leave, in percent (R222). -/
def vcShare : Nat → Nat
  | 1 => 30 | 2 => 35 | 3 => 10 | 4 => 10 | 5 => 8 | 6 => 2 | 7 => 5 | _ => 0

/-- Of 256 slots, a VC's share. -/
def vcQuota (v : Nat) : Nat := vcShare v * 256 / 100

/-- The VC whose frame goes next: of those with a frame waiting and a link credit, the lowest that has not had its share of
256 slots, else the lowest (R222). -/
def nextVc (a : Aqd) : Option Nat :=
  let l := (List.range 8).filter fun v => !(mgetD a.waiting v []).isEmpty && 0 < mgetD a.credits v 0
  (l.find? fun v => mgetD a.shares v 0 < vcQuota v).or l.head?

/-- The slots that a frame takes count toward its VC's share. After 256 slots a count begins anew; what a VC has had beyond its share,
since frames go whole, it owes in the slots that follow, at most one frame of 65 (DESIGN CHOICE, log entry 110: slots that others
left unused are not owed for ever). -/
def takeSlots (a : Aqd) (v n : Nat) : Aqd :=
  let s := mset a.shares v (mgetD a.shares v 0 + n)
  if a.window + n < 256 then { a with shares := s, window := a.window + n }
  else { a with shares := s.map fun e => (e.1, min 65 (e.2 - vcQuota e.1)), window := (a.window + n) % 256 }

/-- A pair carries alignment markers in place of its slots: every 4,096th; which of them is not said (R220; log entry 43). -/
def markerPair (pair : Nat) : Bool := pair % 4096 == Config.openValue 0 0xD2000000 % 4096

/-- The pair that what is sent now goes out in: a pair of alignment markers carries nothing (R220). -/
def carryingPair (pair : Nat) : Nat := if markerPair pair then (pair + 1) % 65536 else pair

/-- A record goes out on an aqueduct: it is in the replay buffer until it is acknowledged. -/
def goOut (d : Dev) (g : Nat) (a : Aqd) (e : Emit) : Dev :=
  let e := { e with pair := carryingPair (pairOut d g) }
  { setAqd d g { a with unacked := a.unacked ++ [e] } with out := d.out ++ [e] }

/-- What waits on an aqueduct that is UP goes out as far as the replay buffer of 512 KiB has room (R226): express flits
before any frame (R223), and the frames whole, in turn (R222). -/
def drainQueue (g : Nat) : Nat → Dev → Dev
  | 0, d => d
  | n + 1, d =>
    let a := aqd d g
    let room (e : Emit) : Bool := bufferBytes a.unacked + e.fibre ≤ 524288
    if !aqdFabricUp d g then d
    else match a.express with
      | e :: rest => if room e then drainQueue g n (goOut d g { a with express := rest } e) else d
      | [] =>
        match nextVc a with
        | none => d
        | some v =>
          match mgetD a.waiting v [] with
          | [] => d
          | e :: rest =>
            if !room e then d
            else
              let a := takeSlots a v (e.fibre / 64)
              drainQueue g n (goOut d g { a with waiting := mset a.waiting v rest, credits := mset a.credits v (mgetD a.credits v 0 - 1) } e)

/-- A payload in frames of at most 4,096 bytes (R235). -/
def chunks : Nat → List Byte → List (List Byte)
  | 0, _ => []
  | n + 1, bs => bs.take 4096 :: chunks n (bs.drop 4096)

/-- A record as the frames that carry it. -/
def Emit.frames (e : Emit) : List Emit := (chunks (max 1 ((e.bytes.length + 4095) / 4096)) e.bytes).map fun b => { e with bytes := b }

/-- A record joins what waits on an aqueduct. -/
def Aqd.join (a : Aqd) (e : Emit) : Aqd :=
  if e.kind.express then { a with express := a.express ++ [e] }
  else { a with waiting := mset a.waiting e.vc (mgetD a.waiting e.vc [] ++ e.frames) }

/-- Hands a record to an aqueduct. -/
def sendOn (d : Dev) (g : Nat) (e : Emit) : Dev :=
  let a := (aqd d g).join e
  drainQueue g a.queue.length (setAqd d g a)

/-- The STAMP of an express flit (R241, R338): the gate bank's, the barrier engine's or the mailbox's on the die that it names,
die control's and the serving engine's core on the coordinating die, a block's or core's as it is given; else the head's
own. `by_` is the die of the unit that sends. -/
def stampOf (d : Dev) (kind : EmitKind) (nums : List Nat) (by_ : Nat) : Nat :=
  match kind with
  | .gateOp | .mbxPart => nums.getD 3 0
  | .gateAck | .barrierArrive | .barrierRelease => stamp d by_ 0x8 0 0
  | .mbxAck => stamp d by_ 0x9 0 0
  | .abortFrame => stamp d d.coord 0x0 0 0
  | .cancelFrame => stamp d d.coord 0xB 0 3
  | _ => stamp d (56 + nums.headD 0) 0xE 0 3

/-- A record with what the sending head writes: SRC, or STAMP and DST_DIE. A flit whose receiving die the spec does not name
has an open DST_DIE (log entry 102). -/
def dressed (d : Dev) (vc : Nat) (kind : EmitKind) (nums : List Nat) (bytes : List Byte) (by_ to_ : Nat) : Emit :=
  if kind.express then
    { kind, nums, bytes, vc, src := stampOf d kind nums by_,
      die := if to_ < 64 then to_ else Config.openValue d.epoch 0xD0000000 % 64 }
  else { kind, nums, bytes, vc, src := ownFa d }

/-- Sends a record to a fabric address on a VC. The device's own address is reached at its primary head; where no
aqueduct is there for it, or its head cannot be reached, the record is lost. -/
def sendTo (d : Dev) (fa vc : Nat) (kind : EmitKind) (nums : List Nat) (bytes : List Byte := []) (by_ : Nat := 64)
    (to_ : Nat := 64) : Dev :=
  let e := dressed d vc kind nums bytes by_ to_
  if fa = ownFa d then { d with out := d.out ++ [e] }
  else match routeAqd d fa vc with
    | none => d
    | some g => if headReachable d (g / 8) then sendOn d g e else d

/-- Counts Ethernet frames that an aqueduct sends. -/
def ethSent (d : Dev) (g n : Nat) : Dev := fcnt d (aqdReg R.AQD_ETH_TX g) F.AQD_ETH_TX_FRAMES n

/-- A new number for a read, frame or descriptor. -/
def freshId (d : Dev) : Dev × Nat := ({ d with nextId := d.nextId + 1 }, d.nextId)

/-- The identifier of a transaction that the sending head assigns (R240). -/
def freshXid (d : Dev) : Dev × Nat := ({ d with nextId := d.nextId + 1 }, d.nextId % 65536)

/-- A transaction is outstanding from now on. -/
def addTxn (d : Dev) (head : Nat) (k : TxnKind) (o : Origin) : Dev :=
  { d with txns := d.txns ++ [{ head, kind := k, origin := o, start := d.tally }] }

/-- The first outstanding transaction of a kind, taken out of the list. -/
def takeTxn (d : Dev) (k : TxnKind) : Option (Dev × Txn) :=
  match d.txns.findIdx? fun t => t.kind == k with
  | none => none
  | some i => (d.txns[i]?).map fun t => ({ d with txns := d.txns.eraseIdx i }, t)

/-- Counts a transaction that ends REMOTE_TIMEOUT (R249). -/
def countTimeout (d : Dev) (head : Nat) : Dev :=
  fcnt d (ctl R.AQD_TXN_CNT_B (56 + head) 9) F.AQD_TXN_CNT_B_TIMEOUT 1

/-- Tally ticks of a number of microseconds (R3). -/
def usTicks (us : Nat) : Nat := us * 625

/-- AQD_TXN_TIMEOUT of a head in ticks; 0 acts as 1 µs. -/
def txnTimeout (d : Dev) (h : Nat) : Nat :=
  usTicks (max 1 (fget d (ctl R.AQD_TXN_TIMEOUT (56 + h) 9) F.AQD_TXN_TIMEOUT_US))

/-! ## Frames within the device (R237) -/

/-- SRC_DIE and SRC_UNIT of the unit that an access comes from, which the square or stop inserts. -/
def Origin.unit (d : Dev) : Origin → Nat × Nat
  | .pump die b _ _ | .repair die b => (die, b)
  | .core die _ | .coreGate die => (die, 24)
  | .signal s => (s.die, s.block)
  | .fountain h _ _ => (56 + h, 26)
  | .window id => (56 + (((d.winReads.find? fun r => r.id == id).map WinRead.head).getD (primaryHead d)), 26)
  | .send _ _ | .buffer _ => (56 + primaryHead d, 26)
  | .firmware => (d.coord, 24)

/-- The TAG of a read: the low byte of its number (log entry 102). -/
def Origin.tag : Origin → Nat
  | .pump _ _ _ rid => rid % 256
  | .window id => id % 256
  | .send id _ => id % 256
  | _ => 0

/-- The header of an access to a reservoir stack. -/
def RsvAcc.header (d : Dev) (a : RsvAcc) : PackageHeader :=
  { pop := if a.data.isSome then 0 else 1, vc := a.vc, lenM1 := a.len - 1, dstDie := 48 + a.addr / 2097152 % 8, dstUnit := 26,
    srcDie := (a.origin.unit d).1, srcUnit := (a.origin.unit d).2, addr := a.addr, tag := a.origin.tag }

/-- The header of the answer to a read of a reservoir stack: it echoes the TAG. -/
def RsvAcc.answer (d : Dev) (a : RsvAcc) : PackageHeader :=
  let h := a.header d
  { h with pop := 2, dstDie := h.srcDie, dstUnit := h.srcUnit, srcDie := h.dstDie, srcUnit := h.dstUnit }

/-- The header of a read of a package well. -/
def WellAsk.header (r : WellAsk) : PackageHeader :=
  { pop := 1, vc := r.vc, lenM1 := r.len - 1, dstDie := r.die, dstUnit := r.block, srcDie := r.byDie, srcUnit := r.byBlock,
    addr := r.addr, tag := r.id % 256 }

/-- The header of a read's answer: it echoes the TAG. -/
def WellAsk.answer (r : WellAsk) : PackageHeader :=
  { r.header with pop := 2, dstDie := r.byDie, dstUnit := r.byBlock, srcDie := r.die, srcUnit := r.block }

/-- The header of a write of a pump into a well; a fill-mark update travels behind its data (R137). -/
def wellWriteHeader (die b vc hd hb addr len : Nat) (mark : Option Nat) : PackageHeader :=
  { pop := 0, vc, lenM1 := len - 1, dstDie := hd, dstUnit := hb, srcDie := die, srcUnit := b, addr, mark }

/-- The header of a write that a head has accepted, into a well of the device. -/
def Accepted.header (a : Accepted) (hd hb addr : Nat) : PackageHeader :=
  { pop := 0, vc := a.vc, lenM1 := a.bytes.length - 1, dstDie := hd, dstUnit := hb, srcDie := 56 + a.head, srcUnit := 26, addr }

/-- The header of what a pump hands a head, a window frame or a frame of its fountain. The spec gives ADDR no meaning at a head:
it is open (log entry 102). -/
def headHeader (d : Dev) (die b head vc pop len tag : Nat) : PackageHeader :=
  { pop, vc, lenM1 := len - 1, dstDie := 56 + head, dstUnit := 26, srcDie := die, srcUnit := b,
    addr := Config.openValue d.epoch 0xD1000000 % pow2 40, tag }

/-- The header of a fabric control frame that one head of the device hands another (R150, R252). -/
def transitHeader (d : Dev) (from_ to_ len : Nat) : PackageHeader :=
  { pop := 0, vc := 7, lenM1 := len - 1, dstDie := 56 + to_, dstUnit := 26, srcDie := 56 + from_, srcUnit := 26,
    addr := Config.openValue d.epoch 0xD1000000 % pow2 40 }

/-! ## Collective groups (R256) and what is theirs (R266, R268)

The spec ties no window, descriptor or frame to a group. What names a member of the group is the group's, and so is what names no
other device; what names only devices outside the group is another's (DESIGN CHOICE, log entry 40). -/

/-- A group's record. -/
def groupOf (d : Dev) (num : Nat) : Option Group := d.groups.find? fun g => g.num == num

/-- A device is a member of the group; of a group that this device knows nothing of, any may be. -/
def groupHas (d : Dev) (num fa : Nat) : Bool := (groupOf d num).all fun g => g.members.contains fa

/-- What names these devices is the group's. -/
def groupsOwn (d : Dev) (num : Nat) (fas : List Nat) : Bool :=
  let l := fas.filter fun fa => fa != ownFa d
  l.isEmpty || l.any (groupHas d num)

/-! ## Credits of remote windows (R247) -/

/-- The credits a head holds for a remote window. -/
def creditAt (d : Dev) (head fa win gen : Nat) : SendCredit :=
  (d.credits.find? fun c => c.head == head && c.fa == fa && c.win == win && c.gen == gen).getD
    { head, fa, win, gen, have_ := 0 }

/-- Stores the credits of a head for a remote window. -/
def setCredit (d : Dev) (c : SendCredit) : Dev :=
  { d with credits :=
      (d.credits.filter fun o => !(o.head == c.head && o.fa == c.fa && o.win == c.win && o.gen == c.gen)) ++ [c] }

/-- A snapshot keeps new credit requests for the windows of its group's members back (R266). -/
def creditReqHeld (d : Dev) (fa : Nat) : Bool := d.snaps.any fun s => groupHas d s.group fa

/-- Asks for credits where none was asked for. A request that a snapshot keeps back goes out when it has ended. -/
def askCredit (d : Dev) (head fa win gen : Nat) : Dev :=
  let c := creditAt d head fa win gen
  if c.asked.isSome || (fa ≠ ownFa d && (routeHead d fa 0).isNone) then d
  else if creditReqHeld d fa then setCredit d { c with kept := true }
  else
    let x := freshXid d
    sendTo (setCredit x.1 { c with asked := some x.2, kept := false }) fa 0 .creditReq [head, fa, x.2, win, gen, 64]

/-- The requests that snapshots have kept back and no snapshot keeps back any more go out. -/
def askKept (d : Dev) : Dev :=
  (d.credits.filter SendCredit.kept).foldl (fun d c => askCredit d c.head c.fa c.win c.gen) d

end Sys2Proof.Machine
end

