-- ==== Sys2Proof/Machine/Gates.lean ====
section
/-! DEFINITION. Machine/Gates: gates and their operations (R178, R179), local and remote (R250). -/

namespace Sys2Proof.Machine

/-- A gate operation of R179. -/
inductive GateOp where
  | signal (n : Nat)
  | consume (n : Nat)
  | setThresh (v : Nat)
  | addThresh (v : Nat)
  | reset
deriving DecidableEq, Repr

/-- Who asks for a gate operation, for the owner check. -/
inductive Requester where
  | hall (die : Nat)
  | block (die b : Nat)
  | fabric
  | engine
deriving DecidableEq, Repr

/-- A register of a gate. -/
abbrev gateReg (place die gate : Nat) : Nat := ctl (place + 0x40 * (gate % 16)) die (gate / 16)

/-- The count of a gate. -/
def gateCount (d : Dev) (die gate : Nat) : Nat := (rd d (gateReg R.GAT_COUNT die gate)).toNat
/-- The threshold of a gate. -/
def gateThresh (d : Dev) (die gate : Nat) : Nat := (rd d (gateReg R.GAT_THRESH die gate)).toNat

/-- The condition of a wait on a gate. -/
def gateMet (d : Dev) (die gate : Nat) : Bool := gateThresh d die gate ≤ gateCount d die gate

/-- A gate of the number exists on the die (R178). -/
def gateExists (die gate : Nat) : Bool := (die < 48 && gate < 256) || (56 ≤ die && die < 64 && gate < 512)

/-- The waiters of a gate. -/
def waiters (d : Dev) (die gate : Nat) : List Waiter := mgetD (dieSt d die).waiters gate []

/-- Stores the waiters of a gate. -/
def setWaiters (d : Dev) (die gate : Nat) (l : List Waiter) : Dev :=
  let x := dieSt d die
  setDie d die { x with waiters := if l.isEmpty then mdel x.waiters gate else mset x.waiters gate l }

/-- The owner check (R179). -/
def ownerOk (d : Dev) (die gate : Nat) (r : Requester) : Bool :=
  let c := gateReg R.GAT_CTRL die gate
  let kind := fget d c F.GAT_CTRL_OWNER_KIND
  match r with
  | .hall hd => kind == 0 || hd == die || 56 ≤ die
  | .block bd b => kind == 0 || (kind == 1 && die < 48 && bd == die && b == fget d c F.GAT_CTRL_OWNER_BLOCK)
  | .fabric => kind == 0
  | .engine => true

/-- A waiter is released: a held sequencer may issue, a core gets HALLWAIT. -/
def releaseWaiter (die gate : Nat) (d : Dev) : Waiter → Dev
  | .block b =>
    let x := blk d die b
    match x.seq.held with
    | some w =>
      if w.on = .gate die gate then setSeq d die b { x.seq with held := none, gateOpen := true } else d
    | none => d
  | .hall hd core => if hd < 48 then irq d hd core 1 else d

/-- Every waiter is released, and its entry freed. -/
def releaseAll (d : Dev) (die gate : Nat) : Dev :=
  (waiters d die gate).foldl (releaseWaiter die gate) (setWaiters d die gate [])

/-- What a gate operation makes of count and threshold, or the fault it meets. -/
def gateEffect (d : Dev) (die gate : Nat) : GateOp → (Nat × Nat) ⊕ FaultCode
  | .signal n =>
    let c := gateCount d die gate + n
    if pow2 32 ≤ c then .inr .gateOverflow else .inl (c, gateThresh d die gate)
  | .consume n =>
    let c := gateCount d die gate
    if c < n then .inr .gateUnderflow else .inl (c - n, gateThresh d die gate)
  | .setThresh v => .inl (gateCount d die gate, v)
  | .addThresh v =>
    let t := gateThresh d die gate + v
    if pow2 32 ≤ t then .inr .gateOverflow else .inl (gateCount d die gate, t)
  | .reset => .inl (0, 0)

/-- Operations that the owner check guards. -/
def GateOp.owned : GateOp → Bool
  | .signal _ => false
  | _ => true

/-- Counts an operation refused with a gate fault at the gate's home. -/
def countGateFault (d : Dev) (die : Nat) : Dev :=
  fcnt d (ctl R.GAT_BANK_STATUS die 0) F.GAT_BANK_STATUS_FAULTS 1

/-- A Town Hall's signal of the next step's start gate on a die is the serving engine's: the watchdog of a sluice-mode
step counts from the first, and from the end of the step before where it comes while that runs (R193). -/
def noteStartSignal (d : Dev) (die gate : Nat) (op : GateOp) (r : Requester) : Dev :=
  match op, r with
  | .signal _, .hall _ =>
    if die < 48 && gate == d.step.hdr.startGate && d.step.signalled.isNone then
      { d with step := { d.step with signalled := some d.tally } }
    else d
  | _, _ => d

/-- Performs a gate operation at the gate's home (R179): the gate, or its fault with the gate unchanged. -/
def gateCore (d : Dev) (die gate : Nat) (op : GateOp) (r : Requester) : Dev × Option FaultCode :=
  if op.owned && !ownerOk d die gate r then (countGateFault d die, some .gateOwner)
  else
    match gateEffect d die gate op with
    | .inr f => (countGateFault d die, some f)
    | .inl (c, t) =>
      let d := wr (noteStartSignal d die gate op r) (gateReg R.GAT_COUNT die gate) (BitVec.ofNat 32 c)
      let d := wr d (gateReg R.GAT_THRESH die gate) (BitVec.ofNat 32 t)
      (if t ≤ c || op = .reset then releaseAll d die gate else d, none)

/-! ## Barrier engines (R258 to R262) -/

/-- A register of barrier slot `s` of head `h`. -/
abbrev barReg (place h s : Nat) : Nat := ctl (place + 0x20 * s) (56 + h) 0

/-- What a barrier slot holds. -/
def barSlot (d : Dev) (h s : Nat) : BarSlot := mgetD d.barriers (h * 64 + s) {}

/-- Stores it; the counts of arrivals show in GAT_BAR_ARRIVED. -/
def setBarSlot (d : Dev) (h s : Nat) (b : BarSlot) : Dev :=
  fsets { d with barriers := mset d.barriers (h * 64 + s) b } (barReg R.GAT_BAR_ARRIVED h s)
    [(F.GAT_BAR_ARRIVED_CUR, b.cur.length), (F.GAT_BAR_ARRIVED_NEXT, b.next.length)]

/-- The dies of a slot's mask. -/
def barDies (d : Dev) (h s : Nat) : List Nat :=
  let m := (rd d (barReg R.GAT_BAR_DIES_LO h s)).toNat + fget d (barReg R.GAT_BAR_DIES_HI h s) F.GAT_BAR_DIES_HI_DIES * pow2 32
  (List.range 48).filter (bit m)

/-- Local waiters of a slot are released: the result is stored and the release gate of every die in the mask signalled;
a FAIL is counted. -/
def barSignal (d : Dev) (h s pay : Nat) : Dev :=
  let g := fget d (barReg R.GAT_BAR_CTRL h s) F.GAT_BAR_CTRL_RELEASE_GATE
  let d := wr d (barReg R.GAT_BAR_RESULT h s) (BitVec.ofNat 32 pay)
  let d := if bit pay 0 then fcnt d (ctl R.GAT_BAR_STATUS (56 + h) 0) F.GAT_BAR_STATUS_FAILED 1 else d
  (barDies d h s).foldl (fun d die => (gateCore d die g (.signal 1) .engine).1) d

/-- The arguments of a BARRIER flit for a device (R260). -/
def barArgs (d : Dev) (h s fa pay : Nat) : List Nat :=
  [h, fa, s, fget d (barReg R.GAT_BAR_PARENT h s) F.GAT_BAR_PARENT_GROUP,
   fget d (barReg R.GAT_BAR_STATE h s) F.GAT_BAR_STATE_GGEN, fget d (barReg R.GAT_BAR_STATE h s) F.GAT_BAR_STATE_SEQ, pay]

/-- A release (R259): the payload is stored and forwarded to every child that arrived, the waiters are released, and the
next sequence begins with the arrivals held for it. -/
def barRelease (d : Dev) (h s pay : Nat) : Dev :=
  let b := barSlot d h s
  let d := b.cur.foldl (fun d fa => sendTo d fa 0 .barrierRelease (barArgs d h s fa pay) [] (56 + h) (56 + h)) d
  let d := barSignal d h s pay
  let st := barReg R.GAT_BAR_STATE h s
  let d := fset d st F.GAT_BAR_STATE_SEQ (fget d st F.GAT_BAR_STATE_SEQ + 1)
  let d := fsets d (barReg R.GAT_BAR_ARRIVED h s) [(F.GAT_BAR_ARRIVED_LOCAL, 0), (F.GAT_BAR_ARRIVED_SENT, 0)]
  let d := setBarSlot d h s { cur := b.next, next := [], curPay := b.nextPay, nextPay := 0 }
  { d with barEvents := d.barEvents ++ [(true, h * 64 + s, pay)] }

/-- The engine of a slot: the local part, then combining (R259). -/
def barStep (h s : Nat) : Nat → Dev → Dev
  | 0, d => d
  | n + 1, d =>
    let c := barReg R.GAT_BAR_CTRL h s
    let a := barReg R.GAT_BAR_ARRIVED h s
    if !flag d c F.GAT_BAR_CTRL_VALID then d
    else
      let g := fget d c F.GAT_BAR_CTRL_ARRIVE_GATE
      let own := (rd d (barReg R.GAT_BAR_PAYLOAD h s)).toNat
      let d := if !flag d a F.GAT_BAR_ARRIVED_LOCAL && gateMet d (56 + h) g then
          let d := (gateCore d (56 + h) g (.consume (gateThresh d (56 + h) g)) .engine).1
          let d := fset d a F.GAT_BAR_ARRIVED_LOCAL 1
          { d with barEvents := d.barEvents ++ [(false, h * 64 + s, own)] }
        else d
      let b := barSlot d h s
      if flag d a F.GAT_BAR_ARRIVED_LOCAL && min 141 (fget d c F.GAT_BAR_CTRL_CHILDREN) ≤ b.cur.length then
        let pay := own ||| b.curPay
        if flag d c F.GAT_BAR_CTRL_ROOT then barStep h s n (barRelease d h s pay)
        else if flag d a F.GAT_BAR_ARRIVED_SENT then d
        else
          let p := fget d (barReg R.GAT_BAR_PARENT h s) F.GAT_BAR_PARENT_FA
          sendTo (fset d a F.GAT_BAR_ARRIVED_SENT 1) p 0 .barrierArrive (barArgs d h s p pay) [] (56 + h) (56 + h)
      else d

/-- The engine runs on a slot until it waits. A barrier with early arrivals may follow at once: as many as the counts kept in
the arrive gate allow. -/
def barEngine (d : Dev) (h s : Nat) : Dev :=
  let g := fget d (barReg R.GAT_BAR_CTRL h s) F.GAT_BAR_CTRL_ARRIVE_GATE
  barStep h s (gateCount d (56 + h) g / max 1 (gateThresh d (56 + h) g) + 2) d

/-- The group that a barrier slot names, by head × 64 + slot. -/
def slotGroup (d : Dev) (k : Nat) : Nat := fget d (barReg R.GAT_BAR_PARENT (k / 64) (k % 64)) F.GAT_BAR_PARENT_GROUP

/-- A barrier slot is in use. -/
def slotInUse (d : Dev) (k : Nat) : Bool := flag d (barReg R.GAT_BAR_CTRL (k / 64) (k % 64)) F.GAT_BAR_CTRL_VALID

/-- The gates that a barrier slot names, with their dies: its arrive gate and the release gate of each die in its mask. -/
def slotGates (d : Dev) (k : Nat) : List (Nat × Nat) :=
  let c := barReg R.GAT_BAR_CTRL (k / 64) (k % 64)
  (56 + k / 64, fget d c F.GAT_BAR_CTRL_ARRIVE_GATE)
    :: (barDies d (k / 64) (k % 64)).map fun die => (die, fget d c F.GAT_BAR_CTRL_RELEASE_GATE)

/-- The slots of a head whose arrive gate is the one named. -/
def barOnGate (d : Dev) (h gate : Nat) : Dev :=
  (List.range 64).foldl (fun d s =>
    let c := barReg R.GAT_BAR_CTRL h s
    if flag d c F.GAT_BAR_CTRL_VALID && fget d c F.GAT_BAR_CTRL_ARRIVE_GATE = gate then barEngine d h s else d) d

/-- Performs a gate operation at the gate's home; at a head, the barrier engine sees the gate. -/
def performGate (d : Dev) (die gate : Nat) (op : GateOp) (r : Requester) : Dev × Option FaultCode :=
  let x := gateCore d die gate op r
  if 56 ≤ die && x.2.isNone then (barOnGate x.1 (die - 56) gate, none) else x

/-- A gate fault of a block's or pump's operation, recorded at the issuer's die (R179). -/
def signalFault (d : Dev) (s : SignalId) (f : FaultCode) : Dev :=
  fault d s.die { code := f, unit := s.unit, block := s.block, bundle := s.bundle, cycle := s.cycle, tag := s.tag,
                  aux := s.aux }

/-- Where a gate is homed (R178): at a block, at the Town Hall, or at a head's gate bank; at die control while its block is
isolated (R384). -/
def gateHome (d : Dev) (die gate : Nat) : Place :=
  if 48 ≤ die then .edge die
  else if 240 ≤ gate then .hall die
  else if bit (rd d (ctl R.DIE_GATE_REHOME die 0)).toNat (gate / 10) then .control die
  else .square die (gate / 10)

/-- As `performGate`, for a signal or threshold operation of a block or pump: an express flit to the gate's home. -/
def localGateOp (d : Dev) (die gate : Nat) (op : GateOp) (r : Requester) (s : SignalId) : Dev :=
  let d := match r with
    | .block bd b => travel d (.square bd b) (gateHome d die gate) 1
    | _ => d
  match performGate d die gate op r with
  | (d, none) => d
  | (d, some f) => signalFault d s f

/-- The gate and die of a fault's auxiliary field. -/
def gateAux (die gate : Nat) : Nat := gate + die * 512

/-- The operation code and value of GAT_OP. -/
def GateOp.codes : GateOp → Nat × Nat
  | .signal n => (0, n) | .consume n => (1, n) | .setThresh v => (2, v) | .addThresh v => (3, v) | .reset => (4, 0)

/-- The operation of a GAT_OP code and value; codes 5 to 7 have no effect. -/
def gateOpOf (opc v : Nat) : Option GateOp :=
  match opc with
  | 0 => some (.signal v) | 1 => some (.consume v) | 2 => some (.setThresh v) | 3 => some (.addThresh v)
  | 4 => some .reset | _ => none

/-- A signal to a gate of another device (R250): an express gate operation, outstanding until its GATE_ACK. Where no
route carries it, it ends at once as unanswered. -/
def remoteSignal (d : Dev) (fa die gate n st : Nat) (s : SignalId) : Dev :=
  match routeHead d fa 0 with
  | none => signalFault (countTimeout d (primaryHead d)) s .remoteTimeout
  | some h =>
    let x := freshXid d
    let d := addTxn x.1 h (.gate x.2) (.signal s)
    let d := if s.step then
        let y := dieSt d s.die
        setDie d s.die { y with signals := y.signals + 1 }
      else d
    sendTo d fa 0 .gateOp [h, fa, die, st, x.2, gate, 0, n] [] 64 die

/-- Arms a Town Hall wait on a gate (R179): a condition that holds completes it at once; a full list refuses it. -/
def hallwaitArm (d : Dev) (die gate core coreDie : Nat) : Dev :=
  let a := gateReg R.GAT_HALLWAIT die gate
  let d := fsets d a [(F.GAT_HALLWAIT_CORE, core), (F.GAT_HALLWAIT_DIE, coreDie)]
  if gateMet d die gate then releaseWaiter die gate d (.hall coreDie core)
  else
    let l := waiters d die gate
    if 64 ≤ l.length then fset d a F.GAT_HALLWAIT_REFUSED 1 else setWaiters d die gate (l ++ [.hall coreDie core])

end Sys2Proof.Machine
end

