-- ==== Sys2Proof/Machine/Quartet.lean ====
section
/-! DEFINITION. Machine/Quartet: the tile loader, passes and basin entries (04_matrix_quartet.md), and the seal rules
(R49, R50). -/

namespace Sys2Proof.Machine

/-! ## Expanding a tile (R33 to R36, R74, R75, R80) -/

/-- A weight as it enters a plane: the value, whether it comes from a NaN encoding that was read, whether the expansion
generated a NaN, and what R38 counts. -/
structure Weight where
  val : Nat
  admitted : Bool
  gen : Bool
  ovf : Bool
  unf : Bool
deriving DecidableEq, Repr

/-- The zero of a format (R75). -/
def zeroOf : Fmt → Nat
  | .lns16 => 0x4000
  | .lns8 => 0x40
  | _ => 0

/-- A weight used as stored. -/
def storedWeight (f : Fmt) (v : Nat) : Weight :=
  { val := v, admitted := isNanIn f v, gen := false, ovf := false, unf := false }

/-- An entry of a codebook (R34), converted to the tile format in mixed mode (R36). -/
def codebookWeight (t : TileDesc) (record code : Nat) : Weight :=
  let w := 8 * t.cbFmt.bytes
  let e := bits record (w * code) w
  if t.cbFmt = t.tfmt then storedWeight t.tfmt e
  else
    let c := convert t.cbFmt t.tfmt 0 e
    { val := c.val, admitted := isNanIn t.cbFmt e, gen := false, ovf := c.ovf, unf := c.unf }

/-- A code expanded with a scale record (R35): the FP32 product of scale and `code - z`, converted to the tile format. -/
def scaleWeight (t : TileDesc) (record code : Nat) : Weight :=
  let s := bits record 0 16 <<< 16
  let z := bits record 16 4
  let p := numRes [s] (mulV (val32 s) (.fin (decide (code < z)) (Int.ofNat code - Int.ofNat z).natAbs 0))
  let c := ofF32 t.tfmt p.val
  let exceeds := isInf32 p.val && !isInf32 s
  { val := c.val, admitted := isNan32 s, gen := p.gen, ovf := exceeds || c.ovf, unf := c.unf }

/-- The weight of output column `n`, position `k`, from the image and the slot's records. -/
def weightAt (t : TileDesc) (image slot : List Byte) (slotValid : Bool) (n k : Nat) : Weight :=
  let depth := tileDepth t.tfmt
  if t.store = 0 then
    let i := if t.column then k * 64 + n else n * depth + k
    storedWeight t.tfmt (byteField image (i * t.tfmt.bytes) t.tfmt.bytes)
  else
    let cw := codeWidth t.store
    let colBytes := depth * cw / 8
    let code := bits (byteField image (n * colBytes + k * cw / 8) 2) (k * cw % 8) cw
    let g := groupsPerColumn t
    let r := recordSize t
    let record := byteField slot (n * g * r + (k / 128) * r) r
    if !slotValid then storedWeight t.tfmt (zeroOf t.tfmt)
    else if t.scale then scaleWeight t record code
    else codebookWeight t record code

/-- All weights of a tile: 64 columns of the tile's depth. -/
def tileWeights (t : TileDesc) (image slot : List Byte) (slotValid : Bool) : List (List Weight) :=
  (List.range 64).map fun n => (List.range (tileDepth t.tfmt)).map fun k => weightAt t image slot slotValid n k

/-! ## Loading a tile (R76, R79, R113) -/

/-- Identity of a fault that a tile load meets (R73): the bundle of the pass that needs the tile, and of its rows the first
(R191 does not say which of several; DESIGN CHOICE, log entry 109). -/
def loadFault (x : Block) (b : Nat) (bundle tag : Nat) (rowBase : Nat) (code : FaultCode) (unit : Nat) : FaultEv :=
  { code, unit, block := b, bundle, cycle := x.seq.cycle, row := some rowBase, tag }

/-- The position from which the next pass is looked for: the pass of the bundle in issue, where it has not been
performed, comes first. -/
def searchFrom (d : Dev) (die b : Nat) (u : UnitCtx) : Option SeqPos :=
  let q := (blk d die b).seq
  if q.issuing.isEmpty || q.issuing.contains .matrix then some q.pos
  else (bundleAt d die b u q.pos.pc).bind fun bu => advance q.pos bu

/-- The fuel of the search for the next pass. -/
def passFuel : Nat := pow2 40

/-- The next pass of the running unit, its position and slot. -/
def nextPass (d : Dev) (die b : Nat) (u : UnitCtx) : Option (SeqPos × MatrixSlot) :=
  (searchFrom d die b u).bind (findPass d die b u passFuel)

/-- Records a parity error of a cistern line (R113): `reader` 0 tile loader, 1 pump, 2 scrubber; `outcome` as
CIS_PERR_STATUS codes it. -/
def cisParity (d : Dev) (die b line reader outcome : Nat) : Dev :=
  let d := detect d (locId die 0 (b * 32 + line / 4096))
  let st := ctl R.CIS_PERR_STATUS die b
  let cnt := ctl R.CIS_PERR_CNT die b
  let d := if outcome = 0 then fcnt d cnt F.CIS_PERR_CNT_REREAD 1
    else if outcome = 1 then fcnt d cnt F.CIS_PERR_CNT_RELOAD 1 else d
  if flag d st F.CIS_PERR_STATUS_VALID then d
  else
    let d := fsets d st [(F.CIS_PERR_STATUS_VALID, 1), (F.CIS_PERR_STATUS_OUTCOME, outcome),
      (F.CIS_PERR_STATUS_READER, reader)]
    fset d (ctl R.CIS_PERR_LINE die b) F.CIS_PERR_LINE_LINE line

/-- A cistern line's sub-bank has a ground copy (R114). -/
def groundValid (d : Dev) (die b line : Nat) : Bool :=
  flag d (ctl (R.CIS_GROUND + 4 * (line / 4096)) die b) F.CIS_GROUND_VALID

/-- A line read with a parity error (R113): one or two failures clear on re-read; three need the ground copy, and without
one the repair fails at once. Answers whether a repair is now in progress. A failed repair of a line that the tile loader
or the scrubber reads aborts a running step (log entry 35); a pump's descriptor faults. -/
def lineError (d : Dev) (die b reader : Nat) (e : LineErr) (f : FaultEv) : Dev × Bool :=
  if e.fails = 0 then (d, false)
  else if e.fails ≤ 2 then (cisParity d die b e.line reader 0, false)
  else if groundValid d die b e.line then
    let x := blk d die b
    (setBlk d die b { x with repairs := x.repairs ++ [{ line := e.line, reader, tries := 0 }] }, true)
  else
    let d := cisParity d die b e.line reader 2
    (if reader = 0 || (reader = 2 && d.step.running) then
        fault d die { f with code := .cistern, unit := 0xA, aux := e.line }
      else d, false)

/-- Reads the rows of a well tile from the next one on, each when its fill mark allows (R79). -/
def readTileRows (d : Dev) (die b : Nat) (u : UnitCtx) : Nat → TileLoad → TileLoad × Option (FaultCode × Nat)
  | 0, l => (l, none)
  | n + 1, l =>
    if l.rows ≤ l.nextRow then ({ l with wait := none }, none)
    else
      let img := if l.alt then l.desc.img1 else l.desc.img0
      match locateReady d die b u false (wideAddr (img + l.nextRow)) with
      | .bad c => (l, some (c, img + l.nextRow))
      | .row r =>
        match markCheck (blk d die b) false r l.desc.gen with
        | .wait => ({ l with wait := some (markWait false r l.desc.gen) }, none)
        | .overtaken => (l, some (.overtaken, img + l.nextRow))
        | .ok =>
          readTileRows d die b u n
            { l with nextRow := l.nextRow + 1, wait := none,
                     lines := l.lines ++ [wellRead d die b (rowAddr false r) 1024] }

/-- Goes on with the load of a well tile; `bad` are the rows found in error, which affect every row of the pass
(R122). -/
def loadStep (d : Dev) (die b : Nat) (u : UnitCtx) (l : TileLoad) (bad : List BadRead) : Dev :=
  let r := readTileRows d die b u 32 l
  let first := (if l.alt then l.desc.img1 else l.desc.img0) + u.base.wide
  let reads (e : BadRead) : Bool := match e with
    | .wide k => decide (first + l.nextRow ≤ k ∧ k < first + r.1.nextRow)
    | _ => false
  let d := wellParities d die b 1 (bad.filter reads) ((List.range (4 * l.vcount)).map fun q => l.rowBase + q)
  let x := blk d die b
  match r.2 with
  | some (c, row) =>
    let d := setBlk d die b { x with load := none }
    fault d die { loadFault x b l.bundle l.tag l.rowBase c 0x4 with kind := .wide, entry := row }
  | none => setBlk d die b { x with load := some r.1 }

/-- The load of a well tile goes on where its fill mark allows (R79). -/
def tileLoadOn (d : Dev) (die b : Nat) (bad : List BadRead) : Dev :=
  let x := blk d die b
  match x.load with
  | none => d
  | some l => if l.ready || !l.desc.fromWell then d else loadStep d die b (unitCtx d die b x.seq.slot) l bad

/-- A tile load starts (R76): the descriptor of the next pass, the alternative its first row's epoch chooses (R83), the
plane not in use, the lines and their parity outcomes. The load of a unit's first pass starts once the bundle before the
pass's has issued. A fault it meets is raised with the identity of the bundle that holds the pass (R73). -/
def tileLoadStart (d : Dev) (die b : Nat) (errs : List LineErr) (bad : List BadRead) : Dev :=
  let x := blk d die b
  let u := unitCtx d die b x.seq.slot
  if !stepLive d || x.load.isSome || x.seq.phase != .running then d
  else
    match nextPass d die b u with
    | none => d
    | some (p, m) =>
      if !x.seq.passed && p != x.seq.pos then d
      else
      let ti := areg p.regs m.treg + m.tile
      let rowBase := areg p.regs m.rreg + m.rowOff
      let bundle := bundleAddr u.slot p.pc
      let ident (c : FaultCode) (unit : Nat) : FaultEv := loadFault x b bundle m.tag rowBase c unit
      match tileAt d die b u ti with
      | none => d   -- the decode error is raised when its bundle reaches issue (R175)
      | some t =>
        if !pairingOk d.step.hdr.strict t then fault d die (ident .formatMismatch 0x4)
        else
          match (if t.epochAlt then (rowEntry d die b u rowBase).map entryEpoch else some false) with
          | none => fault d die (ident ((rowLoc d die b u rowBase).fault.getD .segment) 0x9)
          | some alt =>
            let l : TileLoad :=
              { bundle, tile := ti, desc := t, alt, rowBase, tag := m.tag, vcount := m.vcount, plane := x.seq.nextPlane, nextRow := 0,
                rows := if t.fromWell then imageLines t else 0, lines := [], expLines := [], repairs := [],
                ready := false, wait := none }
            let all := cisternLines t alt
            let abs (i : Nat) : Nat := i + u.base.cis
            let forced := forcedSubs x (all.map abs)
            if all.any fun i => u.hdr.cisLines ≤ i ∨ 131072 ≤ i + u.base.cis then fault d die (ident .segment 0x4)
            else
              match all.find? fun i => pageBad d (gblock die b * 64 + abs i / 2048) with
              | some i =>
                -- a page that no repair has mended aborts the step that reads it (R283)
                fault d die { ident .cistern 0xA with aux := abs i }
              | none =>
                if all.any fun i => !cisReady d die b (abs i) then fault d die (ident .bankDown 0x4)
                else if !forced.isEmpty then holdClaims d die b forced
                else
                  let rdLine (i : Nat) : List Byte :=
                    memRead d.epoch (unitCis (gblock die b)) x.cistern (abs i * 1024) 1024
                  let mine := errs.filter fun e => all.any fun i => abs i == e.line
                  let r := mine.foldl (fun (s : Dev × List Nat) e =>
                    let q := lineError s.1 die b 0 e (ident .cistern 0xA)
                    (q.1, if q.2 then s.2 ++ [e.line] else s.2)) (d, [])
                  let ls := loadLines t alt
                  let l := { l with lines := if t.fromWell then [] else ls.1.map rdLine, expLines := ls.2.map rdLine,
                                    repairs := r.2 }
                  -- a line whose repair failed aborts the step; the load ends at its fault
                  if !stepLive r.1 then r.1
                  else if t.fromWell then loadStep r.1 die b u l bad
                  else setBlk r.1 die b { blk r.1 die b with load := some l }

/-- The NaN event of a tile load: one admitted event however many encodings it read (R39), or a generated one for each
product that made a NaN; an admitted event's key has the pass's first row (R40). The spec names no batch row for the
generated one, which takes the same, and no row or entry where the tile lies in the cistern: INDEX is 0 then and ENTRY_KIND
that of a well row (DESIGN CHOICE, log entry 28). -/
def loadNan (x : Block) (b : Nat) (l : TileLoad) (admitted : Bool) : NanEv :=
  { admitted, unit := 0x4, block := b, cycle := x.seq.cycle, row := l.rowBase, bundle := l.bundle, basin := false,
    narrow := false, entry := if l.desc.fromWell then (if l.alt then l.desc.img1 else l.desc.img0) else 0,
    tag := l.tag }

/-- The batch rows of the pass that needs a tile. -/
def TileLoad.passRows (l : TileLoad) : List Nat := (List.range (4 * l.vcount)).map fun q => l.rowBase + q

/-- The last line of a tile has been granted (R76): its records enter the expansion slot, the tile is expanded into the
shadow plane of all four arrays, and the pass that needs it may issue. It does not come about while a forced action holds
a sub-bank of it (R110). A NaN event of the load is attributed to every row of the pass: an admitted one by R41, and a
generated one, for which R41 names no rows, alike (DESIGN CHOICE, log entry 28). -/
def tileReady (d : Dev) (die b : Nat) : Dev :=
  let x := blk d die b
  match x.load with
  | none => d
  | some l =>
    if l.ready || !l.repairs.isEmpty || l.wait.isSome || (l.desc.fromWell && l.nextRow < l.rows)
        || !(forcedSubs x (loadingLines d die b)).isEmpty then d
    else
      let t := l.desc
      let slotAt := t.expSlot * 4096
      let exp := if t.expLoad then memWrite x.expSlots slotAt l.expLines.flatten else x.expSlots
      let ev := ctl R.SEQ_MQ_EXP_VALID die b
      let d := if t.expLoad then fset d ev ⟨t.expSlot, 1⟩ 1 else d
      let valid := bit (rd d ev).toNat t.expSlot
      let slotBytes := memRead d.epoch (unitExp (gblock die b)) exp slotAt 4096
      let ws := tileWeights t l.lines.flatten slotBytes valid
      let flat := ws.flatten
      let plane : PlaneTile :=
        { fmt := t.tfmt, weights := ws.map fun c => c.map Weight.val, tenant := t.tenant, epochAlt := t.epochAlt }
      let x := { blk d die b with
        expSlots := exp, planes := mset x.planes l.plane plane, load := some { l with ready := true } }
      let adm := flat.any Weight.admitted
      let gens := (flat.filter Weight.gen).length
      let fx := [Fx.cvt die (flat.filter Weight.ovf).length (flat.filter Weight.unf).length]
        ++ (if adm then [Fx.nan die (loadNan x b l true)] else [])
        ++ (List.replicate gens (Fx.nan die (loadNan x b l false)))
        ++ (if adm || 0 < gens then [Fx.nanRows l.passRows] else [])
      putBlk d die b (x, fx)

/-- The identity of a fault of a repair: of the load that reads the line, where one does. -/
def repairFault (x : Block) (b : Nat) (r : Repair) (code : FaultCode) : FaultEv :=
  match x.load with
  | some l =>
    if r.reader = 0 then { loadFault x b l.bundle l.tag l.rowBase code 0xA with aux := r.line }
    else { loadFault x b 0 0 0 code 0xA with row := none, aux := r.line }
  | none => { loadFault x b 0 0 0 code 0xA with row := none, aux := r.line }

/-- A repair has failed: the load that reads the line ends; a failure met by the tile loader, or by the scrubber while a
step runs, aborts the step (R113, log entry 35). -/
def repairFailed (d : Dev) (die b : Nat) (r : Repair) (rs : List Repair) (code : FaultCode) : Dev :=
  let x := blk d die b
  let d := setBlk d die b { x with repairs := rs, load := if r.reader = 0 then none else x.load }
  if r.reader = 0 || (r.reader = 2 && d.step.running) then fault d die (repairFault x b r code) else d

/-- The reservoir answers a repair (R113): the line is written from the ground copy and served; where the delivered line
fails parity or nothing is delivered, it is tried once more, and a second failure is CIS_REPAIR_FAIL, which aborts the
step. `data` is what the ground read delivered with good parity, if anything. A line in a bank that is not ready is not
written, and the read that waits for it meets BANK_DOWN (R124). -/
def groundRepairDone (d : Dev) (die b : Nat) (data : Option (List Byte)) : Dev :=
  let x := blk d die b
  match x.repairs with
  | [] => d
  | r :: rs =>
    match data with
    | some bytes =>
      if !cisReady d die b r.line then repairFailed d die b r rs .bankDown
      else
      let cis := memWrite x.cistern (r.line * 1024) (bytes.take 1024)
      let u := unitCtx d die b x.seq.slot
      let load := x.load.map fun l =>
        let ls := loadLines l.desc l.alt
        let put (lines : List Nat) (have_ : List (List Byte)) : List (List Byte) :=
          (lines.zip have_).map fun p => if p.1 + u.base.cis = r.line then bytes.take 1024 else p.2
        { l with lines := put ls.1 l.lines, expLines := put ls.2 l.expLines,
                 repairs := l.repairs.filter fun i => i != r.line }
      let d := setBlk d die b { x with cistern := cis, repairs := rs, load }
      cisParity d die b r.line r.reader 1
    | none =>
      if r.tries = 0 then setBlk d die b { x with repairs := { r with tries := 1 } :: rs }
      else repairFailed (cisParity d die b r.line r.reader 2) die b r rs .cistern

/-! ## Passes (R68, R69, R171) -/

/-- The bytes of a vector slot (R69). -/
def vectorSlotBytes (f : Fmt) : Nat := tileDepth f * f.bytes

/-- The well address of the activation slot of vector `q`, as a unit address. -/
def slotAddr (p : PassRun) (q : Nat) : Nat := (p.actBase + q * p.actStride) * vectorSlotBytes p.desc.afmt

/-- What reading the four arrays' activation slots of vector `j` gives. -/
inductive VecRead where
  | ok (v : List (List Nat))
  | wait (w : Wait)
  | bad (c : FaultCode) (array row : Nat)
deriving DecidableEq, Repr

/-- Reads the four activation slots of vector `j` from array `a` on: address, READY bit and fill mark of each row are
checked (R163, R119). A vector of another tenant's row enters as +0.0, written as no elements (R82). -/
def readVectors (d : Dev) (die b : Nat) (u : UnitCtx) (p : PassRun) (j : Nat) : List Nat → List (List Nat) → VecRead
  | [], acc => .ok acc
  | a :: as, acc =>
    let q := a * p.vcount + j
    let addr := slotAddr p q
    match locateReady d die b u false addr with
    | .bad c => .bad c a (addr / 1024)
    | .row r =>
      match markCheck (blk d die b) false r p.actGen with
      | .wait => .wait (markWait false r p.actGen)
      | .overtaken => .bad .overtaken a (addr / 1024)
      | .ok =>
        let f := p.desc.afmt
        let bs := wellRead d die b (rowAddr false r + addr % 1024) (vectorSlotBytes f)
        let v := if p.masked.contains q then [] else groupLe f.bytes (tileDepth f) bs
        readVectors d die b u p j as (acc ++ [v])

/-- The wide row of the host that a vector's slot lies in. -/
def vecRow (u : UnitCtx) (p : PassRun) (q : Nat) : Nat := slotAddr p q / 1024 + u.base.wide

/-- The chain distance (R71): a pass may read column n of an entry 70 cycles after the vector that an earlier pass writes
there has entered. -/
def chainDistance : Nat := 70

/-- The north-edge read of the next vector of a pass waits (R71): an earlier-issued pass in flight writes the entry, and
its vector has not entered, or entered less than the chain distance ago. `now` is the die's elapsed cycle; vectors of a
pass enter one per cycle. A FIRST pass makes no such read. -/
def chainWaits (x : Block) (now : Nat) (p : PassRun) : Bool :=
  let e := p.entry + p.entered
  !p.first && x.passes.any fun o =>
    o.seq < p.seq && decide (o.entry + o.done ≤ e ∧ e < o.entry + o.vcount) && !(o.stopped && decide (o.entry + o.entered ≤ e))
      && (decide (o.entry + o.entered ≤ e) || decide (max now (p.start + p.entered) < o.start + (e - o.entry) + chainDistance))

/-- Lets the vectors of a pass enter the arrays, one after another, until one waits or faults (R68, R193). A vector that
has waited enters now, and the later ones follow it. -/
def enterVectors (d : Dev) (die b : Nat) (u : UnitCtx) (now : Nat) : Nat → PassRun → PassRun × Option (FaultCode × Nat × Nat)
  | 0, p => (p, none)
  | n + 1, p =>
    if p.vcount ≤ p.entered || p.stopped then ({ p with wait := none }, none)
    else
      match readVectors d die b u p p.entered [0, 1, 2, 3] [] with
      | .ok v =>
        if chainWaits (blk d die b) now p then
          ({ p with wait := some { cause := .basin, on := .basin (p.entry + p.entered) } }, none)
        else
          let start := if p.wait.isSome then max p.start (now - p.entered) else p.start
          enterVectors d die b u now n
            { p with entered := p.entered + 1, vectors := p.vectors ++ [v], start, wait := none }
      | .wait w => ({ p with wait := some w }, none)
      | .bad c a row => ({ p with stopped := true, wait := none }, some (c, a, row))

/-- The batch rows whose activation lies in a well row found in error (R122). -/
def affectedRows (u : UnitCtx) (p : PassRun) (bad : List BadRead) : List Nat :=
  ((List.range (4 * p.vcount)).filter fun q => bad.contains (.wide (vecRow u p q))).map fun q => p.rowBase + q

/-- A row is one that the vectors from those already in the arrays up to vector `upto` read. -/
def entryReads (u : UnitCtx) (p : PassRun) (upto : Nat) : BadRead → Bool
  | .wide k =>
    [0, 1, 2, 3].any fun a => (List.range (upto - p.entered)).any fun i => vecRow u p (a * p.vcount + p.entered + i) = k
  | _ => false

/-- Goes on with a pass in flight. While an earlier pass is stalled its vectors are frozen (R72). -/
def passStep (d : Dev) (die b : Nat) (u : UnitCtx) (p : PassRun) (bad : List BadRead) : Dev :=
  if (blk d die b).quartetWait.isSome then d
  else
  let r := enterVectors d die b u (dieSt d die).elapsed 257 p
  let bad := bad.filter (entryReads u p r.1.entered)
  let d := wellParities d die b 0 bad (affectedRows u p bad)
  let x := blk d die b
  let d := setBlk d die b { x with passes := x.passes.map fun q => if q.seq = p.seq then r.1 else q }
  let d := stallBlk d die b r.1.wait
  match r.2 with
  | none => d
  | some (c, a, row) =>
    fault d die
      { code := c, unit := a, block := b, bundle := p.bundle, cycle := x.seq.cycle, kind := .wide, entry := row,
        row := some (p.rowBase + a * p.vcount + r.1.entered), tag := p.tag }

/-- A pass issues (R68, R69): it takes the tile in its plane, its fields with the address registers added, and its
vectors begin to enter. `masked` are the vectors whose rows belong to another tenant than the tile's (R82). -/
def passIssue (d : Dev) (die b : Nat) (u : UnitCtx) (m : MatrixSlot) (bad : List BadRead) : Dev :=
  let x := blk d die b
  match x.load with
  | none => d
  | some l =>
    let regs := x.seq.pos.regs
    let rowBase := areg regs m.rreg + m.rowOff
    let plane := mgetD x.planes l.plane { fmt := l.desc.tfmt, weights := [], tenant := 0, epochAlt := false }
    let masked :=
      if l.desc.tenant = 0 then []
      else (List.range (4 * m.vcount)).filter fun q =>
        (rowEntry d die b u (rowBase + q)).map entryTenant != some l.desc.tenant
    let start := (dieSt d die).elapsed - (x.seq.cycle - x.seq.lastIssue)
    let p : PassRun :=
      { seq := x.issueNo, bundle := bundleAddr u.slot x.seq.pos.pc, slot := u.slot, start, desc := l.desc, plane,
        vcount := m.vcount, actBase := areg regs m.areg + m.actOff, actStride := m.actStride, actGen := m.actGen,
        rowBase, entry := u.base.entry + m.entry, klen := m.klen, tail := m.tail, first := m.first,
        sealing := m.sealing, tag := m.tag, entered := 0, vectors := [], stopped := false, done := 0, masked,
        faulted := false, wait := none }
    let q := { x.seq with nextPlane := 1 - l.plane, lastPass := some (start, m.vcount), passed := true }
    let d := setBlk d die b
      { x with issueNo := x.issueNo + 1, load := none, passes := x.passes ++ [p], seq := q }
    let d := fcnt d (ctl R.SEQ_MQ_TENANT_CNT die b) F.SEQ_MQ_TENANT_CNT_COUNT masked.length
    passStep d die b u p bad

/-! ## Entries (R45, R49, R50, R71) -/

/-- The partial of a column after a pass's terms, and how many NaN events its products and additions made (R45, R67,
R39). -/
def columnSum (f : Fmt) : List Nat → List Nat → Nat → Nat → Nat × Nat
  | a :: as, w :: ws, s, ev =>
    let t := arrayProduct f a w
    let r := fAdd s t.val
    columnSum f as ws r.val (ev + b2n t.gen + b2n r.gen)
  | _, _, s, ev => (s, ev)

/-- The 64 values of an entry after a pass, and its NaN events. -/
def entrySums (p : PassRun) (act : List Nat) (start : List Nat) : List Nat × Nat :=
  let rs := (start.zip p.plane.weights).map fun c => columnSum p.desc.afmt (act.take p.klen) c.2 c.1 0
  (rs.map Prod.fst, (rs.map Prod.snd).sum)

/-- The seal check of an entry (R50): the counter after the pass, or none where the pass adds to a full or sealed entry,
carries the counter beyond 256, or seals at another count. -/
def sealCheck (p : PassRun) (e : BasinEntry) : Option Nat :=
  let c := if p.first then 0 else e.counter
  let n := c + p.klen + p.tail
  if (!p.first && e.sealBit) || c ≥ 256 || n > 256 || (p.sealing && n != 256) then none else some n

/-- What completing one array's entry does: the entry, and its NaN events. A pass that fails the seal check leaves value
and counter as they stood before it, as R50 says of the other two faults; of a SEAL at another count R50 says that the
value is unchanged, and nothing of the counter (DEDUCED, log entry 27). -/
def completeEntry (p : PassRun) (old : BasinEntry) (vals act : List Nat) : BasinEntry × Nat :=
  match sealCheck p old with
  | none =>
    -- a seal at another count leaves the entry unsealed (R50)
    (if p.sealing && p.first then { old with sealBit := false } else old, 0)
  | some n =>
    let r := entrySums p act (if p.first then List.replicate 64 0 else vals)
    ({ value := some r.1, counter := n, sealBit := p.sealing }, r.2)

/-- The next entry of the oldest pass completes in all 64 columns (R68, R71): the seal check is made and the counter and
sealed bit are updated. It does not come about while an earlier-issued whole-entry read of the entry is still to take
place, or while the pass is stalled and so frozen (R72). `bad` are the arrays' entries whose north-edge read failed
parity. A seal that the four arrays' entries fail together is recorded with array 0's entry and its row (DESIGN CHOICE, log
entries 27 and 109). -/
def entryComplete (d : Dev) (die b : Nat) (bad : List BadRead) : Dev :=
  let x := blk d die b
  match x.passes with
  | [] => d
  | p :: ps =>
    let u := unitCtx d die b p.slot
    match p.vectors with
    | [] => d
    | v :: vs =>
      let e := p.entry + p.done
      if p.wait.isSome then d
      else if readerPending x u.base.entry p.seq e then
        let w : Wait := { cause := .basin, on := .basin e }
        raiseHold (setBlk d die b { x with quartetWait := some w }) die b .basin
      else
        let j := p.done
        let rs := [0, 1, 2, 3].map fun a =>
          let k := a * 1024 + e
          (a, k, completeEntry p (basinAt x k) (basinVals d die b k) (v.getD a []))
        let failed := rs.any fun r => (sealCheck p (basinAt x r.2.1)).isNone
        let basins := rs.foldl (fun m r => mset m r.2.1 r.2.2.1) x.basins
        let p' := { p with vectors := vs, done := p.done + 1, faulted := p.faulted || failed }
        let finished := p'.done = p'.vcount || (p'.stopped && p'.done = p'.entered)
        let x' := { x with basins, passes := if finished then ps else p' :: ps, quartetWait := none }
        let nans := rs.flatMap fun r =>
          List.replicate r.2.2.2
            (Fx.nan die { admitted := false, unit := r.1, block := b, cycle := x.seq.cycle,
                          row := p.rowBase + r.1 * p.vcount + j, bundle := p.bundle, basin := true, narrow := false,
                          entry := r.2.1, tag := p.tag })
        let nanRow := rs.filterMap fun r => if r.2.2.2 = 0 then none else some (p.rowBase + r.1 * p.vcount + j)
        let fx := nans ++ [Fx.nanRows nanRow]
          ++ (if p'.done = p'.vcount then [Fx.cnt (ctl R.SEQ_MQ_PASS_CNT die b) F.SEQ_MQ_PASS_CNT_COUNT 1] else [])
          ++ (if failed && !p.faulted then
                [Fx.fault die { code := .sealCount, unit := 0, block := b, bundle := p.bundle, cycle := x.seq.cycle,
                                kind := .basin, entry := e, row := some (p.rowBase + j), tag := p.tag }] else [])
        let d := putBlk d die b (x', fx)
        -- a FIRST pass makes no north-edge read
        let mine := if p.first then [] else bad.filter fun r => [0, 1, 2, 3].any fun a => r == .basin (a * 1024 + e)
        wellParities d die b 0 mine
          ((List.range 4).filterMap fun a =>
            if bad.contains (.basin (a * 1024 + e)) then some (p.rowBase + a * p.vcount + j) else none)

/-- The wait of a stalled pass ends (R72): the frozen passes go on. -/
def quartetStallEnd (d : Dev) (die b : Nat) (bad : List BadRead) : Dev :=
  let x := blk d die b
  let reader := match x.passes with
    | p :: _ => x.quartetWait.isSome && readerPending x (unitCtx d die b p.slot).base.entry p.seq (p.entry + p.done)
    | [] => false
  if reader then d
  else
  let d := setBlk d die b { x with quartetWait := none }
  match x.passes.find? fun p => p.wait.isSome || p.entered < p.vcount with
  | none => d
  | some p => if p.stopped then d else passStep d die b (unitCtx d die b p.slot) p bad

end Sys2Proof.Machine
end

