-- ==== Sys2Proof/Machine/PumpUnit.lean ====
section
/-! DEFINITION. Machine/PumpUnit: the pumps: queues, reading, conversion, landing, marks, completion and faults
(07_pumps.md). -/

namespace Sys2Proof.Machine

/-! ## The targets that a fountain's lists name (R155) -/

/-- The 64 bits of a committed target entry. -/
def fntEntry (d : Dev) (h e : Nat) : Nat :=
  (rd d (ctlSel R.FNT_ENTRY_LO (56 + h) 0 e)).toNat + (rd d (ctlSel R.FNT_ENTRY_HI (56 + h) 0 e)).toNat * pow2 32

/-- The entries of a target list, or none where the list is invalid or an entry is of another kind (R155). -/
def fntTargets (d : Dev) (h list : Nat) : Option (List Nat) :=
  let a := ctlSel R.FNT_LIST (56 + h) 0 list
  let first := fget d a F.FNT_LIST_FIRST
  let n := fget d a F.FNT_LIST_COUNT_M1 + 1
  if !flag d a F.FNT_LIST_VALID || 8192 < first + n then none
  else
    let es := (List.range n).map fun i => first + i
    if es.all fun e => let x := fntEntry d h e; (bits x 0 4 == 1 || bits x 0 4 == 4) && (parseEndpoint x 0).isSome then
      some es
    else none

/-- The endpoint of a target for a frame. -/
def fntEndpoint (x off : Nat) : Option Endpoint := (parseEndpoint x off).getD none

/-- The fabric address of a target. -/
def fntFa (d : Dev) (x : Nat) : Nat :=
  match fntEndpoint x 0 with
  | some (.window fa _ _) => fa
  | _ => ownFa d

/-- The devices that a fountain's list names. -/
def listFas (d : Dev) (h list : Nat) : List Nat := ((fntTargets d h list).getD []).map fun e => fntFa d (fntEntry d h e)

/-- The devices that an endpoint names. -/
def endpointFas (d : Dev) : Endpoint → List Nat
  | .window fa _ _ => [fa]
  | .fountain h list _ => listFas d h list
  | _ => []

/-- The devices that a descriptor names. -/
def descFas (d : Dev) (x : PumpDesc) : List Nat :=
  endpointFas d x.src ++ endpointFas d x.dst ++ if x.gateEn && x.gateRemote then [x.gateFa] else []

/-- A snapshot of a group keeps a ring descriptor of the group back (R266). -/
def ringHeld (d : Dev) (x : PumpDesc) : Bool := d.snaps.any fun s => groupsOwn d s.group (descFas d x)

/-! ## Queues (R130) -/

/-- A pump of a block. -/
def pumpOf (x : Block) (pb : Bool) : Pump := if pb then x.pumpB else x.pumpA

/-- Stores a pump. -/
def setPump (d : Dev) (die b : Nat) (pb : Bool) (p : Pump) : Dev :=
  let x := blk d die b
  setBlk d die b (if pb then { x with pumpB := p } else { x with pumpA := p })

/-- A queue of a pump. -/
def Pump.queue (p : Pump) : QueueId → List PumpItem
  | .direct => p.direct
  | .sluice => p.sluice
  | .ring => p.ring

/-- A pump with one of its queues replaced. -/
def Pump.setQueue (p : Pump) (q : QueueId) (l : List PumpItem) : Pump :=
  match q with
  | .direct => { p with direct := l }
  | .sluice => { p with sluice := l }
  | .ring => { p with ring := l }

/-- A queue of a pump of a block. -/
def pumpQueue (d : Dev) (die b : Nat) (pb : Bool) (q : QueueId) : List PumpItem := (pumpOf (blk d die b) pb).queue q

/-- Stores a queue. -/
def setQueue (d : Dev) (die b : Nat) (pb : Bool) (q : QueueId) (l : List PumpItem) : Dev :=
  setPump d die b pb ((pumpOf (blk d die b) pb).setQueue q l)

/-- Replaces a descriptor of a queue, found by its serial number. -/
def setItem (d : Dev) (die b : Nat) (pb : Bool) (q : QueueId) (i : PumpItem) : Dev :=
  setQueue d die b pb q ((pumpQueue d die b pb q).map fun o => if o.serial = i.serial then i else o)

/-- A register of a pump: pump B's lie 0x100 above pump A's. -/
abbrev pumpReg (place die b : Nat) (pb : Bool) : Nat := ctl (place + if pb then 0x100 else 0) die b

/-- The queue that a bundle descriptor joins (R132). -/
def queueOf (x : PumpDesc) : QueueId := if x.src.isSluice || x.dst.isSluice then .sluice else .direct

/-- The depth of a queue. -/
def queueDepth : QueueId → Nat
  | .direct => 4
  | .sluice => 32
  | .ring => 1

/-- The transfer rows or slots that a descriptor reads. -/
def readRows (x : PumpDesc) : Nat := if x.op = .unskew16 then x.rows + 63 else x.rows

/-- A descriptor has read everything, or reads no further. -/
def PumpItem.readDone (i : PumpItem) : Bool := i.failed || readRows i.desc ≤ i.row

/-! ## Faults (R139) -/

/-- The number of a pump fault code. -/
def pumpCode : FaultCode → Nat
  | .decode => 1 | .segment => 2 | .bankClass => 3 | .bankDown => 4 | .overtaken => 5 | .windowClosed => 6
  | .remoteTimeout => 7 | .reservoir => 8 | _ => 9

/-- The number of a queue in PMP_ERR_STATUS. -/
def QueueId.code : QueueId → Nat
  | .direct => 0 | .sluice => 1 | .ring => 2

/-- The unit code of a pump (R40). -/
def pumpUnit (pb : Bool) : Nat := if pb then 0x8 else 0x7

/-- Records a pump fault while none is recorded. -/
def recordPumpErr (d : Dev) (die b : Nat) (pb : Bool) (q : QueueId) (c : FaultCode) (row index tag : Nat) : Dev :=
  let st := pumpReg R.PMP_ERR_STATUS die b pb
  if flag d st F.PMP_ERR_STATUS_VALID then d
  else
    let d := fsets d st [(F.PMP_ERR_STATUS_VALID, 1), (F.PMP_ERR_STATUS_CODE, pumpCode c),
      (F.PMP_ERR_STATUS_QUEUE, q.code), (F.PMP_ERR_STATUS_ROW, row)]
    fsets d (pumpReg R.PMP_ERR_DESC die b pb) [(F.PMP_ERR_DESC_INDEX, index), (F.PMP_ERR_DESC_TAG, tag)]

/-- What is left of a descriptor's pieces after a fault at a transfer row (R139): a write already issued lands in full,
one of that row or a later one that has not left the pump does not, and no further mark is set. -/
def keptPieces (l : List PumpPiece) (row : Nat) : List PumpPiece :=
  (l.filter fun p =>
      p.landed || (p.dst.isSome && (p.parts.all fun x => x.2.isSome)
        && (p.sent || !(p.dst.any Endpoint.isSluice) || p.row < row))).map fun p =>
    { p with marks := if p.landed then p.marks else [] }

/-- A fault stops a descriptor (R139): pieces whose data has been read land, no further mark is set, and its gate is not
signalled. A bundle descriptor's fault aborts the step; a ring descriptor's does not. -/
def pumpFault (d : Dev) (die b : Nat) (pb : Bool) (q : QueueId) (i : PumpItem) (c : FaultCode) (row : Nat)
    (kind : EntryKind := .none) (entry : Nat := 0) (aux : Option Nat := none) : Dev :=
  if i.failed then d
  else
    let d := setItem d die b pb q { i with failed := true, wait := none, pieces := keptPieces i.pieces row, openRow := none }
    let d := recordPumpErr d die b pb q c row i.index i.desc.tag
    if i.ring then d
    else
      fault d die { code := c, unit := pumpUnit pb, block := b, bundle := i.bundle, cycle := (blk d die b).seq.cycle,
                    kind, entry, tag := i.desc.tag, aux := aux.getD i.index }

/-! ## Where bytes lie -/

/-- A range of one wide row of a well of this device, or the fault its check meets. -/
inductive WellLoc where
  | well (die b addr : Nat)
  | bad (c : FaultCode) (kind : EntryKind) (row : Nat)
deriving DecidableEq, Repr

/-- The fault of an access at a well address, with the row that the address lies in, named with its class (R115). -/
def WellLoc.fault (c : FaultCode) (addr : Nat) : WellLoc :=
  if narrowBase ≤ addr && addr < 0x800000 then .bad c .narrow ((addr - narrowBase) / 64) else .bad c .wide (addr / 1024)

/-- The host well address of a pump's well address (R163, R164): an own-well address of a bundle descriptor is a unit
address; a package-well address names the home form; a ring descriptor's own-well address is the block's own. -/
def locPump (d : Dev) (die b : Nat) (i : PumpItem) (e : Endpoint) (addr : Nat) : WellLoc :=
  match e with
  | .package pd pb _ =>
    if 0x800000 ≤ addr then .fault .segment addr
    else if narrowBase ≤ addr then .fault .bankClass addr
    else
      let h := translateHome d pd pb addr
      if wellReady d pd h.1 false (h.2 / 1024) then .well pd h.1 h.2 else .fault .bankDown addr
  | _ =>
    if i.ring then
      if 0x800000 ≤ addr then .fault .segment addr
      else if narrowBase ≤ addr then .fault .bankClass addr
      else if wellReady d die b false (addr / 1024) then .well die b addr else .fault .bankDown addr
    else
      match locateReady d die b (unitCtx d die b i.slot) false addr with
      | .row r => .well die b (rowAddr false r + addr % 1024)
      | .bad c => .fault c addr

/-- The address of an endpoint in its own space. -/
def Endpoint.addr : Endpoint → Nat
  | .ownWell a | .package _ _ a | .cistern a | .reservoir a | .window _ _ a | .fountain _ _ a => a

/-- The endpoint at another address. -/
def Endpoint.at_ (e : Endpoint) (a : Nat) : Endpoint :=
  match e with
  | .ownWell _ => .ownWell a
  | .package x y _ => .package x y a
  | .cistern _ => .cistern a
  | .reservoir _ => .reservoir a
  | .window x y _ => .window x y a
  | .fountain x y _ => .fountain x y a

/-- The width of an endpoint's address field in bits (R132). -/
def Endpoint.width : Endpoint → Nat
  | .ownWell _ | .package .. => 23
  | .cistern _ => 27
  | .reservoir _ => 40
  | .window .. | .fountain .. => 32

/-- A range cut at 1 KiB boundaries, with the fuel for its cuts. -/
def cutRange : Nat → Nat → Nat → List (Nat × Nat)
  | 0, _, _ => []
  | k + 1, a, n => if n = 0 then [] else
      let m := min n (1024 - a % 1024)
      (a, m) :: cutRange k (a + m) (n - m)

/-- Cuts of a range of at most 16 KiB. -/
def cuts (a n : Nat) : List (Nat × Nat) := cutRange 18 a n

/-! ## Reading -/

/-- What reading a range of the source gives: parts with the reads they wait for, a wait, a fault, or nothing yet where
the pump itself has to wait. -/
inductive SrcRes where
  | ok (d : Dev) (parts : List (Nat × Option (List Byte)))
  | wait (d : Dev) (w : Wait)
  | bad (d : Dev) (c : FaultCode) (kind : EntryKind) (entry : Nat) (aux : Option Nat)
  | later (d : Dev)

/-- The reader code of a pump in WEL_PERR_STATUS. -/
def pumpReader (pb : Bool) : Nat := if pb then 3 else 2

/-- Counts flits that a pump sends (R140). -/
def countFlits (d : Dev) (die b : Nat) (pb : Bool) (n : Nat) : Dev :=
  fcnt d (pumpReg R.PMP_FLIT_CNT die b pb) F.PMP_FLIT_CNT_COUNT n

/-- Flits of a number of bytes. -/
def flitsOf (n : Nat) : Nat := max 1 ((n + 63) / 64)

/-- The descriptor's read of a range that has been sent and not answered. -/
def sentAsk (d : Dev) (i : PumpItem) (asked : Nat × Nat × Nat × Nat) : Option WellAsk :=
  d.asks.find? fun r => r.serial = i.serial && (r.die, r.block, r.addr, r.len) = asked && r.reply = .pending

/-- A read of another block's well sets out: a request of one flit to the block, or to the square where it merges (R153,
R154), counted and, where links are retired, detoured. -/
def sendAsk (d : Dev) (die b : Nat) (pb : Bool) (i : PumpItem) (hd hb : Nat) (asked : Nat × Nat × Nat × Nat) (g : Nat) :
    Dev × Nat :=
  match sentAsk d i asked with
  | some r => (d, r.id)
  | none =>
    let at_ := i.merged.map Prod.snd
    let dest := at_.getD (hd, hb)
    let d := travel (countFlits d die b pb 1) (.square die b) (.square dest.1 dest.2) 1
    let r : WellAsk :=
      { id := d.nextId, serial := i.serial, die := asked.1, block := asked.2.1, addr := asked.2.2.1, len := asked.2.2.2,
        vc := i.desc.vc, gen := g, byDie := die, byBlock := b, byPumpB := pb, at_ }
    ({ d with nextId := d.nextId + 1, asks := d.asks ++ [r] }, r.id)

/-- A read is answered. Its data comes from the block, or from the square where it merged. -/
def answerAsk (d : Dev) (die b : Nat) (i : PumpItem) (hd hb id : Nat) (a : AskReply) : Dev :=
  let from_ := (i.merged.map Prod.snd).getD (hd, hb)
  let d := { d with asks := d.asks.map fun r => if r.id = id then { r with reply := a } else r }
  match a with
  | .data bytes _ => travel d (.square from_.1 from_.2) (.square die b) (flitsOf bytes.length)
  | _ => d

/-- A read that awaits its mark still does: the descriptor that asked is there and has not faulted. -/
def askWaits (d : Dev) (r : WellAsk) : Bool :=
  let p := if r.byPumpB then (blk d r.byDie r.byBlock).pumpB else (blk d r.byDie r.byBlock).pumpA
  (p.direct ++ p.sluice ++ p.ring).any fun i => i.serial == r.serial && !i.failed && i.wait.isSome

/-- The read that a descriptor's read of a range has merged into, while it is there to be answered (R154). -/
def mergedAsk (d : Dev) (i : PumpItem) (asked : Nat × Nat × Nat × Nat) (g : Nat) : Option WellAsk :=
  i.merged.bind fun m => d.asks.find? fun r =>
    r.id = m.1 && (r.die, r.block, r.addr, r.len) = asked && r.gen = g && (r.reply != .pending || askWaits d r)

/-- What a checked read of a wide row finds there: the mark's check and the bytes at the row's block, whose bank it accesses
once (R154), or what the read found that it has merged into. -/
def wellReply (d : Dev) (i : PumpItem) (asked : Option (Nat × Nat × Nat × Nat)) (gen : Option Nat) (hd hb ha n : Nat)
    (bad : Bool) : AskReply :=
  match asked.bind fun x => gen.bind (mergedAsk d i x) with
  | some r => r.reply
  | none =>
    match gen.map (markCheck (blk d hd hb) false (ha / 1024)) with
    | some .wait => .pending
    | some .overtaken => .overtaken
    | _ => .data (wellRead d hd hb ha n) bad

/-- What the reads of a descriptor meet in a block's well: its own, or another's. -/
def PumpEnv.at_ (env : PumpEnv) (die b hd hb : Nat) : WellEnv := if die = hd && b = hb then env.well else env.far

/-- Reads ranges of wells; each wide row's mark is checked where asked (R136), and rows found in error are recorded at
their block (R122). -/
def readWell (die b : Nat) (pb : Bool) (i : PumpItem) (e : Endpoint) (gen : Option Nat) (env : PumpEnv) :
    List (Nat × Nat) → Dev → List (Nat × Option (List Byte)) → SrcRes
  | [], d, acc => .ok d acc
  | (a, n) :: cs, d, acc =>
    match locPump d die b i e a with
    | .bad c kind row => .bad d c kind row none
    | .well hd hb ha =>
      let row := ha / 1024
      let asked := match e with
        | .package pd pb_ _ => some (pd, pb_, a, n)
        | _ => none
      let merged := (asked.bind fun x => gen.bind (mergedAsk d i x)).isSome
      let bad := if merged then [] else (env.at_ die b hd hb).bad.filter fun r => r == .wide row
      let i := if merged then i else { i with merged := none }
      let reply := wellReply d i asked gen hd hb ha n !bad.isEmpty
      -- a request that checks a mark is on its way from here on
      let x := match asked, gen with
        | some k, some g => sendAsk d die b pb i hd hb k g
        | some _, none => (travel (countFlits d die b pb 1) (.square die b) (.square hd hb) 1, 0)
        | none, _ => (d, 0)
      let d := answerAsk x.1 die b i hd hb x.2 reply
      match reply with
      | .pending => .wait d { cause := .mark, on := .wideMark row (gen.getD 0) }
      | .overtaken => .bad d .overtaken .wide (a / 1024) none
      | .data bs err =>
        -- the pump's own block is affected as the reader; every row of the step is (R122)
        let d := wellParitiesAll d hd hb (pumpReader pb) bad
        let d := if merged && err then applyFx d .badAll else d
        readWell die b pb i e gen env cs d (acc ++ [(x.2, some bs)])

/-- Sends an access to the base die of its stack (R196, R197): an unreachable stack refuses at the compute die. -/
def sendRsv (d : Dev) (a : RsvAcc) : Dev × Bool :=
  let s := (a.addr / 2097152) % 8
  if !stackReachable d s then (d, false)
  else
    let k := mgetD d.stackTab s {}
    let d := match a.origin with
      | .pump die b _ _ => travel d (.square die b) (.edge (48 + s)) (((a.data.map List.length).map flitsOf).getD 1)
      | _ => d
    ({ d with stackTab := mset d.stackTab s { k with arriving := k.arriving ++ [a] } }, true)

/-- Sends the reads of a reservoir range, one per 1 KiB. -/
def readRsv (die b : Nat) (pb : Bool) (i : PumpItem) : List (Nat × Nat) → Dev → List (Nat × Option (List Byte)) → SrcRes
  | [], d, acc => .ok d acc
  | (a, n) :: cs, d, acc =>
    if !i.ring && pageBad d (pow2 20 + a / 2097152) then .bad d .cistern .none 0 none   -- R283
    else
      let x := freshId d
      match sendRsv x.1 { addr := a, len := n, data := none, vc := i.desc.vc, ring := i.ring,
                          origin := .pump die b pb x.2 } with
      | (d, false) => .bad d .reservoir .none 0 none
      | (d, true) => readRsv die b pb i cs (countFlits d die b pb 1) (acc ++ [(x.2, none)])

/-- The outstanding reads of a head (R248). -/
def headReads (d : Dev) (h : Nat) : Nat :=
  (d.txns.filter fun t => t.head == h && match t.kind with
    | .read .. => true
    | _ => false).length

/-- Sends a window read (R248). -/
def readWindow (d : Dev) (die b : Nat) (pb : Bool) (i : PumpItem) (fa win off n : Nat) : SrcRes :=
  match routeHead d fa i.desc.vc with
  | none => .bad (countTimeout d (primaryHead d)) .remoteTimeout .none 0 none
  | some h =>
    if 1024 ≤ headReads d h then .later d
    else
      let x := freshId d
      let d := addTxn x.1 h (.read fa win i.desc.wgen off n) (.pump die b pb x.2)
      let d := travel (countFlits d die b pb 1) (.square die b) (.edge (56 + h)) 1
      .ok (sendTo d fa i.desc.vc .readReq [h, fa, i.desc.vc, win, i.desc.wgen, off, n]) [(x.2, none)]

/-- A line write of a pump claims the cistern's port (R108): its data has come, and it has not landed. -/
def pumpWrites (x : Block) : Bool :=
  (x.pumpA.ring ++ x.pumpB.ring).any fun i => i.pieces.any fun p =>
    !p.landed && (p.parts.all fun y => y.2.isSome) && match p.dst with
      | some (.cistern _) => true
      | _ => false

/-- A pump claims the cistern's port, before the scrubber (R108): for a line write, or for the line reads of a descriptor that
it has begun. -/
def pumpClaims (x : Block) : Bool :=
  pumpWrites x || (x.pumpA.ring ++ x.pumpB.ring).any fun i => i.started && !i.readDone && i.wait.isNone && match i.desc.src with
    | .cistern _ => true
    | _ => false

/-- Reads cistern lines (R108, R113): a ring descriptor's relocation read. -/
def readCistern (d : Dev) (die b : Nat) (addr n : Nat) (env : PumpEnv) : SrcRes :=
  let lines := (List.range ((n + 1023) / 1024)).map fun k => addr / 1024 + k
  let x := blk d die b
  if 134217728 < addr + n then .bad d .segment .none 0 (some (addr / 1024))
  else
    match lines.find? fun l => !cisReady d die b l with
    | some l => .bad d .bankDown .none 0 (some l)
    | none =>
      let forced := forcedSubs x lines
      if !forced.isEmpty then .wait (holdClaims d die b forced) { cause := .refresh, on := .other }
      -- the tile loader and a pump's line writes claim the line port first (R108)
      else if loaderClaims d die b || pumpWrites x then .wait d { cause := .bank, on := .other }
      else
        match x.repairs.find? fun r => lines.contains r.line with
        | some r => .wait d { cause := .mark, on := .repairLine r.line }
        | none =>
          let f : FaultEv := { code := .cistern, unit := 0xA, block := b, bundle := 0, cycle := 0 }
          match env.errs.find? fun e => lines.contains e.line && 0 < e.fails with
          | none => .ok d [(0, some (memRead d.epoch (unitCis (gblock die b)) x.cistern addr n))]
          | some e =>
            let r := lineError d die b 1 e f
            if r.2 then .wait r.1 { cause := .mark, on := .repairLine e.line }
            else if 2 < e.fails then .bad r.1 .cistern .none 0 (some e.line)
            else .ok r.1 [(0, some (memRead d.epoch (unitCis (gblock die b)) x.cistern addr n))]

/-- Reads `n` bytes of the source from an address on. -/
def readSource (d : Dev) (die b : Nat) (pb : Bool) (i : PumpItem) (addr n : Nat) (env : PumpEnv) : SrcRes :=
  match i.desc.src with
  | .reservoir _ => readRsv die b pb i (cuts addr n) d []
  | .window fa win _ => readWindow d die b pb i fa win addr n
  | .cistern _ => readCistern d die b addr n env
  | e =>
    let gen := if i.desc.scheck then some ((i.desc.sgen + i.genOffset) % 8) else none
    readWell die b pb i e gen env (cuts addr n) d []

/-- The bytes of parts that have arrived. -/
def partBytes (l : List (Nat × Option (List Byte))) : List Byte := l.flatMap fun p => p.2.getD []

/-- The index of a transfer row of a GATHER or SCATTER (R133). A wide row of the list is read once, and brings every index
of the list that it holds (R140): the answer's parts are all index bytes from this row's on. -/
def readIndex (d : Dev) (die b : Nat) (pb : Bool) (i : PumpItem) (r : Nat) (env : PumpEnv) : SrcRes :=
  let a := i.desc.idxAddr + 4 * r
  let have_ := if i.idxFrom ≤ a then i.idxBytes.drop (a - i.idxFrom) else []
  if 4 ≤ have_.length then .ok d [(0, some have_)]
  else
    let gen := if i.desc.idxCheck then some ((i.desc.idxGen + i.genOffset) % 8) else none
    let lo := a + have_.length
    let hi := min (((a + 3) / 1024 + 1) * 1024) (i.desc.idxAddr + 4 * i.desc.rows)
    match readWell die b pb i (.ownWell 0) gen env (cuts lo (hi - lo)) d [] with
    | .ok d parts => .ok d ((0, some have_) :: parts)
    | x => x

/-! ## Destination rows and marks (R136) -/

/-- The destination wide rows that a range of the destination touches, each with whether its last byte is covered. -/
def dstRows (d : Dev) (die b : Nat) (i : PumpItem) (addr n : Nat) : List ((Nat × Nat × Nat) × Bool) :=
  if !i.desc.dst.isWell then []
  else
    (cuts addr n).filterMap fun c =>
      match locPump d die b i i.desc.dst c.1 with
      | .well hd hb ha => some ((hd, hb, ha / 1024), (c.1 + c.2) % 1024 == 0)
      | .bad .. => none

/-- The marks that a piece carries: rows whose last byte it covers, and the row it begins in where that was marked
before. The descriptor's record of marked rows and of the open row follows. -/
def pieceMarks (i : PumpItem) (rows : List ((Nat × Nat × Nat) × Bool)) : PumpItem × List (Nat × Nat × Nat × Nat) :=
  if !i.desc.dmark then (i, [])
  else
    let g := (i.desc.dgen + i.genOffset) % 8
    let full := (rows.filter Prod.snd).map Prod.fst
    let again := match rows with
      | r :: _ => if i.marked.contains r.1 && !full.contains r.1 then [r.1] else []
      | [] => []
    let last := rows.getLast?
    let open_ := match last with
      | some (r, false) => if again.contains r then none else some r
      | _ => none
    ({ i with marked := (i.marked ++ full).eraseDups, openRow := open_ },
     (again ++ full).map fun r => (r.1, r.2.1, r.2.2, g))

/-- Before a transfer row whose destination begins in another wide row, the open row is marked (R136 rule 2). The mark
follows the row's data, so it is numbered with what the pump issues last. -/
def closeOpen (d : Dev) (i : PumpItem) (next : Option (Nat × Nat × Nat)) (row : Nat) : PumpItem :=
  match i.openRow with
  | none => i
  | some r =>
    if !i.desc.dmark || next == some r then i
    else
      let g := (i.desc.dgen + i.genOffset) % 8
      { i with openRow := none, marked := i.marked ++ [r],
               pieces := i.pieces ++ [{ no := d.nextId, rid := 0, row, parts := [], dst := none, marks := [(r.1, r.2.1, r.2.2, g)],
                                        sent := false, landed := false }] }

/-- The position of transfer row `k` from a base and stride, where it fits the endpoint's field. -/
def rowStart (e : Endpoint) (stride : Int) (k : Nat) : Option Nat :=
  let a := Int.ofNat e.addr + Int.ofNat k * stride
  if 0 ≤ a && a < Int.ofNat (pow2 e.width) then some a.toNat else none

/-- A transfer row starts, its destination being known: the open row of another wide row is marked, before the row's own
source has been waited for (R136 rule 2; DEDUCED, log entry 37). -/
def startRow (d : Dev) (die b : Nat) (i : PumpItem) (row dst n : Nat) : PumpItem :=
  if i.at_ = 0 then closeOpen d i ((dstRows d die b i dst n).head?.map Prod.fst) row else i

/-- Adds a piece to a descriptor, numbered in the order in which pieces are issued. -/
def addPiece (d : Dev) (die b : Nat) (i : PumpItem) (row : Nat) (parts : List (Nat × Option (List Byte)))
    (dst n : Nat) : Dev × PumpItem :=
  let m := pieceMarks i (dstRows d die b i dst n)
  let x := freshId d
  (x.1, { m.1 with pieces := m.1.pieces ++ [{ no := x.2, rid := 0, row, parts, dst := some (i.desc.dst.at_ dst),
                                              marks := m.2, sent := false, landed := false }] })

/-- One advance of a descriptor: the device and the descriptor with it, and how it stopped, if it did. -/
inductive Adv where
  | go (d : Dev) (i : PumpItem)
  | wait (d : Dev) (i : PumpItem) (w : Wait)
  | bad (d : Dev) (i : PumpItem) (row : Nat) (c : FaultCode) (kind : EntryKind) (entry : Nat) (aux : Option Nat)
  | later (d : Dev) (i : PumpItem)

/-- Checks that a destination range can be written: its class, its bank's READY bit and the end of its field. -/
def dstFault (d : Dev) (die b : Nat) (i : PumpItem) (addr n : Nat) : Option (FaultCode × EntryKind × Nat × Option Nat) :=
  if pow2 i.desc.dst.width < addr + n then
    some (.segment, if i.desc.dst.isWell then .wide else .none, if i.desc.dst.isWell then addr / 1024 else 0, none)
  else
    match i.desc.dst with
    | .ownWell _ | .package .. =>
      (cuts addr n).findSome? fun c =>
        match locPump d die b i i.desc.dst c.1 with
        | .bad f kind row => some (f, kind, row, none)
        | .well .. => none
    | .cistern _ => if cisReady d die b (addr / 1024) then none else some (.bankDown, .none, 0, some (addr / 1024))
    | _ => none

/-- The elements of the next segment of a row, from a source and a destination address on (R130): the longest run that stays
within one KiB at either end. -/
def segmentLen (i : PumpItem) (s t : Nat) : Nat :=
  min (i.desc.len - i.at_) (min (max 1 ((1024 - s % 1024) / i.desc.sfmt.bytes)) (max 1 ((1024 - t % 1024) / i.desc.dfmt.bytes)))

/-- `n` elements of the row that a descriptor is at go to their destination, and the row or the descriptor goes on. -/
def putSegment (d : Dev) (die b : Nat) (i : PumpItem) (dst n : Nat) (parts : List (Nat × Option (List Byte))) : Adv :=
  let r := addPiece d die b i i.row parts dst (n * i.desc.dfmt.bytes)
  .go r.1 (if i.at_ + n = i.desc.len then { r.2 with row := i.row + 1, at_ := 0 } else { r.2 with at_ := i.at_ + n })

/-- Moves the next segment of a strided or indexed descriptor (R130, R133). -/
def advanceRow (d : Dev) (die b : Nat) (pb : Bool) (i : PumpItem) (env : PumpEnv) : Adv :=
  let x := i.desc
  let idx : SrcRes :=
    if x.op = .copy then .ok d [(0, some (leBytes 4 i.row))]
    else if i.at_ ≠ 0 then .ok d [(0, some (leBytes 4 i.idx))]
    else readIndex d die b pb i i.row env
  match idx with
  | .wait d w => .wait d i w
  | .bad d c k e a => .bad d i i.row c k e a
  | .later d => .later d i
  | .ok d parts =>
    let k := ofLeBytes ((partBytes parts).take 4)
    let i := if x.op = .copy || i.at_ ≠ 0 then { i with idx := k }
      else { i with idx := k, idxFrom := x.idxAddr + 4 * i.row, idxBytes := partBytes parts }
    let sk := if x.op = .gather then k else i.row
    let dk := if x.op = .scatter then k else i.row
    match rowStart x.src x.sstride sk, rowStart x.dst x.dstride dk with
    | some s0, some d0 =>
      let ws := x.sfmt.bytes
      let wd := x.dfmt.bytes
      let s := s0 + i.at_ * ws
      let t := d0 + i.at_ * wd
      let n := segmentLen i s t
      if pow2 x.src.width < s + n * ws then .bad d i i.row .segment .none 0 none
      else
        match dstFault d die b i t (n * wd) with
        | some f => .bad d i i.row f.1 f.2.1 f.2.2.1 f.2.2.2
        | none =>
          let i := startRow d die b i i.row t (n * wd)
          match readSource d die b pb i s (n * ws) env with
          | .wait d w => .wait d i w
          | .bad d c kd e a => .bad d i i.row c kd e a
          | .later d => .later d i
          | .ok d parts =>
            putSegment d die b i t n parts
    | _, _ => .bad d i i.row .segment .none 0 none

/-- Element `k` of a slot or vector of 64 elements. -/
def elem (w k : Nat) (s : List Byte) : List Byte := (s.drop (k * w)).take w

/-- Writes one vector or slot of a skew operation. A fault names a vector as the transfer row: of slots behind the last
vector, the last. -/
def skewPiece (d : Dev) (die b : Nat) (i : PumpItem) (t : Nat) (bytes : List Byte) : Adv :=
  let n := 64 * i.desc.dfmt.bytes
  let row := min t (i.desc.rows - 1)
  match rowStart i.desc.dst i.desc.dstride t with
  | none => .bad d i row .segment .none 0 none
  | some a =>
    match dstFault d die b i a n with
    | some f => .bad d i row f.1 f.2.1 f.2.2.1 f.2.2.2
    | none =>
      let r := addPiece d die b (startRow d die b i row a n) row [(0, some bytes)] a n
      .go r.1 r.2

/-- Writes slots `t` to `t + k - 1` of a SKEW16 (R135). -/
def skewSlots (d : Dev) (die b : Nat) : Nat → Nat → PumpItem → Adv
  | 0, _, i => .go d i
  | k + 1, t, i =>
    let w := i.desc.sfmt.bytes
    let z := leBytes w (zeroOf i.desc.sfmt)
    let bytes := (List.range 64).flatMap fun e =>
      if e ≤ t && t - e < i.desc.rows then elem w e (i.slots.getD (t - e) []) else z
    match skewPiece d die b i t bytes with
    | .go d j => skewSlots d die b k (t + 1) j
    | r => r

/-- Reads the next slot or vector of a skew operation and writes what that makes ready (R135). -/
def advanceSkew (d : Dev) (die b : Nat) (pb : Bool) (i : PumpItem) (env : PumpEnv) : Adv :=
  let x := i.desc
  let w := x.sfmt.bytes
  -- the vector that a slot of the skewed layout completes
  let row := if x.op = .unskew16 then min (i.row - 63) (x.rows - 1) else i.row
  match rowStart x.src x.sstride i.row with
  | none => .bad d i row .segment .none 0 none
  | some s =>
    match readSource d die b pb i s (64 * w) env with
    | .wait d v => .wait d i v
    | .bad d c k e a => .bad d i row c k e a
    | .later d => .later d i
    | .ok d parts =>
      let i := { i with slots := i.slots ++ [partBytes parts], row := i.row + 1 }
      if x.op = .unskew16 then
        if i.row < 64 then .go d i
        else
          let j := i.row - 64
          let bytes := (List.range 64).flatMap fun k => elem w k (i.slots.getD (j + k) [])
          skewPiece d die b i j bytes
      else skewSlots d die b (if i.row = x.rows then 64 else 1) (i.row - 1) i

/-- Reads on until the descriptor is read, waits, or faults. -/
def readOn (die b : Nat) (pb : Bool) (env : PumpEnv) : Nat → Dev → PumpItem → Adv
  | 0, d, i => .go d i
  | n + 1, d, i =>
    if i.readDone then .go d { i with wait := none }
    else
      let r := if i.desc.op = .unskew16 || i.desc.op = .skew16 then advanceSkew d die b pb i env
        else advanceRow d die b pb i env
      match r with
      | .go d j => readOn die b pb env n d { j with merged := none }
      | r => r

/-! ## Conversion and sending (R134) -/

/-- The bytes of a piece as they land, and what its conversion counts. -/
def convertPiece (x : PumpDesc) (raw : List Byte) : List Byte × Nat × Nat :=
  if x.sfmt = x.dfmt then (raw, 0, 0)
  else
    let w := x.sfmt.bytes
    let cs := (groupLe w (raw.length / w) raw).map fun v => convert x.sfmt x.dfmt x.logOff v
    (cs.flatMap fun c => leBytes x.dfmt.bytes c.val, (cs.filter CvtRes.ovf).length, (cs.filter CvtRes.unf).length)

/-- The die where a piece's conversion takes place (R134): the destination's where the data widens on its way to a well,
else the pump's. -/
def convertDie (die : Nat) (x : PumpDesc) : Nat :=
  match x.dst with
  | .package pd _ _ => if x.sfmt.bytes < x.dfmt.bytes then pd else die
  | _ => die

/-- All parts of a piece have arrived. -/
def PumpPiece.whole (p : PumpPiece) : Bool := p.parts.all fun x => x.2.isSome

/-- A piece that leaves for a base die, a head or a fountain. -/
def PumpPiece.remote (p : PumpPiece) : Bool := match p.dst with
  | some e => e.isSluice
  | none => false

/-- Replaces a piece of a descriptor by position. -/
def setPiece (i : PumpItem) (k : Nat) (p : PumpPiece) : PumpItem := { i with pieces := i.pieces.set k p }

/-- Sends a piece to the fountain, window or reservoir it is for (R130, R155, R247). Where it cannot go yet the answer is
`none`; a refusal at once is a fault. -/
inductive SendRes where
  | sent (d : Dev) (rid : Nat)
  | hold (d : Dev)
  | bad (d : Dev) (c : FaultCode)

/-- Hands a converted piece on. -/
def handOn (d : Dev) (die b : Nat) (pb : Bool) (i : PumpItem) (e : Endpoint) (bytes : List Byte) : SendRes :=
  match e with
  | .reservoir a =>
    let x := freshId d
    -- a piece that crosses a KiB boundary is two accesses under one number
    let r := (cuts a bytes.length).foldl (fun (s : Dev × Bool) c =>
      let q := sendRsv s.1 { addr := c.1, len := c.2, data := some ((bytes.drop (c.1 - a)).take c.2), vc := i.desc.vc,
                             ring := i.ring, origin := .pump die b pb x.2 }
      (q.1, s.2 && q.2)) (x.1, true)
    if r.2 then .sent r.1 x.2 else .bad x.1 .reservoir
  | .window fa win off =>
    match routeHead d fa i.desc.vc with
    | none => .bad (countTimeout d (primaryHead d)) .remoteTimeout
    | some h =>
      let c := creditAt d h fa win i.desc.wgen
      if c.have_ = 0 then .hold (askCredit d h fa win i.desc.wgen)
      else
        let x := freshId d
        let d := setCredit x.1 { c with have_ := c.have_ - 1 }
        let d := travel d (.square die b) (.edge (56 + h)) (flitsOf bytes.length)
        let d := addTxn d h (.write fa win i.desc.wgen off bytes.length) (.pump die b pb x.2)
        .sent (sendTo d fa i.desc.vc .writeFrame [h, fa, i.desc.vc, win, i.desc.wgen, off] bytes) x.2
  | .fountain head list off =>
    let x := freshId d
    let f : FtnFrame :=
      { id := x.2, die, block := b, pumpB := pb, rid := x.2, relay := none, desc := i.serial, list, off,
        wgen := i.desc.wgen, vc := i.desc.vc, bytes }
    let k := mgetD d.fountains head {}
    let x := (travel x.1 (.square die b) (.edge (56 + head)) (flitsOf bytes.length), x.2)
    .sent { x.1 with fountains := mset x.1.fountains head { k with incoming := k.incoming ++ [f] } } x.2
  | _ => .hold d

/-- Sends the pieces of a queue that may go, in order: a piece whose data has not arrived, or that has no credit, keeps
those behind it back. -/
def sendItems (die b : Nat) (pb : Bool) (q : QueueId) : Nat → Dev → Dev
  | 0, d => d
  | n + 1, d =>
    let l := pumpQueue d die b pb q
    match l.findSome? fun i => (i.pieces.findIdx? fun p => p.remote && !p.sent).map fun k => (i, k) with
    | none => d
    | some (i, k) =>
      match i.pieces[k]? with
      | none => d
      | some p =>
        if !p.whole then d
        else
          match p.dst with
          | none => d
          | some e =>
            let c := convertPiece i.desc (partBytes p.parts)
            match handOn d die b pb i e c.1 with
            | .hold d => d
            | .bad d f =>
              let j := { i with pieces := i.pieces.eraseIdx k }
              if i.failed then sendItems die b pb q n (setItem d die b pb q j) else pumpFault d die b pb q j f p.row
            | .sent d rid =>
              let d := cvtCount d die c.2.1 c.2.2
              let d := countFlits d die b pb (max 1 ((c.1.length + 63) / 64))
              sendItems die b pb q n (setItem d die b pb q (setPiece i k { p with sent := true, rid }))

/-- Sends what can go from each queue of a pump. -/
def sendPump (d : Dev) (die b : Nat) (pb : Bool) : Dev :=
  [QueueId.direct, .sluice, .ring].foldl (fun d q =>
    let n := ((pumpQueue d die b pb q).map fun i => i.pieces.length).sum
    sendItems die b pb q (n + 1) d) d

/-- Stores the outcome of reading on: waits raise the hold for work that a bundle issued, faults stop the descriptor. -/
def settle (die b : Nat) (pb : Bool) (q : QueueId) (r : Adv) : Dev :=
  match r with
  | .go d i | .later d i => setItem d die b pb q { closeAtEnd d i with wait := none }
  | .wait d i w =>
    let d := setItem d die b pb q { i with wait := some w }
    if i.ring then d else raiseHold d die b w.cause
  | .bad d i row c k e a => pumpFault d die b pb q i c row k e a
where
  /-- When everything is read, the open row's mark follows the last write (R136 rule 3). -/
  closeAtEnd (d : Dev) (i : PumpItem) : PumpItem := if i.readDone then closeOpen d i none i.row else i

/-- The segments that a descriptor can have: fuel for reading on. -/
def readFuel (x : PumpDesc) : Nat := (readRows x + 1) * (x.len + 2)

/-- Reads on at a descriptor of a queue: as far as it can, or the segments that the command moves. Arbitrations that its
reads lost are counted (R117). -/
def goOn (d : Dev) (die b : Nat) (pb : Bool) (q : QueueId) (i : PumpItem) (env : PumpEnv) : Dev :=
  let n := (env.segments.map (min (readFuel i.desc))).getD (readFuel i.desc)
  let d := sendPump (settle die b pb q (readOn die b pb env n d { i with wait := none })) die b pb
  let d := farLost d die b i env.far
  if i.ring then countLost d die b env.well else arbLost d die b env.well
where
  /-- Arbitrations lost at the ports of the block whose well a descriptor reads (R117, R137): counted there, an interlock stall
  of the pump's block. -/
  farLost (d : Dev) (die b : Nat) (i : PumpItem) (e : WellEnv) : Dev :=
    match i.desc.src with
    | .package pd hb a =>
      if !lostPorts e then d
      else
        let d := countLost d pd (translateHome d pd hb a).1 e
        if i.ring then d else raiseHold d die b .bank
    | _ => d

/-! ## Starting (R130, R133, R135) -/

/-- The descriptor of a queue that has a segment to move: the first that has not read everything, unless it waits. -/
def nextItem (l : List PumpItem) : Option PumpItem :=
  (l.find? fun i => !i.readDone).bind fun i => if i.wait.isSome then none else some i

/-- The size of a ring (PMP_RING_SIZE). -/
def ringLog (d : Dev) (die b : Nat) (pb : Bool) : Nat :=
  min 12 (fget d (pumpReg R.PMP_RING_SIZE die b pb) F.PMP_RING_SIZE_LOG2)

/-- Takes the ring entry at HEAD into service (R129), unless a snapshot keeps it back: HEAD advances; a malformed entry is
consumed with a decode fault. -/
def ringFetch (d : Dev) (die b : Nat) (pb : Bool) : Dev :=
  let hd := fget d (pumpReg R.PMP_RING_HEAD die b pb) F.PMP_RING_HEAD_HEAD
  let tl := fget d (pumpReg R.PMP_RING_TAIL die b pb) F.PMP_RING_TAIL_TAIL
  if hd = tl || !(pumpQueue d die b pb .ring).isEmpty then d
  else
    let base := fget d (pumpReg R.PMP_RING_BASE die b pb) F.PMP_RING_BASE_BASE * 64
    let x := ofLeBytes (hallRead d die (base + 64 * hd) 64)
    let old := d
    let d := fset d (pumpReg R.PMP_RING_HEAD die b pb) F.PMP_RING_HEAD_HEAD ((hd + 1) % pow2 (ringLog d die b pb))
    match parseDesc true [] x with
    | .ok y =>
      let k := freshId d
      if ringHeld d y then old
      else
      setQueue k.1 die b pb .ring
        [{ desc := y, serial := k.2, index := hd, ring := true, bundle := 0, slot := 0, genOffset := 0 }]
    | .decode => recordPumpErr d die b pb .ring .decode 0 hd (bits x 448 16)
    | .segment => recordPumpErr d die b pb .ring .segment 0 hd (bits x 448 16)

/-- The queue that the pump takes its next segment from: the direct queue, otherwise the sluice, otherwise the ring
(R130). A queue whose descriptor waits has no segment to move. -/
def nextSegment (d : Dev) (die b : Nat) (pb : Bool) : Option (QueueId × PumpItem) :=
  [QueueId.direct, .sluice, .ring].findSome? fun q => (nextItem (pumpQueue d die b pb q)).map fun i => (q, i)

/-- A pump starts its next descriptor, or goes on with the one it has begun, where that is one of the operation named. -/
def pumpStart (d : Dev) (die b : Nat) (pb : Bool) (op : PumpOp) (env : PumpEnv) : Dev :=
  let d := match nextSegment d die b pb with
    | some _ => d
    | none => ringFetch d die b pb
  match nextSegment d die b pb with
  | none => d
  | some (q, i) =>
    if i.desc.op = op then
      let i := { i with started := true }
      goOn (setItem d die b pb q i) die b pb q i env
    else d

/-- A descriptor of a queue goes on, unless a queue that the pump serves first has a segment to move (R130). -/
def goOnNow (d : Dev) (die b : Nat) (pb : Bool) (q : QueueId) (i : PumpItem) (env : PumpEnv) : Dev :=
  let first := (nextSegment (setItem d die b pb q { i with wait := none }) die b pb).map Prod.fst
  if first = some q then goOn d die b pb q i env else d

/-- The waiting descriptors of a pump go on, each queue's own, in the order in which the pump serves its queues (R130): one
whose wait has not ended waits on and keeps no other queue back. -/
def pumpGoOn (d : Dev) (die b : Nat) (pb : Bool) (env : PumpEnv) : Dev :=
  [QueueId.direct, .sluice, .ring].foldl (fun d q =>
    match (pumpQueue d die b pb q).find? fun i => i.started && !i.readDone with
    | none => d
    | some i => goOnNow d die b pb q i env) d

/-! ## Merged reads (R154) -/

/-- A read's response has not passed back: it awaits its mark, or the piece that its data is for has not left the pump. -/
def askOpen (d : Dev) (r : WellAsk) : Bool :=
  match r.reply with
  | .pending => askWaits d r
  | .overtaken => false
  | .data .. =>
    [QueueId.direct, .sluice, .ring].any fun q =>
      (pumpQueue d r.byDie r.byBlock r.byPumpB q).any fun i =>
        i.pieces.any fun p => !p.landed && !p.sent && p.parts.any fun x => x.1 == r.id

/-- A descriptor's read has merged into another, and has not been answered. -/
def askFollowed (d : Dev) (r : WellAsk) : Bool :=
  d.blocks.any fun e => [e.2.pumpA, e.2.pumpB].any fun p => (p.direct ++ p.sluice ++ p.ring).any fun i =>
    !i.failed && i.merged.any fun m => m.1 == r.id

/-- Reads whose answers have come, and that nothing waits for, are done with. -/
def dropAsks (d : Dev) : Dev := { d with asks := d.asks.filter fun r => askOpen d r || askFollowed d r }

/-- The requests that have merged into a read at a square. -/
def mergedAt (r : WellAsk) (die b : Nat) : Nat :=
  ((r.merged.find? fun m => m.1 == die && m.2.1 == b).map fun m => m.2.2).getD 0

/-- A square lies on the way between two others. -/
def onWay (d : Dev) (die b : Nat) (from_ dest : Nat × Nat) : Bool :=
  (route d (.square from_.1 from_.2) (.square dest.1 dest.2)).any fun w => w.squares.contains (die, b)

/-- A read's request has been forwarded by a square, and its response passes back there: the way runs to the block, or to the
square where the read merged into another, and from there back. -/
def passesSquare (d : Dev) (die b : Nat) (r : WellAsk) : Bool :=
  let dest := r.at_.getD (r.die, (translateHome d r.die r.block r.addr).1)
  onWay d die b (r.byDie, r.byBlock) dest && onWay d die b dest (r.byDie, r.byBlock) && r.at_ != some (die, b)

/-- The index that a descriptor's next row uses, as far as it can be read now. -/
def peekIndex (d : Dev) (die b : Nat) (i : PumpItem) : Option Nat :=
  if i.at_ ≠ 0 then some i.idx
  else
    let a := i.desc.idxAddr + 4 * i.row
    let have_ := if i.idxFrom ≤ a then i.idxBytes.drop (a - i.idxFrom) else []
    if 4 ≤ have_.length then some (ofLeBytes (have_.take 4))
    else
      let check (ha : Nat) : Bool :=
        !i.desc.idxCheck || markCheck (blk d die b) false (ha / 1024) ((i.desc.idxGen + i.genOffset) % 8) == .ok
      let rest := (cuts (a + have_.length) (4 - have_.length)).map fun c =>
        match locPump d die b i (.ownWell 0) c.1 with
        | .well hd hb ha => if check ha then some (wellRead d hd hb ha c.2) else none
        | .bad .. => none
      if rest.all Option.isSome then some (ofLeBytes (have_ ++ rest.flatMap (·.getD []))) else none

/-- Where the next segment of a descriptor reads and how much (R130, R133, R135). -/
def nextRange (d : Dev) (die b : Nat) (i : PumpItem) : Option (Nat × Nat) :=
  let x := i.desc
  if x.op = .unskew16 || x.op = .skew16 then (rowStart x.src x.sstride i.row).map fun s => (s, 64 * x.sfmt.bytes)
  else
    (if x.op = .copy then some i.row else peekIndex d die b i).bind fun k =>
      (rowStart x.src x.sstride (if x.op = .gather then k else i.row)).bind fun s0 =>
        (rowStart x.dst x.dstride (if x.op = .scatter then k else i.row)).map fun d0 =>
          let s := s0 + i.at_ * x.sfmt.bytes
          (s, segmentLen i s (d0 + i.at_ * x.dfmt.bytes) * x.sfmt.bytes)

/-- The next read of a pump: the package well it asks and the range, within one wide row, and the generation it checks. -/
def nextAsk (d : Dev) (die b : Nat) (pb : Bool) : Option (QueueId × PumpItem × (Nat × Nat × Nat × Nat) × Nat) :=
  (nextSegment d die b pb).bind fun qi =>
    match qi.2.desc.src with
    | .package pd hb _ =>
      if !qi.2.desc.scheck then none
      else
        (nextRange d die b qi.2).bind fun r => (cuts r.1 r.2).head?.map fun c =>
          (qi.1, qi.2, (pd, hb, c.1, c.2), (qi.2.desc.sgen + qi.2.genOffset) % 8)
    | _ => none

/-- A pump's read request merges at a square into a read that is on its way (R154): the same well address, length, VC and
generation, both checked, at most 8 at one square. The request is not forwarded, no mark is checked and no bank is
accessed: the requester's read has that read's outcome, now or when it comes. -/
def readMerge (d : Dev) (die b : Nat) (byDie byBlock : Nat) (pb : Bool) (id : Nat) : Dev :=
  match nextAsk d byDie byBlock pb, d.asks.find? fun r => r.id = id with
  | some (q, i, asked, g), some r =>
    if (r.die, r.block, r.addr, r.len) = asked && r.vc = i.desc.vc && r.gen = g && askOpen d r && mergedAt r die b < 8
        && (r.byDie, r.byBlock, r.byPumpB) != (byDie, byBlock, pb) && passesSquare d die b r
        && onWay d die b (byDie, byBlock) (r.die, (translateHome d r.die r.block r.addr).1) then
      let r' := { r with merged := (r.merged.filter fun m => !(m.1 == die && m.2.1 == b)) ++ [(die, b, mergedAt r die b + 1)] }
      let d := { d with asks := d.asks.map fun o => if o.id = id then r' else o }
      let d := fcnt d (ctl R.SQR_MERGE_CNT die b) F.SQR_MERGE_CNT_COUNT 1
      let i := { i with started := true, merged := some (id, die, b) }
      goOn (setItem d byDie byBlock pb q i) byDie byBlock pb q i { segments := some 1 }
    else d
  | _, _ => d

/-! ## Landing (R136, R137) -/

/-- Sets marks of wide rows. -/
def setMarks (d : Dev) (l : List (Nat × Nat × Nat × Nat)) : Dev :=
  l.foldl (fun d m => setBlk d m.1 m.2.1 (setMark (blk d m.1 m.2.1) false m.2.2.1 m.2.2.2)) d

/-- How a piece lands: it does, or a bank is not ready, at a row or a line. -/
inductive LandRes where
  | ok (d : Dev)
  | bad (kind : EntryKind) (entry : Nat) (line : Option Nat)

/-- The bytes of a piece land at a well or cistern of this device. -/
def landBytes (die b : Nat) (i : PumpItem) : List (Nat × Nat) → List Byte → Endpoint → Dev → LandRes
  | [], _, _, d => .ok d
  | (a, n) :: cs, bs, e, d =>
    match e with
    | .cistern _ =>
      if cisReady d die b (a / 1024) then
        let x := blk d die b
        landBytes die b i cs (bs.drop n) e (setBlk d die b { x with cistern := memWrite x.cistern a (bs.take n) })
      else .bad .none 0 (some (a / 1024))
    | _ =>
      match locPump d die b i e a with
      | .bad _ kind row => .bad kind row none
      | .well hd hb ha =>
        let x := blk d hd hb
        landBytes die b i cs (bs.drop n) e (setBlk d hd hb { x with well := memWrite x.well ha (bs.take n) })

/-- The first piece of a queue to land here: pieces for wells and cisterns land in order; a piece of marks alone follows
every earlier store of the queue. Answers the descriptor, the piece's position and whether all before it have landed. -/
def nextLanding : List PumpItem → Bool → Option (PumpItem × Nat × Bool)
  | [], _ => none
  | i :: is, before =>
    match scan i.pieces 0 before with
    | .inl k => some (i, k.1, k.2)
    | .inr before => nextLanding is before
where
  /-- Looks through the pieces of one descriptor. -/
  scan : List PumpPiece → Nat → Bool → (Nat × Bool) ⊕ Bool
    | [], _, before => .inr before
    | p :: ps, k, before =>
      if p.landed then scan ps (k + 1) before
      else if p.remote || (p.dst.isNone && !before) then scan ps (k + 1) false
      else .inl (k, before)

/-- The block of this device that a piece is written to. -/
def PumpPiece.toBlock (d : Dev) (die b : Nat) (p : PumpPiece) : Option (Nat × Nat) :=
  match p.dst with
  | some (.package pd hb a) => some (pd, (translateHome d pd hb a).1)
  | some (.ownWell _) | some (.cistern _) => some (die, b)
  | _ => none

/-- An earlier-issued write of the pump to the same block, from another of its queues, has not landed (R137). -/
def earlierWrite (d : Dev) (die b : Nat) (pb : Bool) (p : PumpPiece) : Bool :=
  [QueueId.direct, .sluice, .ring].any fun q =>
    (pumpQueue d die b pb q).any fun i =>
      i.pieces.any fun o => o.no < p.no && !o.landed && (o.toBlock d die b).isSome && o.toBlock d die b == p.toBlock d die b

/-- The next pump write of a queue lands (R136, R137). A line write waits while a forced refresh holds its sub-bank or the
tile loader the line port (R108, R110), and a write waits for those to its block that the pump issued before it. -/
def pumpLand (d : Dev) (die b : Nat) (pb : Bool) (q : QueueId) (env : WellEnv) : Dev :=
  match nextLanding (pumpQueue d die b pb q) true with
  | none => d
  | some (i, k, before) =>
    match i.pieces[k]? with
    | none => d
    | some p =>
      if !p.whole then d
      else if earlierWrite d die b pb p then
        -- a write that a bundle issued waits (R183; DESIGN CHOICE: cause BANK, log entry 106)
        if i.ring then d else raiseHold d die b .bank
      else
        match p.dst with
        | none => setMarks (setItem d die b pb q (setPiece i k { p with landed := true })) p.marks
        | some e =>
          let c := convertPiece i.desc (partBytes p.parts)
          let lines := match e with
            | .cistern a => (List.range ((c.1.length + 1023) / 1024)).map fun k => a / 1024 + k
            | _ => []
          let forced := forcedSubs (blk d die b) lines
          if !forced.isEmpty then holdClaims d die b forced
          else if !lines.isEmpty && loaderClaims d die b then d   -- the line port is the tile loader's (R108)
          else
            match landBytes die b i (cuts e.addr c.1.length) c.1 e d with
            | .bad kind entry line =>
              -- the write is refused: its piece is gone, whatever the descriptor has met before
              let j := { i with pieces := i.pieces.eraseIdx k }
              pumpFault (setItem d die b pb q j) die b pb q j .bankDown p.row kind entry line
            | .ok d =>
              let t := (p.toBlock d die b).getD (die, b)
              let d := if lostPorts env then
                  if q == .ring then countLost d t.1 t.2 env else raiseHold (countLost d t.1 t.2 env) die b .bank
                else d
              let d := cvtCount d (convertDie die i.desc) c.2.1 c.2.2
              let far := match e with
                | .package pd hb _ => !(pd == die && hb == b)
                | _ => false
              let d := if far then
                  -- the narrower format travels (R134)
                  let n := flitsOf (min c.1.length (partBytes p.parts).length)
                  travel (countFlits d die b pb n) (.square die b) (.square t.1 t.2) n
                else d
              if before then setMarks (setItem d die b pb q (setPiece i k { p with landed := true })) p.marks
              else if p.marks.isEmpty then setItem d die b pb q (setPiece i k { p with landed := true })
              else setItem d die b pb q (setPiece i k { p with parts := [], dst := none })

/-- Data of a read arrives at a pump: its part is filled in, and what can go is sent. -/
def pumpData (d : Dev) (die b : Nat) (pb : Bool) (rid : Nat) (bytes : List Byte) : Dev :=
  let fill (p : PumpPiece) : PumpPiece :=
    { p with parts := p.parts.map fun x => if x.1 = rid && x.2.isNone then (x.1, some bytes) else x }
  let d := [QueueId.direct, .sluice, .ring].foldl (fun d q =>
    setQueue d die b pb q ((pumpQueue d die b pb q).map fun i => { i with pieces := i.pieces.map fill })) d
  sendPump d die b pb

/-- The descriptor of a pump that holds a piece or a read of a number. -/
def findRid (d : Dev) (die b : Nat) (pb : Bool) (rid : Nat) : Option (QueueId × PumpItem × Nat) :=
  [QueueId.direct, .sluice, .ring].findSome? fun q =>
    (pumpQueue d die b pb q).findSome? fun i =>
      (i.pieces.findIdx? fun p => (p.sent && p.rid == rid) || p.parts.any fun x => x.1 == rid).map fun k => (q, i, k)

/-- A piece that was handed on has landed at its destination. -/
def pumpLanded (d : Dev) (die b : Nat) (pb : Bool) (rid : Nat) : Dev :=
  match findRid d die b pb rid with
  | none => d
  | some (q, i, k) =>
    match i.pieces[k]? with
    | none => d
    | some p => setItem d die b pb q (setPiece i k { p with landed := true })

/-- A read or write that was handed on has been refused: its descriptor faults, and the piece is gone. -/
def pumpRefused (d : Dev) (die b : Nat) (pb : Bool) (rid : Nat) (c : FaultCode) : Dev :=
  match findRid d die b pb rid with
  | none => d
  | some (q, i, k) =>
    let row := ((i.pieces[k]?).map PumpPiece.row).getD 0
    let j := { i with pieces := i.pieces.eraseIdx k }
    if i.failed then setItem d die b pb q j else pumpFault d die b pb q j c row

/-! ## Completion (R138) -/

/-- The identity of a pump's completion signal. -/
def pumpSignal (d : Dev) (die b : Nat) (i : PumpItem) : SignalId :=
  { die, block := b, unit := 0xB, bundle := i.bundle, cycle := (blk d die b).seq.cycle, tag := i.desc.tag,
    aux := gateAux i.desc.gateDie i.desc.gate, step := !i.ring }

/-- A fountain forgets a descriptor that has ended. -/
def forgetDesc (d : Dev) (i : PumpItem) : Dev :=
  match i.desc.dst with
  | .fountain h _ _ =>
    let k := mgetD d.fountains h {}
    { d with fountains := mset d.fountains h { k with descs := mdel k.descs i.serial } }
  | _ => d

/-- The oldest descriptor of a queue completes when everything is read and every piece has landed: its gate is signalled
after its last mark. A descriptor that a fault stopped leaves the queue without a signal. -/
def descComplete (d : Dev) (die b : Nat) (pb : Bool) (q : QueueId) : Dev :=
  match pumpQueue d die b pb q with
  | [] => d
  | i :: is =>
    if !(i.started && i.readDone && i.pieces.all PumpPiece.landed) then d
    else
      let d := forgetDesc d i
      let d := dropAsks d
      match i.refusedBy with
      | some c =>
        let d := pumpFault d die b pb q i c.1 c.2
        setQueue d die b pb q is
      | none =>
        let d := setQueue d die b pb q is
        if i.failed then d
        else
          let d := fcnt d (pumpReg R.PMP_DESC_CNT die b pb) F.PMP_DESC_CNT_COUNT 1
          if !i.desc.gateEn then d
          else if i.desc.gateRemote then
            remoteSignal d i.desc.gateFa i.desc.gateDie i.desc.gate 1 (pumpStamp d die b pb) (pumpSignal d die b i)
          else localGateOp d i.desc.gateDie i.desc.gate (.signal 1) (.block die b) (pumpSignal d die b i)

/-- A descriptor joins its queue (R130). -/
def descIssue (d : Dev) (die b : Nat) (pb : Bool) (u : UnitCtx) (s : PumpSlot) (y : PumpDesc) : Dev :=
  let k := freshId d
  let x := blk k.1 die b
  let i : PumpItem :=
    { desc := y, serial := k.2, index := s.desc, ring := false, bundle := bundleAddr u.slot x.seq.pos.pc,
      slot := u.slot, genOffset := s.genOffset }
  let q := queueOf y
  setQueue (setBlk k.1 die b { x with issueNo := x.issueNo + 1 }) die b pb q (pumpQueue k.1 die b pb q ++ [i])

/-- A repair has ended (R113), and a pump's relocation read that waited on its line goes on, or faults CISTERN where the
repair failed. -/
def repairEnd (d : Dev) (die b : Nat) (data : Option (List Byte)) : Dev :=
  let x := blk d die b
  match x.repairs with
  | [] => d
  | r :: _ =>
    let d := groundRepairDone d die b data
    let still := (blk d die b).repairs.any fun p => p.line == r.line
    if still then d
    else
      [false, true].foldl (fun d pb =>
        match (pumpQueue d die b pb .ring).find? fun i => i.wait == some { cause := .mark, on := .repairLine r.line } with
        | none => d
        | some i =>
          if data.isNone then pumpFault d die b pb .ring i .cistern i.row .none 0 (some r.line)
          else goOnNow d die b pb .ring i {}) d

end Sys2Proof.Machine
end

