-- ==== Sys2Proof/Machine/Reservoir.lean ====
section
/-! DEFINITION. Machine/Reservoir: the reservoir stacks: page table and fences (R198, R199), accesses in order (R202),
parity (R204), shares (R200), and the ground reads of repairs (R113, R114). -/

namespace Sys2Proof.Machine

/-! ## Pages (R196) -/

/-- Pages of the device. -/
def pageCount : Nat := 393216

/-- The entry of a local page (RSV_PT_ENTRY). -/
abbrev pageReg (s lp : Nat) : Nat := ctlSel R.RSV_PT_ENTRY (48 + s) 0 lp

/-- The kind of a page entry. -/
def entryKind (w : Word) : Nat := bits w.toNat 0 3

/-- The entry against which accesses to a page are checked: the last fence waiting for it, or the entry itself (R199). -/
def checkEntry (d : Dev) (s lp : Nat) : Word :=
  (((mgetD d.stackTab s {}).fences.filter fun f => f.1 = lp).getLast?.map fun f => f.2.2).getD (rd d (pageReg s lp))

/-- The zero-fill of a page is running. -/
def pageZeroing (d : Dev) (s lp : Nat) : Bool := flag d (pageReg s lp) F.RSV_PT_ENTRY_ZEROING

/-- A stack serves accesses. -/
def stackServes (d : Dev) (s : Nat) : Bool := flag d (ctl R.RSV_STATUS (48 + s) 0) F.RSV_STATUS_READY

/-- An access is refused by a page's entry, or by its stack (R197, R198). -/
def refusedBy (d : Dev) (s : Nat) (a : RsvAcc) (e : Word) : Bool :=
  let p := a.addr / 2097152
  let k := entryKind e
  !stackServes d s || pageCount ≤ p || k == 0 || k == 7 || pageZeroing d s (p / 8)
    || (!a.ring && !(if a.data.isSome then bit e.toNat 4 else bit e.toNat 3))

/-- An access that arrives is refused (R197, R198). -/
def rsvRefused (d : Dev) (s : Nat) (a : RsvAcc) : Bool := refusedBy d s a (checkEntry d s (a.addr / 2097152 / 8))

/-- An entry of a reservoir page that was written before number `seq` still waits (R199). -/
def fencedBefore (d : Dev) (p seq : Nat) : Bool :=
  (mgetD d.stackTab (p % 8) {}).fences.any fun f => f.1 == p / 8 && f.2.1 < seq

/-- Counts a refused access. -/
def countRsvRefusal (d : Dev) (s : Nat) : Dev :=
  fcnt d (ctl R.RSV_REFUSE_CNT (48 + s) 0) F.RSV_REFUSE_CNT_COUNT 1

/-- Stores the record of a stack. -/
def setStack (d : Dev) (s : Nat) (k : Stack) : Dev := { d with stackTab := mset d.stackTab s k }

/-! ## Accesses -/

/-- Two accesses come from one source. -/
def sameSource : Origin → Origin → Bool
  | .pump d b p _, .pump d' b' p' _ => d == d' && b == b' && p == p'
  | .core d c, .core d' c' => d == d' && c == c'
  | .repair d b, .repair d' b' => d == d' && b == b'
  | _, _ => false

/-- An access may arrive now: within one VC, accesses from one source arrive in the order sent (R202). -/
def mayArrive (l : List RsvAcc) (n : Nat) : Bool :=
  match l[n]? with
  | none => false
  | some a => !(l.take n).any fun o => o.vc == a.vc && sameSource o.origin a.origin

/-- The requester of a refused access learns of it (R139, R198). A core's access faults. -/
def rsvRefusedTo (d : Dev) (a : RsvAcc) : Dev :=
  match a.origin with
  | .pump die b pb rid => pumpRefused d die b pb rid .reservoir
  | .window id => { d with winReads := d.winReads.map fun r => if r.id = id then { r with refused := true } else r }
  | .core die core => emit d .coreFault [die, core, if a.data.isSome then 7 else 5, pow2 40 + a.addr]
  | _ => d

/-- An access arrives at its base die and is checked (R197, R198): refused without effect, or accepted. -/
def rsvArrive (d : Dev) (s n : Nat) : Dev :=
  let k := mgetD d.stackTab s {}
  match k.arriving[n]? with
  | none => d
  | some a =>
    if !mayArrive k.arriving n then d
    else
      let d := setStack d s { k with arriving := k.arriving.eraseIdx n }
      if rsvRefused d s a then rsvRefusedTo (countRsvRefusal d s) a
      else
        let x := freshId d
        let k := mgetD x.1.stackTab s {}
        setStack x.1 s { k with accepted := k.accepted ++ [{ a with seq := x.2 }] }

/-- The 1 KiB segment of an access. -/
def RsvAcc.segment (a : RsvAcc) : Nat := a.addr / 1024

/-- The sender of a window read on its way, with its VC. -/
def winSender (d : Dev) : Origin → Option (Nat × Nat)
  | .window id => (d.winReads.find? fun r => r.id == id).map fun r => (r.src, r.vc)
  | _ => none

/-- An accepted access may be performed: it is the first of its segment (R202); entries of its page that were written
before it have taken effect, and a zero-fill that one of them started has ended (R199); a window read comes after the
writes that its sender sent before it on its VC (R248). -/
def mayServe (d : Dev) (s n : Nat) : Bool :=
  let k := mgetD d.stackTab s {}
  match k.accepted[n]? with
  | none => false
  | some a =>
    let lp := a.addr / 2097152 / 8
    !((k.accepted.take n).any fun o => o.segment == a.segment)
      && !(k.fences.any fun f => f.1 == lp && f.2.1 < a.seq) && !pageZeroing d s lp
      && !(d.accepted.any fun w => winSender d a.origin == some (w.src, w.vc) && w.seq < a.seq)

/-- Some access under the same number is still on its way or accepted. -/
def originPending (d : Dev) (o : Origin) : Bool :=
  d.stackTab.any fun e => (e.2.arriving ++ e.2.accepted).any fun a => a.origin == o

/-- Records a parity error of a read (R204). -/
def rsvParity (d : Dev) (s : Nat) (a : RsvAcc) (refused : Bool) : Dev :=
  let d := detect d (locId (48 + s) 3 (a.addr / 2097152 / 8))
  let cnt := ctl R.RSV_PERR_CNT (48 + s) 0
  let d := fcnt d cnt (if refused then F.RSV_PERR_CNT_REFUSED else F.RSV_PERR_CNT_REREAD) 1
  let st := ctl R.RSV_PERR_STATUS (48 + s) 0
  if flag d st F.RSV_PERR_STATUS_VALID then d
  else
    let lp := a.addr / 2097152 / 8
    let d := fsets d st [(F.RSV_PERR_STATUS_VALID, 1), (F.RSV_PERR_STATUS_OUTCOME, b2n refused),
      (F.RSV_PERR_STATUS_VC, a.vc - 1), (F.RSV_PERR_STATUS_KIND, entryKind (rd d (pageReg s lp)))]
    fsets d (ctl R.RSV_PERR_ADDR (48 + s) 0)
      [(F.RSV_PERR_ADDR_PAGE, lp), (F.RSV_PERR_ADDR_SEGMENT, a.addr % 2097152 / 1024)]

/-! ## Page entries (R199) -/

/-- A page entry takes a new value: a change to FREE starts a zero-fill; RETIRED pages are counted. -/
def applyEntry (d : Dev) (s lp : Nat) (v : Word) : Dev :=
  let a := pageReg s lp
  let old := entryKind (rd d a)
  let new := entryKind v
  if old = 7 then countRsvRefusal d s
  else
    let d := fsets d a [(F.RSV_PT_ENTRY_KIND, new), (F.RSV_PT_ENTRY_STEP_RD, bits v.toNat 3 1),
      (F.RSV_PT_ENTRY_STEP_WR, bits v.toNat 4 1), (F.RSV_PT_ENTRY_REFS, bits v.toNat 16 16)]
    let d := if new = 0 && old ≠ 0 then fset d a F.RSV_PT_ENTRY_ZEROING 1 else d
    if new = 7 then fcnt d (ctl R.RSV_STATUS (48 + s) 0) F.RSV_STATUS_RETIRED 1 else d

/-- Fences whose earlier accesses have completed apply, in order. -/
def applyFences (s : Nat) : Nat → Dev → Dev
  | 0, d => d
  | n + 1, d =>
    let k := mgetD d.stackTab s {}
    let free (f : Nat × Nat × Word) : Bool :=
      !(k.accepted.any fun a => a.addr / 2097152 / 8 == f.1 && a.seq < f.2.1)
        && !(k.fences.any fun g => g.1 == f.1 && g.2.1 < f.2.1)
    match k.fences.find? free with
    | none => d
    | some f =>
      applyFences s n (applyEntry (setStack d s { k with fences := k.fences.filter fun g => g != f }) s f.1 f.2.2)

/-- A new value for a page entry waits for the accesses accepted before it (R199). -/
def fenceEntry (d : Dev) (s lp : Nat) (v : Word) : Dev :=
  let x := freshId d
  let k := mgetD x.1.stackTab s {}
  applyFences s (k.fences.length + 1) (setStack x.1 s { k with fences := k.fences ++ [(lp, x.2, v)] })

/-- A write to the page entry that a path selects (R199). A selector beyond the table selects no entry; a retired page's
entry takes no further write. -/
def pageEntryWrite (d : Dev) (p : Path) (s : Nat) (v : Word) : Dev :=
  let lp := selField d p (ctl R.RSV_PT_SEL (48 + s) 0) F.RSV_PT_SEL_PAGE
  if 49151 < lp then d
  else if entryKind (checkEntry d s lp) = 7 then countRsvRefusal d s
  else fenceEntry d s lp v

/-- The zero-fill of a page ends. -/
def pageZeroed (d : Dev) (s lp : Nat) : Dev :=
  if pageZeroing d s lp then
    let d := fset d (pageReg s lp) F.RSV_PT_ENTRY_ZEROING 0
    { d with rsv := memZero d.rsv ((lp * 8 + s) * 2097152) 2097152 }
  else d

/-! ## Service (R202, R204) -/

/-- The bytes of a range of the reservoir. -/
def rsvRead (d : Dev) (addr n : Nat) : List Byte := memRead d.epoch unitRsv d.rsv addr n

/-- A page of which a read has been refused waits for what restores it (R204). -/
def pageLost (d : Dev) (a : RsvAcc) : Dev :=
  { d with srv := { d.srv with lostPages := (d.srv.lostPages ++ [a.addr / 2097152]).eraseDups } }

/-- A base die performs an accepted access; one whose stack no longer serves is refused (R197). `fails` is how many of the
three reads of the segment fail parity. -/
def rsvServe (d : Dev) (s n fails : Nat) : Dev :=
  let k := mgetD d.stackTab s {}
  match k.accepted[n]? with
  | none => d
  | some a =>
    if !mayServe d s n then d
    else
      let d := setStack d s { k with accepted := k.accepted.eraseIdx n }
      let d := if !stackReachable d s then rsvRefusedTo d a
        else if !stackServes d s then rsvRefusedTo (countRsvRefusal d s) a
        else match a.data with
        | some bs =>
          let d := { d with rsv := memWrite d.rsv a.addr bs }
          match a.origin with
          | .pump die b pb rid => if originPending d a.origin then d else pumpLanded d die b pb rid
          | _ => d
        | none =>
          if 3 ≤ fails then rsvRefusedTo (pageLost (rsvParity d s a true) a) a
          else
            let d := if fails = 0 then d else rsvParity d s a false
            let bs := rsvRead d a.addr a.len
            match a.origin with
            | .pump die b pb rid =>
              pumpData (travel d (.edge (48 + s)) (.square die b) (flitsOf bs.length)) die b pb rid bs
            | .core die core => emit d .readData [die, core, a.addr] bs
            | .window id =>
              { d with winReads := d.winReads.map fun r => if r.id = id then { r with got := r.got ++ [(a.addr, bs)] } else r }
            | _ => d
      applyFences s ((mgetD d.stackTab s {}).fences.length + 1) d

/-! ## Shares (R200) -/

/-- The default shares. -/
def defaultShares : Nat := 10 + 50 * pow2 8 + 15 * pow2 16 + 25 * pow2 24

/-- RSV_SHARE applies at a step boundary; a sum above 100 applies the defaults and sets SHARE_ERR. -/
def shareApply (d : Dev) (s : Nat) : Dev :=
  let ap := ctl R.RSV_APPLY (48 + s) 0
  let a := ctl R.RSV_SHARE (48 + s) 0
  if flag d ap F.RSV_APPLY_APPLY && atBoundary d then
    let d := applyShadows d [a]
    let v := (rd d a).toNat
    let err := decide (100 < bits v 0 8 + bits v 8 8 + bits v 16 8 + bits v 24 8)
    let d := if err then wr d a (BitVec.ofNat 32 defaultShares) else d
    fset (fset d (ctl R.RSV_STATUS (48 + s) 0) F.RSV_STATUS_SHARE_ERR (b2n err)) ap F.RSV_APPLY_APPLY 0
  else d

/-! ## The reservoir aperture (R324, R325) -/

/-- The access, checked as a ring descriptor's; a misaligned one or one beyond 768 GiB faults at the core. -/
def apertureAccess (d : Dev) (a : ApertureAccess) : Dev :=
  let addr := a.addr.toNat
  let fault (d : Dev) : Dev := emit d .coreFault [a.die, a.core, if a.data.isSome then 7 else 5, pow2 40 + addr]
  if !([1, 2, 4, 8].contains a.width) || addr % a.width ≠ 0 || pageCount * 2097152 ≤ addr then fault d
  else
    let x : RsvAcc := { addr, len := a.width, data := a.data, vc := 4, ring := true, origin := .core a.die a.core }
    match sendRsv d x with
    | (d, false) => fault d
    | (d, true) => d

/-! ## Ground reads (R113, R114) -/

/-- The reservoir address of a cistern line's ground copy. -/
def groundAddr (d : Dev) (die b line : Nat) : Nat :=
  fget d (ctl (R.CIS_GROUND + 4 * (line / 4096)) die b) F.CIS_GROUND_PAGE * 2097152 + line % 4096 * 1024

/-- What the ground read of the oldest repair delivers: nothing where the reservoir refuses it, or where its reads fail;
`bad` where the line delivered fails parity. -/
def groundRead (d : Dev) (die b line fails : Nat) (bad : Bool) : Dev × Option (List Byte) :=
  let addr := groundAddr d die b line
  let s := (addr / 2097152) % 8
  let a : RsvAcc := { addr, len := 1024, data := none, vc := 3, ring := true, origin := .repair die b }
  if !stackReachable d s then (d, none)
  else
  let d := travel d (.square die b) (.edge (48 + s)) 1
  if rsvRefused d s a then (countRsvRefusal d s, none)
  else if 3 ≤ fails then (pageLost (rsvParity d s a true) a, none)
  else
    let d := travel d (.edge (48 + s)) (.square die b) 16
    let d := if fails = 0 then d else rsvParity d s a false
    (d, if bad then none else some (rsvRead d addr 1024))

/-- The ground read of the oldest repair returns (R113). It comes after accesses of its segment that were accepted before
it (R202), and after entries of its page that were written before it (R199). -/
def groundReturn (d : Dev) (die b fails : Nat) (bad : Bool) : Dev :=
  match (blk d die b).repairs with
  | [] => d
  | r :: _ =>
    let addr := groundAddr d die b r.line
    let k := mgetD d.stackTab ((addr / 2097152) % 8) {}
    let p := addr / 2097152
    -- a changed entry of its page takes effect first (R199)
    if (k.accepted.any fun a => a.segment == addr / 1024) || (entryKind (checkEntry d (p % 8) (p / 8)) != 0 && fencedBefore d p d.nextId) then d
    -- the line write waits for a forced action, and for the tile loader at the line port (R108, R110)
    else if forcedIn (blk d die b) (r.line / 4096) then holdClaims d die b [r.line / 4096]
    else if loaderClaims d die b then d
    else
      let g := groundRead d die b r.line fails bad
      repairEnd g.1 die b g.2

end Sys2Proof.Machine
end

