-- ==== Sys2Proof/Machine/Street.lean ====
section
/-! DEFINITION. Machine/Street: squares and bridges (R141 to R149, R154, R381) and the fountains (R155 to R158). -/

namespace Sys2Proof.Machine

/-! ## Bridges (R12, R148, R215) -/

/-- The mask of the lanes retired at a bridge port. -/
def laneMask (d : Dev) (die port : Nat) : Nat :=
  (rd d (ctl R.BRG_LANE_RET_LO die port)).toNat + (rd d (ctl R.BRG_LANE_RET_HI die port)).toNat * pow2 32

/-- A lane of a bridge port is retired. -/
def laneRetired (d : Dev) (die port lane : Nat) : Bool := bit (laneMask d die port) lane

/-- How many lanes are retired at a bridge port. -/
def lanesRetired (d : Dev) (die port : Nat) : Nat := ((List.range 64).filter (laneRetired d die port)).length

/-- BRG_STATUS of one end for a bridge that is up or down: a bridge that is down has no active lane, which is fewer than 64. -/
def setBridgeEnd (d : Dev) (up : Bool) (die port : Nat) : Dev :=
  let n := if up then 64 - lanesRetired d die port else 0
  fsets d (ctl R.BRG_STATUS die port)
    [(F.BRG_STATUS_UP, b2n (0 < n)), (F.BRG_STATUS_LANES, n), (F.BRG_STATUS_DEGRADED, b2n (n < 64))]

/-- ISOLATED of a head's aqueducts follows its reachability, and is announced to the peers of its fabric aqueducts (R215,
R230). -/
def headIsolation (d : Dev) (h : Nat) (was : Bool) : Dev :=
  let now := headReachable d h
  if now = was then d
  else
    (List.range 8).foldl (fun d k =>
      let a := ctl R.AQD_STATUS (56 + h) k
      let d := fset d a F.AQD_STATUS_ISOLATED (b2n !now)
      if flag d a F.AQD_STATUS_UP && !flag d a F.AQD_STATUS_MODE_ACTIVE then emit d .isolated [h * 8 + k, b2n !now] else d) d

/-- A bridge goes up or down at both of its ends. -/
def setBridge (d : Dev) (die port : Nat) (up : Bool) : Dev :=
  match bridgePeer die port with
  | none => d
  | some (pd, pp) =>
    let h := if 56 ≤ die then some (die - 56) else if 56 ≤ pd then some (pd - 56) else none
    let was := (h.map (headReachable d)).getD false
    let d := setBridgeEnd (setBridgeEnd d up die port) up pd pp
    match h with
    | some h => headIsolation d h was
    | none => d

/-- A lane is listed as retired at one end. -/
def listLane (d : Dev) (die port lane : Nat) : Dev :=
  if lane < 32 then fset d (ctl R.BRG_LANE_RET_LO die port) ⟨lane, 1⟩ 1
  else fset d (ctl R.BRG_LANE_RET_HI die port) ⟨lane - 32, 1⟩ 1

/-- A bridge lane retires in both directions (R381, R148); a bridge without lanes goes down. -/
def retireLane (d : Dev) (die port lane : Nat) : Dev :=
  match bridgePeer die port with
  | none => d
  | some (pd, pp) =>
    let up := bridgeUp d die port
    setBridge (listLane (listLane d die port lane) pd pp lane) die port up

/-- A write of DIE_BRG_RETIRE; without GO it retires nothing. -/
def bridgeRetireWrite (d : Dev) (die v : Nat) : Dev :=
  if bit v 8 then retireLane d die (bits v 0 2) (bits v 2 6) else d

/-! ## Retries (R147) -/

/-- The lower-numbered square of a street link and its bit there (R376). -/
def streetLoc (b link : Nat) : Nat :=
  match link with
  | 0 => (b - 6) * 5 + 2
  | 3 => (b - 1) * 5 + 1
  | _ => b * 5 + link

/-- A link carries traffic: a street link that exists (R141) and is not retired (R144); a lane of a bridge that is connected
and up (R12, R148) and that is not retired itself. -/
def LinkId.carries (l : LinkId) (d : Dev) : Bool :=
  match l with
  | .street die b link => bit (squareLinks b) link && !linkRetired d die b link
  | .bridge die port lane => portPresent die port && bridgeUp d die port && !laneRetired d die port lane

/-- A link refuses a flit and the sender replays (R147): the replay is counted and is a detected error; `crc` where a
CRC-32C failed. A wait that ends on the replayed flit is recorded with cause RETRY (R177). -/
def linkRetry (d : Dev) (l : LinkId) (crc : Bool) (waiter : Option (DieId × BlockId)) : Dev :=
  if !l.carries d then d
  else
    let d := match l with
      | .street die b link =>
        detect (fcnt d (ctl R.SQR_RETRY_CNT die b) F.SQR_RETRY_CNT_RETRY 1) (locId die 5 (streetLoc b link))
      | .bridge die port lane =>
        let a := ctl R.BRG_RETRY_CNT die port
        let d := fcnt (fcnt d a F.BRG_RETRY_CNT_RETRY 1) a F.BRG_RETRY_CNT_CRC (b2n crc)
        detect d (locId die 4 (port * 64 + lane))
    match waiter with
    | none => d
    | some (die, b) =>
      let q := (blk d die b).seq
      if q.holdCause.isSome then setSeq d die b { q with holdCause := some .retry } else d

/-- SQR_RETIRE applies at a step boundary (R144). -/
def squareApply (d : Dev) (die b : Nat) : Dev :=
  let ap := ctl R.SQR_APPLY die b
  if flag d ap F.SQR_APPLY_APPLY && atBoundary d then
    let d := applyShadows d [ctl R.SQR_RETIRE die b]
    let links := fget d (ctl R.SQR_RETIRE die b) F.SQR_RETIRE_LINKS
    fset (fset d (ctl R.SQR_STATUS die b) F.SQR_STATUS_RETIRED links) ap F.SQR_APPLY_APPLY 0
  else d

/-! ## Fountains (R155 to R158) -/

/-- A fountain. -/
def fountain (d : Dev) (h : Nat) : Fountain := mgetD d.fountains h {}

/-- Stores a fountain. -/
def setFountain (d : Dev) (h : Nat) (k : Fountain) : Dev := { d with fountains := mset d.fountains h k }

/-- Replaces a held frame. -/
def setFrame (d : Dev) (h : Nat) (f : FtnFrame) : Dev :=
  let k := fountain d h
  setFountain d h { k with held := k.held.map fun g => if g.id = f.id then f else g }

/-- Every earlier frame of the descriptor has gone to the target, which receives them in order: it holds them, be their
acceptances still on their way (R156 and its example, in which F0 to F2 are offered before F0 is acknowledged). -/
def earlierSent (l : List FtnFrame) (f : FtnFrame) (t : Nat) : Bool :=
  (l.takeWhile fun g => g.id != f.id).all fun g => g.desc != f.desc || g.offered.getD t false

/-- What grants credits for a target of a held frame, by the entry that its descriptor took (R155, R156). -/
def fntPlace (f : FtnFrame) (y : FtnDesc) (t : Nat) : Option FtnPlace :=
  match fntEndpoint (y.entries.getD t 0) f.off with
  | some (.window fa win _) => some (.window fa win f.wgen)
  | some (.package die b _) => some (.square die b f.vc)
  | _ => none

/-- The place that a credit comes from. -/
def CreditFrom.place : CreditFrom → FtnPlace
  | .square die b vc => .square die b vc
  | .window fa win gen => .window fa win gen

/-- The number kept for a place. -/
def placeGet (l : List (FtnPlace × Nat)) (p : FtnPlace) : Nat := ((l.find? fun e => e.1 == p).map Prod.snd).getD 0

/-- Keeps a number for a place. -/
def placeSet (l : List (FtnPlace × Nat)) (p : FtnPlace) (n : Nat) : List (FtnPlace × Nat) :=
  (p, n) :: l.filter fun e => e.1 != p

/-- The credits that a place has granted and that stand unused. -/
def fntCredits (d : Dev) (h : Nat) : FtnPlace → Nat
  | .window fa win gen => (creditAt d h fa win gen).have_
  | p => placeGet (fountain d h).credits p

/-- Offers a frame to a target where it may be offered (R156): with a credit, in order, and not twice. `again` where it
counts as a re-offer: every offer that a returned credit brings does, the first of its frame to the target too (DESIGN
CHOICE, log entry 107). -/
def offerOne (h : Nat) (again : Bool) (d : Dev) (fid t : Nat) : Dev :=
  let k := fountain d h
  match k.held.find? fun f => f.id = fid with
  | none => d
  | some f =>
    match mget k.descs f.desc with
    | none => d
    | some y =>
      if f.delivered.getD t false || f.offered.getD t false || y.refused.getD t false || !earlierSent k.held f t then d
      else
        let count (d : Dev) : Dev :=
          if again then fcnt d (ctl R.FNT_REOFFER_CNT (56 + h) 0) F.FNT_REOFFER_CNT_COUNT 1 else d
        let mark (d : Dev) : Dev :=
          let d := count (setFrame d h { f with offered := f.offered.set t true })
          let k := fountain d h
          setFountain d h
            { k with lastCredit := ((fntPlace f y t).map fun p => placeSet k.lastCredit p d.tally).getD k.lastCredit,
                     stalled := k.stalled.filter fun p => p != (f.desc, t) }
        match fntEndpoint (y.entries.getD t 0) f.off, fntPlace f y t with
        | some (.window fa win off), _ =>
          let c := creditAt d h fa win f.wgen
          if c.have_ = 0 then askCredit d h fa win f.wgen
          else
            let d := setCredit (mark d) { c with have_ := c.have_ - 1 }
            let d := addTxn d h (.write fa win f.wgen off f.bytes.length) (.fountain h f.id t)
            sendTo d fa f.vc .writeFrame [h, fa, f.vc, win, f.wgen, off] f.bytes
        | some (.package die b _), some p =>
          let c := fntCredits d h p
          if c = 0 then d
          else
            let d := travel (mark d) (.edge (56 + h)) (.square die b) (flitsOf f.bytes.length)
            setFountain d h { fountain d h with credits := placeSet (fountain d h).credits p (c - 1) }
        | _, _ => d

/-- Offers every held frame to every target it may be offered to, frames in order and targets in entry order. -/
def offerAll (d : Dev) (h : Nat) (again : Bool) : Dev :=
  (fountain d h).held.foldl (fun d f =>
    (List.range f.delivered.length).foldl (fun d t => offerOne h again d f.id t) d) d

/-- A relay entry is complete (R264): its window has received its bytes and its fountain holds none of its frames. It
signals its gate once. -/
def relayDone (d : Dev) (h e : Nat) : Dev :=
  let reg (p : Nat) : Nat := ctl (p + 0x10 * e) (56 + h) 1
  let r := mgetD d.relays (h * 64 + e) {}
  let k := fountain d h
  let busy := (k.incoming ++ k.held).any fun f => f.relay == some e
  if flag d (reg R.GAT_RLY_WIN) F.GAT_RLY_WIN_VALID && !r.signalled && !busy && 0 < r.bytes
      && (rd d (reg R.GAT_RLY_DONE)).toNat ≤ r.bytes then
    let d := { d with relays := mset d.relays (h * 64 + e) { r with signalled := true } }
    (performGate d (56 + h) (fget d (reg R.GAT_RLY_GATE) F.GAT_RLY_GATE_GATE) (.signal 1) .engine).1
  else d

/-- The numbers of relay entries' descriptors begin here; those of pumps are smaller. -/
def relayDesc : Nat := pow2 40

/-- Frames that every target holds or has refused are released; the pump's data has then landed (R156). A relay entry none of
whose frames is left begins anew, with the list and entries as they then are, and may be complete (R155, R264). -/
def releaseFrames (d : Dev) (h : Nat) : Dev :=
  let k := fountain d h
  let finished (f : FtnFrame) : Bool :=
    (List.range f.delivered.length).all fun t =>
      f.delivered.getD t false || (((mget k.descs f.desc).map fun y => y.refused.getD t false).getD false)
  let done := k.held.filter finished
  let left := k.held.filter fun f => !finished f
  let inUse (n : Nat) : Bool := n < relayDesc || (k.incoming ++ left).any fun f => f.desc == n
  let d := setFountain d h { k with held := left, descs := k.descs.filter fun y => inUse y.1 }
  done.foldl (fun d f => match f.relay with
    | some e => relayDone d h e
    | none => pumpLanded d f.die f.block f.pumpB f.rid) d

/-- A pump's frame that cannot be accepted faults its descriptor. -/
def refuseFrame (d : Dev) (f : FtnFrame) (c : FaultCode) : Dev :=
  if f.relay.isSome then d else pumpRefused d f.die f.block f.pumpB f.rid c

/-- The fountain accepts the frame that waits longest, where its store has room (R156), and offers it. The entries of the
list are taken at the first frame of a descriptor (R155). -/
def fntAccept (d : Dev) (h : Nat) : Dev :=
  let k := fountain d h
  match k.incoming with
  | [] => d
  | f :: rest =>
    let bytes := (k.held.map fun g => g.bytes.length).sum
    if 512 ≤ k.held.length || 2097152 < bytes + f.bytes.length then d
    else
      let desc : Option FtnDesc := (mget k.descs f.desc).or ((fntTargets d h f.list).map fun es =>
        { targets := es, entries := es.map (fntEntry d h), refused := es.map fun _ => false })
      match desc with
      | none => refuseFrame (setFountain d h { k with incoming := rest }) f .decode
      | some y =>
        if y.entries.any fun x => (fntEndpoint x f.off).isNone then
          refuseFrame (setFountain d h { k with incoming := rest }) f .segment
        else
          let no := y.targets.map fun _ => false
          let d := setFountain d h
            { k with incoming := rest, held := k.held ++ [{ f with delivered := no, offered := no, since := d.tally }],
                     descs := mset k.descs f.desc y }
          -- a descriptor whose every target has refused holds no frame
          releaseFrames (offerAll d h false) h

/-- A target is marked refused for a descriptor; its pump learns of it when the descriptor completes (R158). -/
def fntRefuse (d : Dev) (h desc t : Nat) (f : FtnFrame) (c : FaultCode) : Dev :=
  let k := fountain d h
  match mget k.descs desc with
  | none => d
  | some y =>
    let d := setFountain d h { k with descs := mset k.descs desc { y with refused := y.refused.set t true } }
    let d := if f.relay.isSome then d
      else match findRid d f.die f.block f.pumpB f.rid with
        | some (q, i, _) => setItem d f.die f.block f.pumpB q { i with refusedBy := some (i.refusedBy.getD (c, rowOf i f)) }
        | none => d
    releaseFrames d h
where
  /-- The transfer row of a frame. -/
  rowOf (i : PumpItem) (f : FtnFrame) : Nat := ((i.pieces.find? fun p => p.rid == f.rid).map PumpPiece.row).getD i.row

/-- The acceptance of a frame by a target arrives (R156): a landed write at a package well, or the acknowledgement of a
window. Held frames are then offered on. -/
def fntAcceptance (d : Dev) (h fid t : Nat) : Dev :=
  let k := fountain d h
  match k.held.find? fun f => f.id = fid with
  | none => d
  | some f =>
    match mget k.descs f.desc with
    | none => d
    | some y =>
      if !f.offered.getD t false || f.delivered.getD t false then d
      else
        let accept (d : Dev) : Dev :=
          offerAll (releaseFrames (setFrame d h { f with delivered := f.delivered.set t true }) h) h false
        match fntEndpoint (y.entries.getD t 0) f.off with
        | some (.package pd pb addr) =>
          let i : PumpItem := { desc := { op := .copy, sfmt := .bf16, dfmt := .bf16, logOff := 0, sbase := none, dbase := none,
                                          sgen := 0, scheck := false, dgen := 0, dmark := false, vc := f.vc,
                                          src := .ownWell 0, dst := .package pd pb addr, sstride := 0, dstride := 0, len := 1,
                                          rows := 1, wgen := 0, gate := 0, gateDie := 0, gateFa := 0, gateEn := false,
                                          gateRemote := false, idxAddr := 0, idxGen := 0, idxCheck := false, tag := 0 },
                                serial := 0, index := 0, ring := true, bundle := 0, slot := 0, genOffset := 0 }
          match landBytes f.die f.block i (cutRange (f.bytes.length / 1024 + 2) addr f.bytes.length) f.bytes
              (.package pd pb addr) d with
          | .ok d => accept d
          | .bad .. => fntRefuse d h f.desc t f .bankDown
        | _ => accept d

/-- The head, held frame and target of an outstanding write of a fountain. -/
def takeFntTxn (d : Dev) (h fid t : Nat) : Dev :=
  match d.txns.findIdx? fun x => x.origin == .fountain h fid t with
  | some i => { d with txns := d.txns.eraseIdx i }
  | none => d

/-- A window target refuses a frame with WINDOW_CLOSED (R158). -/
def fntTargetRefused (d : Dev) (h fid t : Nat) : Dev :=
  let k := fountain d h
  match k.held.find? fun f => f.id = fid with
  | none => d
  | some f =>
    if !f.offered.getD t false || f.delivered.getD t false || ((mget k.descs f.desc).map fun y => y.refused.getD t false).getD true
    then d
    else
      let d := fcnt d (ctl R.FNT_REFUSE_CNT (56 + h) 0) F.FNT_REFUSE_CNT_COUNT 1
      fntRefuse d h f.desc t f .windowClosed

/-- Credit returns from what a target names (R156): held frames are re-offered to the targets that lack them. A stall that
waits for it ends. -/
def fntCredit (d : Dev) (h : Nat) (p : FtnPlace) (n : Nat) : Dev :=
  let k := fountain d h
  let d := match p with
    | .window fa win gen =>
      let c := creditAt d h fa win gen
      setCredit d { c with have_ := c.have_ + n, asked := none }
    | .square .. => setFountain d h { k with credits := placeSet k.credits p (placeGet k.credits p + n) }
  let k := fountain d h
  let here (s : Nat × Nat) : Bool := (mget k.descs s.1).any fun y =>
    k.held.any fun f => f.desc == s.1 && fntPlace f y s.2 == some p
  offerAll (setFountain d h { k with stalled := k.stalled.filter fun s => !here s,
                                     lastCredit := placeSet k.lastCredit p d.tally }) h true

/-- A target with a frame outstanding has had no credit for FNT_TIMEOUT (R157), and has none now; 0 acts as 1 µs. The fabric address, list
and index of the stall are recorded while no record is held. Each descriptor that waits at a target is a stall of its own
(DESIGN CHOICE, log entry 107). -/
def fntStall (d : Dev) (h fid t : Nat) : Dev :=
  let k := fountain d h
  match k.held.find? fun f => f.id = fid with
  | none => d
  | some f =>
    match mget k.descs f.desc with
    | none => d
    | some y =>
      let from_ := max f.since (((fntPlace f y t).map (placeGet k.lastCredit)).getD 0)
      let us := max 1 (fget d (ctl R.FNT_TIMEOUT (56 + h) 0) F.FNT_TIMEOUT_US)
      if f.delivered.getD t true || f.offered.getD t true || y.refused.getD t true || k.stalled.contains (f.desc, t)
          || 0 < ((fntPlace f y t).map (fntCredits d h)).getD 0 || d.tally < from_ + usTicks us then d
      else
        let d := setFountain d h { k with stalled := k.stalled ++ [(f.desc, t)] }
        let d := fcnt d (ctl R.FNT_STALL_CNT (56 + h) 0) F.FNT_STALL_CNT_COUNT 1
        let st := ctl R.FNT_STATUS (56 + h) 0
        if flag d st F.FNT_STATUS_STALL then d
        else
          let d := fset d st F.FNT_STATUS_STALL 1
          fsets d (ctl R.FNT_STALL_TGT (56 + h) 0)
            [(F.FNT_STALL_TGT_LIST, f.list), (F.FNT_STALL_TGT_INDEX, t),
             (F.FNT_STALL_TGT_FA, fntFa d (y.entries.getD t 0))]

/-- A write to FNT_ENTRY_HI commits the entry that the path selects, its low half from FNT_ENTRY_LO's shadow (R155). -/
def fntEntryCommit (d : Dev) (p : Path) (h : Nat) (v : Word) : Dev :=
  let e := selField d p (ctl R.FNT_SEL (56 + h) 0) F.FNT_SEL_ENTRY
  let lo := ctlSel R.FNT_ENTRY_LO (56 + h) 0 e
  let d := applyShadows d [lo]
  wr d (ctlSel R.FNT_ENTRY_HI (56 + h) 0 e) v

/-- A write to FNT_LIST commits the list that the path selects. -/
def fntListCommit (d : Dev) (p : Path) (h : Nat) (v : Nat) : Dev :=
  let l := selField d p (ctl R.FNT_SEL (56 + h) 0) F.FNT_SEL_LIST
  fsets d (ctlSel R.FNT_LIST (56 + h) 0 l)
    [(F.FNT_LIST_FIRST, bits v 0 13), (F.FNT_LIST_COUNT_M1, bits v 13 6), (F.FNT_LIST_VALID, bits v 31 1)]

end Sys2Proof.Machine
end

