-- ==== Sys2Proof/Machine/Aqueduct.lean ====
section
/-! DEFINITION. Machine/Aqueduct: the optical links: training (R218, R219), lane retirement and lasers (R217, R228, R229),
retry and the replay buffer (R225 to R227), and their control (R230, R232). -/

namespace Sys2Proof.Machine

/-! ## States and lanes -/

/-- Lanes retired for any cause. -/
def lanesOut (d : Dev) (g : Nat) : Nat := fget d (aqdReg R.AQD_LANE_RET g) F.AQD_LANE_RET_RETIRED

/-- Lanes retired for cause LASER. -/
def lanesLaser (d : Dev) (g : Nat) : Nat := fget d (aqdReg R.AQD_LANE_RET g) F.AQD_LANE_RET_CAUSE_LASER

/-- The training state of an aqueduct (R218). -/
def trainState (d : Dev) (g : Nat) : Nat := fget d (aqdReg R.AQD_STATUS g) F.AQD_STATUS_STATE

/-- The aqueduct runs in Ethernet mode. -/
def ethernet (d : Dev) (g : Nat) : Bool := flag d (aqdReg R.AQD_STATUS g) F.AQD_STATUS_MODE_ACTIVE

/-- Counts a retraining. -/
def countRetrain (d : Dev) (g : Nat) : Dev := fcnt d (aqdReg R.AQD_FEC_CNT g) F.AQD_FEC_CNT_RETRAIN 1

/-- LANES and DEGRADED follow the map. -/
def showLanes (d : Dev) (g : Nat) : Dev :=
  let n := laneCount (aqd d g).map
  fsets d (aqdReg R.AQD_STATUS g) [(F.AQD_STATUS_LANES, n), (F.AQD_STATUS_DEGRADED, b2n (n < 8))]

/-- Enters a training state. The peer of an aqueduct that trains is not known until its HELLO is done. -/
def setTrain (d : Dev) (g st : Nat) : Dev :=
  let d := fsets d (aqdReg R.AQD_STATUS g) [(F.AQD_STATUS_STATE, st), (F.AQD_STATUS_UP, b2n (st == 5))]
  let d := if st < 5 then fset d (aqdReg R.AQD_PEER g) F.AQD_PEER_VALID 0 else d
  setAqd d g { aqd d g with since := d.tally }

/-- An aqueduct with nothing settled: no map, no greeting, no pair refused, nothing known of the far end's reachability, which
it announces again (R215). -/
def Aqd.unsettled (a : Aqd) : Aqd :=
  { a with map := 0, mapped := false, emptyFrom := none, greeted := false, noVersion := false, change := none,
           refusing := none, peerIsolated := false, down := false }

/-- Retires lanes with a cause. A lane retired for cause LANE keeps its cause. -/
def retireLanes (d : Dev) (g lanes : Nat) (laser : Bool) : Dev :=
  let a := aqdReg R.AQD_LANE_RET g
  let out := lanesOut d g
  let cause := lanesLaser d g
  let new := (List.range 8).foldl (fun m i => if bit lanes i && !bit out i then m + pow2 i else m) 0
  fsets d a [(F.AQD_LANE_RET_RETIRED, out + new), (F.AQD_LANE_RET_CAUSE_LASER, if laser then cause + new else cause)]

/-- Lanes are retired as asked, cause LANE: the request is done with. -/
def retireAsked (d : Dev) (g lanes : Nat) : Dev :=
  let r := aqdReg R.AQD_LANE_RET g
  let d := retireLanes d g lanes false
  fset d r F.AQD_LANE_RET_RETIRE_REQ
    (fget d r F.AQD_LANE_RET_RETIRE_REQ - (fget d r F.AQD_LANE_RET_RETIRE_REQ &&& lanes))

/-- Nothing is settled. Lanes that a pending change was to retire are retired now, and the next map leaves them out (R228). HALF is
a matter of a map. -/
def unmapped (d : Dev) (g : Nat) : Dev :=
  let d := match (aqd d g).change with
    | some c => retireAsked d g c.1
    | none => d
  fset (showLanes (setAqd d g (aqd d g).unsettled) g) (aqdReg R.AQD_STATUS g) F.AQD_STATUS_HALF 0

/-- Enters EQ with nothing settled. -/
def toEq (d : Dev) (g : Nat) : Dev := setTrain (unmapped d g) g 1

/-- A partial retrain restarts at LOCK (R218); an aqueduct that has not reached LOCK trains on as it is. -/
def partialRetrain (d : Dev) (g : Nat) : Dev :=
  if trainState d g < 2 then d
  else
    let d := unmapped (countRetrain d g) g
    setTrain (setAqd d g { aqd d g with replays := (0, 0) }) g 2

/-- Returns to OFF. -/
def toOff (d : Dev) (g : Nat) : Dev := setTrain (unmapped d g) g 0

/-- Lanes retired for cause LASER are offered again. -/
def readmitLanes (d : Dev) (g lanes : Nat) : Dev :=
  let back := lanes &&& lanesLaser d g
  fsets d (aqdReg R.AQD_LANE_RET g)
    [(F.AQD_LANE_RET_RETIRED, lanesOut d g - back), (F.AQD_LANE_RET_CAUSE_LASER, lanesLaser d g - back)]

/-- The bit of an input among the lasers of a head. -/
def LaserInput.code : LaserInput → Nat
  | .a => 0 | .b => 1

/-- The lanes that an input feeds (R217). -/
def LaserInput.lanes : LaserInput → Nat
  | .a => 0x0F | .b => 0xF0

/-- The record of a laser input. -/
def laserIn (d : Dev) (h : Nat) (i : LaserInput) : LaserIn := mgetD d.lasers (h * 2 + i.code) {}

/-- Stores it. -/
def setLaser (d : Dev) (h : Nat) (i : LaserInput) (l : LaserIn) : Dev :=
  { d with lasers := mset d.lasers (h * 2 + i.code) l }

/-! ## Re-admission (R229) -/

/-- Re-admits the lanes of an input on one aqueduct: by a partial retrain, or from EQ where it had gone to OFF. -/
def readmitOne (d : Dev) (i : LaserInput) (g : Nat) : Dev :=
  let a := aqd d g
  let d := readmitLanes (setAqd d g { a with ownLaser := a.ownLaser - (a.ownLaser &&& i.lanes) }) g (a.ownLaser &&& i.lanes)
  if !flag d (aqdReg R.AQD_CTRL g) F.AQD_CTRL_ENABLE || lanesOut d g = 0xFF then d
  else if trainState d g = 0 || (aqd d g).down then toEq d g
  else partialRetrain d g

/-- Re-admits the next aqueducts of a restored input, up to the first that has to train. -/
def readmitNext (h : Nat) (i : LaserInput) : Nat → Dev → Dev
  | 0, d => d
  | n + 1, d =>
    match (laserIn d h i).readmit with
    | [] => d
    | g :: _ =>
      let d := readmitOne d i g
      if trainState d g = 0 then
        readmitNext h i n (setLaser d h i { laserIn d h i with readmit := (laserIn d h i).readmit.tail })
      else d

/-- An aqueduct has reached UP: where its re-admission was awaited, the next begins. -/
def readmitAfter (d : Dev) (g : Nat) : Dev :=
  [LaserInput.a, .b].foldl (fun d i =>
    let l := laserIn d (g / 8) i
    if l.readmit.head? = some g then
      readmitNext (g / 8) i 8 (setLaser d (g / 8) i { l with readmit := l.readmit.tail })
    else d) d

/-! ## Training (R218, R219) -/

/-- The bound of a training state in milliseconds. -/
def trainBound : Nat → Nat
  | 1 => 20 | 2 => 2 | 3 => 1 | 4 => 2 | _ => 0

/-- Tally ticks of a number of milliseconds. -/
def msTicks (ms : Nat) : Nat := ms * 625000

/-- The end's own HELLO (R253), a hop-local frame of VC7. -/
def sendHello (d : Dev) (g : Nat) : Dev :=
  let nums := [g, 0xFFFF, ownFa d, g, 2, 3, fget d (ctl R.DIE_EDITION 0 0) F.DIE_EDITION_EDITION]
  let d := setAqd d g { aqd d g with helloAt := d.tally }
  { d with out := d.out ++ [{ kind := .hello, nums, vc := 7, src := ownFa d }] }

/-- What has been sent and not acknowledged is sent again from a pair on, with the retry flag (R225, R226). -/
def replayFrom (d : Dev) (g : Nat) (from_ : Emit → Bool) : Dev :=
  { d with out := d.out ++ ((aqd d g).unacked.filter from_).map fun e => { e with retry := true } }

/-- An aqueduct reaches UP: announcements that it carries begin again, and a re-admission goes on. -/
def reachUp (d : Dev) (g : Nat) : Dev :=
  let d := setTrain d g 5
  let d := if !ethernet d g then fset d (aqdReg R.AQD_PEER g) F.AQD_PEER_VALID 1 else d
  let a := aqd d g
  let d := setAqd d g { a with outPair := 0, outAt := d.tally, inPair := 0, inAt := d.tally, ackAt := d.tally,
                               unacked := a.unacked.map fun e => { e with pair := 0 } }
  let d := if ethernet d g then d else drainQueue g a.queue.length (replayFrom d g fun _ => true)
  let d := if flag d (aqdReg R.AQD_STATUS g) F.AQD_STATUS_ISOLATED && !ethernet d g then emit d .isolated [g, 1] else d
  readmitAfter d g

/-- A training state is done, and the next follows. A port that is down stays in EQ (R232). MAP needs its map, HELLO the
greeting of a fabric aqueduct. -/
def trainingStateDone (d : Dev) (g : Nat) : Dev :=
  let a := aqd d g
  match trainState d g with
  | 1 => if a.down then d else setTrain d g 2
  | 2 => setTrain d g 3
  | 3 =>
    if a.mapped then
      let d := setTrain d g 4
      if ethernet d g then d else sendHello d g
    else d
  | 4 => if ethernet d g || a.greeted then reachUp d g else d
  | _ => d

/-- A training state exceeds its bound. An empty lane map waits apart; a link without a common version and a port that is
down stay. -/
def trainingTimeout (d : Dev) (g : Nat) : Dev :=
  let a := aqd d g
  let st := trainState d g
  if 1 ≤ st && st ≤ 4 && a.emptyFrom.isNone && !a.noVersion && !a.down && a.since + msTicks (trainBound st) ≤ d.tally then
    toEq (countRetrain d g) g
  else d

/-- The half of an Ethernet aqueduct that remains whole (R232): lanes 0 to 3 before lanes 4 to 7. -/
def ethHalf (m : Nat) : Option Nat :=
  if m &&& 0x0F = 0x0F then some 0x0F else if m &&& 0xF0 = 0xF0 then some 0xF0 else none

/-- Passes the error counts held back on, but those of lanes withdrawn for cause LASER at the far end (R227). -/
def releaseHeld (d : Dev) (g drop : Nat) : Dev :=
  let a := aqd d g
  let d := setAqd d g { a with held := [] }
  (a.held.filter fun c => !bit drop c.1).foldl (fun d c => detect d (locId (56 + g / 8) 6 (g % 8 * 8 + c.1))) d

/-- An Ethernet port goes down and stays in EQ (R232). -/
def portDown (d : Dev) (g : Nat) : Dev :=
  let d := toEq d g
  setAqd d g { aqd d g with down := true }

/-- The map that both ends form. -/
def mapResult (d : Dev) (g n : Nat) (e : Bool) : Dev :=
  let set (d : Dev) (m : Nat) (half : Bool) : Dev :=
    let d := setAqd d g { aqd d g with map := m, mapped := true }
    showLanes (fset d (aqdReg R.AQD_STATUS g) F.AQD_STATUS_HALF (b2n half)) g
  if n = 0 then setAqd d g { aqd d g with emptyFrom := some d.tally }
  else if !e || n = 0xFF then set d n false
  else
    match ethHalf n with
    | some m => if flag d (aqdReg R.AQD_CTRL g) F.AQD_CTRL_ETH_HALF then set d m true else portDown d g
    | none => portDown d g

/-- Both ends exchange their usable lanes in MAP (R219). `own` names the lanes that this end receives well, `far` the
lanes that the far end offers, `farLaser` those it has withdrawn for cause LASER. This end sends the lanes that it can use,
and those it leaves out for cause LASER; the map is what both have sent. Lanes lost in traffic that no laser explains are retired
for cause LANE (R228). Where all are retired and none of them for the far end's laser, which a later MAP may offer again, the
aqueduct returns to OFF (R229). -/
def laneMapExchange (d : Dev) (g own far farLaser : Nat) : Dev :=
  if trainState d g ≠ 3 || (aqd d g).mapped || (aqd d g).emptyFrom.isSome then d
  else
    let out := (lanesOut d g - (lanesLaser d g &&& (aqd d g).farLaser)) ||| (aqd d g).ownLaser ||| (aqd d g).lost
    let sent := own &&& (0xFF - (out &&& 0xFF))
    let d := emit d .laneMap [g, sent, (aqd d g).ownLaser]
    let far := far &&& (0xFF - (farLaser &&& 0xFF))
    let d := releaseHeld d g farLaser
    let d := retireLanes d g farLaser true
    let a := aqd d g
    -- lanes that the far end had withdrawn and offers again
    let back := a.farLaser &&& far &&& (0xFF - (a.farLaser &&& farLaser))
    let d := readmitLanes d g (back &&& (0xFF - (a.ownLaser &&& 0xFF)))
    let d := setAqd d g { a with farLaser := ((a.farLaser ||| farLaser) - (back &&& (a.farLaser ||| farLaser))), lost := 0 }
    let d := retireLanes d g a.lost false
    if lanesOut d g = 0xFF && (aqd d g).farLaser = 0 then toOff d g else mapResult d g (sent &&& far) (ethernet d g)

/-- An empty lane map has waited 100 ms. -/
def mapRetryWait (d : Dev) (g : Nat) : Dev :=
  match (aqd d g).emptyFrom with
  | none => d
  | some t => if t + msTicks 100 ≤ d.tally then toEq (countRetrain d g) g else d

/-! ## Lasers (R217, R229) -/

/-- An aqueduct whose lanes are all retired returns to OFF; others make a partial retrain. -/
def laserRetire (i : LaserInput) (d : Dev) (g : Nat) : Dev :=
  let a := aqd d g
  let d := setAqd d g { a with ownLaser := a.ownLaser ||| i.lanes }
  let d := retireLanes d g i.lanes true
  if lanesOut d g = 0xFF then toOff d g else partialRetrain d g

/-- An input is sampled. After 10 low samples in a row it is lost. `power` is in 0.01 dBm; the lowest value means no
light. -/
def laserSample (d : Dev) (h : Nat) (i : LaserInput) (power : BitVec 16) : Dev :=
  let inst := ctl R.AQD_LASER_STATUS (56 + h) 8
  let ok := decide (signed 16 (fget d (ctl R.AQD_LASER_THRESH (56 + h) 8) F.AQD_LASER_THRESH_DBM) ≤ signed 16 power.toNat)
  let d := fset d (ctl R.AQD_LASER_PWR (56 + h) 8)
    (match i with | .a => F.AQD_LASER_PWR_A | .b => F.AQD_LASER_PWR_B) power.toNat
  let d := fset d inst (match i with | .a => F.AQD_LASER_STATUS_A_OK | .b => F.AQD_LASER_STATUS_B_OK) (b2n ok)
  let l := laserIn d h i
  if ok then setLaser d h i { l with low := 0, okSince := some (l.okSince.getD d.tally) }
  else
    let low := min 10 (l.low + 1)
    if low = 10 && !l.lost then
      let d := fset d inst (match i with | .a => F.AQD_LASER_STATUS_A_LOST | .b => F.AQD_LASER_STATUS_B_LOST) 1
      let d := setLaser d h i { low, lost := true, okSince := none, readmit := [] }
      ((List.range 8).map fun k => h * 8 + k).foldl (laserRetire i) d
    else setLaser d h i { l with low, okSince := none }

/-- A lost input has stayed at or above the threshold for 1 s: its lanes are re-admitted, one aqueduct at a time. -/
def laserRestored (d : Dev) (h : Nat) (i : LaserInput) : Dev :=
  let l := laserIn d h i
  match l.okSince with
  | none => d
  | some t =>
    if l.lost && t + msTicks 1000 ≤ d.tally then
      readmitNext h i 8 (setLaser d h i { l with lost := false, readmit := (List.range 8).map fun k => h * 8 + k })
    else d

/-! ## Retry (R225 to R227) -/

/-- The lane of the map with the most symbols, the lower one in a tie (R227). -/
def worstLane (map : Nat) (symbols : List Nat) : Nat :=
  let l := (List.range 8).filter (bit map)
  let most := (l.map fun i => symbols.getD i 0).foldl max 0
  (l.find? fun i => symbols.getD i 0 = most).getD 0

/-- A codeword pair fails. Found here, it is answered with a NACK that names it, nothing further is accepted until it
arrives again, and an uncorrectable one is counted and held back (R227). Named by the far end, what has been sent from it on
is sent again; a pair that fails its eighth replay in a row starts a partial retrain (R226). -/
def codewordNack (d : Dev) (g : Nat) (e : PairEvent) : Dev :=
  if trainState d g ≠ 5 || ethernet d g then d
  else
    match e with
    | .found symbols unc =>
      let a := aqd d g
      let pair := a.refusing.getD (pairIn d g)
      let d := emit d .linkNack [g, pair]
      let d := if unc then fcnt d (aqdReg R.AQD_FEC_CNT g) F.AQD_FEC_CNT_UNCORR 1 else d
      let held := if unc then a.held ++ [(worstLane a.map symbols.toList, d.tally)] else a.held
      setAqd d g { a with refusing := some pair, held }
    | .named pair crc =>
      let r := aqdReg R.AQD_RETRY_CNT g
      let d := fcnt (fcnt d r F.AQD_RETRY_CNT_RETRY 1) r F.AQD_RETRY_CNT_CRC (b2n crc)
      let a := aqd d g
      let n := if a.replays.1 = pair.val then a.replays.2 + 1 else 1
      if 8 < n then partialRetrain (setAqd d g { a with replays := (pair.val, n) }) g
      else
        replayFrom (setAqd d g { a with replays := (pair.val, n), outPair := pair.val, outAt := d.tally }) g
          fun e => pairPassed e.pair pair.val
    | .again =>
      let a := aqd d g
      match a.refusing with
      | some pair => setAqd d g { a with refusing := none, inPair := pair, inAt := d.tally }
      | none => d

/-- The link credits of a VC as the far end returns them (R221, R222). -/
def addCredits (a : Aqd) (l : List Nat) : Aqd :=
  { a with credits := (List.range 8).foldl (fun c v => mset c v (mgetD c v 0 + l.getD v 0)) a.credits }

/-- Link-control flits arrive (R221): an acknowledgement frees the space of the records that it names (R226), corrected symbols
are counted by lane, credits return, and ISOLATED is noted (R215). -/
def linkAck (d : Dev) (g n : Nat) (m : LinkMsg) : Dev :=
  let a := aqd d g
  if trainState d g ≠ 5 || ethernet d g || a.refusing.isSome then d
  else
    let a := addCredits { a with unacked := a.unacked.drop n, replays := if n = 0 then a.replays else (0, 0),
                                 peerIsolated := m.isolated.getD a.peerIsolated } m.credits
    let d := (List.range 8).foldl (fun d i =>
      fcnt d (aqdReg (R.AQD_LANE_SER + 4 * i) g) F.AQD_LANE_SER_SYMBOLS (m.corrected.getD i 0)) (setAqd d g a)
    drainQueue g a.queue.length d

/-- Counts held back for 1 ms on an aqueduct that has stayed UP are passed on (R227). -/
def errorCountRelease (d : Dev) (g : Nat) : Dev :=
  let a := aqd d g
  if trainState d g ≠ 5 then d
  else
    let due (c : Nat × Nat) : Bool := decide (c.2 + msTicks 1 ≤ d.tally)
    let d := setAqd d g { a with held := a.held.filter fun c => !due c }
    (a.held.filter due).foldl (fun d c => detect d (locId (56 + g / 8) 6 (g % 8 * 8 + c.1))) d

/-! ## Lane retirement (R228) -/

/-- Both ends switch: the lanes leave the map, cause LANE. An aqueduct whose lanes are all retired returns to OFF (R229). One that has
formed its map and is not UP has no other way to tell the far end than to form it anew, and an Ethernet aqueduct retrains
(R232). -/
def switchLanes (d : Dev) (g lanes : Nat) : Dev :=
  let o := pairOut d g
  let i := pairIn d g
  let d := setAqd d g { aqd d g with outPair := o, outAt := d.tally, inPair := i, inAt := d.tally }
  let d := retireAsked d g lanes
  let a := aqd d g
  let m := a.map &&& (0xFF - (lanes &&& 0xFF))
  let d := showLanes (setAqd d g { a with map := m }) g
  let again := m = 0 || ethernet d g || trainState d g ≠ 5
  if lanesOut d g = 0xFF && trainState d g ≠ 0 then toOff d g
  else if a.mapped && m ≠ a.map && again then partialRetrain d g
  else d

/-- The codeword pair that a lane-map change names, at least 64 pairs ahead: which one, the spec leaves to the end that makes
the change (R228; log entry 43). -/
def futurePair (d : Dev) (g : Nat) : Nat :=
  (pairOut d g + 64 + Config.openValue d.epoch (R.AQD_LANE_RET + g * pow2 32) % 32704) % 65536

/-- RETIRE_REQ is written: a lane-map change that names a codeword pair is sent. An aqueduct that carries no traffic has
nothing to switch, and retires the lanes at once. -/
def laneRetireReq (d : Dev) (g lanes : Nat) : Dev :=
  let pair := futurePair d g
  let r := aqdReg R.AQD_LANE_RET g
  let req := lanes % 256
  let d := fset d r F.AQD_LANE_RET_RETIRE_REQ (fget d r F.AQD_LANE_RET_RETIRE_REQ ||| req)
  if req = 0 then d
  else if trainState d g = 5 && !ethernet d g then
    let a := aqd d g
    let all := ((a.change.map Prod.fst).getD 0) ||| req
    emit (setAqd d g { a with change := some (all, pair) }) .laneMapChange [g, all, pair]
  else switchLanes d g req

/-- The named codeword pair has come: this end's change, or one that the far end has announced with its pair, takes effect.
While its pair has not come, a change waits, and while a pair is refused nothing further is accepted (R225). -/
def laneMapSwitch (d : Dev) (g : Nat) (far : Option (Nat × Nat)) : Dev :=
  if trainState d g ≠ 5 then d
  else
    match far, (aqd d g).change with
    | some (lanes, pair), _ =>
      if (aqd d g).refusing.isNone && pairPassed (pairIn d g) pair then switchLanes d g (lanes % 256) else d
    | none, some c =>
      if pairPassed (pairOut d g) c.2 then switchLanes (setAqd d g { aqd d g with change := none }) g c.1 else d
    | none, none => d

/-- A lane fails during traffic: the aqueduct makes a partial retrain, whose map leaves it out. -/
def laneLoss (d : Dev) (g lane : Nat) : Dev :=
  let a := aqd d g
  if trainState d g = 5 && bit a.map lane then
    partialRetrain (setAqd d g { a with lost := a.lost ||| pow2 lane }) g
  else d

/-! ## Control (R230, R232) -/

/-- The aqueducts that run in Ethernet mode: the 16 lowest that are selected. -/
def ethernetSet (d : Dev) : List Nat :=
  ((List.range 64).filter fun g => flag d (aqdReg R.AQD_CTRL g) F.AQD_CTRL_MODE).take 16

/-- An aqueduct takes its mode; a change of it, or of ENABLE or ETH_HALF, starts a full training. -/
def takeMode (l : List Nat) (changed : Bool) (d : Dev) (g : Nat) : Dev :=
  let on := l.contains g
  let s := aqdReg R.AQD_STATUS g
  let moved := changed || flag d s F.AQD_STATUS_MODE_ACTIVE != on
  let d := fsets d s [(F.AQD_STATUS_MODE_ACTIVE, b2n on),
    (F.AQD_STATUS_MODE_REFUSED, b2n (flag d (aqdReg R.AQD_CTRL g) F.AQD_CTRL_MODE && !on))]
  if !moved then d
  else
    let d := fset d s F.AQD_STATUS_HALF 0
    if flag d (aqdReg R.AQD_CTRL g) F.AQD_CTRL_ENABLE && lanesOut d g ≠ 0xFF then toEq d g else toOff d g

/-- AQD_CTRL applies. An aqueduct that the change moves in or out of the 16 in Ethernet mode trains too. -/
def aqueductCtrlApply (d : Dev) (g : Nat) : Dev :=
  let ap := aqdReg R.AQD_APPLY g
  let c := aqdReg R.AQD_CTRL g
  if !flag d ap F.AQD_APPLY_APPLY then d
  else
    let old := fget d c ⟨0, 3⟩
    let d := fset (applyShadows d [c]) ap F.AQD_APPLY_APPLY 0
    let d := fset d (aqdReg R.AQD_STATUS g) F.AQD_STATUS_PEND (b2n (pend d [c]))
    let l := ethernetSet d
    (List.range 64).foldl (fun d k => takeMode l (k == g && fget d c ⟨0, 3⟩ != old) d k) d

end Sys2Proof.Machine
end

