-- ==== Sys2Proof/Machine/Crypto.lean ====
section
/-! DEFINITION. Machine/Crypto: SHA-512 and RSASSA-PSS verification, which the spec names by their standards (R273,
R278, R350; log entry 8). -/

namespace Sys2Proof.Machine

/-! ## SHA-512 (FIPS 180-4) -/

/-- The 64-bit words of numbers of 256 bits, the highest word first. -/
def wordsOf (l : List Nat) : List Nat := l.flatMap fun x => [3, 2, 1, 0].map fun i => bits x (64 * i) 64

/-- The round constants, four to a number. -/
def shaK : List Nat := wordsOf
  [0x428a2f98d728ae227137449123ef65cdb5c0fbcfec4d3b2fe9b5dba58189dbbc,
   0x3956c25bf348b53859f111f1b605d019923f82a4af194f9bab1c5ed5da6d8118,
   0xd807aa98a303024212835b0145706fbe243185be4ee4b28c550c7dc3d5ffb4e2,
   0x72be5d74f27b896f80deb1fe3b1696b19bdc06a725c71235c19bf174cf692694,
   0xe49b69c19ef14ad2efbe4786384f25e30fc19dc68b8cd5b5240ca1cc77ac9c65,
   0x2de92c6f592b02754a7484aa6ea6e4835cb0a9dcbd41fbd476f988da831153b5,
   0x983e5152ee66dfaba831c66d2db43210b00327c898fb213fbf597fc7beef0ee4,
   0xc6e00bf33da88fc2d5a79147930aa72506ca6351e003826f142929670a0e6e70,
   0x27b70a8546d22ffc2e1b21385c26c9264d2c6dfc5ac42aed53380d139d95b3df,
   0x650a73548baf63de766a0abb3c77b2a881c2c92e47edaee692722c851482353b,
   0xa2bfe8a14cf10364a81a664bbc423001c24b8b70d0f89791c76c51a30654be30,
   0xd192e819d6ef5218d69906245565a910f40e35855771202a106aa07032bbd1b8,
   0x19a4c116b8d2d0c81e376c085141ab532748774cdf8eeb9934b0bcb5e19b48a8,
   0x391c0cb3c5c95a634ed8aa4ae3418acb5b9cca4f7763e373682e6ff3d6b2b8a3,
   0x748f82ee5defb2fc78a5636f43172f6084c87814a1f0ab728cc702081a6439ec,
   0x90befffa23631e28a4506cebde82bde9bef9a3f7b2c67915c67178f2e372532b,
   0xca273eceea26619cd186b8c721c0c207eada7dd6cde0eb1ef57d4f7fee6ed178,
   0x06f067aa72176fba0a637dc5a2c898a6113f9804bef90dae1b710b35131c471b,
   0x28db77f523047d8432caab7b40c724933c9ebe0a15c9bebc431d67c49c100d4c,
   0x4cc5d4becb3e42b6597f299cfc657e2a5fcb6fab3ad6faec6c44198c4a475817]

/-- The initial hash value, four words to a number. -/
def shaInit : List Nat := wordsOf
  [0x6a09e667f3bcc908bb67ae8584caa73b3c6ef372fe94f82ba54ff53a5f1d36f1,
   0x510e527fade682d19b05688c2b3e6c1f1f83d9abfb41bd6b5be0cd19137e2179]

/-- The sum without carries of rotations to the right of a word of 64 bits. -/
def turns (x : Nat) (by_ : List Nat) : Nat :=
  by_.foldl (fun y n => y ^^^ (x / pow2 n + x % pow2 n * pow2 (64 - n))) 0

/-- The message schedule, latest word first: 16 words of a block, then `n` more. -/
def shaExpand : Nat → List Nat → List Nat
  | 0, w => w
  | n + 1, w =>
    let near := w.getD 1 0
    let far := w.getD 14 0
    let mixed := (turns near [19, 61] ^^^ near / pow2 6) + (turns far [1, 8] ^^^ far / pow2 7)
    shaExpand n ((mixed + w.getD 6 0 + w.getD 15 0) % pow2 64 :: w)

/-- The working variables as two histories, latest first: what the standard calls a to d are the last four of the one, e to h
the last four of the other. -/
structure ShaTrail where
  hi : List Nat
  lo : List Nat

/-- One round with its constant and schedule word: each history grows by a word. -/
def shaRound (v : ShaTrail) (kw : Nat × Nat) : ShaTrail :=
  let a (i : Nat) : Nat := v.hi.getD i 0
  let e (i : Nat) : Nat := v.lo.getD i 0
  let chosen := e 2 ^^^ (e 0 &&& (e 1 ^^^ e 2))
  let most := (a 0 &&& a 1) ||| (a 2 &&& (a 0 ||| a 1))
  let t := kw.1 + kw.2 + e 3 + chosen + turns (e 0) [14, 18, 41]
  { hi := (t + most + turns (a 0) [28, 34, 39]) % pow2 64 :: v.hi, lo := (t + a 3) % pow2 64 :: v.lo }

/-- A big-endian number (R4). -/
def beNat (bs : List Byte) : Nat := bs.foldl (fun x b => x * 256 + b.toNat) 0

/-- A number in `n` big-endian bytes. -/
def beBytes (n x : Nat) : List Byte := (leBytes n x).reverse

/-- The words of `n` groups of 8 bytes. -/
def beWords : Nat → List Byte → List Nat
  | 0, _ => []
  | n + 1, bs => beNat (bs.take 8) :: beWords n (bs.drop 8)

/-- One block of 128 bytes. -/
def shaBlock (h : List Nat) (block : List Byte) : List Nat :=
  let w := (shaExpand 64 (beWords 16 block).reverse).reverse
  let v := (shaK.zip w).foldl shaRound { hi := h.take 4, lo := h.drop 4 }
  List.zipWith (fun p q => (p + q) % pow2 64) h (v.hi.take 4 ++ v.lo.take 4)

/-- `n` blocks in order. -/
def shaBlocks : Nat → List Nat → List Byte → List Nat
  | 0, h, _ => h
  | n + 1, h, bs => shaBlocks n (shaBlock h (bs.take 128)) (bs.drop 128)

/-- SHA-512. -/
def sha512 (m : List Byte) : List Byte :=
  let n := m.length
  let blocks := (n + 17 + 127) / 128
  let padded := m ++ [0x80] ++ List.replicate (blocks * 128 - n - 17) 0 ++ beBytes 16 (8 * n)
  (shaBlocks blocks shaInit padded).flatMap (beBytes 8)

/-! ## RSASSA-PSS with RSA-4096, exponent 65,537, SHA-512, MGF1 with SHA-512 and a salt of 64 bytes (RFC 8017) -/

/-- `x ^ (2 ^ k)` modulo `m`. -/
def sqrMod (m : Nat) : Nat → Nat → Nat
  | 0, x => x % m
  | k + 1, x => sqrMod m k (x * x % m)

/-- The first `n` bytes of the mask of a seed. -/
def mgf1 (seed : List Byte) (n : Nat) : List Byte :=
  ((List.range ((n + 63) / 64)).flatMap fun i => sha512 (seed ++ beBytes 4 i)).take n

/-- The encoded message of 512 bytes fits the message, for a modulus of 4,096 bits (EMSA-PSS-VERIFY with 4,095 bits). -/
def pssFits (message em : List Byte) : Bool :=
  let db := em.take 447
  let h := (em.drop 447).take 64
  let plain := List.zipWith (fun a b => a ^^^ b) db (mgf1 h 447)
  let plain := match plain with
    | b :: r => (b &&& 0x7F) :: r
    | [] => []
  em.length = 512 && em.getD 511 0 == 0xBC && (em.getD 0 0).toNat < 128
    && plain.take 383 == List.replicate 382 0 ++ [0x01]
    && sha512 (List.replicate 8 0 ++ sha512 message ++ plain.drop 383) == h

/-- The signature of a message verifies under a modulus. -/
def pssVerify (modulus message signature : List Byte) : Bool :=
  let n := beNat modulus
  let s := beNat signature
  modulus.length = 512 && signature.length = 512 && s < n && pssFits message (beBytes 512 (sqrMod n 16 s * s % n))

end Sys2Proof.Machine
end

