-- ==== Sys2Proof/Machine/Pages.lean ====
section
/-! DEFINITION. Machine/Pages: the pages of the reservoir as firmware takes, writes and frees them (R196 to R199, R289). -/

namespace Sys2Proof.Machine

/-- The little-endian number at a place of a byte string. -/
def numAt (bs : List Byte) (off n : Nat) : Nat := ofLeBytes ((bs.drop off).take n)

/-- The entry of a reservoir page, what waits as a fence included (R199). -/
def pageEntry (d : Dev) (p : Nat) : Word := checkEntry d (p % 8) (p / 8)

/-- Firmware writes a page's entry, which applies as a fence (R199). -/
def setPage (d : Dev) (p kind refs : Nat) (stepRd : Bool) (stepWr : Bool := false) : Dev :=
  if entryKind (pageEntry d p) = 7 then countRsvRefusal d (p % 8)
  else fenceEntry d (p % 8) (p / 8) (BitVec.ofNat 32 (kind + 8 * b2n stepRd + 16 * b2n stepWr + refs * pow2 16))

/-- REFS of a page. -/
def pageRefs (d : Dev) (p : Nat) : Nat := bits (pageEntry d p).toNat 16 16

/-- A valid ground register names a page: a half of its pair may be FREE while the other half is in use (R289). -/
def groundNamed (d : Dev) (p : Nat) : Bool :=
  d.regs.any fun e =>
    let off := ctlPlace e.1 - R.CIS_GROUND
    R.CIS_GROUND ≤ ctlPlace e.1 && off < 128 && off % 4 == 0 && ctlDie e.1 < 48 && ctlInst e.1 < 24
      && flag d e.1 F.CIS_GROUND_VALID && (fget d e.1 F.CIS_GROUND_PAGE == p || fget d e.1 F.CIS_GROUND_PAGE + 1 == p)

/-- A stack can hold what firmware places: it is reachable and serves (R197). -/
def stackUp (d : Dev) (s : Nat) : Bool := stackReachable d s && stackServes d s

/-- Page runs of a STREAM, DATA or TOKENIZER shard (R271). -/
def pageRuns (m : Manifest) (s : Shard) : List (Nat × Nat) :=
  ((m.placements.drop s.placeFirst).take s.placeCount).map fun x => (bits x 0 19, bits x 19 19 + 1)

/-- A manifest that is being staged places a shard on a page, which firmware takes for nothing else (log entry 42). -/
def pageTarget (d : Dev) (p : Nat) : Bool :=
  d.srv.models.any fun m => m.2.staged.any fun e => e.manifest.shards.any fun s =>
    s.kind != 0 && (pageRuns e.manifest s).any fun r => r.1 ≤ p && p < r.1 + r.2

/-- A page that firmware may take: its stack is up, it is FREE, no zero-fill of it runs, no entry of it waits, no test holds
it, and neither a ground register nor a manifest that is being staged names it. -/
def pageFree (d : Dev) (p : Nat) : Bool :=
  stackUp d (p % 8) && entryKind (rd d (pageReg (p % 8) (p / 8))) == 0 && !pageZeroing d (p % 8) (p / 8)
    && !((mgetD d.stackTab (p % 8) {}).fences.any fun f => f.1 == p / 8) && !d.cont.testedPages.contains p
    && !groundNamed d p && !pageTarget d p

/-- The first of `n` numbers from `i` on that a test accepts. -/
def firstFrom (ok : Nat → Bool) : Nat → Nat → Option Nat
  | 0, _ => none
  | n + 1, i => if ok i then some i else firstFrom ok n (i + 1)

/-- The first `k` of `n` numbers from `i` on that a test accepts. -/
def takeFrom (ok : Nat → Bool) : Nat → Nat → Nat → List Nat
  | 0, _, _ => []
  | n + 1, i, k => if k = 0 then [] else if ok i then i :: takeFrom ok n (i + 1) (k - 1) else takeFrom ok n (i + 1) k

/-- The lowest run of `n` consecutive FREE pages. -/
def freeRun (d : Dev) (n : Nat) : Option Nat :=
  firstFrom (fun p => (List.range n).all fun i => pageFree d (p + i)) (pageCount + 1 - n) 0

/-- `n` pages from a number on, on the stacks that are up. -/
def upPages (d : Dev) (n p : Nat) : List Nat := takeFrom (fun q => stackUp d (q % 8)) (8 * n) p n

/-- The lowest run of `n` FREE pages that are consecutive but for those of stacks that are not up (R208; log entry 99). -/
def kvRun (d : Dev) (n : Nat) : Option (List Nat) :=
  (firstFrom (fun p => let l := upPages d n p
                       l.length == n && l.all fun q => q < pageCount && pageFree d q) pageCount 0).map (upPages d n)

/-- A page that is FREE, or will be once what is accepted has been done and its zero-fill has ended. -/
def pageSoon (d : Dev) (p : Nat) : Bool :=
  entryKind (pageEntry d p) == 0 && !d.cont.testedPages.contains p && !groundNamed d p && !pageTarget d p

/-- No entry of a page waits and no zero-fill of it runs. -/
def pageSettled (d : Dev) (p : Nat) : Bool :=
  !pageZeroing d (p % 8) (p / 8) && !((mgetD d.stackTab (p % 8) {}).fences.any fun f => f.1 == p / 8)

/-- What has been accepted for a page has been done, its entry and its zero-fill included (R199, R202): firmware's own reads
and writes of it may take place. -/
def pageQuiet (d : Dev) (p : Nat) : Bool :=
  pageSettled d p && !((mgetD d.stackTab (p % 8) {}).accepted.any fun a => a.addr / 2097152 == p)

/-- Firmware's read of a page is answered: its stack is up, and no read of the page has failed that is still to be made good
(R197, R204). -/
def pageReadable (d : Dev) (p : Nat) : Bool := stackUp d (p % 8) && !d.srv.lostPages.contains p

/-- The lowest `n` pages of a stack that are FREE or soon will be. -/
def freeOn (d : Dev) (s n : Nat) : Option (List Nat) :=
  let l := takeFrom (fun lp => pageSoon d (lp * 8 + s)) 49152 0 n
  if l.length = n then some (l.map fun lp => lp * 8 + s) else none

/-- Bytes are written into a reservoir page run. -/
def putRsv (d : Dev) (addr : Nat) (bs : List Byte) : Dev := { d with rsv := memWrite d.rsv addr bs }

/-- The pages that a number of bytes take. -/
abbrev pagesFor (n : Nat) : Nat := (n + 2097151) / 2097152

/-- A page is freed (R199); one that has been withdrawn stays as it is. -/
def freePage (d : Dev) (p : Nat) : Dev := if entryKind (pageEntry d p) = 7 then d else setPage d p 0 0 false

/-- Pages are freed. -/
def freePageList (d : Dev) (l : List Nat) : Dev := l.foldl freePage d

/-- A run of pages is freed. -/
def freePageRun (d : Dev) (p n : Nat) : Dev := freePageList d ((List.range n).map (p + ·))

/-- Pages take a kind. -/
def takePages (d : Dev) (l : List Nat) (kind : Nat) (stepRd stepWr : Bool) : Dev :=
  l.foldl (fun d p => setPage d p kind 0 stepRd stepWr) d

/-- Bytes are written into a list of pages, page after page. -/
def putPages : List Nat → List Byte → Dev → Dev
  | [], _, d => d
  | p :: ps, bs, d => putPages ps (bs.drop 2097152) (putRsv d (p * 2097152) (bs.take 2097152))

/-- `n` bytes of a list of pages from byte `off` on. -/
def pagesRead (d : Dev) (l : List Nat) (off n : Nat) : List Byte :=
  (List.range n).map fun i =>
    memByte d.epoch unitRsv d.rsv (l.getD ((off + i) / 2097152) pageCount * 2097152 + (off + i) % 2097152)

end Sys2Proof.Machine
end

