-- ==== Sys2Proof/Machine/Condense.lean ====
section
/-! DEFINITION. Machine/Condense: the KV of a conversation as full and as condensed state (R208, R213): how positions lie in
pages, and the codes of a condensed group. -/

namespace Sys2Proof.Machine

/-! ## Full form

The spec gives a position's K and V vectors of 128 elements, not their place: they lie one after another, position after
position (log entry 99). -/

/-- The element format of a KV shape (R24): BF16 or FP16. -/
def KvShape.elem (k : KvShape) : Fmt := if k.fp16 then .fp16 else .bf16

/-- Bytes of a position in full form. -/
def KvShape.posBytes (k : KvShape) : Nat := 256 * k.vectors

/-- The elements of a vector. -/
def kvElems (bs : List Byte) : List Nat := groupLe 2 128 bs

/-! ## Condensed form (R213) -/

/-- A position is an anchor of a record of `n` positions. -/
def isAnchor (n p : Nat) : Bool := p < 64 || n ≤ p + 256

/-- A position has KV in a condensed record of `n` positions. -/
def isHeld (n p : Nat) : Bool := isAnchor n p || p % 4 == 0

/-- Bytes of a position in a condensed record of `n` positions: 66 for each group. -/
def condensedBytes (k : KvShape) (n p : Nat) : Nat :=
  if isAnchor n p then k.posBytes else if p % 4 = 0 then 66 * k.vectors else 0

/-- The magnitude of a four-bit code: of an element's log field under the scale's. -/
def codeMag (lg lx : Int) : Nat := (7 + (lx - lg + 256) / 512).toNat

/-- The four-bit code of an element under a scale's log field. -/
def elemCode (lg : Int) : LVal → Nat
  | .val neg l => let m := codeMag lg l
                  if m = 0 then 0 else 8 * b2n neg + m
  | _ => 0

/-- The largest log field of a group; none in a group of zeros. -/
def groupScale (l : List LVal) : Option Int :=
  l.foldl (fun m v => match v, m with
    | .val _ x, some y => some (max x y)
    | .val _ x, none => some x
    | _, m => m) none

/-- A group of 128 elements: its scale code and its four-bit codes. A group that holds a NaN has scale 0xC000; of its codes
the spec says nothing, and nothing reads them: they are 0 (log entry 99). -/
def encodeGroup (f : Fmt) (els : List Nat) : Nat × List Nat :=
  let ls := els.map fun e => unpackL 15 (convert f .lns16 0 e).val
  if els.any (isNanIn f) then (0xC000, els.map fun _ => 0)
  else match groupScale ls with
    | none => (0x4000, els.map fun _ => 0)
    | some lg => (packL 15 (.val false lg), ls.map (elemCode lg))

/-- The element that a four-bit code restores, in the KV format. -/
def decodeElem (f : Fmt) (scale code : Nat) : Nat :=
  match unpackL 15 scale with
  | .nan => (ofF32 f nan32).val
  | .zero => 0
  | .val _ lg =>
    let m := code % 8
    let l := lg - 512 * (7 - Int.ofNat m)
    if m = 0 || l < -16383 then 0 else (convert .lns16 f 0 (packL 15 (.val (bit code 3) l))).val

/-- A group as a record stores it: the scale, then the codes packed as R33 packs INT4 codes. -/
def groupBytes (g : Nat × List Nat) : List Byte :=
  leBytes 2 g.1 ++ (List.range 64).map fun i => BitVec.ofNat 8 (g.2.getD (2 * i) 0 + 16 * g.2.getD (2 * i + 1) 0)

/-- The vectors of a position's bytes. -/
def kvVectors (k : KvShape) (bs : List Byte) : List (List Byte) := (List.range k.vectors).map fun v => (bs.drop (256 * v)).take 256

/-- A position as a condensed record of `n` positions holds it. -/
def condensePos (k : KvShape) (n p : Nat) (bs : List Byte) : List Byte :=
  if isAnchor n p then bs
  else if p % 4 = 0 then (kvVectors k bs).flatMap fun v => groupBytes (encodeGroup k.elem (kvElems v))
  else []

/-- A group restored. -/
def restoreGroup (f : Fmt) (bs : List Byte) : List Byte :=
  (List.range 128).flatMap fun i => leBytes 2 (decodeElem f (numAt bs 0 2) (bits (numAt bs (2 + i / 2) 1) (4 * (i % 2)) 4))

/-- A position restored from a condensed record; one without KV reads as zero, and attention masks it (R214). -/
def restorePos (k : KvShape) (n p : Nat) (bs : List Byte) : List Byte :=
  if isAnchor n p then bs
  else if p % 4 = 0 then (List.range k.vectors).flatMap fun v => restoreGroup k.elem ((bs.drop (66 * v)).take 66)
  else List.replicate k.posBytes 0

/-- The condensed form of `n` positions, in ascending order. -/
def condense (k : KvShape) (n : Nat) (full : List Byte) : List Byte :=
  (List.range n).flatMap fun p => condensePos k n p ((full.drop (p * k.posBytes)).take k.posBytes)

/-- The full form restored from the condensed form of `n` positions: `p` is the position that comes next. -/
def restoreFrom (k : KvShape) (n : Nat) : Nat → Nat → List Byte → List Byte
  | 0, _, _ => []
  | m + 1, p, bs =>
    let w := condensedBytes k n p
    restorePos k n p (bs.take w) ++ restoreFrom k n m (p + 1) (bs.drop w)

/-- The full form restored from a condensed record of `n` positions (R213). -/
def restore (k : KvShape) (n : Nat) (bs : List Byte) : List Byte := restoreFrom k n n 0 bs

/-- Bytes of a record of `n` positions. -/
def recordBytes (k : KvShape) (n : Nat) (condensed : Bool) : Nat :=
  if condensed then ((List.range n).map (condensedBytes k n)).sum else n * k.posBytes

end Sys2Proof.Machine
end

