-- ==== Sys2Proof/Machine/Convs.lean ====
section
/-! DEFINITION. Machine/Convs: paused conversations: where their parts lie, how they are condensed, lost and discarded
(R208 to R214). -/

namespace Sys2Proof.Machine

/-- Tally ticks of a number of seconds. -/
def secTicks (s : Nat) : Nat := s * 625000000

/-- The record with the earliest expiry that is not pinned. -/
def earliest (l : List Conv) : Option Conv :=
  (l.filter fun c => !c.pinned).foldl (fun m c => match m with
    | some x => if c.expiry < x.expiry then some c else some x
    | none => some c) none

/-- The records are replaced. -/
def setConvs (d : Dev) (l : List Conv) : Dev := { d with srv := { d.srv with convs := l } }

/-- A record is replaced. -/
def setConv (d : Dev) (old new : Conv) : Dev := setConvs d (d.srv.convs.map fun x => if x = old then new else x)

/-! ## Where the parts lie (R209, R211) -/

/-- Positions whose KV a record keeps: those of its tokens, or of a holder's span. -/
def Conv.count (c : Conv) : Nat := (c.span.map Prod.snd).getD c.tokens.length

/-- A stack for `n` CONVERSATION pages and the pages: the lowest stack that has them (log entry 42). -/
def kvPlace (d : Dev) (n s : Nat) : Option (List Nat) := if stackUp d s then freeOn d s n else none

/-- The bytes of a directory record, as this model lays it out (log entry 99). -/
def dirBytes (c : Conv) : Nat := 64 + 4 * c.tokens.length + 4 * c.pages.length

/-- HALL pages that the directory needs on a stack. -/
def dirNeed (l : List Conv) (s : Nat) : Nat := pagesFor ((l.filter fun c => c.copies.contains s).map dirBytes).sum

/-- A further copy of a record finds its HALL pages on a stack. -/
def dirFits (d : Dev) (c : Conv) (s : Nat) : Bool :=
  (freeOn d s (dirNeed ({ c with copies := [s] } :: d.srv.convs) s - (mgetD d.srv.dirPages s []).length)).isSome

/-- The stacks that are up. -/
def upStacks (d : Dev) : List Nat := (List.range 8).filter (stackUp d)

/-- The copies of a directory record that can be had: two, while two stacks are up. -/
def wantedCopies (d : Dev) : Nat := min 2 (upStacks d).length

/-- The stacks for the two copies of a directory record: the lowest two others than the stack of its KV that have room, and
while fewer than three are up that stack too (R211). -/
def copyStacks (d : Dev) (c : Conv) : List Nat :=
  let others := (upStacks d).filter fun s => some s != c.stack
  ((others ++ if others.length < 2 then (c.stack.filter (stackUp d)).toList else []).filter (dirFits d c)).take 2

/-- The HALL pages of the directory on a stack follow what its records need. -/
def settleDirectoryOn (d : Dev) (s : Nat) : Dev :=
  let need := dirNeed d.srv.convs s
  let have_ := mgetD d.srv.dirPages s []
  let store (d : Dev) (l : List Nat) : Dev := { d with srv := { d.srv with dirPages := mset d.srv.dirPages s l } }
  if need = have_.length then d
  else if need < have_.length then store (freePageList d (have_.drop need)) (have_.take need)
  else match freeOn d s (need - have_.length) with
    | some l => store (takePages d l 6 false false) (have_ ++ l)
    | none => d

/-- As `settleDirectoryOn`, for every stack. -/
def settleDirectory (d : Dev) : Dev := (List.range 8).foldl settleDirectoryOn d

/-- A record of `n` CONVERSATION pages in its places, on the lowest stack where all its parts find room (R209, R210). -/
def recordPlace (d : Dev) (c : Conv) (n : Nat) : Option (Dev × Conv) :=
  let add (d : Dev) (c : Conv) : Option (Dev × Conv) :=
    let l := copyStacks d c
    if l.length = wantedCopies d then some (d, { c with copies := l }) else none
  if n = 0 then add d c
  else (List.range 8).findSome? fun s => (kvPlace d n s).bind fun l =>
    add (takePages d l 5 false false) { c with stack := some s, pages := l, landed := false }

/-! ## Condensing and discarding (R209, R210, R212) -/

/-- A full record becomes condensed: where its copy has landed its bytes are encoded in place, and the pages that it needs no
longer are freed. -/
def condenseConv (d : Dev) (c : Conv) : Dev :=
  let n := c.count
  let k := pagesFor (recordBytes c.kvShape n true)
  let d := if c.landed then
      putPages (c.pages.take k) (condense c.kvShape n (pagesRead d c.pages 0 (n * c.kvShape.posBytes))) d
    else d
  let d := setConv d c { c with condensed := true, pages := c.pages.take k, gaps := c.gaps ++ [n] }
  settleDirectory (freePageList d (c.pages.drop k))

/-- A record is discarded: its pages are freed and zeroed. -/
def discardConv (d : Dev) (c : Conv) : Dev :=
  settleDirectory (freePageList (freePageList (setConvs d (d.srv.convs.filter fun x => x != c)) c.pages) c.source)

/-- The earliest record is discarded to make room. -/
def evictConv (d : Dev) : Dev :=
  match earliest d.srv.convs with
  | none => d
  | some e => fcnt (discardConv d e) (ctl R.SRV_CONV_CNT 0 0) F.SRV_CONV_CNT_EVICTED 1

/-- A full record that can be condensed now: its pages are there and readable, and nothing accepted for them waits. -/
def mayCondense (d : Dev) (c : Conv) : Bool :=
  !c.condensed && !c.lost && (!c.landed || c.pages.all fun p => pageQuiet d p && pageReadable d p)

/-- Room for a record of `n` CONVERSATION pages: older records are condensed, earliest expiry first, and then discarded
(R210). -/
def makeRoom (c : Conv) (n : Nat) : Nat → Dev → Dev
  | 0, d => d
  | k + 1, d =>
    if (recordPlace d c n).isSome then d
    else match earliest (d.srv.convs.filter (mayCondense d)) with
      | some e => makeRoom c n k (condenseConv d e)
      | none => if (earliest d.srv.convs).isSome then makeRoom c n k (evictConv d) else d

/-- A record is kept (R208 to R211): a full directory and too few free pages make older ones go; the record's KV goes to
pages of one stack, and copies of its directory record to two further ones. Where no room can be made for its KV it is
resumed by prefill, and where none can be made for a copy of its directory record it is not kept. -/
def keepConv (d : Dev) (c : Conv) : Dev :=
  let d := (d.srv.convs.filter fun x => x.conv == c.conv && x.tenant == c.tenant && x.span == c.span).foldl discardConv d
  let d := if d.srv.convs.length < 1048576 then d else evictConv d
  let n := if c.lost then 0 else pagesFor (recordBytes c.kvShape c.count c.condensed)
  let d := makeRoom c n (2 * d.srv.convs.length + 1) d
  let add (d : Dev) (c : Conv) : Dev :=
    settleDirectory (setConvs (if c.landed then freePageList d c.source else d)
      (d.srv.convs ++ [if c.landed then { c with source := [] } else c]))
  match recordPlace d c n with
  | some (d, c) => add d c
  | none =>
    let c := { c with lost := true, copies := copyStacks d c }
    if c.copies.isEmpty then freePageList d c.source else add d c

/-- A record loses its KV and is resumed by prefill (R204, R211): the pages that are left of it are freed. -/
def loseKv (d : Dev) (c : Conv) : Dev :=
  let d := freePageList (freePageList d c.pages) c.source
  setConv d c { c with lost := true, landed := true, pages := [], source := [], stack := none }

/-- The copy of a record may land: what was accepted for its pages, and for those that it is copied from, has been done. -/
def mayLandConv (d : Dev) (c : Conv) : Bool := !c.landed && (c.pages ++ c.source).all (pageQuiet d)

/-- The copy of a record lands (R208): the kept positions lie in its CONVERSATION pages, full or condensed, and the KV pages
are freed and zeroed. Where a page does not answer, the KV is lost. -/
def landConv (d : Dev) (c : Conv) : Dev :=
  if !(c.source.all (pageReadable d) && c.stack.all (stackUp d)) then loseKv d c
  else
    let full := pagesRead d c.source 0 (c.count * c.kvShape.posBytes)
    let d := putPages c.pages (if c.condensed then condense c.kvShape c.count full else full) d
    setConv (freePageList d c.source) c { c with landed := true, source := [] }

/-! ## Stacks that come and go (R211) -/

/-- Every part of a record is on a stack that is up, and it has its copies. -/
def partsStand (d : Dev) (c : Conv) : Bool :=
  c.copies.all (stackUp d) && c.copies.length == wantedCopies d && c.stack.all (stackUp d)
    && c.source.all fun p => stackUp d (p % 8)

/-- A record as stacks come and go: KV on a stack that is down is lost, with it the KV that was being copied there; a lost copy
of the directory record is written anew from the other on a further stack that has room; a record without a copy is gone. -/
def reviewConv (d : Dev) (c : Conv) : Dev :=
  if partsStand d c then d
  else
    let live := c.copies.filter (stackUp d)
    if live.isEmpty then discardConv d c
    else
      let lose := !(c.stack.all (stackUp d) && c.source.all fun p => stackUp d (p % 8))
      let d := if lose then loseKv d c else d
      let c := if lose then { c with lost := true, landed := true, pages := [], source := [], stack := none } else c
      let others := (upStacks d).filter fun s => some s != c.stack && !live.contains s
      let fresh := ((others ++ if (upStacks d).length < 3 then (c.stack.filter fun s => !live.contains s).toList else []).filter
        (dirFits d c)).take (wantedCopies d - live.length)
      settleDirectory (setConv d c { c with copies := live ++ fresh })

/-- Every record is reviewed as stacks come and go. -/
def reviewConvs (d : Dev) : Dev := d.srv.convs.foldl reviewConv d

/-! ## Bringing KV back (R214, R308) -/

/-- The full form of a record's KV, restored where it is condensed. -/
def convKv (d : Dev) (c : Conv) : List Byte :=
  let n := c.count
  if c.condensed then restore c.kvShape n (pagesRead d c.pages 0 (recordBytes c.kvShape n true))
  else pagesRead d c.pages 0 (n * c.kvShape.posBytes)

/-- The KV of a record can be brought back: its pages answer. -/
def kvReadable (d : Dev) (c : Conv) : Bool := !c.lost && c.pages.all (pageReadable d)

/-- KV pages for `n` positions, a run of consecutive pages (R208), none where no run is free; those of positions that a
record holds are written. -/
def admitKv (d : Dev) (k : KvShape) (n : Nat) (old : Option Conv) : Dev × List Nat :=
  match kvRun d (pagesFor (n * k.posBytes)) with
  | none => (d, [])
  | some l =>
    let d := takePages d l 4 true true
    (match old with
      | some c => putPages l (convKv d c) d
      | none => d, l)

/-- A position of a request has KV: it does not lie in a gap of a condensed record that it was restored from. Attention masks
the others (R214). -/
def Slot.hasKv (s : Slot) (p : Nat) : Bool := s.gaps.all fun n => n ≤ p || isHeld n p

end Sys2Proof.Machine
end

