-- ==== Sys2Proof/Machine/Mailbox.lean ====
section
/-! DEFINITION. Machine/Mailbox: mailboxes and send buffers (R251, R336 to R341). -/

namespace Sys2Proof.Machine

/-- A register of a mailbox. -/
abbrev mbxReg (place die m : Nat) : Nat := ctl place die m

/-- The head by which an express flit leaves; the primary head where no aqueduct is there for it. -/
def leaveBy (d : Dev) (fa : Nat) : Nat := (routeHead d fa 0).getD (primaryHead d)

/-- The answers to a message (R240). -/
inductive MbxAnswer where
  | drained | timeout | overwritten
deriving DecidableEq, Repr

/-- The STATUS of an MBX_ACK. -/
def MbxAnswer.code : MbxAnswer → Nat
  | .drained => 0 | .timeout => 1 | .overwritten => 2

/-- Answers a message. -/
def mbxAnswer (d : Dev) (die fa xid to_ : Nat) (a : MbxAnswer) : Dev :=
  sendTo d fa 0 .mbxAck [leaveBy d fa, fa, xid, a.code] [] die to_

/-- A mailbox's flag. -/
def mbxFull (d : Dev) (die m : Nat) : Bool := flag d (mbxReg R.MBX_STATUS die m) F.MBX_STATUS_FULL

/-- The sender of the message held has been answered already. -/
def mbxTimedOut (d : Dev) (die m : Nat) : Bool := flag d (mbxReg R.MBX_STATUS die m) F.MBX_STATUS_TIMED_OUT

/-- The message held, with whom to answer. -/
def mbxHeld (d : Dev) (die m : Nat) : MbxHeld := mgetD d.mailboxes (die * 64 + m) { fa := 0, xid := 0, at_ := 0 }

/-- A mailbox accepts a message with a stamp (R339). -/
def mbxAccepts (d : Dev) (die m stamp : Nat) : Bool :=
  let c := mbxReg R.MBX_CTRL die m
  let core := fget d c F.MBX_CTRL_CORE
  flag d c F.MBX_CTRL_ENABLE && !flag d (ctl R.HAL_CORE_CTRL die core) F.HAL_CORE_CTRL_HOLD && !coreRetired d die core
    && fget d c F.MBX_CTRL_MIN_PRIV ≤ bits stamp 30 2
    && (flag d c F.MBX_CTRL_REMOTE_OK || bits stamp 0 16 == ownFa d)

/-- Delivers a whole message (R339): refused, or written whole, the message before it being overwritten. The I3C agent
raises its interrupt each time mailbox 63 of die 0 becomes FULL (R400). -/
def mbxDeliver (d : Dev) (die m stamp xid : Nat) (bytes : List Byte) : Dev :=
  let fa := bits stamp 0 16
  if 48 ≤ die then mbxAnswer d die fa xid (bits stamp 16 6) .timeout
  else if !mbxAccepts d die m stamp then
    mbxAnswer (fcnt d (mbxReg R.MBX_CNT die m) F.MBX_CNT_REFUSED 1) die fa xid (bits stamp 16 6) .timeout
  else
    let st := mbxReg R.MBX_STATUS die m
    let was := mbxFull d die m
    let d :=
      if !was then d
      else
        let h := mbxHeld d die m
        let d := fcnt (fset d st F.MBX_STATUS_COLLISION 1) (mbxReg R.MBX_CNT die m) F.MBX_CNT_COLLISIONS 1
        if mbxTimedOut d die m then d else mbxAnswer d die h.fa h.xid h.die .overwritten
    let d := (List.range 16).foldl (fun d i =>
      wr d (mbxReg (R.MBX_MSG + 4 * i) die m) (BitVec.ofNat 32 (ofLeBytes ((bytes.drop (4 * i)).take 4)))) d
    let d := wr d (mbxReg R.MBX_STAMP die m) (BitVec.ofNat 32 stamp)
    let d := fsets d st [(F.MBX_STATUS_SEQ, fget d st F.MBX_STATUS_SEQ + 1), (F.MBX_STATUS_FULL, 1),
      (F.MBX_STATUS_TIMED_OUT, 0)]
    let d := { d with mailboxes := mset d.mailboxes (die * 64 + m) { fa, die := bits stamp 16 6, xid, at_ := d.tally } }
    let d := if die = 0 ∧ m = 63 ∧ !was then emit d .i3cInterrupt [0x63] else d
    let c := mbxReg R.MBX_CTRL die m
    if !was && flag d c F.MBX_CTRL_DOORBELL then irq d die (fget d c F.MBX_CTRL_CORE) 0 else d

/-- A part of a message arrives (R251): with both parts held, from one stamp and identifier, it is delivered. -/
def mbxPart (d : Dev) (die m stamp xid part : Nat) (bytes : List Byte) : Dev :=
  let mine (h : MbxHalf) : Bool := h.stamp == stamp && h.xid == xid && h.die == die && h.mailbox == m
  match d.mbxHalves.find? fun h => mine h && h.part != part with
  | some h =>
    let d := { d with mbxHalves := d.mbxHalves.filter fun g => !mine g }
    mbxDeliver d die m stamp xid (if part = 0 then bytes ++ h.bytes else h.bytes ++ bytes)
  | none =>
    let keep := d.mbxHalves.filter fun g => !(mine g && g.part == part)
    { d with mbxHalves := keep ++ [{ stamp, xid, die, mailbox := m, part, bytes }] }

/-- A drain (R340). -/
def mbxDrain (d : Dev) (die m v : Nat) : Dev :=
  let st := mbxReg R.MBX_STATUS die m
  if bits v 0 8 ≠ fget d st F.MBX_STATUS_SEQ then fcnt d (mbxReg R.MBX_CNT die m) F.MBX_CNT_STALE 1
  else if !mbxFull d die m then d
  else
    let h := mbxHeld d die m
    if mbxTimedOut d die m then fsets d st [(F.MBX_STATUS_FULL, 0), (F.MBX_STATUS_TIMED_OUT, 0)]
    else mbxAnswer (fset d st F.MBX_STATUS_FULL 0) die h.fa h.xid h.die .drained

/-- The mailbox timeout expires undrained (R341). -/
def mbxTimeout (d : Dev) (die m : Nat) : Dev :=
  let h := mbxHeld d die m
  let us := max 1 (fget d (mbxReg R.MBX_CTRL die m) F.MBX_CTRL_TIMEOUT_US)
  if mbxFull d die m && !mbxTimedOut d die m && h.at_ + usTicks us ≤ d.tally then
    mbxAnswer (fset d (mbxReg R.MBX_STATUS die m) F.MBX_STATUS_TIMED_OUT 1) die h.fa h.xid h.die .timeout
  else d

/-- A write of MBX_CTRL; clearing ENABLE discards the message (R341). -/
def mbxCtrlWrite (d : Dev) (die m : Nat) (v : Nat) : Dev :=
  let c := mbxReg R.MBX_CTRL die m
  let d := wr d c (BitVec.ofNat 32 (v % pow2 27))
  if flag d c F.MBX_CTRL_ENABLE || !mbxFull d die m then d
  else
    let h := mbxHeld d die m
    let d := fset d (mbxReg R.MBX_STATUS die m) F.MBX_STATUS_FULL 0
    if mbxTimedOut d die m then d else mbxAnswer d die h.fa h.xid h.die .timeout

/-! ## Send buffers (R337) -/

/-- A register of send buffer `s` of a core, or of the I3C agent at instance 5 of die 0. -/
abbrev txReg (place die inst s : Nat) : Nat := ctl (place + 0x80 * s) die inst

/-- The stamp of the sender of a buffer: a core in its mode, or the I3C agent. -/
def bufferStamp (d : Dev) (die inst priv : Nat) : Nat :=
  if inst < 4 then stamp d die 0xB inst priv else stamp d die 0x3 0 2

/-- GO is written: the buffer's contents are taken whole and sent in two parts, and BUSY sets. -/
def txGo (d : Dev) (die inst s priv : Nat) : Dev :=
  let c := txReg R.HAL_TX_CTRL die inst s
  if flag d c F.HAL_TX_CTRL_BUSY then d
  else
    let dst := txReg R.HAL_TX_DST die inst s
    let fa := if flag d dst F.HAL_TX_DST_LOCAL then ownFa d else fget d dst F.HAL_TX_DST_FA
    let bytes := (List.range 16).flatMap fun i => leBytes 4 (rd d (txReg (R.HAL_TX_DATA + 4 * i) die inst s)).toNat
    let x := freshXid (fset d c F.HAL_TX_CTRL_BUSY 1)
    let h := leaveBy x.1 fa
    let d := addTxn x.1 h (.mbx x.2) (.buffer c)
    let nums (p : Nat) : List Nat :=
      [h, fa, fget d dst F.HAL_TX_DST_DIE, bufferStamp d die inst priv, x.2, fget d dst F.HAL_TX_DST_MAILBOX, p]
    let to_ := fget d dst F.HAL_TX_DST_DIE
    sendTo (sendTo d fa 0 .mbxPart (nums 0) (bytes.take 32) 64 to_) fa 0 .mbxPart (nums 1) (bytes.drop 32) 64 to_

/-- The answer lands in the send buffer whose TX_CTRL has address `c`: STATUS, BUSY clears, and TX_DONE is raised at a
core. -/
def txDone (d : Dev) (c status : Nat) : Dev :=
  let d := fsets d c [(F.HAL_TX_CTRL_BUSY, 0), (F.HAL_TX_CTRL_STATUS, status)]
  if ctlInst c < 4 then irq d (ctlDie c) (ctlInst c) 2 else d

/-- An MBX_ACK arrives. -/
def mbxAck (d : Dev) (xid status : Nat) : Dev :=
  match takeTxn d (.mbx xid) with
  | none => d
  | some (d, t) =>
    match t.origin with
    | .buffer c => txDone d c (status + 1)
    | _ => d

end Sys2Proof.Machine
end

