-- ==== Sys2Proof/Machine/Func.lean ====
section
/-! DEFINITION. Machine/Func: the correctly rounded functions of the vector engine (R60, R61). A function is
approximated in fixed point with an error below `2^40` last places at `p + 200` fraction bits, for rising `p`; where the
two ends of the error interval round to one FP32 value, that value is the correctly rounded result. Results that are
exactly a value or a tie are found by cases before. -/

namespace Sys2Proof.Machine

/-- Fixed-point product with `w` fraction bits. -/
def fxMul (w : Nat) (a b : Int) : Int := (a * b) / Int.ofNat (pow2 w)

/-- Σ t/(2k+1) with t divided by `d` from term to term and the sign turned where `alt`: the series of the inverse
tangents of 1/√d. -/
def atanLoop (d : Int) (alt : Bool) : Nat → Int → Int → Int → Int
  | 0, _, _, acc => acc
  | n + 1, t, k, acc => atanLoop d alt n ((if alt then - t else t) / d) (k + 2) (acc + t / k)

/-- ln 2 = 2 artanh (1/3). -/
def ln2Fx (w : Nat) : Int := atanLoop 9 false (w / 3 + 8) (2 * Int.ofNat (pow2 w) / 3) 1 0

/-- π by Machin's formula. -/
def piFx (w : Nat) : Int :=
  16 * atanLoop 25 true (w / 4 + 8) (Int.ofNat (pow2 w) / 5) 1 0
    - 4 * atanLoop 57121 true (w / 15 + 8) (Int.ofNat (pow2 w) / 239) 1 0

/-- Σ r^k / k! from a term on. -/
def expLoop (w : Nat) (r : Int) : Nat → Int → Int → Int → Int
  | 0, _, _, acc => acc
  | n + 1, t, k, acc => expLoop w r n (fxMul w t r / k) (k + 1) (acc + t)

/-- e^r for |r| ≤ 1. -/
def expSmall (w : Nat) (r : Int) : Int := expLoop w r (w / 3 + 20) (Int.ofNat (pow2 w)) 1 0

/-- e^x as a mantissa with `w` fraction bits and a power of two. -/
def expFx (w : Nat) (x : Int) : Int × Int :=
  let l := ln2Fx w
  let n := x / l
  (expSmall w (x - n * l), n)

/-- e^(-y) for `y ≥ 0` as one fixed-point number. -/
def expNegFx (w : Nat) (y : Int) : Int :=
  let r := expFx w (- y)
  r.1 / Int.ofNat (pow2 (- r.2).toNat)

/-- ln m for `1 ≤ m < 2`: 2 artanh ((m-1)/(m+1)). -/
def lnLoop (w : Nat) (z2 : Int) : Nat → Int → Int → Int → Int
  | 0, _, _, acc => acc
  | n + 1, t, k, acc => lnLoop w z2 n (fxMul w t z2) (k + 2) (acc + t / k)

/-- ln m for `1 ≤ m < 2`. -/
def lnFx (w : Nat) (m : Int) : Int :=
  let u := Int.ofNat (pow2 w)
  let z := (m - u) * u / (m + u)
  2 * lnLoop w (fxMul w z z) (w / 3 + 8) z 1 0

/-- Alternating series of sine (from `r`, k = 2) and cosine (from 1, k = 1): each term is the last times
-r² / (k (k+1)). -/
def trigLoop (w : Nat) (r2 : Int) : Nat → Int → Int → Int → Int
  | 0, _, _, acc => acc
  | n + 1, t, k, acc => trigLoop w r2 n (- (fxMul w t r2 / (k * (k + 1)))) (k + 2) (acc + t)

/-- sin r for |r| ≤ 1. -/
def sinSmall (w : Nat) (r : Int) : Int := trigLoop w (fxMul w r r) (w / 6 + 12) r 2 0
/-- cos r for |r| ≤ 1. -/
def cosSmall (w : Nat) (r : Int) : Int := trigLoop w (fxMul w r r) (w / 6 + 12) (Int.ofNat (pow2 w)) 1 0

/-- sin (x + k π/2) for a signed value `m * 2^e` (argument reduction exact for every finite input, R60). -/
def sinFx (w : Nat) (v : Int) (e : Int) (k : Int) : Int :=
  let pw := w + 160
  let h := piFx pw / 2
  let x := if e ≥ 0 then v * Int.ofNat (pow2 (e.toNat + pw)) else v * Int.ofNat (pow2 pw) / Int.ofNat (pow2 (- e).toNat)
  let q := (2 * x + h) / (2 * h)
  let r := (x - q * h) / Int.ofNat (pow2 160)
  match ((q + k) % 4).toNat with
  | 0 => sinSmall w r
  | 1 => cosSmall w r
  | 2 => - sinSmall w r
  | _ => - cosSmall w r

/-- Σ 2^n x^(2n+1) / (1·3·…·(2n+1)). -/
def erfLoop (w : Nat) (x2 : Int) : Nat → Int → Int → Int → Int
  | 0, _, _, acc => acc
  | n + 1, t, k, acc => erfLoop w x2 n (2 * fxMul w t x2 / k) (k + 2) (acc + t)

/-- erf x for `0 ≤ x < 4`. -/
def erfFx (w : Nat) (x : Int) : Int :=
  let x2 := fxMul w x x
  let s := erfLoop w x2 (w + 60) x 3 0
  let rootPi := Int.ofNat (isqrt ((piFx w).toNat <<< w) (w + 2) 0)
  2 * fxMul w (expNegFx w x2) s * Int.ofNat (pow2 w) / rootPi

/-- An FP32 finite value as fixed point (exact: no FP32 value has a bit below 2^-149). -/
def toFx (w : Nat) (neg : Bool) (m : Nat) (e : Int) : Int :=
  signedMag neg (m <<< (e + Int.ofNat w).toNat)

/-- The FP32 rounding of a signed mantissa times a power of two. -/
def roundFx (a e : Int) : Nat := packF 8 23 (decide (a < 0)) a.natAbs e

/-- Rounds `a * 2^e` where both ends of the error interval agree, else tries the next precision. -/
def crLoop (f : Nat → Int × Int) : List Nat → Nat
  | [] => nan32
  | [p] => let r := f p; roundFx r.1 r.2
  | p :: ps =>
    let r := f p
    let lo := roundFx (r.1 - Int.ofNat (pow2 40)) r.2
    let hi := roundFx (r.1 + Int.ofNat (pow2 40)) r.2
    if lo = hi then lo else crLoop f ps

/-- The correctly rounded value of an approximated function, `f` given the fraction bits to work with. -/
def crRound (f : Nat → Int × Int) : Nat := crLoop (fun p => f (p + 200)) [64, 128, 256, 512]

/-- The functions of R60. -/
inductive Fn where
  | exp | exp2 | log | log2 | sqrt | rsqrt | tanh | sigmoid | erf | sin | cos
deriving DecidableEq, Repr

/-- The fixed-point number divided by another. -/
def fxDiv (w : Nat) (a b : Int) : Int := a * Int.ofNat (pow2 w) / b

/-- A function of a finite non-zero FP32 value (R60). -/
def fnFinite (f : Fn) (neg : Bool) (m : Nat) (e : Int) : NumRes :=
  let ok (v : Nat) : NumRes := { val := v, gen := false }
  let dom : NumRes := { val := nan32, gen := true }
  let self := packF 8 23 neg m e
  -- |x| against a whole number
  let ge (k : Nat) : Bool := decide (ordKey (packF 8 23 false k 0) ≤ ordKey (packF 8 23 false m e))
  -- the power of two of the leading bit, and the mantissa in [1, 2)
  let lead := e + Int.ofNat (bitLen m) - 1
  let isPow : Bool := decide (m = pow2 (bitLen m - 1))
  let mant (w : Nat) : Int := Int.ofNat (m <<< (w + 1 - bitLen m))
  match f with
  | .exp =>
    if ge 104 then ok (if neg then 0 else pinf32)
    else ok (crRound fun w => let r := expFx w (toFx w neg m e); (r.1, r.2 - Int.ofNat w))
  | .exp2 =>
    if ge 152 then ok (if neg then 0 else pinf32)
    else if e ≥ 0 ∨ m % pow2 (- e).toNat = 0 then
      -- an integer power is exact
      let n := if e ≥ 0 then m <<< e.toNat else m >>> (- e).toNat
      ok (packF 8 23 false 1 (signedMag neg n))
    else ok (crRound fun w =>
      let x := toFx w neg m e
      let u := Int.ofNat (pow2 w)
      (expSmall w (fxMul w (x % u) (ln2Fx w)), x / u - Int.ofNat w))
  | .log =>
    if neg then dom
    else if isPow ∧ lead = 0 then ok 0
    else ok (crRound fun w => (lnFx w (mant w) + lead * ln2Fx w, - Int.ofNat w))
  | .log2 =>
    if neg then dom
    else if isPow then ok (packF 8 23 (decide (lead < 0)) lead.natAbs 0)
    else ok (crRound fun w => (fxDiv w (lnFx w (mant w)) (ln2Fx w) + lead * Int.ofNat (pow2 w), - Int.ofNat w))
  | .sqrt => if neg then dom else ok (enc32 (sqrtPos m e))
  | .rsqrt => if neg then dom else ok (enc32 (rsqrtPos m e))
  | .tanh =>
    if ge 12 then ok (if neg then one32 + 0x80000000 else one32)
    else ok (crRound fun w =>
      let t := expNegFx w (2 * toFx w false m e)
      let u := Int.ofNat (pow2 w)
      let r := fxDiv w (u - t) (u + t)
      (if neg then - r else r, - Int.ofNat w))
  | .sigmoid =>
    if ge 104 then ok (if neg then 0 else one32)
    else ok (crRound fun w =>
      let t := expNegFx w (toFx w false m e)
      let u := Int.ofNat (pow2 w)
      (fxDiv w (if neg then t else u) (u + t), - Int.ofNat w))
  | .erf =>
    if ge 4 then ok (if neg then one32 + 0x80000000 else one32)
    else ok (crRound fun w =>
      let r := erfFx w (toFx w false m e)
      (if neg then - r else r, - Int.ofNat w))
  | .sin => if self = 0 then ok 0 else ok (crRound fun w => (sinFx w (signedMag neg m) e 0, - Int.ofNat w))
  | .cos => ok (crRound fun w => (sinFx w (signedMag neg m) e 1, - Int.ofNat w))

/-- A function of an FP32 value: the special cases of the table of R60, then the finite values. A domain error is a
generated NaN (R61). -/
def fnEval (f : Fn) (x : Nat) : NumRes :=
  let ok (v : Nat) : NumRes := { val := v, gen := false }
  let dom : NumRes := { val := nan32, gen := true }
  let negOne := one32 + 0x80000000
  match val32 x with
  | .nan => ok nan32
  | .inf neg =>
    match f with
    | .exp | .exp2 => ok (if neg then 0 else pinf32)
    | .log | .log2 | .sqrt => if neg then dom else ok pinf32
    | .rsqrt => if neg then dom else ok 0
    | .tanh | .erf => ok (if neg then negOne else one32)
    | .sigmoid => ok (if neg then 0 else one32)
    | .sin | .cos => dom
  | .fin neg m e =>
    if m = 0 then
      match f with
      | .exp | .exp2 | .cos => ok one32
      | .log | .log2 => ok ninf32
      | .rsqrt => ok (inf32 neg)
      | .sigmoid => ok 0x3F000000
      | .sqrt | .tanh | .erf | .sin => ok (zero32 neg)
    else fnFinite f neg m e

end Sys2Proof.Machine
end

