-- ==== Sys2Proof/Machine/EafUnit.lean ====
section
/-! DEFINITION. Machine/EafUnit: a block's EAF unit: its 64 accumulators, its operations in issue order (R58, R101,
R102, R173), and the events they make. -/

namespace Sys2Proof.Machine

/-- An accumulator. -/
def accAt (m : SMap EafWord) (i : Nat) : EafWord := mgetD m (i % 64) eafZero

/-- The accumulators with a change to one, and how many set NAN and how many set OVERFLOW by it (R53, EAF_STATUS). -/
structure AccRes where
  accs : SMap EafWord
  nanSet : Nat := 0
  ovfSet : Nat := 0
deriving DecidableEq, Repr

/-- Changes one accumulator. -/
def accStep (r : AccRes) (i : Nat) (f : EafWord → EafWord) : AccRes :=
  let w := accAt r.accs i
  let v := f w
  { accs := mset r.accs (i % 64) v, nanSet := r.nanSet + b2n (!w.nan && v.nan), ovfSet := r.ovfSet + b2n (!w.ovf && v.ovf) }

/-- Deposits of FP32 values, each with its accumulator, in order. -/
def depositAll (r : AccRes) (l : List (Nat × Nat)) : AccRes :=
  l.foldl (fun r p => accStep r p.1 fun w => eafDepF w p.2) r

/-- What deposits do to EAF_STATUS and EAF_OVF_CNT (R53). -/
def accFx (die b : Nat) (r : AccRes) : List Fx :=
  let st := ctl R.EAF_STATUS die b
  (if r.nanSet = 0 then [] else [Fx.set st F.EAF_STATUS_NAN_SEEN 1])
    ++ (if r.ovfSet = 0 then [] else
        [Fx.set st F.EAF_STATUS_OVF_SEEN 1, Fx.cnt (ctl R.EAF_OVF_CNT die b) F.EAF_OVF_CNT_COUNT r.ovfSet])

/-- The NaN event of the EAF unit (R54, R57): it has no batch row of its own. The spec names none for it, so its key carries
row 0, and no row is attributed the event by R41 (DESIGN CHOICE, log entry 28). -/
def eafNan (x : Block) (b bundle row tag : Nat) : NanEv :=
  { admitted := false, unit := 0x6, block := b, cycle := x.seq.cycle, row := 0, bundle, basin := false,
    narrow := false, entry := row, tag }

/-- Rounds accumulators from `first` on, `n` of them (R54): the values and the effects of their rounding. -/
def roundAccs (x : Block) (die b bundle row tag first n : Nat) : List Nat × List Fx :=
  let rs := (List.range n).map fun k => eafRound (accAt x.accs (first + k))
  (rs.map fun r => r.1.val,
   (rs.flatMap fun r =>
      if r.1.gen then
        [Fx.set (ctl R.EAF_STATUS die b) F.EAF_STATUS_INF_CONFLICT 1, Fx.nan die (eafNan x b bundle row tag)]
      else [])
    ++ [Fx.cvt die (rs.filter fun r => r.2).length 0])

/-- A chain that deposits or reads the EAF unit. -/
def chainUsesEaf (c : Chain) : Bool :=
  (c.ops.any fun o => isDeposit o.opc) || c.streams.any fun s => match s with
    | some st => st.kind == .eaf
    | none => false

/-- An operation of the queue has its turn (R102): it is the oldest, and no chain issued earlier is still to use the
unit. -/
def eafTurn (x : Block) (o : EafOp) : Bool :=
  (x.eafQueue.head?.map EafOp.seq) == some o.seq
    && !(x.chains.any fun c => c.seq < o.seq && !c.halted && chainUsesEaf c.chain)

/-- What a step of an operation gives: the operation with its progress, the block, its effects, and its wait or its fault. -/
inductive EafRes where
  | done (o : EafOp) (x : Block) (fx : List Fx)
  | wait (o : EafOp) (x : Block) (fx : List Fx) (w : Wait)
  | bad (o : EafOp) (x : Block) (fx : List Fx) (c : FaultCode) (kind : EntryKind) (entry : Nat)
deriving DecidableEq, Repr

/-- The wide row of a run: segment, class and READY are checked (R173), and for a deposit the fill mark. -/
inductive RunRow where
  | ok (r : Nat)
  | wait (w : Wait)
  | bad (c : FaultCode)
deriving DecidableEq, Repr

/-- Checks row `row` of a run. -/
def runRow (d : Dev) (die b : Nat) (u : UnitCtx) (row : Nat) (gen : Option Nat) : RunRow :=
  match locateReady d die b u false (wideAddr row) with
  | .bad c => .bad c
  | .row r =>
    match gen with
    | none => .ok r
    | some g =>
      match markCheck (blk d die b) false r g with
      | .ok => .ok r
      | .wait => .wait (markWait false r g)
      | .overtaken => .bad .overtaken

/-- EDEPB from an entry on (R172): each must be complete in every earlier-issued pass (R71) and sealed (R50). -/
def runEdepb (d : Dev) (die b : Nat) (u : UnitCtx) (o : EafOp) (entry count acc : Nat) :
    Nat → Block → EafOp → List Fx → EafRes
  | 0, x, p, fx => .done p x fx
  | n + 1, x, p, fx =>
    let e := entry % 1024 + p.progress
    let k := (entry / 1024) * 1024 + u.base.entry + e
    if count ≤ p.progress then .done p x fx
    else if u.hdr.entries ≤ e ∨ 1024 ≤ e + u.base.entry then .bad p x fx .segment .basin (entry + p.progress)
    else if passPending x o.seq (u.base.entry + e) then
      .wait p x fx { cause := .basin, on := .basin k }
    else if !(basinAt x k).sealBit then .bad p x fx .unsealedDeposit .basin k
    else
      let vals := basinVals d die b k
      let r := depositAll { accs := x.accs } (vals.zipIdx.map fun v => (acc + v.2, v.1))
      runEdepb d die b u o entry count acc n { x with accs := r.accs } { p with progress := p.progress + 1 }
        (fx ++ accFx die b r)

/-- Words of a row in storage form (R173): up to 16, at offsets 48 i. -/
def storageWords (bs : List Byte) (n : Nat) : List (EafWord ⊕ Unit) :=
  (List.range (min n 16)).map fun i => .inl (eafOfStorage ((bs.drop (48 * i)).take 48))

/-- Words of a row in transport form (R173): until `n` or 16 are taken, an all-zero header, too few bytes, or a malformed
header, which counts as one word. -/
def transportWords : Nat → List Byte → List (EafWord ⊕ Unit)
  | 0, _ => []
  | n + 1, bs =>
    match eafOfTransport bs with
    | .finish => []
    | .malformed => [.inr ()]
    | .word w size => .inl w :: transportWords n (bs.drop size)

/-- Deposits the words of one row; word `i` of the run goes to accumulator `acc + (i mod 2^msh)` (R173). -/
def depositWords (r : AccRes) (acc msh : Nat) : List (EafWord ⊕ Unit) → Nat → AccRes
  | [], _ => r
  | w :: ws, i =>
    let k := acc + i % pow2 msh
    let r := match w with
      | .inl v => accStep r k fun a => eafDepW a v
      | .inr () => accStep r k fun a => eafDepF a nan32
    depositWords r acc msh ws (i + 1)

/-- A deposit run of words (EDEPS, EDEPT), row by row until `count` words are taken. -/
def runWords (d : Dev) (die b : Nat) (u : UnitCtx) (transport : Bool) (gen msh acc count : Nat) :
    Nat → Block → EafOp → List Fx → EafRes
  | 0, x, p, fx => .done p x fx
  | n + 1, x, p, fx =>
    let row := p.row + p.progress
    if count ≤ p.taken then .done p x fx
    else
      match runRow d die b u row (some gen) with
      | .bad c => .bad p x fx c .wide row
      | .wait w => .wait p x fx w
      | .ok r =>
        let bs := wellRead d die b (rowAddr false r) 1024
        let left := count - p.taken
        let ws := if transport then transportWords (min left 16) bs else storageWords bs left
        let a := depositWords { accs := x.accs } acc msh ws p.taken
        let malformed := ws.any fun w => match w with
          | .inr _ => true
          | .inl _ => false
        let mfx := if malformed then
            [Fx.cnt (ctl R.EAF_FMT_CNT die b) F.EAF_FMT_CNT_COUNT 1, Fx.set (ctl R.EAF_STATUS die b) F.EAF_STATUS_FMT_ERR 1,
             Fx.nan die (eafNan x b p.bundle row 0)]
          else []
        runWords d die b u transport gen msh acc count n { x with accs := a.accs }
          { p with progress := p.progress + 1, taken := p.taken + ws.length } (fx ++ accFx die b a ++ mfx)

/-- The bytes of a row packed with transport words from accumulator `first` on (R173): up to 16 words, none across the
row's end; an all-zero header follows where at least 8 bytes remain. -/
def packRow (m : SMap EafWord) : Nat → Nat → Nat → List Byte → List Byte × Nat
  | 0, _, n, bs => (if bs.length + 8 ≤ 1024 then bs ++ List.replicate 8 0 else bs, n)
  | k + 1, first, n, bs =>
    let w := eafTransport (accAt m first)
    if bs.length + w.length ≤ 1024 then packRow m k (first + 1) (n + 1) (bs ++ w)
    else (if bs.length + 8 ≤ 1024 then bs ++ List.replicate 8 0 else bs, n)

/-- A store run of words (ESTS, ESTT); each row's mark is set after its last word lands. -/
def runStore (d : Dev) (die b : Nat) (u : UnitCtx) (transport : Bool) (gen acc count : Nat) :
    Nat → Block → EafOp → List Fx → EafRes
  | 0, x, p, fx => .done p x fx
  | n + 1, x, p, fx =>
    let row := p.row + p.progress
    if count ≤ p.taken then .done p x fx
    else
      match runRow d die b u row none with
      | .bad c => .bad p x fx c .wide row
      | .wait w => .wait p x fx w
      | .ok r =>
        let left := min (count - p.taken) 16
        let (bs, k) :=
          if transport then packRow x.accs left (acc + p.taken) 0 []
          else (((List.range left).map fun i => eafStorage (accAt x.accs (acc + p.taken + i))).flatten, left)
        let x := setMark { x with well := memWrite x.well (rowAddr false r) bs } false r gen
        runStore d die b u transport gen acc count n x
          { p with progress := p.progress + 1, taken := p.taken + k } fx

/-- Performs an operation as far as it goes (R172, R173). -/
def performEaf (d : Dev) (die b : Nat) (o : EafOp) : EafRes :=
  let x := blk d die b
  let u := unitCtx d die b o.slot
  let fuel := u.hdr.wideRows + 1
  match o.cop with
  | .eclr acc count =>
    .done o { x with accs := (List.range count).foldl (fun m i => mdel m ((acc + i) % 64)) x.accs } []
  | .edepb entry count acc => runEdepb d die b u o entry count acc (count + 1) x o []
  | .edepw _ _ gen qtr qcnt acc =>
    match runRow d die b u o.row (some gen) with
    | .bad c => .bad o x [] c .wide o.row
    | .wait w => .wait o x [] w
    | .ok r =>
      let vals := groupLe 4 (64 * qcnt) (wellRead d die b (rowAddr false r + 256 * qtr) (256 * qcnt))
      let a := depositAll { accs := x.accs } (vals.zipIdx.map fun v => (acc + v.2 % 64, v.1))
      .done { o with progress := 1 } { x with accs := a.accs } (accFx die b a)
  | .edeps _ _ gen msh acc count => runWords d die b u false gen msh acc count fuel x o []
  | .edept _ _ gen msh acc count => runWords d die b u true gen msh acc count fuel x o []
  | .ernd _ _ gen qtr acc count =>
    match runRow d die b u o.row none with
    | .bad c => .bad o x [] c .wide o.row
    | .wait w => .wait o x [] w
    | .ok r =>
      let v := roundAccs x die b o.bundle o.row 0 acc count
      let bs := (v.1.map (leBytes 4)).flatten
      .done o (setMark { x with well := memWrite x.well (rowAddr false r + 256 * qtr) bs } false r gen) v.2
  | .ests _ _ gen acc count => runStore d die b u false gen acc count fuel x o []
  | .estt _ _ gen acc count => runStore d die b u true gen acc count fuel x o []
  | _ => .done o x []

/-- A row or entry is one that a deposit read as it went from one state of its progress to another (R172, R173). -/
def eafReads (u : UnitCtx) (o p : EafOp) (e : BadRead) : Bool :=
  match o.cop, e with
  | .edepb entry _ _, .basin k =>
    let first := (entry / 1024) * 1024 + u.base.entry + entry % 1024
    decide (first + o.progress ≤ k ∧ k < first + p.progress)
  | .edepw .., .wide k | .edeps .., .wide k | .edept .., .wide k =>
    decide (u.base.wide + o.row + o.progress ≤ k ∧ k < u.base.wide + o.row + p.progress)
  | _, _ => false

/-- The rows and entries that a deposit read in error, of those that a command names; they affect every row of the step on
the device (R122). -/
def eafParity (d : Dev) (die b : Nat) (o p : EafOp) (bad : List BadRead) : Dev :=
  wellParitiesAll d die b 4 (bad.filter (eafReads (unitCtx d die b o.slot) o p))

/-- Lost arbitrations of the EAF unit. -/
def eafLost (d : Dev) (die b : Nat) (e : WellEnv) : Dev := if (blk d die b).eafQueue.isEmpty then d else arbLost d die b e

/-- Goes on with the oldest operation of the queue where it has its turn. `bad` are the rows and entries found in error. -/
def eafAdvance (d : Dev) (die b : Nat) (bad : List BadRead) : Dev :=
  let x := blk d die b
  match x.eafQueue with
  | [] => d
  | o :: os =>
    if !eafTurn x o then
      let w : Wait := { cause := .queue, on := .other }
      stallBlk (setBlk d die b { x with eafQueue := { o with wait := some w } :: os }) die b (some w)
    else
      match performEaf d die b o with
      | .done p y fx => putBlk (eafParity d die b o p bad) die b ({ y with eafQueue := os }, fx)
      | .wait p y fx w =>
        let d := putBlk (eafParity d die b o p bad) die b ({ y with eafQueue := { p with wait := some w } :: os }, fx)
        stallBlk d die b (some w)
      | .bad p y fx c kind entry =>
        putBlk (eafParity d die b o p bad) die b ({ y with eafQueue := os },
          fx ++ [Fx.fault die { code := c, unit := 0x6, block := b, bundle := o.bundle, cycle := x.seq.cycle, kind,
                                entry }])

/-- The first wide row of an EAF operation: A[REG] + OFF (R173). -/
def copRow (regs : List Nat) : Cop → Nat
  | .edepw r o .. | .edeps r o .. | .edept r o .. | .ernd r o .. | .ests r o .. | .estt r o .. => areg regs r + o
  | _ => 0

/-- The control operation belongs to the EAF unit. -/
def copIsEaf : Cop → Bool
  | .eclr .. | .edepb .. | .edepw .. | .edeps .. | .edept .. | .ernd .. | .ests .. | .estt .. => true
  | _ => false

/-- Issues an EAF operation: it joins the queue in issue order (R173). -/
def eafIssue (d : Dev) (die b : Nat) (u : UnitCtx) (c : Cop) : Dev :=
  let x := blk d die b
  let o : EafOp := { seq := x.issueNo, bundle := bundleAddr u.slot x.seq.pos.pc, slot := u.slot, cop := c,
                     row := copRow x.seq.pos.regs c, progress := 0, taken := 0, wait := none }
  setBlk d die b { x with issueNo := x.issueNo + 1, eafQueue := x.eafQueue ++ [o] }

end Sys2Proof.Machine
end

