-- ==== Sys2Proof/Machine/Vector.lean ====
section
/-! DEFINITION. Machine/Vector: the vector engine: chain iterations and the landing of their stores
(05_vector_engine.md). -/

namespace Sys2Proof.Machine

/-- The result of an operation in one lane: its bits, whether it generated a NaN (R99), and what R38 counts. -/
structure LaneRes where
  val : Nat
  gen : Bool := false
  ovf : Bool := false
  unf : Bool := false
deriving DecidableEq, Repr

/-- A lane result with nothing to count. -/
def lr (v : Nat) : LaneRes := { val := v }
/-- A lane result of an FP32 operation. -/
def lrNum (r : NumRes) : LaneRes := { val := r.val, gen := r.gen }

/-- A converted to a format and back to FP32 (R98, RBF16 to RLNS8). -/
def roundThrough (f : Fmt) (a : Nat) : LaneRes :=
  let c := convert .fp32 f 0 a
  { val := (convert f .fp32 0 c.val).val, ovf := c.ovf, unf := c.unf }

/-- A scaled LNS conversion (R98 CVTL16S, CVTL8S; R32): the log offset is B bits [19:0]. -/
def scaledLns (f : Fmt) (a b : Nat) : LaneRes :=
  let c := toF32 f (signed 20 b) (a % pow2 (8 * f.bytes))
  { val := c.val, ovf := c.ovf, unf := c.unf }

/-- The value operations of R98 that work lane by lane; SEL and the cross-lane forms are elsewhere. -/
def laneOp (opc a b c : Nat) : LaneRes :=
  let m := pow2 32
  let sh := b % 32
  match opc with
  | 0x01 => lrNum (fAdd a b)
  | 0x02 => lrNum (fSub a b)
  | 0x03 => lrNum (fMul a b)
  | 0x04 => lrNum (fFma a b c)
  | 0x05 => lrNum (fFms a b c)
  | 0x06 => lr (fMin a b)
  | 0x07 => lr (fMax a b)
  | 0x08 => lr (fAbs a)
  | 0x09 => lr (fNeg a)
  | 0x0A => lr a
  | 0x10 => lrNum (fDiv a b)
  | 0x11 => lrNum (fDiv one32 a)
  | 0x12 => lrNum (fnEval .sqrt a)
  | 0x13 => lrNum (fnEval .rsqrt a)
  | 0x14 => lrNum (fnEval .exp a)
  | 0x15 => lrNum (fnEval .exp2 a)
  | 0x16 => lrNum (fnEval .log a)
  | 0x17 => lrNum (fnEval .log2 a)
  | 0x18 => lrNum (fnEval .tanh a)
  | 0x19 => lrNum (fnEval .sigmoid a)
  | 0x1A => lrNum (fnEval .erf a)
  | 0x1B => lrNum (fnEval .sin a)
  | 0x1C => lrNum (fnEval .cos a)
  | 0x20 => roundThrough .bf16 a
  | 0x21 => roundThrough .fp16 a
  | 0x22 => roundThrough .lns16 a
  | 0x23 => roundThrough .lns8 a
  | 0x24 => lr (fToInt a)
  | 0x25 => lr (intToF a)
  | 0x26 => scaledLns .lns16 a b
  | 0x27 => scaledLns .lns8 a b
  | 0x30 => lr ((a + b) % m)
  | 0x31 => lr ((a + m - b % m) % m)
  | 0x32 => lr (a * b % m)
  | 0x33 => lr (a * b / m)
  | 0x34 => lr ((a * b + c) % m)
  | 0x35 => lr (a &&& b)
  | 0x36 => lr (a ||| b)
  | 0x37 => lr (a ^^^ b)
  | 0x38 => lr ((a <<< sh) % m)
  | 0x39 => lr (a >>> sh)
  | 0x3A => lr (unsigned 32 (signed 32 a / Int.ofNat (pow2 sh)))
  | 0x3B => lr (((a <<< sh) + (a >>> (32 - sh))) % m)
  | 0x3C => lr (if signed 32 a ≤ signed 32 b then a else b)
  | 0x3D => lr (if signed 32 a ≤ signed 32 b then b else a)
  | _ => lr 0

/-- The compare operations (R98, R99). -/
def cmpOp (opc a b : Nat) : Bool :=
  match opc with
  | 0x40 => fLt a b
  | 0x41 => fLe a b
  | 0x42 => fEq a b
  | 0x43 => decide (signed 32 a < signed 32 b)
  | 0x44 => decide (a < b)
  | _ => decide (a = b)

/-- The largest (or smallest) of the contributing values; a NaN among them gives the canonical NaN (R99). -/
def reduceMax (least : Bool) : List Nat → Nat
  | [] => nan32
  | v :: vs => vs.foldl (fun m x => if least then fMin m x else fMax m x) (if isNan32 v then nan32 else v)

/-- The lowest position of the largest value, NaN lanes skipped; all ones where every lane is a NaN (R99). -/
def argMax (l : List (Nat × Nat)) : Nat :=
  match l.filter fun p => !isNan32 p.2 with
  | [] => 0xFFFFFFFF
  | p :: ps => (ps.foldl (fun m q => if ordKey m.2 < ordKey q.2 then q else m) p).1

/-- The cross-lane operations (R98, R100): over each quarter, or over all lanes, the enabled lanes contribute. -/
def crossOp (opc : Nat) (vals : List Nat) (en : List Bool) : List LaneRes :=
  let width := if opc = 0x63 ∨ opc = 0x64 then 256 else 64
  let groups := (List.range (256 / width)).map fun g =>
    let vs := ((vals.drop (g * width)).take width).zip ((en.drop (g * width)).take width)
    let live := (vs.zipIdx.filter fun p => p.1.2).map fun p => (p.2, p.1.1)
    if opc = 0x62 ∨ opc = 0x64 then argMax live else reduceMax (opc == 0x61) (live.map Prod.snd)
  (List.range 256).map fun i => lr (groups.getD (i / width) 0)

/-- The vector state an iteration works on: temporaries, predicates, accumulators, the outputs written, and the effects
so far. -/
structure VecState where
  temps : SMap (List Nat)
  preds : SMap (List Bool)
  acc : AccRes
  outs : SMap (List (Option Nat))   -- output 0 or 1 to the enabled lanes' values
  fx : List Fx
  nanLanes : List Nat
deriving DecidableEq, Repr

/-- 256 zeros: an unwritten temporary (R88). -/
def zeroLanes : List Nat := List.replicate 256 0

/-- A predicate; P0 is true in every lane (R87). -/
def predLanes (s : VecState) (p : Nat) : List Bool :=
  if p = 0 then List.replicate 256 true else mgetD s.preds p (List.replicate 256 false)

/-- The lanes an operation reads as a value (R91). -/
def operand (s : VecState) (streams : List (List Nat)) (o : ChainOp) (iter sel : Nat) : List Nat :=
  if sel ≤ 15 then mgetD s.temps sel zeroLanes
  else if sel ≤ 19 then streams.getD (sel - 16) zeroLanes
  else if sel = 20 then List.replicate 256 o.imm
  else if sel = 21 then List.range 256
  else List.replicate 256 iter

/-- The old value where a lane is disabled, the new one where it is enabled (R100). -/
def merge {α : Type} (en : List Bool) (new old : List α) : List α :=
  (en.zip (new.zip old)).map fun p => if p.1 then p.2.1 else p.2.2

/-- The accumulator of a lane under DEPC or DEPR (R101). -/
def depositTo (opc i : Nat) : Nat := if opc = 0x70 then i % 64 else 16 * (i / 64) + i % 16

/-- The order in which a deposit takes its lanes (R101): cycle by cycle, ascending. -/
def depositOrder (opc : Nat) : List Nat :=
  if opc = 0x70 then List.range 256
  else (List.range 4).flatMap fun c => (List.range 256).filter fun i => i % 64 / 16 == c

/-- One operation of a chain (R92, R98 to R101). `nan` gives the event of a lane. -/
def runOp (streams : List (List Nat)) (iter die b : Nat) (nan : ChainOp → Nat → NanEv) (s : VecState) (o : ChainOp) :
    VecState :=
  let p := predLanes s o.pred
  let en := if o.pneg then p.map (! ·) else p
  let A := operand s streams o iter o.a
  let B := operand s streams o iter o.b
  let C := operand s streams o iter o.c
  if isDeposit o.opc then
    let live := (depositOrder o.opc).filter fun i => en.getD i false
    let r := depositAll { accs := s.acc.accs } (live.map fun i => (depositTo o.opc i, A.getD i 0))
    { s with acc := r, fx := s.fx ++ accFx die b r }
  else if 0x40 ≤ o.opc ∧ o.opc ≤ 0x48 then
    let pa := predLanes s (o.a - 24)
    let pb := predLanes s (o.b - 24)
    let v : List Bool :=
      if o.opc = 0x46 then (pa.zip pb).map fun q => q.1 && q.2
      else if o.opc = 0x47 then (pa.zip pb).map fun q => q.1 || q.2
      else if o.opc = 0x48 then pa.map (! ·)
      else (A.zip B).map fun q => cmpOp o.opc q.1 q.2
    let k := o.dst - 24
    { s with preds := mset s.preds k (merge en v (predLanes s k)) }
  else
    let res : List LaneRes :=
      if o.opc = 0x50 then (predLanes s (o.c - 24)).zip (A.zip B) |>.map fun q => lr (if q.1 then q.2.1 else q.2.2)
      else if 0x60 ≤ o.opc ∧ o.opc ≤ 0x64 then crossOp o.opc A en
      else (A.zip (B.zip C)).map fun q => laneOp o.opc q.1 q.2.1 q.2.2
    let live := (res.zip en).zipIdx.filter fun q => q.1.2
    let gens := (live.filter fun q => q.1.1.gen).map Prod.snd
    let ovf := (live.filter fun q => q.1.1.ovf).length
    let unf := (live.filter fun q => q.1.1.unf).length
    let fx := s.fx ++ (gens.map fun i => Fx.nan die (nan o i)) ++ (if ovf + unf = 0 then [] else [Fx.cvt die ovf unf])
    let vals := res.map LaneRes.val
    let s := { s with fx, nanLanes := s.nanLanes ++ gens }
    if o.dst ≤ 15 then { s with temps := mset s.temps o.dst (merge en vals (mgetD s.temps o.dst zeroLanes)) }
    else { s with outs := mset s.outs (o.dst - 16) ((vals.zip en).map fun q => if q.2 then some q.1 else none) }

/-! ## Streams (R93 to R97) -/

/-- The position a stream uses in an iteration (R94), or none where it is negative: of a lookup, the element that index 0
names (R97), and of an EAF stream the accumulator, modulo 64. The sum is taken whole: the spec gives it no width at which
it would wrap (DESIGN CHOICE, log entry 29). -/
def streamPos (c : ChainRun) (st : Stream) : Option Nat :=
  let base := Int.ofNat (st.offset + areg c.bases st.base)
  let p := base + Int.ofNat c.next * st.stride
  match st.kind with
  | .lookup => some base.toNat
  | .eaf => some (p % 64).toNat
  | _ => if p < 0 then none else some p.toNat

/-- What reading a stream gives. -/
inductive StreamRead where
  | ok (lanes : List Nat) (fx : List Fx)
  | wait (w : Wait)
  | bad (c : FaultCode) (kind : EntryKind) (entry : Nat)
deriving DecidableEq, Repr

/-- An element as it enters a lane (R93). -/
def laneIn (f : Fmt) (x : Nat) : CvtRes :=
  match f with
  | .fp32 => cvtPlain x
  | f => toF32 f 0 x

/-- The element of a lane (R93). -/
def laneElement (l : LaneMode) (i : Nat) : Nat :=
  match l with
  | .contig => i
  | .repeat64 => i % 64
  | .quarter => i / 64
  | .scalar => 0

/-- The lanes of elements already converted. -/
def spread (l : LaneMode) (es : List Nat) : List Nat := (List.range 256).map fun i => es.getD (laneElement l i) 0

/-- What conversions of elements count (R38). -/
def cvtFx (die : Nat) (cs : List CvtRes) : List Fx :=
  let o := (cs.filter CvtRes.ovf).length
  let n := (cs.filter CvtRes.unf).length
  if o + n = 0 then [] else [Fx.cvt die o n]

/-- The narrow rows a lookup touches, or the fault of the first lane that finds one (R97). -/
def lookupRows (d : Dev) (die b : Nat) (u : UnitCtx) (st : Stream) (pos : Nat) : List Nat → List Nat ⊕ (FaultCode × Nat)
  | [] => .inl []
  | i :: is =>
    let addr := (pos + i) * st.fmt.bytes
    match locateReady d die b u true addr with
    | .bad c => .inr (c, addr)
    | .row r =>
      match lookupRows d die b u st pos is with
      | .inl rs => .inl (r :: rs)
      | .inr e => .inr e

/-- Cycles a lookup takes: the largest number of distinct rows that one narrow bank serves (R97). -/
def lookupCycles (rows : List Nat) : Nat :=
  let distinct := rows.eraseDups
  (List.range 8).foldl (fun m k => max m (distinct.filter fun r => r / 4096 == k).length) 1

/-- Reads an input stream for the current iteration (R93 to R97). Where one row of a lookup is overtaken and another is clear
or earlier, the lookup raises OVERTAKEN and does not wait: the spec orders the two by nothing (DESIGN CHOICE, log entry
29). Each lookup of an iteration adds the cycles it takes beyond its own first to VEC_STALL_B.LOOKUP_CYC (DESIGN CHOICE, log
entry 109). -/
def readStream (d : Dev) (die b : Nat) (u : UnitCtx) (c : ChainRun) (st : Stream) : StreamRead :=
  let x := blk d die b
  let gen := (st.gen + c.genOffset) % 8
  match streamPos c st with
  | none => .bad .segment .none 0
  | some pos =>
    match st.kind with
    | .basin =>
      if 1024 ≤ pos ∨ u.hdr.entries ≤ pos then .bad .segment .basin pos
      else
        let e := u.base.entry + pos
        if passPending x c.seq e then .wait { cause := .basin, on := .basin e }
        else .ok ([0, 1, 2, 3].flatMap fun a => basinVals d die b (a * 1024 + e)) []
    | .eaf =>
      let r := roundAccs x die b c.bundle 0 c.chain.tag pos st.lane.elements
      .ok (spread st.lane r.1) r.2
    | .lookup =>
      let idx := mgetD x.temps st.index zeroLanes
      match lookupRows d die b u st pos idx with
      | .inr (f, addr) =>
        .bad f (if addr < narrowBase then .wide else .narrow)
          (if addr < narrowBase then addr / 1024 else (addr - narrowBase) / 64)
      | .inl rows =>
        let checks := rows.eraseDups.map fun r => (r, markCheck x true r gen)
        match checks.find? fun p => p.2 == .overtaken with
        | some p => .bad .overtaken .narrow (p.1 - u.base.narrow)
        | none =>
          match checks.find? fun p => p.2 == .wait with
          | some p => .wait (markWait true p.1 gen)
          | none =>
            let es := (rows.zip idx).map fun p =>
              let addr := (pos + p.2) * st.fmt.bytes
              laneIn st.fmt (ofLeBytes (wellRead d die b (rowAddr true p.1 + addr % 64) st.fmt.bytes))
            .ok (es.map CvtRes.val) (cvtFx die es
              ++ [Fx.cnt (ctl R.VEC_STALL_B die b) F.VEC_STALL_B_LOOKUP_CYC (lookupCycles rows - 1)])
    | _ =>
      let n := st.lane.elements * st.fmt.bytes
      let addr := pos * n
      match locateReady d die b u false addr with
      | .bad f => .bad f (if addr < narrowBase then .wide else .narrow)
          (if addr < narrowBase then addr / 1024 else (addr - narrowBase) / 64)
      | .row r =>
        match markCheck x false r gen with
        | .overtaken => .bad .overtaken .wide (addr / 1024)
        | .wait => .wait (markWait false r gen)
        | .ok =>
          let es := (groupLe st.fmt.bytes st.lane.elements (wellRead d die b (rowAddr false r + addr % 1024) n)).map
            (laneIn st.fmt)
          .ok (spread st.lane (es.map CvtRes.val)) (cvtFx die es)

/-- Reads the input streams in order; every one must be readable before the iteration issues. -/
def readStreams (d : Dev) (die b : Nat) (u : UnitCtx) (c : ChainRun) :
    List (Option Stream) → List (List Nat) → List Fx → StreamRead ⊕ (List (List Nat) × List Fx)
  | [], acc, fx => .inr (acc, fx)
  | none :: ss, acc, fx => readStreams d die b u c ss (acc ++ [zeroLanes]) fx
  | some st :: ss, acc, fx =>
    match readStream d die b u c st with
    | .ok lanes f => readStreams d die b u c ss (acc ++ [lanes]) (fx ++ f)
    | r => .inl r

/-- The batch row of a lane (R105). -/
def laneRow (c : ChainRun) (i : Nat) : Nat := c.rowBase + (i / 64) * c.chain.qstep + c.next * c.chain.tstep

/-- The lanes that an output's elements come from (R93). -/
def outLanes (l : LaneMode) : List Nat :=
  match l with
  | .quarter => [0, 64, 128, 192]
  | .scalar => [0]
  | _ => List.range 256

/-- An element as it leaves a lane (R93). -/
def laneOut (f : Fmt) (x : Nat) : CvtRes := ofF32 f x

/-- What forming an output store gives. -/
inductive StoreRes where
  | ok (s : VecStore) (fx : List Fx) (maskedLanes : Nat)
  | bad (c : FaultCode) (kind : EntryKind) (entry : Nat)
deriving DecidableEq, Repr

/-- The store of an output stream (R93, R96, R100, R105): bytes of lanes that are enabled and whose row's mask bit is 1. -/
def formStore (d : Dev) (die b : Nat) (u : UnitCtx) (c : ChainRun) (st : Stream) (vals : List (Option Nat)) : StoreRes :=
  let gen := (st.gen + c.genOffset) % 8
  let narrow := st.kind == .narrow
  let last := decide (c.next + 1 = c.iters)
  match streamPos c st with
  | none => .bad .segment .none 0
  | some pos =>
    let n := st.lane.elements * st.fmt.bytes
    let addr := pos * n
    match locateReady d die b u narrow addr with
    | .bad f => .bad f (if addr < narrowBase then .wide else .narrow)
        (if addr < narrowBase then addr / 1024 else (addr - narrowBase) / 64)
    | .row r =>
      let rowLen := rowBytes narrow
      let lanes := outLanes st.lane
      let es := lanes.map fun i =>
        match vals.getD i none with
        | none => (none, false)
        | some v => if bit c.mask (laneRow c i) then (some (laneOut st.fmt v), false) else (none, true)
      let bytes := es.flatMap fun e =>
        match e.1 with
        | none => List.replicate st.fmt.bytes none
        | some v => (leBytes st.fmt.bytes v.val).map some
      let ends := decide ((addr + n) % rowLen = 0)
      .ok { addr := rowAddr narrow r + addr % rowLen, bytes,
            mark := if st.fill && (ends || last) then some (narrow, r, gen) else none,
            lastOfChain := last, bundle := c.bundle, tag := c.chain.tag, row := c.rowBase }
        (cvtFx die (es.filterMap Prod.fst)) (es.filter Prod.snd).length

/-- The stores of the outputs that the operations wrote, or that are defined with FILL alone. -/
def formStores (d : Dev) (die b : Nat) (u : UnitCtx) (c : ChainRun) (outs : SMap (List (Option Nat))) :
    List (Nat × Option Stream) → List VecStore → List Fx → (List VecStore × List Fx) ⊕ (FaultCode × EntryKind × Nat)
  | [], acc, fx => .inl (acc, fx)
  | (_, none) :: ss, acc, fx => formStores d die b u c outs ss acc fx
  | (k, some st) :: ss, acc, fx =>
    match mget outs k with
    | none => formStores d die b u c outs ss acc fx
    | some vals =>
      match formStore d die b u c st vals with
      | .bad f kd e => .inr (f, kd, e)
      | .ok s f n =>
        formStores d die b u c outs ss (acc ++ [s])
          (fx ++ f ++ (if n = 0 then [] else [Fx.cnt (ctl R.VEC_MASKED_CNT die b) F.VEC_MASKED_CNT_COUNT n]))

/-- The entry or row a NaN event of an operation names (R105): that of its first stream operand, or of S0; of a lookup, the
row that the lane's element came from. Where that is an EAF stream, or no stream is named and S0 is undefined, the spec
gives no entry or row, and the record names wide row 0; a basin entry is named with the segment base added, a well row as
the unit address it has in the chain (DESIGN CHOICE, log entry 97). -/
def nanPlace (x : Block) (u : UnitCtx) (c : ChainRun) (o : ChainOp) (lane : Nat) : Bool × Bool × Nat :=
  let named := [o.a, o.b, o.c].find? fun s => 16 ≤ s && s ≤ 19
  match (c.chain.streams.getD ((named.getD 16) - 16) none).bind fun st => (streamPos c st).map fun p => (st, p) with
  | none => (false, false, 0)
  | some (st, p) =>
    match st.kind with
    | .basin => (true, false, (lane / 64) * 1024 + u.base.entry + p)
    | .lookup => (false, true, ((p + (mgetD x.temps st.index zeroLanes).getD lane 0) * st.fmt.bytes - narrowBase) / 64)
    | .eaf => (false, false, 0)
    | _ => (false, false, p * st.lane.elements * st.fmt.bytes / 1024)

/-- The event of a lane's generated NaN (R99, R105). -/
def laneNan (x : Block) (b : Nat) (u : UnitCtx) (c : ChainRun) (o : ChainOp) (lane : Nat) : NanEv :=
  let pl := nanPlace x u c o lane
  { admitted := false, unit := 0x5, block := b, cycle := x.seq.cycle, row := laneRow c lane, bundle := c.bundle,
    basin := pl.1, narrow := pl.2.1, entry := pl.2.2, tag := c.chain.tag }

/-- The fault of a chain's iteration. -/
def chainFault (x : Block) (b : Nat) (c : ChainRun) (code : FaultCode) (unit : Nat) (kind : EntryKind) (entry : Nat) :
    FaultEv :=
  { code, unit, block := b, bundle := c.bundle, cycle := x.seq.cycle, kind, entry, row := some c.rowBase,
    tag := c.chain.tag }

/-- The running chain faulted: it issues no further iteration (R193). -/
def haltChain (d : Dev) (die b : Nat) (c : ChainRun) (rest : List ChainRun) (f : FaultEv) : Dev :=
  let x := blk d die b
  fault (setBlk d die b { x with chains := { c with halted := true, wait := none } :: rest }) die f

/-- The rows and basin entries that an iteration reads (R94 to R97). -/
def iterationReads (d : Dev) (die b : Nat) (u : UnitCtx) (c : ChainRun) : List BadRead :=
  (c.chain.streams.take 4).flatMap fun s =>
    match s.bind fun st => (streamPos c st).map fun pos => (st, pos) with
    | none => []
    | some (st, pos) =>
      match st.kind with
      | .basin => [0, 1, 2, 3].map fun a => .basin (a * 1024 + u.base.entry + pos)
      | .eaf => []
      | .lookup =>
        match lookupRows d die b u st pos (mgetD (blk d die b).temps st.index zeroLanes) with
        | .inl rows => rows.eraseDups.map .narrow
        | .inr _ => []
      | _ =>
        match locate u false (pos * (st.lane.elements * st.fmt.bytes)) with
        | .row r => [.wide r]
        | .bad _ => []

/-- The running chain waits. -/
def waitChain (d : Dev) (die b : Nat) (c : ChainRun) (rest : List ChainRun) (w : Wait) : Dev :=
  let x := blk d die b
  raiseHold (setBlk d die b { x with chains := { c with wait := some w } :: rest }) die b w.cause

/-- One iteration of the running chain (R92, R103): its input streams are read once, its operations run in order, its
stores are formed and its deposits made. A chain that has run its iterations, or that faulted, gives place to the next.
`bad` are the rows and entries read in error. -/
def chainIteration (d : Dev) (die b : Nat) (bad : List BadRead) : Dev :=
  let x := blk d die b
  match x.chains with
  | [] => d
  | c :: rest =>
    if c.halted then setBlk d die b { x with chains := rest }
    else
      let u := unitCtx d die b c.slot
      if chainUsesEaf c.chain && x.eafQueue.any fun o => o.seq < c.seq then
        waitChain d die b c rest { cause := .queue, on := .other }
      else if 4095 < laneRow c 255 then
        haltChain d die b c rest (chainFault x b c .segment 0x9 .none 0)
      else
        match readStreams d die b u c (c.chain.streams.take 4) [] [] with
        | .inl (.wait w) => waitChain d die b c rest w
        | .inl (.bad f kind e) => haltChain d die b c rest (chainFault x b c f 0x5 kind e)
        | .inl (.ok ..) => d
        | .inr (streams, fx) =>
          let s0 : VecState := { temps := x.temps, preds := x.preds, acc := { accs := x.accs }, outs := [], fx,
                                 nanLanes := [] }
          let s := c.chain.ops.foldl (runOp streams c.next die b (laneNan x b u c)) s0
          let outs := (c.chain.streams.drop 4).zipIdx.map fun p => (p.2, p.1)
          match formStores d die b u c s.outs outs [] [] with
          | .inr (f, kind, e) => haltChain d die b c rest (chainFault x b c f 0x5 kind e)
          | .inl (stores, sfx) =>
            let c' := { c with next := c.next + 1, wait := none }
            let finished := c'.next = c.iters
            let y := { x with temps := s.temps, preds := s.preds, accs := s.acc.accs, stores := x.stores ++ stores,
                              chains := if finished then rest else c' :: rest }
            let rows := (s.nanLanes.map fun i => laneRow c i).eraseDups
            let fx := s.fx ++ sfx ++ [Fx.nanRows rows, Fx.cnt (ctl R.VEC_ITER_CNT die b) F.VEC_ITER_CNT_COUNT 1]
              ++ (if finished then [Fx.cnt (ctl R.VEC_CHAIN_CNT die b) F.VEC_CHAIN_CNT_COUNT 1] else [])
            let mine := bad.filter (iterationReads d die b u c).contains
            wellParities (putBlk d die b (y, fx)) die b 5 mine ([0, 64, 128, 192].map fun i => laneRow c i)

/-- The class and row that a store writes. -/
def VecStore.place (s : VecStore) : Bool × Nat :=
  if s.addr < narrowBase then (false, s.addr / 1024) else (true, (s.addr - narrowBase) / 64)

/-- The oldest store of the vector engine lands (R96): its enabled bytes, then its fill mark. In a bank that has been
powered down since, it is refused with BANK_DOWN and has no effect (R124). -/
def vectorStoreLand (d : Dev) (die b : Nat) : Dev :=
  let x := blk d die b
  match x.stores with
  | [] => d
  | s :: ss =>
    if !wellReady d die b s.place.1 s.place.2 then
      fault (setBlk d die b { x with stores := ss }) die
        { code := .bankDown, unit := 0x5, block := b, bundle := s.bundle, cycle := x.seq.cycle,
          kind := if s.place.1 then .narrow else .wide, entry := s.place.2, row := some s.row, tag := s.tag }
    else
      let y := { x with well := memWriteOpt x.well s.addr s.bytes, stores := ss }
      setBlk d die b (match s.mark with
        | some (narrow, row, gen) => setMark y narrow row gen
        | none => y)

/-- A chain issues (R89, R103): it joins the chain queue with its fields and the address registers' values. -/
def chainIssue (d : Dev) (die b : Nat) (u : UnitCtx) (v : VectorSlot) (c : Chain) : Dev :=
  let x := blk d die b
  let regs := x.seq.pos.regs
  let run : ChainRun :=
    { seq := x.issueNo, bundle := bundleAddr u.slot x.seq.pos.pc, slot := u.slot, chain := c, iters := v.iter, next := 0,
      genOffset := v.genOffset, rowBase := areg regs v.rreg + v.rowOff, bases := regs, mask := x.mask, halted := false,
      wait := none }
  setBlk d die b { x with issueNo := x.issueNo + 1, chains := x.chains ++ [run] }

end Sys2Proof.Machine
end

