-- ==== Sys2Proof/Machine/Well.lean ====
section
/-! DEFINITION. Machine/Well: what the memories of a block do besides serving its engines: refresh (R109, R110), bank
power (R124), fill marks written by firmware (R120), the ranged zero-fill (R128), replays and lost arbitrations (R117,
R121), the well aperture (R325) and the scrubber (R282). -/

namespace Sys2Proof.Machine

/-! ## Refresh (R109, R110) -/

/-- A sub-bank is powered. -/
def subOn (d : Dev) (die b s : Nat) : Bool := bit (rd d (ctl R.CIS_PWR_CTRL die b)).toNat s

/-- A forced action starts where the debt exceeds 64 lines and no action runs (R110). A tile load in progress that reads
the sub-bank waits for it. -/
def forceRefresh (d : Dev) (die b s : Nat) : Dev :=
  let x := blk d die b
  if 64 < mgetD x.debt s 0 && (mget x.action s).isNone then
    let claims := if (loadingLines d die b).any fun l => l / 4096 == s then (x.claims ++ [s]).eraseDups else x.claims
    fcnt (setBlk d die b { x with action := mset x.action s (true, actionCycles), claims }) (ctl R.CIS_REFRESH_CNT die b)
      F.CIS_REFRESH_CNT_FORCED 1
  else d

/-- A refresh tick reaches a sub-bank (R109): a powered one owes 16 lines more. -/
def tickSub (die b : Nat) (d : Dev) (s : Nat) : Dev :=
  if subOn d die b s then
    let x := blk d die b
    forceRefresh (setBlk d die b { x with debt := mset x.debt s (mgetD x.debt s 0 + 16) }) die b s
  else d

/-- A refresh tick at one cistern's controller. -/
def refreshTick (d : Dev) (die b : Nat) : Dev := (List.range 32).foldl (tickSub die b) d

/-- The cistern lines that a descriptor has still to read or write (R108). -/
def PumpItem.lines (i : PumpItem) : List Nat :=
  let span (a n : Nat) : List Nat := (List.range ((a % 1024 + n + 1023) / 1024)).map fun k => a / 1024 + k
  let reads := match i.desc.src with
    | .cistern a =>
      if i.started && i.row < i.desc.rows then
        span (Int.ofNat a + i.desc.sstride * Int.ofNat i.row).toNat (i.desc.len * i.desc.sfmt.bytes)
      else []
    | _ => []
  reads ++ i.pieces.flatMap fun p => match p.dst with
    | some (.cistern a) => if p.landed then [] else span a (partBytes p.parts).length
    | _ => []

/-- A line of the sub-bank is claimed: a tile load reads it, or a pump writes or reads it. A repair claims its line only as it
writes it (R113), and the scrubber none of a sub-bank that owes refresh (R110). -/
def subClaimed (d : Dev) (die b s : Nat) : Bool :=
  let x := blk d die b
  (loadingLines d die b).any (fun l => l / 4096 == s)
    || ((x.pumpA.ring ++ x.pumpB.ring).any fun i => i.lines.any fun l => l / 4096 == s)

/-- An opportunistic action starts in a sub-bank with debt that nothing claims (R110). -/
def opportunisticRefresh (d : Dev) (die b s : Nat) : Dev :=
  let x := blk d die b
  if subOn d die b s && 0 < mgetD x.debt s 0 && (mget x.action s).isNone && !subClaimed d die b s then
    setBlk d die b { x with action := mset x.action s (false, actionCycles) }
  else d

/-- A refresh action ends (R109): 16 lines of debt and one group done; a debt still above 64 forces the next. -/
def refreshActionEnd (d : Dev) (die b s : Nat) : Dev :=
  let x := blk d die b
  match mget x.action s with
  | none => d
  | some _ =>
    let d := setBlk d die b
      { x with action := mdel x.action s, debt := mset x.debt s (mgetD x.debt s 0 - 16),
               group := mset x.group s ((mgetD x.group s 0 + 1) % 256), claims := x.claims.filter fun k => k != s }
    forceRefresh d die b s

/-! ## Bank power (R124) -/

/-- Drops the entries of rows `lo` to `lo + n - 1` from the marks of a class. -/
def clearMarks (x : Block) (narrow : Bool) (lo n : Nat) : Block :=
  if narrow then { x with narrowMarks := mdelRange x.narrowMarks lo n }
  else { x with wideMarks := mdelRange x.wideMarks lo n }

/-- The contents of a bank are lost: they are indeterminate, and a well bank's marks are clear. -/
def loseBank (x : Block) : BankId → Block
  | .sub n =>
    { x with cistern := memForget x.cistern (n.val * 4194304) 4194304, debt := mdel x.debt n, group := mdel x.group n,
             action := mdel x.action n, claims := x.claims.filter fun k => k != n }
  | .wide n => clearMarks { x with well := memForget x.well (n.val * 524288) 524288 } false (n.val * 512) 512
  | .narrow n =>
    clearMarks { x with well := memForget x.well (narrowBase + n.val * 262144) 262144 } true (n.val * 4096) 4096

/-- The power register, the READY register and the bit of a bank. -/
def bankRegs (die b : Nat) : BankId → Nat × Nat × Nat
  | .sub n => (ctl R.CIS_PWR_CTRL die b, ctl R.CIS_PWR_RDY die b, n)
  | .wide n => (ctl R.WEL_PWR_CTRL die b, ctl R.WEL_PWR_RDY die b, n)
  | .narrow n => (ctl R.WEL_PWR_CTRL die b, ctl R.WEL_PWR_RDY die b, 12 + n)

/-- What is left of a run, its first number and its count, without the `n` numbers from `lo` on. -/
def cutRun (lo n : Nat) (r : Nat × Nat) : List (Nat × Nat) :=
  let e := r.1 + r.2
  let right := max r.1 (lo + n)
  (if r.1 < min e lo then [(r.1, min e lo - r.1)] else []) ++ if right < e then [(right, e - right)] else []

/-- What is left of runs of private lines when lines of a block are written anew or lost (R292). -/
def cutLines (g lo n : Nat) (l : List TagLines) : List TagLines :=
  l.flatMap fun t =>
    if t.block ≠ g then [t] else (cutRun lo n (t.line, t.count)).map fun r => { t with line := r.1, count := r.2 }

/-- Lines of a block no longer hold what they held. -/
def dropTags (d : Dev) (g lo n : Nat) : Dev := { d with srv := { d.srv with tagLines := cutLines g lo n d.srv.tagLines } }

/-- A bank's ON bit is written 0: it powers down at once and its contents are lost. -/
def bankPowerDown (d : Dev) (die b : Nat) (k : BankId) : Dev :=
  let r := bankRegs die b k
  if !bit (rd d r.1).toNat r.2.2 then d
  else
    let d := fset (fset d r.1 ⟨r.2.2, 1⟩ 0) r.2.1 ⟨r.2.2, 1⟩ 0
    let d := match k with
      | .sub s => dropTags d (gblock die b) (s * 4096) 4096
      | _ => d
    bumpEpoch (setBlk d die b (loseBank (blk d die b) k))

/-- A bank's ON bit is written 1: a wake starts. -/
def bankWake (d : Dev) (die b : Nat) (k : BankId) : Dev := fset d (bankRegs die b k).1 ⟨(bankRegs die b k).2.2, 1⟩ 1

/-- A woken bank is ready: indeterminate contents, clear marks, no debt, group 0. -/
def bankReady (d : Dev) (die b : Nat) (k : BankId) : Dev :=
  let r := bankRegs die b k
  if bit (rd d r.1).toNat r.2.2 && !bit (rd d r.2.1).toNat r.2.2 then
    bumpEpoch (setBlk (fset d r.2.1 ⟨r.2.2, 1⟩ 1) die b (loseBank (blk d die b) k))
  else d

/-- All banks of a register, in the order of their bits. -/
def cisBanks : List BankId := (List.finRange 32).map .sub
/-- As `cisBanks`, for the well. -/
def welBanks : List BankId := (List.finRange 12).map .wide ++ (List.finRange 8).map .narrow

/-- A write of a power register powers banks down and wakes banks by its bits. -/
def writePower (d : Dev) (die b : Nat) (banks : List BankId) (v : Nat) : Dev :=
  banks.foldl (fun d k =>
    let r := bankRegs die b k
    match bit (rd d r.1).toNat r.2.2, bit v r.2.2 with
    | true, false => bankPowerDown d die b k
    | false, true => bankWake d die b k
    | _, _ => d) d

/-! ## Marks written by firmware (R120) -/

/-- A write of WEL_MARK_CTRL: a row past its class's last row is ignored; a row of a bank that is not ready is refused
with TARGET (R330). -/
def markWrite (d : Dev) (p : Path) (die b v : Nat) : Dev :=
  let row := bits v 0 15
  let narrow := bit v 15
  if (if narrow then 32768 else 6144) ≤ row then d
  else if !wellReady d die b narrow row then refuse d p true (ctl R.WEL_MARK_CTRL die b) .target
  else
    setBlk d die b (if bit v 19 then setMark (blk d die b) narrow row (bits v 16 3) else clearMark (blk d die b) narrow row)

/-! ## Ranged zero-fill (R128) -/

/-- GO is written: a ranged zero-fill starts over the range as it stands. -/
def zeroRangeGo (d : Dev) (die b : Nat) : Dev :=
  let c := ctl R.WEL_ZERO_CTRL die b
  if flag d c F.WEL_ZERO_CTRL_BUSY then d
  else
    let rg := ctl R.WEL_ZERO_RANGE die b
    let narrow := flag d c F.WEL_ZERO_CTRL_CLASS
    let first := fget d rg F.WEL_ZERO_RANGE_FIRST
    let last := min (if narrow then 32768 else 6144) (first + fget d rg F.WEL_ZERO_RANGE_COUNT)
    let d := fsets d c [(F.WEL_ZERO_CTRL_GO, 1), (F.WEL_ZERO_CTRL_BUSY, 1)]
    setBlk d die b { blk d die b with zeroLeft := some (narrow, first, last - first) }

/-- Writes rows with zero bytes and clears their marks; rows of banks that are not ready are skipped. -/
def zeroRows (d : Dev) (die b : Nat) (narrow : Bool) (first count : Nat) : Dev :=
  let perBank := if narrow then 4096 else 512
  let banks := if narrow then 8 else 12
  (List.range banks).foldl (fun d k =>
    let lo := max first (k * perBank)
    let hi := min (first + count) ((k + 1) * perBank)
    if hi ≤ lo || !wellReady d die b narrow lo then d
    else
      let x := blk d die b
      let x := clearMarks x narrow lo (hi - lo)
      setBlk d die b { x with well := memZero x.well (rowAddr narrow lo) ((hi - lo) * rowBytes narrow) }) d

/-- A ranged zero-fill ends: its rows are zero, their marks clear, and BUSY and GO clear. The arbitrations that its writes lost
are counted (R117). -/
def zeroRangeDone (d : Dev) (die b : Nat) (env : WellEnv) : Dev :=
  let x := blk d die b
  match x.zeroLeft with
  | none => d
  | some (narrow, first, count) =>
    let d := countLost d die b env
    let d := zeroRows (setBlk d die b { x with zeroLeft := none }) die b narrow first count
    fsets d (ctl R.WEL_ZERO_CTRL die b) [(F.WEL_ZERO_CTRL_GO, 0), (F.WEL_ZERO_CTRL_BUSY, 0)]

/-! ## Replays and lost arbitrations (R117, R121) -/

/-- A read met a write on one row: it is replayed in the next cycle and returns the new data, and counts as an interlock
stall of the unit that reads. A read of the sequencer holds the bundle that issues next (R177). The Town Hall's reads
raise no hold (R183). -/
def readReplay (d : Dev) (die b : Nat) (c : Consumer) : Dev :=
  let d := fcnt d (ctl R.WEL_REPLAY_CNT die b) F.WEL_REPLAY_CNT_COUNT 1
  match c with
  | .hall => d
  | .sequencer =>
    let q := (blk d die b).seq
    let d := if stepLive d && q.phase == .running then setSeq d die b { q with holdCause := some (q.holdCause.getD .replay) } else d
    raiseHold d die b .replay
  | .quartet => raiseHold (fcnt d (ctl actWait.1 die b) actWait.2 1) die b .replay
  | .vector => raiseHold (fcnt d (ctl operandWait.1 die b) operandWait.2 1) die b .replay
  | .pumpA => if pumpReads d die b false then raiseHold d die b .replay else d
  | .pumpB => if pumpReads d die b true then raiseHold d die b .replay else d
  | _ => raiseHold d die b .replay
where
  /-- A pump reads for a descriptor that a bundle issued: a ring descriptor's reads raise no hold (R183). -/
  pumpReads (d : Dev) (die b : Nat) (pb : Bool) : Bool :=
    (pumpQueue d die b pb .direct ++ pumpQueue d die b pb .sluice).any fun i => i.started && !i.readDone

/-! ## The narrow well aperture (R324, R325, R330) -/

/-- A Town Hall store through the aperture: `off` is the offset in the aperture. It is refused WIDTH where it is not
naturally aligned, NOT_DECODED beyond the dies that have wells, CLASS in a wide bank and TARGET in a bank that is not
ready; otherwise the bytes land and the mark stays as it is. A path other than a core has no aperture. -/
def apertureWrite (d : Dev) (p : Path) (off : Nat) (bytes : List Byte) (e : WellEnv) : Dev :=
  let addr := bits (pow2 34 + off) 0 32
  let die := off >>> 28
  let b := bits off 23 5
  let wa := bits off 0 23
  let n := bytes.length
  match p with
  | .core _ _ _ =>
    if !([1, 2, 4, 8].contains n) || wa % n ≠ 0 then refuse d p true addr .width
    else if 48 ≤ die ∨ 24 ≤ b then refuse d p true addr .notDecoded
    else if wa < narrowBase then refuse d p true addr .cls
    else if !wellReady d die b true ((wa - narrowBase) / 64) then refuse d p true addr .target
    else
      let x := blk d die b
      let d := setBlk d die b { x with well := memWrite x.well wa bytes }
      fcnt d (ctl R.WEL_ARB_CNT die b) F.WEL_ARB_CNT_NARROW_LOST e.lostNarrow
  | _ => d

/-! ## The scrubber (R282, R284) -/

/-- A scrub run ends without result: GO and BUSY clear, and ENDED is set (R284). -/
def scrubEnded (d : Dev) (die b : Nat) : Dev :=
  let x := blk d die b
  match x.scrub with
  | none => d
  | some _ =>
    let d := setBlk d die b { x with scrub := none }
    fsets d (ctl R.CIS_SCRUB_CTRL die b)
      [(F.CIS_SCRUB_CTRL_GO, 0), (F.CIS_SCRUB_CTRL_BUSY, 0), (F.CIS_SCRUB_CTRL_ENDED, 1)]

/-- A scrub run reaches a line of a sub-bank that is not ready: the access is refused BANK_DOWN (R124), and the run has no
result. While a step runs the refusal is a fault of it, as a line's failed repair is (DEDUCED, log entry 35). -/
def scrubRefused (d : Dev) (die b line : Nat) : Dev :=
  let d := scrubEnded d die b
  if d.step.running then
    fault d die { code := .bankDown, unit := 0xA, block := b, bundle := 0, cycle := (blk d die b).seq.cycle, aux := line }
  else d

/-- GO of the scrubber is written: a run over CIS_SCRUB_RUN starts. Lines found in error are re-read or repaired. -/
def scrubStart (d : Dev) (die b : Nat) (errs : List LineErr) : Dev :=
  let c := ctl R.CIS_SCRUB_CTRL die b
  if flag d c F.CIS_SCRUB_CTRL_BUSY then d
  else
    let run := ctl R.CIS_SCRUB_RUN die b
    let line := fget d run F.CIS_SCRUB_RUN_LINE
    let count := fget d run F.CIS_SCRUB_RUN_COUNT_M1 + 1
    let r : ScrubRun := { line, left := count, dest := fget d (ctl R.CIS_SCRUB_DEST die b) F.CIS_SCRUB_DEST_ADDR * 64 }
    let d := fsets d c [(F.CIS_SCRUB_CTRL_GO, 1), (F.CIS_SCRUB_CTRL_BUSY, 1)]
    let d := setBlk d die b { blk d die b with scrub := some r }
    match ((List.range count).map (line + ·)).find? fun l => !cisReady d die b l with
    | some l => scrubRefused d die b l
    | none =>
    let f : FaultEv := { code := .cistern, unit := 0xA, block := b, bundle := 0, cycle := 0 }
    (errs.filter fun e => decide (line ≤ e.line ∧ e.line < line + count)).foldl
      (fun d e => (lineError d die b 2 e f).1) d

/-- A scrub run ends: its lines have been delivered to hall SRAM, and GO and BUSY clear. It does not end while a line of
it awaits repair, while a sub-bank of it owes refresh (R110) or is held by a refresh action, or while the tile loader or a
pump claims the line port (R108). -/
def scrubDone (d : Dev) (die b : Nat) : Dev :=
  let x := blk d die b
  match x.scrub with
  | none => d
  | some r =>
    let lines := (List.range r.left).map fun i => r.line + i
    match lines.find? fun l => !cisReady d die b l with
    | some l => scrubRefused d die b l
    | none =>
    if (x.repairs.any fun p => p.reader == 2) || loaderClaims d die b || pumpClaims x
        || lines.any fun l => 0 < mgetD x.debt (l / 4096) 0 || (mget x.action (l / 4096)).isSome then d
    else
      let bytes := memRead d.epoch (unitCis (gblock die b)) x.cistern (r.line * 1024) (1024 * r.left)
      let d := setBlk d die b { x with scrub := none }
      let d := fsets d (ctl R.CIS_SCRUB_CTRL die b) [(F.CIS_SCRUB_CTRL_GO, 0), (F.CIS_SCRUB_CTRL_BUSY, 0)]
      hallWrite d die r.dest bytes

end Sys2Proof.Machine
end

