-- ==== Sys2Proof/Machine/Sequencer.lean ====
section
/-! DEFINITION. Machine/Sequencer: how a bundle issues (R167 to R175): its checks, what holds it, its slip record (R189,
R190), and the units of a block (R166). -/

namespace Sys2Proof.Machine

/-! ## The bundle in issue -/

/-- The slots that a bundle names, in their order of issue (R167). The control slot always names an operation. -/
def Bundle.slots (bu : Bundle) : List SlotId :=
  (if bu.matrix.isSome then [.matrix] else []) ++ (if bu.vector.isSome then [.vector] else [])
    ++ (if bu.pumpA.isSome then [.pumpA] else []) ++ (if bu.pumpB.isSome then [.pumpB] else [])
    ++ [.control] ++ (if bu.address.isSome then [.address] else [])

/-- The descriptor of a pump slot, with the address registers of the sequencer. -/
def slotDesc (d : Dev) (die b : Nat) (u : UnitCtx) (s : PumpSlot) : DescRes :=
  descAt d die b u (blk d die b).seq.pos.regs s.desc

/-- The TAG of the bundle's first operation that carries one; 0 if none (R190). -/
def bundleTag (d : Dev) (die b : Nat) (u : UnitCtx) (bu : Bundle) : Nat :=
  let ofPump (s : PumpSlot) : Option Nat := match slotDesc d die b u s with
    | .ok y => some y.tag
    | _ => none
  let tags : List (Option Nat) :=
    [bu.matrix.map MatrixSlot.tag, bu.vector.bind fun v => (chainAt d die b u v.chain).map Chain.tag,
     bu.pumpA.bind ofPump, bu.pumpB.bind ofPump]
  (tags.findSome? id).getD 0

/-- A fault that the sequencer finds at issue (R175). -/
def seqFault (d : Dev) (die b : Nat) (code : FaultCode) (tag : Nat := 0) (kind : EntryKind := .none) (entry : Nat := 0)
    (row : Option Nat := none) (aux : Nat := 0) : FaultEv :=
  let q := (blk d die b).seq
  { code, unit := 0x9, block := b, bundle := bundleAddr q.slot q.pos.pc, cycle := q.cycle, kind, entry, row, tag, aux }

/-! ### Checks at issue (R175) -/

/-- Decode errors and format mismatch of the matrix slot (R69, R73, R36). -/
def matrixDecode (d : Dev) (die b : Nat) (u : UnitCtx) (m : MatrixSlot) : Option FaultEv :=
  let regs := (blk d die b).seq.pos.regs
  let bad (c : FaultCode) : Option FaultEv := some (seqFault d die b c m.tag)
  match tileAt d die b u (areg regs m.treg + m.tile) with
  | none => bad .decode
  | some t =>
    if tileDepth t.tfmt < m.klen ∨ 1024 < m.entry + m.vcount then bad .decode
    else if !pairingOk d.step.hdr.strict t then
      some { seqFault d die b .formatMismatch m.tag with unit := 0x4, row := some (areg regs m.rreg + m.rowOff) }
    else none

/-- The TAG of a pump slot's descriptor as its words stand, well-formed or not (R131); 0 where the table has no such
descriptor. -/
def slotTag (d : Dev) (die b : Nat) (u : UnitCtx) (s : PumpSlot) : Nat :=
  if s.desc < u.hdr.descs then descTag (imageNat d die b u.base (u.hdr.descOff + 64 * s.desc) 64) else 0

/-- Decode errors of a pump slot, and an address that its field does not hold (R132). -/
def pumpDecode (d : Dev) (die b : Nat) (u : UnitCtx) (s : PumpSlot) : Option FaultEv :=
  match slotDesc d die b u s with
  | .ok _ => none
  | .decode => some (seqFault d die b .decode (slotTag d die b u s) .none 0 none s.desc)
  | .segment => some (seqFault d die b .segment (slotTag d die b u s) .none 0 none s.desc)

/-- The decode errors of a bundle that parses (R175). -/
def decodeFault (d : Dev) (die b : Nat) (u : UnitCtx) (bu : Bundle) : Option FaultEv :=
  let q := (blk d die b).seq
  [bu.matrix.bind (matrixDecode d die b u),
   bu.vector.bind fun v =>
     if (chainAt d die b u v.chain).isNone then some (seqFault d die b .decode (chainTag d die b u v.chain)) else none,
   bu.pumpA.bind (pumpDecode d die b u), bu.pumpB.bind (pumpDecode d die b u),
   match bu.control with
   | .loop _ len => if loopBad u q.pos len then some (seqFault d die b .decode) else none
   | _ => none].findSome? id

/-- Segment, class and bank checks of a pass (R69, R163): its entries, its batch rows (R302), the row table entries it
needs (R82, R83), and its activation slots. -/
def matrixPlace (d : Dev) (die b : Nat) (u : UnitCtx) (m : MatrixSlot) : Option FaultEv :=
  let regs := (blk d die b).seq.pos.regs
  let rowBase := areg regs m.rreg + m.rowOff
  match tileAt d die b u (areg regs m.treg + m.tile) with
  | none => none
  | some t =>
    if u.hdr.entries < m.entry + m.vcount ∨ 1024 < u.base.entry + m.entry + m.vcount then
      some (seqFault d die b .segment m.tag .basin m.entry (some rowBase))
    else if 4096 < rowBase + 4 * m.vcount then some (seqFault d die b .segment m.tag .none 0 (some rowBase))
    else
      -- the entries of the row table that the pass reads (R82)
      let table := (if t.tenant = 0 then [] else List.range (4 * m.vcount)).map (rowBase + ·) ++ if t.epochAlt then [rowBase] else []
      match table.findSome? fun r => (rowLoc d die b u r).fault with
      | some c => some (seqFault d die b c m.tag .none 0 (some rowBase))
      | none =>
      (List.range (4 * m.vcount)).findSome? fun q =>
        let addr := (areg regs m.areg + m.actOff + q * m.actStride) * vectorSlotBytes t.afmt
        match locate u false addr with
        | .row _ => none
        | .bad c =>
          some (seqFault d die b c m.tag (if addr < narrowBase then .wide else .narrow)
            (if addr < narrowBase then addr / 1024 else (addr - narrowBase) / 64) (some (rowBase + q)))

/-- Own-well addresses of a descriptor's first transfer row and of its index list (R139, R175). -/
def pumpPlace (d : Dev) (die b : Nat) (u : UnitCtx) (s : PumpSlot) : Option FaultEv :=
  match slotDesc d die b u s with
  | .ok y =>
    let i : PumpItem := { desc := y, serial := 0, index := s.desc, ring := false, bundle := 0, slot := u.slot,
                          genOffset := 0 }
    let own (e : Endpoint) : List Nat := match e with
      | .ownWell a => [a]
      | _ => []
    let addrs := (if y.op = .gather then [] else own y.src) ++ (if y.op = .scatter then [] else own y.dst)
      ++ (if y.op = .gather ∨ y.op = .scatter then [y.idxAddr] else [])
    addrs.findSome? fun a =>
      match locPump d die b i (.ownWell a) a with
      | .well .. => none
      | .bad c kind row => some (seqFault d die b c y.tag kind row none s.desc)
  | _ => none

/-- Checks of the first row or entry of an EAF operation (R173), and of the mask rows at a layer mark (R303). -/
def controlPlace (d : Dev) (die b : Nat) (u : UnitCtx) (c : Cop) : Option FaultEv :=
  let row := copRow (blk d die b).seq.pos.regs c
  match c with
  | .edepb e _ _ =>
    if u.hdr.entries ≤ e % 1024 ∨ 1024 ≤ e % 1024 + u.base.entry then some (seqFault d die b .segment 0 .basin e) else none
  | .edepw .. | .edeps .. | .edept .. | .ernd .. | .ests .. | .estt .. =>
    match runRow d die b u row none with
    | .bad f => some (seqFault d die b f 0 .wide row)
    | _ => none
  | .gwait g => if g = 255 then (maskFault d die b u).map fun c => seqFault d die b c else none
  | _ => none

/-- The first check that a bundle fails at issue. -/
def issueFault (d : Dev) (die b : Nat) (u : UnitCtx) (bu : Bundle) : Option FaultEv :=
  (decodeFault d die b u bu).or
    ([bu.matrix.bind (matrixPlace d die b u), bu.pumpA.bind (pumpPlace d die b u), bu.pumpB.bind (pumpPlace d die b u),
      controlPlace d die b u bu.control].findSome? id)

/-! ### What holds a bundle (R168, R177) -/

/-- What holds a pass: its tile, and the spacing from the pass before (R76, R68). The spacing is in block cycles, which
pass while a hold stops the step cycle. -/
def matrixWait (d : Dev) (die b : Nat) (u : UnitCtx) (m : MatrixSlot) : Option Wait :=
  let x := blk d die b
  let q := x.seq
  let spaced := match q.lastPass with
    | some (c, v) => decide (c + v ≤ (dieSt d die).elapsed)
    | none => true
  if !spaced || x.passes.any fun p => p.entered < p.vcount && !p.stopped then some { cause := .spacing, on := .other }
  else
    let tile := areg q.pos.regs m.treg + m.tile
    if x.load.any fun l => l.ready && l.tile == tile && l.bundle == bundleAddr u.slot q.pos.pc then none
    else
      -- the lines that the pass's tile is to be read from, or is being read from
      let lines := match x.load, tileAt d die b u tile with
        | none, some t =>
          let alt := t.epochAlt && ((rowEntry d die b u (areg q.pos.regs m.rreg + m.rowOff)).map entryEpoch).getD false
          (cisternLines t alt).map fun i => i + u.base.cis
        | _, _ => loadingLines d die b
      let forced := !(forcedSubs x lines).isEmpty
      -- a load that a fill mark holds up holds the pass with it (R79)
      some ((x.load.bind TileLoad.wait).getD { cause := if forced then .refresh else .tile, on := .other })

/-- What holds a descriptor: its queue is full (R130). -/
def pumpWait (d : Dev) (die b : Nat) (u : UnitCtx) (pb : Bool) (s : PumpSlot) : Option Wait :=
  match slotDesc d die b u s with
  | .ok y =>
    let q := queueOf y
    if queueDepth q ≤ (pumpQueue d die b pb q).length then some { cause := .queue, on := .pumpQueue pb } else none
  | _ => none

/-- The units that a FENCE names have completed everything issued earlier (R172). -/
def fenceMet (x : Block) (mask : Nat) : Bool :=
  (!bit mask 0 || x.passes.isEmpty) && (!bit mask 1 || (x.chains.isEmpty && x.stores.isEmpty))
    && (!bit mask 2 || (x.pumpA.direct.isEmpty && x.pumpA.sluice.isEmpty))
    && (!bit mask 3 || (x.pumpB.direct.isEmpty && x.pumpB.sluice.isEmpty)) && (!bit mask 4 || x.eafQueue.isEmpty)

/-- What holds a control operation. -/
def controlWait (d : Dev) (die b : Nat) (c : Cop) : Option Wait :=
  let x := blk d die b
  match c with
  | .gwait g => if x.seq.gateOpen || gateMet d die g then none else some { cause := .gate, on := .gate die g }
  | .fence m => if fenceMet x m then none else some { cause := .fence, on := .other }
  | c => if copIsEaf c && 4 ≤ x.eafQueue.length then some { cause := .queue, on := .other } else none

/-- What holds a bundle whose intended cycle has come: the first in the order of R168. -/
def issueWait (d : Dev) (die b : Nat) (u : UnitCtx) (bu : Bundle) : Option Wait :=
  [bu.matrix.bind (matrixWait d die b u),
   bu.vector.bind fun _ => if 2 ≤ (blk d die b).chains.length then some { cause := .queue, on := .chainQueue } else none,
   bu.pumpA.bind (pumpWait d die b u false), bu.pumpB.bind (pumpWait d die b u true),
   controlWait d die b bu.control].findSome? id

/-- What stands in the way of the next bundle. -/
inductive IssueState where
  | early
  | bad (bu : Option Bundle) (e : FaultEv)
  | held (bu : Bundle) (w : Wait)
  | ready (bu : Bundle)

/-- The earliest step cycle at which a bundle of the DELTA given may issue (R168, R169): at most one bundle issues per
cycle, and none before its intended cycle. -/
def intendedAt (q : Sequencer) (delta : Nat) : Nat := q.lastIssue + if q.fresh then delta else max 1 delta

/-- As `intendedAt`, of the next bundle. -/
def intended (q : Sequencer) (bu : Bundle) : Nat := intendedAt q bu.delta

/-- The state of the next bundle of a running unit, whatever hold is raised. -/
def issueState (d : Dev) (die b : Nat) : IssueState :=
  let q := (blk d die b).seq
  let u := unitCtx d die b q.slot
  if q.phase != .running || !q.issuing.isEmpty then .early
  else
    match bundleAt d die b u q.pos.pc with
    | none =>
      -- a bundle in error is decoded when it reaches issue, at its intended cycle (R175)
      let due := intendedAt q (bundleDelta d die b u q.pos.pc)
      if q.cycle < due then .early else .bad none { seqFault d die b .decode with cycle := due }
    | some bu =>
      if q.cycle < intended q bu then .early
      else
        match issueFault d die b u bu with
        | some e => .bad (some bu) { e with cycle := intended q bu }
        | none =>
          match issueWait d die b u bu with
          | some w => .held bu w
          | none => .ready bu

/-! ### Slip records (R189, R190) -/

/-- The SLIP setting in force: strict acts as record where a lockstep program runs in sluice mode (R182). -/
def slipSetting (d : Dev) : Nat :=
  if d.step.hdr.slip = 2 && d.step.hdr.lockstep && !d.step.lockstep then 1 else d.step.hdr.slip

/-- A slip record with such a cause raises SLIP under strict. -/
def strictCause (c : Cause) : Bool := c != .retry && c != .droop

/-- Adds a record to the slip log; a full log drops it. The first record of a strict step whose cause is neither RETRY
nor DROOP raises SLIP. -/
def addSlip (d : Dev) (die : Nat) (r : SlipRec) : Dev :=
  let x := dieSt d die
  let first := !(x.slips.any fun s => strictCause s.cause)
  let d :=
    if 256 ≤ x.slips.length then fset d (ctl R.DIE_SLIP_STATUS die 0) F.DIE_SLIP_STATUS_OVERRUN 1
    else setDie d die { x with slips := x.slips ++ [{ r with step := d.step.number }] }
  if slipSetting d = 2 && strictCause r.cause && first then
    fault d die { code := .slip, unit := 0x9, block := r.block, bundle := r.bundle, cycle := r.cycle, tag := r.tag }
  else d

/-- The slip records of a bundle that issues now (R189): in lockstep mode one for each hold that its block raised, in
sluice mode one where an interlock held it past its intended cycle. A bundle with DELTA 0 has none. -/
def recordSlip (d : Dev) (die b : Nat) (u : UnitCtx) (bu : Bundle) : Dev :=
  let q := (blk d die b).seq
  let due := q.lastIssue + bu.delta
  let rec_ (slip held : Nat) (cause : Cause) : SlipRec :=
    { cycle := due, bundle := bundleAddr u.slot q.pos.pc, block := b, slip := min slip 65535, held := min held 65535, cause,
      tag := bundleTag d die b u bu }
  if slipSetting d = 0 || bu.delta = 0 then d
  else if d.step.lockstep then q.holds.foldl (fun d h => addSlip d die (rec_ 0 h.2 h.1)) d
  else
    match q.holdCause with
    | some c => if q.cycle ≤ due then d else addSlip d die (rec_ (q.cycle - due) 0 c)
    | none => d

/-- The step cycle at which a bundle issues: its intended one, unless an interlock held it in sluice mode (R65, R169). -/
def issueCycle (d : Dev) (q : Sequencer) (bu : Bundle) : Nat :=
  if d.step.lockstep || q.holdCause.isNone then intended q bu else q.cycle

/-! ### Issue -/

/-- The bundle is held: the sequencer notes why, joins the waiters of the gate it waits on where the list has room
(R178), and in lockstep mode raises the hold. -/
def holdBundle (d : Dev) (die b : Nat) (bu : Bundle) (w : Wait) : Dev :=
  let q := (blk d die b).seq
  let d := setSeq d die b { q with held := some w, holdCause := some (q.holdCause.getD w.cause) }
  let d := match w.on with
    | .gate _ g =>
      let l := waiters d die g
      if l.contains (.block b) || 64 ≤ l.length then d else setWaiters d die g (l ++ [.block b])
    | _ => d
  raiseHold d die b w.cause (some (intended q bu))

/-- The bundle issues (R168): the slip record, SEQ_BUNDLE and the issue cycle; its slots are to be performed in order. -/
def beginIssue (d : Dev) (die b : Nat) (u : UnitCtx) (bu : Bundle) (env : WellEnv) : Dev :=
  let d := wellParitiesAll d die b 6 (if env.program then [.program] else [])
  let d := recordSlip d die b u bu
  let q := (blk d die b).seq
  let d := wr d (ctl R.SEQ_BUNDLE die b) (BitVec.ofNat 32 (bundleAddr u.slot q.pos.pc))
  setSeq d die b { q with held := none, gateOpen := false, holdCause := none, holds := [], lastIssue := issueCycle d q bu,
                          fresh := false, issuing := bu.slots }

/-- A slot has been performed. After the last, control goes on (R174), the address slot having acted (R170). -/
def slotDone (d : Dev) (die b : Nat) (bu : Bundle) (rest : List SlotId) : Dev :=
  let q := (blk d die b).seq
  if rest.isEmpty then
    match advance q.pos bu with
    | none => setSeq d die b { q with issuing := [], phase := .ended }
    | some p => setSeq d die b { q with issuing := [], pos := p }
  else setSeq d die b { q with issuing := rest }

/-- A command of a slot: the bundle issues where it may, at its first slot, and the slots are performed in order. A
command that is not the next slot's does not come about. Where the sequencer's own narrow reads lose their port, the bundle
is held by the bank (R117, R177), and a later command issues it; what the units that it sets to work lose at wide ports is
their stall. -/
def issueSlot (d : Dev) (die b : Nat) (env : WellEnv) (slot : SlotId) (fits : Bundle → Bool)
    (perform : UnitCtx → Bundle → Dev → Dev) : Dev :=
  let q := (blk d die b).seq
  let u := unitCtx d die b q.slot
  match q.issuing with
  | s :: rest =>
    match bundleAt d die b u q.pos.pc with
    | none => d
    | some bu => if s = slot && fits bu then slotDone (perform u bu (arbLost d die b env)) die b bu rest else d
  | [] =>
    if !stepLive d || q.frozen then d
    else
      let mine (bu : Bundle) : Bool := bu.slots.head? == some slot && fits bu
      match issueState d die b with
      | .early => d
      | .bad none e => fault d die e
      | .bad (some bu) e => if mine bu then fault d die e else d
      | .held bu w => if mine bu then holdBundle d die b bu w else d
      | .ready bu =>
        if !mine bu then d
        else if env.lostNarrow != 0 then
          holdBundle (countLost d die b { env with lostWide := 0 }) die b bu { cause := .bank, on := .other }
        else slotDone (perform u bu (arbLost (beginIssue d die b u bu env) die b env)) die b bu bu.slots.tail

/-! ## The slots -/

/-- A pass issues. Rows of the row table found in error affect the batch rows whose entries they hold (R122). -/
def seqPass (d : Dev) (die b : Nat) (env : WellEnv) : Dev :=
  issueSlot d die b env .matrix (fun bu => bu.matrix.isSome) fun u bu d =>
    match bu.matrix with
    | none => d
    | some m =>
      let rowBase := areg (blk d die b).seq.pos.regs m.rreg + m.rowOff
      let tableRow (row : Nat) : Nat := u.base.narrow + u.hdr.rowtab + 1024 * (d.step.number % 2) + row / 4
      let rows := match (blk d die b).load with
        | some l =>
          if l.desc.tenant ≠ 0 then (List.range (4 * m.vcount)).map fun q => rowBase + q
          else if l.desc.epochAlt then [rowBase]
          else []
        | none => []
      let d := env.bad.foldl (fun d e => match e with
        | .narrow r =>
          let mine := rows.filter fun q => tableRow q = r
          if mine.isEmpty then d else wellParities d die b 6 [e] mine
        | _ => d) d
      let d := fcnt d (ctl actWait.1 die b) actWait.2 env.lostWide
      passIssue d die b u m (env.bad.filter fun e => match e with
        | .wide _ => true
        | _ => false)

/-- A chain issues. -/
def seqChain (d : Dev) (die b : Nat) (env : WellEnv) : Dev :=
  issueSlot d die b env .vector (fun bu => bu.vector.isSome) fun u bu d =>
    match bu.vector with
    | none => d
    | some v =>
      match chainAt d die b u v.chain with
      | none => d
      | some c => chainIssue d die b u v c

/-- A descriptor issues to a pump. -/
def seqPump (d : Dev) (die b : Nat) (pb : Bool) (env : WellEnv) : Dev :=
  let slotOf (bu : Bundle) : Option PumpSlot := if pb then bu.pumpB else bu.pumpA
  issueSlot d die b env (if pb then .pumpB else .pumpA) (fun bu => (slotOf bu).isSome) fun u bu d =>
    match slotOf bu with
    | none => d
    | some s =>
      match slotDesc d die b u s with
      | .ok y => descIssue d die b pb u s y
      | _ => d

/-- The identity of a gate operation that a bundle issues (R179). -/
def seqSignal (d : Dev) (die b : Nat) (u : UnitCtx) (bu : Bundle) (gdie gate : Nat) : SignalId :=
  let q := (blk d die b).seq
  { die, block := b, unit := 0xB, bundle := bundleAddr u.slot q.pos.pc, cycle := q.lastIssue,
    tag := bundleTag d die b u bu, aux := gateAux gdie gate, step := true }

/-- Rows that a layer mark takes out of the active mask because their request is cancelled: the time since the cancel's stamp in
whole microseconds, the longest of them kept (R307). -/
def noteCancels (d : Dev) (old new : Nat) : Dev :=
  let a := ctl R.SRV_CANCEL_LAT 0 0
  (d.step.rows.filter fun q => bit old q.row && !bit new q.row).foldl (fun d q =>
    match (mget d.srv.slots q.slot).bind Slot.cancel with
    | some t => fset d a F.SRV_CANCEL_LAT_US (max (fget d a F.SRV_CANCEL_LAT_US) (min ((d.tally - t) / usTicks 1) 65535))
    | none => d) d

/-- The effect of a control operation at issue (R172). -/
def controlEffect (die b : Nat) (u : UnitCtx) (bu : Bundle) (bad : List BadRead) (d : Dev) : Dev :=
  let x := blk d die b
  match bu.control with
  | .gsig gate gdie add remote fareg =>
    let s := seqSignal d die b u bu gdie gate
    if remote then
      remoteSignal d (areg x.seq.pos.regs fareg % 65536) gdie gate add (blockStamp d die b) s
    else localGateOp d gdie gate (.signal add) (.block die b) s
  | .gset gate v rel =>
    localGateOp d die gate (if rel then .addThresh v else .setThresh v) (.block die b) (seqSignal d die b u bu die gate)
  | .gwait g =>
    if g = 255 then
      match rowMask d die b u with
      | some m =>
        let old := (x.maskLoads.getLast?.map Prod.fst).getD x.mask
        maskParity (setBlk (noteCancels d old m) die b { x with maskLoads := x.maskLoads ++ [(m, x.seq.lastIssue + 8)] }) die b u bad
      | none => d
    else d
  | c => if copIsEaf c then eafIssue d die b u c else d

/-- A control operation that a predicate names issues. -/
def seqControl (d : Dev) (die b : Nat) (env : WellEnv) (is : Cop → Bool) : Dev :=
  issueSlot d die b env .control (fun bu => is bu.control) fun u bu d => controlEffect die b u bu env.bad d

/-- An EAF operation (R172, R173): the oldest of the EAF queue goes on where it is of the kind named; where it cannot, or
is of another kind, the operation of that kind in the next bundle issues, and is performed if it is the oldest. -/
def seqEaf (d : Dev) (die b : Nat) (env : WellEnv) (is : Cop → Bool) : Dev :=
  let head := (blk d die b).eafQueue.head?
  let on := if (head.map fun o => is o.cop).getD false then eafAdvance (arbLost d die b env) die b env.bad else d
  if (blk on die b).eafQueue != (blk d die b).eafQueue then on
  else
    let e := seqControl d die b env is
    if (blk e die b).eafQueue.length = 1 && (blk d die b).eafQueue.isEmpty then eafAdvance e die b env.bad else e

/-- The address slot of an operation that a predicate names (R170). -/
def seqAddress (d : Dev) (die b : Nat) (env : WellEnv) (is : Aop → Bool) : Dev :=
  issueSlot d die b env .address (fun bu => (bu.address.map is).getD false) fun _ _ d => d

/-! ## Units (R166) -/

/-- Every operation that the unit issued has completed. -/
def opsDone (x : Block) : Bool :=
  x.seq.issuing.isEmpty && fenceMet x 0x1F

/-- The next valid unit slot at or after a number. -/
def nextSlot (d : Dev) (die b n : Nat) : Option Nat :=
  if blockRetired d die b then none else ((List.range 4).filter fun s => n ≤ s && slotValid d die b s).head?

/-- The block is done (R166): its last unit's operations have completed, or it has no valid slot and so is done from the
step's start on. -/
def seqDone (d : Dev) (die b : Nat) : Bool :=
  let ph := (blk d die b).seq.phase
  ph == .done || (d.step.running && ph == .idle && (nextSlot d die b 0).isNone)

/-- The state that segments do not hold is reset before a unit (R166, R88, R75). -/
def resetUnit (d : Dev) (die b : Nat) : Dev :=
  let x := blk d die b
  let d := wr d (ctl R.SEQ_MQ_EXP_VALID die b) 0
  setBlk d die b { x with temps := [], preds := [], accs := [], expSlots := { zeroed := [(0, 131072)] }, load := none }

/-- The next unit slot starts (R166): 16 cycles of reset after every operation of the ending unit has completed. -/
def unitStart (d : Dev) (die b : Nat) : Dev :=
  let x := blk d die b
  let q := x.seq
  if !stepLive d || q.phase != .ended || !opsDone x then d
  else
    match nextSlot d die b (q.slot + 1) with
    | none => d
    | some s =>
      let d := resetUnit d die b
      setSeq d die b { q with phase := .running, slot := s, pos := {}, lastIssue := q.cycle + 16, fresh := true,
                              passed := false, held := none, gateOpen := false }

/-- The block is done (R166): no unit slot is left and every operation has completed. -/
def blockDone (d : Dev) (die b : Nat) : Dev :=
  let x := blk d die b
  if x.seq.phase = .ended && opsDone x && (nextSlot d die b (x.seq.slot + 1)).isNone then
    setSeq d die b { x.seq with phase := .done }
  else d

/-- An active mask read at a layer mark replaces the old one 8 cycles after the mark issued (R303). -/
def activeMaskLoad (d : Dev) (die b : Nat) : Dev :=
  let x := blk d die b
  match x.maskLoads with
  | [] => d
  | (m, c) :: rest => if c ≤ x.seq.cycle then setBlk d die b { x with mask := m, maskLoads := rest } else d

end Sys2Proof.Machine
end

