-- ==== Sys2Proof/Machine/Schedule.lean ====
section
/-! DEFINITION. Machine/Schedule: starting a step (R181, R182), step zero-fill (R127), the package-wide hold (R183 to
R186), droop stretches as it sees them (R368), abort, watchdog and completion (R193, R194), and the gates that a replay
resets (R379). -/

namespace Sys2Proof.Machine

/-! ## Gates that a program names (R379) -/

/-- The local gates that a unit's bundles and descriptors name, with their dies. -/
def unitGates (d : Dev) (die b s : Nat) : List (Nat × Nat) :=
  let u := unitCtx d die b s
  ((List.range u.hdr.bundles).flatMap fun pc =>
    match (bundleAt d die b u pc).map Bundle.control with
    | some (.gsig g gd _ false _) => [(gd, g)]
    | some (.gwait g) => [(die, g)]
    | some (.gset g _ _) => [(die, g)]
    | _ => [])
  ++ (List.range u.hdr.descs).flatMap fun i =>
    match descAt d die b u (List.replicate 8 0) i with
    | .ok y => if y.gateEn && !y.gateRemote then [(y.gateDie, y.gate)] else []
    | _ => []

/-- The gates that the program in place names. -/
def programGates (d : Dev) : List (Nat × Nat) :=
  d.blocks.flatMap fun e =>
    (List.range 4).flatMap fun s =>
      if slotValid d (e.1 / 24) (e.1 % 24) s then unitGates d (e.1 / 24) (e.1 % 24) s else []

/-- Firmware performs RESET on every gate that the program's units name (R379 step 3). -/
def resetProgramGates (d : Dev) : Dev :=
  (programGates d).foldl (fun d g => (performGate d g.1 g.2 .reset (.hall g.1)).1) d

/-- The steps of the program in place are a group's: the program names a gate of a barrier slot of the group, or of no group's
(DESIGN CHOICE, log entry 40). -/
def stepOf (d : Dev) (num : Nat) : Bool :=
  let gs := programGates d
  let named := ((List.range 512).filter fun k => slotInUse d k && (slotGates d k).any gs.contains).map (slotGroup d)
  named.isEmpty || named.contains num

/-! ## Step start -/

/-- Registers of compute dies that every step start resets: the counters of R40, R38, R58, R190 and of the quartet,
vector engine, cistern, well, pump, square and bridge tables, and DIE_STEP_STATUS.ABORTED. -/
def stepPlaces : List Nat :=
  [R.DIE_NAN_CNT, R.DIE_CVT_CNT, R.EAF_STATUS, R.EAF_FMT_CNT, R.EAF_OVF_CNT, R.SEQ_MQ_PASS_CNT, R.SEQ_MQ_STALL_A,
   R.SEQ_MQ_STALL_B, R.SEQ_MQ_TENANT_CNT, R.SEQ_MQ_EXP_VALID, R.VEC_CHAIN_CNT, R.VEC_ITER_CNT, R.VEC_STALL_A,
   R.VEC_STALL_B, R.VEC_MASKED_CNT, R.CIS_REFRESH_CNT, R.WEL_REPLAY_CNT, R.WEL_ARB_CNT, R.PMP_DESC_CNT,
   R.PMP_FLIT_CNT, R.PMP_STALL_CNT, R.PMP_DESC_CNT + 0x100, R.PMP_FLIT_CNT + 0x100, R.PMP_STALL_CNT + 0x100,
   R.SQR_MERGE_CNT, R.SQR_RETRY_CNT, R.SQR_EXCESS_CNT, R.BRG_RETRY_CNT, R.BRG_MAX_LAT, R.DIE_HOLD_CNT, R.DIE_HOLD_CYC,
   R.DIE_FAULT_CNT, R.DIE_SLIP_STATUS, R.DIE_STEP_STATUS, R.DIE_STEP_ELAPSED]

/-- The registers after a step start: counters at reset, SQR_STATUS.DETOUR clear. -/
def stepRegs (m : SMap Word) : SMap Word :=
  (m.filter fun e => !(e.1 < pow2 32 && stepPlaces.contains (ctlPlace e.1))).map fun e =>
    if e.1 < pow2 32 && ctlPlace e.1 == R.SQR_STATUS then
      (e.1, BitVec.ofNat 32 (setBits e.2.toNat F.SQR_STATUS_DETOUR.lo 1 0))
    else e

/-- A block at a step start: basins void, accumulators cleared, temporaries, predicates and expansion slots zero (R70,
R88, R75); its sequencer has not begun. -/
def startBlock (x : Block) : Block :=
  { x with seq := { nextPlane := x.seq.nextPlane }, load := none, expSlots := { zeroed := [(0, 131072)] }, basins := [],
           passes := [], quartetWait := none, temps := [], preds := [], chains := [], stores := [], accs := [],
           eafQueue := [], maskLoads := [] }

/-- The watchdog limit of the program in place in microseconds (R193). -/
def wdogUs (d : Dev) : Nat := if d.step.hdr.watchdogUs = 0 then 50000 else d.step.hdr.watchdogUs

/-- The APPLY registers of the groups whose apply point is a step boundary (R335); in each, APPLY is bit 0. -/
def boundaryApplies : List Nat := [R.SQR_APPLY, R.DIE_PLACE_APPLY, R.RSV_APPLY, R.SRV_MT_APPLY]

/-- No step-boundary group is armed: an armed one applies before the next step starts (R334). -/
def boundaryTaken (d : Dev) : Bool :=
  d.regs.all fun e => !(boundaryApplies.contains (ctlPlace (e.1 % pow2 32)) && bit e.2.toNat 0)

/-- A step may start: none runs, the groups armed for the boundary have applied, the program in place is not barred
(R192), and no snapshot of its group holds it (R266). -/
def mayStart (d : Dev) : Bool :=
  !d.step.running && boundaryTaken d && !(d.snaps.any fun s => stepOf d s.group) && !d.step.barred.contains d.step.hdr.programId

/-- The first unit of the device whose narrow segment holds the row area of R302, with its block. -/
def rowUnit (d : Dev) : Option (Nat × Nat × UnitCtx) :=
  d.blocks.findSome? fun e =>
    let die := e.1 / 24
    let b := e.1 % 24
    (List.range 4).findSome? fun s =>
      if slotValid d die b s then
        let u := unitCtx d die b s
        if u.hdr.rowtab + 2064 ≤ u.hdr.narrowRows then some (die, b, u) else none
      else none

/-- The rows that the table and mask of a step number name as live (R302), as the serving engine wrote them into every
block; read from the first unit that holds them. -/
def tableRows (d : Dev) (number : Nat) : List RowUse :=
  match rowUnit d with
  | none => []
  | some (die, b, u) =>
    let t := number % 2
    let row (r : Nat) : Nat := rowAddr true (u.base.narrow + u.hdr.rowtab + r)
    let mask := memNat d.epoch (unitWell (gblock die b)) (blk d die b).well (row (2048 + 8 * t)) 512
    ((List.range 4096).filter (bit mask)).map fun q =>
      let e := memNat d.epoch (unitWell (gblock die b)) (blk d die b).well (row (1024 * t + q / 4) + 16 * (q % 4)) 16
      { row := q, slot := bits e 0 16, pos := bits e 32 24, prefill := bit e 57, sample := bit e 58,
        vidx := bits e 76 3, proposal := bit e 79, srec := bits e 64 12, propose := bits e 80 3 }

/-- The device starts a step (R19, R181, R182): the mode in force is decided, and what every step start resets is
reset. -/
def beginStep (d : Dev) : Dev :=
  let lock := d.step.hdr.lockstep && !lockstepBarred d
  let d :=
    { d with
      regs := stepRegs d.regs
      blocks := d.blocks.map fun e => (e.1, startBlock e.2)
      dies := d.dies.map fun e => (e.1, { e.2 with slips := [], stepDone := false, elapsed := 0, signals := 0 })
      step := { d.step with running := true, lockstep := lock, begun := d.tally, wdogFrom := d.step.signalled.getD d.tally,
                            signalled := none, abort := .none, holdFrom := none, tallied := false, aborted := false,
                            rows := tableRows d d.step.number, nanRows := [], nanLost := false, badRows := [], badAll := false,
                            found := [] } }
  let us := wdogUs d
  computeDies.foldl (fun d die => wr d (ctl R.DIE_WDOG die 0) (BitVec.ofNat 32 us)) d

/-- The first unit slot of a block starts at step cycle 0 (R166, R169), with the active mask of the step (R303); a block
with no valid slot is done. -/
def startRun (d : Dev) (die b : Nat) (bad : List BadRead) : Dev :=
  let q := (blk d die b).seq
  match nextSlot d die b 0 with
  | none => setSeq d die b { q with phase := .done }
  | some s =>
    let d := setSeq d die b { q with phase := .running, slot := s }
    let u := unitCtx d die b s
    match rowMask d die b u with
    | some m => maskParity (setBlk d die b { blk d die b with mask := m }) die b u bad
    | none =>
      fault d die { code := (maskFault d die b u).getD .segment, unit := 0x9, block := b, bundle := bundleAddr s 0, cycle := 0 }

/-- The start gate of the block's die is at its threshold. -/
def startGateMet (d : Dev) (die : Nat) : Bool := gateMet d die d.step.hdr.startGate

/-- The start condition of a block is met and any zero-fill has ended: in lockstep mode it waits for the start tally. -/
def fillDone (d : Dev) (die b : Nat) (bad : List BadRead) : Dev :=
  let q := (blk d die b).seq
  if d.step.lockstep && !d.step.tallied then setSeq d die b { q with phase := .armed } else startRun d die b bad

/-- The die's start gate reaches its threshold and a block begins its step, with zero-fill where the header asks for it
(R181, R127). The first block to begin starts the step of the device. -/
def blockStepStart (d : Dev) (die b : Nat) (bad : List BadRead) : Dev :=
  let ph := (blk d die b).seq.phase
  if !startGateMet d die then d
  else
    let d := if d.step.running then d else if mayStart d then beginStep d else d
    if !stepLive d || ((blk d die b).seq.phase != .idle && ph != .waiting) then d
    else
      let q := (blk d die b).seq
      if d.step.hdr.zeroFill then setSeq d die b { q with phase := .filling } else fillDone d die b bad

/-- The narrow rows of a unit that step zero-fill leaves alone (R127): the row area, and in a selection unit all that
follows it. -/
def keptRows (h : UnitHdr) : Nat × Nat :=
  (h.rowtab, if h.rowtab + 14352 ≤ h.narrowRows then h.narrowRows else min h.narrowRows (h.rowtab + 2064))

/-- Step zero-fill of one unit's segments. -/
def zeroUnit (die b : Nat) (d : Dev) (s : Nat) : Dev :=
  let u := unitCtx d die b s
  let k := keptRows u.hdr
  let d := zeroRows d die b false u.base.wide (min u.hdr.wideRows (6144 - u.base.wide))
  let d := zeroRows d die b true u.base.narrow (min k.1 u.hdr.narrowRows)
  zeroRows d die b true (u.base.narrow + k.2) (u.hdr.narrowRows - k.2)

/-- Step zero-fill of a block ends (R127): the rows are zero and their marks clear, and step cycle 0 follows. -/
def zeroFillDone (d : Dev) (die b : Nat) (bad : List BadRead) : Dev :=
  if (blk d die b).seq.phase = .filling && stepLive d then
    fillDone ((List.range 4).foldl (fun d s => if slotValid d die b s then zeroUnit die b d s else d) d) die b bad
  else d

/-- The start tally of a die. -/
def startTally (d : Dev) (die : Nat) : Nat :=
  (rd d (ctl R.DIE_START_TALLY_LO die 0)).toNat + (rd d (ctl R.DIE_START_TALLY_HI die 0)).toNat * pow2 32

/-- A block at the start tally: it begins step cycle 0, or raises the hold with cause START (R181, R127); one without a
valid slot is done (R166). -/
def tallyBlock (d : Dev) (die b : Nat) (bad : List BadRead) : Dev :=
  let q := (blk d die b).seq
  match q.phase with
  | .armed => startRun d die b bad
  | .filling => raiseHold d die b .start
  | .idle =>
    if (nextSlot d die b 0).isNone || startGateMet d die && !d.step.hdr.zeroFill then startRun d die b bad
    else if startGateMet d die then raiseHold (setSeq d die b { q with phase := .filling }) die b .start
    else raiseHold (setSeq d die b { q with phase := .waiting }) die b .start
  | _ => d

/-- All blocks of the device. -/
def allBlocks : List (Nat × Nat) := computeDies.flatMap fun die => dieBlocks.map fun b => (die, b)

/-- The start tally of a lockstep step is reached on every die (R181). `bad` names mask rows found in error, by block. -/
def startTallyReached (d : Dev) (bad : List (DieId × BlockId × BadRead)) : Dev :=
  if !d.step.hdr.lockstep || lockstepBarred d || (computeDies.any fun die => d.tally < startTally d die) then d
  else
    let d := if d.step.running then d else if mayStart d then beginStep d else d
    if !d.step.running || d.step.tallied || !d.step.lockstep then d
    else
      allBlocks.foldl (fun d p => tallyBlock d p.1 p.2
          (bad.filterMap fun e => if e.1.val = p.1 ∧ e.2.1.val = p.2 then some e.2.2 else none))
        { d with step := { d.step with tallied := true, wdogFrom := d.tally } }

/-! ## The package-wide hold (R183 to R186) -/

/-- A sequencer that the hold concerns. -/
def activePhase (p : SeqPhase) : Bool := p == .running || p == .ended || p == .done

/-- A raise edge reaches a sequencer (R184): it freezes, its lead the distance from the raiser's step cycle. -/
def holdArrive (d : Dev) (die b : Nat) : Dev :=
  let q := (blk d die b).seq
  match d.step.holdFrom with
  | some c =>
    if d.step.lockstep && activePhase q.phase && !q.frozen then
      setSeq d die b { q with frozen := true, lead := leadOf c q, resumeAt := none, thawed := 0 }
    else d
  | none => d

/-- A block still has what it raised the hold for: its start condition, a wait of a unit, or its next bundle held. -/
def stillWaits (d : Dev) (die b : Nat) : Bool :=
  let x := blk d die b
  match x.seq.phase with
  | .waiting | .filling => true
  | _ => unitsWait x || match issueState d die b with
    | .held .. => x.seq.held.isSome
    | _ => false

/-- Every raise line of the device is low: no raiser waits and no die is stretched. -/
def linesLow (d : Dev) : Bool :=
  (d.blocks.all fun e => !e.2.seq.raising || !stillWaits d (e.1 / 24) (e.1 % 24))
    && d.dies.all fun e => e.2.droop.isNone

/-- A frozen sequencer as the release of a hold raised from step cycle `c` reaches it (R185): its lead is the distance
of the step cycle it froze at, whether the raise froze it or a stall of its own (R184). -/
def releaseSeq (c resume : Nat) (q : Sequencer) : Sequencer :=
  if q.frozen then { q with raising := false, lead := leadOf c q, resumeAt := some resume, thawed := 0 } else q

/-- The root sends a release (R185): 11 ticks from now every frozen sequencer resumes by its lead. It is sent when every
raise line is low, the raise having reached every sequencer (R184). -/
def holdRelease (d : Dev) : Dev :=
  let reached := d.blocks.all fun e => !activePhase e.2.seq.phase || (e.2.seq.frozen && e.2.seq.resumeAt.isNone)
  match d.step.holdFrom with
  | some c =>
    if stepLive d && reached && linesLow d then
      { d with
        step := { d.step with holdFrom := none }
        blocks := d.blocks.map fun e => (e.1, { e.2 with seq := releaseSeq c (d.tally + 11) e.2.seq }) }
    else d
  | none => d

/-- The cause of a block's wait. -/
def waitCause (x : Block) : Option Cause :=
  let waits : List (Option Wait) :=
    [x.quartetWait, x.passes.findSome? PassRun.wait, x.chains.findSome? ChainRun.wait, x.eafQueue.findSome? EafOp.wait,
     (x.pumpA.direct ++ x.pumpA.sluice ++ x.pumpB.direct ++ x.pumpB.sluice).findSome? PumpItem.wait]
  (waits.findSome? id).map Wait.cause

/-- A droop stretch of a die that has ended is recorded as its sequencers resume (R185, R189); `past` cycles have passed
since they did. -/
def droopResumed (d : Dev) (die past : Nat) : Dev :=
  let y := dieSt d die
  match if y.droop.isSome then none else y.droopRec with
  | none => d
  | some (from_, cycle) =>
    let d := setDie d die { y with droopRec := none }
    if slipSetting d = 0 then d
    else
      addSlip d die { cycle, bundle := 0, block := 31, slip := 0, held := min (y.elapsed - from_ - past) 65535, cause := .droop,
                      tag := 0 }

/-- Die control raises the hold for all blocks of its stretched die (R185): they freeze as of the step cycle of block
`b`. -/
def droopRaise (d : Dev) (die b : Nat) : Dev :=
  let c := (blk d die b).seq.cycle
  let y := dieSt d die
  let d := setDie d die { y with droopRec := some (y.elapsed, c) }
  let d := joinRaise (fcnt d (ctl R.DIE_HOLD_CNT die 0) F.DIE_HOLD_CNT_RAISED 1) c
  dieBlocks.foldl (fun d b =>
    let q := (blk d die b).seq
    if activePhase q.phase && !q.frozen then setSeq d die b { q with frozen := true, thawed := 0 } else d) d

/-- A sequencer has resumed on a die that is stretched: a stretch that began while the release was on its way raises the
hold now, after the resumption (R185), and its blocks' cycles pass frozen. -/
def droopAgain (d : Dev) (die b : Nat) : Dev :=
  let y := dieSt d die
  if y.droop.isNone then d
  else if y.droopRec.isNone then droopRaise d die b
  else setSeq d die b { (blk d die b).seq with frozen := true, thawed := 0 }

/-- A frozen sequencer resumes its lead's worth of cycles after the resume tally (R185): cycles that have passed since
then, ticks being longer than cycles, it has counted. The hold that it raised is noted for the slip record of the bundle
it held (R189). A unit that came to wait in the meantime raises the hold then. -/
def holdResume (d : Dev) (die b : Nat) : Dev :=
  let q := (blk d die b).seq
  match q.resumeAt with
  | none => d
  | some r =>
    if stepLive d && q.frozen && r < d.tally && q.lead ≤ q.thawed then
      let past := q.thawed - q.lead
      let held := (dieSt d die).elapsed - q.heldSince - past
      let d := setSeq d die b
        { q with frozen := false, cycle := q.cycle + past, lead := 0, thawed := 0, resumeAt := none, holdCause := none,
                 holds := q.holds ++ q.holdCause.toList.map fun c => (c, held) }
      let d := droopAgain (droopResumed d die past) die b
      match waitCause (blk d die b) with
      | some c => raiseHold d die b c
      | none => d
    else d

/-! ## Droop stretches (R185, R368) -/

/-- Die control stretches the clock of its die by 12.5 % or 25 % (`deep`) for at most 16 cycles, and raises the hold for
all its blocks (R185). A raise that would come after a release has been sent waits until the sequencers of the die
resume. -/
def droopStart (d : Dev) (die : Nat) (deep : Bool) : Dev :=
  let y := dieSt d die
  if y.droop.isSome then d
  else
    let d := setDie d die { y with droop := some (16, deep), droopRec := none }
    if !(d.step.lockstep && stepLive d) then
      if d.step.running && slipSetting d ≠ 0 then
        addSlip d die { cycle := dieCycle d die, bundle := 0, block := 31, slip := 0, held := 0, cause := .droop, tag := 0 }
      else d
    else if dieBlocks.any fun b => (blk d die b).seq.resumeAt.isSome then d
    else droopRaise d die 0

/-- A stretch ends: the die lowers its raise line. -/
def droopStop (d : Dev) (die : Nat) : Dev := setDie d die { dieSt d die with droop := none }

/-! ## Abort (R193) -/

/-- Descriptors of a bundle that have not started are discarded. -/
def discardQueued (p : Pump) : Pump :=
  { p with direct := p.direct.filter PumpItem.started, sluice := p.sluice.filter PumpItem.started }

/-- A block as an abort reaches it: issue stops, descriptors not started are discarded, and a frozen sequencer does not
resume. -/
def abortBlock (x : Block) : Block :=
  { x with pumpA := discardQueued x.pumpA, pumpB := discardQueued x.pumpB, load := none,
           seq := { x.seq with raising := false, resumeAt := none } }

/-- The abort asked for reaches every sequencer (R193 steps 1 to 4); it ends a raised hold. -/
def stepAbort (d : Dev) : Dev :=
  match d.step.abort with
  | .requested c =>
    let d := { d with step := { d.step with abort := .draining c, holdFrom := none },
                      blocks := d.blocks.map fun e => (e.1, abortBlock e.2) }
    computeDies.foldl (fun d die => fset d (ctl R.DIE_STEP_STATUS die 0) F.DIE_STEP_STATUS_ABORTED 1) d
  | _ => d

/-- The device's first NaN (R40): of the dies whose record is of this step, the key that is smallest by step cycle, die,
block, unit code and batch row. It is unknown where a die still held an earlier step's record as an event occurred (R43). -/
def firstNan (d : Dev) : Option (Nat × Nat × Nat × Nat × Nat) :=
  if d.step.nanLost then none
  else
  computeDies.foldl (fun m die =>
    let y := dieSt d die
    match (if flag d (ctl R.DIE_NAN_STATUS die 0) F.DIE_NAN_STATUS_VALID && y.nanStep = d.step.number then y.nanKey else none), m with
    | some k, some x => if k.1 < x.1 then some (k.1, die, k.2.1, k.2.2.1, k.2.2.2) else some x
    | some k, none => some (k.1, die, k.2.1, k.2.2.1, k.2.2.2)
    | none, m => m) none

/-- The step ends: the next has the next number (R19), and DIE_BLOCK_RET written during the step takes effect (R381). A
signal of the next step's start gates that came while it ran counts for the watchdog from now on. -/
def endStep (d : Dev) : Dev :=
  let d := applyShadows d (computeDies.map fun die => ctl R.DIE_BLOCK_RET die 0)
  { d with step := { d.step with running := false, number := d.step.number + 1, abort := .none, holdFrom := none,
                                 signalled := d.step.signalled.map fun _ => d.tally, firstNan := firstNan d } }

/-- The rows that a step found in error are written anew before the rows that they affect run again (R123): the serving engine
recomputes the KV in them from the requests' tokens, which gives the bytes that they hold (R64); a row that holds no KV of an
earlier step is written by the step that runs again. -/
def rewriteRows (d : Dev) : Dev :=
  d.step.badWells.foldl (fun d e =>
    let die := e.1 / 24
    let b := e.1 % 24
    let put (a n : Nat) : Dev :=
      let x := blk d die b
      setBlk d die b { x with well := memWrite x.well a (wellRead d die b a n) }
    match e.2 with
    | .wide r => put (rowAddr false r) 1024
    | .narrow r => put (rowAddr true r) 64
    | _ => d) { d with step := { d.step with badWells := [] } }

/-- Every issued operation of an aborted step has ended (R193 step 6). -/
def abortEnd (d : Dev) : Dev :=
  match d.step.abort with
  | .draining c =>
    if d.blocks.all fun e => opsDone e.2 then
      computeDies.foldl (fun d die => irqAll d die 4)
        (endStep { d with step := { d.step with aborts := c :: d.step.aborts, aborted := true } })
    else d
  | _ => d

/-! ## Watchdog (R193) -/

/-- What a wait waits for, as the fault record names it: entry kind, entry or row, and the gate in Auxiliary. -/
def waitPlace : WaitOn → EntryKind × Nat × Nat
  | .wideMark r _ => (.wide, r, 0)
  | .narrowMark r _ => (.narrow, r, 0)
  | .basin e => (.basin, e, 0)
  | .gate die g => (.none, 0, gateAux die g)
  | .repairLine l => (.none, 0, l)
  | _ => (.none, 0, 0)

/-- The wait that a block shows: its held bundle's, or a unit's. -/
def blockWait (x : Block) : Option Wait :=
  ([x.seq.held, x.quartetWait, x.passes.findSome? PassRun.wait, x.chains.findSome? ChainRun.wait,
    x.eafQueue.findSome? EafOp.wait] : List (Option Wait)).findSome? id

/-- The block has not begun because its start gate is below its threshold. -/
def atStartGate (q : Sequencer) : Bool := q.phase == .idle || q.phase == .waiting

/-- DEADLOCK of a die: its lowest-numbered held block, or where none is held its lowest-numbered block not done. -/
def dieDeadlock (d : Dev) (die : Nat) : Dev :=
  let open_ := dieBlocks.filter fun b => !seqDone d die b
  match (open_.filter fun b => (blk d die b).seq.held.isSome).head?.or open_.head? with
  | none => d
  | some b =>
    let x := blk d die b
    let waits := (blockWait x).or (if atStartGate x.seq then some { cause := .start, on := .gate die d.step.hdr.startGate } else none)
    let w := (waits.map fun w => waitPlace w.on).getD (.none, 0, 0)
    fault d die { code := .deadlock, unit := 0x9, block := b, bundle := bundleAddr x.seq.slot x.seq.pos.pc,
                  cycle := x.seq.cycle, kind := w.1, entry := w.2.1, aux := w.2.2 }

/-- The step watchdog expires before the step completes (R193). In sluice mode it has run since the serving engine
signalled the start gates, whether or not a block has begun; in lockstep mode it runs from the start tally on. -/
def wdogExpire (d : Dev) : Dev :=
  let late (t : Nat) : Bool := decide (t + usTicks (wdogUs d) ≤ d.tally)
  if stepLive d then if (!d.step.lockstep || d.step.tallied) && late d.step.wdogFrom then computeDies.foldl dieDeadlock d else d
  else if (d.step.signalled.map late).getD false && mayStart d && !(d.step.hdr.lockstep && !lockstepBarred d) then
    computeDies.foldl dieDeadlock (beginStep d)
  else d

/-! ## Completion (R194) -/

/-- A die's step completes. -/
def dieStepComplete (d : Dev) (die : Nat) (bad : List BadRead) : Dev :=
  let done (b : Nat) : Bool :=
    let x := blk d die b
    seqDone d die b && x.pumpA.direct.isEmpty && x.pumpA.sluice.isEmpty && x.pumpB.direct.isEmpty
      && x.pumpB.sluice.isEmpty
  let y := dieSt d die
  if stepLive d && !y.stepDone && dieBlocks.all done && y.signals = 0 then
    irqAll (setDie { d with step := { d.step with found := d.step.found ++ bad.map fun e => (die, e) } } die
      { y with stepDone := true }) die 4
  else d

/-- The device's step completes: DIE_STEP_ELAPSED latches, the watchdog stops, and a commit point is to follow. -/
def stepComplete (d : Dev) : Dev :=
  if stepLive d && computeDies.all fun die => (dieSt d die).stepDone then
    let d := computeDies.foldl (fun d die =>
      wr d (ctl R.DIE_STEP_ELAPSED die 0) (BitVec.ofNat 32 (min (dieSt d die).elapsed (pow2 32 - 1)))) d
    let s := d.step
    let r : CommitRec := { number := s.number, rows := s.rows, nanRows := s.nanRows, badRows := s.badRows, badAll := s.badAll,
                           found := s.found }
    endStep { d with step := { s with commits := s.commits ++ [r], aborts := [] } }
  else d

end Sys2Proof.Machine
end

