-- ==== Sys2Proof/Machine/Fabric.lean ====
section
/-! DEFINITION. Machine/Fabric: windows, reads, credits, gates and acknowledgements across the fabric (R235 to R252). -/

namespace Sys2Proof.Machine

/-! ## Arriving and forwarding (R252) -/

/-- An arrival is received: its aqueduct is UP in fabric mode and no pair of it is refused (R225); over the package it always
is. -/
def received (d : Dev) (a : Arrival) : Bool :=
  match a.link with
  | some l => aqdFabricUp d (a.head * 8 + l) && (aqd d (a.head * 8 + l)).refusing.isNone
  | none => true

/-- A frame that an aqueduct has taken is to be returned as a credit of its VC (R221, R222). -/
def noteTaken (d : Dev) (a : Arrival) (vc : Nat) : Dev :=
  match a.link with
  | some l =>
    let g := a.head * 8 + l
    setAqd d g { aqd d g with got := mset (aqd d g).got vc (mgetD (aqd d g).got vc 0 + 1) }
  | none => d

/-- A frame or flit that arrives for another device is forwarded under the own route table, its VC, SRC and STAMP kept; `lost`
says what happens where no route is there for it. A head that cannot be reached passes on only by its own aqueducts
(R215). -/
def forward (d : Dev) (a : Arrival) (vc : Nat) (kind : EmitKind) (nums : List Nat) (bytes : List Byte) (lost : Dev → Dev) :
    Dev :=
  if !faValid d then d
  else match routeAqd d a.dst vc with
    | some g =>
      if g / 8 = a.head || (headReachable d a.head && headReachable d (g / 8)) then
        sendOn d g { kind, nums := 0 :: a.dst :: nums, bytes, vc, src := a.src, die := a.die }
      else lost d
    | none => lost d

/-- Acts on an arrival where it is for this device, else forwards it. At a head that cannot be reached it is refused, and
`refuse` answers it (R215). -/
def arriveElse (d : Dev) (a : Arrival) (vc : Nat) (kind : EmitKind) (nums : List Nat) (bytes : List Byte)
    (lost refuse here : Dev → Dev) : Dev :=
  if !received d a then d
  else
    let d := noteTaken d a vc
    if a.dst ≠ ownFa d then forward d a vc kind nums bytes lost
    else if headReachable d a.head then here d
    else refuse d

/-- As `arriveElse`, for what no record answers. -/
def arriveAt (d : Dev) (a : Arrival) (vc : Nat) (kind : EmitKind) (nums : List Nat) (bytes : List Byte) (here : Dev → Dev) :
    Dev := arriveElse d a vc kind nums bytes id id here

/-- A register of the transaction unit of a head. -/
abbrev txnReg (place h : Nat) : Nat := ctl place (56 + h) 9

/-! ## Windows (R242 to R246) -/

/-- A window. -/
def window (d : Dev) (w : Nat) : Window := mgetD d.windows w {}

/-- Stores a window. -/
def setWindow (d : Dev) (w : Nat) (x : Window) : Dev := { d with windows := mset d.windows w x }

/-- A window as a head's own copy of the table has it (R242, R243). -/
def windowAt (d : Dev) (h w : Nat) : Window := mgetD d.winCopies (h * 4096 + w) (window d w)

/-- A change of a window at the primary head sets out for the other heads, whose copies stay as they are until it
arrives. -/
def changeWindow (d : Dev) (w : Nat) (x : Window) : Dev :=
  let old := window d w
  let c := (List.range 8).foldl (fun c h =>
    if h = primaryHead d || (mget c (h * 4096 + w)).isSome then c else mset c (h * 4096 + w) old) d.winCopies
  setWindow { d with winCopies := c } w x

/-- Changes arrive at every head that can be reached. -/
def landChanges (d : Dev) : Dev := { d with winCopies := d.winCopies.filter fun e => !headReachable d (e.1 / 4096) }

/-- An indexed register of a window; all heads show one table (R242). -/
abbrev winReg (place w : Nat) : Nat := ctlSel place 56 9 w

/-- Credits granted and not landed. -/
def Window.outstanding (x : Window) : Nat := (x.granted.map Prod.snd).sum

/-- WIN_BUSY of every head follows the windows that are closing. -/
def showBusy (d : Dev) : Dev :=
  let busy := d.windows.any fun e => e.2.state == 2
  (List.range 8).foldl (fun d h => fset d (txnReg R.AQD_TXN_STATUS h) F.AQD_TXN_STATUS_WIN_BUSY (b2n busy)) d

/-- The target range of an OPEN lies within the target's wells or within the reservoir's pages (R246). -/
def targetOk (target size : Nat) : Bool :=
  match parseEndpoint target 0 with
  | some (some (.package _ _ a)) => a + size ≤ 0x800000
  | some (some (.reservoir a)) => a + size ≤ pageCount * 2097152
  | _ => false

/-- The window that a path selects. -/
def selWindow (d : Dev) (p : Path) (h : Nat) : Nat := selField d p (txnReg R.AQD_WIN_SEL h) F.AQD_WIN_SEL_WINDOW

/-- A window that snapshots had set HOLD of and none of the slots named still holds has HOLD cleared (R266, R269). -/
def unhold (d : Dev) (w : Nat) (still : List Nat) : Dev :=
  let x := window d w
  let l := x.held.filter still.contains
  if l = x.held then d
  else
    let d := setWindow d w { x with held := l }
    if l.isEmpty then fset d (winReg R.AQD_WIN_CTRL w) F.AQD_WIN_CTRL_HOLD 0 else d

/-- A window opens as its registers say (R246), or OPEN_ERR sets. -/
def openWindow (d : Dev) (w : Nat) : Dev :=
  let x := window d w
  let c := winReg R.AQD_WIN_CTRL w
  let size := (fget d c F.AQD_WIN_CTRL_SIZE_M1 + 1) * 4096
  let target := (rd d (winReg R.AQD_WIN_TGT_LO w)).toNat + (rd d (winReg R.AQD_WIN_TGT_HI w)).toNat * pow2 32
  if x.state ≠ 0 || !targetOk target size then
    fset d (txnReg R.AQD_TXN_STATUS (primaryHead d)) F.AQD_TXN_STATUS_OPEN_ERR 1
  else
    let d := changeWindow d w { x with state := 1, target, size, wr := flag d c F.AQD_WIN_CTRL_WR_EN,
                                       rd := flag d c F.AQD_WIN_CTRL_RD_EN, ring := flag d c F.AQD_WIN_CTRL_RING_CLASS,
                                       pool := fget d c F.AQD_WIN_CTRL_CREDITS_M1 + 1, granted := [], drained := [] }
    unhold d w (d.snaps.map Snapshot.slot)

/-- OPEN is written at a head (R246); it takes effect at the primary head only. -/
def windowOpen (d : Dev) (p : Path) (h : Nat) : Dev :=
  if h ≠ primaryHead d then d else openWindow d (selWindow d p h)

/-- Answers a credit request (R247). -/
def answerCredit (d : Dev) (r : CreditWait) (w n : Nat) : Dev :=
  sendTo d r.fa 0 .credit [leaveBy d r.fa, r.fa, r.xid, w, r.gen, n] [] 64 r.die

/-- CLOSE is written at a head (R245): the generation increments, the window is CLOSING, and its credits are void.
Requests that wait under the old generation are answered with no credits. -/
def closeWindow (d : Dev) (w : Nat) : Dev :=
  let x := window d w
  if x.state ≠ 1 then d
  else
    let d := changeWindow d w { x with state := 2, gen := (x.gen + 1) % 65536, granted := [], waiting := [], drained := [] }
    showBusy (x.waiting.foldl (fun d r => answerCredit d r w 0) d)

/-- A write of CLOSE by a path. -/
def windowClose (d : Dev) (p : Path) (h : Nat) : Dev :=
  if h ≠ primaryHead d then d else closeWindow d (selWindow d p h)

/-- A head reports a window drained (R245): every write that it accepted has landed, and every read has been answered. The eighth
report closes the window. -/
def windowDrained (d : Dev) (w h : Nat) : Dev :=
  let x := window d w
  if x.state ≠ 2 || x.drained.contains h || (mget d.winCopies (h * 4096 + w)).isSome
      || d.accepted.any (fun a => a.win == w && a.head == h && a.gen != x.gen)
      || d.winReads.any (fun r => r.win == w && r.head == h && r.gen != x.gen) then d
  else
    let l := x.drained ++ [h]
    if l.length = 8 then showBusy (changeWindow d w { x with state := 0, drained := [] })
    else setWindow d w { x with drained := l }

/-! ## Credits (R247) -/

/-- Grants the oldest waiting requests, in order, as far as the pool allows. -/
def grantWaiting (w : Nat) : Nat → Dev → Dev
  | 0, d => d
  | n + 1, d =>
    let x := window d w
    match x.waiting with
    | [] => d
    | r :: rest =>
      let room := x.pool - x.outstanding
      if x.state ≠ 1 || flag d (winReg R.AQD_WIN_CTRL w) F.AQD_WIN_CTRL_HOLD || room = 0 then d
      else
        let k := min r.wanted room
        let d := setWindow d w { x with waiting := rest, granted := mset x.granted r.fa (mgetD x.granted r.fa 0 + k) }
        grantWaiting w n (answerCredit d r w k)

/-- A credit request arrives. -/
def creditReq (d : Dev) (h : ExpressHdr) (xid w gen wanted : Nat) : Dev :=
  let fa := bits h.stamp.toNat 0 16
  arriveAt d h.arrival 0 .creditReq [xid, w, gen, wanted] [] fun d =>
    let x := window d w
    let r : CreditWait := { fa, head := h.head, xid, gen, wanted, die := bits h.stamp.toNat 16 6 }
    if x.state ≠ 1 || gen ≠ x.gen then answerCredit d r w 0
    else grantWaiting w (x.waiting.length + 1) (setWindow d w { x with waiting := x.waiting ++ [r] })

/-- Every pump of the device sends what it can. -/
def sendAllPumps (d : Dev) : Dev :=
  d.blocks.foldl (fun d e => sendPump (sendPump d (e.1 / 24) (e.1 % 24) false) (e.1 / 24) (e.1 % 24) true) d

/-- The pump that waits for credits of a window first: its first piece not sent is for the window. -/
def creditWaiter (d : Dev) (fa win gen : Nat) : Option (Nat × Nat × Bool × QueueId × PumpItem × Nat) :=
  d.blocks.findSome? fun e =>
    [false, true].findSome? fun pb => [QueueId.direct, .sluice, .ring].findSome? fun q =>
      ((pumpOf e.2 pb).queue q).findSome? fun i =>
        (i.pieces.findIdx? fun p => !p.sent && !p.landed && i.desc.wgen == gen && match p.dst with
          | some (.window f w _) => f == fa && w == win
          | _ => false).map fun k => (e.1 / 24, e.1 % 24, pb, q, i, k)

/-- Writes that wait for credits of a window that will grant none are refused: it is not OPEN under their generation, or the request
for its credits is lost. -/
def refuseWaiters (fa win gen : Nat) (c : FaultCode) : Nat → Dev → Dev
  | 0, d => d
  | n + 1, d =>
    match creditWaiter d fa win gen with
    | none => d
    | some (die, b, pb, q, i, k) =>
      let row := ((i.pieces[k]?).map PumpPiece.row).getD 0
      let j := { i with pieces := i.pieces.eraseIdx k }
      refuseWaiters fa win gen c n
        (if i.failed then setItem d die b pb q j else pumpFault d die b pb q j c row)

/-- A grant arrives at the sending head, which knows its request by the XID that it echoes (R240). Pumps and fountains send
what it allows. -/
def credit (d : Dev) (h : ExpressHdr) (xid w gen n : Nat) : Dev :=
  let fa := bits h.stamp.toNat 0 16
  arriveAt d h.arrival 0 .credit [xid, w, gen, n] [] fun d =>
    match d.credits.find? fun c => c.fa == fa && c.win == w && c.gen == gen && c.asked == some xid with
    | none => d
    | some c =>
      let d := setCredit d { c with have_ := c.have_ + n, asked := none }
      if n = 0 then refuseWaiters fa w gen .windowClosed 4096 d
      else offerAll (sendAllPumps d) c.head true

/-! ## Landing at a target (R242, R244) -/

/-- Writes or reads at a window's target: where its bytes lie, or none where the target refuses (R124, R198). -/
def targetReady (d : Dev) (x : Window) (off n : Nat) (write : Bool) : Option (List WellLoc × Option Nat) :=
  match parseEndpoint x.target off with
  | some (some (.package pd pb a)) =>
    let locs := (cutRange (n / 1024 + 2) a n).map fun c =>
      let h := translateHome d pd pb c.1
      let narrow := decide (narrowBase ≤ h.2)
      let row := if narrow then (h.2 - narrowBase) / 64 else h.2 / 1024
      if wellReady d pd h.1 narrow row then WellLoc.well pd h.1 h.2 else .bad .bankDown (if narrow then .narrow else .wide) row
    if locs.all fun l => match l with
      | .well .. => true
      | .bad .. => false
    then some (locs, none) else none
  | some (some (.reservoir a)) =>
    let acc : RsvAcc := { addr := a, len := n, data := if write then some [] else none, vc := 1, ring := x.ring,
                          origin := .firmware }
    let last : RsvAcc := { acc with addr := a + n - 1 }
    let serves (o : RsvAcc) : Bool :=
      let p := o.addr / 2097152
      -- a write that lands finds the entry in force; a read that is accepted finds what waits as a fence too (R199)
      stackReachable d (p % 8) && !(if write then refusedBy d (p % 8) o (rd d (pageReg (p % 8) (p / 8))) else rsvRefused d (p % 8) o)
    if serves acc && serves last then some ([], some a) else none
  | _ => none

/-- A target that refuses: where it is a page that its stack refuses, the stack counts it (R197, R198). -/
def targetRefused (d : Dev) (x : Window) (off n : Nat) (write : Bool) : Dev :=
  match parseEndpoint x.target off with
  | some (some (.reservoir a)) =>
    let acc (a : Nat) : RsvAcc :=
      { addr := a, len := n, data := if write then some [] else none, vc := 1, ring := x.ring, origin := .firmware }
    match [a, a + n - 1].find? fun a => let s := (a / 2097152) % 8
                                        stackReachable d s && rsvRefused d s (acc a) with
    | some a => countRsvRefusal d ((a / 2097152) % 8)
    | none => d
  | _ => d

/-- A frame that lands in a staging window counts for the piece it is open for (R277). -/
def stageLanded (d : Dev) (a : Accepted) : Dev :=
  { d with srv := { d.srv with stageWins := d.srv.stageWins.map fun w =>
      if w.window = a.win && w.opened && (window d a.win).gen = a.gen then { w with got := (w.got ++ [a.off]).eraseDups } else w } }

/-- What firmware sends goes on without a frame, or with it once more. -/
def mapSend (d : Dev) (id : Nat) (f : FwSend → FwSend) : Dev :=
  { d with srv := { d.srv with sends := d.srv.sends.map fun x => if x.id = id then f x else x } }

/-- Writes bytes at well locations, cut as `targetReady` cuts them. -/
def putLocs : List WellLoc → List (Nat × Nat) → List Byte → Dev → Dev
  | .well pd pb a :: ls, c :: cs, bs, d =>
    let x := blk d pd pb
    putLocs ls cs (bs.drop c.2) (setBlk d pd pb { x with well := memWrite x.well a (bs.take c.2) })
  | _, _, _, d => d

/-- Reads bytes at well locations. -/
def getLocs (d : Dev) : List WellLoc → List (Nat × Nat) → List Byte
  | .well pd pb a :: ls, c :: cs => wellRead d pd pb a c.2 ++ getLocs d ls cs
  | _, _ => []

/-- The cuts of a window range, as its package well endpoint lies. -/
def windowCuts (x : Window) (off n : Nat) : List (Nat × Nat) :=
  match parseEndpoint x.target off with
  | some (some (.package _ _ a)) => cutRange (n / 1024 + 2) a n
  | _ => []

/-! ## Writes and reads (R243, R244, R248) -/

/-- The statuses of an ACK record. -/
inductive AckStatus where
  | landed | closed | range | perm | noCredit | isolated | noRoute | target
deriving DecidableEq, Repr

/-- The code of a status (R243). -/
def AckStatus.code : AckStatus → Nat
  | .landed => 0 | .closed => 1 | .range => 2 | .perm => 3 | .noCredit => 4 | .isolated => 5 | .noRoute => 6
  | .target => 7

/-- The pump fault of a status at the sender (R243). -/
def ackFault (status : Nat) : FaultCode :=
  if status = 1 then .windowClosed else if status = 2 ∨ status = 3 then .segment else if status = 7 then .reservoir
  else .remoteTimeout

/-- An answer with an ACK record is counted at the answering head where it is a refusal. -/
def countAnswer (d : Dev) (head : Nat) (s : AckStatus) : Dev :=
  let c := txnReg R.AQD_TXN_CNT_A head
  match s with
  | .landed => d
  | .closed => fcnt d c F.AQD_TXN_CNT_A_CLOSED 1
  | _ => fcnt d c F.AQD_TXN_CNT_A_REFUSED 1

/-- The numbers of an ACK flit with one record. -/
def ackNums (head src : Nat) (w : WindowHdr) (n : Nat) (s : AckStatus) : List Nat :=
  [head, src, w.window, w.offset, n - 1, s.code, w.gen]

/-- Answers with an ACK record. -/
def answerAck (d : Dev) (head src : Nat) (w : WindowHdr) (n : Nat) (s : AckStatus) : Dev :=
  sendTo (countAnswer d head s) src 0 .ack (ackNums head src w n s)

/-- A head that cannot be reached answers by the aqueduct that the frame came by (R215, R243). -/
def answerIsolated (d : Dev) (h : FrameHdr) (w : WindowHdr) (n : Nat) : Dev :=
  let d := countAnswer d h.head .isolated
  match h.link with
  | some l => sendOn d (h.head * 8 + l) (dressed d 0 .ack (ackNums h.head h.src w n .isolated) [] 64 64)
  | none => d

/-- Writes of a source to a window that have been accepted and not landed. -/
def acceptedFrom (d : Dev) (src w gen : Nat) : Nat :=
  (d.accepted.filter fun a => a.src == src && a.win == w && a.gen == gen).length

/-- The check of an arriving window frame in the order of R243. -/
def windowCheck (d : Dev) (h : FrameHdr) (w : WindowHdr) (n : Nat) (write : Bool) : Option AckStatus :=
  let x := windowAt d h.head w.window
  if !headReachable d h.head then some .isolated
  else if x.state ≠ 1 || w.gen.val ≠ x.gen then some .closed
  else if x.size < w.offset + n then some .range
  else if !(if write then x.wr else x.rd) then some .perm
  else if write && mgetD x.granted h.src 0 ≤ acceptedFrom d h.src w.window w.gen then some .noCredit
  else none

/-- Relay entries hand an accepted frame to their head's fountain (R264). -/
def relayFrame (d : Dev) (a : Accepted) (vc : Nat) : Dev :=
  (List.range 512).foldl (fun d k =>
    let h := k / 64
    let e := k % 64
    let reg (p : Nat) : Nat := ctl (p + 0x10 * e) (56 + h) 1
    if flag d (reg R.GAT_RLY_WIN) F.GAT_RLY_WIN_VALID && fget d (reg R.GAT_RLY_WIN) F.GAT_RLY_WIN_WINDOW = a.win then
      let x := freshId d
      let f : FtnFrame :=
        { id := x.2, die := 56 + h, block := 0, pumpB := false, rid := 0, relay := some e, desc := relayDesc + k,
          list := fget d (reg R.GAT_RLY_WIN) F.GAT_RLY_WIN_LIST, off := a.off,
          wgen := fget d (reg R.GAT_RLY_GEN) F.GAT_RLY_GEN_WGEN, vc, bytes := a.bytes }
      let k := fountain x.1 h
      setFountain x.1 h { k with incoming := k.incoming ++ [f] }
    else d) d

/-- A window write frame arrives (R243): forwarded, refused, or accepted. -/
def windowWrite (d : Dev) (h : FrameHdr) (w : WindowHdr) (bytes : List Byte) : Dev :=
  arriveElse d h.arrival w.vc .writeFrame [w.vc, w.window, w.gen, w.offset] bytes
    (fun d => answerAck d h.head h.src w bytes.length .noRoute) (fun d => answerIsolated d h w bytes.length) fun d =>
    match windowCheck d h w bytes.length true with
    | some s => answerAck d h.head h.src w bytes.length s
    | none =>
      let x := freshId d
      let a : Accepted :=
        { seq := x.2, head := h.head, src := h.src, win := w.window, gen := w.gen, off := w.offset, vc := w.vc, bytes }
      relayFrame { x.1 with accepted := d.accepted ++ [a] } a w.vc

/-- Bytes that a window has received count at the relay entries that name it. -/
def relayCount (d : Dev) (w n : Nat) : Dev :=
  (List.range 512).foldl (fun d k =>
    let reg := ctl (R.GAT_RLY_WIN + 0x10 * (k % 64)) (56 + k / 64) 1
    if flag d reg F.GAT_RLY_WIN_VALID && fget d reg F.GAT_RLY_WIN_WINDOW = w then
      let r := mgetD d.relays k {}
      relayDone { d with relays := mset d.relays k { r with bytes := r.bytes + n } } (k / 64) (k % 64)
    else d) d

/-- The oldest accepted write of its source and VC may land. -/
def mayLand (l : List Accepted) (n : Nat) : Bool :=
  match l[n]? with
  | none => false
  | some a => !(l.take n).any fun o => o.src == a.src && o.vc == a.vc

/-- An accepted write lands whole, or its target refuses it whole (R244); its credit returns to the pool. -/
def writeLanded (d : Dev) (n : Nat) : Dev :=
  match d.accepted[n]? with
  | none => d
  | some a =>
    let x := window d a.win
    let hdr : WindowHdr :=
      { vcM1 := Fin.ofNat 4 (a.vc - 1), window := Fin.ofNat 4096 a.win, gen := Fin.ofNat 65536 a.gen, offset := Fin.ofNat 1048576 a.off }
    let wait := match parseEndpoint x.target a.off with
      | some (some (.reservoir r)) =>
        (d.stackTab.any fun e => e.2.accepted.any fun o =>
          r / 1024 ≤ o.segment && o.segment ≤ (r + a.bytes.length - 1) / 1024 && o.seq < a.seq)
          || fencedBefore d (r / 2097152) a.seq || fencedBefore d ((r + a.bytes.length - 1) / 2097152) a.seq
      | _ => false
    if !mayLand d.accepted n || wait then d
    else
      let d := { d with accepted := d.accepted.eraseIdx n }
      let spent (y : Window) : Window :=
        if y.gen = a.gen then { y with granted := mset y.granted a.src (mgetD y.granted a.src 0 - 1) } else y
      let d := { setWindow d a.win (spent x) with
                 winCopies := d.winCopies.map fun e => (e.1, if e.1 % 4096 = a.win then spent e.2 else e.2) }
      let d := match targetReady d x a.off a.bytes.length true with
        | none => answerAck (targetRefused d x a.off a.bytes.length true) a.head a.src hdr a.bytes.length .target
        | some (locs, r) =>
          let d := match r with
            | some addr => { d with rsv := memWrite d.rsv addr a.bytes }
            | none => putLocs locs (windowCuts x a.off a.bytes.length) a.bytes d
          relayCount (answerAck (stageLanded d a) a.head a.src hdr a.bytes.length .landed) a.win a.bytes.length
      grantWaiting a.win (window d a.win).waiting.length d

/-- The reads of a window read's reservoir segments are accepted by their base dies, after what they have accepted so far
(R202). -/
def askSegments (ring : Bool) (vc id : Nat) : List (Nat × Nat) → Dev → Dev
  | [], d => d
  | (a, n) :: cs, d =>
    let x := freshId d
    let s := (a / 2097152) % 8
    let k := mgetD x.1.stackTab s {}
    askSegments ring vc id cs (setStack x.1 s { k with accepted := k.accepted ++
      [{ addr := a, len := n, data := none, vc, ring, origin := .window id, seq := x.2 }] })

/-- The window fields of a read's frame. -/
def WinRead.hdr (r : WinRead) : WindowHdr :=
  { vcM1 := Fin.ofNat 4 (r.vc - 1), window := Fin.ofNat 4096 r.win, gen := Fin.ofNat 65536 r.gen, offset := Fin.ofNat 1048576 r.off }

/-- Answers a read with its bytes. -/
def answerRead (d : Dev) (r : WinRead) (bs : List Byte) : Dev :=
  sendTo d r.src r.vc .readResp [r.head, r.src, r.vc, r.win, r.gen, r.off] bs

/-- A read of well bytes is served, or its target refuses it. -/
def serveWellRead (d : Dev) (r : WinRead) : Dev :=
  let x := window d r.win
  match targetReady d x r.off r.len false with
  | none => answerAck (targetRefused d x r.off r.len false) r.head r.src r.hdr r.len .target
  | some (locs, _) =>
    let d := (locs.filterMap fun l => match l with
      | .well pd pb a => some (pd, pb, a / 1024)
      | .bad .. => none).foldl (fun d l =>
        wellParitiesAll d l.1 l.2.1 (2 + b2n r.pumpB) (r.bad.filter fun e => e == .wide l.2.2)) d
    answerRead d r (getLocs d locs (windowCuts x r.off r.len))

/-- A read may be served now: what its source sent before it on its VC has landed (R248). -/
def readTurn (d : Dev) (r : WinRead) : Bool := !d.accepted.any fun a => a.src == r.src && a.vc == r.vc && a.seq < r.id

/-- Reads of wells whose turn has come are served. Reads of reservoir bytes whose segments have all been read are answered; one of
which a segment is refused is refused (R248). -/
def settleReads (d : Dev) : Dev :=
  d.winReads.foldl (fun d r =>
    if originPending d (.window r.id) || (r.well && !readTurn d r) then d
    else
      let d := { d with winReads := d.winReads.filter fun x => x.id != r.id }
      if r.well then serveWellRead d r
      else if r.refused then answerAck d r.head r.src r.hdr r.len .target
      else
        let part (c : Nat × Nat) : List Byte := ((r.got.find? fun g => g.1 == c.1).map Prod.snd).getD []
        answerRead d r ((cutRange (r.len / 1024 + 2) r.addr r.len).flatMap part)) d

/-- A window read request arrives and is accepted, or refused (R248). Writes that its source sent before it on its VC are
served first. `bad` names well rows found in error; the pump of another device that reads
them, A or B, is not in the frame (log entry 98). Reservoir segments are read by their base dies in their order. -/
def windowRead (d : Dev) (h : FrameHdr) (w : WindowHdr) (n : Nat) (pumpB : Bool) (bad : List BadRead) : Dev :=
  arriveElse d h.arrival w.vc .readReq [w.vc, w.window, w.gen, w.offset, n] []
    (fun d => answerAck d h.head h.src w n .noRoute) (fun d => answerIsolated d h w n) fun d =>
    match windowCheck d h w n false with
    | some s => answerAck d h.head h.src w n s
    | none =>
      let x := window d w.window
      let y := freshId d
      let r : WinRead :=
        { id := y.2, head := h.head, src := h.src, vc := w.vc, win := w.window, gen := w.gen, off := w.offset, addr := 0, len := n,
          pumpB, bad }
      match parseEndpoint x.target w.offset with
      | some (some (.reservoir addr)) =>
        if (targetReady d x w.offset n false).isNone then
          answerAck (targetRefused d x w.offset n false) h.head h.src w n .target
        else
          askSegments x.ring w.vc y.2 (cutRange (n / 1024 + 2) addr n) { y.1 with winReads := y.1.winReads ++ [{ r with addr }] }
      | _ => settleReads { y.1 with winReads := y.1.winReads ++ [{ r with well := true }] }

/-- A read response arrives at the pump that asked. -/
def readResp (d : Dev) (h : FrameHdr) (w : WindowHdr) (bytes : List Byte) : Dev :=
  arriveElse d h.arrival w.vc .readResp [w.vc, w.window, w.gen, w.offset] bytes id
    (fun d => answerIsolated d h w bytes.length) fun d =>
    match takeTxn d (.read h.src w.window w.gen w.offset bytes.length) with
    | none => d
    | some (d, t) =>
      match t.origin with
      | .pump die b pb rid =>
        pumpData (travel d (.edge (56 + h.head)) (.square die b) (flitsOf bytes.length)) die b pb rid bytes
      | _ => d

/-- Who sent a write learns that it landed. -/
def originLanded (d : Dev) : Origin → Dev
  | .pump die b pb rid => pumpLanded d die b pb rid
  | .fountain h f t => fntAcceptance d h f t
  | .send id off => mapSend d id fun x => { x with landed := (x.landed ++ [off]).eraseDups }
  | _ => d

/-- Who sent a write or read learns that it was refused. A NACK of a pump's write is counted (R140). -/
def originRefused (d : Dev) (o : Origin) (write : Bool) (status : Nat) : Dev :=
  match o with
  | .pump die b pb rid =>
    let d := if write && status = 1 then
        fcnt d (pumpReg R.PMP_STALL_CNT die b pb) F.PMP_STALL_CNT_NACK 1
      else d
    pumpRefused d die b pb rid (ackFault status)
  | .fountain h f t =>
    if status = 1 then fntTargetRefused d h f t
    else match (fountain d h).held.find? fun x => x.id = f with
      | some x => fntRefuse d h x.desc t x (ackFault status)
      | none => d
  | .send id _ => { d with srv := { d.srv with sends := d.srv.sends.filter fun x => x.id != id } }
  | _ => d

/-- One ACK record arrives from a device. -/
def ackRecord (src : Nat) (d : Dev) (r : AckRecord) : Dev :=
  let n := r.lenM1.val + 1
  match takeTxn d (.write src r.window r.gen r.offset n) with
  | some (d, t) => if r.status.val = 0 then originLanded d t.origin else originRefused d t.origin true r.status
  | none =>
    if r.status.val = 0 then d
    else match takeTxn d (.read src r.window r.gen r.offset n) with
      | some (d, t) => originRefused d t.origin false r.status
      | none => d

/-- An express ACK arrives with up to six records (R240). -/
def ackFlit (d : Dev) (h : ExpressHdr) (l : List AckRecord) : Dev :=
  arriveAt d h.arrival 0 .ack (l.flatMap fun r => [r.window.val, r.offset.val, r.lenM1.val, r.status.val, r.gen.val]) [] fun d =>
    (l.take 6).foldl (ackRecord (bits h.stamp.toNat 0 16)) d

/-! ## Gates (R250) -/

/-- The STATUS of a GATE_ACK for a fault. -/
def gateStatus : Option FaultCode → Nat
  | none => 0
  | some .gateOwner => 2
  | some .gateUnderflow => 3
  | some _ => 4

/-- A gate operation arrives, is performed at the gate's home and answered (R250). A gate that is not there, or whose
REMOTE_EN is 0, answers REMOTE_DISABLED. -/
def gateOpFlit (d : Dev) (h : ExpressHdr) (xid gate opc v : Nat) : Dev :=
  arriveAt d h.arrival 0 .gateOp [h.die, h.stamp.toNat, xid, gate, opc, v] [] fun d =>
    let fa := bits h.stamp.toNat 0 16
    let die := h.die.val
    let answer (d : Dev) (s : Nat) : Dev := sendTo d fa 0 .gateAck [leaveBy d fa, fa, xid, s] [] die (bits h.stamp.toNat 16 6)
    if !gateExists die gate then answer d 1
    else if !flag d (gateReg R.GAT_CTRL die gate) F.GAT_CTRL_REMOTE_EN then
      answer (fcnt d (ctl R.GAT_BANK_STATUS die 0) F.GAT_BANK_STATUS_REMOTE_REFUSED 1) 1
    else
      match gateOpOf opc v with
      | none => answer d 0
      | some op =>
        let r := performGate d die gate op .fabric
        answer r.1 (gateStatus r.2)

/-- The fault of a GATE_ACK status at the sender's die. -/
def gateAckFault : Nat → Option FaultCode
  | 1 | 2 => some .gateOwner
  | 3 => some .gateUnderflow
  | 4 => some .gateOverflow
  | _ => none

/-- A signal of the step is performed or has ended (R194). -/
def signalEnded (d : Dev) (s : SignalId) : Dev :=
  if s.step then
    let y := dieSt d s.die
    setDie d s.die { y with signals := y.signals - 1 }
  else d

/-- A gate acknowledgement arrives; a fault is recorded at the sender's die. -/
def gateAckFlit (d : Dev) (h : ExpressHdr) (xid status : Nat) : Dev :=
  arriveAt d h.arrival 0 .gateAck [xid, status] [] fun d =>
    match takeTxn d (.gate xid) with
    | none => d
    | some (d, t) =>
      match t.origin with
      | .signal s =>
        match gateAckFault status with
        | some f => signalFault (signalEnded d s) s f
        | none => signalEnded d s
      | _ => d

/-! ## Other express flits -/

/-- A message part arrives (R251). -/
def mbxPartFlit (d : Dev) (h : ExpressHdr) (xid m part : Nat) (bytes : List Byte) : Dev :=
  arriveAt d h.arrival 0 .mbxPart [h.die, h.stamp.toNat, xid, m, part] bytes fun d =>
    mbxPart d h.die m h.stamp.toNat xid part bytes

/-- A mailbox answer arrives. -/
def mbxAckFlit (d : Dev) (h : ExpressHdr) (xid status : Nat) : Dev :=
  arriveAt d h.arrival 0 .mbxAck [xid, status] [] fun d => mbxAck d xid status

/-- The groups that this device is a member of. -/
def memberOf (d : Dev) (num : Nat) : Bool :=
  d.groups.any fun g => g.num == num && g.committed && g.members.contains (ownFa d)

/-- What another device does aborts the running step with ABORT_REMOTE, recorded at the coordinating die (R191, R193). -/
def abortRemote (d : Dev) : Dev :=
  if d.step.running then
    fault d d.coord { code := .abortRemote, unit := 0xC, block := 0, bundle := 0, cycle := dieCycle d d.coord }
  else d

/-- An express ABORT arrives (R193): the step of that number, run for that group, aborts with ABORT_REMOTE. -/
def abortFlit (d : Dev) (h : ExpressHdr) (step group : Nat) : Dev :=
  arriveAt d h.arrival 0 .abortFrame [step, group] [] fun d =>
    if d.step.number % pow2 64 = step && memberOf d group && stepOf d group then abortRemote d else d

/-- An express flit with an unknown operation is dropped and counted (R240). -/
def expressDrop (d : Dev) (head eop : Nat) : Dev :=
  if 1 ≤ eop && eop ≤ 0x0A then d else fcnt d (txnReg R.AQD_TXN_CNT_B head) F.AQD_TXN_CNT_B_DROPPED 1

/-! ## Ends without an answer (R249) -/

/-- A transaction ends REMOTE_TIMEOUT at its sender. -/
def txnEnded (d : Dev) (t : Txn) : Dev :=
  let d := countTimeout d t.head
  match t.origin with
  | .pump die b pb rid => pumpRefused d die b pb rid .remoteTimeout
  | .signal s => signalFault (signalEnded d s) s .remoteTimeout
  | .buffer c => txDone d c 4
  | .send id off => mapSend d id fun x => { x with todo := x.todo ++ [off] }
  | _ => d

/-- Fountain deliveries have no timeout (R156). -/
def exempt (o : Origin) : Bool := match o with
  | .fountain .. => true
  | _ => false

/-- An outstanding transaction has no answer within AQD_TXN_TIMEOUT. -/
def transactionTimeout (d : Dev) (n : Nat) : Dev :=
  match d.txns[n]? with
  | none => d
  | some t =>
    if exempt t.origin || d.tally < t.start + txnTimeout d t.head then d
    else txnEnded { d with txns := d.txns.eraseIdx n } t

/-- The transaction whose frame a record is. -/
def emitTxn (e : Emit) : Option TxnKind :=
  match e.kind, e.nums with
  | .writeFrame, [_, fa, _, win, gen, off] => some (.write fa win gen off e.bytes.length)
  | .readReq, [_, fa, _, win, gen, off, n] => some (.read fa win gen off n)
  | .gateOp, _ :: _ :: _ :: _ :: xid :: _ => some (.gate xid)
  | .mbxPart, _ :: _ :: _ :: _ :: xid :: _ => some (.mbx xid)
  | _, _ => none

/-- A credit request is returned undelivered: it has ended REMOTE_TIMEOUT, and so do the pumps' writes that wait for its credits.
Fountains, whose deliveries have no timeout, and what firmware sends ask anew. -/
def creditReqReturned (d : Dev) (xid : Nat) : Dev :=
  match d.credits.find? fun c => c.asked == some xid with
  | none => d
  | some c =>
    let d := countTimeout (setCredit d { c with asked := none }) c.head
    let d := offerAll (refuseWaiters c.fa c.win c.gen .remoteTimeout 4096 d) c.head false
    if d.srv.sends.any fun x => x.fa == c.fa && x.win == c.win && x.gen == c.gen then askCredit d c.head c.fa c.win c.gen else d

/-- A frame is returned undelivered (R226): its transaction ends at once. A fountain offers its frame anew. -/
def undelivered (d : Dev) (e : Emit) : Dev :=
  match emitTxn e with
  | none => match e.kind, e.nums with
    | .creditReq, _ :: _ :: xid :: _ => creditReqReturned d xid
    | _, _ => d
  | some k =>
    match takeTxn d k with
    | none => d
    | some (d, t) =>
      match t.origin with
      | .fountain h f tgt =>
        match (fountain d h).held.find? fun x => x.id = f with
        | some x => setFrame d h { x with offered := x.offered.set tgt false }
        | none => d
      | _ => txnEnded d t

/-- A HELLO of the far end arrives (R253): the link runs at the highest version that both ends support. Without one the
aqueduct stays in HELLO and counts a retraining, and the exchange is repeated every 100 ms. A different peer returns the unacknowledged frames (R226). -/
def helloArrives (d : Dev) (g : Nat) (m : HelloMsg) : Dev :=
  if trainState d g ≠ 4 || ethernet d g then d
  else
    let v := min 3 m.verMax
    if v < max 2 m.verMin then
      countRetrain (setAqd d g { aqd d g with noVersion := true }) g
    else
      let p := aqdReg R.AQD_PEER g
      let other := !(fget d p F.AQD_PEER_FA == m.fa.val && fget d p F.AQD_PEER_AQ == m.aqd.val)
      let a := aqd d g
      let back := if other then a.unacked ++ a.queue else []
      let a := if other then { a with unacked := [], express := [], waiting := [], credits := [] } else a
      let d := setAqd d g { a with greeted := true, noVersion := false, version := v }
      let d := fsets d p [(F.AQD_PEER_FA, m.fa), (F.AQD_PEER_AQ, m.aqd)]
      back.foldl undelivered d

end Sys2Proof.Machine
end

