-- ==== Sys2Proof/Machine/Global.lean ====
section
/-! DEFINITION. Machine/Global: barriers as flits bring them (R260, R262), snapshots (R266), scoped reset (R268, R269). -/

namespace Sys2Proof.Machine

/-! ## Windows, descriptors and frames of a group (log entry 40) -/

/-- The devices that have sent writes to a window, or asked it for credits. -/
def windowFas (d : Dev) (w : Nat) : List Nat :=
  let x := window d w
  (x.granted.filter fun e => 0 < e.2).map Prod.fst ++ x.waiting.map CreditWait.fa
    ++ (d.accepted.filter fun a => a.win == w).map Accepted.src ++ (d.winReads.filter fun r => r.win == w).map WinRead.src

/-- A window is the group's. -/
def windowOf (d : Dev) (num w : Nat) : Bool := groupsOwn d num (windowFas d w)

/-- A frame of a fountain is the group's, by the targets of its descriptor, or of its list where it waits. -/
def frameOf (d : Dev) (h num : Nat) (f : FtnFrame) : Bool :=
  groupsOwn d num (match mget (fountain d h).descs f.desc with
    | some y => y.entries.map (fntFa d)
    | none => listFas d h f.list)

/-- A pump's descriptor is the group's. -/
def itemOf (d : Dev) (num : Nat) (i : PumpItem) : Bool := groupsOwn d num (descFas d i.desc)

/-! ## Snapshots (R266) -/

/-- The snapshot of a slot. -/
def snapOf (d : Dev) (key : Nat) : Option Snapshot := d.snaps.find? fun s => s.slot == key

/-- A snapshot goes on. -/
def setSnap (d : Dev) (key : Nat) (p : SnapPhase) : Dev :=
  { d with snaps := d.snaps.map fun s => if s.slot = key then { s with phase := p } else s }

/-- A snapshot sets HOLD of its group's windows. -/
def holdWindows (d : Dev) (s : Snapshot) : Dev :=
  (d.windows.filter fun e => e.2.state == 1 && windowOf d s.group e.1).foldl (fun d e =>
    let x := window d e.1
    fset (setWindow d e.1 { x with held := (x.held ++ [s.slot]).eraseDups }) (winReg R.AQD_WIN_CTRL e.1) F.AQD_WIN_CTRL_HOLD 1) d

/-- A snapshot ends: HOLD of its windows clears, unless another snapshot holds them or they first reopen (R269), waiting requests
are granted, and what it has kept back goes out. -/
def endSnapshot (d : Dev) (key : Nat) : Dev :=
  let d := { d with snaps := d.snaps.filter fun s => s.slot != key }
  let left := d.snaps.map Snapshot.slot
  let d := (d.windows.filter fun e => e.2.state == 1).foldl (fun d e => unhold d e.1 left) d
  askKept (d.windows.foldl (fun d e => grantWaiting e.1 e.2.waiting.length d) d)

/-! ## Scoped reset (R268) -/

/-- The ring entries from a place on to TAIL. -/
def ringEntries (d : Dev) (die b : Nat) (pb : Bool) : List (List Byte) :=
  let base := fget d (pumpReg R.PMP_RING_BASE die b pb) F.PMP_RING_BASE_BASE * 64
  let size := pow2 (ringLog d die b pb)
  let hd := fget d (pumpReg R.PMP_RING_HEAD die b pb) F.PMP_RING_HEAD_HEAD
  let tl := fget d (pumpReg R.PMP_RING_TAIL die b pb) F.PMP_RING_TAIL_TAIL
  (List.range ((tl + size - hd) % size)).map fun i => hallRead d die (base + 64 * ((hd + i) % size)) 64

/-- The group's entries of a ring that have not started are discarded; the others close up behind HEAD, and TAIL follows. -/
def discardRing (die b num : Nat) (d : Dev) (pb : Bool) : Dev :=
  let l := ringEntries d die b pb
  let stays (bs : List Byte) : Bool := match parseDesc true [] (ofLeBytes bs) with
    | .ok y => !groupsOwn d num (descFas d y)
    | _ => true
  let left := l.filter stays
  if left.length = l.length then d
  else
    let base := fget d (pumpReg R.PMP_RING_BASE die b pb) F.PMP_RING_BASE_BASE * 64
    let size := pow2 (ringLog d die b pb)
    let hd := fget d (pumpReg R.PMP_RING_HEAD die b pb) F.PMP_RING_HEAD_HEAD
    let d := (List.range left.length).foldl (fun d i =>
      hallWrite d die (base + 64 * ((hd + i) % size)) (left.getD i [])) d
    fset d (pumpReg R.PMP_RING_TAIL die b pb) F.PMP_RING_TAIL_TAIL ((hd + left.length) % size)

/-- The group's sluice and ring descriptors of a block that have not started are discarded. -/
def discardBlock (num : Nat) (d : Dev) (g : Nat) : Dev :=
  let die := g / 24
  let b := g % 24
  let x := blk d die b
  let stays (i : PumpItem) : Bool := i.started || !itemOf d num i
  let cut (p : Pump) : Pump := { p with sluice := p.sluice.filter stays, ring := p.ring.filter stays }
  [false, true].foldl (discardRing die b num) (setBlk d die b { x with pumpA := cut x.pumpA, pumpB := cut x.pumpB })

/-- A fountain abandons the group's frames; each descriptor of theirs ends with REMOTE_TIMEOUT. -/
def abandonFountain (num : Nat) (d : Dev) (h : Nat) : Dev :=
  let k := fountain d h
  let gone := (k.held ++ k.incoming).filter (frameOf d h num)
  let goes (id : Nat) : Bool := gone.any fun f => f.id == id
  let mine (o : Origin) : Bool := match o with
    | .fountain g f _ => g == h && goes f
    | _ => false
  let held := k.held.filter fun f => !goes f.id
  let incoming := k.incoming.filter fun f => !goes f.id
  let inUse (n : Nat) : Bool := (held ++ incoming).any fun f => f.desc == n
  let spent (n : Nat) : Bool := !inUse n && gone.any fun f => f.desc == n
  let d := setFountain d h { k with held, incoming, descs := k.descs.filter fun y => !spent y.1,
                                    stalled := k.stalled.filter fun s => !spent s.1 }
  let d := { d with txns := d.txns.filter fun t => !mine t.origin }
  gone.foldl (fun d f => refuseFrame d f .remoteTimeout) d

/-- The local waiters of a slot are released with FAIL, and its SEQ is 0 (R262, R268). Counts that its arrive gate keeps are the
next barrier's. -/
def failSlot (d : Dev) (h s : Nat) : Dev :=
  let d := fset d (barReg R.GAT_BAR_STATE h s) F.GAT_BAR_STATE_SEQ 0
  let d := setBarSlot (fsets d (barReg R.GAT_BAR_ARRIVED h s) [(F.GAT_BAR_ARRIVED_LOCAL, 0), (F.GAT_BAR_ARRIVED_SENT, 0)]) h s {}
  if flag d (barReg R.GAT_BAR_CTRL h s) F.GAT_BAR_CTRL_VALID then
    let d := barSignal d h s 1
    barEngine { d with barEvents := d.barEvents ++ [(true, h * 64 + s, 1)] } h s
  else d

/-- A member quiesces (R268). `key` is the reset slot itself, which stays. A snapshot of the group ends as its slot is released
with FAIL (R269). -/
def quiesce (d : Dev) (key : Nat) : Dev :=
  let num := slotGroup d key
  let mine := stepOf d num
  let d := if mine then abortRemote d else d
  let d := (d.windows.filter fun e => windowOf d num e.1).foldl (fun d e => closeWindow d e.1) d
  let d := d.blocks.foldl (fun d e => discardBlock num d e.1) d
  let d := (List.range 8).foldl (abandonFountain num) d
  let d := ((List.range 512).filter fun k => k != key && slotInUse d k && slotGroup d k == num).foldl
    (fun d k => failSlot d (k / 64) (k % 64)) d
  if mine then resetProgramGates d else d

/-! ## What firmware does as barriers go on (R266, R268) -/

/-- The local part of a slot with SNAPSHOT set is complete: wave 1 has been arrived at, and the member holds back. -/
def snapArrive (d : Dev) (key pay : Nat) : Dev :=
  if bit pay 2 && (snapOf d key).isNone then
    { d with snaps := d.snaps ++ [{ slot := key, group := slotGroup d key, phase := .waved }] }
  else d

/-- A wave of a snapshot has been released, or its slot has been released with FAIL while it drains (R266, R269). Firmware takes
FAIL out of the slot's payload. -/
def waveReleased (d : Dev) (key pay : Nat) (s : Snapshot) : Dev :=
  match s.phase with
  | .waved => if bit pay 0 then endSnapshot d key else holdWindows (setSnap d key (.draining d.tally)) s
  | .draining _ => if bit pay 0 then endSnapshot d key else d
  | .arrived =>
    let p := barReg R.GAT_BAR_PAYLOAD (key / 64) (key % 64)
    endSnapshot (emit (wr d p (BitVec.ofNat 32 (setBits (rd d p).toNat 0 1 0))) .snapshotDone [key, pay % 2]) key

/-- A slot has been released: a wave of a snapshot, or a scoped reset. -/
def slotReleased (d : Dev) (key pay : Nat) : Dev :=
  let d := match snapOf d key with
    | some s => waveReleased d key pay s
    | none => d
  if bit pay 1 then quiesce d key else d

/-- Firmware acts on what barrier engines have done. -/
def afterBarriers : Nat → Dev → Dev
  | 0, d => d
  | n + 1, d =>
    match d.barEvents with
    | [] => d
    | (rel, key, pay) :: rest =>
      let d := { d with barEvents := rest }
      afterBarriers n (if rel then slotReleased d key pay else snapArrive d key pay)

/-- As `afterBarriers`, for as many events as there are and may follow. -/
def settleBarriers (d : Dev) : Dev := afterBarriers (2 * d.barEvents.length + 512) d

/-- Every ring descriptor in service and every fountain delivery of the group has completed, and every window of it reads
GRANTED = 0. -/
def drained (d : Dev) (num : Nat) : Bool :=
  (d.blocks.all fun e => (e.2.pumpA.ring ++ e.2.pumpB.ring).all fun i => !itemOf d num i)
    && (d.fountains.all fun e => (e.2.held ++ e.2.incoming).all fun f => !frameOf d e.1 num f)
    && d.windows.all fun e => e.2.outstanding == 0 || !windowOf d num e.1

/-- The member arrives for wave 2: a SIGNAL on the slot's arrive gate. -/
def waveTwo (d : Dev) (key : Nat) : Dev :=
  let h := key / 64
  let g := fget d (barReg R.GAT_BAR_CTRL h (key % 64)) F.GAT_BAR_CTRL_ARRIVE_GATE
  settleBarriers (performGate (setSnap d key .arrived) (56 + h) g (.signal 1) .engine).1

/-- A snapshot's drain has ended (R266 step 3). -/
def drainEnds (d : Dev) (s : Snapshot) : Dev :=
  match s.phase with
  | .draining _ => if drained d s.group then waveTwo d s.slot else d
  | _ => d

/-- A snapshot's drain has not ended within AQD_TXN_TIMEOUT of the wave-1 release: the member arrives with FAIL set. -/
def drainFails (d : Dev) (s : Snapshot) : Dev :=
  match s.phase with
  | .draining t =>
    if drained d s.group then waveTwo d s.slot
    else if t + txnTimeout d (s.slot / 64) ≤ d.tally then
      let p := barReg R.GAT_BAR_PAYLOAD (s.slot / 64) (s.slot % 64)
      waveTwo (wr d p (rd d p ||| 1)) s.slot
    else d
  | _ => d

/-- The drains of this member that have ended. -/
def snapshotDrainDone (d : Dev) : Dev := d.snaps.foldl drainEnds d

/-- The drains of this member whose time is over. -/
def snapshotDrainTimeout (d : Dev) : Dev := d.snaps.foldl drainFails d

/-! ## Barrier flits (R260) -/

/-- A BARRIER flit is dropped and counted. -/
def barDrop (d : Dev) (h : Nat) : Dev := fcnt d (ctl R.GAT_BAR_STATUS (56 + h) 0) F.GAT_BAR_STATUS_DROPPED 1

/-- A flit names the slot's group and generation. -/
def barMatches (d : Dev) (h s group ggen : Nat) : Bool :=
  flag d (barReg R.GAT_BAR_CTRL h s) F.GAT_BAR_CTRL_VALID
    && fget d (barReg R.GAT_BAR_PARENT h s) F.GAT_BAR_PARENT_GROUP == group
    && fget d (barReg R.GAT_BAR_STATE h s) F.GAT_BAR_STATE_GGEN == ggen

/-- An ARRIVE arrives from a child. -/
def barArrive (d : Dev) (x : ExpressHdr) (s group ggen seq pay : Nat) : Dev :=
  arriveAt d x.arrival 0 .barrierArrive [s, group, ggen, seq, pay] [] fun d =>
    if x.die.val < 56 then d
    else
      let h := x.die.val - 56
      let fa := bits x.stamp.toNat 0 16
      let cur := fget d (barReg R.GAT_BAR_STATE h s) F.GAT_BAR_STATE_SEQ
      let b := barSlot d h s
      if !barMatches d h s group ggen then barDrop d h
      else if seq = cur then
        if b.cur.contains fa then barDrop d h
        else
          settleBarriers (barEngine (setBarSlot d h s { b with cur := b.cur ++ [fa], curPay := b.curPay ||| pay }) h s)
      else if seq = (cur + 1) % 65536 then
        if b.next.contains fa then barDrop d h
        else setBarSlot d h s { b with next := b.next ++ [fa], nextPay := b.nextPay ||| pay }
      else barDrop d h

/-- A RELEASE arrives from the parent. -/
def barReleaseFlit (d : Dev) (x : ExpressHdr) (s group ggen seq pay : Nat) : Dev :=
  arriveAt d x.arrival 0 .barrierRelease [s, group, ggen, seq, pay] [] fun d =>
    if x.die.val < 56 then d
    else
      let h := x.die.val - 56
      if !barMatches d h s group ggen || fget d (barReg R.GAT_BAR_STATE h s) F.GAT_BAR_STATE_SEQ ≠ seq then barDrop d h
      else settleBarriers (barEngine (barRelease d h s pay) h s)

/-- An express flit that nothing knows: an unknown operation (R240), or a BARRIER of an unknown type or slot (R260), counted at the
barrier engine of the head that it names. One for another device is forwarded. -/
def flitDrop (d : Dev) (x : ExpressHdr) (eop : Nat) (args : List Byte) : Dev :=
  arriveAt d x.arrival 0 .expressFlit [eop] args fun d =>
    if eop = 9 then (if 56 ≤ x.die.val then barDrop d (x.die.val - 56) else d) else expressDrop d x.head eop

/-- A write of GAT_BAR_STATE: the new generation discards arrivals, SEQ is 0, and waiters are released with FAIL (R262). -/
def barGenWrite (d : Dev) (h s v : Nat) : Dev :=
  settleBarriers (failSlot (fset d (barReg R.GAT_BAR_STATE h s) F.GAT_BAR_STATE_GGEN (bits v 16 16)) h s)

/-- The registers of a slot's apply group. -/
def barGroup (h s : Nat) : List Nat :=
  [R.GAT_BAR_CTRL, R.GAT_BAR_PARENT, R.GAT_BAR_DIES_LO, R.GAT_BAR_DIES_HI].map fun p => barReg p h s

/-- A slot's group applies at an idle cycle in which it holds no arrival. -/
def barSlotApply (d : Dev) (h s : Nat) : Dev :=
  let a := barReg R.GAT_BAR_ARRIVED h s
  let b := barSlot d h s
  if flag d a F.GAT_BAR_ARRIVED_APPLY && b.cur.isEmpty && b.next.isEmpty && !flag d a F.GAT_BAR_ARRIVED_LOCAL then
    let d := applyShadows d (barGroup h s)
    settleBarriers (barEngine (fsets d a [(F.GAT_BAR_ARRIVED_APPLY, 0), (F.GAT_BAR_ARRIVED_PEND, 0)]) h s)
  else d

end Sys2Proof.Machine
end

