-- ==== Sys2Proof/Machine/Serving.lean ====
section
/-! DEFINITION. Machine/Serving: the serving engine (R293 to R309), token records and speculation (R310 to R322), paused
conversations (R209 to R214). -/

namespace Sys2Proof.Machine

/-- A register of the serving engine, which has one home whichever die coordinates (R327). -/
abbrev srvReg (place : Nat) : Nat := ctl place 0 0

/-- A register of a model table entry. -/
abbrev modelReg (place m : Nat) : Nat := ctlSel place 0 0 m

/-- A number of the configuration record; what has not been read is as erased flash (R346). -/
def cfgNat (d : Dev) (off n : Nat) : Nat :=
  ofLeBytes ((List.range n).map fun i => d.boot.config.getD (off + i) 0xFF)

/-- The default time-to-live in seconds. -/
def defaultTtl (d : Dev) : Nat :=
  let v := cfgNat d 8 4
  if v = pow2 32 - 1 then 3600 else min v 2592000

/-- The numeric edition of the device. -/
def edition (d : Dev) : Nat := fget d (ctl R.DIE_EDITION 0 0) F.DIE_EDITION_EDITION

/-! ## Text (R273, R295) -/

/-- The length of the character that a lead byte begins; 0 where none begins. -/
def utf8Len (b : Nat) : Nat :=
  if b < 0x80 then 1 else if 0xC2 ≤ b ∧ b < 0xE0 then 2 else if 0xE0 ≤ b ∧ b < 0xF0 then 3
  else if 0xF0 ≤ b ∧ b < 0xF5 then 4 else 0

/-- The second byte of a character is in the range that its lead byte allows. -/
def utf8Second (lead b : Nat) : Bool :=
  if lead = 0xE0 then 0xA0 ≤ b && b < 0xC0 else if lead = 0xED then 0x80 ≤ b && b < 0xA0
  else if lead = 0xF0 then 0x90 ≤ b && b < 0xC0 else if lead = 0xF4 then 0x80 ≤ b && b < 0x90
  else 0x80 ≤ b && b < 0xC0

/-- The text is valid UTF-8. -/
def utf8Valid : Nat → List Byte → Bool
  | 0, bs => bs.isEmpty
  | n + 1, bs =>
    match bs with
    | [] => true
    | b :: rest =>
      let k := utf8Len b.toNat
      let tail := rest.take (k - 1)
      0 < k && tail.length = k - 1 && (match tail with
        | [] => true
        | c :: cs => utf8Second b.toNat c.toNat && cs.all fun x => 0x80 ≤ x.toNat && x.toNat < 0xC0)
        && utf8Valid n (rest.drop (k - 1))

/-- Splits text after its last whole character. -/
def utf8Split (bs : List Byte) : List Byte × List Byte :=
  let n := bs.length
  let cut := (List.range (min 3 n)).find? fun k =>
    match bs[n - 1 - k]? with
    | some b => k + 1 < utf8Len b.toNat && 0xC0 ≤ b.toNat
    | none => false
  match cut with
  | some k => (bs.take (n - 1 - k), bs.drop (n - 1 - k))
  | none => (bs, [])

/-! ## The tokenizer shard (R272, R273) -/

/-- The reservoir address of a byte of a run list. -/
def runAddr : List (Nat × Nat) → Nat → Nat
  | [], _ => 0
  | (p, c) :: r, off => if off < c * 2097152 then p * 2097152 + off else runAddr r (off - c * 2097152)

/-- Bytes of a shard that lies in pages. -/
def runBytes (d : Dev) (l : List (Nat × Nat)) (off n : Nat) : List Byte :=
  (List.range n).map fun i => memByte d.epoch unitRsv d.rsv (runAddr l (off + i))

/-- The number at a place of such a shard. -/
def runNat (d : Dev) (l : List (Nat × Nat)) (off n : Nat) : Nat := ofLeBytes (runBytes d l off n)

/-- A model. -/
def model (d : Dev) (m : Nat) : Model := mgetD d.srv.models m {}

/-- Stores a model. -/
def setModel (d : Dev) (m : Nat) (x : Model) : Dev := { d with srv := { d.srv with models := mset d.srv.models m x } }

/-- The record of an epoch of a model that is active or the previous one. -/
def epochOf (d : Dev) (m epoch : Nat) : Option EpochRec :=
  let x := model d m
  [x.active, x.prev].findSome? fun e => e.bind fun r => if r.epoch = epoch then some r else none

/-- Where the tokenizer shard of an epoch lies. -/
def tokRuns (e : EpochRec) : List (Nat × Nat) :=
  ((e.manifest.shards.find? fun s => s.kind = 3).map (pageRuns e.manifest)).getD []

/-- The size of the vocabulary. -/
def vocab (d : Dev) (l : List (Nat × Nat)) : Nat := runNat d l 8 4
/-- The number of merge entries. -/
def mergeCount (d : Dev) (l : List (Nat × Nat)) : Nat := runNat d l 12 4
/-- The end tokens. -/
def endTokens (d : Dev) (l : List (Nat × Nat)) : List Nat :=
  (List.range (min 16 (runNat d l 7 1))).map fun i => runNat d l (16 + 4 * i) 4

/-- The string of a token and its flags. -/
def tokenString (d : Dev) (l : List (Nat × Nat)) (t : Nat) : List Byte × Nat :=
  let e := 128 + 8 * t
  let pool := 128 + 8 * vocab d l + 12 * mergeCount d l
  (runBytes d l (pool + runNat d l e 4) (runNat d l (e + 4) 2), runNat d l (e + 6) 2)

/-- The BYTE token of a byte. -/
def byteToken (d : Dev) (l : List (Nat × Nat)) (b : Byte) : Nat :=
  ((List.range (vocab d l)).find? fun t =>
    let s := tokenString d l t
    bit s.2 0 && s.1 == [b]).getD 0

/-- The merge table in rank order. -/
def mergeTable (d : Dev) (l : List (Nat × Nat)) : List (Nat × Nat × Nat) :=
  (List.range (mergeCount d l)).map fun i =>
    let o := 128 + 8 * vocab d l + 12 * i
    (runNat d l o 4, runNat d l (o + 4) 4, runNat d l (o + 8) 4)

/-- Two adjacent tokens form the pair. -/
def hasPair (a b : Nat) : List Nat → Bool
  | x :: y :: r => (x == a && y == b) || hasPair a b (y :: r)
  | _ => false

/-- The leftmost occurrence of a pair is replaced. -/
def mergeFirst (a b c : Nat) : List Nat → List Nat
  | x :: y :: r => if x = a ∧ y = b then c :: r else x :: mergeFirst a b c (y :: r)
  | l => l

/-- Merges while a pair has an entry, lowest rank first. -/
def mergeAll (table : List (Nat × Nat × Nat)) : Nat → List Nat → List Nat
  | 0, l => l
  | n + 1, l =>
    match table.find? fun m => hasPair m.1 m.2.1 l with
    | none => l
    | some m => mergeAll table n (mergeFirst m.1 m.2.1 m.2.2 l)

/-- The tokens of a TEXT_IN payload, or none where it is not valid UTF-8. -/
def encodeText (d : Dev) (l : List (Nat × Nat)) (text : List Byte) : Option (List Nat) :=
  if !utf8Valid text.length text then none
  else
    let text := if bit (runNat d l 6 1) 0 && text.any (fun b => 0x80 ≤ b.toNat) then nfc text else text
    let bytes := text.map (byteToken d l)
    some (mergeAll (mergeTable d l) bytes.length bytes)

/-! ## Request records (R294, R310) -/

/-- A request record. -/
structure Req where
  model : Nat
  textIn : Bool
  textOut : Bool
  resume : Bool
  keep : Bool
  reqId : Nat
  conv : Nat
  maxTokens : Nat
  deadlineUs : Nat
  ttl : Nat
  seed : Nat
  sampling : List Byte
  stops : List Nat
  payload : List Byte
deriving DecidableEq, Repr

/-- An FP32 code between +0.0 (or −0.0) and a largest one. -/
def fp32UpTo (c hi : Nat) : Bool := c ≤ hi || c == 0x80000000

/-- SAMPLING is in range (R310). -/
def samplingOk (s : List Byte) : Bool :=
  let w (k : Nat) : Nat := numAt s (4 * k) 4
  fp32UpTo (w 0) 0x47800000 && w 1 ≤ 4096 && fp32UpTo (w 2) 0x3F800000 && fp32UpTo (w 3) 0x3F800000
    && (fp32UpTo (w 4) 0 || (0x3C800000 ≤ w 4 && w 4 ≤ 0x42800000))
    && w 5 % pow2 31 ≤ 0x42800000 && w 6 % pow2 31 ≤ 0x42800000
    && numAt s 28 1 < 2 && numAt s 29 1 ≤ 7 && numAt s 30 2 = 0

/-- A request record, or none where it breaks a rule of R294 that no model is needed for. It may be padded to a multiple of 4
bytes (R293). -/
def parseReq (bs : List Byte) : Option Req :=
  let flags := numAt bs 7 1
  let stops := numAt bs 84 2
  let n := numAt bs 88 4
  let total := 128 + 4 * stops + n
  if bs.length < 128 ∨ numAt bs 0 4 ≠ 0x5152545A ∨ numAt bs 4 2 ≠ 1 ∨ 64 ≤ numAt bs 6 1 ∨ 16 ≤ flags
      ∨ numAt bs 32 4 = 0 ∨ 16777216 < numAt bs 32 4 ∨ 16 < stops ∨ numAt bs 86 2 ≠ 0 ∨ 67108864 < n
      ∨ numAt bs 92 36 ≠ 0 ∨ bs.length < total ∨ (total + 3) / 4 * 4 < bs.length then none
  else if !samplingOk ((bs.drop 52).take 32) || (!bit flags 0 && n % 4 ≠ 0) then none
  else
    some { model := numAt bs 6 1, textIn := bit flags 0, textOut := bit flags 1, resume := bit flags 2,
           keep := bit flags 3, reqId := numAt bs 8 8, conv := numAt bs 16 16, maxTokens := numAt bs 32 4,
           deadlineUs := numAt bs 36 4, ttl := numAt bs 40 4, seed := numAt bs 44 8,
           sampling := (bs.drop 52).take 32, stops := groupLe 4 stops (bs.drop 128),
           payload := (bs.drop (128 + 4 * stops)).take n }

/-! ## Statuses and records (R295, R309) -/

/-- The statuses of R309. -/
inductive Status where
  | complete | cancelled | deadline | numeric | fault | epoch | refused (reason : Nat) | notFound
deriving DecidableEq, Repr

/-- Status code and refusal reason. -/
def Status.codes : Status → Nat × Nat
  | .complete => (0, 0) | .cancelled => (1, 0) | .deadline => (2, 0) | .numeric => (3, 0) | .fault => (4, 0)
  | .epoch => (5, 0) | .refused r => (6, r) | .notFound => (7, 0)

/-- The counter of a status. -/
def countEnd (d : Dev) (s : Status) : Dev :=
  match s with
  | .complete => fcnt d (srvReg R.SRV_END_CNT_A) F.SRV_END_CNT_A_COMPLETE 1
  | .cancelled => fcnt d (srvReg R.SRV_END_CNT_A) F.SRV_END_CNT_A_CANCELLED 1
  | .deadline => fcnt d (srvReg R.SRV_END_CNT_B) F.SRV_END_CNT_B_DEADLINE 1
  | .numeric => fcnt d (srvReg R.SRV_END_CNT_B) F.SRV_END_CNT_B_NUMERIC 1
  | .fault => fcnt d (srvReg R.SRV_END_CNT_C) F.SRV_END_CNT_C_FAULT 1
  | .epoch => fcnt d (srvReg R.SRV_END_CNT_C) F.SRV_END_CNT_C_EPOCH 1
  | .refused _ => fcnt d (srvReg R.SRV_END_CNT_D) F.SRV_END_CNT_D_REFUSED 1
  | .notFound => fcnt d (srvReg R.SRV_END_CNT_D) F.SRV_END_CNT_D_NOT_FOUND 1

/-- How a connection is named in a record sent. -/
def Conn.nums : Conn → List Nat
  | .http a c s => [0, a, c, s]
  | .fabric fa => [1, fa]
  | .relay fa s => [2, fa, s]

/-- A RESPONSE frame to a front end: they are numbered, for each front end in its own sequence (R299). -/
def responseFrame (d : Dev) (fa : Nat) (kind : EmitKind) (bytes : List Byte) : Dev :=
  let n := mgetD d.srv.responses fa 0
  let d := { d with srv := { d.srv with responses := mset d.srv.responses fa ((n + 1) % 65536) } }
  sendTo d fa 5 kind [leaveBy d fa, fa, n] bytes

/-- A record padded to a multiple of 4 bytes (R293). -/
def padded (bs : List Byte) : List Byte := bs ++ List.replicate ((4 - bs.length % 4) % 4) 0

/-- Sends response bytes: to the client, or in RELAY frames to the admitting device (R304). The Ethernet frames that carry an HTTP/2
record are at least one; how many, TCP and TLS decide (log entry 43). -/
def respond (d : Dev) (c : Conn) (kind : EmitKind) (bytes : List Byte) : Dev :=
  match c with
  | .relay fa s => sendTo d fa 5 .relay [leaveBy d fa, fa, s] bytes
  | .fabric fa =>
    if kind = .cancelResult then sendTo d fa 5 kind [leaveBy d fa, fa] bytes else responseFrame d fa kind bytes
  | .http a _ _ => ethSent (emit (bumpEpoch d) kind c.nums bytes) a (1 + Config.openValue (bumpEpoch d).epoch 0xE1000000 % pow2 32)

/-- Flags of an end record. -/
structure EndFlags where
  finalSuppressed : Bool := false
  condensed : Bool := false
  limit : Bool := false
  connLost : Bool := false
  kvKept : Bool := false

/-- An end record (R295). -/
def endRecord (d : Dev) (s : Slot) (st : Status) (f : EndFlags) (conv : Nat) : List Byte :=
  leBytes 2 2 ++ leBytes 1 st.codes.1 ++ leBytes 1 st.codes.2
    ++ leBytes 4 (b2n f.finalSuppressed + 2 * b2n f.condensed + 4 * b2n f.limit + 8 * b2n f.connLost + 16 * b2n f.kvKept)
    ++ leBytes 8 s.reqId ++ leBytes 16 conv ++ leBytes 4 s.emitted ++ leBytes 4 s.epoch ++ leBytes 2 (edition d)
    ++ leBytes 2 (ownFa d) ++ leBytes 8 s.commit ++ leBytes 12 0

/-- A cancel result (R296). -/
def cancelResult (d : Dev) (c : Conn) (reqId status : Nat) : Dev :=
  respond d c .cancelResult (leBytes 2 3 ++ leBytes 1 status ++ leBytes 1 0 ++ leBytes 4 0 ++ leBytes 8 reqId)

/-! ## Slots (R300) -/

/-- A slot, where it is not FREE. -/
def slot (d : Dev) (n : Nat) : Option Slot := mget d.srv.slots n

/-- Stores a slot. -/
def setSlot (d : Dev) (n : Nat) (s : Slot) : Dev := { d with srv := { d.srv with slots := mset d.srv.slots n s } }

/-- A slot becomes FREE. -/
def freeSlot (d : Dev) (n : Nat) : Dev := { d with srv := { d.srv with slots := mdel d.srv.slots n } }

/-- The lowest of the 65,536 slots that is FREE. -/
def lowestFree (d : Dev) : Option Nat :=
  let n := ((List.range (d.srv.slots.length + 1)).find? fun i => (mget d.srv.slots i).isNone).getD 65536
  if n < 65536 then some n else none

/-- Requests pinned to an epoch of a model, on a device that holds spans of them too (R288). -/
def pins (d : Dev) (m epoch : Nat) : Nat :=
  (d.srv.slots.filter fun e => e.2.model == m && e.2.epoch == epoch && !e.2.gone && e.2.state != .ending).length

/-- The registers that show the serving engine's state. -/
def showServing (d : Dev) : Dev :=
  let n := d.srv.slots.length
  let d := fsets d (srvReg R.SRV_STATUS) [(F.SRV_STATUS_ACTIVE, n),
    (F.SRV_STATUS_DRAINING, b2n (!flag d (srvReg R.SRV_CTRL) F.SRV_CTRL_ADMIT && 0 < n))]
  let d := fset d (srvReg R.SRV_CONV) F.SRV_CONV_RECORDS d.srv.convs.length
  d.srv.models.foldl (fun d e =>
    let a := ((e.2.active.map EpochRec.epoch).map (pins d e.1)).getD 0
    let p := ((e.2.prev.map EpochRec.epoch).map (pins d e.1)).getD 0
    fset (fset d (modelReg R.SRV_MT_PIN_ACT e.1) F.SRV_MT_PIN_ACT_PINS a) (modelReg R.SRV_MT_PIN_PREV e.1)
      F.SRV_MT_PIN_PREV_PINS p) d

/-- A slot has rows in the running step. -/
def inStep (d : Dev) (n : Nat) : Bool := d.step.running && d.step.rows.any fun r => r.slot == n

/-- A slot has rows in a step whose commit point or replay is still to come. -/
def inFlight (d : Dev) (n : Nat) : Bool :=
  inStep d n || (d.step.commits.any fun c => c.rows.any fun r => r.slot == n)
    || (d.step.replayOf.isSome && d.step.rows.any fun r => r.slot == n)

/-- Slots that are ENDING become FREE when the last step with their rows has ended and their holders have released them; a
holder's slot tells its admitting device (R300, R307). -/
def sweepSlots (d : Dev) : Dev :=
  showServing (d.srv.slots.foldl (fun d e =>
    if e.2.state = .ending && !inStep d e.1 && e.2.holders.isEmpty then
      let d := freeSlot d e.1
      match e.2.holderOf with
      | some (fa, _) => sendTo d fa 5 .released [leaveBy d fa, fa, e.1]
      | none => d
    else d) d)

/-- The mask bits of rows are cleared in a mask of every block (R307). -/
def clearMaskRows (d : Dev) (t : Nat) (rows : List Nat) : Dev :=
  d.blocks.foldl (fun d e =>
    let die := e.1 / 24
    let b := e.1 % 24
    (List.range 4).foldl (fun d s =>
      if !slotValid d die b s then d
      else
        let u := unitCtx d die b s
        if u.hdr.narrowRows < u.hdr.rowtab + 2064 then d
        else
          rows.foldl (fun d q =>
            let a := rowAddr true (u.base.narrow + u.hdr.rowtab + 2048 + 8 * t + q / 512) + q % 512 / 8
            let x := blk d die b
            let old := (memByte d.epoch (unitWell (gblock die b)) x.well a).toNat
            setBlk d die b { x with well := memWrite x.well a (leBytes 1 (setBits old (q % 8) 1 0)) }) d) d) d

/-- A holder of a request is told to stop (R299, R307): by its slot, or by REQUEST_ID where it has not acknowledged yet. -/
def stopHolder (d : Dev) (s : Slot) (h : Holder) : Dev :=
  if h.refused then d
  else sendTo d h.fa 0 .cancelFrame [leaveBy d h.fa, h.fa, s.reqId, s.tenant, h.slot.getD 65535, 1]

/-- Holders of a request are told to stop. -/
def stopHolders (d : Dev) (s : Slot) : Dev := s.holders.foldl (fun d h => stopHolder d s h) d

/-- Rows of a slot are masked in the running step, and its holders stopped. -/
def maskSlot (d : Dev) (n : Nat) (s : Slot) : Dev :=
  let rows := (d.step.rows.filter fun r => r.slot = n).map RowUse.row
  stopHolders (if inStep d n then clearMaskRows d (d.step.number % 2) rows else d) s

/-! ## Paused conversations (R209, R210, R308) -/

/-- A request's pinned record leaves the directory. -/
def dropConv (d : Dev) (s : Slot) : Dev :=
  (d.srv.convs.filter fun x => x.conv == s.conv && x.tenant == s.tenant && x.pinned && x.span.isNone).foldl discardConv d

/-- The status and the request say whether KV is kept (R308). -/
def keepsKv (s : Slot) (st : Status) : Bool :=
  0 < s.ttl && match st with
    | .complete => s.conv != 0 || s.keep
    | .cancelled | .deadline => true
    | _ => false

/-- The conversation identifier of a record: the request's own, or one that the device assigns, which the spec leaves to
it (log entry 4). -/
def convId (d : Dev) (s : Slot) : Nat :=
  if s.conv ≠ 0 then s.conv
  else if s.assigned ≠ 0 then s.assigned
  else Config.openValue d.epoch (0xA0000000 + d.nextId) % pow2 128

/-! ## Ending (R306, R308, R309) -/

/-- The cancel results that are owed for a request that has ended (R306): CANCELLED, or ALREADY_COMPLETE where it ended
otherwise. -/
def answerAsked (d : Dev) (s : Slot) (cancelled : Bool) : Dev :=
  s.asked.foldl (fun d c =>
    if cancelled then cancelResult d c s.reqId 1
    else cancelResult (fcnt d (srvReg R.SRV_CANCEL_CNT) F.SRV_CANCEL_CNT_ALREADY_COMPLETE 1) c s.reqId 8) d

/-- The end record of a request goes out, its status is counted, and who asked for its end is answered. -/
def sendEnd (d : Dev) (s : Slot) (st : Status) (f : EndFlags) (conv : Nat) : Dev :=
  let d := respond d s.conn .endRecord (endRecord d s st f conv)
  let d := if f.finalSuppressed then fcnt d (srvReg R.SRV_CANCEL_CNT) F.SRV_CANCEL_CNT_FINAL_SUPPRESSED 1 else d
  let d := answerAsked (countEnd d st) s (st == .cancelled)
  { d with srv := { d.srv with ended := (d.srv.ended ++ [(s.tenant, s.reqId)]).eraseDups } }

/-- What a request that ends leaves as a paused conversation. -/
def pausedConv (d : Dev) (s : Slot) (id : Nat) : Conv :=
  let now := flag d (srvReg R.SRV_STATUS) F.SRV_STATUS_CONDENSING
  { conv := id, tenant := s.tenant, model := s.model, tokens := s.tokens, expiry := d.tally + secTicks s.ttl, condensed := now,
    pinned := false, holders := s.holders.map fun h => { h with slot := none }, edition := edition d, marked := s.condensed,
    kvShape := s.kvShape, source := s.kv, landed := s.kv.isEmpty, lost := s.kv.isEmpty && 0 < s.kvShape.vectors,
    gaps := if now then s.gaps ++ [s.tokens.length] else s.gaps, prompts := s.prompts }

/-- A record of a conversation is held. -/
def holdsConv (d : Dev) (id tenant : Nat) : Bool :=
  d.srv.convs.any fun c => c.conv == id && c.tenant == tenant && c.span.isNone

/-- A resumption that still waits for its conversation ends (R208): what was stored stays stored under its TTL, or goes. -/
def endWaiting (d : Dev) (n : Nat) (s : Slot) (st : Status) (f : EndFlags) : Dev :=
  let keep := keepsKv s st
  let d := if keep then setConvs d (d.srv.convs.map fun c =>
      if c.conv = s.conv ∧ c.tenant = s.tenant ∧ c.pinned ∧ c.span.isNone
      then { c with pinned := false, expiry := d.tally + secTicks s.ttl } else c)
    else dropConv d s
  sweepSlots (freeSlot (sendEnd d s st { f with kvKept := keep && holdsConv d s.conv s.tenant } s.conv) n)

/-- A request ends: its end record is sent once, its KV kept where the rules say, and its slot is ENDING. -/
def endRequest (d : Dev) (n : Nat) (s : Slot) (st : Status) (f : EndFlags := {}) : Dev :=
  if s.state = .admitted then endWaiting d n s st f
  else
    let keep := keepsKv s st
    let id := if keep then convId d s else s.conv
    let d := if keep && s.conv = 0 then (freshId d).1 else d
    let d := dropConv d s
    let d := if keep then keepConv d (pausedConv d s id) else freePageList d s.kv
    let d := freePageList d s.spill
    let d := sendEnd d s st { f with kvKept := keep && holdsConv d id s.tenant, condensed := s.condensed } id
    sweepSlots (setSlot (stopHolders d s) n { s with state := .ending, kv := [], spill := [], asked := [] })

/-- A request that is not admitted is answered at once and holds no slot. -/
def refuseReq (d : Dev) (c : Conn) (reqId conv : Nat) (st : Status) : Dev :=
  countEnd (respond d c .endRecord (endRecord d { reqId, conn := c } st {} conv)) st

/-! ## Admission (R300, R301, R308) -/

/-- The load state of a model is READY and its entry in use. -/
def modelReady (d : Dev) (m : Nat) : Bool :=
  flag d (modelReg R.SRV_MT_CTRL m) F.SRV_MT_CTRL_VALID && fget d (modelReg R.SRV_MT_LOAD m) F.SRV_MT_LOAD_STATE == 3
    && !(model d m).removing && (model d m).active.isSome

/-- The input tokens of a request, or none where the payload is malformed (R273). -/
def inputTokens (d : Dev) (r : Req) (e : EpochRec) : Option (List Nat) :=
  let l := tokRuns e
  if r.textIn then encodeText d l r.payload
  else
    let t := groupLe 4 (r.payload.length / 4) r.payload
    if t.all fun x => x < vocab d l then some t else none

/-- The conversation that a resumption finds: its own tenant's, not expired. -/
def resumed (d : Dev) (r : Req) (tenant stamp : Nat) : Option Conv :=
  d.srv.convs.find? fun c => c.conv == r.conv && c.tenant == tenant && !c.pinned && c.span.isNone && stamp < c.expiry

/-! ## Count lists (R314) -/

/-- PEN_SCOPE of a sampling field: prompt tokens count too (R310). -/
def penScope (sampling : List Byte) : Bool := bit (numAt sampling 28 1) 0

/-- A token is counted once more. -/
def countToken (m : SMap Nat) (t : Nat) : SMap Nat := mset m t (mgetD m t 0 + 1)

/-- A position's token is an input's. -/
def isPrompt (prompts : List (Nat × Nat)) (p : Nat) : Bool := prompts.any fun r => r.1 ≤ p && p < r.1 + r.2

/-- The count list of a token list: all its tokens, or those that no input gave. -/
def countList (scope : Bool) (prompts : List (Nat × Nat)) (tokens : List Nat) : SMap Nat :=
  tokens.zipIdx.foldl (fun m t => if scope || !isPrompt prompts t.2 then countToken m t.1 else m) []

/-- Entries of a count list in the pool of a selection unit; the others are spilled. -/
def poolEntries : Nat := 4096

/-- The bytes of count list entries: token and count. -/
def countBytes (l : SMap Nat) : List Byte := l.flatMap fun e => leBytes 4 e.1 ++ leBytes 4 e.2

/-- The entries beyond the first `k`, which stand in the pool, lie from byte 0 of a run of KV pages of the request that bundle
descriptors may read. -/
def spillBeyond (d : Dev) (n : Nat) (s : Slot) (k : Nat) : Dev :=
  let rest := s.counts.drop k
  let need := pagesFor (8 * rest.length)
  if need = 0 && s.spill.isEmpty then setSlot d n s
  else if need = s.spill.length then setSlot (putPages s.spill (countBytes rest) d) n s
  else
    let d := freePageList d s.spill
    match freeRun d need with
    | none => setSlot d n { s with spill := [] }
    | some p =>
      let l := (List.range need).map fun i => p + i
      setSlot (putPages l (countBytes rest) (takePages d l 4 true true)) n { s with spill := l }

/-- As `spillBeyond`, where the pool has room. -/
def spillCounts (d : Dev) (n : Nat) (s : Slot) : Dev := spillBeyond d n s poolEntries

/-! ## Holders (R305) -/

/-- The span assignment of a request's positions. -/
def spanOf (s : Slot) (first count : Nat) : HoldSpan :=
  { first, count, tenant := s.tenant, reqId := s.reqId, model := s.model, epoch := s.epoch,
    conv := if s.conv ≠ 0 then s.conv else s.assigned, ttl := s.ttl, kv := s.kvShape }

/-- A device is asked to hold a span of a request's positions. A request that may be paused and has no conversation identifier
gets one now, for its holders to keep their spans under (R308). -/
def askHold (d : Dev) (n : Nat) (s : Slot) (fa first count : Nat) : Dev :=
  let new := s.conv = 0 && s.assigned = 0 && 0 < s.ttl
  let s := if new then { s with assigned := convId d s } else s
  let d := if new then (freshId d).1 else d
  sendTo (setSlot d n { s with holders := s.holders ++ [{ fa, slot := none, first, count }] }) fa 5 .hold
    [leaveBy d fa, fa, n] (spanOf s first count).bytes

/-! ## Admission, on arrival or once a copy has landed -/

/-- A request runs (R300, R308): its KV pages are taken, what a record holds of its positions is brought back, its count list
is built, and the holders of the record are asked for their spans again. A record of another edition, or whose KV cannot be
read, is resumed by prefill from its tokens. -/
def startRunning (d : Dev) (n : Nat) (s : Slot) (old : Option Conv) : Dev :=
  let back := old.filter fun o => o.edition == edition d && o.kvShape == s.kvShape && kvReadable d o
  let p := admitKv d s.kvShape s.tokens.length back
  let got := back.filter fun _ => !p.2.isEmpty || s.kvShape.vectors = 0
  let s := { s with
    state := .running, condensed := (old.any fun o => o.marked) || (back.any fun o => o.condensed), kv := p.2,
    stored := (got.map Conv.count).getD 0, gaps := (got.map Conv.gaps).getD [],
    counts := countList (penScope s.sampling) s.prompts s.tokens }
  let d := showServing (spillCounts p.1 n s)
  ((old.map Conv.holders).getD []).foldl (fun d h =>
    match slot d n with
    | some s => askHold d n s h.fa h.first h.count
    | none => d) d

/-- The conversation that a waiting resumption has pinned. -/
def awaited (d : Dev) (s : Slot) : Option Conv :=
  d.srv.convs.find? fun c => c.conv == s.conv && c.tenant == s.tenant && c.pinned && c.span.isNone

/-- A request record, or what has arrived of it, with its arrival stamp. A resumption pins its conversation; where the copy of
it has not landed, the request is ADMITTED and waits (R208, R209). `kv` is the KV that the model's program keeps for one
position. -/
def request (d : Dev) (c : Conn) (tenant stamp : Nat) (kv : KvShape) (bytes : List Byte) : Dev :=
  match parseReq bytes with
  | none => refuseReq d c (numAt bytes 8 8) (numAt bytes 16 16) (.refused 5)
  | some r =>
    let no (d : Dev) (st : Status) : Dev := refuseReq d c r.reqId r.conv st
    match lowestFree d, (model d r.model).active with
    | none, _ => no d (.refused 1)
    | _, none => no d (.refused 2)
    | some n, some e =>
      if !modelReady d r.model then no d (.refused 2)
      else if !flag d (srvReg R.SRV_CTRL) F.SRV_CTRL_ADMIT then no d (.refused 3)
      else if d.srv.slots.any fun x => x.2.tenant == tenant && x.2.reqId == r.reqId && (x.2.holderOf.isNone || x.2.gone)
          && x.2.state != .ending then no d (.refused 4)
      else
        match inputTokens d r e with
        | none => no d (.refused 5)
        | some t =>
          let old := if r.resume then resumed d r tenant stamp else none
          if r.resume && old.isNone then no d .notFound
          else
            let tokens := ((old.map Conv.tokens).getD []) ++ t
            if 16777216 < tokens.length then no d (.refused 6)
            else
              let s : Slot :=
                { state := .admitted, record := bytes, conn := c, tenant, model := r.model, reqId := r.reqId, conv := r.conv,
                  textOut := r.textOut, keep := r.keep, maxTokens := r.maxTokens,
                  deadline := if r.deadlineUs = 0 then none else some (stamp + usTicks r.deadlineUs),
                  ttl := if r.ttl = pow2 32 - 1 then defaultTtl d else min r.ttl 2592000, seed := r.seed,
                  sampling := r.sampling, stops := r.stops, tokens, epoch := e.epoch, alt := e.alt, stamp, kvShape := kv,
                  prompts := ((old.map Conv.prompts).getD []) ++ [(tokens.length - t.length, t.length)] }
              let d := match old with
                | some o => setConv d o { o with pinned := true }
                | none => d
              if old.any fun o => !o.landed then showServing (setSlot d n s) else startRunning d n s old

/-- A waiting resumption goes on once its conversation's copy has landed; where the conversation is gone it ends NOT_FOUND. -/
def takeUp (d : Dev) (n : Nat) : Dev :=
  match slot d n with
  | some s =>
    if s.state ≠ .admitted then d
    else match awaited d s with
      | none => sweepSlots (freeSlot (sendEnd d s .notFound {} s.conv) n)
      | some o => if o.landed then startRunning d n s (some o) else d
  | none => d

/-- The copies of paused conversations that may land do, and resumptions that waited for them are taken up in the order of
their arrival. -/
def landCopies (d : Dev) : Dev :=
  let d := (d.srv.convs.filter (mayLandConv d)).foldl landConv d
  let waits := (d.srv.slots.filter fun e => e.2.state == .admitted).mergeSort fun x y => x.2.stamp ≤ y.2.stamp
  waits.foldl (fun d e => takeUp d e.1) d

/-! ## Cancels and deadlines (R296, R306, R307) -/

/-- The slot of an active request, here or moved away. -/
def findReq (d : Dev) (p : Slot → Bool) : Option (Nat × Slot) :=
  d.srv.slots.find? fun e => (e.2.holderOf.isNone || e.2.gone) && e.2.state != .ending && p e.2

/-- A cancel takes effect on a request: where it has moved, the cancel goes after it (R304); judged at its commit point where a
step holds its rows, else at once. -/
def cancelSlot (d : Dev) (n : Nat) (s : Slot) : Dev :=
  match s.holderOf with
  | some (fa, _) => sendTo (setSlot d n s) fa 0 .cancelFrame [leaveBy d fa, fa, s.reqId, s.tenant, 65535, 0]
  | none =>
    let s := { s with cancel := some (s.cancel.getD d.tally) }
    if inFlight d n then maskSlot (setSlot d n s) n s else endRequest d n s .cancelled

/-- A cancel for an active request: who sent it is answered as the request ends (R306). The device that the request has moved
from learns that from the end record. -/
def cancelAsked (d : Dev) (c : Conn) (n : Nat) (s : Slot) : Dev :=
  let own := match s.conn, c with
    | .relay a _, .fabric b => a == b
    | _, _ => false
  cancelSlot d n (if own then s else { s with asked := s.asked ++ [c] })

/-- A cancel of a tenant for a request identifier, answered with a cancel result. -/
def cancelById (d : Dev) (c : Conn) (tenant reqId : Nat) : Dev :=
  match findReq d fun s => s.tenant == tenant && s.reqId == reqId with
  | some (n, s) => cancelAsked d c n s
  | none =>
    if d.srv.ended.contains (tenant, reqId) then
      cancelResult (fcnt d (srvReg R.SRV_CANCEL_CNT) F.SRV_CANCEL_CNT_ALREADY_COMPLETE 1) c reqId 8
    else cancelResult d c reqId 9

/-- A cancel record arrives; one that is not laid out as R296 gives has no effect. -/
def cancelRecord (d : Dev) (c : Conn) (tenant : Nat) (bytes : List Byte) : Dev :=
  if bytes.length ≠ 16 ∨ numAt bytes 0 4 ≠ 0x4E43545A ∨ numAt bytes 4 4 ≠ 0 then d
  else cancelById d c tenant (numAt bytes 8 8)

/-- A connection by which something can arrive: an aqueduct that is UP in Ethernet mode, or the fabric. -/
def Conn.arrives (d : Dev) : Conn → Bool
  | .http a _ _ => aqdEthernetUp d a
  | _ => true

/-- A RST_STREAM cancels its stream's request, without an answer. -/
def rstStream (d : Dev) (c : Conn) : Dev :=
  if !c.arrives d then d
  else match findReq d fun s => s.conn == c with
  | some (n, s) => cancelSlot d n s
  | none => d

/-- A holder's span is kept under the conversation identifier of its request, or goes (R308). -/
def keepSpan (d : Dev) (s : Slot) : Dev :=
  if s.conv = 0 || s.ttl = 0 then freePageList d s.kv
  else keepConv d { pausedConv d s s.conv with span := s.span }

/-- A holder stop reaches a holder's slot: its rows are masked, and it frees its span at its own step end. -/
def holderStop (d : Dev) (n : Nat) : Dev :=
  match slot d n with
  | some s =>
    if s.holderOf.isSome && !s.gone && s.state ≠ .ending then
      sweepSlots (setSlot (maskSlot (keepSpan d s) n s) n { s with state := .ending, kv := [] })
    else d
  | none => d

/-- The holder's slot of a request, by its admitting device and REQUEST_ID (R299). -/
def findHeld (d : Dev) (fa tenant reqId : Nat) : Option Nat :=
  (d.srv.slots.find? fun e => (e.2.holderOf.map Prod.fst) == some fa && !e.2.gone && e.2.state != .ending && e.2.tenant == tenant
    && e.2.reqId == reqId).map Prod.fst

/-- An express CANCEL arrives (R299). -/
def cancelFlit (d : Dev) (h : ExpressHdr) (reqId tenant slotNo kind : Nat) : Dev :=
  arriveAt d h.arrival 0 .cancelFrame [reqId, tenant, slotNo, kind] [] fun d =>
    let fa := bits h.stamp.toNat 0 16
    if kind = 1 then
      if slotNo = 65535 then ((findHeld d fa tenant reqId).map (holderStop d)).getD d else holderStop d slotNo
    else if kind ≠ 0 then fcnt d (txnReg R.AQD_TXN_CNT_B h.head) F.AQD_TXN_CNT_B_DROPPED 1
    else if slotNo = 65535 then cancelById d (.fabric fa) tenant reqId
    else match slot d slotNo with
      | some s =>
        if s.tenant = tenant && s.reqId = reqId && (s.holderOf.isNone || s.gone) && s.state ≠ .ending then
          cancelAsked d (.fabric fa) slotNo s
        else cancelById d (.fabric fa) tenant reqId
      | none => cancelById d (.fabric fa) tenant reqId

/-- A deadline passes with none of the request's rows in a running step. -/
def deadlineExpiry (d : Dev) (n : Nat) : Dev :=
  match slot d n with
  | some s =>
    match s.deadline with
    | some t => if t < d.tally && s.holderOf.isNone && s.state ≠ .ending && !inFlight d n then endRequest d n s .deadline
                else d
    | none => d
  | none => d

/-! ## The commit point (R306, R319 to R322) -/

/-- The first selection unit (R311). -/
def selectionUnit (d : Dev) : Option (Nat × Nat × UnitCtx) :=
  d.blocks.findSome? fun e =>
    (List.range 4).findSome? fun s =>
      if slotValid d (e.1 / 24) (e.1 % 24) s then
        let u := unitCtx d (e.1 / 24) (e.1 % 24) s
        if u.hdr.rowtab + 14352 ≤ u.hdr.narrowRows then some (e.1 / 24, e.1 % 24, u) else none
      else none

/-- Nothing was selected. -/
def noToken : Nat := 0xFFFFFFFF

/-- Word `h` of the result entry of a batch row (R319). -/
def resultWord (d : Dev) (number q h : Nat) : Nat :=
  match selectionUnit d with
  | none => noToken
  | some (die, b, u) =>
    let row := u.base.narrow + u.hdr.rowtab + 10256 + 2048 * (number % 2) + q / 2
    memNat d.epoch (unitWell (gblock die b)) (blk d die b).well (rowAddr true row + 32 * (q % 2) + 4 * h) 4

/-- The number of accepted proposals: the longest prefix of the pending ones that the main rows selected (R321). -/
def acceptedCount : List Nat → List Nat → Nat
  | p :: ps, s :: ss => if p = s then acceptedCount ps ss + 1 else 0
  | _, _ => 0

/-- What a request ends with after a token: a stop or end token, MAX_TOKENS, or the last position. -/
def endsOn (s : Slot) (ends : List Nat) (t pos : Nat) : Option Bool :=
  if s.stops.contains t || ends.contains t || s.maxTokens ≤ s.emitted + 1 then some false
  else if 16777215 ≤ pos then some true
  else none

/-- Emits one token. -/
def emitToken (d : Dev) (s : Slot) (runs : List (Nat × Nat)) (t pos : Nat) : Dev × Slot :=
  let str := if s.textOut then
      let x := tokenString d runs t
      if bit x.2 1 then [] else x.1
    else []
  let cut := utf8Split (s.pendingText ++ str)
  let d := respond d s.conn .tokenRecord
    (padded (leBytes 2 1 ++ leBytes 2 cut.1.length ++ leBytes 4 t ++ leBytes 4 pos ++ leBytes 4 (b2n s.condensed) ++ cut.1))
  (d, { s with tokens := s.tokens ++ [t], emitted := s.emitted + 1, pendingText := cut.2, commit := d.tally,
               counts := countToken s.counts t })

/-- Emits accepted tokens in order up to the first that ends the request. -/
def emitAll (d : Dev) (s : Slot) (runs : List (Nat × Nat)) (ends : List Nat) : List Nat → Nat → Dev × Slot × Option Bool
  | [], _ => (d, s, none)
  | t :: ts, pos =>
    if t = noToken then (d, s, some true)
    else
      let e := endsOn s ends t pos
      let r := emitToken d s runs t pos
      match e with
      | some l => (r.1, r.2, some l)
      | none => emitAll r.1 r.2 runs ends ts (pos + 1)

/-- Whether the tokens of the step would have ended the request. -/
def wouldEnd (s : Slot) (ends : List Nat) : List Nat → Nat → Bool
  | [], _ => false
  | t :: ts, pos => t ≠ noToken && ((endsOn s ends t pos).isSome || wouldEnd { s with emitted := s.emitted + 1 } ends ts (pos + 1))

/-- The extra heads that the step's program computes: the highest one with a result on some proposal row (DEDUCED; log entry
112). -/
def headsComputed (d : Dev) (r : CommitRec) : Nat :=
  (r.rows.filter fun q => q.sample && q.proposal).foldl (fun m q =>
    (List.range 7).foldl (fun m h => if resultWord d r.number q.row (h + 1) = noToken then m else max m (h + 1)) m) 0

/-- A row that selects a position and has no result: stage 1 of the selection, or a NaN of a later stage, has been met, and
the row is attributed a NaN (R41, R315, R316, R318). A proposal row may have none for heads that it does not run, or that the
program does not compute (R319). -/
def nanLogits (d : Dev) (r : CommitRec) (q : RowUse) : Bool :=
  q.sample && if q.proposal then (List.range (min q.propose (headsComputed d r))).any fun h =>
      q.pos + 2 + h ≤ 16777215 && resultWord d r.number q.row (h + 1) == noToken
    else q.pos < 16777215 && resultWord d r.number q.row 0 == noToken

/-- A NaN is attributed to a row of a step that has completed. -/
def rowNan (d : Dev) (r : CommitRec) (q : RowUse) : Bool := r.nanRows.contains q.row || nanLogits d r q

/-- A request takes further KV pages as its positions go on, a run of consecutive ones (R208). -/
def growKv (d : Dev) (s : Slot) : Dev × Slot :=
  let more := pagesFor (s.tokens.length * s.kvShape.posBytes) - s.kv.length
  if more = 0 then (d, s)
  else match kvRun d more with
    | none => (d, s)
    | some l => (takePages d l 4 true true, { s with kv := s.kv ++ l })

/-- The commit decision for one request (R306). -/
def commitSlot (r : CommitRec) (d : Dev) (n : Nat) : Dev :=
  match slot d n with
  | none => d
  | some s =>
    if s.holderOf.isSome || s.state = .ending then d
    else
      let rows := r.rows.filter fun q => q.slot = n
      let mains := rows.filter fun q => q.sample && !q.proposal
      let main (j : Nat) : Option RowUse := mains.find? fun q => q.vidx = j
      let sel := (List.range mains.length).map fun j => ((main j).map fun q => resultWord d r.number q.row 0).getD noToken
      let pend := s.proposals.take (mains.length - 1)
      let a := acceptedCount pend sel
      let toks := if mains.isEmpty then [] else sel.take (a + 1)
      let pos := ((main 0).map fun q => q.pos + 1).getD 0
      let runs := ((epochOf d s.model s.epoch).map tokRuns).getD []
      let ends := endTokens d runs
      let cancelled := s.cancel.filter fun t => t < d.tally
      let late := s.deadline.filter fun t => t < d.tally
      let propNan := (rows.filter fun q => q.proposal && rowNan d r q).length
      let d := fcnt d (srvReg R.SRV_SEL_CNT) F.SRV_SEL_CNT_PROP_NAN propNan
      if cancelled.isSome && (late.isNone || cancelled.getD 0 ≤ late.getD 0) then
        endRequest d n s .cancelled { finalSuppressed := wouldEnd s ends toks pos }
      else if late.isSome then endRequest d n s .deadline
      else if rows.any fun q => !q.proposal && rowNan d r q then endRequest d n s .numeric
      else if r.badAll || rows.any fun q => r.badRows.contains q.row then d
      else if mains.isEmpty then d
      else
        let d := fcnt (fcnt d (srvReg R.SRV_SPEC_CNT) F.SRV_SPEC_CNT_PROPOSED pend.length) (srvReg R.SRV_SPEC_CNT)
          F.SRV_SPEC_CNT_ACCEPTED a
        let e := emitAll d s runs ends toks pos
        match e.2.2 with
        | some limit => endRequest e.1 n e.2.1 .complete { limit }
        | none =>
          let prop := match rows.find? fun q => q.sample && q.proposal && q.vidx = a with
            | some q =>
              if rowNan d r q then []
              else ((List.range 7).map fun h => resultWord d r.number q.row (h + 1)).takeWhile fun t => t != noToken
            | none => []
          let g := growKv e.1 { e.2.1 with proposals := prop, noSpec := false }
          spillCounts g.1 n g.2

/-- The narrow row of the selection unit's block that holds the result entry of a batch row (R311). -/
def resultRow (u : UnitCtx) (number q : Nat) : Nat := u.base.narrow + u.hdr.rowtab + 10256 + 2048 * (number % 2) + q / 2

/-- Parity errors that the Town Hall's reads of a step's results meet (R122). -/
def resultParity (d : Dev) (r : CommitRec) : Dev :=
  match selectionUnit d with
  | none => d
  | some (die, b, u) =>
    let read := (r.rows.filter RowUse.sample).map fun q => BadRead.narrow (resultRow u r.number q.row)
    let bad := r.found.filterMap fun e => if e.1 = die ∧ read.contains e.2 then some e.2 else none
    bad.eraseDups.foldl (fun d e => wellParity d die b 7 e) d

/-- The oldest completed step takes its commit point; every item stamped before the current tally has been passed on, as
the commands come in the order of their stamps (R297). Rows of the result area that the Town Hall's reads find in error are
reported only (R122); rows that the step found in error are written anew (R123). -/
def commitPoint (d : Dev) : Dev :=
  match d.step.commits with
  | [] => d
  | r :: rest =>
    let d := resultParity (rewriteRows { d with step := { d.step with commits := rest } }) r
    let w (d : Dev) (p v : Nat) : Dev := wr d (srvReg p) (BitVec.ofNat 32 v)
    let d := w (w d R.SRV_COMMIT_LO d.tally) R.SRV_COMMIT_HI (d.tally >>> 32)
    let d := w (w d R.SRV_COMMIT_STEP_LO r.number) R.SRV_COMMIT_STEP_HI (r.number >>> 32)
    let slots := (r.rows.map RowUse.slot).eraseDups
    let d := slots.foldl (commitSlot r) d
    let ms := (slots.filterMap fun n => (slot d n).map Slot.model).eraseDups
    sweepSlots (ms.foldl (fun d m => setModel d m { model d m with stepped := true }) d)

/-! ## After an abort (R192) -/

/-- What follows from an aborted step for its requests: a program-class abort ends them FAULT and bars the program; a
numeric one ends those whose own rows a NaN is attributed to, in the drain of the abort too (R42 does not say; DESIGN CHOICE,
log entry 109); a retry-class one leaves them for the replay, but for the
second abort in a row with one code and the fourth abort of the rows, which end them FAULT (R379). -/
def abortConsequences (d : Dev) : Dev :=
  if !d.step.aborted then d
  else
    match d.step.aborts with
    | [] => d
    | c :: older =>
      let slots := (d.step.rows.map RowUse.slot).eraseDups
      let endAll (d : Dev) (st : Status) : Dev := slots.foldl (fun d n =>
        match slot d n with
        | some s => if s.holderOf.isNone && s.state ≠ .ending then endRequest d n s st else d
        | none => d) d
      let finished (d : Dev) : Dev := { d with step := { d.step with aborted := false, aborts := [], replayOf := none } }
      match c.cls with
      | .program =>
        let d := finished d
        sweepSlots (endAll { d with step := { d.step with barred := (d.step.barred ++ [d.step.hdr.programId]).eraseDups } } .fault)
      | .numeric =>
        let hit (n : Nat) (p : Bool) : Bool := d.step.rows.any fun q => q.slot == n && q.proposal == p && d.step.nanRows.contains q.row
        sweepSlots (slots.foldl (fun d n =>
          match slot d n with
          | some s =>
            if s.holderOf.isSome || s.state = .ending then d
            else if hit n false then endRequest d n s .numeric
            else if hit n true then setSlot d n { s with noSpec := true, proposals := [] }
            else d
          | none => d) (finished d))
      | .retry =>
        if older.head? = some c || 4 ≤ d.step.aborts.length then
          sweepSlots (endAll (fcnt (finished d) (srvReg R.SRV_REPLAY_CNT) F.SRV_REPLAY_CNT_FAILED 1) .fault)
        else { d with step := { d.step with aborted := false, replayOf := some (d.step.number - 1) } }

/-! ## Holders, migration and relays (R299, R304, R305) -/

/-- The model table as it is hashed (R254): MODEL_ID, active epoch and manifest digest of 64 entries, zero where not VALID. -/
def modelTable (d : Dev) : List Byte :=
  (List.range 64).flatMap fun m =>
    match flag d (modelReg R.SRV_MT_CTRL m) F.SRV_MT_CTRL_VALID, (model d m).active with
    | true, some e => leBytes 8 e.modelId ++ leBytes 4 e.epoch ++ e.digest
    | _, _ => List.replicate 76 0

/-- Devices whose discovery record shows the same model table. -/
def twins (d : Dev) : List Nat :=
  (d.partners.filter fun p => p.models == (sha512 (modelTable d)).take 8).map Partner.fa

/-- A span of positions (R305): a multiple of 4,096 from a multiple of 4,096 on. -/
def spanOk (first count : Nat) : Bool := first % 4096 == 0 && count % 4096 == 0 && 0 < count

/-- A span that has lost its holder goes to another device of the same models that has not refused one of the request's, to be
recomputed there; with no other available the request ends REFUSED (R305). -/
def replaceHolder (n : Nat) (d : Dev) (h : Holder) : Dev :=
  match slot d n with
  | none => d
  | some s =>
    if s.state = .ending then d
    else
      let s := { s with holders := s.holders.filter fun x => x != h }
      match (twins d).find? fun fa => !s.passed.contains fa && !s.holders.any fun x => x.fa == fa with
      | some fa => askHold d n s fa h.first h.count
      | none => endRequest d n s (.refused 1)

/-- Between steps, spans whose holder has refused or left find another; those of a request that has ended need none. -/
def settleHolders (d : Dev) : Dev :=
  sweepSlots (d.srv.slots.foldl (fun d e =>
    let lost := e.2.holders.filter Holder.refused
    if lost.isEmpty then d
    else if e.2.state = .ending then setSlot d e.1 { e.2 with holders := e.2.holders.filter fun h => !h.refused }
    else if inFlight d e.1 then d
    else lost.foldl (replaceHolder e.1) d) d)

/-- A device has left the roster: it holds no span any more (R305). -/
def holderLeaves (d : Dev) (fa : Nat) : Dev :=
  let gone_ (s : Slot) : Slot := { s with holders := s.holders.map fun h => if h.fa = fa then { h with slot := none, refused := true } else h }
  settleHolders { d with srv := { d.srv with slots := d.srv.slots.map fun e => (e.1, gone_ e.2) } }

/-- A HOLD frame: sent for a span of a request's positions, or arriving at a holder, which takes a slot and brings back what it
has kept of the span (R308), or refuses. -/
def holdFrame (d : Dev) (m : HoldMsg) : Dev :=
  match m with
  | .send n fa first count =>
    match slot d n with
    | some s =>
      if s.holderOf.isSome || 1024 ≤ s.holders.length || s.state ≠ .running || !spanOk first count then d
      else askHold d n s fa first count
    | none => d
  | .arrive h n x =>
    arriveAt d h.arrival 5 .hold [n] x.bytes fun d =>
      match lowestFree d, spanOk x.first x.count with
      | some k, true =>
        let old := d.srv.convs.find? fun c => c.conv == x.conv && c.tenant == x.tenant && c.span == some (x.first, x.count)
        let back := old.filter fun o => o.edition == edition d && o.kvShape == x.kv && o.landed && kvReadable d o
        let p := admitKv d x.kv x.count back
        let d := match old with
          | some o => discardConv p.1 o
          | none => p.1
        let d := showServing (setSlot d k
          { holderOf := some (h.src.val, n), span := some (x.first, x.count), tenant := x.tenant, reqId := x.reqId,
            model := x.model, epoch := x.epoch, conv := x.conv, ttl := x.ttl, kvShape := x.kv, kv := p.2,
            stored := if back.isSome && !p.2.isEmpty then x.count else 0 })
        sendTo d h.src 5 .holdAck [leaveBy d h.src, h.src, k, 0]
      | _, _ => sendTo d h.src 5 .holdAck [leaveBy d h.src, h.src, 0, 1]

/-- A HOLD_ACK arrives: the oldest span asked of that device has its holder, or is refused and finds another. A holder of a
request that has ended meanwhile is told to stop (R307). -/
def holdAck (d : Dev) (h : FrameHdr) (k : Nat) (refused : Bool) : Dev :=
  arriveAt d h.arrival 5 .holdAck [k, b2n refused] [] fun d =>
    let open_ (x : Holder) : Bool := x.fa == h.src.val && x.slot.isNone && !x.refused
    match d.srv.slots.find? fun e => e.2.holders.any open_ with
    | none => d
    | some (n, s) =>
      let i := (s.holders.findIdx? open_).getD 0
      match s.holders[i]? with
      | none => d
      | some x =>
        if refused then
          settleHolders (setSlot d n { s with holders := s.holders.set i { x with refused := true }, passed := s.passed ++ [h.src.val] })
        else
          let x := { x with slot := some k }
          let d := setSlot d n { s with holders := s.holders.set i x }
          if s.state = .ending then stopHolder d s x else d

/-- A holder's RELEASED arrives. -/
def releasedFrame (d : Dev) (h : FrameHdr) (k : Nat) : Dev :=
  arriveAt d h.arrival 5 .released [k] [] fun d =>
    match d.srv.slots.find? fun e => e.2.holders.any fun x => x.fa == h.src.val && x.slot == some k with
    | none => d
    | some (n, s) =>
      sweepSlots (setSlot d n { s with holders := s.holders.filter fun x => !(x.fa == h.src.val && x.slot == some k) })

/-- Request state arrives in MIGRATE frames (R304): a slot is taken in RUNNING, its pin kept, and the KV that has come in
windows lies in its pages. -/
def migrateFrame (d : Dev) (h : FrameHdr) (m : MigrateMsg) : Dev :=
  arriveAt d h.arrival 5 .migrate [m.slot] m.bytes fun d =>
    match parseReq m.record, lowestFree d with
    | some r, some n =>
      let p := admitKv d m.kv m.tokens.length none
      let whole := !p.2.isEmpty && m.data.length == m.tokens.length * m.kv.posBytes
      let d := if whole then putPages p.2 m.data p.1 else p.1
      showServing (spillCounts d n
        { conn := .relay h.src m.slot, record := m.record, tenant := m.tenant, model := r.model, reqId := r.reqId, conv := r.conv,
          textOut := r.textOut, keep := r.keep, maxTokens := r.maxTokens, deadline := m.deadline,
          ttl := if r.ttl = pow2 32 - 1 then defaultTtl d else min r.ttl 2592000, seed := r.seed, sampling := r.sampling,
          stops := r.stops, tokens := m.tokens, emitted := m.emitted, epoch := m.epoch, alt := m.alt, stamp := d.tally,
          kvShape := m.kv, kv := p.2, stored := if whole then m.tokens.length else 0, prompts := m.prompts, counts := m.counts })
    | _, _ => d

/-- Records arrive in a RELAY frame and are forwarded on the client connection of the slot that moved; the end record frees it
(R304). -/
def relayFrames (d : Dev) (h : FrameHdr) (n : Nat) (bytes : List Byte) : Dev :=
  arriveAt d h.arrival 5 .relay [n] bytes fun d =>
    match slot d n with
    | some s =>
      if !s.gone || (s.holderOf.map Prod.fst) ≠ some h.src.val then d
      else if numAt bytes 0 2 ≠ 2 then respond d s.conn .tokenRecord bytes
      else
        let d := answerAsked (respond d s.conn .endRecord bytes) s (numAt bytes 2 1 == 1)
        sweepSlots (freeSlot { d with srv := { d.srv with ended := (d.srv.ended ++ [(s.tenant, s.reqId)]).eraseDups } } n)
    | none => d

/-! ## Conversations and condensing (R209, R212) -/

/-- The tally reaches a record's expiry: it is discarded. -/
def convExpiry (d : Dev) (conv : Nat) : Dev :=
  let due (c : Conv) : Bool := c.conv == conv && !c.pinned && c.expiry ≤ d.tally
  let d := reviewConvs d
  let l := d.srv.convs.filter due
  showServing (fcnt (l.foldl discardConv d) (srvReg R.SRV_CONV_CNT) F.SRV_CONV_CNT_EXPIRED l.length)

/-- Pages whose entry is FREE. -/
def freePages (d : Dev) : Nat :=
  let used := d.regs.filter fun e =>
    pow2 32 ≤ e.1 && ctlPlace (e.1 % pow2 32) == R.RSV_PT_ENTRY && 48 ≤ ctlDie (e.1 % pow2 32) && ctlDie (e.1 % pow2 32) < 56
      && entryKind e.2 != 0
  pageCount - used.length

/-- Recovery is in progress (R212): lines or pages are reloaded, units wait for a new home, pages for what restores them. -/
def recovering (d : Dev) : Bool :=
  !d.srv.badPages.isEmpty || !d.srv.lostPages.isEmpty || !d.cont.pending.isEmpty || d.blocks.any fun e => !e.2.repairs.isEmpty

/-- A model that is being loaded, or has been, and has not completed its first step. -/
def unstepped (d : Dev) (m : Nat) (x : Model) : Bool :=
  let st := fget d (modelReg R.SRV_MT_LOAD m) F.SRV_MT_LOAD_STATE
  !x.stepped && (x.active.isSome || 1 ≤ st && st ≤ 3)

/-- A condition of R212 holds. -/
def condensingDue (d : Dev) : Bool :=
  (d.srv.models.any fun e => unstepped d e.1 e.2) || !d.cont.testedPages.isEmpty || recovering d
    || ((List.range 8).any fun s => !stackReachable d s || !stackServes d s) || freePages d < 4096

/-- Full records are condensed, earliest expiry first, until 4,096 pages are FREE (R212). -/
def condenseOld : Nat → Dev → Dev
  | 0, d => d
  | n + 1, d =>
    if 4096 ≤ freePages d then d
    else match earliest (d.srv.convs.filter (mayCondense d)) with
      | none => d
      | some e => condenseOld n (condenseConv d e)

/-- The coordinator sets or clears the condensing state; while the device condenses, full records are condensed. -/
def condensingChange (d : Dev) : Dev :=
  let d := reviewConvs d
  let due := condensingDue d
  let d := fset d (srvReg R.SRV_STATUS) F.SRV_STATUS_CONDENSING (b2n due)
  if due then condenseOld d.srv.convs.length d else d

/-! ## Tenants (R298, R333) -/

/-- A tag may be given to an identity: it is its own already, or no cistern line holds tiles of it (R292). -/
def tagFree (d : Dev) (ident : List Byte) (tag : Nat) : Bool :=
  !(d.srv.tagLines.any fun t => t.tag == tag) || !(d.srv.tagOwners.any fun o => o.1 == tag) || d.srv.tagOwners.contains (tag, ident)

/-- An entry of the tenant table is set, or removed by tag 0. A tag that R292 bars is not given. -/
def setTenant (d : Dev) (ident : List Byte) (tag : Nat) : Dev :=
  let ident := ident.take 32
  if tag ≠ 0 && !tagFree d ident tag then d
  else
    let l := d.srv.tenants.filter fun e => e.1 != ident
    let owners := if d.srv.tagLines.any fun t => t.tag == tag then d.srv.tagOwners else d.srv.tagOwners.filter fun o => o.1 != tag
    { d with srv := { d.srv with
        tenants := if tag = 0 then l else l ++ [(ident, tag)]
        tagOwners := if tag = 0 then d.srv.tagOwners else (owners ++ [(tag, ident)]).eraseDups } }

/-- The tag of a connection's identity. -/
def tenantTag (d : Dev) (ident : List Byte) : Nat := ((d.srv.tenants.find? fun e => e.1 == ident.take 32).map Prod.snd).getD 0

/-- The streams of a connection that carry a request. -/
def openStreams (d : Dev) (a n : Nat) : Nat :=
  (d.srv.slots.filter fun e => match e.2.conn with
    | .http x y _ => x == a && y == n && e.2.state != .ending
    | _ => false).length

/-- What has arrived of a request record is whole, or broken already: its header is there, and the payload that it names, or its
magic number is wrong. -/
def recordWhole (bs : List Byte) : Bool :=
  (4 ≤ bs.length && numAt bs 0 4 != 0x5152545A)
    || (128 ≤ bs.length && 128 + 4 * numAt bs 84 2 + numAt bs 88 4 ≤ bs.length)

/-- A REQUEST frame: the record comes across consecutive frames of one SRC (R299). -/
def requestFrame (d : Dev) (src tag : Nat) (kv : KvShape) (bytes : List Byte) : Dev :=
  let bs := mgetD d.srv.intake src [] ++ bytes
  let keep (l : SMap (List Byte)) : Dev := { d with srv := { d.srv with intake := l } }
  if recordWhole bs then request (keep (mdel d.srv.intake src)) (.fabric src) tag d.tally kv bs
  else keep (mset d.srv.intake src bs)

/-- A request, by the route it takes (R23, R293): HTTP/2 on an aqueduct that is UP in Ethernet mode, where a connection has
at most 1,024 streams (R234), or the fabric. -/
def requestBy (d : Dev) (c : ClientConn) (kv : KvShape) (bytes : List Byte) : Dev :=
  match c with
  | .http a n s ident =>
    if !aqdEthernetUp d a then d
    else if 1024 ≤ openStreams d a n then emit d .refusal [a, n, s]
    else request d (.http a n s) (tenantTag d ident) d.tally kv bytes
  | .fabric h tag => arriveAt d h.arrival 5 .service [1, tag] bytes fun d => requestFrame d h.src tag kv bytes

/-- A cancel record, a POST over HTTP/2; on the fabric a cancel is an express flit, and R299 gives a record no subtype. -/
def cancelBy (d : Dev) (c : ClientConn) (bytes : List Byte) : Dev :=
  match c with
  | .http a n s ident => if aqdEthernetUp d a then cancelRecord d (.http a n s) (tenantTag d ident) bytes else d
  | .fabric .. => d

end Sys2Proof.Machine
end

