-- ==== Sys2Proof/Machine/Selection.lean ====
section
/-! DEFINITION. Machine/Selection: what the serving engine writes for a step before it runs: the selection records and count
lists of its requests (R311 to R314), and the mask where two epochs may not share a step (R288). -/

namespace Sys2Proof.Machine

/-- The selection units of the device (R311). -/
def selectionUnits (d : Dev) : List (Nat × Nat × UnitCtx) :=
  d.blocks.flatMap fun e => (List.range 4).filterMap fun s =>
    if slotValid d (e.1 / 24) (e.1 % 24) s then
      let u := unitCtx d (e.1 / 24) (e.1 % 24) s
      if u.hdr.rowtab + 14352 ≤ u.hdr.narrowRows then some (e.1 / 24, e.1 % 24, u) else none
    else none

/-- Narrow rows of the count pool that every selection unit has. -/
def poolRows (d : Dev) : Nat :=
  ((selectionUnits d).map fun x => x.2.2.hdr.narrowRows - (x.2.2.hdr.rowtab + 14352)).foldl min 32768

/-- Bytes are written into the rows of a selection unit, from a row of its area on. -/
def putArea (row : Nat) (bs : List Byte) (d : Dev) (x : Nat × Nat × UnitCtx) : Dev :=
  let b := blk d x.1 x.2.1
  setBlk d x.1 x.2.1 { b with well := memWrite b.well (rowAddr true (x.2.2.base.narrow + x.2.2.hdr.rowtab + row)) bs }

/-- The selection record of a request whose list has its first `k` entries in the pool from a row of the area on (R313). -/
def selectionRecord (s : Slot) (row k : Nat) : List Byte :=
  s.sampling.take 28 ++ leBytes 4 (if k = 0 then 0 else row + k * pow2 15) ++ leBytes 8 s.seed ++ leBytes 4 (s.spill.headD 0)
    ++ leBytes 4 (s.counts.length - k) ++ leBytes 1 s.proposals.length ++ leBytes 3 0
    ++ ((s.proposals ++ List.replicate 7 noToken).take 7).flatMap (leBytes 4) ++ List.replicate 48 0

/-- The requests that have sampled rows in a step, each with the selection record that its rows name. -/
def sampledSlots (rows : List RowUse) : List (Nat × Nat) :=
  ((rows.filter RowUse.sample).map fun q => (q.slot, q.srec)).eraseDups

/-- The record and the count list of one request; `at_` is the first row of the pool that is free. The lists lie one after
another, and what the pool has no room for is spilled (R314; log entry 113). -/
def writeRequest (x : Dev × Nat) (r : Nat × Nat) : Dev × Nat :=
  match slot x.1 r.1 with
  | none => x
  | some s =>
    if s.holderOf.isSome || s.state = .ending then x
    else
      let k := min (min s.counts.length poolEntries) (8 * (14352 + poolRows x.1 - x.2))
      let d := spillBeyond x.1 r.1 s k
      let s := (slot d r.1).getD s
      let d := (selectionUnits d).foldl (putArea x.2 (countBytes (s.counts.take k))) d
      let d := (selectionUnits d).foldl (putArea (2064 + 2 * r.2) (selectionRecord s x.2 k)) d
      (if k < s.counts.length then fcnt d (srvReg R.SRV_SEL_CNT) F.SRV_SEL_CNT_SPILLED 1 else d, x.2 + (k + 7) / 8)

/-- The records and lists of the step's requests are brought up to date in every selection unit. -/
def writeSelection (d : Dev) : Dev :=
  if (selectionUnits d).isEmpty then d
  else ((sampledSlots (tableRows d d.step.number)).foldl writeRequest (d, 14352)).1

/-- Rows that the step's program may not run: with SHARED set, those of a request of an epoch with another program (R288). -/
def strangeRows (d : Dev) : List Nat :=
  (tableRows d d.step.number).filterMap fun q =>
    match slot d q.slot with
    | none => none
    | some s =>
      if flag d (modelReg R.SRV_MT_CTRL s.model) F.SRV_MT_CTRL_SHARED
          && ((epochOf d s.model s.epoch).any fun e => e.program != d.step.hdr.programId) then some q.row
      else none

/-- What the serving engine writes before a step starts. -/
def prepareStep (d : Dev) : Dev :=
  let l := strangeRows d
  writeSelection (if l.isEmpty then d else clearMaskRows d (d.step.number % 2) l)

/-- An operation that may start a step: what the serving engine writes for the step is in place first. -/
def startsStep (d : Dev) (f : Dev → Dev) : Dev :=
  let e := f d
  if !d.step.running && e.step.running then f (prepareStep d) else e

end Sys2Proof.Machine
end

