-- ==== Sys2Proof/Machine/Weights.lean ====
section
/-! DEFINITION. Machine/Weights: the weights' way (R270 to R292): manifests, shards, placement, scrubbing and repair, the
model table, the boot model messages (R349). -/

namespace Sys2Proof.Machine

/-! ## Manifests (R270, R271, R274) -/

/-- Bytes `lo` to `hi - 1` of a record are zero. -/
def zeroBytes (bs : List Byte) (lo hi : Nat) : Bool := ((bs.drop lo).take (hi - lo)).all fun b => b == 0

/-- A shard record. -/
def parseShard (r : List Byte) : Shard :=
  { offset := numAt r 0 8, length := numAt r 8 4, source := numAt r 12 1, kind := numAt r 13 1, slice := numAt r 14 2,
    tenant := numAt r 16 2, placeFirst := numAt r 18 4, placeCount := numAt r 22 4, digest := (r.drop 64).take 64 }

/-- `n` records of `w` bytes from a place on. -/
def records (w n : Nat) (bs : List Byte) : List (List Byte) := (List.range n).map fun i => (bs.drop (w * i)).take w

/-- A source record is laid out as R270 gives: an HTTPS object has no namespace, an NVMe namespace no path. -/
def sourceOk (r : List Byte) : Bool :=
  numAt r 0 1 < 3 && zeroBytes r 1 2 && if numAt r 0 1 = 2 then zeroBytes r 20 24 else zeroBytes r 256 512

/-- Text without its padding of NULs. -/
def unpadded (bs : List Byte) : List Byte := bs.takeWhile fun b => b != 0

/-- A source record. -/
def parseSource (r : List Byte) : Source :=
  { kind := numAt r 0 1, port := numAt r 2 2, addr := (r.drop 4).take 16, nsid := numAt r 20 4,
    name := unpadded ((r.drop 24).take 232), path := unpadded ((r.drop 256).take 256) }

/-- A run of cistern lines: home block, unit index, first line, count (R271). -/
def lineRun (x : Nat) : Nat × Nat × Nat × Nat := (bits x 0 11, bits x 11 2, bits x 13 17, bits x 30 17 + 1)

/-- The placement records of a shard. -/
def placementsOf (m : Manifest) (s : Shard) : List Nat := (m.placements.drop s.placeFirst).take s.placeCount

/-- A shard record lies within the counts, and its runs hold its length. -/
def shardOk (m : Manifest) (s : Shard) (r : List Byte) : Bool :=
  let ps := placementsOf m s
  let lines := (ps.map fun x => (lineRun x).2.2.2).sum
  let pages := (ps.map fun x => bits x 19 19 + 1).sum
  0 < s.length && s.length % 1024 = 0 && s.source < m.sources.length && s.kind < 4
    && (s.kind = 3 || s.slice < m.slices) && 0 < s.placeCount && s.placeFirst + s.placeCount ≤ m.placements.length
    && zeroBytes r 26 64
    && (if s.kind = 0 then ps.all (fun x => x < pow2 47) && lines * 1024 = s.length
        else ps.all (fun x => x < pow2 38) && s.length ≤ pages * 2097152)

/-- A manifest, or none where it is not laid out as R270 to R272 give. -/
def parseManifest (bs : List Byte) : Option Manifest :=
  let nsrc := numAt bs 22 1
  let nsh := numAt bs 24 4
  let npl := numAt bs 28 4
  if bs.length < 256 ∨ 16777216 < bs.length ∨ numAt bs 0 4 ≠ 0x4D57545A ∨ numAt bs 4 2 ≠ 1 ∨ numAt bs 16 4 = pow2 32 - 1
      ∨ numAt bs 20 2 = 0 ∨ nsrc = 0 ∨ 16 < nsrc ∨ nsh = 0 ∨ 65536 < nsh ∨ npl = 0 ∨ pow2 24 < npl
      ∨ bs.length ≠ 256 + 512 * nsrc + 128 * nsh + 8 * npl ∨ !zeroBytes bs 23 24 ∨ !zeroBytes bs 36 256 then none
  else
    let sources := records 512 nsrc (bs.drop 256)
    let shards := records 128 nsh (bs.drop (256 + 512 * nsrc))
    let m : Manifest :=
      { edition := numAt bs 6 2, modelId := numAt bs 8 8, epoch := numAt bs 16 4, slices := numAt bs 20 2,
        sources := sources.map parseSource,
        shards := shards.map parseShard, placements := groupLe 8 npl (bs.drop (256 + 512 * nsrc + 128 * nsh)),
        prevEpoch := numAt bs 32 4 }
    if sources.all sourceOk && (shards.all fun r => shardOk m (parseShard r) r)
        && (m.shards.filter fun s => s.kind = 3).length = 1 then some m
    else none

/-- The block and unit slot that host a unit of a home block: on the home die, the slot whose unit header names them. -/
def hostOf (d : Dev) (home index : Nat) : Option (Nat × Nat × UnitCtx) :=
  let die := home / 24
  dieBlocks.findSome? fun b =>
    (List.range 4).findSome? fun s =>
      if slotValid d die b s then
        let u := unitCtx d die b s
        if u.hdr.home = home && u.hdr.index = index then some (die, b, u) else none
      else none

/-! ## Pages of an epoch

A page is named by one number: half a sub-bank of a cistern by global block × 64 + half, a reservoir page by 2^20 more
than its number. -/

/-- The number of a cistern page. -/
abbrev cisPage (g half : Nat) : Nat := g * 64 + half
/-- The number of a reservoir page. -/
abbrev rsvPage (p : Nat) : Nat := 1048576 + p
/-- The number of a page. -/
def PageRef.key : PageRef → Nat
  | .cistern die b h => cisPage (gblock die b) h
  | .reservoir p => rsvPage p

/-- The location identifier of a page (R375, R376). -/
def pageLoc (k : Nat) : Nat :=
  if k < 1048576 then locId (k / 64 / 24) 0 (k / 64 % 24 * 32 + k % 64 / 2)
  else let p := k - 1048576
       locId (48 + p % 8) 3 (p / 8)

/-- The ground page of a cistern page, where the sub-bank's ground register is valid (R114). -/
def groundPage (d : Dev) (k : Nat) : Option Nat :=
  let g := k / 64
  let a := ctl (R.CIS_GROUND + 4 * (k % 64 / 2)) (g / 24) (g % 24)
  if flag d a F.CIS_GROUND_VALID then some (fget d a F.CIS_GROUND_PAGE + k % 2) else none

/-- The reservoir page whose REFS counts a page. -/
def countedPage (d : Dev) (k : Nat) : Option Nat := if k < 1048576 then groundPage d k else some (k - 1048576)

/-- The bytes of a page as it stands. -/
def pageBytes (d : Dev) (k : Nat) : List Byte :=
  if k < 1048576 then
    memRead d.epoch (unitCis (k / 64)) (blk d (k / 64 / 24) (k / 64 % 24)).cistern (k % 64 * 2097152) 2097152
  else rsvRead d ((k - 1048576) * 2097152) 2097152

/-- The bytes of a page are written. -/
def putPage (d : Dev) (k : Nat) (bs : List Byte) : Dev :=
  if k < 1048576 then
    let die := k / 64 / 24
    let b := k / 64 % 24
    let x := blk d die b
    setBlk d die b { x with cistern := memWrite x.cistern (k % 64 * 2097152) bs }
  else putRsv d ((k - 1048576) * 2097152) bs

/-! ## Live epochs (R286, R289) -/

/-- The epochs of a model that the device holds. -/
def Model.epochs (m : Model) : List EpochRec := m.staged.toList ++ m.active.toList ++ m.prev.toList

/-- The epochs of the device. -/
def allEpochs (d : Dev) : List EpochRec := d.srv.models.flatMap fun e => e.2.epochs

/-- An epoch of a model is changed. -/
def updEpoch (d : Dev) (m ep : Nat) (f : EpochRec → EpochRec) : Dev :=
  let x := model d m
  let g (e : EpochRec) : EpochRec := if e.epoch = ep then f e else e
  setModel d m { x with staged := x.staged.map g, active := x.active.map g, prev := x.prev.map g }

/-- The epochs of the device with their models. -/
def modelEpochs (d : Dev) : List (Nat × EpochRec) := d.srv.models.flatMap fun x => x.2.epochs.map fun e => (x.1, e)

/-- The shards of an epoch with their places. -/
def EpochRec.numbered (e : EpochRec) : List (Nat × Shard × ShardStage) :=
  (e.manifest.shards.zip e.stages).mapIdx fun i p => (i, p)

/-- A shard and its stage in an epoch of a model. -/
def shardAt (d : Dev) (m ep i : Nat) : Option (EpochRec × Shard × ShardStage) :=
  ((modelEpochs d).find? fun x => x.1 == m && x.2.epoch == ep).bind fun x =>
    match x.2.manifest.shards[i]?, x.2.stages[i]? with
    | some s, some st => some (x.2, s, st)
    | _, _ => none

/-- Every epoch of the device is changed. -/
def mapEpochs (d : Dev) (f : EpochRec → EpochRec) : Dev :=
  { d with srv := { d.srv with models := d.srv.models.map fun e =>
      (e.1, { e.2 with staged := e.2.staged.map f, active := e.2.active.map f, prev := e.2.prev.map f }) } }

/-- An epoch that uses a page. -/
def epochUsing (d : Dev) (k : Nat) : Option EpochRec := (allEpochs d).find? fun e => (mget e.scrub k).isSome

/-- A page leaves an epoch: REFS falls by 1, and at 0 the page is FREE and the cistern page's ground register clears when
its other page is released too, or has never been used (R289). -/
def unrefPage (d : Dev) (k : Nat) : Dev :=
  match countedPage d k with
  | none => d
  | some p =>
    let e := pageEntry d p
    let n := pageRefs d p - 1
    if 0 < n then setPage d p (entryKind e) n (bit e.toNat 3)
    else
      let d := setPage d p 0 0 false
      if k < 1048576 then
        let g := k / 64
        let other := (groundPage d (k + 1 - 2 * (k % 2))).filter fun q => entryKind (pageEntry d q) == 1
        if other.any fun q => 0 < pageRefs d q then d
        else fset (freePageList d other.toList) (ctl (R.CIS_GROUND + 4 * (k % 64 / 2)) (g / 24) (g % 24)) F.CIS_GROUND_VALID 0
      else d

/-- A page joins an epoch: REFS rises by 1. -/
def refPage (d : Dev) (k : Nat) : Dev :=
  match countedPage d k with
  | none => d
  | some p =>
    let e := pageEntry d p
    setPage d p (entryKind e) (pageRefs d p + 1) (bit e.toNat 3)

/-- An epoch stops being live: its pages leave it, and what firmware kept of it goes. -/
def releaseEpoch (d : Dev) (e : EpochRec) : Dev :=
  freePageList (e.scrub.foldl (fun d k => unrefPage d k.1) d) (e.hall ++ e.digests)

/-- SRV_MT_LOAD of a model. -/
def setLoad (d : Dev) (m st : Nat) : Dev := fset d (modelReg R.SRV_MT_LOAD m) F.SRV_MT_LOAD_STATE st

/-- The load state of a model as loading goes on: while an epoch is active it stays as it is (log entry 41). -/
def goLoad (d : Dev) (m st : Nat) : Dev := if (model d m).active.isSome then d else setLoad d m st

/-- The device needs a shard: its slice's, or the tokenizer. -/
def needed (e : EpochRec) (s : Shard) : Bool := s.kind = 3 || s.slice = e.slice

/-- PROGRAM_ID of the epoch that is being staged: what stands in its group's shadow (R287). -/
def stagedProgram (d : Dev) (m : Nat) : Nat :=
  (shadowOf d (modelReg R.SRV_MT_PROG_LO m)).toNat + (shadowOf d (modelReg R.SRV_MT_PROG_HI m)).toNat * pow2 32

/-- The counts and state of a load follow its shards (R281): with every needed shard placed the staging has ended and the epoch
is live (R286), and with its step program loaded the model is READY. -/
def showLoad (d : Dev) (m : Nat) (e : EpochRec) : Dev :=
  let pairs := (e.manifest.shards.zip e.stages).filter fun p => needed e p.1
  let n := (pairs.filter fun p => p.2 == .placed).length
  let d := fset d (modelReg R.SRV_MT_LOAD m) F.SRV_MT_LOAD_SHARDS (min n 65535)
  if n ≠ pairs.length then d
  else
    let d := if e.live then d else setModel d m { model d m with staged := some { e with live := true } }
    let id := stagedProgram d m
    if !(d.step.loaded.any fun x => x.1 = id) || d.step.nextHdr.any fun h => h.programId = id then d
    else
      let d := setLoad d m 3
      if d.boot.admitted then d
      else fset { d with boot := { d.boot with admitted := true } } (srvReg R.SRV_CTRL) F.SRV_CTRL_ADMIT 1

/-- A load that waited for its step program goes on. -/
def showStaged (d : Dev) (m : Nat) : Dev :=
  match (model d m).staged with
  | some e => if e.live then showLoad d m e else d
  | none => d

/-- Loads go on, previous epochs without pins stop being live, and models under removal end when their pins reach zero. -/
def settleModels (d : Dev) : Dev :=
  showServing (d.srv.models.foldl (fun d e =>
    let m := e.1
    let d := showStaged d m
    let x := model d m
    let d := match x.prev with
      | some r =>
        if pins d m r.epoch = 0 then
          wr (setModel (releaseEpoch d r) m { x with prev := none }) (modelReg R.SRV_MT_PREV m) (BitVec.ofNat 32 (pow2 32 - 1))
        else d
      | none => d
    let x := model d m
    let left := ((x.active.map EpochRec.epoch).map (pins d m)).getD 0
    if x.removing && x.prev.isNone && left = 0 then
      let d := x.epochs.foldl releaseEpoch d
      let d := setModel d m {}
      let d := wr (wr d (modelReg R.SRV_MT_EPOCH m) (BitVec.ofNat 32 (pow2 32 - 1))) (modelReg R.SRV_MT_LOAD m) 0
      fset d (modelReg R.SRV_MT_CTRL m) F.SRV_MT_CTRL_VALID 0
    else d) d)

/-! ## Boot model messages (R349) -/

/-- Firmware accepts messages of a privilege of 0b10 or higher. -/
def privileged (stamp : BitVec 32) : Bool := 2 ≤ bits stamp.toNat 30 2

/-- A MODEL_PART message delivers a part of an entry. -/
def modelPart (d : Dev) (stamp : BitVec 32) (msg : List Byte) : Dev :=
  let m := numAt msg 1 1
  let part := numAt msg 2 1
  if !privileged stamp || numAt msg 0 1 ≠ 1 || 64 ≤ m || 13 ≤ part then d
  else
    let x := model d m
    setModel d m { x with parts := mset x.parts part ((msg.drop 8).take 48) }

/-- A MODEL_COMMIT message starts the load of a model whose parts are complete; an entry that R349 leaves unused starts
none. -/
def modelCommit (d : Dev) (stamp : BitVec 32) (msg : List Byte) : Dev :=
  let m := numAt msg 1 1
  let x := model d m
  if !privileged stamp || numAt msg 0 1 ≠ 2 || 64 ≤ m || (List.range 13).any fun i => (mget x.parts i).isNone then d
  else
    let entry := ((List.range 13).flatMap fun i => (mget x.parts i).getD []).take 592
    let len := numAt entry 4 4
    if len < 256 ∨ 16777216 < len ∨ x.staged.isSome then d
    else goLoad (setModel d m { x with parts := [], entry, expected := (entry.drop 16).take 64 }) m 1

/-- A MODEL_REMOVE message ends a model when its pins reach zero. -/
def modelRemove (d : Dev) (stamp : BitVec 32) (msg : List Byte) : Dev :=
  let m := numAt msg 1 1
  if !privileged stamp || numAt msg 0 1 ≠ 3 || 64 ≤ m || (mget d.srv.models m).isNone then d
  else settleModels (setModel d m { model d m with removing := true })

/-! ## Manifest check and shards (R274 to R278) -/

/-- A page of a manifest may be used: FREE, or one of PREV_EPOCH's. -/
def pageAllowed (d : Dev) (prev : Option EpochRec) (p : Nat) : Bool :=
  p < pageCount && (entryKind (pageEntry d p) == 0 || (prev.map fun e => (mget e.scrub (rsvPage p)).isSome).getD false)

/-- Every placement of a manifest lies in the loaded program's segments or in pages it may use. -/
def placesOk (d : Dev) (m : Manifest) (prev : Option EpochRec) : Bool :=
  m.shards.all fun s => (placementsOf m s).all fun x =>
    if s.kind = 0 then
      let r := lineRun x
      match hostOf d r.1 r.2.1 with
      | some (_, _, u) => r.2.2.1 + r.2.2.2 ≤ u.hdr.cisLines
      | none => false
    else (List.range (bits x 19 19 + 1)).all fun i => pageAllowed d prev (bits x 0 19 + i)

/-- A shard of the previous epoch is reused: one with the same digest, slice, tenant and runs (R280). -/
def reusable (m : Manifest) (prev : EpochRec) (s : Shard) : Bool :=
  prev.manifest.shards.any fun t => t.digest == s.digest && t.slice == s.slice && t.tenant == s.tenant && t.kind == s.kind
    && placementsOf prev.manifest t == placementsOf m s

/-- The host line of line `i` of a run. -/
def hostLine (d : Dev) (r : Nat × Nat × Nat × Nat) (i : Nat) : Option (Nat × Nat) :=
  (hostOf d r.1 r.2.1).map fun h => (gblock h.1 h.2.1, h.2.2.base.cis + r.2.2.1 + i)

/-- The pages that a shard touches. -/
def shardPages (d : Dev) (m : Manifest) (s : Shard) : List Nat :=
  ((placementsOf m s).flatMap fun x =>
    if s.kind = 0 then
      let r := lineRun x
      match hostLine d r 0, hostLine d r (r.2.2.2 - 1) with
      | some (g, lo), some (_, hi) => (List.range (hi / 2048 + 1 - lo / 2048)).map fun i => cisPage g (lo / 2048 + i)
      | _, _ => []
    else (List.range (bits x 19 19 + 1)).map fun i => rsvPage (bits x 0 19 + i)).eraseDups

/-- HALL pages for what firmware keeps, a run of consecutive ones; none where no run is free. -/
def takeHall (d : Dev) (n : Nat) : Option (Dev × List Nat) :=
  (kvRun d n).map fun l => (takePages d l 6 false false, l)

/-- The HALL pages of an epoch's scrub digests follow their number, and the digests lie there in the order of their pages
(R280). -/
def storeDigests (d : Dev) (m : Nat) (e : EpochRec) : Dev :=
  let more := pagesFor (64 * e.scrub.length) - e.digests.length
  let x := (takeHall d more).getD (d, [])
  let l := e.digests ++ x.2
  updEpoch (putPages l (e.scrub.flatMap Prod.snd) x.1) m e.epoch fun e => { e with digests := l }

/-- A manifest has been fetched into HALL pages (R274): it is accepted, and shards that the previous epoch shares count as
placed; or it is refused whole and the load has failed. Until pages are free the fetch waits. -/
def manifestCheck (d : Dev) (m slice : Nat) (bs : List Byte) : Dev :=
  let x := model d m
  match takeHall d (pagesFor bs.length) with
  | none => d
  | some (d', hall) =>
  if x.expected.isEmpty || x.staged.isSome then d
  else
    let d := putPages hall bs d'
    let refuse (d : Dev) : Dev := setLoad (setModel (freePageList d hall) m { x with expected := [] }) m 4
    let prevOf (n : Nat) : Option EpochRec := x.epochs.find? fun e => e.epoch = n
    match if sha512 bs == x.expected then parseManifest bs else none with
    | none => refuse d
    | some mf =>
      let prev := if mf.prevEpoch = pow2 32 - 1 then none else prevOf mf.prevEpoch
      if mf.edition ≠ edition d ∨ !placesOk d mf prev then refuse d
      else
        let kept (s : Shard) : Bool := (prev.map fun e => reusable mf e s).getD false
        let e : EpochRec :=
          { epoch := mf.epoch, modelId := mf.modelId, digest := sha512 bs, manifest := mf, slice, hall,
            stages := mf.shards.map fun s => if kept s then .placed else .waiting }
        let pages := ((mf.shards.filter fun s => needed e s && kept s).flatMap (shardPages d mf)).eraseDups
        let old (k : Nat) : List Byte := ((prev.map fun p => mgetD p.scrub k []).getD [])
        let e := { e with scrub := pages.foldl (fun sc k => mset sc k (old k)) [] }
        let d := pages.foldl refPage d
        let d := storeDigests (setModel d m { x with expected := [], staged := some e }) m e
        showLoad d m ((model d m).staged.getD e)

/-- A shard has failed once more: a third failure fails the load. -/
def shardFailed (d : Dev) (m i : Nat) (e : EpochRec) : Dev :=
  let n := mgetD e.tries i 0 + 1
  let x := model d m
  let st : ShardStage := if n = 3 then .failed else .waiting
  let e := { e with tries := mset e.tries i n, stages := e.stages.set i st, asked := e.asked.filter fun j => j != i,
                    retries := mdelRange e.retries (i * 4096) 4096 }
  let d := setModel d m { x with staged := some e }
  if n = 3 then fcnt (setLoad d m 4) (srvReg R.SRV_WT_CNT_B) F.SRV_WT_CNT_B_LOADFAIL 1 else d

/-- The staged epoch of a model with a shard and its stage. -/
def stagedShard (d : Dev) (m i : Nat) : Option (EpochRec × Shard × ShardStage) :=
  (model d m).staged.bind fun e =>
    match e.manifest.shards[i]?, e.stages[i]? with
    | some s, some st => if needed e s then some (e, s, st) else none
    | _, _ => none

/-- The loader of a shard among the members that serve the model (R275). -/
def loaderOf (e : EpochRec) (i : Nat) : Option Nat := e.members[i % e.members.length]?

/-- This device is the loader of a shard. -/
def isLoader (d : Dev) (e : EpochRec) (i : Nat) : Bool := loaderOf e i == some (ownFa d)

/-- What this device keeps of a shard as its loader. -/
def loading (e : EpochRec) (i : Nat) : Loading := mgetD e.loads i {}

/-- Staging pages for a shard: HALL pages on consecutive numbers (R276). -/
def stagePages (d : Dev) (s : Shard) : Option (Nat × Dev) :=
  (freeRun d (pagesFor s.length)).map fun p =>
    (p, (List.range (pagesFor s.length)).foldl (fun d j => setPage d (p + j) 6 0 false) d)

/-- The device reads a shard from its source (R276, R278): as its loader, where it has no bytes of it staged, until its
recipients hold it; or after two failures. -/
def readsShard (d : Dev) (e : EpochRec) (i : Nat) (s : Shard) : Bool :=
  let waits := e.stages[i]? == some .waiting
  let l := loading e i
  if isLoader d e i then
    waits && needed e s || l.page.isNone && !l.done && (waits || !l.askers.isEmpty)
  else waits && needed e s && 2 ≤ mgetD e.tries i 0

/-- A read of a shard's bytes goes out to its source: model, shard, kind of the source, port, namespace, first byte in the source
and number of bytes, with the source's address, name and path (R270, R276). -/
def readRange (d : Dev) (m i : Nat) (e : EpochRec) (s : Shard) (off n : Nat) : Dev :=
  match e.manifest.sources[s.source]? with
  | none => d
  | some o => emit d .storageRead [m, i, o.kind, o.port, o.nsid, s.offset + off, n] (o.addr ++ o.name ++ [0] ++ o.path)

/-- A read of at most 1 MiB of a shard (R276). -/
def readPiece (m i : Nat) (e : EpochRec) (s : Shard) (d : Dev) (k : Nat) : Dev :=
  readRange d m i e s (k * 1048576) (min 1048576 (s.length - k * 1048576))

/-- The reads of a shard go out in ascending order (R276). How many are outstanding at a time, the source's answers decide (log
entry 114). -/
def askSource (d : Dev) (m i : Nat) (e : EpochRec) (s : Shard) : Dev :=
  (List.range ((s.length + 1048575) / 1048576)).foldl (readPiece m i e s)
    (updEpoch d m e.epoch fun e => { e with asked := e.asked ++ [i] })

/-- The reads of the shards that this device is to read go out. -/
def startReads (d : Dev) : Dev :=
  (modelEpochs d).foldl (fun d x => x.2.numbered.foldl (fun d p =>
    if !x.2.asked.contains p.1 && readsShard d x.2 p.1 p.2.1 then askSource d x.1 p.1 x.2 p.2.1 else d) d) d

/-- The epoch whose shard a model's source reads are for: the one that is staged, or one whose shard is still asked for. -/
def readEpoch (d : Dev) (m i : Nat) : Option EpochRec :=
  (model d m).epochs.find? fun e => e.asked.contains i || (model d m).staged == some e

/-- A shard's reads into staging pages complete; a read that fails is retried up to 3 times, and then the shard fails (R276). A
recipient that fails at its loader reads for itself from then on (R278). -/
def shardStaged (d : Dev) (m i : Nat) (a : ShardArrival) : Dev :=
  match readEpoch d m i with
  | none => d
  | some e =>
    match e.manifest.shards[i]? with
    | none => d
    | some s =>
      let own := needed e s && e.stages[i]? == some .waiting
      match a with
      | .failed k =>
        let n := mgetD e.retries (i * 4096 + k) 0
        if e.asked.contains i && readsShard d e i s && n < 3 then
          readPiece m i e s (updEpoch d m e.epoch fun e => { e with retries := mset e.retries (i * 4096 + k) (n + 1) }) k
        else if own then shardFailed d m i (if isLoader d e i then e else { e with tries := mset e.tries i (max 1 (mgetD e.tries i 0)) })
        else d
      | .read bs =>
        if !readsShard d e i s then d
        else match stagePages d s with
          | none => d
          | some (p, d) =>
            let e := { e with asked := e.asked.filter (fun j => j != i), retries := mdelRange e.retries (i * 4096) 4096 }
            let e := if own then { e with stages := e.stages.set i (.staged p) } else e
            let e := if isLoader d e i then { e with loads := mset e.loads i { loading e i with page := some p } } else e
            updEpoch (putRsv d (p * 2097152) (bs.take s.length)) m e.epoch fun _ => e

/-- A device that has done with a shard's staging pages frees them (R278, R279), but a loader that recipients still want
pieces of. -/
def leaveStaging (d : Dev) (m i p : Nat) (s : Shard) (keep : Bool) : Dev :=
  let x := model d m
  match x.staged with
  | none => d
  | some e =>
    let l := loading e i
    if keep && l.page = some p && !l.askers.isEmpty then d
    else
      setModel (freePageRun d p (pagesFor s.length)) m
        { x with staged := some { e with
            loads := if l.page = some p then mset e.loads i { l with page := none, done := keep } else e.loads } }

/-- Tokens of a tokenizer shard: string and flags; none where an entry breaks R272. -/
def shardTokens (bs : List Byte) : Option (List (List Byte × Nat)) :=
  let v := numAt bs 8 4
  let pool := 128 + 8 * v + 12 * numAt bs 12 4
  let entry (t : Nat) : Option (List Byte × Nat) :=
    let o := numAt bs (128 + 8 * t) 4
    let n := numAt bs (132 + 8 * t) 2
    let f := numAt bs (134 + 8 * t) 2
    if n ≤ 1024 && f < 4 && pool + o + n ≤ bs.length then some ((bs.drop (pool + o)).take n, f) else none
  let l := (List.range v).map entry
  if l.all Option.isSome then some (l.filterMap id) else none

/-- The merge entries of a tokenizer shard. -/
def shardMerges (bs : List Byte) : List (Nat × Nat × Nat) :=
  let first := 128 + 8 * numAt bs 8 4
  (List.range (numAt bs 12 4)).map fun i => (numAt bs (first + 12 * i) 4, numAt bs (first + 12 * i + 4) 4, numAt bs (first + 12 * i + 8) 4)

/-- A tokenizer shard is laid out as R272's table gives: its header, its counts and its end tokens. -/
def tokenizerLaid (bs : List Byte) : Bool :=
  let v := numAt bs 8 4
  let n := numAt bs 12 4
  let ends := numAt bs 7 1
  128 ≤ bs.length && numAt bs 0 4 == 0x4B54545A && numAt bs 4 2 == 1 && numAt bs 6 1 < 2 && 1 ≤ ends && ends ≤ 16
    && 256 ≤ v && v ≤ pow2 24 && n + 256 ≤ v && zeroBytes bs 80 128 && 128 + 8 * v + 12 * n ≤ bs.length
    && (List.range 16).all fun i => if i < ends then numAt bs (16 + 4 * i) 4 < v else numAt bs (16 + 4 * i) 4 == pow2 32 - 1

/-- Firmware accepts a tokenizer shard (R272): one BYTE token for each byte value, no SPECIAL token among the merges, each merge
the string of its two tokens, and no pair twice. -/
def tokenizerOk (bs : List Byte) : Bool :=
  tokenizerLaid bs && match shardTokens bs with
  | none => false
  | some l =>
    let merges := shardMerges bs
    let str (t : Nat) : Option (List Byte) := l[t]?.map Prod.fst
    let special (t : Nat) : Bool := (l[t]?.map fun x => bit x.2 1).getD true
    let bytes := (l.filter fun x => bit x.2 0).map Prod.fst
    bytes.length == 256 && (List.range 256).all (fun b => bytes.contains [BitVec.ofNat 8 b])
      && merges.all (fun x => !special x.1 && !special x.2.1 && !special x.2.2
        && match str x.1, str x.2.1, str x.2.2 with
          | some a, some b, some c => c == a ++ b
          | _, _, _ => false)
      && (merges.map fun x => x.1 * pow2 32 + x.2.1).eraseDups.length == merges.length

/-- The staging pages of a shard at its stage, and of its loader. -/
def stagePagesOf (e : EpochRec) (i : Nat) (s : Shard) : List Nat :=
  let run (p : Nat) : List Nat := (List.range (pagesFor s.length)).map (p + ·)
  let own := match e.stages[i]? with
    | some (.staged p) | some (.verified p) | some (.receiving p _) => run p
    | _ => []
  (own ++ ((loading e i).page.map run).getD []).eraseDups

/-- The manifest that is being staged is refused (R272, R274): nothing more of it is fetched, its pages are freed and released,
and the load has failed. -/
def refuseStaged (d : Dev) (m : Nat) : Dev :=
  match (model d m).staged with
  | none => d
  | some e =>
    let mine (w : StageWin) : Bool := w.model == m && w.epoch == e.epoch
    let d := (d.srv.stageWins.filter mine).foldl (fun d w => if w.opened then closeWindow d w.window else d) d
    let d := { d with srv := { d.srv with stageWins := d.srv.stageWins.filter fun w => !mine w } }
    let d := e.manifest.shards.zipIdx.foldl (fun d q => freePageList d (stagePagesOf e q.2 q.1)) d
    setLoad (setModel (releaseEpoch d e) m { model d m with staged := none }) m 4

/-- A shard's digest has been computed: a match leads to placement, but for a tokenizer shard that R272 does not accept, with
which the manifest is refused; a mismatch frees its staging pages. -/
def shardDigest (d : Dev) (m i : Nat) : Dev :=
  match stagedShard d m i with
  | some (e, s, .staged p) =>
    let bs := rsvRead d (p * 2097152) s.length
    if sha512 bs == s.digest then
      if s.kind = 3 && !tokenizerOk bs then refuseStaged d m
      else
      let x := model d m
      goLoad (setModel d m { x with staged := some { e with stages := e.stages.set i (.verified p) } }) m 2
    else
      let d := leaveStaging d m i p s false
      shardFailed d m i ((model d m).staged.getD e)
  | _ => d

/-! ## Placement (R279, R280) -/

/-- The ground pages of a sub-bank are allocated on first use: the lowest two consecutive FREE pages (R279). Where the pair
stands for the other half alone, the page of this half that was released is taken again while it is FREE; where it is not,
the pair moves to fresh pages, the other half's copy with it. -/
def groundPair (d : Dev) (k : Nat) : Dev :=
  let g := k / 64
  let a := ctl (R.CIS_GROUND + 4 * (k % 64 / 2)) (g / 24) (g % 24)
  match groundPage d k with
  | none =>
    match freeRun d 2 with
    | none => d
    | some p => fsets (setPage (setPage d p 1 0 false) (p + 1) 1 0 false) a [(F.CIS_GROUND_PAGE, p), (F.CIS_GROUND_VALID, 1)]
  | some q =>
    if entryKind (pageEntry d q) = 1 then d
    else if entryKind (pageEntry d q) = 0 then setPage d q 1 0 false
    else
      match freeRun d 2 with
      | none => d
      | some p =>
        let o := q + 1 - 2 * (k % 2)
        let own := p + k % 2
        let other := p + 1 - k % 2
        let d := setPage (setPage d own 1 0 false) other 1 (pageRefs d o) false
        let d := putRsv d (other * 2097152) (rsvRead d (o * 2097152) 2097152)
        setPage (fset d a F.CIS_GROUND_PAGE p) o 0 0 false

/-- The host lines of a CISTERN shard: global block, first line and count of each run. -/
def shardLines (d : Dev) (m : Manifest) (s : Shard) : List (Nat × Nat × Nat) :=
  if s.kind = 0 then (placementsOf m s).filterMap fun x =>
    let r := lineRun x
    (hostLine d r 0).map fun h => (h.1, h.2, r.2.2.2)
  else []

/-- The host lines that the placed weights of an epoch take. -/
def placedLines (d : Dev) (e : EpochRec) : List (Nat × Nat × Nat) :=
  e.numbered.flatMap fun p => if needed e p.2.1 && p.2.2 == .placed then shardLines d e.manifest p.2.1 else []

/-- The epochs of the device but one of a model. -/
def otherEpochs (d : Dev) (m : Nat) (e : EpochRec) : List EpochRec :=
  ((modelEpochs d).filter fun x => x.1 != m || x.2.epoch != e.epoch).map Prod.snd

/-- Two runs of host lines meet. -/
def linesMeet (a b : Nat × Nat × Nat) : Bool := a.1 == b.1 && a.2.1 < b.2.1 + b.2.2 && b.2.1 < a.2.1 + a.2.2

/-- A shard is placed only in lines and pages that no other epoch has weights in (R279): a program of a live one may read
them. -/
def shardClear (d : Dev) (m : Nat) (e : EpochRec) (s : Shard) (pages : List Nat) : Bool :=
  let lines := shardLines d e.manifest s
  (otherEpochs d m e).all fun o =>
    (placedLines d o).all (fun a => lines.all fun b => !linesMeet a b) && pages.all fun k => k < 1048576 || (mget o.scrub k).isNone

/-- Lines of a cistern are written, with their ground copy; they hold private tiles no more (R292). -/
def putHostLines (d : Dev) (g lo n : Nat) (bs : List Byte) : Dev :=
  let die := g / 24
  let b := g % 24
  let x := blk d die b
  let d := dropTags (setBlk d die b { x with cistern := memWrite x.cistern (lo * 1024) bs }) g lo n
  (List.range n).foldl (fun d i => putRsv d (groundAddr d die b (lo + i)) ((bs.drop (1024 * i)).take 1024)) d

/-- A page that an epoch touches for the first time: its REFS rises, and it is zero but for the weights of other epochs and
those to come. -/
def touchPage (m : Nat) (e : EpochRec) (d : Dev) (k : Nat) : Dev :=
  if (mget e.scrub k).isSome then d
  else if k < 1048576 then
    let d := refPage (groundPair d k) k
    let g := k / 64
    let left := ((otherEpochs d m e).flatMap (placedLines d)).foldl
      (fun l a => if a.1 = g then l.flatMap (cutRun a.2.1 a.2.2) else l) [(k % 64 * 2048, 2048)]
    left.foldl (fun d r => putHostLines d g r.1 r.2 (List.replicate (1024 * r.2) 0)) d
  else { refPage d k with rsv := memZero d.rsv ((k - 1048576) * 2097152) 2097152 }

/-- Firmware writes the tag of private lines into the tile descriptors of the block's program store whose images lie there
(R291). -/
def tagTiles (d : Dev) (l : TagLines) : Dev :=
  let die := l.block / 24
  let b := l.block % 24
  (List.range 4).foldl (fun d s =>
    if !slotValid d die b s then d
    else
      let u := unitCtx d die b s
      let mine (i : Nat) : Bool := l.line ≤ u.base.cis + i && u.base.cis + i < l.line + l.count
      (List.range u.hdr.tiles).foldl (fun d i =>
        match tileAt d die b u i with
        | none => d
        | some t =>
          if t.fromWell || !(mine t.img0 || t.epochAlt && mine t.img1) then d
          else
            let x := blk d die b
            setBlk d die b { x with ps := memWrite x.ps (u.base.ps + u.hdr.tileOff + 32 * i + 4) (leBytes 2 l.tag) }) d) d

/-- One run of cistern lines is written, and its ground copy. -/
def putLines (d : Dev) (tag : Nat) (r : Nat × Nat × Nat × Nat) (bs : List Byte) : Dev :=
  match hostLine d r 0 with
  | none => d
  | some (g, lo) =>
    let d := putHostLines d g lo r.2.2.2 bs
    if tag = 0 then d
    else
      -- a private expert of a tenant: its lines are noted (R292)
      let l : TagLines := { tag, block := g, line := lo, count := r.2.2.2 }
      tagTiles { d with srv := { d.srv with tagLines := d.srv.tagLines ++ [l] } } l

/-- The runs of a CISTERN shard in record order. -/
def placeLines (tag : Nat) : List Nat → List Byte → Dev → Dev
  | [], _, d => d
  | x :: xs, bs, d =>
    let r := lineRun x
    let n := r.2.2.2 * 1024
    placeLines tag xs (bs.drop n) (putLines d tag r (bs.take n))

/-- The runs of a shard that lies in pages. What they hold beyond its length is zero (R271). -/
def placePages (kind : Nat) : List Nat → List Byte → Dev → Dev
  | [], _, d => d
  | x :: xs, bs, d =>
    let n := bits x 19 19 + 1
    let p := bits x 0 19
    let d := putRsv d (p * 2097152) (bs.take (n * 2097152) ++ List.replicate (n * 2097152 - bs.length) 0)
    let d := (List.range n).foldl (fun d i =>
      setPage d (p + i) (if kind = 3 then 6 else kind + 1) (pageRefs d (p + i)) (kind != 3)) d
    placePages kind xs (bs.drop (n * 2097152)) d

/-- A shard can be placed: every sub-bank that it goes to is ready (R124), neither in a forced action nor under a block whose
tile loader claims the line port (R108, claimant 4); ground pages can be had; and what has been accepted for its pages has been
done (R199). -/
def placeable (d : Dev) (pages : List Nat) : Bool :=
  let after := (pages.filter fun k => k < 1048576).foldl groundPair d
  pages.all fun k =>
    if k < 1048576 then
      let die := k / 64 / 24
      let b := k / 64 % 24
      cisReady d die b (k % 64 * 2048) && !loaderClaims d die b && !forcedIn (blk d die b) (k % 64 / 2)
        && ((groundPage after k).map fun q => entryKind (pageEntry after q) == 1 && pageQuiet after q).getD false
    else stackUp d (k % 8) && pageQuiet d (k - 1048576)

/-- Pages hold what they now hold: their digests are those of every epoch that uses them, and what scrub runs have read of
them counts no more (R280, R284). -/
def newDigests (d : Dev) (pages : List Nat) : Dev :=
  let l := pages.map fun k => (k, sha512 (pageBytes d k))
  let d := mapEpochs d fun e =>
    { e with scrub := l.foldl (fun sc x => if (mget sc x.1).isSome then mset sc x.1 x.2 else sc) e.scrub }
  let d := { d with srv := { d.srv with scrubbed := pages.foldl mdel d.srv.scrubbed } }
  (modelEpochs d).foldl (fun d x => if pages.any fun k => (mget x.2.scrub k).isSome then storeDigests d x.1 x.2 else d) d

/-- A verified shard is placed, and its staging pages are freed. A private expert is placed between steps, as its tag goes into
the program stores there (R291). -/
def shardPlace (d : Dev) (m i : Nat) : Dev :=
  match stagedShard d m i with
  | some (e, s, .verified p) =>
    let pages := shardPages d e.manifest s
    let tag := if s.kind = 3 then 0 else s.tenant
    if !placeable d pages || !shardClear d m e s pages || (tag ≠ 0 && !atBoundary d) then d
    else
      let bs := rsvRead d (p * 2097152) s.length
      let d := pages.foldl (touchPage m e) d
      let runs := placementsOf e.manifest s
      let d := if s.kind = 0 then placeLines tag runs bs d else placePages s.kind runs bs d
      let e := { e with stages := e.stages.set i .placed,
                        scrub := pages.foldl (fun sc k => mset sc k []) e.scrub,
                        lastScrub := pages.foldl (fun sc k => mset sc k d.tally) e.lastScrub }
      let d := newDigests (leaveStaging (setModel d m { model d m with staged := some e }) m i p s true) pages
      showLoad d m ((model d m).staged.getD e)
  | _ => d

/-! ## Epochs (R287 to R290) -/

/-- The registers of a model table entry's apply group. -/
def modelGroup (m : Nat) : List Nat := [R.SRV_MT_EPOCH, R.SRV_MT_PROG_LO, R.SRV_MT_PROG_HI, R.SRV_MT_CTRL].map fun p => modelReg p m

/-- The state of a request as MIGRATE frames carry it. -/
def migrateState (n : Nat) (s : Slot) : MigrateMsg :=
  { slot := Fin.ofNat 65536 n, tenant := s.tenant, record := s.record, tokens := s.tokens, emitted := s.emitted, epoch := s.epoch,
    alt := s.alt, deadline := s.deadline, counts := s.counts, prompts := s.prompts, kv := s.kvShape }

/-- A request leaves for another device: its state goes out in MIGRATE frames, its KV on VC4, and its tokens come back in
RELAY frames for its client (R304). -/
def moveSlot (d : Dev) (fa n : Nat) (s : Slot) : Dev :=
  let d := sendTo d fa 5 .migrate [leaveBy d fa, fa, n] (migrateState n s).bytes
  let d := (List.range (512 * s.kv.length)).foldl (fun d i =>
    sendTo d fa 4 .pageData [leaveBy d fa, fa, n, i / 512, i % 512 * 4096] (pagesRead d s.kv (i * 4096) 4096)) d
  -- a cancel that has not been judged goes after it
  let d := if s.cancel.isSome then sendTo d fa 0 .cancelFrame [leaveBy d fa, fa, s.reqId, s.tenant, 65535, 0] else d
  setSlot (freePageList (stopHolders (dropConv d s) s) (s.kv ++ s.spill)) n
    { s with state := .running, holderOf := some (fa, n), gone := true, holders := [], kv := [], spill := [] }

/-- Requests that an epoch's falling out leaves move to a device that serves it, or end EPOCH. -/
def leaveEpoch (d : Dev) (m epoch : Nat) (target : Option Nat) : Dev :=
  d.srv.slots.foldl (fun d e =>
    if e.2.model = m && e.2.epoch = epoch && e.2.holderOf.isNone && e.2.state ≠ .ending then
      match target with
      | some fa => moveSlot d fa e.1 e.2
      | none => endRequest d e.1 e.2 .epoch
    else d) d

/-- PROGRAM_ID of a model's active epoch. -/
def modelProgram (d : Dev) (m : Nat) : Nat :=
  (rd d (modelReg R.SRV_MT_PROG_LO m)).toNat + (rd d (modelReg R.SRV_MT_PROG_HI m)).toNat * pow2 32

/-- The device that requests of an epoch that falls out move to: one whose discovery record shows the model table with that epoch
as the model's active one; of several the one named, else the first (log entry 71). -/
def epochHolder (d : Dev) (m : Nat) (r : EpochRec) (named : Option Nat) : Option Nat :=
  let hash := (sha512 (modelTable (setModel d m { model d m with active := some r }))).take 8
  let l := (d.partners.filter fun p => p.models == hash).map Partner.fa
  match named with
  | some fa => if l.contains fa then some fa else l.head?
  | none => l.head?

/-- A model table entry applies at the model's step boundary: the staged epoch is active, with the alternative that its
predecessor does not use, or that the entry gives the first (R286); the active one is the previous, and an epoch that was previous
falls out. -/
def modelApply (d : Dev) (m : Nat) (target : Option Nat) : Dev :=
  let a := modelReg R.SRV_MT_APPLY m
  if !flag d a F.SRV_MT_APPLY_APPLY || !atBoundary d then d
  else
    let d := applyShadows d (modelGroup m)
    let d := fsets d a [(F.SRV_MT_APPLY_APPLY, 0), (F.SRV_MT_APPLY_PEND, 0)]
    let x := model d m
    match x.staged with
    | none => showServing d
    | some e =>
      if !(e.stages.zip e.manifest.shards).all fun p => p.1 == .placed || !needed e p.2 then showServing d
      else
        let d := match x.prev with
          | some r => releaseEpoch (leaveEpoch d m r.epoch (epochHolder d m r target)) r
          | none => d
        let c := modelReg R.SRV_MT_CTRL m
        let alt := (x.active.map fun r => !r.alt).getD (flag d c F.SRV_MT_CTRL_ALT)
        let d := fset d c F.SRV_MT_CTRL_ALT (b2n alt)
        let d := setModel d m { x with staged := none, active := some { e with live := true, program := modelProgram d m, alt }, prev := x.active }
        settleModels (wr d (modelReg R.SRV_MT_PREV m) (BitVec.ofNat 32 ((x.active.map EpochRec.epoch).getD (pow2 32 - 1))))

/-! ## Scrubbing and repair (R282 to R284) -/

/-- The scrub interval in ticks. -/
def scrubTicks (d : Dev) : Nat :=
  let h := cfgNat d 0x00C 1
  secTicks (3600 * (if h = 255 then 6 else max 1 (min h 168)))

/-- The epochs that use a page use another too, whose contents are the same. -/
def copyRecord (d : Dev) (old new : Nat) : Dev :=
  mapEpochs d fun e =>
    match mget e.scrub old with
    | some v => { e with scrub := mset e.scrub new v, lastScrub := mset e.lastScrub new d.tally }
    | none => e

/-- The epochs' records name a page by another number. -/
def renamePage (d : Dev) (old new : Nat) : Dev :=
  mapEpochs (copyRecord d old new) fun e => { e with scrub := mdel e.scrub old, lastScrub := mdel e.lastScrub old }

/-- A page has been read whole and is checked against its scrub digest: a mismatch is counted and is a detected error. -/
def scrubCheck (d : Dev) (k : Nat) : Dev :=
  match epochUsing d k with
  | none => d
  | some e =>
    let d := mapEpochs d fun r => if (mget r.scrub k).isSome then { r with lastScrub := mset r.lastScrub k d.tally } else r
    let d := { d with srv := { d.srv with scrubDue := d.srv.scrubDue.filter fun x => x != k } }
    if sha512 (pageBytes d k) == mgetD e.scrub k [] then d
    else detect (fcnt d (srvReg R.SRV_WT_CNT_A) F.SRV_WT_CNT_A_MISMATCH 1) (pageLoc k)

/-- The scrub interval comes due for a page: a cistern page waits for its scrub runs, a reservoir page is read by ring
descriptors, where it can be, and checked. -/
def scrubInterval (d : Dev) (p : PageRef) : Dev :=
  let k := p.key
  match epochUsing d k with
  | none => d
  | some e =>
    if d.tally < mgetD e.lastScrub k 0 + scrubTicks d then d
    else match p with
      | .cistern .. => { d with srv := { d.srv with scrubDue := d.srv.scrubDue.filter (fun x => x != k) ++ [k] } }
      | .reservoir q => if pageReadable d q then scrubCheck d k else d

/-- A scrub run has delivered lines `lo` to `hi - 1` of a cistern page, as lines of the page: the digest goes on where they go on
from the lines read before, and with the page read whole it is checked. -/
def scrubLines (d : Dev) (k lo hi : Nat) : Dev :=
  let put (n : Nat) : Dev := { d with srv := { d.srv with scrubbed := mset d.srv.scrubbed k n } }
  if lo ≠ 0 && lo ≠ mgetD d.srv.scrubbed k 0 then d
  else if hi = 2048 then scrubCheck { d with srv := { d.srv with scrubbed := mdel d.srv.scrubbed k } } k
  else put hi

/-- A scrub run ends: a Town Hall core extends the digests of the pages that its lines lie in (R282). A run that is refused
delivers nothing. -/
def scrubRunDone (d : Dev) (die b : Nat) : Dev :=
  match (blk d die b).scrub with
  | none => d
  | some r =>
    let read := (List.range r.left).all fun i => cisReady d die b (r.line + i)
    let d := scrubDone d die b
    if (blk d die b).scrub.isSome || !read then d
    else
      let e := r.line + r.left
      (List.range ((e - 1) / 2048 + 1 - r.line / 2048)).foldl (fun d i =>
        let h := r.line / 2048 + i
        scrubLines d (cisPage (gblock die b) h) (max r.line (h * 2048) - h * 2048) (min e ((h + 1) * 2048) - h * 2048)) d

/-- A staging window of `size` bytes opens on a reservoir address, with WR_EN and RING_CLASS set and credits for 64 writes (R277;
log entry 101). -/
def openStagingAt (d : Dev) (w addr size : Nat) : Dev :=
  let target := 3 + addr * 16
  let d := fsets d (winReg R.AQD_WIN_CTRL w)
    [(F.AQD_WIN_CTRL_SIZE_M1, size / 4096 - 1), (F.AQD_WIN_CTRL_WR_EN, 1), (F.AQD_WIN_CTRL_RD_EN, 0),
     (F.AQD_WIN_CTRL_RING_CLASS, 1), (F.AQD_WIN_CTRL_CREDITS_M1, 63)]
  openWindow (wr (wr d (winReg R.AQD_WIN_TGT_LO w) (BitVec.ofNat 32 target)) (winReg R.AQD_WIN_TGT_HI w)
    (BitVec.ofNat 32 (target / pow2 32))) w

/-- The numbers of a page request. -/
def PageMsg.nums (m : PageMsg) : List Nat := [m.modelId.toNat, m.epoch.toNat, m.page.toNat, m.window, m.gen]

/-- The ground copy of a cistern page, where it can be read (R113, R283). -/
def groundCopy (d : Dev) (k : Nat) : Option (List Byte) :=
  (if k < 1048576 then groundPage d k else none).bind fun p => if pageReadable d p then some (rsvRead d (p * 2097152) 2097152) else none

/-- The peer that is asked for a page: a live device with the same models in its discovery record that has not said that it does
not hold the page; of several the one whose answer has come, else the first (log entry 70). -/
def repairPeer (d : Dev) (k : Nat) (e : RepairEnv) : Option Nat :=
  let page := (countedPage d k).getD pageCount
  let l := (twins d).filter fun fa => !d.srv.noPage.contains (page, fa)
  match e.peer with
  | some p => if l.contains p.1.val then some p.1.val else l.head?
  | none => l.head?

/-- A peer is asked for a page: a staging window opens on staging page `p`, a VC6 frame asks, and with the answer the window
closes. The device goes on where no window is CLOSED. -/
def askPeer (d : Dev) (k : Nat) (r : EpochRec) (e : RepairEnv) (p : Nat) : Dev × Option (List Byte) :=
  match repairPeer d k e, takeFrom (fun w => (window d w).state == 0) 4096 0 1 with
  | some fa, w :: _ =>
    let d := openStagingAt d w (p * 2097152) 2097152
    let m : PageMsg := { modelId := BitVec.ofNat 64 r.modelId, epoch := BitVec.ofNat 32 r.epoch,
                         page := BitVec.ofNat 32 ((countedPage d k).getD pageCount), window := Fin.ofNat 65536 w,
                         gen := Fin.ofNat 65536 (window d w).gen }
    let d := closeWindow (sendTo d fa 6 .service (leaveBy d fa :: fa :: 2 :: m.nums)) w
    (d, (e.peer.filter fun x => x.1.val == fa).map Prod.snd)
  | _, _ => (d, none)

/-- The parts of a shard that a page holds: first byte in the shard and number of bytes (R283). -/
def shardParts (d : Dev) (m : Manifest) (s : Shard) (k : Nat) : List (Nat × Nat) :=
  ((placementsOf m s).foldl (fun (r : Nat × List (Nat × Nat)) x =>
    if s.kind = 0 then
      let n := (lineRun x).2.2.2
      let part := match hostLine d (lineRun x) 0 with
        | some (g, lo) =>
          let a := max lo (k % 64 * 2048)
          let b := min (lo + n) ((k % 64 + 1) * 2048)
          if k < 1048576 && g = k / 64 && a < b then [(r.1 + (a - lo) * 1024, (b - a) * 1024)] else []
        | none => []
      (r.1 + n * 1024, r.2 ++ part)
    else
      let n := bits x 19 19 + 1
      let at_ := r.1 + (k - rsvPage (bits x 0 19)) * 2097152
      let part := if rsvPage (bits x 0 19) ≤ k && k < rsvPage (bits x 0 19 + n) && at_ < s.length then
        [(at_, min 2097152 (s.length - at_))] else []
      (r.1 + n * 2097152, r.2 ++ part)) (0, [])).2

/-- The source is asked for a page's range of its shards. -/
def askRange (d : Dev) (k : Nat) (m : Nat) (e : EpochRec) : Dev :=
  e.numbered.foldl (fun d p =>
    if !needed e p.2.1 then d
    else (shardParts d e.manifest p.2.1 k).foldl (fun d r => readRange d m p.1 e p.2.1 r.1 r.2) d) d

/-- The first candidate of R283 that matches the page's digest, each asked for in its turn: ground copy, peer, source. -/
def repairSource (d : Dev) (k m : Nat) (e : EpochRec) (env : RepairEnv) (p : Nat) : Dev × Option (Nat × List Byte) :=
  let good (c : Option (List Byte)) : Option (List Byte) := c.filter fun bs => sha512 bs == mgetD e.scrub k []
  match good (if env.groundFails then none else groundCopy d k) with
  | some bs => (d, some (0, bs))
  | none =>
    let x := askPeer d k e env p
    match good x.2 with
    | some bs => (x.1, some (1, bs))
    | none => (askRange x.1 k m e, (good env.source).map fun bs => (2, bs))

/-- A page of a retired number takes its data to a fresh page of the same kind (R204). -/
def freshPage (d : Dev) (q : Nat) (bs : List Byte) : Dev :=
  match freeRun d 1 with
  | none => d
  | some n =>
    let kind := ((allEpochs d).findSome? fun e =>
      (e.manifest.shards.find? fun s => s.kind != 0 && (shardPages d e.manifest s).contains (rsvPage q)).map Shard.kind).getD 2
    let refs := ((allEpochs d).filter fun e => (mget e.scrub (rsvPage q)).isSome).length
    renamePage (putRsv (setPage d n (if kind = 3 then 6 else kind + 1) refs (kind != 3)) (n * 2097152) bs) (rsvPage q) (rsvPage n)

/-- A step that reads a cistern page is running: the page lies in the segment of a unit (R284). -/
def stepReads (d : Dev) : PageRef → Bool
  | .cistern die b h =>
    d.step.running && (List.range 4).any fun s =>
      slotValid d die b s &&
        let u := unitCtx d die b s
        u.base.cis < (h.val + 1) * 2048 && h.val * 2048 < u.base.cis + u.hdr.cisLines
  | .reservoir _ => false

/-- The scrub of a page that a repair reaches ends without result, and the page is scrubbed again after the repair (R284). -/
def scrubAgain (d : Dev) (p : PageRef) : Dev :=
  match p with
  | .reservoir _ => d
  | .cistern die b h =>
    let k := p.key
    let running := match (blk d die b).scrub with
      | some r => r.line / 2048 ≤ h.val && h.val ≤ (r.line + r.left - 1) / 2048
      | none => false
    let d := if running then scrubEnded d die b else d
    if !running && (mget d.srv.scrubbed k).isNone then d
    else
      { d with srv := { d.srv with scrubbed := mdel d.srv.scrubbed k, scrubDue := (d.srv.scrubDue.filter fun x => x != k) ++ [k] } }

/-- A good candidate is written, also into the ground copy where that failed, and counted (R283). -/
def mendPage (d : Dev) (p : PageRef) (i : Nat) (bs : List Byte) : Dev :=
  let k := p.key
  let d := scrubAgain d p
  let d := match p with
    | .reservoir q => if entryKind (pageEntry d q) = 7 then freshPage d q bs else putPage d k bs
    | _ => putPage d k bs
  if i = 0 then fcnt d (srvReg R.SRV_WT_CNT_A) F.SRV_WT_CNT_A_GROUND 1
  else
    let d := match (if k < 1048576 then groundPage d k else none) with
      | some q => putRsv d (q * 2097152) bs
      | none => d
    fcnt d (srvReg R.SRV_WT_CNT_B) (if i = 1 then F.SRV_WT_CNT_B_PEER else F.SRV_WT_CNT_B_STORAGE) 1

/-- A page is repaired, its candidates read into a staging page; where none matches it stays, and steps that read it are
aborted. The repair waits for the boundary of a step that reads the page, and for a page that can be had. -/
def pageRepair (d : Dev) (p : PageRef) (env : RepairEnv) : Dev :=
  let k := p.key
  match (modelEpochs d).find? fun x => (mget x.2.scrub k).isSome with
  | none => d
  | some (m, e) =>
    match if stepReads d p then none else freeRun d 1 with
    | none => { d with srv := { d.srv with repairWait := (d.srv.repairWait.filter fun r => r.1 != p) ++ [(p, env)] } }
    | some q =>
      let d := setPage d q 6 0 false
      let rest := d.srv.badPages.filter fun x => x != k
      let r := repairSource d k m e env q
      let d := freePage r.1 q
      let d := { d with srv := { d.srv with lostPages := d.srv.lostPages.filter fun x => some x != countedPage d k } }
      match r.2 with
      | none => { d with srv := { d.srv with badPages := rest ++ [k] } }
      | some (i, bs) => mendPage { d with srv := { d.srv with badPages := rest } } p i bs

/-- Between steps, the repairs that waited take place. -/
def runRepairs (d : Dev) : Dev :=
  d.srv.repairWait.foldl (fun d r => pageRepair d r.1 r.2) { d with srv := { d.srv with repairWait := [] } }

/-! ## Frames of the weights' way (R277, R283, R333) -/

/-- A frame of SERVICE for this device, or one that goes on. -/
def serviceAt (d : Dev) (h : FrameHdr) (code : Nat) (nums : List Nat) (bytes : List Byte) (here : Dev → Dev) : Dev :=
  arriveAt d h.arrival 6 .service (code :: nums) bytes here

/-- A recipient reports a staging window open. -/
def windowReady (d : Dev) (h : FrameHdr) (w gen piece : Nat) (digest8 : List Byte) : Dev :=
  serviceAt d h 1 [w, gen, piece] digest8 fun d =>
    { d with srv := { d.srv with ready := d.srv.ready ++ [{ src := h.src, window := w, gen, piece, digest8 }] } }

/-- The device holds a page of an epoch. -/
def holdsPage (d : Dev) (m : PageMsg) : Bool :=
  (allEpochs d).any fun e => e.modelId == m.modelId.toNat && e.epoch == m.epoch.toNat
    && e.scrub.any fun s => countedPage d s.1 == some m.page.toNat

/-- Firmware is to write reservoir bytes into a window of another device. A window number that a frame cannot name (R235)
receives nothing (log entry 101). -/
def firmwareSend (d : Dev) (fa win gen addr len : Nat) (piece : Option (Nat × Nat × Nat × Nat)) : Dev :=
  if 4096 ≤ win then d
  else
    let x := freshId d
    { x.1 with srv := { d.srv with sends := d.srv.sends ++
        [{ id := x.2, fa, win, gen, addr, len, todo := (List.range ((len + 4095) / 4096)).map (· * 4096), piece }] } }

/-- A peer asks for a page: it is written into the peer's staging window, or refused. -/
def pageRequest (d : Dev) (h : FrameHdr) (m : PageMsg) : Dev :=
  serviceAt d h 2 m.nums [] fun d =>
    if holdsPage d m then firmwareSend d h.src m.window m.gen (m.page.toNat * 2097152) 2097152 none
    else sendTo d h.src 6 .service (leaveBy d h.src :: h.src.val :: 3 :: m.nums)

/-- A peer does not hold a page that this device asked for. -/
def pageRefused (d : Dev) (h : FrameHdr) (m : PageMsg) : Dev :=
  serviceAt d h 3 m.nums [] fun d =>
    { d with srv := { d.srv with noPage := (d.srv.noPage ++ [(m.page.toNat, h.src.val)]).eraseDups } }

/-- A tenant entry is set or removed: by a roster member while TENANT_EN is set; or by a message from the I3C agent, whose
stamp has class 3 and instance 0. -/
def tenantSet (d : Dev) (r : TenantRoute) (ident : List Byte) (tag : Nat) : Dev :=
  match r with
  | .frame h =>
    serviceAt d h 4 [tag] ident fun d =>
      if flag d (ctl R.HAL_REMOTE 0 4) F.HAL_REMOTE_TENANT_EN && d.roster.contains h.src.val then setTenant d ident tag
      else d
  | .mailbox st =>
    if bits st.toNat 22 8 = 3 then setTenant d ident tag else d

end Sys2Proof.Machine
end

