-- ==== Sys2Proof/Machine/Membership.lean ====
section
/-! DEFINITION. Machine/Membership: discovery records, rosters and collective groups (R254 to R256). -/

namespace Sys2Proof.Machine

/-! ## Records (R254) -/

/-- The device may be master: bit 0 of the configuration record's MASTER byte, set where erased (R346). -/
def masterEligible (d : Dev) : Bool := bit (cfgNat d 0x002 1) 0

/-- FLAGS of the device's record. -/
def discoveryFlags (d : Dev) : Nat :=
  b2n (masterEligible d) + 2 * b2n (fget d (ctl R.CFG_STATUS 0 0) F.CFG_STATUS_STAGE == 8)
    + 4 * b2n (flag d (srvReg R.SRV_STATUS) F.SRV_STATUS_CONDENSING) + 8 * b2n (flag d (srvReg R.SRV_STATUS) F.SRV_STATUS_DRAINING)

/-- The first 8 bytes of the SHA-512 of the identity certificate; zero unless the identity is valid (R352). -/
def identity8 (d : Dev) : List Byte :=
  (rd d (ctl R.TRU_ID_DIGEST 0 0)).toNat |> fun a => leBytes 4 a ++ leBytes 4 (rd d (ctl (R.TRU_ID_DIGEST + 4) 0 0)).toNat

/-- A record in its 32 bytes. -/
def Partner.bytes (p : Partner) : List Byte :=
  leBytes 2 p.fa ++ leBytes 1 p.verMin ++ leBytes 1 p.verMax ++ leBytes 2 p.edition ++ leBytes 1 p.flags
    ++ leBytes 1 p.capacity ++ (p.identity ++ List.replicate 8 0).take 8 ++ (p.models ++ List.replicate 8 0).take 8
    ++ List.replicate 8 0

/-- The device's own record. -/
def ownRecord (d : Dev) : Partner :=
  { fa := ownFa d, verMin := 2, verMax := 3, edition := edition d, flags := discoveryFlags d,
    capacity := fget d (srvReg R.SRV_CAP_STATUS) F.SRV_CAP_STATUS_CAPACITY, identity := identity8 d,
    models := (sha512 (modelTable d)).take 8, heard := d.tally, aqd := 0 }

/-- Every 10 ms the coordinator sends its record on every fabric aqueduct of the heads that it can reach. -/
def discoverySend (d : Dev) : Dev :=
  if !faValid d then d
  else
    let bs := (ownRecord d).bytes
    ((List.range 64).filter fun g => aqdFabricUp d g && headReachable d (g / 8)).foldl
      (fun d g => sendOn d g (dressed d 7 .discovery [g, fget d (aqdReg R.AQD_PEER g) F.AQD_PEER_FA] bs 64 64)) d

/-! ## Rosters (R255) -/

/-- Partners of the own precinct, with the device itself, in ascending address. -/
def precinct (d : Dev) : List Partner :=
  ((List.range 64).map fun i => ownFa d / 64 * 64 + i).filterMap fun fa =>
    if fa = ownFa d then some (ownRecord d) else d.partners.find? fun p => p.fa == fa

/-- The precinct master: the live member with the lowest address that is eligible. -/
def precinctMaster (d : Dev) : Option Nat := ((precinct d).find? fun p => bit p.flags 0).map Partner.fa

/-- This device is the precinct master. -/
def isMaster (d : Dev) : Bool := faValid d && precinctMaster d == some (ownFa d)

/-- What a record says of a partner last heard at a tally. -/
def DiscoveryRecord.partner (r : DiscoveryRecord) (heard g : Nat) : Partner :=
  { fa := r.fa, verMin := r.verMin, verMax := r.verMax, edition := r.edition, flags := r.flags, capacity := r.capacity,
    identity := r.identity, models := r.models, heard, aqd := g }

/-- A record in its 32 bytes. -/
def DiscoveryRecord.bytes (r : DiscoveryRecord) : List Byte := (r.partner 0 0).bytes

/-- What a record says is noted, as of a tally at which its partner was heard. -/
def notePartner (d : Dev) (r : DiscoveryRecord) (heard g : Nat) : Dev :=
  if r.fa.val = ownFa d then d
  else { d with partners := (d.partners.filter fun o => o.fa != r.fa.val) ++ [r.partner heard g] }

/-- A discovery record arrives: it is noted, and the precinct master relays it within the precinct. -/
def discoveryReceive (d : Dev) (h : FrameHdr) (r : DiscoveryRecord) : Dev :=
  arriveAt d h.arrival 7 .discovery [] r.bytes fun d =>
    let d := notePartner d r d.tally (h.head * 8 + (h.link.map Fin.val).getD 0)
    if !isMaster d || r.fa.val = ownFa d then d
    else
      ((precinct d).filter fun p => p.fa != ownFa d && p.fa != r.fa.val).foldl
        (fun d p => sendTo d p.fa 7 .discovery [leaveBy d p.fa, p.fa] r.bytes) d

/-- The masters of other precincts that the device hears. -/
def otherMasters (d : Dev) : List Nat :=
  (d.partners.filter fun p => p.fa / 64 != ownFa d / 64 && bit p.flags 0
    && d.partners.all fun q => q.fa / 64 != p.fa / 64 || !bit q.flags 0 || p.fa ≤ q.fa).map Partner.fa

/-! ## Collective groups (R256) -/

/-- Stores a group's record. -/
def setGroup (d : Dev) (g : Group) : Dev := { d with groups := (d.groups.filter fun o => o.num != g.num) ++ [g] }

/-- A step that runs on a generation that has been superseded is aborted, class retry. -/
def supersede (d : Dev) (num gen : Nat) : Dev :=
  match groupOf d num with
  | some g => if g.committed && g.gen ≠ gen && stepOf d num then abortRemote d else d
  | none => d

/-- The members that hold together by their versions: none has a VER_MAX below another's VER_MIN. -/
def agreeing (l : List (Nat × Nat × Nat)) : List (Nat × Nat × Nat) := l.filter fun a => l.all fun b => b.2.1 ≤ a.2.2

/-- When every member has answered, GROUP_COMMIT goes out with the final list and version. -/
def commitGroup (d : Dev) (g : Group) : Dev :=
  if g.committed || !g.members.all fun m => g.joined.any fun j => j.1 == m then setGroup d g
  else
    let ok := agreeing g.joined
    let members := g.members.filter fun m => ok.any fun j => j.1 == m
    let version := ok.foldl (fun v j => min v j.2.2) 3
    let d := setGroup d { g with members, committed := true, version }
    (members.filter fun m => m != ownFa d).foldl
      (fun d m => sendTo d m 7 .groupCommit (leaveBy d m :: m :: g.num :: g.gen :: version :: members)) d

/-- The master sends GROUP_FORM to the members of a generation. -/
def formGroup (d : Dev) (num gen edn : Nat) (wanted members : List Nat) : Dev :=
  let d := supersede d num gen
  let own := ownFa d
  let g : Group := { num, gen, edition := edn, members, wanted, formed := members, master := own,
                     joined := if members.contains own && edn = edition d then [(own, 2, 3)] else [] }
  let g := { g with members := if edn = edition d then members else members.filter fun m => m != own }
  let d := (members.filter fun m => m != own).foldl
    (fun d m => sendTo d m 7 .groupForm (leaveBy d m :: m :: num :: gen :: edn :: members)) d
  commitGroup d g

/-- The master of a group forms it anew where the roster has lost a member of it, or gained one that was not there when it was
formed. A device that was refused is neither. -/
def regroup (d : Dev) : Dev :=
  d.groups.foldl (fun d g =>
    let live := g.wanted.filter fun m => m = ownFa d || d.partners.any fun p => p.fa == m
    if g.master ≠ ownFa d || (g.members.all live.contains && live.all g.formed.contains) then d
    else formGroup d g.num ((g.gen + 1) % 65536) g.edition g.wanted live) d

/-- GROUP_FORM: the master of the lowest-numbered precinct among the members begins a group, or the frame arrives and is
answered. -/
def groupForm (d : Dev) (m : GroupFormMsg) : Dev :=
  match m with
  | .start num edn ms =>
    let members := ms.map Fin.val
    if !isMaster d || (members.any fun x => x / 64 < ownFa d / 64) || members.all fun x => x / 64 != ownFa d / 64 then d
    else
      let gen := match groupOf d num with
        | some g => (g.gen + 1) % 65536
        | none => 1
      formGroup d num gen edn members members
  | .arrive h num gen edn ms =>
    arriveAt d h.arrival 7 .groupForm (num :: gen :: edn :: ms.map Fin.val) [] fun d =>
      let d := supersede d num gen
      let d := setGroup d { num, gen, edition := edn, members := ms.map Fin.val, master := h.src }
      sendTo d h.src 7 .groupJoin [leaveBy d h.src, h.src, num, gen, edition d, 2, 3]

/-- A member's GROUP_JOIN arrives at the master. -/
def groupJoin (d : Dev) (h : FrameHdr) (num gen edn lo hi : Nat) : Dev :=
  arriveAt d h.arrival 7 .groupJoin [num, gen, edn, lo, hi] [] fun d =>
    match groupOf d num with
    | none => d
    | some g =>
      if g.gen ≠ gen || g.committed || g.master ≠ ownFa d || !g.members.contains h.src.val then d
      else if edn ≠ g.edition then commitGroup d { g with members := g.members.filter fun m => m != h.src.val }
      else commitGroup d { g with joined := (g.joined.filter fun j => j.1 != h.src.val) ++ [(h.src.val, lo, hi)] }

/-- GROUP_COMMIT arrives at a member. -/
def groupCommit (d : Dev) (h : FrameHdr) (num gen version : Nat) (members : List (Fin 65536)) : Dev :=
  arriveAt d h.arrival 7 .groupCommit (num :: gen :: version :: members.map Fin.val) [] fun d =>
    match groupOf d num with
    | none => d
    | some g =>
      if g.gen ≠ gen then d
      else if (members.map Fin.val).contains (ownFa d) then
        setGroup d { g with members := members.map Fin.val, version, committed := true }
      else { d with groups := d.groups.filter fun o => o.num != num }

/-! ## Publishing and receiving rosters, silent partners (R255) -/

/-- Every 10 ms the precinct master publishes a roster to its members and to the masters it hears. -/
def rosterPublish (d : Dev) : Dev :=
  if !isMaster d then d
  else
    let l := precinct d
    let bs := l.flatMap Partner.bytes
    let d := regroup { d with roster := l.map Partner.fa }
    ((l.map Partner.fa).filter (fun fa => fa != ownFa d) ++ otherMasters d).foldl
      (fun d fa => sendTo d fa 7 .roster [leaveBy d fa, fa] bs) d

/-- A record of a roster is noted. In the own precinct a partner is heard by its own records, so one that is known is not heard
anew, but the roster's sender is; one that is not known is noted where it is eligible and lower, so that it ends this device's
role as master. -/
def noteNamed (src : Nat) (d : Dev) (r : DiscoveryRecord) : Dev :=
  if r.fa.val / 64 ≠ ownFa d / 64 || r.fa.val = src then notePartner d r d.tally 0
  else match d.partners.find? fun p => p.fa == r.fa.val with
    | some p => notePartner d r p.heard p.aqd
    | none => if bit r.flags 0 && r.fa.val < ownFa d then notePartner d r d.tally 0 else d

/-- A roster arrives, and its records are noted. One of the own precinct from a device that is not this one replaces the roster; one
of another precinct names all the partners there. -/
def rosterReceive (d : Dev) (h : FrameHdr) (l : List DiscoveryRecord) : Dev :=
  arriveAt d h.arrival 7 .roster [] (l.flatMap DiscoveryRecord.bytes) fun d =>
    let d := l.foldl (noteNamed h.src) d
    let named (fa : Nat) : Bool := l.any fun r => r.fa.val == fa
    if h.src.val = ownFa d then d
    else if h.src.val / 64 = ownFa d / 64 then regroup { d with roster := l.map fun r => r.fa.val }
    else regroup { d with partners := d.partners.filter fun p => p.fa / 64 != h.src.val / 64 || named p.fa }

/-- A partner that has been silent for 30 ms leaves the roster. -/
def partnerSilent (d : Dev) (fa : Nat) : Dev :=
  match d.partners.find? fun p => p.fa == fa with
  | none => d
  | some p =>
    if p.heard + msTicks 30 ≤ d.tally then
      regroup (holderLeaves { d with partners := d.partners.filter fun o => o.fa != fa, roster := d.roster.filter fun x => x != fa } fa)
    else d

end Sys2Proof.Machine
end

