-- ==== Sys2Proof/Machine/Power.lean ====
section
/-! DEFINITION. Machine/Power: input and rails, ceilings, operating points, droop stretches, the reference and device time
(R356 to R374). -/

namespace Sys2Proof.Machine

/-- A register of clock and power of die 0. -/
abbrev clkReg (place : Nat) : Nat := ctl place 0 0

/-- A cause of PWR_ALERT is set. -/
def alertCause (d : Dev) (n : Nat) : Dev := fset d (clkReg R.PWR_ALERT) ⟨n, 1⟩ 1

/-- Device status bits of die 0. -/
def devStatus (d : Dev) (f : Fld) (v : Nat) : Dev := fset d (clkReg R.CLK_DEV_STATUS) f v

/-! ## Input and rails (R357, R358) -/

/-- All state is lost: registers are at reset, memories indeterminate; what was sent stays sent. -/
def lostState (d : Dev) (on inReset : Bool) : Dev :=
  { epoch := d.epoch + 1, out := d.out, boot := { on, inReset } }

/-- The input rises above 44.0 V; MOD_PG rises where every rail reaches its tolerance. -/
def powerUp (d : Dev) (railsOk : Bool) : Dev := if d.boot.on || !railsOk then d else lostState d true true

/-- MOD_PG falls, and every rail is off. -/
def powerLost (d : Dev) : Dev := if d.boot.on then lostState d false true else d

/-- The input voltage, in 10 mV, enters or leaves a band of warning. -/
def bandChange (d : Dev) (v : BitVec 16) : Dev :=
  let n := v.toNat
  let d := fset d (clkReg R.PWR_IN) F.PWR_IN_VIN n
  if 4200 ≤ n ∧ n < 4400 then alertCause d 4 else if 5800 < n ∧ n ≤ 6000 then alertCause d 5 else d

/-- MOD_RST_N has been low for 10 µs: the whole device resets. -/
def resetFall (d : Dev) : Dev := if d.boot.on then lostState d true true else d

/-- Die and district of a rail's location (R375). -/
def RailId.loc : RailId → Nat
  | .vcore die n => locId die 9 n
  | .vcoreEdge n => if n.val < 8 then locId (48 + n) 0xB 0 else locId (48 + n) 0xC 0
  | .vhall die => locId die 0xA 0
  | .vrsv s => locId (48 + s) 0xB 0
  | .vph h => locId (56 + h) 0xC 0

/-- A rail stays outside its transient bound for 10 µs. -/
def railAlert (d : Dev) (r : RailId) : Dev := detect (alertCause d 6) r.loc

/-! ## Ceilings (R363) -/

/-- Degrees Celsius of 8 bits. -/
def degrees (x : Nat) : Int := signed 8 x

/-- The throttle threshold; above 100 acts as 100. -/
def throttleAt (d : Dev) : Int := Int.ofNat (min 100 (fget d (clkReg R.CLK_THERM) F.CLK_THERM_THROTTLE))

/-- The resume threshold; at or above THROTTLE acts as THROTTLE − 1. -/
def resumeAt (d : Dev) : Int :=
  let r := Int.ofNat (fget d (clkReg R.CLK_THERM) F.CLK_THERM_RESUME)
  if throttleAt d ≤ r then throttleAt d - 1 else r

/-- The number of a place of the thermal records. -/
def ThermalPlace.key : ThermalPlace → Nat
  | .district die n => die * 4 + n
  | .edge n => 192 + n

/-- The status register of a district. -/
def districtReg (place : Nat) (die n : Nat) : Nat := ctl place die (n + 1)

/-- The ceiling of a place. -/
def ceilingOf (d : Dev) : ThermalPlace → Nat
  | .district die n => fget d (districtReg R.CLK_DST_STATUS die n) F.CLK_DST_STATUS_CEILING
  | .edge n => mgetD d.power.edgeCeiling n 7

/-- Every place. -/
def thermalPlaces : List ThermalPlace :=
  ((List.finRange 48).flatMap fun die => (List.finRange 4).map fun n => .district die n) ++ (List.finRange 16).map .edge

/-- The device ceiling: the lowest of all. -/
def deviceCeiling (d : Dev) : Nat := thermalPlaces.foldl (fun m p => min m (ceilingOf d p)) 7

/-- A place takes a ceiling. -/
def setCeiling (d : Dev) (p : ThermalPlace) (v : Nat) : Dev :=
  let d := match p with
    | .district die n => fset d (districtReg R.CLK_DST_STATUS die n) F.CLK_DST_STATUS_CEILING v
    | .edge n => { d with power := { d.power with edgeCeiling := mset d.power.edgeCeiling n v } }
  devStatus d F.CLK_DEV_STATUS_CEILING (deviceCeiling d)

/-- The junction temperature last read at a place. -/
def tjOf (d : Dev) : ThermalPlace → Int
  | .district die n => degrees (fget d (districtReg R.CLK_DST_STATUS die n) F.CLK_DST_STATUS_TJ)
  | .edge n => degrees (mgetD d.power.edgeTj n 0)

/-- Every district of the compute dies. -/
def districts : List ThermalPlace := (List.finRange 48).flatMap fun die => (List.finRange 4).map fun n => .district die n

/-- The active operating point. -/
def activeOp (d : Dev) : Nat := fget d (clkReg R.CLK_DEV_STATUS) F.CLK_DEV_STATUS_OP

/-! ## Scheduled change (R367) -/

/-- The minimum VCORE target of an operating point in mV (R361). -/
def opTarget (op : Nat) : Nat := if op < 5 then 750 else if op = 5 then 780 else if op = 6 then 810 else 840

/-- The registers of the operating point group. -/
def pointGroup : List Nat := [R.CLK_OP_NEXT, R.PWR_VTARGET, R.CLK_OP_TALLY_LO, R.CLK_OP_TALLY_HI].map clkReg

/-- A field of a shadow. -/
def shadowField (d : Dev) (a : Nat) (f : Fld) : Nat := bits (shadowOf d a).toNat f.lo f.width

/-- The shadow tally. -/
def shadowTally (d : Dev) : Nat :=
  (shadowOf d (clkReg R.CLK_OP_TALLY_LO)).toNat + (shadowOf d (clkReg R.CLK_OP_TALLY_HI)).toNat * pow2 32

/-- The shadow tally is set. -/
def setShadowTally (d : Dev) (t : Nat) : Dev :=
  writeShadow (writeShadow d (clkReg R.CLK_OP_TALLY_LO) (BitVec.ofNat 32 t)) (clkReg R.CLK_OP_TALLY_HI)
    (BitVec.ofNat 32 (t >>> 32))

/-- While the group is armed, a shadow tally less than 4,096 ticks away is moved to that. -/
def leadTime (d : Dev) : Dev := if shadowTally d < d.tally + 4096 then setShadowTally d (d.tally + 4096) else d

/-- A target that R367 clamps. -/
def clampTarget (mv : Nat) : Nat := max 750 (min 840 mv)

/-- The target rises with the pending change: the regulators ramp from now on. -/
def rampUp (d : Dev) : Dev :=
  let mv := clampTarget (max (shadowField d (clkReg R.PWR_VTARGET) F.PWR_VTARGET_MV)
    (opTarget (shadowField d (clkReg R.CLK_OP_NEXT) F.CLK_OP_NEXT_OP)))
  if clampTarget (fget d (clkReg R.PWR_VTARGET) F.PWR_VTARGET_MV) < mv then
    devStatus { d with power := { d.power with ramp := some mv } } F.CLK_DEV_STATUS_RAMP 1
  else d

/-- The group is armed. -/
def armPoint (d : Dev) : Dev :=
  rampUp (devStatus (leadTime (fset d (clkReg R.CLK_OP_APPLY) F.CLK_OP_APPLY_APPLY 1)) F.CLK_DEV_STATUS_PEND 1)

/-- A point and its target are scheduled at the earliest permitted tally. -/
def schedulePoint (d : Dev) (op : Nat) : Dev :=
  let d := writeShadow d (clkReg R.CLK_OP_NEXT) (BitVec.ofNat 32 op)
  let d := writeShadow d (clkReg R.PWR_VTARGET) (BitVec.ofNat 32 (opTarget op))
  armPoint (fset (setShadowTally d (d.tally + 4096)) (clkReg R.CLK_OP_APPLY) F.CLK_OP_APPLY_PEND 1)

/-- OP_MAX of the configuration record (R346). -/
def opMax (d : Dev) : Nat := min 7 (cfgNat d 0x005 1)

/-- The point that the limits of R364 allow. -/
def allowedPoint (d : Dev) : Nat :=
  min (min (deviceCeiling d) (fget d (clkReg R.CLK_OP_LIMIT) F.CLK_OP_LIMIT_LIMIT)) (min (opMax d) d.power.supply)

/-- The coordinator chooses: a lowering is scheduled at once, a raising once it has been allowed for 1 ms. -/
def choosePoint (d : Dev) : Dev :=
  let p := allowedPoint d
  let armed := flag d (clkReg R.CLK_OP_APPLY) F.CLK_OP_APPLY_APPLY
  let cur := if armed then shadowField d (clkReg R.CLK_OP_NEXT) F.CLK_OP_NEXT_OP else activeOp d
  if p < cur then schedulePoint { d with power := { d.power with allowed := none } } p
  else if p = cur then { d with power := { d.power with allowed := none } }
  else
    match d.power.allowed with
    | some (q, _) => if q = p then d else { d with power := { d.power with allowed := some (p, d.tally) } }
    | none => { d with power := { d.power with allowed := some (p, d.tally) } }

/-- A higher point has been allowed for 1 ms without interruption. -/
def raiseAllowed (d : Dev) : Dev :=
  match d.power.allowed with
  | some (p, t) =>
    if t + msTicks 1 ≤ d.tally && allowedPoint d = p && activeOp d < p then
      schedulePoint { d with power := { d.power with allowed := none } } p
    else d
  | none => d

/-- Every compute die runs at a point. -/
def runAt (d : Dev) (op : Nat) : Dev :=
  devStatus (computeDies.foldl (fun d die => fset d (ctl R.CLK_DIE_STATUS die 0) F.CLK_DIE_STATUS_OP op) d)
    F.CLK_DEV_STATUS_OP op

/-- At the apply tally the group applies with clamping, and every die switches its block clock. A trip keeps the clocks
gated, and they return at OP0. -/
def opApply (d : Dev) : Dev :=
  if !flag d (clkReg R.CLK_OP_APPLY) F.CLK_OP_APPLY_APPLY || d.tally < shadowTally d then d
  else
    let was := clampTarget (fget d (clkReg R.PWR_VTARGET) F.PWR_VTARGET_MV)
    let d := applyShadows d pointGroup
    let op := min (fget d (clkReg R.CLK_OP_NEXT) F.CLK_OP_NEXT_OP) (allowedPoint d)
    let mv := clampTarget (max (fget d (clkReg R.PWR_VTARGET) F.PWR_VTARGET_MV) (opTarget op))
    let d := fset d (clkReg R.PWR_VTARGET) F.PWR_VTARGET_MV mv
    let d := fsets d (clkReg R.CLK_OP_APPLY) [(F.CLK_OP_APPLY_APPLY, 0), (F.CLK_OP_APPLY_PEND, 0)]
    let d := devStatus (fcnt (runAt d op) (clkReg R.CLK_CHG_CNT) F.CLK_CHG_CNT_CHANGES 1) F.CLK_DEV_STATUS_PEND 0
    if mv < was then devStatus { d with power := { d.power with ramp := some mv } } F.CLK_DEV_STATUS_RAMP 1 else d

/-- A ramp reaches its target. VCORE is then within 10 mV of it; where, the spec does not say (log entry 4). -/
def rampDone (d : Dev) : Dev :=
  match d.power.ramp with
  | none => d
  | some mv =>
    let d := bumpEpoch (devStatus { d with power := { d.power with ramp := none } } F.CLK_DEV_STATUS_RAMP 0)
    computeDies.foldl (fun d die =>
      fset d (ctl R.PWR_RAIL_CORE die 0) F.PWR_RAIL_CORE_MV (mv - 10 + Config.openValue d.epoch (0xB0000000 + die) % 21)) d

/-! ## Temperature samples, emergency and trip (R363, R365, R366) -/

/-- A sample is shown. -/
def showTj (d : Dev) (p : ThermalPlace) (t : Nat) : Dev :=
  match p with
  | .district die n =>
    let d := fset d (districtReg R.CLK_DST_STATUS die n) F.CLK_DST_STATUS_TJ t
    let top := (List.range 4).foldl (fun m i =>
      let x := fget d (districtReg R.CLK_DST_STATUS die i) F.CLK_DST_STATUS_TJ
      if degrees m < degrees x then x else m) t
    fset d (ctl R.CLK_TJ die 0) F.CLK_TJ_MAX_C top
  | .edge n =>
    let d := { d with power := { d.power with edgeTj := mset d.power.edgeTj n t } }
    fset d (ctl R.CLK_TJ (48 + n) 0) F.CLK_TJ_MAX_C t

/-- Flags of a district. -/
def districtFlag (d : Dev) (p : ThermalPlace) (f : Fld) (v : Bool) : Dev :=
  match p with
  | .district die n => fset d (districtReg R.CLK_DST_STATUS die n) f (b2n v)
  | .edge _ => d

/-- The ceiling rules at a sample: the first at or above THROTTLE lowers, and the times since which it is hot or cool are
kept. -/
def ceilingSample (d : Dev) (p : ThermalPlace) (t : Int) : Dev :=
  let hot := decide (throttleAt d ≤ t)
  let d := districtFlag d p F.CLK_DST_STATUS_THROTTLE hot
  let d := if hot then alertCause d 1 else d
  let k := p.key
  let d :=
    if !hot then { d with power := { d.power with hotSince := mdel d.power.hotSince k } }
    else if (mget d.power.hotSince k).isSome then d
    else
      setCeiling { d with power := { d.power with hotSince := mset d.power.hotSince k d.tally } } p
        (min (ceilingOf d p) (activeOp d - 1))
  if resumeAt d < t then { d with power := { d.power with coolSince := mdel d.power.coolSince k } }
  else if (mget d.power.coolSince k).isSome then d
  else { d with power := { d.power with coolSince := mset d.power.coolSince k d.tally } }

/-- 102 °C begins an emergency, and every district at or below RESUME ends it. -/
def emergencySample (d : Dev) (p : ThermalPlace) (t : Int) : Dev :=
  let d := districtFlag d p F.CLK_DST_STATUS_EMERG (decide (102 ≤ t))
  match p with
  | .edge _ => d
  | .district .. =>
    if 102 ≤ t ∧ !d.power.emergency then
      let d := devStatus { d with power := { d.power with emergency := true, allowed := none } } F.CLK_DEV_STATUS_EMERG 1
      schedulePoint (fcnt (alertCause d 2) (clkReg R.CLK_CHG_CNT) F.CLK_CHG_CNT_EMERG 1) 0
    else if d.power.emergency && districts.all fun q => tjOf d q ≤ resumeAt d then
      devStatus { d with power := { d.power with emergency := false } } F.CLK_DEV_STATUS_EMERG 0
    else d

/-- The block clocks of the compute dies are gated, or return. -/
def gateClocks (d : Dev) (v : Bool) : Dev :=
  devStatus (computeDies.foldl (fun d die => fset d (ctl R.CLK_DIE_STATUS die 0) F.CLK_DIE_STATUS_GATED (b2n v))
    { d with power := { d.power with trip := v } }) F.CLK_DEV_STATUS_TRIP (b2n v)

/-- 108 °C trips, and every district at or below 100 °C ends the trip at OP0. -/
def tripSample (d : Dev) (p : ThermalPlace) (t : Int) : Dev :=
  match p with
  | .edge _ => d
  | .district .. =>
    if 108 ≤ t then (if d.power.trip then d else alertCause (gateClocks d true) 3)
    else if d.power.trip && districts.all fun q => tjOf d q ≤ 100 then runAt (gateClocks d false) 0
    else d

/-- A temperature sample (R363, R365, R366). -/
def temperatureSample (d : Dev) (p : ThermalPlace) (t : BitVec 8) : Dev :=
  let x := degrees t.toNat
  tripSample (emergencySample (ceilingSample (showTj d p t.toNat) p x) p x) p x

/-- A further ms at or above THROTTLE. -/
def ceilingLower (d : Dev) (p : ThermalPlace) : Dev :=
  match mget d.power.hotSince p.key with
  | some t =>
    if t + msTicks 1 ≤ d.tally then
      setCeiling { d with power := { d.power with hotSince := mset d.power.hotSince p.key d.tally } } p (ceilingOf d p - 1)
    else d
  | none => d

/-- A further ms at or below RESUME. -/
def ceilingRaise (d : Dev) (p : ThermalPlace) : Dev :=
  match mget d.power.coolSince p.key with
  | some t =>
    if t + msTicks 1 ≤ d.tally then
      setCeiling { d with power := { d.power with coolSince := mset d.power.coolSince p.key d.tally } } p
        (min 7 (ceilingOf d p + 1))
    else d
  | none => d

/-- Input power and current as averages over 1 ms. -/
def showInput (d : Dev) (w amps : Nat) : Dev :=
  let d := fset d (clkReg R.PWR_IN) F.PWR_IN_IIN amps
  let a := clkReg R.PWR_IN_POWER
  fsets d a [(F.PWR_IN_POWER_W, w), (F.PWR_IN_POWER_PEAK_W, max w (fget d a F.PWR_IN_POWER_PEAK_W))]

/-- The limits of PWR_LIMIT; larger values act as 16,500 W and 375.0 A. -/
def powerLimits (d : Dev) : Nat × Nat :=
  (min 16500 (fget d (clkReg R.PWR_LIMIT) F.PWR_LIMIT_W), min 3750 (fget d (clkReg R.PWR_LIMIT) F.PWR_LIMIT_DECI_A))

/-- The 1 ms average exceeds a limit. -/
def supplyLower (d : Dev) (w amps : BitVec 16) : Dev :=
  let d := showInput d w.toNat amps.toNat
  let l := powerLimits d
  if l.1 < w.toNat ∨ l.2 < amps.toNat then
    choosePoint { d with power := { d.power with supply := d.power.supply - 1, supplyAt := d.tally } }
  else d

/-- Both averages have been below 95 % of their limits for 10 ms. -/
def supplyRaise (d : Dev) (w amps : BitVec 16) : Dev :=
  let d := showInput d w.toNat amps.toNat
  let l := powerLimits d
  if 100 * w.toNat < 95 * l.1 ∧ 100 * amps.toNat < 95 * l.2 ∧ d.power.supplyAt + msTicks 10 ≤ d.tally then
    choosePoint { d with power := { d.power with supply := min 7 (d.power.supply + 1), supplyAt := d.tally } }
  else d

/-! ## Droop stretches (R368) -/

/-- A district's margin falls below its threshold: its die's clock is stretched. More than 8 stretches within 1 ms lower
the district's ceiling. -/
def droopStretch (d : Dev) (die : DieId) (n : Fin 4) (deep : Bool) (margin : BitVec 8) : Dev :=
  if (dieSt d die).droop.isSome then d
  else
    let m := districtReg R.CLK_DST_MARGIN die n
    let d := fset (fcnt d m F.CLK_DST_MARGIN_DROOPS 1) m F.CLK_DST_MARGIN_MIN_PS (min margin.toNat (fget d m F.CLK_DST_MARGIN_MIN_PS))
    let d := fcnt d (ctl R.CLK_DROOP_CNT die 0) F.CLK_DROOP_CNT_EPISODES 1
    let d := droopStart (fset d (ctl R.CLK_DIE_STATUS die 0) F.CLK_DIE_STATUS_STRETCH 1) die deep
    let k := die.val * 4 + n.val
    let l := ((mgetD d.power.droops k []) ++ [d.tally]).filter fun t => d.tally < t + msTicks 1
    if 8 < l.length then
      setCeiling { d with power := { d.power with droops := mset d.power.droops k [] } } (.district die n)
        (ceilingOf d (.district die n) - 1)
    else { d with power := { d.power with droops := mset d.power.droops k l } }

/-- A stretch ends; where margin still lacks, a new one starts at once. -/
def droopEnd (d : Dev) (die : DieId) (again : Option (Fin 4 × Bool × BitVec 8)) : Dev :=
  match (dieSt d die).droop with
  | none => d
  | some (left, _) =>
    let d := fcnt d (ctl R.CLK_DROOP_CNT die 0) F.CLK_DROOP_CNT_CYCLES (16 - left)
    let d := droopStop (fset d (ctl R.CLK_DIE_STATUS die 0) F.CLK_DIE_STATUS_STRETCH 0) die
    match again with
    | some (n, deep, margin) => droopStretch d die n deep margin
    | none => d

/-! ## Reference and device time (R370 to R373) -/

/-- CLK_TIME_CTRL.DEGRADED follows its two causes. -/
def showDegraded (d : Dev) : Dev :=
  fset d (clkReg R.CLK_TIME_CTRL) F.CLK_TIME_CTRL_DEGRADED
    (b2n (d.power.sourceSilent || flag d (clkReg R.CLK_DEV_STATUS) F.CLK_DEV_STATUS_HOLDOVER))

/-- The reference is lost. -/
def referenceLost (d : Dev) : Dev :=
  showDegraded (alertCause (fsets d (clkReg R.CLK_DEV_STATUS)
    [(F.CLK_DEV_STATUS_REF_OK, 0), (F.CLK_DEV_STATUS_HOLDOVER, 1), (F.CLK_DEV_STATUS_LOSS_OF_REFERENCE, 1),
     (F.CLK_DEV_STATUS_DEGRADED, 1)]) 0)

/-- The reference has been in tolerance for 100 ms. -/
def referenceRestored (d : Dev) : Dev :=
  if flag d (clkReg R.CLK_DEV_STATUS) F.CLK_DEV_STATUS_HOLDOVER then
    showDegraded (fsets d (clkReg R.CLK_DEV_STATUS)
      [(F.CLK_DEV_STATUS_REF_OK, 1), (F.CLK_DEV_STATUS_HOLDOVER, 0), (F.CLK_DEV_STATUS_DEGRADED, 0)])
  else d

/-- RATE_ADJ. -/
def rateAdj (d : Dev) : Int := signed 32 (rd d (clkReg R.CLK_TIME_RATE)).toNat

/-- Device time in 10⁻¹³ ns: 1.6 ns × (1 + RATE_ADJ × 10⁻¹²) for each tick since TALLY_BASE. -/
def deviceTime (d : Dev) : Nat := d.clock.base + (d.tally - d.clock.at_) * (16 * (1000000000000 + rateAdj d)).toNat

/-- Device time in ns. -/
def timeNs (d : Dev) : Nat := deviceTime d / 10000000000000

/-- Steps and a rate that have been written take effect at a tally edge. -/
def timeEdge (d : Dev) : Dev :=
  if d.clock.steps.isEmpty && d.clock.newRate.isNone then d
  else
    let step : Int := d.clock.steps.foldl (fun x s => x + s * 10000000000000) 0
    let base := (Int.ofNat (deviceTime d) + step).toNat
    let rate := d.clock.newRate
    let d := { d with clock := { base, at_ := d.tally } }
    match rate with
    | some r => wr d (clkReg R.CLK_TIME_RATE) (BitVec.ofNat 32 r)
    | none => d

/-- A write of CLK_TIME_STEP. -/
def timeStep (d : Dev) (v : Nat) : Dev := { d with clock := { d.clock with steps := d.clock.steps ++ [signed 32 v] } }

/-- A write of CLK_TIME_RATE, clamped to 200 ppm. -/
def timeRate (d : Dev) (v : Nat) : Dev :=
  let r := max (-200000000) (min 200000000 (signed 32 v))
  { d with clock := { d.clock with newRate := some (unsigned 32 r) } }

/-- The time source that a number of CLK_TIME_CTRL.SRC names has been heard. -/
def sourceHeard (d : Dev) (src : Nat) : Dev :=
  if fget d (clkReg R.CLK_TIME_CTRL) F.CLK_TIME_CTRL_SRC = src then
    showDegraded { d with power := { d.power with sourceHeard := d.tally, sourceSilent := false } }
  else d

/-- The selected source has been silent for 3 s. -/
def sourceSilent (d : Dev) : Dev :=
  if fget d (clkReg R.CLK_TIME_CTRL) F.CLK_TIME_CTRL_SRC ≠ 3 && d.power.sourceHeard + secTicks 3 ≤ d.tally then
    showDegraded { d with power := { d.power with sourceSilent := true } }
  else d

/-- A rising edge on PPS_IN: its time stamp is kept, and it counts as heard; one that comes less than 0.5 s after the last
accepted edge is ignored. The stamp is within 4 ns of the crossing (R398); where, the spec does not say (log entry 4). -/
def ppsIn (d : Dev) : Dev :=
  let soon := match d.boot.ppsIn with
    | some t => decide (d.tally < t + msTicks 500)
    | none => false
  if soon then d
  else
    let d := bumpEpoch d
    let stamp := timeNs d + Config.openValue d.epoch 0xB1000000 % 9 - 4
    sourceHeard { d with boot := { d.boot with ppsIn := some d.tally, ppsStamp := stamp } } 2

/-- PPS_OUT rises at a whole second of device time. -/
def ppsOut (d : Dev) : Dev :=
  if flag d (clkReg R.CLK_TIME_CTRL) F.CLK_TIME_CTRL_PPS_OUT_EN then emit d .ppsOut [timeNs d / 1000000000] else d

/-- A read of CLK_TALLY_LO latches CLK_TALLY_HI. -/
def tallyRead (d : Dev) : Dev := wr d (clkReg R.CLK_TALLY_HI) (BitVec.ofNat 32 (d.tally >>> 32))

/-- A read of CLK_TIME_NS latches the seconds. -/
def timeRead (d : Dev) : Dev :=
  let s := timeNs d / 1000000000
  wr (wr d (clkReg R.CLK_TIME_SEC_LO) (BitVec.ofNat 32 s)) (clkReg R.CLK_TIME_SEC_HI) (BitVec.ofNat 32 (bits s 32 16))

end Sys2Proof.Machine
end

