-- ==== Sys2Proof/Machine/Ethernet.lean ====
section
/-! DEFINITION. Machine/Ethernet: a received Ethernet frame (R231, R233, R234). Header layouts are those of the standards
that the spec names (log entry 9). -/

namespace Sys2Proof.Machine

/-! ## Frame check sequence (IEEE 802.3) -/

/-- One bit of the CRC-32, reflected. -/
def crcBit (c : Nat) : Nat := if c % 2 = 1 then (c >>> 1) ^^^ 0xEDB88320 else c >>> 1

/-- One byte of the CRC-32. -/
def crcByte (c : Nat) (b : Byte) : Nat := (List.range 8).foldl (fun c _ => crcBit c) (c ^^^ b.toNat)

/-- The CRC-32 of a frame without its FCS. -/
def crc32 (bs : List Byte) : Nat := bs.foldl crcByte 0xFFFFFFFF ^^^ 0xFFFFFFFF

/-- Length and FCS of a frame are good. -/
def frameGood (f : List Byte) : Bool :=
  let n := f.length
  64 ≤ n && n ≤ 9216 && ofLeBytes (f.drop (n - 4)) == crc32 (f.take (n - 4))

/-! ## Headers -/

/-- What a frame's headers come to: not supported, passed on, or passed on with a time stamp, and whether a PTP time
source speaks. -/
inductive EthClass where
  | unsupported | plain
  | stamped (source : Bool)
  | ptp (source : Bool)
deriving DecidableEq, Repr

/-- A big-endian number at a place of a header. -/
def beAt (bs : List Byte) (off n : Nat) : Nat := beNat ((bs.drop off).take n)

/-- The class of a PTP message by its message type: types 0 to 3 are event messages; Sync, Follow_Up and Announce come
from a source. -/
def ptpClass (m : List Byte) : EthClass :=
  let t := beAt m 0 1 % 16
  if t < 4 then .stamped (t == 0) else .ptp (t == 8 || t == 11)

/-- TCP options name Fast Open (kind 34). -/
def fastOpen : Nat → List Byte → Bool
  | 0, _ => false
  | n + 1, o =>
    match o with
    | [] => false
    | k :: r =>
      if k = 0 then false
      else if k = 1 then fastOpen n r
      else k == 34 || fastOpen n (r.drop ((r.headD 2).toNat - 1))

/-- A TCP segment: no urgent data, no Fast Open. -/
def tcpClass (p : List Byte) : EthClass :=
  let head := beAt p 12 1 / 16 * 4
  if bit (beAt p 13 1) 5 || fastOpen 40 ((p.take head).drop 20) then .unsupported else .plain

/-- A RoCEv2 opcode of a reliable connection without atomics, or a congestion notification. -/
def roceOk (op : Nat) : Bool := op ≤ 0x11 || op == 0x16 || op == 0x17 || op == 0x81

/-- A UDP datagram by its destination port; `multi` where it is multicast. -/
def udpClass (p : List Byte) (multi dhcp : Bool) : EthClass :=
  let port := beAt p 2 2
  if port = 319 ∨ port = 320 then ptpClass (p.drop 8)
  else if multi then .unsupported
  else if port = 4791 then (if roceOk (beAt p 8 1) then .plain else .unsupported)
  else if port = 68 && dhcp then .plain
  else .unsupported

/-- An IPv4 packet: no fragments, no options, multicast for PTP only. -/
def ipv4Class (p : List Byte) : EthClass :=
  let proto := beAt p 9 1
  let multi := beAt p 16 1 / 16 == 14
  let body := p.drop 20
  if beAt p 0 1 ≠ 0x45 ∨ beAt p 6 2 % 0x4000 ≠ 0 then .unsupported
  else if proto = 17 then udpClass body multi true
  else if multi then .unsupported
  else if proto = 6 then tcpClass body
  else if proto = 1 && [0, 3, 8].contains (beAt body 0 1) then .plain
  else .unsupported

/-- An IPv6 packet: no extension headers. -/
def ipv6Class (p : List Byte) : EthClass :=
  let next := beAt p 6 1
  let multi := beAt p 24 1 == 0xFF
  let body := p.drop 40
  if next = 17 then udpClass body multi false
  else if next = 6 then (if multi then .unsupported else tcpClass body)
  else if next = 58 && [2, 128, 129, 133, 134, 135, 136].contains (beAt body 0 1) then .plain
  else .unsupported

/-- The packet of an EtherType. PFC is supported on priority 3; pause is not. -/
def etherClass (ty : Nat) (p : List Byte) : EthClass :=
  if ty = 0x0800 then ipv4Class p
  else if ty = 0x86DD then ipv6Class p
  else if ty = 0x0806 then .plain
  else if ty = 0x88F7 then ptpClass p
  else if ty = 0x8808 && beAt p 0 2 == 0x0101 && beAt p 2 2 == 8 then .plain
  else .unsupported

/-- A frame by its tag and EtherType: the aqueduct's VLAN, or untagged where that is 0. -/
def frameClass (vlan : Nat) (f : List Byte) : EthClass :=
  let f := f.take (f.length - 4)
  let ty := beAt f 12 2
  if ty = 0x8100 then
    if beAt f 14 2 % 4096 = vlan then etherClass (beAt f 16 2) (f.drop 18) else .unsupported
  else if vlan = 0 || ty = 0x8808 then etherClass ty (f.drop 14)
  else .unsupported

/-- The time stamp of a frame: device time at the crossing, within 4 ns (R233); where, the spec does not say (log
entry 4). -/
def frameStamp (d : Dev) (g : Nat) : Nat := timeNs d + Config.openValue d.epoch (0xB2000000 + g) % 9 - 4

/-- The link-control flits that a fabric aqueduct sends once 64 codeword pairs have passed since it last did: an
acknowledgement with the pair it has reached (R226), the credits of the frames it has taken, and unless time is DEGRADED a
time stamp (R221, R372). -/
def linkControl (d : Dev) (g : Nat) : Dev :=
  let a := aqd d g
  if !aqdFabricUp d g || a.refusing.isSome || pairsIn (laneCount a.map) (d.tally - a.ackAt) < 64 then d
  else
    let d := emit d .linkAck [g, pairIn d g]
    let d := if a.got.isEmpty then d else emit d .linkCredit (g :: (List.range 8).map (mgetD a.got · 0))
    let d := if flag d (clkReg R.CLK_TIME_CTRL) F.CLK_TIME_CTRL_DEGRADED then d else emit (bumpEpoch d) .linkTime [g, frameStamp d g]
    setAqd d g { a with ackAt := d.tally, got := [] }

/-- The link control of the aqueducts in a tick. -/
def linkTick (d : Dev) : Dev := d.aqds.foldl (fun d e => linkControl d e.1) d

/-- An Ethernet frame is received on an aqueduct. -/
def ethFrameRx (d : Dev) (g : Nat) (f : List Byte) : Dev :=
  if !(flag d (aqdReg R.AQD_STATUS g) F.AQD_STATUS_UP && ethernet d g) then d
  else
    let drop := aqdReg R.AQD_ETH_DROP g
    if !frameGood f then fcnt d drop F.AQD_ETH_DROP_FCS 1
    else
      let d := fcnt d (aqdReg R.AQD_ETH_RX g) F.AQD_ETH_RX_FRAMES 1
      let heard (d : Dev) (s : Bool) : Dev := if s then sourceHeard d 0 else d
      match frameClass (fget d (aqdReg R.AQD_CTRL g) F.AQD_CTRL_VLAN) f with
      | .unsupported => fcnt d drop F.AQD_ETH_DROP_UNSUP 1
      | .plain => emit d .ethFrame [g, 0] f
      | .ptp s => heard (emit d .ethFrame [g, 0] f) s
      | .stamped s =>
        let d := bumpEpoch d
        heard (emit d .ethFrame [g, 1, frameStamp d g] f) s

end Sys2Proof.Machine
end

