-- ==== Sys2Proof/Machine/Image.lean ====
section
/-! DEFINITION. Machine/Image: firmware images and their verification (R350). -/

namespace Sys2Proof.Machine

/-- The ROM hash of the root key (log entry 5). -/
def romHash (d : Dev) : List Byte :=
  (List.range 16).flatMap fun i => leBytes 4 (rd d (ctl (R.TRU_ROOT_HASH + 4 * i) 0 0)).toNat

/-- The largest length of a section of a kind. -/
def sectionLimit (kind : Nat) : Nat := if kind = 1 then 8388608 else 4194304

/-- The entry of a section in the header: its place, and whether it lies within the image and its limit. -/
def sectionOk (h : List Byte) (total i : Nat) : Bool :=
  let o := 544 + 96 * i
  let kind := numAt h o 4
  1 ≤ kind && kind ≤ 3 && numAt h (o + 8) 4 ≤ sectionLimit kind && numAt h (o + 4) 4 + numAt h (o + 8) 4 ≤ total

/-- A section's kind, digest and bytes. -/
def sectionAt (img : List Byte) (i : Nat) : Nat × List Byte × List Byte :=
  let o := 544 + 96 * i
  (numAt img o 4, (img.drop (o + 16)).take 64, (img.drop (numAt img (o + 4) 4)).take (numAt img (o + 8) 4))

/-- The image of a slot, where its header verifies: format and limits, the root key against the ROM hash, the
signature. -/
def parseImage (d : Dev) (img : List Byte) : Option Image :=
  let total := numAt img 16 4
  let n := numAt img 20 1
  let key := (img.drop 32).take 512
  if img.length < 2048 ∨ numAt img 0 4 ≠ 0x4657545A ∨ numAt img 4 2 ≠ 1 ∨ total < 2048 ∨ 16777216 < total ∨ img.length < total
      ∨ n = 0 ∨ 5 < n ∨ sha512 key ≠ romHash d then none
  else if !pssVerify key (img.take 1024) ((img.drop 1024).take 512) || !(List.range n).all (sectionOk img total) then none
  else
    some { edition := numAt img 6 2, version := numAt img 8 4, svn := numAt img 12 4, digest := sha512 (img.take 1024),
           sections := (List.range n).map (sectionAt img) }

/-- Every section's bytes match their digest. -/
def Image.sectionsOk (x : Image) : Bool := x.sections.all fun s => sha512 s.2.2 == s.2.1

end Sys2Proof.Machine
end

