-- ==== Sys2Proof/Machine/Placement.lean ====
section
/-! DEFINITION. Machine/Placement: where firmware places the units of a step program: loading (R159 to R165) and
re-placement (R382, R383). -/

namespace Sys2Proof.Machine

/-! ## Free room of a block

Of the places that fit, firmware takes the lowest (log entry 42). -/

/-- Two ranges overlap. -/
def overlaps (a b : Nat × Nat) : Bool := 0 < a.2 && 0 < b.2 && a.1 < b.1 + b.2 && b.1 < a.1 + a.2

/-- The lowest multiple of `align`, plus `off`, at which `n` units fit below `total` clear of what is used. -/
def firstFit (used : List (Nat × Nat)) (total n align off : Nat) : Option Nat :=
  let up (x : Nat) : Nat := (x + align - 1 - off % align) / align * align + off % align
  let cands := (off % align :: used.map fun u => up (u.1 + u.2))
  (cands.filter fun c => c + n ≤ total && used.all fun u => !overlaps u (c, n)).foldl
    (fun m c => match m with
      | some x => some (min x c)
      | none => some c) none

/-- The end of a unit's image: the furthest section that its header names (R160). -/
def imageEnd (d : Dev) (die b : Nat) (u : UnitCtx) : Nat :=
  let h := u.hdr
  let chain (i : Nat) : Nat :=
    let off := h.chainOff + imageNat d die b u.base (h.chainOff + 4 * i) 4
    off + 64 + 8 * (imageNat d die b u.base off 1 % 32 + 1)
  ((List.range h.chains).map chain).foldl max
    (max (max 64 (h.codeOff + 32 * h.bundles)) (max (h.tileOff + 32 * h.tiles) (max (h.chainOff + 4 * h.chains) (h.descOff + 64 * h.descs))))

/-- What a block's units use, by kind. -/
structure Used where
  units : Nat := 0
  ps : List (Nat × Nat) := []
  cis : List (Nat × Nat) := []
  wide : List (Nat × Nat) := []
  narrow : List (Nat × Nat) := []
  entry : List (Nat × Nat) := []
deriving DecidableEq, Repr

/-- A unit's segments are used. -/
def Used.add (x : Used) (base : UnitBase) (h : UnitHdr) (len : Nat) : Used :=
  { units := x.units + 1, ps := (base.ps, len) :: x.ps, cis := (base.cis, h.cisLines) :: x.cis,
    wide := (base.wide, h.wideRows) :: x.wide, narrow := (base.narrow, h.narrowRows) :: x.narrow,
    entry := (base.entry, h.entries) :: x.entry }

/-- Retired banks of a block are not to be used. -/
def retiredRoom (d : Dev) (die b : Nat) : Used :=
  let cis := (List.range 32).filter fun s => d.cont.retired.contains (locId die 0 (b * 32 + s))
  let bank := fun k => d.cont.retired.contains (locId die 1 (b * 20 + k))
  { cis := cis.map fun s => (s * 4096, 4096), wide := ((List.range 12).filter bank).map fun k => (k * 512, 512),
    narrow := ((List.range 8).filter fun k => bank (12 + k)).map fun k => (k * 4096, 4096) }

/-- What the valid slots of a block use, but one. -/
def usedBut (d : Dev) (die b : Nat) (skip : Nat) : Used :=
  (List.range 4).foldl (fun x s =>
    if s = skip || !slotValid d die b s then x
    else
      let u := unitCtx d die b s
      x.add u.base u.hdr (imageEnd d die b u)) (retiredRoom d die b)

/-- Bases for a unit in a block, where everything fits. A unit with weights keeps its line's place within a sub-bank, so
that its ground pages stay what they are; `cisAlign` is 4,096 for that, else 1. -/
def fitUnit (x : Used) (h : UnitHdr) (len cisAlign cisOff : Nat) : Option UnitBase := do
  let ps ← firstFit x.ps 524288 len 64 0
  let cis ← firstFit x.cis 131072 h.cisLines cisAlign cisOff
  let wide ← firstFit x.wide 6144 h.wideRows 1 0
  let narrow ← firstFit x.narrow 32768 h.narrowRows 1 0
  let entry ← firstFit x.entry 1024 h.entries 1 0
  if x.units < 4 then some { ps, cis, wide, narrow, entry } else none

/-- Street hops between two blocks of a die (R143). -/
def hops (a b : Nat) : Nat :=
  let dist (x y : Nat) : Nat := max x y - min x y
  dist (a / 6) (b / 6) + dist (a % 6) (b % 6)

/-- Blocks that may host a unit of a home block: not retired, not under test. -/
def hostsFor (d : Dev) (die : Nat) : List Nat :=
  dieBlocks.filter fun b => !blockRetired d die b && !d.cont.testing.any fun t => t.1 == gblock die b

/-- The slot registers of a unit slot. -/
def slotRegs (die b s : Nat) (unit : Nat) (base : UnitBase) : List (Nat × Nat) :=
  let r (p : Nat) : Nat := ctl (p + 0x20 * s) die b
  [(r R.SEQ_US_CTRL, unit + pow2 31), (r R.SEQ_US_PS, base.ps), (r R.SEQ_US_CIS, base.cis), (r R.SEQ_US_WIDE, base.wide),
   (r R.SEQ_US_NARROW, base.narrow), (r R.SEQ_US_ENTRY, base.entry)]

/-- The home map registers of a unit. -/
def homeRegs (die : Nat) (h : UnitHdr) (host wide : Nat) : List (Nat × Nat) :=
  let n := h.home % 24 * 4 + h.index
  [(ctl (R.DIE_HOME_A + 8 * n) die 0, h.homeWide + h.wideRows * pow2 13 + pow2 31),
   (ctl (R.DIE_HOME_B + 8 * n) die 0, host + wide * pow2 5)]

/-- The registers of a die's placement group (R165). -/
def placementGroup (die : Nat) : List Nat :=
  (dieBlocks.flatMap fun b => (List.range 4).flatMap fun s => (slotRegs die b s 0 {}).map Prod.fst)
    ++ (List.range 96).flatMap fun n => [ctl (R.DIE_HOME_A + 8 * n) die 0, ctl (R.DIE_HOME_B + 8 * n) die 0]

/-- The placement group of a die applies at a step boundary; the header of a program that waited for it is in place, and its
private-expert slots carry the tags of the tiles that lie there (R291); loads that waited for it go on (R281). -/
def placementApply (d : Dev) (die : Nat) : Dev :=
  let a := ctl R.DIE_PLACE_APPLY die 0
  if !flag d a F.DIE_PLACE_APPLY_APPLY || !atBoundary d then d
  else
    let d := applyShadows d (placementGroup die)
    let d := fsets d a [(F.DIE_PLACE_APPLY_APPLY, 0), (F.DIE_PLACE_APPLY_PEND, 0)]
    if computeDies.any fun x => flag d (ctl R.DIE_PLACE_APPLY x 0) F.DIE_PLACE_APPLY_APPLY then d
    else match d.step.nextHdr with
      | some h => settleModels (d.srv.tagLines.foldl tagTiles { d with step := { d.step with hdr := h, nextHdr := none } })
      | none => d

/-! ## Loading a step program (R159 to R163) -/

/-- How a load ends. -/
inductive LoadResult where
  | loaded | edition | format | fit
deriving DecidableEq, Repr

/-- The number of a load result as it is reported. -/
def LoadResult.code : LoadResult → Nat
  | .loaded => 0 | .edition => 1 | .format => 2 | .fit => 3

/-- A unit of a program: its header and image. -/
structure ProgUnit where
  hdr : UnitHdr
  image : List Byte

/-- A unit whose image holds together by R162, or none. -/
def progUnit (prog : List Byte) (i : Nat) : Option ProgUnit :=
  let off := numAt prog (64 + 8 * i) 4
  let len := numAt prog (68 + 8 * i) 4
  let image := (prog.drop off).take len
  let h := parseUnitHdr image
  let chain (k : Nat) : Bool :=
    let o := h.chainOff + numAt image (h.chainOff + 4 * k) 4
    o + 64 ≤ len && o + 64 + 8 * (numAt image o 1 % 32 + 1) ≤ len
  if prog.length < off + len || 1152 ≤ h.home || 4 ≤ h.index || len < h.codeOff + 32 * h.bundles
      || len < h.tileOff + 32 * h.tiles || len < h.chainOff + 4 * h.chains || len < h.descOff + 64 * h.descs
      || !(List.range h.chains).all chain then none
  else some { hdr := h, image }

/-- A unit placed: its die and host, slot and bases. -/
structure Placed where
  unit : Nat
  die : Nat
  host : Nat
  slot : Nat
  base : UnitBase
  hdr : UnitHdr
  image : List Byte

/-- What a block has free for a program that is loaded: clear of the units in place and of those placed so far; its slots
are all to be had, as the placement group replaces them at once. -/
def roomFor (d : Dev) (die b : Nat) (l : List Placed) : Used :=
  (l.filter fun p => p.die = die && p.host = b).foldl (fun x p => x.add p.base p.hdr p.image.length)
    { usedBut d die b 4 with units := 0 }

/-- The host of a unit: its home block where it fits, else by fewest units, fewest hops, lowest number (R164, R383). -/
def chooseHost (d : Dev) (l : List Placed) (h : UnitHdr) (len : Nat) : Option (Nat × UnitBase) :=
  let die := h.home / 24
  let home := h.home % 24
  let fits := (hostsFor d die).filterMap fun b =>
    let x := roomFor d die b l
    (fitUnit x h len 1 0).map fun base => ((if b = home then 0 else 1, x.units, hops home b, b), base)
  let best := fits.foldl (fun m c => match m with
    | some x => if keyLt c.1 x.1 then some c else some x
    | none => some c) none
  best.map fun c => (c.1.2.2.2, c.2)

/-- Places units in the order of the directory. -/
def placeUnits (d : Dev) : List ProgUnit → Nat → List Placed → Option (List Placed)
  | [], _, l => some l
  | u :: us, i, l =>
    match chooseHost d l u.hdr u.image.length with
    | none => none
    | some (b, base) =>
      let die := u.hdr.home / 24
      let slot := (l.filter fun p => p.die = die && p.host = b).length
      placeUnits d us (i + 1) (l ++ [{ unit := i, die, host := b, slot, base, hdr := u.hdr, image := u.image }])

/-- The steps of R162 for a whole program: checks, images, slot registers and home map in the placement group's shadows,
and the group armed on every die. -/
def loadProgram (d : Dev) (prog : List Byte) : Dev × LoadResult :=
  let hdr := parseStepHdr prog
  if prog.length < 64 || numAt prog 0 2 ≠ 1 then (d, .format)
  else if numAt prog 2 2 ≠ edition d then (d, .edition)
  else if prog.length < 64 + 8 * hdr.units then (d, .format)
  else
    let units := (List.range hdr.units).map (progUnit prog)
    if units.any Option.isNone then (d, .format)
    else
      match placeUnits d (units.filterMap id) 0 [] with
      | none => (d, .fit)
      | some l =>
        let clear := computeDies.flatMap placementGroup
        let d := clear.foldl (fun d a => if (shadowOf d a) = 0 then d else writeShadow d a 0) d
        let d := l.foldl (fun d p =>
          let x := blk d p.die p.host
          let d := setBlk d p.die p.host { x with ps := memWrite x.ps p.base.ps p.image }
          (slotRegs p.die p.host p.slot p.unit p.base ++ homeRegs p.die p.hdr p.host p.base.wide).foldl
            (fun d r => writeShadow d r.1 (BitVec.ofNat 32 r.2)) d) d
        let d := computeDies.foldl (fun d die =>
          fsets d (ctl R.DIE_PLACE_APPLY die 0) [(F.DIE_PLACE_APPLY_APPLY, 1), (F.DIE_PLACE_APPLY_PEND, 1)]) d
        let id := hdr.programId
        let loaded := (d.step.loaded.filter fun x => x.1 != id) ++ [(id, sha512 prog)]
        ({ d with step := { d.step with nextHdr := some hdr, loaded, barred := d.step.barred.filter fun x => x != id } }, .loaded)

/-- A whole program is loaded, and firmware reports how the load ended. -/
def runLoad (d : Dev) (prog : List Byte) : Dev :=
  let r := loadProgram d prog
  emit r.1 .loadResult [r.2.code]

/-! ## Moving what a unit has (R285, R382, R383) -/

/-- The bytes of a cistern page that moves: its ground copy, checked against the scrub digest; where that does not match, the
cistern's own. A page neither of which matches waits for its repair at its new place (R283, R285). -/
def moveBytes (d : Dev) (k new : Nat) : Dev × List Byte :=
  let own := pageBytes d k
  let good (bs : List Byte) : Bool := ((epochUsing d k).map fun e => sha512 bs == mgetD e.scrub k []).getD true
  match (groundCopy d k).filter good with
  | some bs => (d, bs)
  | none => if good own then (d, own) else ({ d with srv := { d.srv with badPages := (d.srv.badPages ++ [new]).eraseDups } }, own)

/-- Private lines of a sub-bank are also in the one that its contents move to (R292). -/
def moveTags (d : Dev) (g s h t : Nat) : Dev :=
  let d := dropTags d h (t * 4096) 4096
  let l := d.srv.tagLines.flatMap fun x =>
    if x.block = g && x.line / 4096 ≤ s && s ≤ (x.line + x.count - 1) / 4096 then
      let lo := max x.line (s * 4096)
      let hi := min (x.line + x.count) ((s + 1) * 4096)
      [{ x with block := h, line := lo - s * 4096 + t * 4096, count := hi - lo }]
    else []
  { d with srv := { d.srv with tagLines := d.srv.tagLines ++ l } }

/-- A sub-bank's contents move from its ground copy into another, woken, sub-bank, whose ground register takes the pages
(R382); `stay` where other units still use the old one. -/
def moveSub (d : Dev) (die : Nat) (from_ dest : Nat × Nat) (stay : Bool) : Dev :=
  let gr (b s : Nat) : Nat := ctl (R.CIS_GROUND + 4 * s) die b
  let old := gr from_.1 from_.2
  let page := fget d old F.CIS_GROUND_PAGE
  let key (i : Nat) : Nat := cisPage (gblock die from_.1) (2 * from_.2 + i)
  let key' (i : Nat) : Nat := cisPage (gblock die dest.1) (2 * dest.2 + i)
  let x := moveBytes d (key 0) (key' 0)
  let y := moveBytes x.1 (key 1) (key' 1)
  let bytes := x.2 ++ y.2
  let d := moveTags y.1 (gblock die from_.1) from_.2 (gblock die dest.1) dest.2
  let d := bankReady (bankWake d die dest.1 (.sub (Fin.ofNat 32 dest.2))) die dest.1 (.sub (Fin.ofNat 32 dest.2))
  let x := blk d die dest.1
  let d := setBlk d die dest.1 { x with cistern := memWrite x.cistern (dest.2 * 4194304) bytes }
  if !flag d old F.CIS_GROUND_VALID then d
  else if stay then
    match freeRun d 2 with
    | none => d
    | some p =>
      let d := setPage (setPage d p 1 (pageRefs d page) false) (p + 1) 1 (pageRefs d (page + 1)) false
      let d := fsets (putRsv d (p * 2097152) bytes) (gr dest.1 dest.2) [(F.CIS_GROUND_PAGE, p), (F.CIS_GROUND_VALID, 1)]
      [0, 1].foldl (fun d i => copyRecord d (key i) (key' i)) d
  else
    let d := fsets d (gr dest.1 dest.2) [(F.CIS_GROUND_PAGE, page), (F.CIS_GROUND_VALID, 1)]
    let d := fset d old F.CIS_GROUND_VALID 0
    [0, 1].foldl (fun d i =>
      renamePage d (key i) (key' i)) d

/-- The sub-banks that a segment touches. -/
def segSubs (base n : Nat) : List Nat := if n = 0 then [] else (List.range ((base + n - 1) / 4096 + 1 - base / 4096)).map fun i => base / 4096 + i

/-- The sub-banks of a segment move, each to the one at the same place of the new segment. -/
def moveSubs (d : Dev) (die b dest : Nat) (old new n : Nat) (others : List (Nat × Nat)) : Dev :=
  (segSubs old n).foldl (fun d s =>
    let t := s + new / 4096 - old / 4096
    moveSub d die (b, s) (dest, t) (others.any fun u => overlaps u (s * 4096, 4096))) d

/-- Rows and their marks are copied to another place; marks that were clear are clear there. -/
def moveRows (d : Dev) (die b dest : Nat) (narrow : Bool) (old new n : Nat) : Dev :=
  let bytes := wellRead d die b (rowAddr narrow old) (n * rowBytes narrow)
  let x := blk d die b
  let marks := (if narrow then x.narrowMarks else x.wideMarks).filter fun m => old ≤ m.1 && m.1 < old + n
  let y := clearMarks (blk d die dest) narrow new n
  let y := marks.foldl (fun y m => setMark y narrow (m.1 - old + new) m.2) y
  setBlk d die dest { y with well := memWrite y.well (rowAddr narrow new) bytes }

/-- A unit slot's registers take new values at the step boundary. -/
def setRegs (d : Dev) (l : List (Nat × Nat)) : Dev := l.foldl (fun d r => wr d r.1 (BitVec.ofNat 32 r.2)) d

/-- The unit of a slot moves to another block (R383). -/
def moveUnit (d : Dev) (die b s dest : Nat) (base : UnitBase) : Dev :=
  let u := unitCtx d die b s
  let len := imageEnd d die b u
  let image := imageBytesAt d die b u.base 0 len
  let slot := ((List.range 4).find? fun k => !slotValid d die dest k).getD 3
  let unit := fget d (ctl (R.SEQ_US_CTRL + 0x20 * s) die b) F.SEQ_US_CTRL_UNIT
  let d := moveSubs d die b dest u.base.cis base.cis u.hdr.cisLines (usedBut d die b s).cis
  let d := moveRows d die b dest false u.base.wide base.wide u.hdr.wideRows
  let d := moveRows d die b dest true u.base.narrow base.narrow u.hdr.narrowRows
  let x := blk d die dest
  let d := setBlk d die dest { x with ps := memWrite x.ps base.ps image }
  let d := fset d (ctl (R.SEQ_US_CTRL + 0x20 * s) die b) F.SEQ_US_CTRL_VALID 0
  setRegs d (slotRegs die dest slot unit base ++ homeRegs die u.hdr dest base.wide)

/-- A unit that must leave its block finds a host, or none. -/
def rehome (d : Dev) (die b s : Nat) : Option (Nat × UnitBase) :=
  let u := unitCtx d die b s
  let len := imageEnd d die b u
  let fits := ((hostsFor d die).filter fun x => x != b).filterMap fun t =>
    let x := usedBut d die t 4
    let x := { x with cis := x.cis.map fun r => (r.1 / 4096 * 4096, (r.1 + r.2 + 4095) / 4096 * 4096 - r.1 / 4096 * 4096) }
    (fitUnit x u.hdr len 4096 u.base.cis).map fun base => ((x.units, hops (u.hdr.home % 24) t, t, 0), base)
  let best := fits.foldl (fun m c => match m with
    | some x => if keyLt c.1 x.1 then some c else some x
    | none => some c) none
  best.map fun c => (c.1.2.2.1, c.2)

end Sys2Proof.Machine
end

