-- ==== Sys2Proof/Machine/Stream.lean ====
section
/-! DEFINITION. Machine/Stream: the stream tier (R206, R285, R382): plain tile images built from the ground copy, and the
fallback program that reads them. -/

namespace Sys2Proof.Machine

/-- `n` cistern lines of a block from `line` on, as the ground copy holds them; those of a page without a ground copy that can be
read and matches the scrub digest as the cistern holds them (R285). -/
def groundLines (d : Dev) (die b line n : Nat) : List Byte :=
  (List.range n).flatMap fun i =>
    let l := line + i
    let k := cisPage (gblock die b) (l / 2048)
    let copy := (groundCopy d k).filter fun bs => ((epochUsing d k).map fun e => sha512 bs == mgetD e.scrub k []).getD true
    if copy.isSome then rsvRead d (groundAddr d die b l) 1024
    else memRead d.epoch (unitCis (gblock die b)) (blk d die b).cistern (l * 1024) 1024

/-- The plain image of a tile (R74, R206): the bits that the tile loader writes into the planes, in the order of a plain
image of its tile format. -/
def streamImage (t : TileDesc) (image slot : List Byte) (slotValid : Bool) : List Byte :=
  let ws := tileWeights t image slot slotValid
  let depth := tileDepth t.tfmt
  let at_ (n k : Nat) : Nat := ((ws.getD n []).map Weight.val).getD k 0
  let cells := if t.column then (List.range depth).flatMap fun k => (List.range 64).map fun n => at_ n k
    else (List.range 64).flatMap fun n => (List.range depth).map fun k => at_ n k
  cells.flatMap (leBytes t.tfmt.bytes)

/-- The plain images of a unit's cistern tiles, in the order of its table, each image alternative in turn. A tile that loads
no expansion records uses those of the last tile before it that loads its slot (log entry 100). -/
def unitImages (d : Dev) (die b : Nat) (u : UnitCtx) : List (List Byte) :=
  ((List.range u.hdr.tiles).foldl (fun (r : List (List Byte) × SMap (List Byte)) i =>
    match tileAt d die b u i with
    | none => r
    | some t =>
      if t.fromWell then r
      else
        let lines (off n : Nat) : List Byte := groundLines d die b (u.base.cis + off) n
        let alts := (t.img0, t.exp0) :: (if t.epochAlt then [(t.img1, t.exp1)] else [])
        alts.foldl (fun r a =>
          let slots := if t.expLoad then mset r.2 t.expSlot (lines a.2 (expLineCount t)) else r.2
          (r.1 ++ [streamImage t (lines a.1 (imageLines t)) (mgetD slots t.expSlot []) (mget slots t.expSlot).isSome], slots)) r)
    ([], [])).1

/-- The stream images of a unit are placed into a fresh run of STREAM pages, which steps read (R206); nothing where no run is
free. -/
def streamUnit (d : Dev) (die b s : Nat) : Option Dev :=
  let bs := (unitImages d die b (unitCtx d die b s)).flatten
  let n := pagesFor bs.length
  (kvRun d n).map fun l => putPages l bs (takePages d l 2 true false)

/-- The fallback program of a model is loaded beside the active one, and the model table group that switches to it is armed
(R335, R382). -/
def switchFallback (d : Dev) (m : Nat) (prog : List Byte) : Dev :=
  let id := (parseStepHdr prog).programId
  let d := if d.step.loaded.any fun x => x.1 = id then d else runLoad d prog
  let d := writeShadow d (modelReg R.SRV_MT_PROG_LO m) (BitVec.ofNat 32 id)
  let d := writeShadow d (modelReg R.SRV_MT_PROG_HI m) (BitVec.ofNat 32 (id / pow2 32))
  fsets d (modelReg R.SRV_MT_APPLY m) [(F.SRV_MT_APPLY_APPLY, 1), (F.SRV_MT_APPLY_PEND, 1)]

/-- A unit without a home goes to the stream tier, where every model served has a fallback program and pages can be had. -/
def streamTier (d : Dev) (die b s : Nat) : Option Dev :=
  let l := d.srv.models.filter fun e => e.2.active.isSome
  if l.isEmpty || l.any fun e => e.2.fallback.isEmpty then none
  else (streamUnit d die b s).map fun d => l.foldl (fun d e => switchFallback d e.1 e.2.fallback) d

/-- The compiler supplies a fallback program for a model's epoch. -/
def supplyFallback (d : Dev) (m : Nat) (prog : List Byte) : Dev := setModel d m { model d m with fallback := prog }

end Sys2Proof.Machine
end

