-- ==== Sys2Proof/Machine/Net.lean ====
section
/-! DEFINITION. Machine/Net: the addresses of the Ethernet ports (R346, R348), what the IP layer answers of itself (R234), and
the move of a port's connections (R304). Header layouts and the answers to ARP, echo and neighbour solicitations are those of
the standards that the spec names (log entry 104). -/

namespace Sys2Proof.Machine

/-! ## Addresses (R346, R348) -/

/-- Bytes of the configuration record; what has not been read is as erased flash. -/
def cfgBytes (d : Dev) (off n : Nat) : List Byte := (List.range n).map fun i => d.boot.config.getD (off + i) 0xFF

/-- MAC_BASE: the record's, or where that is no unicast address, 0x02 and the identity's or the record's digest. -/
def macBase (d : Dev) : Nat :=
  let r := cfgBytes d 0x010 6
  if bit (beNat (r.take 1)) 0 then
    let place := if fget d (ctl R.CFG_STATUS 0 0) F.CFG_STATUS_IDENT = 0 then R.TRU_ID_DIGEST else R.CFG_DIGEST
    let digest := [0, 4].flatMap fun i => leBytes 4 (rd d (ctl (place + i) 0 0)).toNat
    beNat (0x02 :: digest.take 5)
  else beNat r

/-- The MAC address of a global aqueduct, and of the management port as number 64. -/
def portMac (d : Dev) (g : Nat) : List Byte := beBytes 6 ((macBase d + g) % pow2 48)

/-- What is configured for a port: DHCPv4 and SLAAC, static addresses with their prefix lengths, gateways. -/
structure Iface where
  port : Nat
  dhcp4 : Bool := true
  slaac : Bool := true
  ipv4 : Option (Nat × List Byte) := none
  gw4 : Option (List Byte) := none
  ipv6 : Option (Nat × List Byte) := none
  gw6 : Option (List Byte) := none
deriving DecidableEq, Repr

/-- An address with its prefix length, where that is one. -/
def prefixed (n most : Nat) (a : List Byte) : Option (Nat × List Byte) := if 1 ≤ n ∧ n ≤ most then some (n, a) else none

/-- A gateway, where the bytes are neither all zeros nor all ones. -/
def gateway (a : List Byte) : Option (List Byte) := if a.all (· == 0) || a.all (· == 0xFF) then none else some a

/-- An entry of the interface table, or none where it is unused of itself. -/
def ifaceEntry (d : Dev) (i : Nat) : Option Iface :=
  let e := cfgBytes d (0x0C0 + 48 * i) 48
  let port := numAt e 0 1
  if (port < 64 && ethernet d port) || port = 0xFE then
    some { port, dhcp4 := bit (numAt e 1 1) 0, slaac := bit (numAt e 1 1) 1,
           ipv4 := prefixed (numAt e 2 1) 32 ((e.drop 4).take 4), gw4 := gateway ((e.drop 8).take 4),
           ipv6 := prefixed (numAt e 3 1) 128 ((e.drop 12).take 16), gw6 := gateway ((e.drop 28).take 16) }
  else none

/-- The entries in use: of those that name one port, the first. -/
def ifaces (d : Dev) : List Iface :=
  ((List.range 16).filterMap (ifaceEntry d)).foldl (fun l x => if l.any (fun y => y.port == x.port) then l else l ++ [x]) []

/-- The configuration of a port; a port with no entry in use runs DHCPv4 and SLAAC. -/
def portIface (d : Dev) (g : Nat) : Iface := ((ifaces d).find? fun x => x.port == g).getD { port := g }

/-- The aqueduct at which a port's addresses are served: its own, or the one that they have moved to (R304). -/
def servedAt (d : Dev) (g : Nat) : Nat := mgetD d.srv.portsMoved g g

/-- What a port has learnt of its addresses. -/
def portNet (d : Dev) (g : Nat) : PortNet := mgetD d.nets g {}

/-- The addresses that are served at an aqueduct, of IPv4 or IPv6: the static ones, and those leased or formed (R348). -/
def servedAddrs (d : Dev) (g : Nat) (v6 : Bool) : List (List Byte) :=
  ((List.range 64).filter fun p => servedAt d p = g).flatMap fun p =>
    let x := portIface d p
    ((if v6 then x.ipv6 else x.ipv4).map Prod.snd).toList
      ++ if v6 then (portNet d p).slaac else ((portNet d p).lease.map Prod.snd).toList

/-! ## Frames sent -/

/-- The Internet checksum. -/
def inetSum : List Byte → Nat
  | a :: b :: r => a.toNat * 256 + b.toNat + inetSum r
  | [a] => a.toNat * 256
  | [] => 0

/-- Its one's complement fold into 16 bits, complemented. -/
def inetCheck (bs : List Byte) : Nat :=
  let x := inetSum bs
  let y := x % 65536 + x / 65536
  65535 - (y % 65536 + y / 65536) % 65536

/-- The VLAN of an aqueduct. -/
def portVlan (d : Dev) (g : Nat) : Nat := fget d (aqdReg R.AQD_CTRL g) F.AQD_CTRL_VLAN

/-- Sends an Ethernet frame: the aqueduct's tag, padding to 60 bytes, FCS. -/
def sendEther (d : Dev) (g : Nat) (dst : List Byte) (ty : Nat) (body : List Byte) : Dev :=
  let tag := if portVlan d g = 0 then [] else beBytes 2 0x8100 ++ beBytes 2 (portVlan d g)
  let f := dst ++ portMac d g ++ tag ++ beBytes 2 ty ++ body
  let f := f ++ List.replicate (60 - f.length) 0
  ethSent (emit d .ethSend [g] (f ++ leBytes 4 (crc32 f))) g 1

/-- An ARP packet. -/
def arpPacket (op : Nat) (mac ip toMac toIp : List Byte) : List Byte :=
  beBytes 2 1 ++ beBytes 2 0x0800 ++ [6, 4] ++ beBytes 2 op ++ mac ++ ip ++ toMac ++ toIp

/-- An IPv4 packet with DF set (R234); its time to live is the device's choice. -/
def ipv4Packet (d : Dev) (proto : Nat) (src dst body : List Byte) : List Byte :=
  let head (sum : Nat) : List Byte :=
    [0x45, 0] ++ beBytes 2 (20 + body.length) ++ beBytes 2 0 ++ beBytes 2 0x4000
      ++ beBytes 1 (Config.openValue d.epoch 0xE0000000 % 256) ++ beBytes 1 proto ++ beBytes 2 sum ++ src ++ dst
  head (inetCheck (head 0)) ++ body

/-- An ICMPv6 packet with its checksum. -/
def icmp6Packet (hops : Nat) (src dst : List Byte) (ty : Nat) (rest : List Byte) : List Byte :=
  let len := 4 + rest.length
  let sum := inetCheck (src ++ dst ++ beBytes 4 len ++ beBytes 4 58 ++ beBytes 2 (ty * 256) ++ beBytes 2 0 ++ rest)
  beBytes 4 0x60000000 ++ beBytes 2 len ++ [58] ++ beBytes 1 hops ++ src ++ dst ++ beBytes 2 (ty * 256) ++ beBytes 2 sum ++ rest

/-- A neighbour advertisement. -/
def advertise (mac src dst target : List Byte) (flags : Nat) : List Byte :=
  icmp6Packet 255 src dst 136 (beBytes 4 (flags * pow2 28) ++ target ++ [2, 1] ++ mac)

/-! ## DHCPv4 and SLAAC (R234, R348)

Messages are those of RFC 2131 and RFC 4862; when a client asks again, the spec does not say, and it does not (log entry 104). -/

/-- A DHCPv4 message of the client in its UDP datagram. -/
def dhcpDatagram (d : Dev) (g xid : Nat) (options : List Byte) : List Byte :=
  let msg := [1, 1, 6, 0] ++ beBytes 4 xid ++ beBytes 4 0x8000 ++ List.replicate 16 0 ++ portMac d g ++ List.replicate 202 0
    ++ beBytes 4 0x63825363 ++ options ++ [255]
  beBytes 2 68 ++ beBytes 2 67 ++ beBytes 2 (8 + msg.length) ++ beBytes 2 0 ++ msg

/-- The client broadcasts a message. -/
def sendDhcp (d : Dev) (g xid : Nat) (options : List Byte) : Dev :=
  let d := bumpEpoch d
  sendEther d g (List.replicate 6 0xFF) 0x0800
    (ipv4Packet d 17 (List.replicate 4 0) (List.replicate 4 0xFF) (dhcpDatagram d g xid options))

/-- Stores what a port has learnt. -/
def setNet (d : Dev) (g : Nat) (n : PortNet) : Dev := { d with nets := mset d.nets g n }

/-- The interface identifier of a port: its MAC address as an EUI-64. -/
def portEui (d : Dev) (g : Nat) : List Byte :=
  let m := portMac d g
  (m.take 1).map (· ^^^ 2) ++ (m.drop 1).take 2 ++ [0xFF, 0xFE] ++ m.drop 3

/-- The link-local address of a port. -/
def linkLocal (d : Dev) (g : Nat) : List Byte := [0xFE, 0x80] ++ List.replicate 6 0 ++ portEui d g

/-- An Ethernet port has come up: where its interface asks for it, its DHCPv4 client looks for a server, and SLAAC asks for routers. -/
def portUp (d : Dev) (g : Nat) : Dev :=
  let x := portIface d g
  let d := if x.dhcp4 then
      let d := bumpEpoch d
      let xid := Config.openValue d.epoch 0xE2000000 % pow2 32
      sendDhcp (setNet d g { portNet d g with stage := 1, xid }) g xid [53, 1, 1]
    else d
  if x.slaac then
    let me := linkLocal d g
    let all := [0xFF, 2] ++ List.replicate 13 0 ++ [2]
    sendEther (setNet d g { portNet d g with slaac := ((portNet d g).slaac ++ [me]).eraseDups }) g [0x33, 0x33, 0, 0, 0, 2] 0x86DD
      (icmp6Packet 255 me all 133 (beBytes 4 0 ++ [1, 1] ++ portMac d g))
  else d

/-- A DHCPv4 option's value. -/
def dhcpOption (code : Nat) : Nat → List Byte → Option (List Byte)
  | 0, _ => none
  | n + 1, o =>
    match o with
    | [] => none
    | k :: r =>
      if k = 0 then dhcpOption code n r
      else if k = 255 then none
      else
        let len := (r.headD 0).toNat
        if k.toNat = code then some ((r.drop 1).take len) else dhcpOption code n (r.drop (1 + len))

/-- A DHCPv4 message arrives at the client: an offer is asked for, an acknowledgement gives the lease, and a refusal starts over. -/
def dhcpArrives (d : Dev) (g : Nat) (m : List Byte) : Dev :=
  let n := portNet d g
  let opt (c : Nat) : Option (List Byte) := dhcpOption c 312 (m.drop 240)
  let addr := (m.drop 16).take 4
  if beAt m 0 1 ≠ 2 ∨ beAt m 4 4 ≠ n.xid ∨ (m.drop 28).take 6 ≠ portMac d g ∨ beAt m 236 4 ≠ 0x63825363 then d
  else match n.stage, opt 53 with
    | 1, some [2] =>
      sendDhcp (setNet d g { n with stage := 2 }) g n.xid
        ([53, 1, 3, 50, 4] ++ addr ++ match opt 54 with
          | some s => [54, 4] ++ s.take 4
          | none => [])
    | 2, some [5] =>
      let mask := beNat ((opt 1).getD [255, 255, 255, 0])
      setNet d g { n with stage := 0, gw := (opt 3).map (List.take 4),
                          lease := some (((List.range 32).filter (bit mask)).length, addr) }
    | 2, some [6] => sendDhcp (setNet d g { n with stage := 1, lease := none }) g n.xid [53, 1, 1]
    | _, _ => d

/-- The prefixes of 64 bits that a router advertisement offers for SLAAC. -/
def slaacPrefixes : Nat → List Byte → List (List Byte)
  | 0, _ => []
  | n + 1, o =>
    let len := (o.getD 1 0).toNat * 8
    if len = 0 then []
    else
      (if beAt o 0 1 = 3 && beAt o 2 1 = 64 && bit (beAt o 3 1) 6 then [(o.drop 16).take 8] else [])
        ++ slaacPrefixes n (o.drop len)

/-- A router advertisement arrives: SLAAC forms an address of each prefix. -/
def routerHeard (d : Dev) (g : Nat) (body : List Byte) : Dev :=
  if !(portIface d g).slaac then d
  else
    let new := (slaacPrefixes body.length (body.drop 16)).map fun p => p ++ portEui d g
    setNet d g { portNet d g with slaac := ((portNet d g).slaac ++ new).eraseDups }

/-! ## Peer delay (R233)

The device answers in two steps, of the two ways that it supports (DESIGN CHOICE, log entry 104). -/

/-- A time as IEEE 1588 writes it: seconds and nanoseconds. -/
def ptpTime (ns : Nat) : List Byte := beBytes 6 (ns / 1000000000 % pow2 48) ++ beBytes 4 (ns % 1000000000)

/-- The port identity of an aqueduct: its MAC address as an EUI-64, port 1. -/
def portIdentity (d : Dev) (g : Nat) : List Byte := portEui d g ++ beBytes 2 1

/-- A peer delay message of a type that answers a request, with flags and a time. -/
def peerDelayMsg (d : Dev) (g ty flags : Nat) (req : List Byte) (ns : Nat) : List Byte :=
  beBytes 1 (beAt req 0 1 / 16 * 16 + ty) ++ (req.drop 1).take 1 ++ beBytes 2 54 ++ (req.drop 4).take 1 ++ [0] ++ beBytes 2 flags
    ++ (if ty = 3 then List.replicate 8 0 else (req.drop 8).take 8) ++ List.replicate 4 0 ++ portIdentity d g
    ++ (req.drop 30).take 2 ++ [5, 0x7F] ++ ptpTime ns ++ (req.drop 20).take 10

/-- A peer delay request that came at a time is answered by what `send` sends: the time of its receipt, then the time at which that
answer was sent, each as the port's time stamps have it. -/
def answerPeerDelay (d : Dev) (g rx : Nat) (req : List Byte) (send : Dev → List Byte → Dev) : Dev :=
  let d := bumpEpoch (send d (peerDelayMsg d g 3 0x0200 req rx))
  send d (peerDelayMsg d g 10 0 req (frameStamp d g))

/-! ## Answers (R234) -/

/-- The answer to an ARP request for an address that is served here. -/
def answerArp (d : Dev) (g : Nat) (p : List Byte) : Dev :=
  let ip := (p.drop 24).take 4
  let mac := (p.drop 8).take 6
  if beAt p 6 2 = 1 && (servedAddrs d g false).contains ip then
    sendEther d g mac 0x0806 (arpPacket 2 (portMac d g) ip mac ((p.drop 14).take 4))
  else d

/-- The answer to an ICMP echo request. -/
def answerIpv4 (d : Dev) (g : Nat) (mac p : List Byte) : Dev :=
  let dst := (p.drop 16).take 4
  let body := (p.take (beAt p 2 2)).drop 20
  if beAt p 9 1 = 1 && beAt body 0 2 = 0x0800 && inetCheck (p.take 20) = 0 && inetCheck body = 0
      && (servedAddrs d g false).contains dst then
    let rest := body.drop 4
    let d := bumpEpoch d
    sendEther d g mac 0x0800 (ipv4Packet d 1 dst ((p.drop 12).take 4) (beBytes 2 0 ++ beBytes 2 (inetCheck (beBytes 2 0 ++ rest)) ++ rest))
  else d

/-- The answers to an ICMPv6 echo request and a neighbour solicitation. -/
def answerIpv6 (d : Dev) (g : Nat) (mac p : List Byte) : Dev :=
  let src := (p.drop 8).take 16
  let dst := (p.drop 24).take 16
  let n := beAt p 4 2
  let body := (p.drop 40).take n
  let target := (body.drop 8).take 16
  if beAt p 6 1 ≠ 58 ∨ inetCheck (src ++ dst ++ beBytes 4 n ++ beBytes 4 58 ++ body) ≠ 0 then d
  else if beAt body 0 2 = 0x8000 && (servedAddrs d g true).contains dst then
    let d := bumpEpoch d
    sendEther d g mac 0x86DD (icmp6Packet (Config.openValue d.epoch 0xE0000000 % 256) dst src 129 (body.drop 4))
  else if beAt body 0 2 = 0x8700 && beAt p 7 1 = 255 && (servedAddrs d g true).contains target then
    sendEther d g mac 0x86DD (advertise (portMac d g) target src target 6)
  else if beAt body 0 2 = 0x8600 && beAt p 7 1 = 255 then routerHeard d g body
  else d

/-- A UDP datagram for the device: to its DHCPv4 client, or a peer delay request, which is answered to its sender. `rx` is the
time stamp of its receipt. -/
def answerUdp (d : Dev) (g rx : Nat) (mac p : List Byte) (v6 : Bool) : Dev :=
  let body := p.drop (if v6 then 40 else 20)
  let msg := (body.drop 8).take (beAt body 4 2 - 8)
  let src := (p.drop (if v6 then 8 else 12)).take (if v6 then 16 else 4)
  let port := beAt body 2 2
  if !v6 && port = 68 then dhcpArrives d g msg
  else if port = 319 && beAt msg 0 1 % 16 = 2 then
    match (servedAddrs d g v6).head? with
    | none => d
    | some me => answerPeerDelay d g rx msg fun d m =>
        let dst := if beAt m 0 1 % 16 = 3 then 319 else 320
        let udp (sum : Nat) : List Byte := beBytes 2 dst ++ beBytes 2 dst ++ beBytes 2 (8 + m.length) ++ beBytes 2 sum ++ m
        let d := bumpEpoch d
        if v6 then
          let sum := inetCheck (me ++ src ++ beBytes 4 (8 + m.length) ++ beBytes 4 17 ++ udp 0)
          sendEther d g mac 0x86DD (beBytes 4 0x60000000 ++ beBytes 2 (8 + m.length)
            ++ [17] ++ beBytes 1 (Config.openValue d.epoch 0xE0000000 % 256) ++ me ++ src ++ udp (if sum = 0 then 65535 else sum))
        else sendEther d g mac 0x0800 (ipv4Packet d 17 me src (udp 0))
  else d

/-- The ticks for which a PFC frame pauses priority 3 (R231): quanta of 512 bit times at the port's rate. -/
def pauseTicks (d : Dev) (g quanta : Nat) : Nat :=
  (quanta * (if flag d (aqdReg R.AQD_STATUS g) F.AQD_STATUS_HALF then 2 else 1) + 4) / 5

/-- A PFC frame for priority 3 pauses it, or with time 0 lets it go on. -/
def pausePriority (d : Dev) (g : Nat) (p : List Byte) : Dev :=
  if bit (beAt p 2 2) 3 then setAqd d g { aqd d g with pause := d.tally + pauseTicks d g (beAt p 10 2) } else d

/-- What the port answers to a frame that it has taken at a time. -/
def answerFrame (d : Dev) (g rx : Nat) (f : List Byte) : Dev :=
  let f := f.take (f.length - 4)
  let mac := (f.drop 6).take 6
  let f := if beAt f 12 2 = 0x8100 then f.drop 16 else f.drop 12
  let p := f.drop 2
  match beAt f 0 2 with
  | 0x0806 => answerArp d g p
  | 0x0800 => if beAt p 9 1 = 17 then answerUdp d g rx mac p false else answerIpv4 d g mac p
  | 0x86DD => if beAt p 6 1 = 17 then answerUdp d g rx mac p true else answerIpv6 d g mac p
  | 0x88F7 =>
    if beAt p 0 1 % 16 = 2 then answerPeerDelay d g rx p fun d m => sendEther d g mac 0x88F7 m else d
  | 0x8808 => pausePriority d g p
  | _ => d

/-- An Ethernet frame is received: counted, stamped, passed on (R231, R233, R234) and where it asks for it answered. -/
def netFrameRx (d : Dev) (g : Nat) (f : List Byte) : Dev :=
  let taken := flag d (aqdReg R.AQD_STATUS g) F.AQD_STATUS_UP && ethernet d g && frameGood f
    && frameClass (portVlan d g) f != .unsupported
  let d := ethFrameRx d g f
  if taken then answerFrame d g (frameStamp d g) f else d

/-! ## Connections (R232, R304) -/

/-- An aqueduct has gone down as an Ethernet port. -/
def portGone (d : Dev) (g : Nat) : Bool := !ethernet d g || (aqd d g).down || trainState d g = 0

/-- Another aqueduct that is UP on the same VLAN. -/
def otherPort (d : Dev) (g : Nat) : Option Nat :=
  (List.range 64).find? fun h => h != g && aqdEthernetUp d h && portVlan d h = portVlan d g

/-- A connection after its port's addresses have moved. -/
def Conn.moved (g h : Nat) : Conn → Conn
  | .http a c s => .http (if a = g then h else a) c s
  | c => c

/-- A connection by an aqueduct. -/
def Conn.by_ (g : Nat) : Conn → Bool
  | .http a _ _ => a == g
  | _ => false

/-- Addresses are announced at their new place: a gratuitous ARP, or an unsolicited neighbour advertisement. -/
def announce (d : Dev) (g h : Nat) : Dev :=
  let d := (servedAddrs d g false).foldl (fun d ip =>
    sendEther d h (List.replicate 6 0xFF) 0x0806 (arpPacket 1 (portMac d h) ip (List.replicate 6 0) ip)) d
  (servedAddrs d g true).foldl (fun d ip =>
    sendEther d h [0x33, 0x33, 0, 0, 0, 1] 0x86DD
      (advertise (portMac d h) ip ([0xFF, 2] ++ List.replicate 13 0 ++ [1]) ip 2)) d

/-- The connections and addresses of an aqueduct move to another. -/
def moveAddresses (d : Dev) (g h : Nat) : Dev :=
  let d := announce d g h
  let ports := (List.range 64).filter fun p => servedAt d p = g
  { d with srv := { d.srv with
      portsMoved := ports.foldl (fun m p => mset m p h) d.srv.portsMoved
      slots := d.srv.slots.map fun e => (e.1, { e.2 with conn := e.2.conn.moved g h, asked := e.2.asked.map (Conn.moved g h) }) } }

/-- The requests of an aqueduct that nothing stands in for move to another device between steps; where none serves the same
models, they end CANCELLED with CONN_LOST. -/
def leavePort (d : Dev) (g : Nat) : Dev :=
  d.srv.slots.foldl (fun d e =>
    if e.2.conn.by_ g && e.2.holderOf.isNone && e.2.state ≠ .ending && !inFlight d e.1 then
      match (twins d).head? with
      | some fa => moveSlot d fa e.1 e.2
      | none => endRequest d e.1 e.2 .cancelled { connLost := true }
    else d) d

/-- The aqueducts whose connections have a request. -/
def portsInUse (d : Dev) : List Nat :=
  (d.srv.slots.filterMap fun e =>
    match e.2.conn with
    | .http a _ _ => some a
    | _ => none).eraseDups

/-- The serving engine moves the connections of an aqueduct. -/
def movePort (d : Dev) (g : Nat) : Dev :=
  match otherPort d g with
  | some h => moveAddresses d g h
  | none => leavePort d g

/-- The serving engine moves the connections of aqueducts that have gone down. -/
def settlePorts (d : Dev) : Dev := ((portsInUse d).filter (portGone d)).foldl movePort d

end Sys2Proof.Machine
end

