-- ==== Sys2Proof/Machine/Continuity.lean ====
section
/-! DEFINITION. Machine/Continuity: the ledger, retirement, step replay, the standby, self-tests, live update and capacity
(R375 to R393). -/

namespace Sys2Proof.Machine

/-! ## Locations (R376) -/

/-- A location identifier's die. -/
def locDie (l : Nat) : Nat := bits l 0 6
/-- A location identifier's kind. -/
def locKind (l : Nat) : Nat := bits l 6 4
/-- A location identifier's index. -/
def locIndex (l : Nat) : Nat := bits l 10 19

/-- Its kind is not reserved, its die has it and its index is within the kind. -/
def locValid (l : Nat) : Bool :=
  let die := locDie l
  let i := locIndex l
  let c := decide (die < 48)
  let stack := decide (48 ≤ die ∧ die < 56)
  l < pow2 29 && match locKind l with
    | 0 => c && i < 768
    | 1 => c && i < 480
    | 2 => c && i < 24
    | 3 => stack && i < 49152
    | 4 => portPresent die (i / 64) && i < 256
    | 5 => c && i < 120 && bit (squareLinks (i / 5)) (i % 5)
    | 6 => 56 ≤ die && i < 64
    | 7 => c && i < 4
    | 8 => c && i == 0
    | 9 => c && i < 4
    | 10 => c && i == 0
    | 11 => stack && i == 0
    | 12 => 56 ≤ die && i == 0
    | _ => false

/-! ## The ledger (R377) -/

/-- 24 h in tally ticks. -/
def dayTicks : Nat := 54000000000000

/-- The latest stamp of an entry. -/
def LedgerEntry.latest (e : LedgerEntry) : Nat := e.stamps.getLastD 0

/-- A full ledger drops the entry whose latest stamp is oldest. -/
def dropOldest (d : Dev) : Dev :=
  if d.cont.ledger.length < 65536 then d
  else
    match d.cont.ledger.foldl (fun m e => match m with
        | some x => if e.latest < LedgerEntry.latest x then some e else some x
        | none => some e) none with
    | none => d
    | some o =>
      fcnt { d with cont := { d.cont with ledger := d.cont.ledger.filter fun e => e != o } } (srvReg R.SRV_REPLAY_CNT)
        F.SRV_REPLAY_CNT_LEDGER_DROP 1

/-- A location is permanently faulty, and awaits a decision. -/
def permanent (d : Dev) (l : Nat) : Dev :=
  if d.cont.retired.contains l || d.cont.pending.contains l || d.cont.due.contains l then d
  else { d with cont := { d.cont with due := d.cont.due ++ [l] } }

/-- One detected error enters the ledger: the third within 24 h of the first of the three makes the location permanently
faulty; every other is transient. -/
def ledgerError (d : Dev) (e : Nat × Nat) : Dev :=
  let l := e.1
  match d.cont.ledger.find? fun x => x.loc == l with
  | none =>
    let d := dropOldest d
    fcnt { d with cont := { d.cont with ledger := d.cont.ledger ++ [{ loc := l, stamps := [e.2], retired := false }] } }
      (srvReg R.SRV_FLT_CNT) F.SRV_FLT_CNT_TRANSIENT 1
  | some x =>
    let s := (x.stamps ++ [e.2]).drop (x.stamps.length + 1 - 3)
    let d := { d with cont := { d.cont with ledger := d.cont.ledger.map fun y => if y.loc = l then { x with stamps := s } else y } }
    if s.length = 3 && e.2 - s.headD 0 ≤ dayTicks then permanent d l
    else fcnt d (srvReg R.SRV_FLT_CNT) F.SRV_FLT_CNT_TRANSIENT 1

/-- Firmware collects the detected errors (R375). -/
def collect (d : Dev) : Dev := d.errors.foldl ledgerError { d with errors := [] }

/-! ## Capacity (R392, R393) -/

/-- Set bits of a number below a width. -/
def bitCount (x w : Nat) : Nat := ((List.range w).filter (bit x)).length

/-- Retired locations of a kind. -/
def retiredOf (d : Dev) (k : Nat) : Nat := (d.cont.retired.filter fun l => locKind l == k).length

/-- What is retired, by category: blocks, sub-banks, well banks, pages, aqueduct lanes, bridge lane directions, street
links, cores; with the total of each. -/
def retiredCounts (d : Dev) : List (Nat × Nat) :=
  let sum (l : List Nat) : Nat := l.sum
  [(sum (computeDies.map fun die => bitCount (rd d (ctl R.DIE_BLOCK_RET die 0)).toNat 24), 1152),
   (retiredOf d 0, 36864), (retiredOf d 1, 23040),
   (sum ((List.range 8).map fun s => fget d (ctl R.RSV_STATUS (48 + s) 0) F.RSV_STATUS_RETIRED), 393216),
   (sum ((List.range 64).map fun g => laneCount (lanesOut d g)), 512),
   (2 * retiredOf d 4, 13568), (retiredOf d 5, 2208),
   (sum (computeDies.map fun die => ((List.range 4).filter (coreRetired d die)).length), 192)]

/-- Capacity is recomputed. -/
def recompute (d : Dev) : Dev :=
  let l := retiredCounts d
  let pct := l.map fun c => 100 * (c.2 - c.1) / c.2
  let low := pct.foldl min 100
  let code := (pct.findIdx? (· == low)).getD 0
  let n (i : Nat) : Nat := (l.getD i (0, 1)).1
  let d := fsets d (srvReg R.SRV_CAP_STATUS)
    [(F.SRV_CAP_STATUS_CAPACITY, low), (F.SRV_CAP_STATUS_LIMIT, code),
     (F.SRV_CAP_STATUS_ALARM, b2n (low < min 100 (fget d (srvReg R.SRV_CAP_ALARM) F.SRV_CAP_ALARM_PCT)))]
  let d := fsets d (srvReg R.SRV_CAP_RET_A) [(F.SRV_CAP_RET_A_BLOCKS, n 0), (F.SRV_CAP_RET_A_SUBBANKS, n 1)]
  let d := fsets d (srvReg R.SRV_CAP_RET_B) [(F.SRV_CAP_RET_B_WELL_BANKS, n 2), (F.SRV_CAP_RET_B_CORES, n 7)]
  let d := fsets d (srvReg R.SRV_CAP_RET_C) [(F.SRV_CAP_RET_C_PAGES, n 3), (F.SRV_CAP_RET_C_AQD_LANES, n 4)]
  fsets d (srvReg R.SRV_CAP_RET_D) [(F.SRV_CAP_RET_D_BRIDGE_LANES, n 5), (F.SRV_CAP_RET_D_STREET_LINKS, n 6)]

/-! ## Retirement (R381 to R385) -/

/-- A unit finds no home (R385): the models' load states fail, and their requests move to a device of the same slice and
epoch, or end FAULT. -/
def modelsFail (d : Dev) : Dev :=
  d.srv.models.foldl (fun d e =>
    if e.2.active.isNone then d
    else
      let d := setLoad d e.1 4
      d.srv.slots.foldl (fun d s =>
        if s.2.model = e.1 && s.2.holderOf.isNone && s.2.state ≠ .ending then
          match (twins d).head? with
          | some fa => moveSlot d fa s.1 s.2
          | none => endRequest d s.1 s.2 .fault
        else d) d) d

/-- The unit of a slot leaves its block: for another, for the stream tier, or its models fail (R382, R385). -/
def leaveBlock (d : Dev) (die b s : Nat) : Dev :=
  match rehome d die b s with
  | some (t, base) => moveUnit d die b s t base
  | none => (streamTier d die b s).getD (modelsFail d)

/-- A cistern sub-bank retires (R382): its unit takes headroom of the same block, or leaves it; the sub-bank is powered
down. -/
def retireSub (d : Dev) (die b sub : Nat) : Dev :=
  let d := (List.range 4).foldl (fun d s =>
    if !slotValid d die b s then d
    else
      let u := unitCtx d die b s
      if !(segSubs u.base.cis u.hdr.cisLines).contains sub then d
      else
        let x := usedBut d die b 4
        let used := x.cis.map fun r => (r.1 / 4096 * 4096, (r.1 + r.2 + 4095) / 4096 * 4096 - r.1 / 4096 * 4096)
        match firstFit used 131072 u.hdr.cisLines 4096 u.base.cis with
        | some new =>
          let d := moveSubs d die b b u.base.cis new u.hdr.cisLines (usedBut d die b s).cis
          let d := wr d (ctl (R.SEQ_US_CIS + 0x20 * s) die b) (BitVec.ofNat 32 new)
          (segSubs u.base.cis u.hdr.cisLines).foldl (fun d k =>
            if (usedBut d die b 4).cis.any fun r => overlaps r (k * 4096, 4096) then d
            else bankPowerDown d die b (.sub (Fin.ofNat 32 k))) d
        | none => leaveBlock d die b s) d
  bankPowerDown d die b (.sub (Fin.ofNat 32 sub))

/-- A well bank retires: a unit whose rows lie in it moves them to a run that avoids it, or leaves the block; the bank is
off. -/
def retireBank (d : Dev) (die b bank : Nat) : Dev :=
  let narrow := decide (12 ≤ bank)
  let range := if narrow then ((bank - 12) * 4096, 4096) else (bank * 512, 512)
  let d := (List.range 4).foldl (fun d s =>
    if !slotValid d die b s then d
    else
      let u := unitCtx d die b s
      let old := if narrow then u.base.narrow else u.base.wide
      let n := if narrow then u.hdr.narrowRows else u.hdr.wideRows
      if !overlaps (old, n) range then d
      else
        let x := usedBut d die b 4
        match firstFit (if narrow then x.narrow else x.wide) (if narrow then 32768 else 6144) n 1 0 with
        | some new =>
          let d := moveRows d die b b narrow old new n
          if narrow then wr d (ctl (R.SEQ_US_NARROW + 0x20 * s) die b) (BitVec.ofNat 32 new)
          else setRegs (wr d (ctl (R.SEQ_US_WIDE + 0x20 * s) die b) (BitVec.ofNat 32 new)) (homeRegs die u.hdr b new)
        | none => leaveBlock d die b s) d
  bankPowerDown d die b (if narrow then .narrow (Fin.ofNat 8 (bank - 12)) else .wide (Fin.ofNat 12 bank))

/-- A block retires: its units leave in ascending order of home block and index, and DIE_BLOCK_RET keeps it from starting
any. -/
def retireBlock (d : Dev) (die b : Nat) : Dev :=
  let key (s : Nat) : Nat := let h := (unitCtx d die b s).hdr
                             h.home * 4 + h.index
  let slots := ((List.range 4).filter (slotValid d die b)).mergeSort fun x y => key x ≤ key y
  let r := ctl R.DIE_BLOCK_RET die 0
  let d := wr d r (rd d r ||| BitVec.ofNat 32 (pow2 b))
  slots.foldl (fun d s => leaveBlock d die b s) d

/-- A page whose read failed waits for what restores it, or does no longer. -/
def setLost (d : Dev) (p : Nat) (lost : Bool) : Dev :=
  let l := d.srv.lostPages.filter fun x => x != p
  { d with srv := { d.srv with lostPages := if lost then l ++ [p] else l } }

/-- A page that bears KV of a request goes to a fresh page, with the KV that the serving engine recomputes from the request's
tokens: the bytes that the page held (R64, R204). Until a page is free it waits. -/
def freshKv (d : Dev) (p : Nat) : Dev :=
  if !d.srv.slots.any fun e => (e.2.kv ++ e.2.spill).contains p then d
  else match freeRun d 1 with
    | none => setLost d p true
    | some q =>
      let swap (l : List Nat) : List Nat := l.map fun x => if x = p then q else x
      let d := putRsv (takePages d [q] 4 true true) (q * 2097152) (rsvRead d (p * 2097152) 2097152)
      setPage { d with srv := { d.srv with slots := d.srv.slots.map fun e =>
        (e.1, { e.2 with kv := swap e.2.kv, spill := swap e.2.spill }) } } p 0 0 false

/-- Conversations whose KV lies on a page lose it: they are rebuilt by prefill (R204). -/
def loseConv (d : Dev) (p : Nat) : Dev :=
  let hit := d.srv.convs.filter fun c => c.pages.contains p
  hit.foldl (fun d c =>
    setConv (freePageList (freePageList d (c.pages.filter fun x => x != p)) c.source) c
      { c with lost := true, landed := true, pages := [], source := [], stack := none }) d

/-- What restores a page at a step boundary (R204): KV is recomputed, a conversation's is given up, Town Hall data is firmware's
own, and a stream image that firmware built is built again from the ground copy, bit for bit what it was (R206); GROUND, STREAM
and DATA pages of an epoch wait for their repair (R283). -/
def restoreLost (d : Dev) : Dev :=
  d.srv.lostPages.foldl (fun d p =>
    let k := entryKind (pageEntry d p)
    if 1 ≤ k && k ≤ 3 then if k = 2 && (epochUsing d (rsvPage p)).isNone then setLost d p false else d
    else
      let d := setLost d p false
      if k = 4 then freshKv d p else if k = 5 then freePage (loseConv d p) p else d) d

/-- Between steps, repairs and pages that wait for what restores them are tried again. -/
def retryLost (d : Dev) : Dev :=
  if !atBoundary d then d
  else
    let d := if d.srv.repairWait.isEmpty then d else runRepairs d
    if d.srv.lostPages.isEmpty then d else restoreLost d

/-- A reservoir page retires: a ground pair moves to fresh pages while it can be read; the page is withdrawn. -/
def retirePage (d : Dev) (p : Nat) : Dev :=
  let e := pageEntry d p
  let d := loseConv (freshKv d p) p
  let d := { d with srv := { d.srv with dirPages := d.srv.dirPages.map fun x => (x.1, x.2.filter fun q => q != p) } }
  let d :=
    if entryKind e ≠ 1 then
      if (epochUsing d (rsvPage p)).isSome then { d with srv := { d.srv with badPages := (d.srv.badPages ++ [rsvPage p]).eraseDups } }
      else if entryKind e = 2 then
        match freeRun d 1 with
        | none => d
        | some q => putRsv (setPage d q 2 0 true) (q * 2097152) (rsvRead d (p * 2097152) 2097152)
      else d
    else
      match (computeDies.flatMap fun die => dieBlocks.flatMap fun b => (List.range 32).map fun s =>
          ctl (R.CIS_GROUND + 4 * s) die b).find? fun a =>
            flag d a F.CIS_GROUND_VALID && (fget d a F.CIS_GROUND_PAGE == p || fget d a F.CIS_GROUND_PAGE + 1 == p) with
      | none => d
      | some a =>
        let old := fget d a F.CIS_GROUND_PAGE
        match freeRun d 2 with
        | none => d
        | some q =>
          let d := setPage (setPage d q 1 (pageRefs d old) false) (q + 1) 1 (pageRefs d (old + 1)) false
          let d := putRsv d (q * 2097152) (rsvRead d (old * 2097152) 4194304)
          let d := fset d a F.CIS_GROUND_PAGE q
          setPage d (if old = p then p + 1 else old) 0 0 false
  setPage d p 7 0 false

/-- The two ends of a street link. -/
def streetEnds (i : Nat) : List (Nat × Nat) :=
  let b := i / 5
  match i % 5 with
  | 1 => [(b, 1), (b + 1, 3)]
  | 2 => [(b, 2), (b + 6, 0)]
  | k => [(b, k)]

/-- DIE_GATE_REHOME is written (R384): die control serves the gates of the lowest four blocks named, which start with count
0, threshold 0 and owner any. -/
def gateRehome (d : Dev) (die v : Nat) : Dev :=
  let r := ctl R.DIE_GATE_REHOME die 0
  let first (x : Nat) : List Nat := ((List.range 24).filter (bit x)).take 4
  let old := first (rd d r).toNat
  let fresh := (first v).filter fun b => !old.contains b
  let d := wr d r (BitVec.ofNat 32 (v % pow2 24))
  fresh.foldl (fun d b => (List.range 10).foldl (fun d i =>
    let g := 10 * b + i
    let d := setWaiters d die g []
    wr (wr (wr d (gateReg R.GAT_COUNT die g) 0) (gateReg R.GAT_THRESH die g) 0) (gateReg R.GAT_CTRL die g) 0) d) d

/-- A street link retires at both ends; a block all of whose links are retired is isolated (R384): it retires, and die
control serves its gates; a fifth such block fails the models (R385). -/
def retireLink (d : Dev) (die i : Nat) : Dev :=
  (streetEnds i).foldl (fun d e =>
    let r := ctl R.SQR_RETIRE die e.1
    let links := fget d r F.SQR_RETIRE_LINKS
    let d := fset d r F.SQR_RETIRE_LINKS (setBits links e.2 1 1)
    let now := fget d r F.SQR_RETIRE_LINKS
    let d := fset d (ctl R.SQR_STATUS die e.1) F.SQR_STATUS_RETIRED now
    if now &&& squareLinks e.1 ≠ squareLinks e.1 then d
    else
      let d := retireBlock d die e.1
      let v := (rd d (ctl R.DIE_GATE_REHOME die 0)).toNat
      if 4 ≤ bitCount v 24 then modelsFail d else gateRehome d die (setBits v e.1 1 1)) d

/-- A Town Hall core retires: it is held, and its mailboxes go to another core. -/
def retireCore (d : Dev) (die c : Nat) : Dev :=
  let d := fset (fset d (ctl R.HAL_CORE_CTRL die c) F.HAL_CORE_CTRL_HOLD 1) (ctl R.HAL_CORE_STATUS die c) F.HAL_CORE_STATUS_RETIRED 1
  match (List.range 4).find? fun k => !coreRetired d die k with
  | none => d
  | some k => (List.range 64).foldl (fun d m =>
      let r := mbxReg R.MBX_CTRL die m
      if fget d r F.MBX_CTRL_CORE = c then fset d r F.MBX_CTRL_CORE k else d) d

/-- A Town Hall retires: its four cores. -/
def retireHall (d : Dev) (die : Nat) : Dev := [0, 1, 2, 3].foldl (fun d c => retireCore d die c) d

/-- A die chosen as standby: the lowest whose Town Hall serves and that does not coordinate. -/
def chooseStandby (d : Dev) : Option Nat := computeDies.find? fun die => die != d.coord && !hallRetired d die

/-- Coordination moves to a die: HAL_COORD on every compute die, and a new standby (R386). -/
def handOver (d : Dev) (dest : Nat) : Dev :=
  let d := computeDies.foldl (fun d die => fset d (ctl R.HAL_COORD die 4) F.HAL_COORD_DIE dest) { d with coord := dest }
  { d with cont := { d.cont with standby := chooseStandby d, heartbeats := d.tally } }

/-- The blocks of a district (R13). -/
def districtBlocks (n : Nat) : List Nat := dieBlocks.filter fun b => b / 12 * 2 + b % 6 / 3 = n

/-- The unit at a location retires. -/
def retireAt (d : Dev) (l : Nat) : Dev :=
  let die := locDie l
  let i := locIndex l
  let d := { d with cont := { d.cont with retired := d.cont.retired ++ [l] } }
  let d := match locKind l with
    | 0 => retireSub d die (i / 32) (i % 32)
    | 1 => retireBank d die (i / 20) (i % 20)
    | 2 => retireBlock d die i
    | 3 => retirePage d (i * 8 + (die - 48))
    | 4 => retireLane d die (i / 64) (i % 64)
    | 5 => retireLink d die i
    | 6 => laneRetireReq (bumpEpoch d) ((die - 56) * 8 + i / 8) (pow2 (i % 8))
    | 7 => retireCore d die i
    | 8 => retireHall d die
    | 9 => (districtBlocks i).foldl (fun d b => retireBlock d die b) d
    | 10 => retireHall (dieBlocks.foldl (fun d b => retireBlock d die b) d) die
    | 11 =>
      let d := (List.range 49152).foldl (fun d lp => setPage d (lp * 8 + (die - 48)) 7 0 false) d
      fset d (ctl R.RSV_STATUS die 0) F.RSV_STATUS_READY 0
    | _ =>
      (List.range 8).foldl (fun d k =>
        let g := (die - 56) * 8 + k
        let c := aqdReg R.AQD_CTRL g
        let d := writeShadow d c (BitVec.ofNat 32 (setBits (shadowOf d c).toNat 0 1 0))
        aqueductCtrlApply (fset d (aqdReg R.AQD_APPLY g) F.AQD_APPLY_APPLY 1) g) d
  recompute d

/-- Kinds whose retirement waits for a step boundary (R381). -/
def atStepBoundary (l : Nat) : Bool := [0, 1, 2, 5, 9, 10].contains (locKind l)

/-- Retirements decided before a step boundary are applied there together, in ascending order. -/
def applyPending (d : Dev) : Dev :=
  if !atBoundary d then d
  else
    let l := d.cont.pending.mergeSort (· ≤ ·)
    l.foldl retireAt { d with cont := { d.cont with pending := [] } }

/-- A decision is reported as a HEALTH message to mailbox 63 of die 0 (R378). -/
def healthMessage (d : Dev) (l : Nat) : Dev :=
  let bytes := leBytes 1 0x10 ++ leBytes 1 (fget d (srvReg R.SRV_CAP_STATUS) F.SRV_CAP_STATUS_CAPACITY) ++ leBytes 2 0
    ++ leBytes 4 l ++ leBytes 8 d.tally ++ List.replicate 48 0
  let x := freshXid d
  mbxDeliver (emit x.1 .healthMsg [l, d.tally] bytes) 0 63 (coreStamp d d.coord 0 .machine) x.2 bytes

/-- Firmware decides the retirement of the location that has been permanently faulty longest. -/
def retirementDecision (d : Dev) : Dev :=
  let d := collect d
  match d.cont.due with
  | [] => d
  | l :: rest =>
    let d := { d with cont := { d.cont with due := rest,
                                            ledger := d.cont.ledger.map fun e => if e.loc = l then { e with retired := true } else e } }
    let d := fcnt d (srvReg R.SRV_FLT_CNT) F.SRV_FLT_CNT_PERMANENT 1
    let d := if atStepBoundary l then applyPending { d with cont := { d.cont with pending := d.cont.pending ++ [l] } }
      else retireAt d l
    healthMessage d l

/-- A RETIRE message names a location as permanently faulty (R378). -/
def retireMsg (d : Dev) (stamp : BitVec 32) (msg : List Byte) : Dev :=
  let l := numAt msg 4 4
  if !privileged stamp || numAt msg 0 1 ≠ 4 || !locValid l then d else permanent d l

/-! ## Steps that end (R192, R193, R379) -/

/-- The loads that waited for the step boundary take place, in the order they started (R162). -/
def runLoads (d : Dev) : Dev := d.step.loads.foldl runLoad { d with step := { d.step with loads := [] } }

/-- What firmware does at a step boundary: errors are collected, retirements apply, slots are swept, programs load. -/
def stepBoundary (d : Dev) : Dev := runLoads (settleModels (settlePorts (settleHolders (settleDirectory (restoreLost (applyPending (runRepairs (collect d))))))))

/-- An abort ends, and what follows from it is done. -/
def abortEnds (d : Dev) : Dev :=
  let e := abortEnd d
  if e.step.aborted && !d.step.aborted then stepBoundary (abortConsequences e) else e

/-- The step completes. -/
def stepCompletes (d : Dev) : Dev :=
  let e := stepComplete d
  if d.step.running && !e.step.running then stepBoundary e else e

/-- An abort reaches every sequencer; the other members of the groups whose step it is are told (R193). -/
def stepAborts (d : Dev) : Dev :=
  match d.step.abort with
  | .requested _ =>
    let d := stepAbort d
    d.groups.foldl (fun d g =>
      if !g.committed || !g.members.contains (ownFa d) || !stepOf d g.num then d
      else (g.members.filter fun m => m != ownFa d).foldl
        (fun d m => sendTo d m 0 .abortFrame [leaveBy d m, m, d.step.number, g.num]) d) d
  | _ => d

/-- The rows of a table and mask in narrow rows, for a copy from one to the other in every unit with a row area. -/
def copyRows (d : Dev) (t u : Nat) : Dev :=
  if t = u then d
  else d.blocks.foldl (fun d e =>
    let die := e.1 / 24
    let b := e.1 % 24
    (List.range 4).foldl (fun d s =>
      if !slotValid d die b s then d
      else
        let c := unitCtx d die b s
        if c.hdr.narrowRows < c.hdr.rowtab + 2064 then d
        else
          let at_ (r : Nat) : Nat := rowAddr true (c.base.narrow + c.hdr.rowtab + r)
          let table := wellRead d die b (at_ (1024 * t)) 65536
          let mask := wellRead d die b (at_ (2048 + 8 * t)) 512
          let x := blk d die b
          setBlk d die b { x with well := memWrite (memWrite x.well (at_ (1024 * u)) table) (at_ (2048 + 8 * u)) mask }) d) d

/-- An aborted step is replayed (R379), once what it could not read has been restored (R123, R204): retirements apply, gates are reset, and its row table and mask stand for the new
step number; selection records stay where its rows name them. -/
def stepReplay (d : Dev) : Dev :=
  match d.step.replayOf with
  | none => d
  | some m =>
    if !atBoundary d || !d.srv.lostPages.isEmpty then d
    else
      let d := resetProgramGates (applyPending (collect (rewriteRows d)))
      let d := copyRows d (m % 2) (d.step.number % 2)
      fcnt { d with step := { d.step with replayOf := none } } (srvReg R.SRV_REPLAY_CNT) F.SRV_REPLAY_CNT_REPLAYS 1

/-! ## The standby (R386) -/

/-- Every 100 µs the coordinator sends its heartbeat. -/
def heartbeat (d : Dev) : Dev :=
  match d.cont.standby with
  | some s =>
    if d.cont.heartbeats + usTicks 100 ≤ d.tally && !hallRetired d d.coord then
      emit { d with cont := { d.cont with heartbeats := d.tally } } .heartbeat [d.coord, s]
    else d
  | none => d

/-- The standby takes over where the coordinator's Town Hall is retired or three heartbeats in a row are missing: a step
that runs is aborted, class retry. -/
def takeover (d : Dev) : Dev :=
  match d.cont.standby with
  | some s =>
    if hallRetired d d.coord || d.cont.heartbeats + 3 * usTicks 100 ≤ d.tally then requestAbort (handOver d s) .abortRemote
    else d
  | none => d

/-! ## Self-tests (R387, R388) -/

/-- Ticks of a number of hours. -/
def hourTicks (h : Nat) : Nat := secTicks (3600 * h)

/-- TESTING follows. -/
def showTesting (d : Dev) : Dev := fset d (srvReg R.SRV_ST_STATUS) F.SRV_ST_STATUS_TESTING d.cont.testing.length

/-- The loaded program leaves what a run-time test needs in a block. -/
def leavesRoom (d : Dev) (die b : Nat) : Bool :=
  let x := usedBut d die b 4
  x.units < 4 && (x.wide.all fun r => !overlaps r (6080, 64)) && (x.narrow.all fun r => !overlaps r (32704, 64))
    && x.entry.all fun r => !overlaps r (1008, 16)

/-- A block's self-test interval expires: a run-time test begins, or is deferred. -/
def selftestInterval (d : Dev) (die b : Nat) : Dev :=
  let g := gblock die b
  let c := srvReg R.SRV_ST_CTRL
  if d.tally < mgetD d.cont.lastTest g 0 + hourTicks (max 1 (fget d c F.SRV_ST_CTRL_INTERVAL_H)) || blockRetired d die b
      || fget d c F.SRV_ST_CTRL_CONCURRENT ≤ d.cont.testing.length || d.cont.testing.any fun t => t.1 / 24 == die then d
  else if !leavesRoom d die b then fcnt d (srvReg R.SRV_ST_STATUS) F.SRV_ST_STATUS_DEFERRED 1
  else showTesting { d with cont := { d.cont with testing := d.cont.testing ++ [(g, 0)] } }

/-- A slice of a block's test has run: a mismatch makes the block permanently faulty; after 256 slices the test ends. -/
def selftestSlice (d : Dev) (die b : Nat) (pass : Bool) : Dev :=
  let g := gblock die b
  match d.cont.testing.find? fun t => t.1 == g with
  | none => d
  | some (_, n) =>
    let rest := d.cont.testing.filter fun t => t.1 != g
    let finished (d : Dev) : Dev :=
      showTesting { d with cont := { d.cont with testing := rest, lastTest := mset d.cont.lastTest g d.tally } }
    if !pass then permanent (finished d) (locId die 2 b)
    else if n + 1 = 256 then finished d
    else { d with cont := { d.cont with testing := rest ++ [(g, n + 1)] } }

/-- RSV_GO is written: up to 64 FREE pages are held and tested, and the device condenses. -/
def reservoirTest (d : Dev) : Dev :=
  let c := srvReg R.SRV_ST_CTRL
  if flag d c F.SRV_ST_CTRL_RSV_GO then d
  else
    let l := ((List.range pageCount).filter (pageFree d)).take 64
    condensingChange (fset { d with cont := { d.cont with testedPages := l } } c F.SRV_ST_CTRL_RSV_GO 1)

/-- The page test ends: what the pages hold is indeterminate, pages that failed are permanently faulty, and the pages are
released. -/
def reservoirTestDone (d : Dev) (bad : List Nat) : Dev :=
  let c := srvReg R.SRV_ST_CTRL
  if !flag d c F.SRV_ST_CTRL_RSV_GO then d
  else
    let l := d.cont.testedPages
    let d := bumpEpoch { d with rsv := l.foldl (fun m p => memForget m (p * 2097152) 2097152) d.rsv }
    let d := (l.filter bad.contains).foldl (fun d p => permanent d (locId (48 + p % 8) 3 (p / 8))) d
    condensingChange (fset { d with cont := { d.cont with testedPages := [] } } c F.SRV_ST_CTRL_RSV_GO 0)

/-! ## Live update (R389 to R391) -/

/-- The order in which dies are updated: ascending, with the coordinator's and the standby die last; retired Town Halls
have nothing to update. -/
def updateOrder (d : Dev) : List Nat :=
  let last := fun x => x == d.coord || d.cont.standby == some x
  ((computeDies.filter fun x => !last x) ++ computeDies.filter last).filter fun x => !hallRetired d x

/-- A model is unloaded. -/
def unloaded (d : Dev) : Bool := d.srv.models.all fun e => e.2.epochs.isEmpty

/-- The device is drained (R391). -/
def drainedDevice (d : Dev) : Bool :=
  !flag d (srvReg R.SRV_CTRL) F.SRV_CTRL_ADMIT && d.srv.slots.isEmpty && unloaded d

/-- PHASE of the update. -/
def updatePhase (d : Dev) (p : Nat) : Dev := fset d (srvReg R.SRV_UPD_STATUS) F.SRV_UPD_STATUS_PHASE p

/-- UPDATING and MIXED follow. -/
def showUpdate (d : Dev) : Dev :=
  let n := d.boot.updatedDies.length
  fsets d (srvReg R.SRV_CAP_STATUS)
    [(F.SRV_CAP_STATUS_UPDATING, b2n d.boot.newImage.isSome),
     (F.SRV_CAP_STATUS_MIXED, b2n (d.boot.newImage.isSome && 0 < n && !(updateOrder d).all d.boot.updatedDies.contains))]

/-- An image is supplied: it is verified, and where it fails, or is of another edition while the device is not drained,
nothing changes. -/
def updateImage (d : Dev) (bs : List Byte) : Dev :=
  if d.boot.newImage.isSome then d
  else
    match parseImage d bs with
    | some x =>
      if !x.sectionsOk || (x.edition ≠ edition d && !drainedDevice d) then updatePhase d 5
      else
        let d := { d with boot := { d.boot with newImage := some x, updatedDies := [], updatedHeads := [] } }
        let die := (updateOrder d).headD 0
        showUpdate (fset (updatePhase d 2) (srvReg R.SRV_UPD_STATUS) F.SRV_UPD_STATUS_DIE die)
    | none => updatePhase d 5

/-- The update is done: the new image is the device's, and a new edition is in force on every die. -/
def updateDone (d : Dev) (x : Image) : Dev :=
  let d := { d with boot := { d.boot with image := some x, newImage := none, updatedDies := [], updatedHeads := [] } }
  let d := (List.range 64).foldl (fun d die => fset d (ctl R.DIE_EDITION die 0) F.DIE_EDITION_EDITION x.edition) d
  showUpdate (updatePhase d 4)

/-- The next die or head takes the image, unless a retirement waits to be applied. A die whose copy fails twice keeps its
Town Hall retired. -/
def updateNext (d : Dev) (copyFails : Bool) : Dev :=
  match d.boot.newImage with
  | none => d
  | some x =>
    if !d.cont.pending.isEmpty || !d.cont.due.isEmpty then d
    else
      match (updateOrder d).find? fun die => !d.boot.updatedDies.contains die with
      | some die =>
        let d := if copyFails then retireHall d die else d
        let d := { d with boot := { d.boot with updatedDies := d.boot.updatedDies ++ [die] } }
        let d := if die = d.coord then
            match (d.boot.updatedDies.find? fun y => y != die && !hallRetired d y) with
            | some y => handOver d y
            | none => d
          else d
        let next := (updateOrder d).find? fun y => !d.boot.updatedDies.contains y
        showUpdate (recompute (match next with
          | some y => fset d (srvReg R.SRV_UPD_STATUS) F.SRV_UPD_STATUS_DIE y
          | none => updatePhase d 3))
      | none =>
        match (List.range 8).find? fun h => !d.boot.updatedHeads.contains h with
        | some h =>
          let d := { d with boot := { d.boot with updatedHeads := d.boot.updatedHeads ++ [h] } }
          let d := ((portsInUse d).filter fun g => g / 8 = h).foldl movePort d
          let d := (List.range 8).foldl (fun d k =>
            if flag d (aqdReg R.AQD_STATUS (h * 8 + k)) F.AQD_STATUS_UP then
              emit (emit d .isolated [h * 8 + k, 1]) .isolated [h * 8 + k, 0]
            else d) d
          if h = 7 then updateDone d x else d
        | none => updateDone d x

/-- A piece of a live update. -/
def liveUpdate (d : Dev) (u : UpdateInput) : Dev :=
  match u with
  | .image bs => updateImage d bs
  | .next f => updateNext d f

end Sys2Proof.Machine
end

