-- ==== Sys2Proof/Machine/Boot.lean ====
section
/-! DEFINITION. Machine/Boot: boot stages, the configuration record, images, identity and attestation (R342 to R355,
R402). Stages end with time: each within its bound, the spec says no more (log entry 10). -/

namespace Sys2Proof.Machine

/-- CFG_STATUS. -/
abbrev cfgStatus : Nat := ctl R.CFG_STATUS 0 0

/-- The boot stage. -/
def bootStage (d : Dev) : Nat := fget d cfgStatus F.CFG_STATUS_STAGE

/-- The bound of a stage in ms. -/
def stageBound : Nat → Nat
  | 1 => 2 | 2 => 25 | 3 => 10 | 4 => 160 | 5 => 5 | 6 => 200 | 7 => 45 | _ => 1

/-- A stage begins; it ends after a time within its bound. -/
def enterStage (d : Dev) (n : Nat) : Dev :=
  let d := bumpEpoch (fset d cfgStatus F.CFG_STATUS_STAGE n)
  { d with boot := { d.boot with
      until_ := d.tally + 1 + Config.openValue d.epoch (0xC0000000 + n) % msTicks (stageBound n) } }

/-- Boot stops with an error (R345). -/
def bootFail (d : Dev) (err : Nat) : Dev :=
  let d := fset (fset d cfgStatus F.CFG_STATUS_ERR err) cfgStatus F.CFG_STATUS_STAGE 3
  { d with boot := { d.boot with until_ := d.tally } }

/-! ## ROM and SELFTEST -/

/-- PLLs lock and the tally is aligned (R359, R360). -/
def romDone (d : Dev) : Dev :=
  let d := computeDies.foldl (fun d die => fsets d (ctl R.CLK_DIE_STATUS die 0)
    [(F.CLK_DIE_STATUS_PLL_LOCK, 1), (F.CLK_DIE_STATUS_ALIGNED, 1)]) d
  enterStage (devStatus d F.CLK_DEV_STATUS_REF_OK 1) 2

/-- Town Halls that fail are retired for this boot; the boot die is the lowest that passes, and coordinates. -/
def selftestDone (d : Dev) : Dev :=
  let d := (d.boot.env.badHalls.map Fin.val).foldl retireHall d
  let die := (computeDies.find? fun x => !hallRetired d x).getD 0
  enterStage (fset { d with coord := die } cfgStatus F.CFG_STATUS_BOOT_DIE die) 3

/-! ## FLASH and LOAD -/

/-- The images that verify, in the order of BOOT_SLOT, else of the higher VERSION, A before B (R346, R350). -/
def bootOrder (d : Dev) (f : Flash) : List (Bool × Image) :=
  let a := (parseImage d f.slotA).map fun x => (false, x)
  let b := (parseImage d f.slotB).map fun x => (true, x)
  let bFirst := match cfgNat d 0x003 1 with
    | 0 => false
    | 1 => true
    | _ => match a, b with
      | some x, some y => decide (x.2.version < y.2.version)
      | _, _ => false
  (if bFirst then [b, a] else [a, b]).filterMap id

/-- The record is read and shown with its digest, the blob is read, and the slot is chosen. -/
def flashDone (d : Dev) : Dev :=
  if computeDies.all (hallRetired d) then bootFail d 3
  else
    match d.boot.env.flash with
    | none => bootFail d 2
    | some f =>
      let d := { d with boot := { d.boot with config := f.config.take 4096, identityBlob := f.blob } }
      let h := sha512 d.boot.config
      let d := (List.range 16).foldl (fun d i =>
        wr d (ctl (R.CFG_DIGEST + 4 * i) 0 0) (BitVec.ofNat 32 (numAt h (4 * i) 4))) d
      let l := bootOrder d f
      if l.isEmpty then bootFail d 1 else enterStage { d with boot := { d.boot with images := l } } 4

/-- The first image whose sections match is booted; dies whose copy fails are retired for this boot. -/
def loadDone (d : Dev) : Dev :=
  match d.boot.images.find? fun x => x.2.sectionsOk with
  | none => bootFail d 1
  | some (slotB, x) =>
    let d := { d with boot := { d.boot with image := some x, images := [] } }
    let d := fset d cfgStatus F.CFG_STATUS_SLOT_B (b2n slotB)
    let d := (List.range 64).foldl (fun d die => fset d (ctl R.DIE_EDITION die 0) F.DIE_EDITION_EDITION x.edition) d
    let d := (d.boot.env.badCopies.map Fin.val).foldl retireHall d
    enterStage d 5

/-! ## IDENTITY (R351 to R353) -/

/-- The certificate of the identity blob. -/
def blobCert (b : List Byte) : List Byte := (b.drop 6144).take (numAt b 8 4)

/-- The identity state: DEBUG where the record says so; VALID where the blob is this module's and die 0 boots. -/
def identityState (d : Dev) : Nat :=
  let b := d.boot.identityBlob
  if cfgNat d 0x004 1 = 0xA5 then 2
  else if numAt b 0 4 = 0x4449545A ∧ numAt b 4 2 = 1 ∧ 1 ≤ numAt b 8 4 ∧ numAt b 8 4 ≤ 4096
      ∧ fget d cfgStatus F.CFG_STATUS_BOOT_DIE = 0 ∧ Config.unwraps b = true then 0
  else 1

/-- The identity is recovered. -/
def identityDone (d : Dev) : Dev :=
  let st := identityState d
  let tru := ctl R.TRU_STATUS 0 0
  let d := fset (fset d cfgStatus F.CFG_STATUS_IDENT st) tru F.TRU_STATUS_IDENT st
  let d := fset d tru F.TRU_STATUS_DEBUG (b2n (st == 2))
  if st ≠ 0 then enterStage d 6
  else
    let cert := blobCert d.boot.identityBlob
    let h := sha512 cert
    enterStage ((List.range 16).foldl (fun d i =>
      wr d (ctl (R.TRU_ID_DIGEST + 4 * i) 0 0) (BitVec.ofNat 32 (numAt h (4 * i) 4)))
      { d with boot := { d.boot with certificate := cert } }) 6

/-! ## FIRMWARE, LINKS and SERVING (R346 to R349) -/

/-- The device condenses from stage FIRMWARE until every boot model has completed its first step (R344). -/
def firmwareStart (d : Dev) : Dev := fset d (srvReg R.SRV_STATUS) F.SRV_STATUS_CONDENSING 1

/-- The aqueduct table entry of an aqueduct as AQD_CTRL takes it: VLAN 0xFFF acts as 0; bit 1 of the entry is 0 for
Ethernet. -/
def aqueductEntry (d : Dev) (g : Nat) : Nat :=
  let e := cfgNat d (0x040 + 2 * g) 2
  let vlan := bits e 3 12
  bits e 0 1 + 2 * (1 - bits e 1 1) + 4 * bits e 2 1 + 8 * (if vlan = 0xFFF then 0 else vlan)

/-- Firmware is up: cores 1 to 3 run, stacks are ready, registers follow the record, the operating point rises to what is
allowed, blocks that failed their test are permanently faulty. -/
def firmwareDone (d : Dev) : Dev :=
  let d := computeDies.foldl (fun d die => [1, 2, 3].foldl (fun d c =>
    if coreRetired d die c then d else fset d (ctl R.HAL_CORE_CTRL die c) F.HAL_CORE_CTRL_HOLD 0) d) d
  let d := (List.range 8).foldl (fun d s => fset d (ctl R.RSV_STATUS (48 + s) 0) F.RSV_STATUS_READY 1) d
  let fa := cfgNat d 0x000 2
  let d := if fa = 0xFFFF then d
    else fsets d (ctl R.AQD_FA 56 9) [(F.AQD_FA_FA, fa), (F.AQD_FA_VALID, 1)]
  let rem := cfgNat d 0x007 1
  let d := if rem = 0xFF then d
    else computeDies.foldl (fun d die => fsets d (ctl R.HAL_REMOTE die 4)
      [(F.HAL_REMOTE_CTL_EN, bits rem 0 1), (F.HAL_REMOTE_TENANT_EN, bits rem 1 1)]) d
  let d := d.boot.env.badBlocks.foldl (fun d p => permanent d (locId p.1 2 p.2)) d
  let d := handOver d d.coord
  let d := if activeOp d < allowedPoint d then schedulePoint d (allowedPoint d) else d
  let d := (List.range 64).foldl (fun d g =>
    fset (writeShadow d (aqdReg R.AQD_CTRL g) (BitVec.ofNat 32 (aqueductEntry d g))) (aqdReg R.AQD_APPLY g) F.AQD_APPLY_APPLY 1) d
  enterStage d 7

/-- A boot model entry that R349 does not leave unused: its model and bytes. -/
def bootEntry (d : Dev) (j : Nat) : Option (Nat × List Byte) :=
  let b := (d.boot.config.drop (0x400 + 0x280 * j)).take 592
  let m := numAt b 0 1
  let len := numAt b 4 4
  if b.length < 592 || 64 ≤ m || len < 256 || 16777216 < len
      || ((List.range j).any fun i => numAt (d.boot.config.drop (0x400 + 0x280 * i)) 0 1 == m) then none
  else some (m, b)

/-- The device serves: the loads of its boot models start. -/
def linksDone (d : Dev) : Dev :=
  let d := fset d cfgStatus F.CFG_STATUS_STAGE 8
  ([0, 1, 2, 3].filterMap (bootEntry d)).foldl (fun d e =>
    setLoad (setModel d e.1 { model d e.1 with entry := e.2, expected := (e.2.drop 16).take 64 }) e.1 1) d

/-- The boot stage whose time has come ends. -/
def bootAdvance (d : Dev) : Dev :=
  if d.boot.inReset || !d.boot.on || d.tally < d.boot.until_ || fget d cfgStatus F.CFG_STATUS_ERR ≠ 0 then d
  else
    match bootStage d with
    | 1 => romDone d
    | 2 => selftestDone d
    | 3 => flashDone d
    | 4 => loadDone d
    | 5 => firmwareStart (identityDone d)
    | 6 => firmwareDone d
    | 7 => linksDone d
    | _ => d

/-! ## Reset and retries (R345, R402) -/

/-- A qualified rise of MOD_RST_N: boot begins at stage ROM. -/
def resetRise (d : Dev) (e : BootEnv) : Dev :=
  if !d.boot.on || (!d.boot.inReset && bootStage d ≠ 0) then d
  else enterStage { d with boot := { d.boot with inReset := false, env := e } } 1

/-- A failed boot repeats stage FLASH, once per second. -/
def bootRetry (d : Dev) (f : Option Flash) : Dev :=
  if fget d cfgStatus F.CFG_STATUS_ERR = 0 || d.tally < d.boot.until_ + secTicks 1 then d
  else
    let d := { d with boot := { d.boot with env := { d.boot.env with flash := f } } }
    enterStage (fset d cfgStatus F.CFG_STATUS_ERR 0) 3

/-! ## Attestation (R354, R355) -/

/-- The images that dies run, each with its dies, in ascending version. -/
def runningImages (d : Dev) : List (Image × List Nat) :=
  let serve := computeDies.filter fun die => !hallRetired d die
  match d.boot.image, d.boot.newImage with
  | some x, some y =>
    let new := serve.filter d.boot.updatedDies.contains
    let old := serve.filter fun die => !d.boot.updatedDies.contains die
    let l := [(x, old), (y, new)].filter fun p => !p.2.isEmpty
    if y.version < x.version then l.reverse else l
  | some x, none => [(x, serve)]
  | _, _ => []

/-- The number of reports that a response carries. -/
def reportCount (d : Dev) : Nat := max 1 (runningImages d).length

/-- A POST asks for signed reports: answered with 503 while 4 reports are being signed. -/
def attestRequest (d : Dev) (g conn stream : Nat) (nonce : List Byte) : Dev :=
  if !aqdEthernetUp d g then d
  else if 4 ≤ d.boot.signing.length * reportCount d then emit d .attestResponse [g, conn, stream, 503]
  else { d with boot := { d.boot with signing := d.boot.signing ++ [(g, conn, stream, nonce)] } }

/-- The live epochs, with their model and epoch slot. -/
def liveEpochs (d : Dev) : List (Nat × Nat × EpochRec) :=
  d.srv.models.flatMap fun m =>
    (m.2.active.toList.map fun e => (m.1, 0, e)) ++ (m.2.prev.toList.map fun e => (m.1, 1, e))

/-- The program entries. -/
def programEntries (d : Dev) : List (List Byte) :=
  ((liveEpochs d).filterMap fun x => (d.step.loaded.find? fun p => p.1 == x.2.2.program).map fun p =>
    leBytes 8 x.2.2.program ++ (p.2 ++ List.replicate 64 0).take 64 ++ leBytes 1 x.1 ++ leBytes 1 x.2.1 ++ List.replicate 6 0).take 128

/-- The model entries. -/
def modelEntries (d : Dev) : List (List Byte) :=
  ((liveEpochs d).map fun x =>
    leBytes 1 x.1 ++ leBytes 1 (fget d (modelReg R.SRV_MT_LOAD x.1) F.SRV_MT_LOAD_STATE) ++ leBytes 2 0
      ++ leBytes 4 x.2.2.epoch ++ leBytes 8 x.2.2.modelId ++ x.2.2.digest).take 128

/-- 64 bytes of registers from a place on. -/
def digestRegs (d : Dev) (place : Nat) : List Byte :=
  (List.range 16).flatMap fun i => leBytes 4 (rd d (ctl (place + 4 * i) 0 0)).toNat

/-- One report: header, entries, signature. -/
def report (d : Dev) (nonce : List Byte) (p : Image × List Nat) : List Byte :=
  let ident := fget d cfgStatus F.CFG_STATUS_IDENT
  let progs := programEntries d
  let models := modelEntries d
  let len := 512 + 80 * (progs.length + models.length) + 512
  let flags := b2n (ident != 0) + 2 * b2n (ident == 2) + 4 * fget d cfgStatus F.CFG_STATUS_SLOT_B
    + 8 * fget d (srvReg R.SRV_STATUS) F.SRV_STATUS_CONDENSING + 16 * b2n (fget d cfgStatus F.CFG_STATUS_BOOT_DIE != 0)
  let head := leBytes 4 0x5241545A ++ leBytes 2 1 ++ leBytes 2 (edition d) ++ leBytes 4 len ++ leBytes 4 flags
    ++ leBytes 8 d.tally ++ leBytes 2 (if faValid d then ownFa d else 0xFFFF) ++ leBytes 6 0 ++ (nonce ++ List.replicate 64 0).take 64
    ++ (if ident = 0 then digestRegs d R.TRU_ID_DIGEST else List.replicate 64 0) ++ p.1.digest ++ leBytes 4 p.1.version
    ++ leBytes 4 p.1.svn ++ digestRegs d R.CFG_DIGEST ++ leBytes 1 progs.length ++ leBytes 1 models.length
    ++ leBytes 6 (p.2.foldl (fun x die => x + pow2 die) 0)
  let body := (head ++ List.replicate 512 0).take 512 ++ progs.flatten ++ models.flatten
  body ++ (if ident = 0 then (Config.sign 0 body ++ List.replicate 512 0).take 512 else List.replicate 512 0)

/-- The oldest request's reports are signed and sent. -/
def attestSigned (d : Dev) : Dev :=
  match d.boot.signing with
  | [] => d
  | (g, conn, stream, nonce) :: rest =>
    let d := { d with boot := { d.boot with signing := rest } }
    let l := runningImages d
    let cert := if fget d cfgStatus F.CFG_STATUS_IDENT = 0 then d.boot.certificate else []
    emit d .attestResponse [g, conn, stream, 200]
      (leBytes 4 l.length ++ leBytes 4 cert.length ++ leBytes 8 0 ++ l.flatMap (report d nonce) ++ cert)

end Sys2Proof.Machine
end

