-- ==== Sys2Proof/Machine/Flags.lean ====
section
/-! DEFINITION. Machine/Flags: the value that a control read finds (R6 to R9, R329): where a register is kept, the status
bits and fields that follow from the state of their unit, and fields that measure what the model leaves out, which read as
free values (log entry 43). -/

namespace Sys2Proof.Machine

/-! ## Status fields of the units -/

/-- SEQ_STATUS besides PS_REFUSED; SLOT keeps the slot that ran last (log entry 43). -/
def seqFlags (d : Dev) (die b : Nat) : List (Fld × Nat) :=
  let q := (blk d die b).seq
  let run := q.phase == .running || q.phase == .ended
  [(F.SEQ_STATUS_RUNNING, b2n run), (F.SEQ_STATUS_DONE, b2n (seqDone d die b)), (F.SEQ_STATUS_HELD, b2n q.held.isSome),
   (F.SEQ_STATUS_SLOT, q.slot)]

/-- The program-store word at SEQ_PS_ADDR (R161). -/
def psWord (d : Dev) (die b : Nat) : Nat :=
  memNat d.epoch (unitPs (gblock die b)) (blk d die b).ps (fget d (ctl R.SEQ_PS_ADDR die b) F.SEQ_PS_ADDR_WORD * 4) 4

/-- SEQ_MQ_STATUS. -/
def quartetFlags (d : Dev) (die b : Nat) : List (Fld × Nat) :=
  let x := blk d die b
  [(F.SEQ_MQ_STATUS_BUSY, b2n !x.passes.isEmpty), (F.SEQ_MQ_STATUS_TILE_READY, b2n (x.load.any TileLoad.ready)),
   (F.SEQ_MQ_STATUS_NEXT_PLANE, x.seq.nextPlane),
   (F.SEQ_MQ_STATUS_STALLED, b2n (x.quartetWait.isSome || (x.passes.any fun p => p.wait.isSome) || x.tileHeld))]

/-- VEC_STATUS. -/
def vectorFlags (d : Dev) (die b : Nat) : List (Fld × Nat) :=
  let c := (blk d die b).chains
  [(F.VEC_STATUS_BUSY, b2n !c.isEmpty), (F.VEC_STATUS_QUEUED, b2n (1 < c.length)),
   (F.VEC_STATUS_STALLED, b2n ((c.head?.map fun r => r.wait.isSome).getD false))]

/-- CIS_STATUS. -/
def cisternFlags (d : Dev) (die b : Nat) : List (Fld × Nat) :=
  let x := blk d die b
  let debts := (x.debt.filter fun e => subOn d die b e.1).map Prod.snd
  [(F.CIS_STATUS_MAX_DEBT, min (debts.foldl max 0) 255), (F.CIS_STATUS_FORCED, b2n (x.action.any fun e => e.2.1)),
   (F.CIS_STATUS_REPAIR_BUSY, b2n !x.repairs.isEmpty)]

/-- The registers of a pump's ring apply group (R335). -/
def ringGroup (die b : Nat) (pb : Bool) : List Nat := [pumpReg R.PMP_RING_BASE die b pb, pumpReg R.PMP_RING_SIZE die b pb]

/-- PMP_STATUS. -/
def pumpFlags (d : Dev) (die b : Nat) (pb : Bool) : List (Fld × Nat) :=
  let p := pumpOf (blk d die b) pb
  let hd := fget d (pumpReg R.PMP_RING_HEAD die b pb) F.PMP_RING_HEAD_HEAD
  let tl := fget d (pumpReg R.PMP_RING_TAIL die b pb) F.PMP_RING_TAIL_TAIL
  [(F.PMP_STATUS_BUSY, b2n ((p.direct ++ p.sluice ++ p.ring).any PumpItem.started)),
   (F.PMP_STATUS_DIRECT_DEPTH, p.direct.length), (F.PMP_STATUS_SLUICE_DEPTH, p.sluice.length),
   (F.PMP_STATUS_RING_ACTIVE, b2n (hd != tl || !p.ring.isEmpty)), (F.PMP_STATUS_PEND, b2n (pend d (ringGroup die b pb)))]

/-- SQR_STATUS: a retired link is not up (R144). -/
def squareFlags (d : Dev) (die b : Nat) : List (Fld × Nat) :=
  let v := (rd d (ctl R.SQR_STATUS die b)).toNat
  [(F.SQR_STATUS_LINK_UP, (List.range 5).foldl (fun m i => m + if bit v i && !bit v (5 + i) then pow2 i else 0) 0),
   (F.SQR_STATUS_PEND, b2n (pend d [ctl R.SQR_RETIRE die b]))]

/-- FNT_STATUS besides STALL. -/
def fountainFlags (d : Dev) (h : Nat) : List (Fld × Nat) :=
  let n := (fountain d h).held.length
  [(F.FNT_STATUS_BUSY, b2n (0 < n)), (F.FNT_STATUS_HELD, n)]

/-- DIE_STEP_STATUS besides ABORTED. -/
def stepFlags (d : Dev) (die : Nat) : List (Fld × Nat) :=
  [(F.DIE_STEP_STATUS_RUNNING, b2n d.step.running), (F.DIE_STEP_STATUS_DONE, b2n (dieSt d die).stepDone),
   (F.DIE_STEP_STATUS_LOCKSTEP, b2n d.step.lockstep), (F.DIE_STEP_STATUS_HOLD, b2n d.step.holdFrom.isSome)]

/-- RSV_STATUS besides READY, SHARE_ERR and RETIRED. -/
def stackFlags (d : Dev) (die : Nat) : List (Fld × Nat) :=
  let zeroing (e : Nat × Word) : Bool :=
    e.1 % pow2 32 == ctl R.RSV_PT_ENTRY die 0 && pow2 32 ≤ e.1
      && bits e.2.toNat F.RSV_PT_ENTRY_ZEROING.lo F.RSV_PT_ENTRY_ZEROING.width == 1
  [(F.RSV_STATUS_PORT_UP, b2n (bridgeUp d die 0) + 2 * b2n (bridgeUp d die 1)),
   (F.RSV_STATUS_PEND, b2n (pend d [ctl R.RSV_SHARE die 0])), (F.RSV_STATUS_ZEROING, b2n (d.regs.any zeroing))]

/-- AQD_TXN_STATUS besides WIN_BUSY and OPEN_ERR. -/
def txnFlags (d : Dev) (h : Nat) : List (Fld × Nat) :=
  [(F.AQD_TXN_STATUS_PRIMARY, b2n (primaryHead d == h)), (F.AQD_TXN_STATUS_FA_VALID, b2n (faValid d))]

/-- AQD_WIN_STATUS of a window. -/
def windowFlags (d : Dev) (w : Nat) : List (Fld × Nat) :=
  let x := window d w
  [(F.AQD_WIN_STATUS_GEN, x.gen), (F.AQD_WIN_STATUS_STATE, x.state), (F.AQD_WIN_STATUS_GRANTED, x.outstanding)]

/-- Nothing can have been measured at an address: the tally has not counted on since the register was reset, or cleared by a
read (R9, R10); what counts for a step is reset at the step's start. -/
def unmeasured (d : Dev) (a : Nat) : Bool :=
  mgetD d.since a 0 == d.tally || ((ctlPlace a == R.SQR_EXCESS_CNT || ctlPlace a == R.BRG_MAX_LAT) && d.step.begun == d.tally)

/-- The mode of a core, in the codes of stamps (R338, DEDUCED, log entry 43), where its own access shows it; what another
sees is a free value while the core runs. -/
def corePriv (d : Dev) (p : Path) (die core : Nat) : Nat :=
  let code : CoreMode → Nat
    | .user => 1
    | .supervisor => 2
    | .machine => 3
  let free := if flag d (ctl R.HAL_CORE_CTRL die core) F.HAL_CORE_CTRL_HOLD || unmeasured d (ctl R.HAL_CORE_STATUS die core) then 3
    else Config.openValue d.epoch (ctl R.HAL_CORE_STATUS die core) % 4
  match p with
  | .core pd c m => if pd.val = die ∧ c.val = core then code m else free
  | _ => free

/-- HAL_CORE_STATUS besides RETIRED: a core that is not held executes from the beginning of boot on (R344); at State.reset, before
it, RUN reads its reset column, 0 (log entry 2). -/
def coreFlags (d : Dev) (p : Path) (die core : Nat) : List (Fld × Nat) :=
  let held := flag d (ctl R.HAL_CORE_CTRL die core) F.HAL_CORE_CTRL_HOLD
  let begun := fget d (ctl R.CFG_STATUS 0 0) F.CFG_STATUS_STAGE != 0
  [(F.HAL_CORE_STATUS_RUN, b2n (begun && !held && !coreRetired d die core)), (F.HAL_CORE_STATUS_PRIV, corePriv d p die core)]

/-- The core timer group (R335). -/
def timerGroup (die core : Nat) : List Nat := [ctl R.HAL_MTIMECMP_LO die core, ctl R.HAL_MTIMECMP_HI die core]

/-- A word of a slip log entry (R190); 0 where the log holds no such entry. -/
def slipWord (d : Dev) (die entry i : Nat) : Nat :=
  match (dieSt d die).slips[entry]? with
  | none => 0
  | some r =>
    if i = 0 then r.cycle
    else if i = 1 then r.bundle % pow2 24 + r.block * pow2 24
    else if i = 2 then min r.slip 65535 + min r.held 65535 * pow2 16
    else r.cause.code + r.tag % 65536 * 16

/-- The word of the configuration record's copy (R346); before the record has been read it is a free value. -/
def cfgWord (d : Dev) (w : Nat) : Nat :=
  if d.boot.config.isEmpty then Config.openValue d.epoch (R.CFG_DATA + w) else ofLeBytes ((d.boot.config.drop (4 * w)).take 4)

/-- The image that a die runs (R350, R389). -/
def imageOf (d : Dev) (die : Nat) : Option Image :=
  if d.boot.updatedDies.contains die then d.boot.newImage.or d.boot.image else d.boot.image

/-- The ledger's registers for an entry (R377). -/
def ledgerLoc (d : Dev) (n : Nat) : Nat := ((d.cont.ledger[n]?).map LedgerEntry.loc).getD 0

/-- As `ledgerLoc`, for SRV_LEDGER_STATE. -/
def ledgerFlags (d : Dev) (n : Nat) : List (Fld × Nat) :=
  match d.cont.ledger[n]? with
  | none => []
  | some e =>
    [(F.SRV_LEDGER_STATE_COUNT, min 3 (e.stamps.filter fun t => d.tally < t + dayTicks).length),
     (F.SRV_LEDGER_STATE_RETIRED, b2n e.retired), (F.SRV_LEDGER_STATE_VALID, 1)]

/-! ## Where a register is kept -/

/-- The unit number that the fields of a control address name: pump B's registers lie 0x100 above pump A's. -/
def isPumpB (a : Nat) : Bool := 0x100 ≤ ctlOff a

/-- The windows' and routes' registers and AQD_FA, which all heads show alike (R242, R252). -/
def replicated (a : Nat) : Bool :=
  ctlClass a == 0x18 && ctlInst a == 9
    && [R.AQD_FA, R.AQD_WIN_TGT_LO, R.AQD_WIN_TGT_HI, R.AQD_WIN_CTRL, R.AQD_WIN_OP, R.AQD_WIN_STATUS, R.AQD_RT_LO,
        R.AQD_RT_HI].contains (ctlPlace a)

/-- The model that a path selects. -/
def selModel (d : Dev) (p : Path) : Nat := selField d p (srvReg R.SRV_MT_SEL) F.SRV_MT_SEL_MODEL

/-- A register of the selected model table entry. -/
def isModelReg (place : Nat) : Bool := R.SRV_MT_EPOCH ≤ place && place ≤ R.SRV_MT_LOAD

/-- The key under which the register at an address is kept, for a path that selects (R329). -/
def regKey (d : Dev) (p : Path) (a : Nat) : Nat :=
  let pl := ctlPlace a
  let die := ctlDie a
  if ctlClass a = 0x20 then if isModelReg pl then modelReg pl (selModel d p) else srvReg pl
  else if pl = R.RSV_PT_ENTRY then pageReg (die - 48) (selField d p (ctl R.RSV_PT_SEL die 0) F.RSV_PT_SEL_PAGE)
  else if pl = R.FNT_ENTRY_LO ∨ pl = R.FNT_ENTRY_HI then ctlSel pl die 0 (selField d p (ctl R.FNT_SEL die 0) F.FNT_SEL_ENTRY)
  else if pl = R.FNT_LIST then ctlSel pl die 0 (selField d p (ctl R.FNT_SEL die 0) F.FNT_SEL_LIST)
  else if replicated a then
    if pl = R.AQD_FA then ctl R.AQD_FA 56 9
    else if pl = R.AQD_RT_LO ∨ pl = R.AQD_RT_HI then ctlSel pl 56 9 (selField d p (ctl R.AQD_RT_SEL die 9) F.AQD_RT_SEL_ENTRY)
    else winReg pl (selField d p (ctl R.AQD_WIN_SEL die 9) F.AQD_WIN_SEL_WINDOW)
  else a

/-! ## Fields without a source in the model -/

/-- Registers whose fields measure rates, latencies, voltages and excess slots, or show levels at contacts: each
read finds a free value (log entry 43). -/
def measured (place : Nat) : List Fld :=
  if place = R.BRG_RATE then [F.BRG_RATE_RATE, F.BRG_RATE_PERIOD]
  else if place = R.BRG_MAX_LAT then [F.BRG_MAX_LAT_NS]
  else if place = R.RSV_RATE_A then [F.RSV_RATE_A_VC1, F.RSV_RATE_A_VC2]
  else if place = R.RSV_RATE_B then [F.RSV_RATE_B_VC3, F.RSV_RATE_B_VC4]
  else if place = R.RSV_MAX_LAT then [F.RSV_MAX_LAT_NS]
  else if place = R.SQR_EXCESS_CNT then [F.SQR_EXCESS_CNT_CYCLES]
  else if place = R.PWR_RAIL_CORE then [F.PWR_RAIL_CORE_MIN_MV]
  else if place = R.PWR_RAIL_AUX then [F.PWR_RAIL_AUX_AUX1_MV]
  else if place = R.DIE_GPIO_IN then [F.DIE_GPIO_IN_LEVEL]
  else []

/-- The fields measured at an address: AQD_MAX_LAT shares its place with the window registers of instance 9, and edge
heads alone show a second rail. -/
def measuredAt (a : Nat) : List Fld :=
  let pl := ctlPlace a
  if pl = R.AQD_MAX_LAT then (if ctlInst a < 8 then [F.AQD_MAX_LAT_NS] else [])
  else if pl = R.PWR_RAIL_AUX ∧ ctlInst a = 0 ∧ 56 ≤ ctlDie a then [F.PWR_RAIL_AUX_AUX1_MV, F.PWR_RAIL_AUX_AUX2_MV]
  else if (pl = R.PWR_RAIL_CORE ∨ pl = R.PWR_RAIL_AUX) ∧ ctlInst a ≠ 0 then []
  else measured pl

/-- The largest value that a measured field can show: a handshake period never exceeds 1.28 ns (R145), and an express flit
crosses a bridge in at most 20 ns (R146). -/
def measuredMost (place : Nat) (f : Fld) : Nat :=
  if place = R.BRG_RATE ∧ f = F.BRG_RATE_PERIOD then 1280
  else if place = R.BRG_MAX_LAT then 20
  else pow2 f.width - 1

/-- The free values of those fields, within their bounds. A field reads as it is stored, at its reset or cleared value, while
nothing can have been measured, and at a bridge port that is not connected and carries no traffic (R12); the level at a
contact has no reset value. -/
def measuredFields (d : Dev) (a : Nat) : List (Fld × Nat) :=
  if (unmeasured d a && ctlPlace a != R.DIE_GPIO_IN) || (ctlClass a == 0x07 && !portPresent (ctlDie a) (ctlInst a)) then []
  else (measuredAt a).map fun f => (f, Config.openValue d.epoch (a * 64 + f.lo) % (measuredMost (ctlPlace a) f + 1))

/-! ## The value of a register -/

/-- Fields that follow from the state of their unit. -/
def derived (d : Dev) (p : Path) (a : Nat) : List (Fld × Nat) :=
  let pl := ctlPlace a
  let die := ctlDie a
  let inst := ctlInst a
  if ctlClass a = 0x01 then
    if pl = R.SEQ_STATUS then seqFlags d die inst
    else if pl = R.SEQ_CYCLE then [(F.SEQ_CYCLE_CYCLE, min (blk d die inst).seq.cycle (pow2 32 - 1))]
    else if pl = R.SEQ_MQ_STATUS then quartetFlags d die inst
    else if pl = R.SEQ_PS_DATA then [(F.SEQ_PS_DATA_DATA, psWord d die inst)]
    else []
  else if pl = R.VEC_STATUS then vectorFlags d die inst
  else if pl = R.CIS_STATUS then cisternFlags d die inst
  else if pl = R.PMP_STATUS ∨ pl = R.PMP_STATUS + 0x100 then pumpFlags d die inst (isPumpB a)
  else if pl = R.SQR_STATUS then squareFlags d die inst
  else if pl = R.FNT_STATUS then fountainFlags d (die - 56)
  else if pl = R.DIE_STEP_STATUS then stepFlags d die
  else if pl = R.DIE_STEP_ELAPSED then [(F.DIE_STEP_ELAPSED_CYCLES, min (dieSt d die).elapsed (pow2 32 - 1))]
  else if pl = R.DIE_SLIP_STATUS then [(F.DIE_SLIP_STATUS_COUNT, (dieSt d die).slips.length)]
  else if R.DIE_SLIP_E ≤ pl ∧ pl < R.DIE_SLIP_E + 16 then
    [(F.DIE_SLIP_E_WORD, slipWord d die (selField d p (ctl R.DIE_SLIP_SEL die 0) F.DIE_SLIP_SEL_ENTRY) ((pl - R.DIE_SLIP_E) / 4))]
  else if pl = R.DIE_PLACE_APPLY then [(F.DIE_PLACE_APPLY_PEND, b2n (pend d (placementGroup die)))]
  else if ctlClass a = 0x08 then
    if ctlOff a < 0x400 then
      if ctlOff a % 0x40 = 8 then [(F.GAT_CTRL_WAITERS, (waiters d die (inst * 16 + ctlOff a / 0x40)).length)]
      else if ctlOff a % 0x40 = 16 then
        [(F.GAT_HALLWAIT_ARM, b2n ((waiters d die (inst * 16 + ctlOff a / 0x40)).any Waiter.isHall))]
      else []
    else if inst = 0 ∧ 0x500 ≤ ctlOff a ∧ ctlOff a % 0x20 = 0x14 then
      [(F.GAT_BAR_ARRIVED_PEND, b2n (pend d (barGroup (die - 56) ((ctlOff a - 0x500) / 0x20))))]
    else []
  else if pl = R.RSV_STATUS then stackFlags d die
  else if ctlClass a = 0x18 then
    if inst = 9 then
      if pl = R.AQD_TXN_STATUS then txnFlags d (die - 56)
      else if pl = R.AQD_WIN_STATUS then
        windowFlags d (selField d p (ctl R.AQD_WIN_SEL die 9) F.AQD_WIN_SEL_WINDOW)
      else []
    else if inst < 8 ∧ pl = R.AQD_STATUS then [(F.AQD_STATUS_PEND, b2n (pend d [ctl R.AQD_CTRL die inst]))]
    else []
  else if pl = R.SRV_MT_APPLY then [(F.SRV_MT_APPLY_PEND, b2n (pend d (modelGroup (selModel d p))))]
  else if pl = R.SRV_LEDGER_LOC then
    [(F.SRV_LEDGER_LOC_LOC, ledgerLoc d (selField d p (srvReg R.SRV_LEDGER_SEL) F.SRV_LEDGER_SEL_ENTRY))]
  else if pl = R.SRV_LEDGER_STATE then ledgerFlags d (selField d p (srvReg R.SRV_LEDGER_SEL) F.SRV_LEDGER_SEL_ENTRY)
  else if ctlClass a = 0x0B ∧ inst < 4 then
    if pl = R.HAL_CORE_STATUS then coreFlags d p die inst
    else if pl = R.HAL_TIMER_APPLY then [(F.HAL_TIMER_APPLY_PEND, b2n (pend d (timerGroup die inst)))]
    else []
  else if pl = R.CFG_DATA then [(F.CFG_DATA_DATA, cfgWord d (selField d p (ctl R.CFG_SEL 0 0) F.CFG_SEL_WORD))]
  else if pl = R.TRU_FW_VER then [(F.TRU_FW_VER_VERSION, ((imageOf d p.die).map Image.version).getD 0)]
  else if pl = R.TRU_FW_SVN then [(F.TRU_FW_SVN_SVN, ((imageOf d p.die).map Image.svn).getD 0)]
  else if R.TRU_FW_DIGEST ≤ pl ∧ pl < R.TRU_FW_DIGEST + 64 then
    [(F.TRU_FW_DIGEST_DIGEST, ((imageOf d p.die).map fun x => ofLeBytes ((x.digest.drop (pl - R.TRU_FW_DIGEST)).take 4)).getD 0)]
  else if ctlClass a = 0x0A ∧ die = 0 ∧ inst = 0 then
    if pl = R.CLK_TALLY_LO then [(F.CLK_TALLY_LO_TALLY, d.tally)]
    else if pl = R.CLK_TIME_NS then [(F.CLK_TIME_NS_NS, timeNs d % 1000000000)]
    else if pl = R.CLK_OP_APPLY then [(F.CLK_OP_APPLY_PEND, b2n (pend d pointGroup))]
    else []
  else []

/-- The value of the register at an address as a path reads it. An offset that holds no register and reserved bits
read 0 (R8), a selector reads as the path's own bank (R329). -/
def view (d : Dev) (p : Path) (a : Nat) : Word :=
  let home := if ctlClass a = 0x20 then srvReg (ctlPlace a) else a
  match regAt a with
  | none => 0
  | some r =>
    BitVec.ofNat 32 r.mask &&&
      if isSelector (ctlPlace a) then selValue d p home
      else
        let k := regKey d p a
        let none_ := ctlPlace a = R.RSV_PT_ENTRY ∧ 49151 < selField d p (ctl R.RSV_PT_SEL (ctlDie a) 0) F.RSV_PT_SEL_PAGE
        if none_ then 0
        else
          BitVec.ofNat 32 ((derived d p a ++ measuredFields d a).foldl (fun v e => setBits v e.1.lo e.1.width e.2) (rd d k).toNat)

/-- ALERT_N is driven low (R345, R374): an enabled cause of PWR_ALERT, or a boot that has stopped. -/
def alertLow (d : Dev) : Bool :=
  let v := (rd d (clkReg R.PWR_ALERT)).toNat
  d.boot.on && !d.boot.inReset && (bits v 0 7 &&& bits v 16 7 != 0 || fget d cfgStatus F.CFG_STATUS_ERR != 0)

end Sys2Proof.Machine
end

