-- ==== Sys2Proof/Machine/Control.lean ====
section
/-! DEFINITION. Machine/Control: what control writes and reads do (R9, R328 to R335): each register acts as its own rules
say, and every other by its access codes; reads with their side effects; the pump ring and core timer groups. -/

namespace Sys2Proof.Machine

/-! ## Writes -/

/-- The register at an address, stored at a key, takes a write by its access codes. -/
def storeCodes (d : Dev) (a k v : Nat) : Dev :=
  match regAt a with
  | some r => wr d k (BitVec.ofNat 32 (writeByCodes r (rd d k).toNat v))
  | none => d

/-- As `storeCodes`, into the register's shadow (R334). -/
def shadowCodes (d : Dev) (a k v : Nat) : Dev :=
  match regAt a with
  | some r => writeShadow d k (BitVec.ofNat 32 (writeByCodes r (shadowOf d k).toNat v))
  | none => d

/-- Writing 1 to APPLY arms a group; 0 and a second 1 have no effect (R334). -/
def arm (d : Dev) (a : Nat) (f : Fld) (v : Nat) : Dev := if bit v f.lo then fset d a f 1 else d

/-- Die control. DIE_BLOCK_RET written while a step runs takes effect when it ends (R381), and until then reads as before
(DESIGN CHOICE, log entry 108). -/
def writeDieReg (d : Dev) (die pl a v : Nat) : Dev :=
  if R.DIE_HOME_A ≤ pl ∧ pl < R.DIE_HOME_A + 768 then shadowCodes d a a v
  else if pl = R.DIE_PLACE_APPLY then arm d a F.DIE_PLACE_APPLY_APPLY v
  else if pl = R.DIE_GATE_REHOME then gateRehome d die v
  else if pl = R.DIE_BLOCK_RET ∧ d.step.running then shadowCodes d a a v
  else if pl = R.DIE_BRG_RETIRE then bridgeRetireWrite d die v
  else if pl = R.DIE_NAN_STATUS then
    -- HALTED is cleared with VALID
    let d := storeCodes d a a v
    if bit v F.DIE_NAN_STATUS_VALID.lo then fset d a F.DIE_NAN_STATUS_HALTED 0 else d
  else storeCodes d a a v

/-- A word of the program store is written, and SEQ_PS_ADDR advances; during a step of the block it is ignored, and
PS_REFUSED sets (R161). -/
def psWrite (d : Dev) (die b v : Nat) : Dev :=
  let pa := ctl R.SEQ_PS_ADDR die b
  let w := fget d pa F.SEQ_PS_ADDR_WORD
  let d := fset d pa F.SEQ_PS_ADDR_WORD (w + 1)
  if d.step.running && !seqDone d die b then fset d (ctl R.SEQ_STATUS die b) F.SEQ_STATUS_PS_REFUSED 1
  else
    let x := blk d die b
    setBlk d die b { x with ps := memWrite x.ps (w * 4) (leBytes 4 v) }

/-- A sequencer: program store, unit slots (placement group). -/
def writeSeqReg (d : Dev) (die b pl a v : Nat) : Dev :=
  if pl = R.SEQ_PS_DATA then psWrite d die b v
  else if R.SEQ_US_CTRL ≤ pl ∧ pl < R.SEQ_US_CTRL + 0x80 then shadowCodes d a a v
  else storeCodes d a a v

/-- A cistern; the registers of a scrub run are ignored while it runs (R282). -/
def writeCisReg (d : Dev) (die b pl a v : Nat) (errs : List LineErr) : Dev :=
  if pl = R.CIS_PWR_CTRL then writePower d die b cisBanks v
  else if pl = R.CIS_SCRUB_CTRL then
    let d := fset d a F.CIS_SCRUB_CTRL_GAP (bits v 8 8)
    let d := if bit v 2 then fset d a F.CIS_SCRUB_CTRL_ENDED 0 else d
    if bit v 0 then scrubStart d die b errs else d
  else if (pl = R.CIS_SCRUB_RUN ∨ pl = R.CIS_SCRUB_DEST) ∧ flag d (ctl R.CIS_SCRUB_CTRL die b) F.CIS_SCRUB_CTRL_BUSY then d
  else storeCodes d a a v

/-- A well; the range and class of a ranged zero-fill are ignored while it runs. -/
def writeWelReg (d : Dev) (p : Path) (die b pl a v : Nat) : Dev :=
  if pl = R.WEL_PWR_CTRL then writePower d die b welBanks v
  else if pl = R.WEL_ZERO_CTRL then
    if flag d a F.WEL_ZERO_CTRL_BUSY then d
    else
      let d := fset d a F.WEL_ZERO_CTRL_CLASS (bits v 1 1)
      if bit v 0 then zeroRangeGo d die b else d
  else if pl = R.WEL_ZERO_RANGE ∧ flag d (ctl R.WEL_ZERO_CTRL die b) F.WEL_ZERO_CTRL_BUSY then d
  else if pl = R.WEL_MARK_CTRL then markWrite d p die b v
  else storeCodes d a a v

/-- A write of TAIL makes new ring descriptors available, and the pump takes one into service where it may (R129). -/
def ringDoorbell (d : Dev) (die b : Nat) (pb : Bool) (v : Nat) : Dev :=
  ringFetch (fset d (pumpReg R.PMP_RING_TAIL die b pb) F.PMP_RING_TAIL_TAIL (v % pow2 (ringLog d die b pb))) die b pb

/-- A pump: ring and doorbell. `pl` is pump A's place. -/
def writePmpReg (d : Dev) (die b : Nat) (pb : Bool) (pl a v : Nat) : Dev :=
  if pl = R.PMP_RING_BASE ∨ pl = R.PMP_RING_SIZE then shadowCodes d a a v
  else if pl = R.PMP_RING_APPLY then arm d a F.PMP_RING_APPLY_APPLY v
  else if pl = R.PMP_RING_TAIL then ringDoorbell d die b pb v
  else storeCodes d a a v

/-- A square: SQR_RETIRE is an apply group. -/
def writeSqrReg (d : Dev) (pl a v : Nat) : Dev :=
  if pl = R.SQR_RETIRE then shadowCodes d a a v
  else if pl = R.SQR_APPLY then arm d a F.SQR_APPLY_APPLY v
  else storeCodes d a a v

/-- Who asks for a gate operation by a path: a Town Hall core, or one whom the owner check passes only where any may
(R179). -/
def Path.requester : Path → Requester
  | .core die _ _ => .hall die
  | _ => .fabric

/-- GAT_OP: a gate operation of R179. -/
def gatOp (d : Dev) (p : Path) (die gate v : Nat) : Dev :=
  match gateOpOf (bits v 0 3) (bits v 8 24) with
  | some op =>
    let r := performGate d die gate op p.requester
    settleBarriers (match r.2 with
      | none => r.1
      | some f => fault r.1 p.die { code := f, unit := 0xB, block := 0, bundle := 0, cycle := dieCycle r.1 p.die,
                                    aux := gateAux die gate })
  | none => d

/-- GAT_HALLWAIT: CORE and DIE, ARM, REFUSED. -/
def hallwaitWrite (d : Dev) (die gate v : Nat) : Dev :=
  let a := gateReg R.GAT_HALLWAIT die gate
  let d := if bit v 9 then fset d a F.GAT_HALLWAIT_REFUSED 0 else d
  if bit v 8 then hallwaitArm d die gate (bits v 0 2) (bits v 2 6)
  else fsets d a [(F.GAT_HALLWAIT_CORE, bits v 0 2), (F.GAT_HALLWAIT_DIE, bits v 2 6)]

/-- A gate bank: gates, barrier slots, relay entries. A relay entry that is written begins to count anew. -/
def writeGatReg (d : Dev) (p : Path) (die bank off a v : Nat) : Dev :=
  if off < 0x400 then
    let gate := bank * 16 + off / 0x40
    let k := off % 0x40
    if k = 0x0C then gatOp d p die gate v
    else if k = 0x10 then hallwaitWrite d die gate v
    else storeCodes d a a v
  else if 56 ≤ die ∧ bank = 0 ∧ 0x500 ≤ off then
    let h := die - 56
    let s := (off - 0x500) / 0x20
    let k := off % 0x20
    if k < 0x10 then shadowCodes d a a v
    else if k = 0x10 then barGenWrite d h s v
    else if k = 0x14 then arm d a F.GAT_BAR_ARRIVED_APPLY (v)
    else storeCodes d a a v
  else if 56 ≤ die ∧ bank = 1 ∧ off % 16 = 0 then
    let e := (off - 0x400) / 16
    storeCodes { d with relays := mdel d.relays ((die - 56) * 64 + e) } a a v
  else storeCodes d a a v

/-- A mailbox. -/
def writeMbxReg (d : Dev) (die m pl a v : Nat) : Dev :=
  if pl = R.MBX_DRAIN then mbxDrain d die m v
  else if pl = R.MBX_CTRL then mbxCtrlWrite d die m v
  else storeCodes d a a v

/-- Clock and power of die 0: the operating point group, time, alerts. -/
def writeClkReg (d : Dev) (pl a v : Nat) : Dev :=
  if pointGroup.contains a then
    let d := shadowCodes d a a v
    if flag d (clkReg R.CLK_OP_APPLY) F.CLK_OP_APPLY_APPLY then leadTime d else d
  else if pl = R.CLK_OP_APPLY then
    if bit v 0 && !flag d a F.CLK_OP_APPLY_APPLY then armPoint d else d
  else if pl = R.CLK_TIME_RATE then timeRate d v
  else if pl = R.CLK_TIME_STEP then timeStep d v
  else storeCodes d a a v

/-- The privilege that a path stamps (R328, R338). -/
def Path.priv : Path → Nat
  | .core _ _ .user => 1
  | .core _ _ .supervisor => 2
  | .core _ _ .machine => 3
  | .i3c => 2
  | .jtag => 3
  | .peer _ => 2

/-- A Town Hall: core registers, the timer group, send buffers; a buffer that is BUSY ignores writes (R337). -/
def writeHalReg (d : Dev) (p : Path) (die inst pl a v : Nat) : Dev :=
  if isSendBuffer a then
    let s := (ctlOff a - 0x100) / 0x80
    let c := txReg R.HAL_TX_CTRL die inst s
    if flag d c F.HAL_TX_CTRL_BUSY then d
    else if a = c then (if bit v 0 then txGo d die inst s p.priv else d)
    else storeCodes d a a v
  else if inst < 4 ∧ (pl = R.HAL_MTIMECMP_LO ∨ pl = R.HAL_MTIMECMP_HI) then shadowCodes d a a v
  else if inst < 4 ∧ pl = R.HAL_TIMER_APPLY then arm d a F.HAL_TIMER_APPLY_APPLY v
  else storeCodes d a a v

/-- A reservoir base die. -/
def writeRsvReg (d : Dev) (p : Path) (s pl a v : Nat) : Dev :=
  if pl = R.RSV_SHARE then shadowCodes d a a v
  else if pl = R.RSV_APPLY then arm d a F.RSV_APPLY_APPLY v
  else if pl = R.RSV_PT_ENTRY then
    let keep := bits (view d p a).toNat 5 1 <<< 5
    pageEntryWrite d p s (BitVec.ofNat 32 (setBits (bits v 0 5 + keep) 16 16 (bits v 16 16)))
  else storeCodes d a a v

/-- An aqueduct: AQD_CTRL is an apply group; a lane retirement is asked for (R228). -/
def writeAqdReg (d : Dev) (g pl a v : Nat) : Dev :=
  if pl = R.AQD_CTRL then shadowCodes d a a v
  else if pl = R.AQD_APPLY then arm d a F.AQD_APPLY_APPLY v
  else if pl = R.AQD_LANE_RET then laneRetireReq (bumpEpoch d) g (bits v 16 8)
  else storeCodes d a a v

/-- AQD_WIN_OP: OPEN and CLOSE; 0 and 3 have no effect. -/
def winOp (d : Dev) (p : Path) (h v : Nat) : Dev :=
  if bits v 0 2 = 1 then windowOpen d p h else if bits v 0 2 = 2 then windowClose d p h else d

/-- The transaction unit of a head. Windows, routes and AQD_FA are written at the primary head only; HOLD acts at once, and
waiting requests are granted where it clears (R242, R247). -/
def writeTxnReg (d : Dev) (p : Path) (h pl a v : Nat) : Dev :=
  if replicated a then
    if h ≠ primaryHead d then d
    else if pl = R.AQD_WIN_OP then winOp d p h v
    else if pl = R.AQD_WIN_CTRL then
      let w := selWindow d p h
      grantWaiting w (window d w).waiting.length (storeCodes d a (regKey d p a) v)
    else storeCodes d a (regKey d p a) v
  else storeCodes d a a v

/-- A fountain: the low half of an entry waits for the high half (R155); a read of it between the two writes returns the half in
force (DESIGN CHOICE, log entry 108). -/
def writeFntReg (d : Dev) (p : Path) (h pl a v : Nat) : Dev :=
  if pl = R.FNT_ENTRY_LO then shadowCodes d a (regKey d p a) v
  else if pl = R.FNT_ENTRY_HI then fntEntryCommit d p h (BitVec.ofNat 32 v)
  else if pl = R.FNT_LIST then fntListCommit d p h v
  else storeCodes d a a v

/-- The serving engine: the model table entry that a path selects, and what firmware shows of itself. -/
def writeSrvReg (d : Dev) (p : Path) (pl a v : Nat) : Dev :=
  let k := regKey d p a
  if (modelGroup (selModel d p)).contains k then shadowCodes d a k v
  else if pl = R.SRV_MT_APPLY then arm d k F.SRV_MT_APPLY_APPLY v
  else if pl = R.SRV_CTRL then showServing (storeCodes d a k v)
  else if pl = R.SRV_CAP_ALARM then recompute (storeCodes d a k v)
  else if pl = R.SRV_ST_CTRL then
    let d := storeCodes d a k (v % pow2 13)
    if bit v 13 then reservoirTest d else d
  else storeCodes d a k v

/-- A write that has been let through (R330) acts on its register. `errs` is what a scrub run meets, where one starts. -/
def writeReg (d : Dev) (p : Path) (a v : Nat) (errs : List LineErr := []) : Dev :=
  let pl := ctlPlace a
  let cls := ctlClass a
  let die := ctlDie a
  let inst := ctlInst a
  if (regAt a).isNone then d
  else if isSelector pl then
    let k := if cls = 0x20 then srvReg pl else a
    match regAt a with
    | some r => { d with selBank := mset d.selBank (bankKey p k) (BitVec.ofNat 32 (writeByCodes r (selValue d p k).toNat v)) }
    | none => d
  else if cls = 0x00 then writeDieReg d die pl a v
  else if cls = 0x01 then writeSeqReg d die inst pl a v
  else if cls = 0x02 then writeCisReg d die inst pl a v errs
  else if cls = 0x03 then writeWelReg d p die inst pl a v
  else if cls = 0x04 then writePmpReg d die inst (isPumpB a) (if isPumpB a then pl - 0x100 else pl) a v
  else if cls = 0x06 then writeSqrReg d pl a v
  else if cls = 0x08 then writeGatReg d p die inst (ctlOff a) a v
  else if cls = 0x09 then writeMbxReg d die inst pl a v
  else if cls = 0x0A then (if die = 0 ∧ inst = 0 then writeClkReg d pl a v else storeCodes d a a v)
  else if cls = 0x0B then writeHalReg d p die inst pl a v
  else if cls = 0x10 then writeRsvReg d p (die - 48) pl a v
  else if cls = 0x18 then
    if inst = 9 then writeTxnReg d p (die - 56) pl a v
    else if inst = 8 then storeCodes d a a v
    else writeAqdReg d ((die - 56) * 8 + inst) pl a v
  else if cls = 0x19 then writeFntReg d p (die - 56) pl a v
  else if cls = 0x20 then writeSrvReg d p pl a v
  else storeCodes d a a v

/-! ## Reads -/

/-- What a read does besides returning a value: latches, the program-store address, fields that clear (R9, R161, R360,
R371). -/
def readEffect (d : Dev) (p : Path) (a : Nat) : Dev :=
  match regAt a with
  | none => d
  | some r =>
    let pl := ctlPlace a
    let d := if (measuredAt a).isEmpty then d else bumpEpoch { d with since := mset d.since a d.tally }
    if pl = R.SEQ_PS_DATA then
      let pa := ctl R.SEQ_PS_ADDR (ctlDie a) (ctlInst a)
      fset d pa F.SEQ_PS_ADDR_WORD (fget d pa F.SEQ_PS_ADDR_WORD + 1)
    else if a = clkReg R.CLK_TALLY_LO then tallyRead d
    else if a = clkReg R.CLK_TIME_NS then timeRead d
    else
      let k := regKey d p a
      if r.fields.any fun f => f.acc == .rc then wr d k (BitVec.ofNat 32 (readClears r (rd d k).toNat)) else d

/-! ## Accesses (R328, R330) -/

/-- A WEL_MARK_CTRL write that its bank refuses, being not ready (R330). -/
def markRefused (d : Dev) (a v : Nat) : Bool :=
  ctlPlace a == R.WEL_MARK_CTRL && bits v 0 15 < (if bit v 15 then 32768 else 6144)
    && !wellReady d (ctlDie a) (ctlInst a) (bit v 15) (bits v 0 15)

/-- A control write by a path: refused and recorded, or performed. The result says whether it was performed. -/
def ctlWrite (d : Dev) (p : Path) (a v : Nat) (errs : List LineErr := []) : Dev × Bool :=
  match refusal d { path := p, addr := BitVec.ofNat 32 a } true with
  | some r => (refuse d p true a r, false)
  | none => (writeReg d p a v errs, !markRefused d a v)

/-- A control read by a path: refused and recorded, with nothing delivered, or the value and what the read does. -/
def ctlRead (d : Dev) (p : Path) (a : Nat) : Dev × Option Word :=
  match refusal d { path := p, addr := BitVec.ofNat 32 a } false with
  | some r => (refuse d p false a r, none)
  | none => (readEffect d p a, some (view d p a))

/-- A read by a Town Hall core, whose value goes to the core. -/
def coreRead (d : Dev) (p : Path) (a : Nat) : Dev :=
  match ctlRead d p a with
  | (d, some v) => emit d .readData [p.bank, a, v.toNat]
  | (d, none) => d

/-- A write by an access whose width or alignment may be wrong (R330). -/
def writeAccess (d : Dev) (c : CtlAccess) (v : Nat) : Dev :=
  match refusal d c true with
  | some r => refuse d c.path true c.addr.toNat r
  | none => writeReg d c.path c.addr.toNat v

/-- As `writeAccess`, for a read. -/
def readAccess (d : Dev) (c : CtlAccess) : Dev :=
  match refusal d c false with
  | some r => refuse d c.path false c.addr.toNat r
  | none => coreRead d c.path c.addr.toNat

/-- A read that is refused (R330): zero is returned, the refusal is recorded, and a core faults. A read that its path may
make is no refused read. -/
def refusedRead (d : Dev) (c : CtlAccess) : Dev :=
  match refusal d c false with
  | some r =>
    let d := refuse d c.path false c.addr.toNat r
    match c.path with
    | .core _ _ _ => d
    | p => emit d .readData [p.bank, c.addr.toNat, 0]
  | none => d

/-! ## Groups of the Town Hall side (R335) -/

/-- The pump ring group applies at an idle cycle with the ring empty and none in service: HEAD and TAIL become 0. -/
def ringApply (d : Dev) (die b : Nat) (pb : Bool) : Dev :=
  let ap := pumpReg R.PMP_RING_APPLY die b pb
  let hd := pumpReg R.PMP_RING_HEAD die b pb
  let tl := pumpReg R.PMP_RING_TAIL die b pb
  if flag d ap F.PMP_RING_APPLY_APPLY && rd d hd == rd d tl && (pumpQueue d die b pb .ring).isEmpty then
    wr (wr (fset (applyShadows d (ringGroup die b pb)) ap F.PMP_RING_APPLY_APPLY 0) hd 0) tl 0
  else d

/-- The compare value of a core's timer. -/
def mtimecmp (d : Dev) (die core : Nat) : Nat :=
  (rd d (ctl R.HAL_MTIMECMP_LO die core)).toNat + (rd d (ctl R.HAL_MTIMECMP_HI die core)).toNat * pow2 32

/-- The core timer group applies; a compare value that lies ahead ends a pending timer interrupt (R323; log entry 43). -/
def timerApply (d : Dev) (die core : Nat) : Dev :=
  let ap := ctl R.HAL_TIMER_APPLY die core
  if !flag d ap F.HAL_TIMER_APPLY_APPLY then d
  else
    let d := fset (applyShadows d (timerGroup die core)) ap F.HAL_TIMER_APPLY_APPLY 0
    if d.tally < mtimecmp d die core then { d with timerIrq := d.timerIrq.filter fun c => c != die * 4 + core } else d

/-- A core's mtime, which counts tally ticks, reaches its mtimecmp (R323). -/
def timerInterrupt (d : Dev) (die core : Nat) : Dev :=
  if mtimecmp d die core ≤ d.tally && !d.timerIrq.contains (die * 4 + core) then
    { d with timerIrq := d.timerIrq ++ [die * 4 + core] }
  else d

/-! ## Control accesses of peers (R333) -/

/-- A VC6 frame of an unknown subtype or service code is dropped and counted (R333). -/
def ctlDrop (d : Dev) : Dev := fcnt d (ctl R.HAL_ACC_STATUS 0 4) F.HAL_ACC_STATUS_DROPPED 1

/-- The STATUS of a CTL_RESP: OK, REFUSED, or DISABLED where peers' control is not enabled. -/
def respStatus (d : Dev) (ok : Bool) : Nat :=
  if ok then 0 else if flag d (ctl R.HAL_REMOTE 0 4) F.HAL_REMOTE_CTL_EN then 1 else 2

/-- Answers a control frame. -/
def ctlRespond (d : Dev) (h : FrameHdr) (a status v : Nat) : Dev :=
  sendTo d h.src 6 .ctlResp [h.head, h.src, a, status] (leBytes 4 v)

/-- A peer's control read. -/
def peerRead (d : Dev) (h : FrameHdr) (a : Nat) : Dev :=
  match ctlRead d (.peer h.src) a with
  | (e, some v) => ctlRespond e h a 0 v.toNat
  | (e, none) => ctlRespond e h a (respStatus d false) 0

/-- A peer's control write. -/
def peerWrite (d : Dev) (h : FrameHdr) (a v : Nat) : Dev :=
  match ctlWrite d (.peer h.src) a v with
  | (e, ok) => ctlRespond e h a (respStatus d ok) 0

/-- A frame of VC6 for this device, or one that goes on (R226). -/
def forHere (d : Dev) (h : FrameHdr) (kind : EmitKind) (nums : List Nat) (bytes : List Byte) (here : Dev → Dev) : Dev :=
  arriveAt d h.arrival 6 kind nums bytes here

/-! ## Wells as the Town Halls write them (R325, R314) -/

/-- Selection records whose SPILL_N a store completes with a value other than zero, in the first selection unit, count as
spilled (log entry 43). -/
def countSpill (d : Dev) (die b addr n : Nat) : Dev :=
  match selectionUnit d with
  | none => d
  | some (sd, sb, u) =>
    let first := narrowBase + 64 * (u.base.narrow + u.hdr.rowtab + 2064)
    let at_ := addr + n - 1 - first
    let r := at_ / 128
    if sd = die ∧ sb = b ∧ first ≤ addr ∧ r < 4096 ∧ at_ % 128 = 47
        ∧ 0 < ofLeBytes (wellRead d die b (first + 128 * r + 44) 4) then
      fcnt d (srvReg R.SRV_SEL_CNT) F.SRV_SEL_CNT_SPILLED 1
    else d

/-- A store through the narrow well aperture, and the count of selection records that it completes. -/
def wellStore (d : Dev) (p : Path) (off : Nat) (bytes : List Byte) (e : WellEnv) : Dev :=
  countSpill (apertureWrite d p off bytes e) (off >>> 28) (bits off 23 5) (bits off 0 23) bytes.length

end Sys2Proof.Machine
end

