-- ==== Sys2Proof/Machine/Mgmt.lean ====
section
/-! DEFINITION. Machine/Mgmt: the management agents of die 0: I3C (R400) and JTAG (R401). -/

namespace Sys2Proof.Machine

/-! ## Control accesses of the agents

An access to a unit whose accesses are bounded is done before the agent can be asked for its result; one to the serving
engine, which has no bound (R332), is under way until the next tally tick (log entry 44). -/

/-- The result of a control access of an agent: status 0 OK or 2 REFUSED, and what was read. -/
def agentAccess (d : Dev) (p : Path) (a : Nat) (w : Option Nat) : Dev × Nat × Nat :=
  match w with
  | some v =>
    let r := ctlWrite d p a v
    (r.1, if r.2 then 0 else 2, 0)
  | none =>
    match ctlRead d p a with
    | (d, some v) => (d, 0, v.toNat)
    | (d, none) => (d, 2, 0)

/-- The I3C agent performs an access. -/
def i3cAccess (d : Dev) (a : Nat) (w : Option Nat) : Dev :=
  let r := agentAccess d .i3c a w
  { r.1 with i3c := { r.1.i3c with status := r.2.1, data := r.2.2, pending := none } }

/-- The TAP performs an access; without debug access it is answered DISABLED (R353). -/
def tapAccess (d : Dev) (a : Nat) (w : Option Nat) : Dev :=
  let off := !flag d (ctl R.TRU_STATUS 0 0) F.TRU_STATUS_DEBUG
  let r := agentAccess d .jtag a w
  { r.1 with tap := { r.1.tap with status := if off then 3 else r.2.1, data := r.2.2, pending := none } }

/-- Accesses that were under way are done. -/
def agentsTick (d : Dev) : Dev :=
  let d := match d.i3c.pending with
    | some (a, w) => i3cAccess d a w
    | none => d
  match d.tap.pending with
  | some (a, w) => tapAccess d a w
  | none => d

/-! ## I3C (R400) -/

/-- The agent answers: from stage ROM onward. -/
def i3cAnswers (d : Dev) : Bool := 1 ≤ bootStage d

/-- The agent does not acknowledge its address. -/
def i3cNack (d : Dev) : Dev := emit d .i3cNack []

/-- A private write transfer; `want` is the first byte of the command it is to be. An unknown first byte or a wrong length
returns BAD_CMD and starts nothing. -/
def i3cWriteTransfer (d : Dev) (want : Nat) (bs : List Byte) : Dev :=
  if !i3cAnswers d || d.i3c.pending.isSome then i3cNack d
  else
    let op := ofLeBytes (bs.take 1)
    let good := bs.length = (if want = 1 then 5 else 9) ∧ op = want
    let a := ofLeBytes ((bs.drop 1).take 4)
    let w := if want = 1 then none else some (ofLeBytes ((bs.drop 5).take 4))
    if !good then { d with i3c := { d.i3c with status := 3, data := 0 } }
    else if ctlClass a = 0x20 then { d with i3c := { d.i3c with pending := some (a, w) } }
    else i3cAccess d a w

/-- A private write that is the other command's whole transfer. -/
def i3cOther (want : Nat) (bs : List Byte) : Bool :=
  if want = 1 then bs.length == 9 && ofLeBytes (bs.take 1) == 2 else bs.length == 5 && ofLeBytes (bs.take 1) == 1

/-- A private read: STATUS and data; BUSY while a command is pending. -/
def i3cResult (d : Dev) : Dev :=
  if !i3cAnswers d then i3cNack d
  else if d.i3c.pending.isSome then emit d .i3cData [1, 0]
  else emit d .i3cData [d.i3c.status, d.i3c.data]

/-- The provisional identifier: Stesiquin's MIPI manufacturer identifier, which the spec does not state (log entry 5);
bit 32 is 0; 0x5A64; bytes 0 and 1 of TRU_ID_DIGEST, or 0 without identity. -/
def provisionalId (d : Dev) : Nat :=
  let ident := fget d cfgStatus F.CFG_STATUS_IDENT
  let low := if ident = 0 then (rd d (ctl R.TRU_ID_DIGEST 0 0)).toNat % 65536 else 0
  (Config.identity 0x3C 0 % pow2 15) <<< 33 + 0x5A64 <<< 16 + low

/-- GETPID. -/
def getPid (d : Dev) : Dev := if i3cAnswers d then emit d .i3cData [provisionalId d] else i3cNack d

/-- SETDASA: the agent takes a dynamic address where its static address is named and it has none. -/
def setDasa (d : Dev) (static dyn : Nat) : Dev :=
  if i3cAnswers d && static = 0x5A && d.i3c.address.isNone then { d with i3c := { d.i3c with address := some dyn } }
  else i3cNack d

/-- ENTDAA: an agent without a dynamic address sends its identifier and takes the address it is given. -/
def entDaa (d : Dev) (dyn : Nat) : Dev :=
  if i3cAnswers d && d.i3c.address.isNone then
    emit { d with i3c := { d.i3c with address := some dyn } } .i3cData [provisionalId d, dyn]
  else i3cNack d

/-! ## JTAG (R401) -/

/-- Signal contacts of the management connector in ascending position order: A1 to A40, then B1 to B40 (R397, R401). -/
def scanContacts : List (Bool × Nat) :=
  ([2, 3, 5, 6, 8, 9, 11, 12, 13, 14, 15, 16, 17, 18, 20, 22, 23, 24, 26, 27, 28, 29, 30, 31, 32, 33, 35, 37, 39, 40].map
      fun n => (false, n))
    ++ ([2, 3, 5, 6, 7, 8, 9, 11, 12, 13, 14, 16, 17, 18, 19, 20, 21, 22, 23].map fun n => (true, n))

/-- The GPIO number of a contact. -/
def gpioOf : Bool × Nat → Option Nat
  | (false, n) => if 26 ≤ n ∧ n ≤ 33 then some (n - 26) else none
  | (true, n) => if 16 ≤ n ∧ n ≤ 23 then some (n - 8) else none

/-- What the device's logic gives the output and output-enable cells of a contact: GPIO, MOD_PG, ALERT_N and PHY_RST_N as
their rules say, other contacts a free value (log entry 44). -/
def outCells (d : Dev) (c : Bool × Nat) : Bool × Bool :=
  match gpioOf c with
  | some n => (bit (rd d (ctl R.DIE_GPIO_OUT 0 0)).toNat n, bit (rd d (ctl R.DIE_GPIO_OE 0 0)).toNat n)
  | none =>
    if c = (true, 12) then (true, true)
    else if c = (true, 13) then (false, alertLow d)
    else if c = (true, 14) then (decide (6 ≤ bootStage d), true)
    else
      let v := Config.openValue d.epoch (pow2 40 + (if c.1 then 64 else 0) + c.2)
      (bit v 0, bit v 1)

/-- The chain as Capture-DR loads it: input, output and output enable of each contact. -/
def captured (d : Dev) (pins : List Bool) : List Bool :=
  (scanContacts.zip pins).flatMap fun e =>
    let o := outCells d e.1
    [e.2, o.1, o.2]

/-- A list of bits as a number, the first bit least. -/
def bitsNat (l : List Bool) : Nat := l.foldr (fun b n => 2 * n + b2n b) 0

/-- A scan of the boundary register: what was captured goes out, the bits that came in stay. -/
def boundaryScan (d : Dev) (ir : Nat) (pins scan : List Bool) : Dev :=
  emit (bumpEpoch { d with tap := { d.tap with ir, scan } }) .tdo [ir, bitsNat (captured d pins)]

/-- The TAP is reset: the identification register is selected, as IEEE 1149.1 has it (PRESUMED, log entry 44). -/
def tapReset (d : Dev) : Dev := { d with tap := { d.tap with ir := 2 } }

/-- IDCODE: the register goes out. -/
def tapIdcode (d : Dev) : Dev := emit { d with tap := { d.tap with ir := 2 } } .tdo [2, 0x15A6416B]

/-- BYPASS: one bit, captured as 0 (IEEE 1149.1, PRESUMED, log entry 44), before the bits that come in. -/
def tapBypass (d : Dev) (code : Nat) (scan : List Bool) : Dev :=
  emit { d with tap := { d.tap with ir := code, bypass := scan.getLastD false } } .tdo
    [code, bitsNat (false :: scan.dropLast)]

/-- A scan of the access register: the result of the last access goes out, and the access named starts, unless one is
under way. -/
def tapCtl (d : Dev) (a : Nat) (w : Option Nat) : Dev :=
  let busy := d.tap.pending.isSome
  let d := emit { d with tap := { d.tap with ir := 0x20 } } .tdo
    (if busy then [0x20, 1, 0] else [0x20, d.tap.status, d.tap.data])
  if busy then d
  else if ctlClass a = 0x20 && flag d (ctl R.TRU_STATUS 0 0) F.TRU_STATUS_DEBUG then
    { d with tap := { d.tap with pending := some (a, w) } }
  else tapAccess d a w

end Sys2Proof.Machine
end

