-- ==== Sys2Proof/Machine/Tick.lean ====
section
/-! DEFINITION. Machine/Tick: a tick of the shared tally, which passes where no command waits (log entry 3): the tally,
boot stages, device time, and what counts block cycles (R3, R169, R186, R360, R361, R368). -/

namespace Sys2Proof.Machine

/-- Block cycles in 25 tally ticks at an operating point: 0.90 to 1.65 GHz against 625 MHz (R3, R361). -/
def opRate : Nat → Nat
  | 0 => 36 | 1 => 42 | 2 => 48 | 3 => 54 | 4 => 60 | 5 => 62 | 6 => 64 | _ => 66

/-- What a tick adds to the fraction of a block cycle, in 1,125ths: a stretched clock is 12.5 % or 25 % longer (R368), a
gated one stands still (R366). -/
def phaseStep (d : Dev) (die : Nat) : Nat :=
  let s := ctl R.CLK_DIE_STATUS die 0
  if flag d s F.CLK_DIE_STATUS_GATED then 0
  else
    opRate (fget d s F.CLK_DIE_STATUS_OP) * (match (dieSt d die).droop with
      | some (_, true) => 36
      | some (_, false) => 40
      | none => 45)

/-- A sequencer has begun step cycle 0 and counts on (R169). -/
def counting (q : Sequencer) : Bool :=
  match q.phase with
  | .between | .running | .ended | .done => true
  | _ => false

/-- A frozen sequencer's resume tally has passed, and it counts its lead off (R185). -/
def thawing (tally : Nat) (q : Sequencer) : Bool := (q.resumeAt.map fun t => decide (t < tally)).getD false

/-- A sequencer after `k` cycles of its die: its step cycle goes on unless it is frozen, and a frozen one whose resume
tally has passed counts its lead off, and then the cycles that it is to resume with (R184, R185). While a hold is raised
from step cycle `hold` on, the raise reaches it before it has counted the largest lead. -/
def seqCycles (hold : Option Nat) (tally k : Nat) (q : Sequencer) : Sequencer :=
  if q.frozen then
    if thawing tally q then
      { q with thawed := match hold with
          | some c => max q.thawed (min (q.thawed + k) (q.lead + (c + maxLead - q.cycle)))
          | none => q.thawed + k }
    else q
  else if counting q then
    match hold with
    | some c => { q with cycle := max q.cycle (min (q.cycle + k) (c + maxLead)) }
    | none => { q with cycle := q.cycle + k }
  else q

/-- Of `k` cycles, those in which a sequencer is frozen: it resumes once its lead is counted off. -/
def frozenCycles (tally k : Nat) (q : Sequencer) : Nat :=
  if !q.frozen then 0 else if thawing tally q then min k (q.lead - q.thawed) else k

/-- Of `k` cycles, those in which a claim waits on a forced action (R110): no longer than the action has left. -/
def claimCycles (k : Nat) (x : Block) : Nat :=
  ((x.claims.filterMap (mget x.action)).map fun a => min k a.2).foldl max 0

/-- What the waits of a block count in `k` cycles: passes, chains and issue that wait (R72, R103, R130). A wait for the EAF
unit's turn is a chain's wait for the queue. -/
def stallFx (die b k : Nat) (x : Block) : List Fx :=
  let on (c : Bool) (place : Nat) (f : Fld) : List Fx := if c then [.cnt (ctl place die b) f k] else []
  let held (p : Wait → Bool) : Bool := x.seq.held.any p
  let chain (p : Wait → Bool) : Bool := (x.chains.head?.bind ChainRun.wait).any p
  on x.tileHeld R.SEQ_MQ_STALL_A F.SEQ_MQ_STALL_A_TILE_WAIT
    ++ on (x.passes.any fun p => p.wait.any fun w => w.cause == .basin) R.SEQ_MQ_STALL_A F.SEQ_MQ_STALL_A_CHAIN_WAIT
    ++ on (x.passes.any fun p => p.wait.any fun w => w.cause != .basin) R.SEQ_MQ_STALL_B F.SEQ_MQ_STALL_B_ACT_WAIT
    ++ on x.quartetWait.isSome R.SEQ_MQ_STALL_B F.SEQ_MQ_STALL_B_READER_WAIT
    ++ on (chain fun w => w.cause != .queue) R.VEC_STALL_A F.VEC_STALL_A_OPERAND_WAIT
    ++ on (chain fun w => w.cause == .queue) R.VEC_STALL_A F.VEC_STALL_A_EAF_WAIT
    ++ on (held fun w => w.on == .chainQueue) R.VEC_STALL_B F.VEC_STALL_B_ISSUE_WAIT
    ++ on (held fun w => w.on == .pumpQueue false) R.PMP_STALL_CNT F.PMP_STALL_CNT_QUEUE_FULL
    ++ on (held fun w => w.on == .pumpQueue true) (R.PMP_STALL_CNT + 0x100) F.PMP_STALL_CNT_QUEUE_FULL
    ++ [.cnt (ctl R.CIS_REFRESH_CNT die b) F.CIS_REFRESH_CNT_STALL_CYC (claimCycles k x)]

/-- `k` cycles of the blocks of a die: their sequencers, and what their waits count. -/
def blockCycles (d : Dev) (die k : Nat) : Dev :=
  let mine := d.blocks.filter fun e => e.1 / 24 = die
  applyAll
    { d with blocks := d.blocks.map fun e =>
               if e.1 / 24 = die then
                 (e.1, { e.2 with seq := seqCycles d.step.holdFrom d.tally k e.2.seq
                                  action := e.2.action.map fun a => (a.1, (a.2.1, a.2.2 - k)) })
               else e }
    (mine.flatMap fun e => stallFx die (e.1 % 24) k e.2)

/-- `k` cycles of a compute die: droop stretches, and while a step runs its elapsed and frozen cycles (R186) and its
blocks. -/
def dieCycles (d : Dev) (die k : Nat) : Dev :=
  if k = 0 then d
  else
    let y := dieSt d die
    let d := setDie d die { y with droop := y.droop.map fun e => (e.1 - k, e.2) }
    if !d.step.running then d
    else
      let seqs := (d.blocks.filter fun e => e.1 / 24 = die).map fun e => e.2.seq
      let y := dieSt d die
      let d := if seqs.any counting || d.step.lockstep && d.step.tallied then setDie d die { y with elapsed := y.elapsed + k } else d
      let d := fcnt d (ctl R.DIE_HOLD_CYC die 0) F.DIE_HOLD_CYC_CYCLES ((seqs.map (frozenCycles d.tally k)).foldl max 0)
      blockCycles d die k

/-- A tally tick passes on a die. -/
def dieTick (d : Dev) (die : Nat) : Dev :=
  let p := (dieSt d die).phase + phaseStep d die
  if p = (dieSt d die).phase then d
  else dieCycles (setDie d die { dieSt d die with phase := p % 1125 }) die (p / 1125)

/-- A tick of the tally. While the device is off or held in reset nothing counts. -/
def tick (d : Dev) : Dev :=
  if !d.boot.on || d.boot.inReset then d
  else
    let d := settlePorts (landChanges (linkTick (landCopies (retryLost (agentsTick (timeEdge (bootAdvance { d with tally := d.tally + 1 })))))))
    computeDies.foldl dieTick d

end Sys2Proof.Machine
end

