-- ==== Sys2Proof/Machine/Commands.lean ====
section
/-! DEFINITION. Machine/Commands: what commands with operands of their own do over the shared operations: control writes
that a row of the table names, and events that reach one of several units. -/

namespace Sys2Proof.Machine

/-- A control write by a path. -/
def ctlPut (d : Dev) (p : Path) (a v : Nat) (errs : List LineErr := []) : Dev := (ctlWrite d p a v errs).1

/-- The register that holds a group's APPLY, and the bit (R334, R335); class 0x20 is written where the path's copy of
HAL_COORD routes it (R411). -/
def ApplyGroup.target (d : Dev) (p : Path) : ApplyGroup → Nat × Nat
  | .pumpRing die b pump => (pumpReg R.PMP_RING_APPLY die b (pump == .b), 0)
  | .square die b => (ctl R.SQR_APPLY die b, 0)
  | .placement die => (ctl R.DIE_PLACE_APPLY die 0, 0)
  | .share stack => (ctl R.RSV_APPLY (48 + stack) 0, 0)
  | .aqueduct g => (aqdReg R.AQD_APPLY g, 0)
  | .barrier h s => (barReg R.GAT_BAR_ARRIVED h s, 18)
  | .model => (ctl R.SRV_MT_APPLY (coordCopy d p) 0, 0)
  | .timer die core => (ctl R.HAL_TIMER_APPLY die core, 0)
  | .point => (clkReg R.CLK_OP_APPLY, 0)

/-- Writing 1 to a group's APPLY (R334). -/
def applyArm (d : Dev) (p : Path) (g : ApplyGroup) : Dev :=
  let t := g.target d p
  ctlPut d p t.1 (pow2 t.2)

/-- A control write of a bank's ON bit, the other bits of its register as they stand (R124). -/
def bankSwitch (d : Dev) (p : Path) (die b : Nat) (k : BankId) (on : Nat) : Dev :=
  let r := bankRegs die b k
  ctlPut d p r.1 (setBits (rd d r.1).toNat r.2.2 1 on)

/-- A control write of WEL_MARK_CTRL (R120). -/
def markPut (d : Dev) (p : Path) (die b row : Nat) (narrow : Bool) (gen : Nat) (filled : Bool) : Dev :=
  ctlPut d p (ctl R.WEL_MARK_CTRL die b) (row + b2n narrow * 32768 + gen * 65536 + b2n filled * 524288)

/-- A write of the program store: a word through SEQ_PS_DATA (R161), or a whole program, whose loading reports how it
ended (R162). A load that starts during a step waits for the step boundary. -/
def storeWrite (d : Dev) (w : StoreWrite) : Dev :=
  match w with
  | .word p die b v => ctlPut d p (ctl R.SEQ_PS_DATA die b) v.toNat
  | .program bytes =>
    if d.step.running then { d with step := { d.step with loads := d.step.loads ++ [bytes] } } else runLoad d bytes
  | .fallback m bytes => supplyFallback d m bytes

/-- A consumer that waited on a fill mark sees the generation it expects and goes on (R119): the unit that waits checks its
mark again. A sequencer and a Town Hall consume no marks. -/
def markWaitEnd (d : Dev) (die b : Nat) (c : Consumer) (e : PumpEnv) : Dev :=
  match c with
  | .quartet => quartetStallEnd (quartetLost d die b e.well) die b e.well.bad
  | .tile => tileLoadOn (tileLost d die b e.well) die b e.well.bad
  | .vector => chainIteration (chainLost d die b e.well) die b e.well.bad
  | .eaf => eafAdvance (eafLost d die b e.well) die b e.well.bad
  | .pumpA => pumpGoOn d die b false e
  | .pumpB => pumpGoOn d die b true e
  | .sequencer => d
  | .hall => d

/-- A gate operation written to GAT_OP (R179). -/
def gateCommand (d : Dev) (p : Path) (die gate : Nat) (op : GateOp) : Dev :=
  ctlPut d p (gateReg R.GAT_OP die gate) (op.codes.1 + op.codes.2 * 256)

/-- An access reaches its base die (R198), or a Town Hall's access through the aperture sets out. -/
def reservoirAccess (d : Dev) (a : RsvArrival) : Dev :=
  match a with
  | .queued s n => rsvArrive d s n
  | .aperture a => apertureAccess d a

/-- A base die refreshes its DRAM layers (R203): nothing that the spec gives the device changes by it. -/
def stackRefresh (d : Dev) (_s : Nat) : Dev := d

/-- A training state is done (R218); an Ethernet port that has come up sets out to learn its addresses (R234). -/
def portTrained (d : Dev) (g : Nat) : Dev :=
  let was := aqdEthernetUp d g
  let d := trainingStateDone d g
  if !was && aqdEthernetUp d g then portUp d g else d

/-- Link-control flits arrive (R221); a time-service time stamp is the fabric's time source speaking (R372). -/
def linkMessage (d : Dev) (g n : Nat) (m : LinkMsg) : Dev :=
  let here := aqdFabricUp d g && (aqd d g).refusing.isNone
  let d := linkAck d g n m
  if here && m.time then sourceHeard d 1 else d

/-- A HELLO of the far end arrives, or this end repeats its own, 100 ms after the last where the ends share no version (R253). -/
def hello (d : Dev) (g : Nat) (m : Option HelloMsg) : Dev :=
  match m with
  | some m => helloArrives d g m
  | none =>
    let a := aqd d g
    if trainState d g = 4 && !ethernet d g && a.noVersion && a.helloAt + msTicks 100 ≤ d.tally then sendHello d g else d

/-- A flit or a control frame that nothing knows is dropped and counted (R240, R260, R333). -/
def flitDropped (d : Dev) (e : DropEvent) : Dev :=
  match e with
  | .express x eop args => flitDrop d x eop.toNat args.toList
  | .control => ctlDrop d

/-- MBX_CTRL is written with ENABLE 0 and its other fields as they stand (R341). -/
def mbxDisable (d : Dev) (p : Path) (die m : Nat) : Dev :=
  let a := mbxReg R.MBX_CTRL die m
  ctlPut d p a (setBits (rd d a).toNat F.MBX_CTRL_ENABLE.lo 1 0)

/-- SRV_ST_CTRL is written with RSV_GO and its other fields as they stand (R388). -/
def reservoirTestGo (d : Dev) (p : Path) : Dev :=
  ctlPut d p (ctl R.SRV_ST_CTRL (coordCopy d p) 0) ((rd d (srvReg R.SRV_ST_CTRL)).toNat % 8192 + 8192)

end Sys2Proof.Machine
end

