-- ==== Sys2Proof/Machine/State.lean ====
section
/-! DEFINITION. Machine/State: the state of the model, a device and the queue of commands that wait for it, and why a step
can stop. Plain data. -/

namespace Sys2Proof.Machine

/-- No command of this model ends in a fault: what goes wrong in the device is recorded in its registers, and the device
goes on (R191, R193). -/
inductive Fault where
deriving DecidableEq, Repr

/-- Why a command is refused: none is. -/
inductive Refusal where
  /-- A command without a meaning in this model, by its mnemonic. No arm of `exec` raises it. Safe: the machine stops. -/
  | notModelled (mnemonic : String)
deriving DecidableEq, Repr

/-- The device, and the commands that wait, first in, first out. -/
structure State where
  dev : Dev := {}
  pending : List Instr := []
deriving DecidableEq, Repr

/-- The machine right after reset (R10, R402): every register at its reset value, nothing stored in a memory, MOD_PG high
and MOD_RST_N just released, boot not begun; no command waits. -/
def State.reset : State := {}

end Sys2Proof.Machine
end

