-- ==== Sys2Proof/WellFormed.lean ====
section
/-! DEFINITION. WellFormed: which operands a command can bring. Most operand types hold only what can come; the checks here
are the bounds that a type does not carry. -/

namespace Sys2Proof.Machine

/-- The bytes of a window frame: 1 to 4,096 (R243). -/
def frameLength (bytes : List Byte) : Bool := decide (1 ≤ bytes.length) && decide (bytes.length ≤ 4096)

/-- An access through the aperture brings as many bytes as it is wide. -/
def RsvArrival.wellFormed : RsvArrival → Bool
  | .queued _ _ => true
  | .aperture a => a.data.all fun bs => bs.length == a.width

/-- The fields of a HELLO (R253). -/
def HelloMsg.wellFormed (m : HelloMsg) : Bool :=
  decide (m.verMin < 256) && decide (m.verMax < 256) && decide (m.edition < 65536)

/-- The fields of a discovery record (R254). -/
def DiscoveryRecord.wellFormed (r : DiscoveryRecord) : Bool :=
  decide (r.verMin < 256) && decide (r.verMax < 256) && decide (r.edition < 65536) && decide (r.flags < 256)
    && decide (r.capacity < 256) && r.identity.length == 8 && r.models.length == 8

/-- The fields of a GROUP_FORM (R256). -/
def GroupFormMsg.wellFormed : GroupFormMsg → Bool
  | .start num edition _ => decide (num < 65536) && decide (edition < 65536)
  | .arrive _ num gen edition _ => decide (num < 65536) && decide (gen < 65536) && decide (edition < 65536)

/-- What is dropped as unknown is not an operation of R240, or is a BARRIER of a type or slot that R260 does not give. -/
def DropEvent.wellFormed : DropEvent → Bool
  | .express _ eop args =>
    (eop == 0 || decide (10 < eop.toNat)) || (eop == 9 && (decide (2 ≤ args[0].toNat) || decide (64 ≤ args[1].toNat)))
  | .control => true

end Sys2Proof.Machine

namespace Sys2Proof

open Sys2Proof.Machine

/-- A command as one can come. -/
def Instr.wellFormed : Instr → Bool
  | .reservoirAccess a => a.wellFormed
  | .hello _ msg => msg.all HelloMsg.wellFormed
  | .write _ _ bytes => frameLength bytes
  | .readResp _ _ bytes => frameLength bytes
  | .ack _ records => decide (1 ≤ records.length) && decide (records.length ≤ 6)
  | .creditReq _ _ _ _ wanted => decide (1 ≤ wanted.val)
  | .expressFlitDrop e => e.wellFormed
  | .discoveryReceive _ r => r.wellFormed
  | .rosterReceive _ l => l.all DiscoveryRecord.wellFormed
  | .groupForm m => m.wellFormed
  | .bypass code _ => decide (¬ code.toNat ∈ [0, 1, 2, 0x20])
  | .powerUp .. | .inputUndervoltage | .inputOvervoltage | .inputBandChange .. | .modRstNRise .. | .modRstNFall
  | .bootRetry .. | .referenceLost | .referenceRestored | .ppsInEdge | .ppsOutPulse | .temperatureSample ..
  | .ceilingLower .. | .ceilingRaise .. | .ceilingChange | .opRaiseAllowed | .supplyCeilingLower ..
  | .supplyCeilingRaise .. | .opApply | .voltageRampDone | .droopStretch .. | .droopStretchEnd .. | .railAlert ..
  | .timeStep .. | .timeRate .. | .timeSourceSilent | .tallyRead .. | .timeRead .. | .rcCounterRead ..
  | .registerWrite .. | .applyArm .. | .pumpRingApply .. | .squareRetireApply .. | .placementApply ..
  | .reservoirShareApply .. | .aqueductCtrlApply .. | .barrierSlotApply .. | .modelTableApply ..
  | .coreTimerApply .. | .refreshTick .. | .opportunisticRefresh .. | .refreshActionEnd .. | .groundRepairDone ..
  | .bankPowerDown .. | .bankWake .. | .bankReady .. | .markWrite .. | .zeroRangeGo .. | .zeroRangeDone ..
  | .programStoreWrite .. | .startTally .. | .blockStepStart .. | .zeroFillDone .. | .unitStart .. | .blockDone ..
  | .pass .. | .entryComplete .. | .tileReady .. | .quartetStallEnd .. | .readReplay .. | .chainIssue ..
  | .chainIteration .. | .vectorStoreLand .. | .nop .. | .end_ .. | .loop .. | .gsig .. | .gwait .. | .gset ..
  | .fence .. | .eclr .. | .edepb .. | .edepw .. | .edeps .. | .edept .. | .ernd .. | .ests .. | .estt ..
  | .addrSet .. | .addrAdd .. | .addrSethi .. | .addrMov .. | .descriptorIssue .. | .ringDoorbell ..
  | .pumpWriteLand .. | .descriptorComplete .. | .readMerge .. | .linkRetry .. | .bridgeLaneRetire ..
  | .bridgeStateChange .. | .fountainFrameAccept .. | .fountainAcceptance .. | .fountainCreditReturn ..
  | .fntStall .. | .fountainTargetRefused .. | .fntEntryCommit .. | .fntListCommit .. | .signal .. | .consume ..
  | .setThresh .. | .addThresh .. | .reset .. | .hallwaitArm .. | .holdArrive .. | .holdRelease | .holdResume ..
  | .stepAbort | .abortEnd | .stepWatchdogExpiry | .dieStepComplete .. | .stepComplete | .stepReplay
  | .reservoirService .. | .pageEntryWrite .. | .pageZeroFillDone .. | .stackRefresh .. | .conversationExpiry ..
  | .condensingChange | .trainingStateDone .. | .trainingTimeout .. | .laneMapExchange .. | .mapRetryWait ..
  | .laserSample .. | .laserRestored .. | .codewordNack .. | .linkAck .. | .errorCountRelease ..
  | .laneRetireReq .. | .laneMapSwitch .. | .laneLoss .. | .ethFrameRx .. | .writeLanded .. | .credit ..
  | .gateOp .. | .gateAck .. | .mbxPart .. | .mbxAck .. | .abort .. | .windowOpen .. | .windowClose ..
  | .windowDrained .. | .transactionTimeout .. | .discoverySend | .rosterPublish | .partnerSilent ..
  | .groupJoin .. | .groupCommit .. | .arrive .. | .release .. | .barrierGenerationWrite .. | .snapshotDrainDone
  | .snapshotDrainTimeout | .request .. | .cancelRecord .. | .rstStream .. | .cancel .. | .deadlineExpiry ..
  | .activeMaskLoad .. | .commitPoint | .hold .. | .holdAck .. | .released .. | .migrate .. | .relay ..
  | .ctlRead .. | .ctlWrite .. | .ctlResp .. | .windowReady .. | .pageRequest .. | .pageRefused .. | .tenantSet .. | .modelPart .. | .modelCommit ..
  | .modelRemove .. | .retire .. | .manifestCheck .. | .shardStaged .. | .shardDigestDone .. | .shardPlace ..
  | .scrubInterval .. | .scrubRunDone .. | .pageRepair .. | .attestRequest .. | .attestSigned | .txGo ..
  | .mbxDrain .. | .mailboxTimeout .. | .mbxEnableClear .. | .heartbeat | .coordinatorTakeover | .i3cRead ..
  | .i3cWrite .. | .i3cResult | .getpid | .setdasa .. | .entdaa .. | .tapReset | .extest .. | .samplePreload ..
  | .idcode | .ctlAccessRead .. | .ctlAccessWrite .. | .retirementDecision | .gateRehome .. | .selftestSlice ..
  | .selftestInterval .. | .reservoirTestStart .. | .liveUpdate .. | .machineTimerInterrupt ..
  | .wellApertureWrite .. | .programStoreRead .. | .reservoirTestDone .. | .refusedRead .. | .tileLoadStart ..
  | .fillMarkWaitEnd .. | .copy .. | .gather .. | .scatter .. | .unskew16 .. | .skew16 .. | .readReq ..
  | .scrubRunStart .. => true

end Sys2Proof
end

