-- ==== Sys2Proof/Machine/Act.lean ====
section
/-! DEFINITION. Machine/Act: how every command acts. One that needs a device that runs finds the device unchanged
where it is off or held in reset; one whose operands nothing can bring (WellFormed.lean) is no event and changes nothing;
the queue of commands stays as it is. -/

namespace Sys2Proof.Machine

/-- Rails are up and MOD_RST_N is high (R358, R402). -/
def powered (d : Dev) : Bool := d.boot.on && !d.boot.inReset

/-- Rails are up: enough for the boundary scan (R401). -/
def switchedOn (d : Dev) : Bool := d.boot.on

/-- The input and the reset pin act whatever the device does (R358, R402). -/
def always (_ : Dev) : Bool := true

/-- A command acts on the device. -/
def act (i : Instr) (acts : Dev → Bool) (f : Dev → Dev) (s : State) : Host.Outcome State Fault Refusal :=
  .next (if i.wellFormed && acts s.dev then { s with dev := f s.dev } else s)

end Sys2Proof.Machine
end

