-- ==== Sys2Proof/Machine/CmdAgents.lean ====
section
/-! DEFINITION. Machine/CmdAgents: the commands of the I3C and JTAG agents (R400, R401), one meaning each over the operations that
Machine/ shares. -/

namespace Sys2Proof.Machine

/-- I3C_READ (R400). -/
def execI3cRead (bytes : List Byte) (s : State) : Host.Outcome State Fault Refusal :=
  act (.i3cRead bytes) powered (fun d => if i3cOther 1 bytes then d else i3cWriteTransfer d 1 bytes) s

/-- I3C_WRITE (R400). -/
def execI3cWrite (bytes : List Byte) (s : State) : Host.Outcome State Fault Refusal :=
  act (.i3cWrite bytes) powered (fun d => if i3cOther 2 bytes then d else i3cWriteTransfer d 2 bytes) s

/-- I3C_RESULT (R400). -/
def execI3cResult (s : State) : Host.Outcome State Fault Refusal :=
  act (.i3cResult) powered (fun d => i3cResult d) s

/-- GETPID (R400). -/
def execGetpid (s : State) : Host.Outcome State Fault Refusal :=
  act (.getpid) powered (fun d => getPid d) s

/-- SETDASA (R400). -/
def execSetdasa (static : Fin 128) (dyn : Fin 128) (s : State) : Host.Outcome State Fault Refusal :=
  act (.setdasa static dyn) powered (fun d => setDasa d static dyn) s

/-- ENTDAA (R400). -/
def execEntdaa (dyn : Fin 128) (s : State) : Host.Outcome State Fault Refusal :=
  act (.entdaa dyn) powered (fun d => entDaa d dyn) s

/-- TAP_RESET (R401). -/
def execTapReset (s : State) : Host.Outcome State Fault Refusal :=
  act (.tapReset) switchedOn (fun d => tapReset d) s

/-- EXTEST (R401). -/
def execExtest (pins : Vector Bool 49) (scan : Vector Bool 147) (s : State) : Host.Outcome State Fault Refusal :=
  act (.extest pins scan) switchedOn (fun d => boundaryScan d 0 pins.toList scan.toList) s

/-- SAMPLE_PRELOAD (R401). -/
def execSamplePreload (pins : Vector Bool 49) (scan : Vector Bool 147) (s : State) : Host.Outcome State Fault Refusal :=
  act (.samplePreload pins scan) switchedOn (fun d => boundaryScan d 1 pins.toList scan.toList) s

/-- IDCODE (R401). -/
def execIdcode (s : State) : Host.Outcome State Fault Refusal :=
  act (.idcode) switchedOn (fun d => tapIdcode d) s

/-- BYPASS (R401). -/
def execBypass (code : Byte) (scan : List Bool) (s : State) : Host.Outcome State Fault Refusal :=
  act (.bypass code scan) switchedOn (fun d => tapBypass d code.toNat scan) s

/-- CTL_ACCESS_READ (R401). -/
def execCtlAccessRead (a : Word) (s : State) : Host.Outcome State Fault Refusal :=
  act (.ctlAccessRead a) powered (fun d => tapCtl d a.toNat none) s

/-- CTL_ACCESS_WRITE (R401). -/
def execCtlAccessWrite (a : Word) (v : Word) (s : State) : Host.Outcome State Fault Refusal :=
  act (.ctlAccessWrite a v) powered (fun d => tapCtl d a.toNat (some v.toNat)) s

end Sys2Proof.Machine
end

