-- ==== Sys2Proof/Machine/CmdAqueduct.lean ====
section
/-! DEFINITION. Machine/CmdAqueduct: the commands of aqueducts (R216 to R233, R253), one meaning each over the operations that
Machine/ shares. -/

namespace Sys2Proof.Machine

/-- TRAINING_STATE_DONE (R218). -/
def execTrainingStateDone (g : AqdId) (s : State) : Host.Outcome State Fault Refusal :=
  act (.trainingStateDone g) powered (fun d => portTrained d g) s

/-- TRAINING_TIMEOUT (R218). -/
def execTrainingTimeout (g : AqdId) (s : State) : Host.Outcome State Fault Refusal :=
  act (.trainingTimeout g) powered (fun d => trainingTimeout d g) s

/-- LANE_MAP_EXCHANGE (R219). -/
def execLaneMapExchange (g : AqdId) (own : BitVec 8) (far : BitVec 8) (farLaser : BitVec 8)
    (s : State) : Host.Outcome State Fault Refusal :=
  act (.laneMapExchange g own far farLaser) powered (fun d => laneMapExchange d g own.toNat far.toNat farLaser.toNat) s

/-- MAP_RETRY_WAIT (R219). -/
def execMapRetryWait (g : AqdId) (s : State) : Host.Outcome State Fault Refusal :=
  act (.mapRetryWait g) powered (fun d => mapRetryWait d g) s

/-- LASER_SAMPLE (R217). -/
def execLaserSample (h : HeadId) (input : LaserInput) (power : BitVec 16)
    (s : State) : Host.Outcome State Fault Refusal :=
  act (.laserSample h input power) powered (fun d => laserSample d h input power) s

/-- LASER_RESTORED (R229). -/
def execLaserRestored (h : HeadId) (input : LaserInput) (s : State) : Host.Outcome State Fault Refusal :=
  act (.laserRestored h input) powered (fun d => laserRestored d h input) s

/-- CODEWORD_NACK (R225). -/
def execCodewordNack (g : AqdId) (e : PairEvent) (s : State) : Host.Outcome State Fault Refusal :=
  act (.codewordNack g e) powered (fun d => codewordNack d g e) s

/-- LINK_ACK (R226). -/
def execLinkAck (g : AqdId) (n : Nat) (m : LinkMsg) (s : State) : Host.Outcome State Fault Refusal :=
  act (.linkAck g n m) powered (fun d => linkMessage d g n m) s

/-- ERROR_COUNT_RELEASE (R227). -/
def execErrorCountRelease (g : AqdId) (s : State) : Host.Outcome State Fault Refusal :=
  act (.errorCountRelease g) powered (fun d => errorCountRelease d g) s

/-- LANE_RETIRE_REQ (R228). -/
def execLaneRetireReq (p : Path) (g : AqdId) (lanes : BitVec 8) (s : State) : Host.Outcome State Fault Refusal :=
  act (.laneRetireReq p g lanes) powered (fun d => ctlPut d p (aqdReg R.AQD_LANE_RET g) (lanes.toNat * 65536)) s

/-- LANE_MAP_SWITCH (R228). -/
def execLaneMapSwitch (g : AqdId) (far : Option (BitVec 8 × Fin 65536)) (s : State) : Host.Outcome State Fault Refusal :=
  act (.laneMapSwitch g far) powered (fun d => laneMapSwitch d g (far.map fun f => (f.1.toNat, f.2.val))) s

/-- LANE_LOSS (R228). -/
def execLaneLoss (g : AqdId) (lane : Fin 8) (s : State) : Host.Outcome State Fault Refusal :=
  act (.laneLoss g lane) powered (fun d => laneLoss d g lane) s

/-- ETH_FRAME_RX (R231). -/
def execEthFrameRx (g : AqdId) (frame : List Byte) (s : State) : Host.Outcome State Fault Refusal :=
  act (.ethFrameRx g frame) powered (fun d => netFrameRx d g frame) s

/-- HELLO (R253). -/
def execHello (g : AqdId) (msg : Option HelloMsg) (s : State) : Host.Outcome State Fault Refusal :=
  act (.hello g msg) powered (fun d => hello d g msg) s

end Sys2Proof.Machine
end

