-- ==== Sys2Proof/Machine/CmdContinuity.lean ====
section
/-! DEFINITION. Machine/CmdContinuity: the commands of retirement, self-test, live update (R375 to R393), one meaning each over the
operations that Machine/ shares. -/

namespace Sys2Proof.Machine

/-- RETIREMENT_DECISION (R381). -/
def execRetirementDecision (s : State) : Host.Outcome State Fault Refusal :=
  act (.retirementDecision) powered (fun d => reviewConvs (retirementDecision d)) s

/-- GATE_REHOME (R384). -/
def execGateRehome (p : Path) (die : DieId) (blocks : BitVec 24) (s : State) : Host.Outcome State Fault Refusal :=
  act (.gateRehome p die blocks) powered (fun d => ctlPut d p (ctl R.DIE_GATE_REHOME die 0) blocks.toNat) s

/-- SELFTEST_SLICE (R387). -/
def execSelftestSlice (die : DieId) (b : BlockId) (pass : Bool) (s : State) : Host.Outcome State Fault Refusal :=
  act (.selftestSlice die b pass) powered (fun d => selftestSlice d die b pass) s

/-- SELFTEST_INTERVAL (R387). -/
def execSelftestInterval (die : DieId) (b : BlockId) (s : State) : Host.Outcome State Fault Refusal :=
  act (.selftestInterval die b) powered (fun d => selftestInterval d die b) s

/-- RESERVOIR_TEST_START (R388). -/
def execReservoirTestStart (p : Path) (s : State) : Host.Outcome State Fault Refusal :=
  act (.reservoirTestStart p) powered (fun d => reservoirTestGo d p) s

/-- LIVE_UPDATE (R389). -/
def execLiveUpdate (u : UpdateInput) (s : State) : Host.Outcome State Fault Refusal :=
  act (.liveUpdate u) powered (fun d => liveUpdate d u) s

/-- RESERVOIR_TEST_DONE (R388). -/
def execReservoirTestDone (bad : List (Fin 393216)) (s : State) : Host.Outcome State Fault Refusal :=
  act (.reservoirTestDone bad) powered (fun d => reservoirTestDone d (bad.map Fin.val)) s

end Sys2Proof.Machine
end

