-- ==== Sys2Proof/Machine/CmdControl.lean ====
section
/-! DEFINITION. Machine/CmdControl: the commands of control accesses and apply groups (R9, R328 to R335), one meaning each over the
operations that Machine/ shares. -/

namespace Sys2Proof.Machine

/-- RC_COUNTER_READ (R9). -/
def execRcCounterRead (c : CtlAccess) (s : State) : Host.Outcome State Fault Refusal :=
  act (.rcCounterRead c) powered (fun d => readAccess d c) s

/-- REGISTER_WRITE (R9). -/
def execRegisterWrite (c : CtlAccess) (v : Word) (s : State) : Host.Outcome State Fault Refusal :=
  act (.registerWrite c v) powered (fun d => writeAccess d c v.toNat) s

/-- APPLY_ARM (R334). -/
def execApplyArm (p : Path) (g : ApplyGroup) (s : State) : Host.Outcome State Fault Refusal :=
  act (.applyArm p g) powered (fun d => applyArm d p g) s

/-- PUMP_RING_APPLY (R335). -/
def execPumpRingApply (die : DieId) (b : BlockId) (pump : PumpId) (s : State) : Host.Outcome State Fault Refusal :=
  act (.pumpRingApply die b pump) powered (fun d => ringApply d die b (pump == .b)) s

/-- SQUARE_RETIRE_APPLY (R144). -/
def execSquareRetireApply (die : DieId) (b : BlockId) (s : State) : Host.Outcome State Fault Refusal :=
  act (.squareRetireApply die b) powered (fun d => squareApply d die b) s

/-- PLACEMENT_APPLY (R165). -/
def execPlacementApply (die : DieId) (s : State) : Host.Outcome State Fault Refusal :=
  act (.placementApply die) powered (fun d => placementApply d die) s

/-- RESERVOIR_SHARE_APPLY (R200). -/
def execReservoirShareApply (stack : StackId) (s : State) : Host.Outcome State Fault Refusal :=
  act (.reservoirShareApply stack) powered (fun d => shareApply d stack) s

/-- AQUEDUCT_CTRL_APPLY (R230). -/
def execAqueductCtrlApply (g : AqdId) (s : State) : Host.Outcome State Fault Refusal :=
  act (.aqueductCtrlApply g) powered (fun d => aqueductCtrlApply d g) s

/-- BARRIER_SLOT_APPLY (R259). -/
def execBarrierSlotApply (h : HeadId) (slot : Fin 64) (s : State) : Host.Outcome State Fault Refusal :=
  act (.barrierSlotApply h slot) powered (fun d => barSlotApply d h slot) s

/-- MODEL_TABLE_APPLY (R287). -/
def execModelTableApply (m : Fin 64) (target : Option (Fin 65536)) (s : State) : Host.Outcome State Fault Refusal :=
  act (.modelTableApply m target) powered (fun d => modelApply d m (target.map Fin.val)) s

/-- CORE_TIMER_APPLY (R335). -/
def execCoreTimerApply (die : DieId) (core : CoreId) (s : State) : Host.Outcome State Fault Refusal :=
  act (.coreTimerApply die core) powered (fun d => timerApply d die core) s

end Sys2Proof.Machine
end

