-- ==== Sys2Proof/Machine/CmdControlOps.lean ====
section
/-! DEFINITION. Machine/CmdControlOps: the commands of the control and address slots of bundles (R170, R172 to R174), one meaning each
over the operations that Machine/ shares. -/

namespace Sys2Proof.Machine

/-- NOP (R172). -/
def execNop (die : DieId) (b : BlockId) (env : WellEnv) (s : State) : Host.Outcome State Fault Refusal :=
  act (.nop die b env) powered (fun d => seqControl d die b env fun o => match o with | .nop => true | _ => false) s

/-- END (R172). -/
def execEnd (die : DieId) (b : BlockId) (env : WellEnv) (s : State) : Host.Outcome State Fault Refusal :=
  act (.end_ die b env) powered (fun d => seqControl d die b env fun o => match o with | .end_ => true | _ => false) s

/-- LOOP (R174). -/
def execLoop (die : DieId) (b : BlockId) (env : WellEnv) (s : State) : Host.Outcome State Fault Refusal :=
  act (.loop die b env) powered
    (fun d => seqControl d die b env fun o => match o with | .loop .. => true | _ => false) s

/-- GSIG (R172). -/
def execGsig (die : DieId) (b : BlockId) (env : WellEnv) (s : State) : Host.Outcome State Fault Refusal :=
  act (.gsig die b env) powered
    (fun d => seqControl d die b env fun o => match o with | .gsig .. => true | _ => false) s

/-- GWAIT (R172). -/
def execGwait (die : DieId) (b : BlockId) (env : WellEnv) (s : State) : Host.Outcome State Fault Refusal :=
  act (.gwait die b env) powered
    (fun d => seqControl d die b env fun o => match o with | .gwait _ => true | _ => false) s

/-- GSET (R172). -/
def execGset (die : DieId) (b : BlockId) (env : WellEnv) (s : State) : Host.Outcome State Fault Refusal :=
  act (.gset die b env) powered
    (fun d => seqControl d die b env fun o => match o with | .gset .. => true | _ => false) s

/-- FENCE (R172). -/
def execFence (die : DieId) (b : BlockId) (env : WellEnv) (s : State) : Host.Outcome State Fault Refusal :=
  act (.fence die b env) powered
    (fun d => seqControl d die b env fun o => match o with | .fence _ => true | _ => false) s

/-- ECLR (R172). -/
def execEclr (die : DieId) (b : BlockId) (env : WellEnv) (s : State) : Host.Outcome State Fault Refusal :=
  act (.eclr die b env) powered (fun d => seqEaf d die b env fun o => match o with | .eclr .. => true | _ => false) s

/-- EDEPB (R172). -/
def execEdepb (die : DieId) (b : BlockId) (env : WellEnv) (s : State) : Host.Outcome State Fault Refusal :=
  act (.edepb die b env) powered (fun d => seqEaf d die b env fun o => match o with | .edepb .. => true | _ => false) s

/-- EDEPW (R172). -/
def execEdepw (die : DieId) (b : BlockId) (env : WellEnv) (s : State) : Host.Outcome State Fault Refusal :=
  act (.edepw die b env) powered (fun d => seqEaf d die b env fun o => match o with | .edepw .. => true | _ => false) s

/-- EDEPS (R173). -/
def execEdeps (die : DieId) (b : BlockId) (env : WellEnv) (s : State) : Host.Outcome State Fault Refusal :=
  act (.edeps die b env) powered (fun d => seqEaf d die b env fun o => match o with | .edeps .. => true | _ => false) s

/-- EDEPT (R173). -/
def execEdept (die : DieId) (b : BlockId) (env : WellEnv) (s : State) : Host.Outcome State Fault Refusal :=
  act (.edept die b env) powered (fun d => seqEaf d die b env fun o => match o with | .edept .. => true | _ => false) s

/-- ERND (R172). -/
def execErnd (die : DieId) (b : BlockId) (env : WellEnv) (s : State) : Host.Outcome State Fault Refusal :=
  act (.ernd die b env) powered (fun d => seqEaf d die b env fun o => match o with | .ernd .. => true | _ => false) s

/-- ESTS (R173). -/
def execEsts (die : DieId) (b : BlockId) (env : WellEnv) (s : State) : Host.Outcome State Fault Refusal :=
  act (.ests die b env) powered (fun d => seqEaf d die b env fun o => match o with | .ests .. => true | _ => false) s

/-- ESTT (R173). -/
def execEstt (die : DieId) (b : BlockId) (env : WellEnv) (s : State) : Host.Outcome State Fault Refusal :=
  act (.estt die b env) powered (fun d => seqEaf d die b env fun o => match o with | .estt .. => true | _ => false) s

/-- ADDR_SET (R170). -/
def execAddrSet (die : DieId) (b : BlockId) (env : WellEnv) (s : State) : Host.Outcome State Fault Refusal :=
  act (.addrSet die b env) powered
    (fun d => seqAddress d die b env fun o => match o with | .set .. => true | _ => false) s

/-- ADDR_ADD (R170). -/
def execAddrAdd (die : DieId) (b : BlockId) (env : WellEnv) (s : State) : Host.Outcome State Fault Refusal :=
  act (.addrAdd die b env) powered
    (fun d => seqAddress d die b env fun o => match o with | .add .. => true | _ => false) s

/-- ADDR_SETHI (R170). -/
def execAddrSethi (die : DieId) (b : BlockId) (env : WellEnv) (s : State) : Host.Outcome State Fault Refusal :=
  act (.addrSethi die b env) powered
    (fun d => seqAddress d die b env fun o => match o with | .sethi .. => true | _ => false) s

/-- ADDR_MOV (R170). -/
def execAddrMov (die : DieId) (b : BlockId) (env : WellEnv) (s : State) : Host.Outcome State Fault Refusal :=
  act (.addrMov die b env) powered
    (fun d => seqAddress d die b env fun o => match o with | .mov .. => true | _ => false) s

end Sys2Proof.Machine
end

