-- ==== Sys2Proof/Machine/Shards.lean ====
section
/-! DEFINITION. Machine/Shards: how the shards of a model reach the devices of a precinct: the choice of loaders (R275), the
pieces that a loader sends and the staging windows that recipients open (R277). -/

namespace Sys2Proof.Machine

/-! ## Loaders (R275) -/

/-- The live members of the precinct that serve the model, in ascending address: the device itself and the members of its
roster whose discovery record shows the same model table (log entry 101). -/
def servingMembers (d : Dev) : List Nat :=
  let own := ownRecord d
  ((precinct d).filter fun p => p.fa == own.fa || (d.roster.contains p.fa && p.models == own.models)).map Partner.fa

/-- The loaders of a manifest that has just been accepted. -/
def chooseLoaders (m : Nat) (d : Dev) : Dev :=
  let x := model d m
  match x.staged with
  | some e => if e.members.isEmpty then setModel d m { x with staged := some { e with members := servingMembers d } } else d
  | none => d

/-- A shard that is being received starts over: its staging pages are freed and its windows close. -/
def dropReceiving (d : Dev) (m : Nat) (e : EpochRec) (i : Nat) (s : Shard) (p : Nat) : Dev :=
  let mine (w : StageWin) : Bool := w.model == m && w.epoch == e.epoch && w.shard == i
  let d := (d.srv.stageWins.filter mine).foldl (fun d w => if w.opened then closeWindow d w.window else d) d
  let d := freePageRun { d with srv := { d.srv with stageWins := d.srv.stageWins.filter fun w => !mine w } } p (pagesFor s.length)
  updEpoch d m e.epoch fun e => { e with stages := e.stages.set i .waiting }

/-- The loader's part of a shard starts over: what is being sent of it ends, and a device that no longer is its loader frees
the pages that it does not need itself. -/
def dropLoading (d : Dev) (m : Nat) (e : EpochRec) (i : Nat) (s : Shard) (st : ShardStage) : Dev :=
  let mine (x : FwSend) : Bool := match x.piece with
    | some (a, b, c, _) => a == m && b == e.epoch && c == i
    | none => false
  let d := { d with srv := { d.srv with sends := d.srv.sends.filter fun x => !mine x,
                                        ready := d.srv.ready.filter fun r => r.digest8 != s.digest.take 8 } }
  let l := loading e i
  if isLoader d e i then updEpoch d m e.epoch fun e => { e with loads := mset e.loads i { page := l.page } }
  else
    let own := match st with
      | .staged _ | .verified _ => true
      | _ => false
    let d := match l.page with
      | some p => if own then d else freePageRun d p (pagesFor s.length)
      | none => d
    updEpoch d m e.epoch fun e => { e with loads := mdel e.loads i }

/-! ## Recipients (R277) -/

/-- Stores the staging windows. -/
def setWins (d : Dev) (l : List StageWin) : Dev := { d with srv := { d.srv with stageWins := l } }

/-- The pieces of a shard, of 1 MiB each but for the last. -/
def pieceCount (s : Shard) : Nat := (s.length + 1048575) / 1048576

/-- The bytes of a piece. -/
def pieceBytes (s : Shard) (k : Nat) : Nat := min 1048576 (s.length - k * 1048576)

/-- The offsets of the frames of a piece. -/
def pieceFrames (s : Shard) (k : Nat) : Nat := (pieceBytes s k + 4095) / 4096

/-- The next piece of a shard for which no window has been named. -/
def nextPiece (d : Dev) (m ep i : Nat) (landed : List Nat) : Nat :=
  let open_ := (d.srv.stageWins.filter fun w => w.model == m && w.epoch == ep && w.shard == i).map StageWin.piece
  (landed ++ open_).foldl (fun n k => max n (k + 1)) 0

/-- A piece has landed whole in its window: the window closes, to be opened for the next piece, and a shard of which every
piece has landed is staged. -/
def pieceLanded (d : Dev) (w : StageWin) : Dev :=
  match shardAt d w.model w.epoch w.shard with
  | some (_, s, .receiving p landed) =>
    if !w.opened || w.got.length < pieceFrames s w.piece then d
    else
      let d := closeWindow d w.window
      let next := nextPiece d w.model w.epoch w.shard landed
      let rest := d.srv.stageWins.filter fun o => o.window != w.window
      let d := setWins d (if next < pieceCount s then rest ++ [{ w with piece := next, got := [], opened := false }] else rest)
      let landed := landed ++ [w.piece]
      let st : ShardStage := if landed.length = pieceCount s then .staged p else .receiving p landed
      updEpoch d w.model w.epoch fun e => { e with stages := e.stages.set w.shard st }
  | _ => d

/-- A staging window of 1 MiB is opened for its piece, and reported to the loader. -/
def openStaging (d : Dev) (w : StageWin) : Dev :=
  match shardAt d w.model w.epoch w.shard with
  | some (e, s, .receiving p _) =>
    match loaderOf e w.shard with
    | none => d
    | some fa =>
      if w.opened || (window d w.window).state ≠ 0 then d
      else
        let d := openStagingAt d w.window (p * 2097152 + w.piece * 1048576) 1048576
        let d := setWins d (d.srv.stageWins.map fun o => if o.window = w.window then { o with opened := true } else o)
        sendTo d fa 6 .service [leaveBy d fa, fa, 1, w.window, (window d w.window).gen, w.piece] (s.digest.take 8)
  | _ => d

/-- The device is to receive a shard from its loader. -/
def receivesShard (d : Dev) (e : EpochRec) (i : Nat) (s : Shard) (st : ShardStage) : Bool :=
  needed e s && st == .waiting && !isLoader d e i && (loaderOf e i).isSome && mgetD e.tries i 0 < 2

/-- The next shard that the device is to receive takes staging pages and up to 8 CLOSED windows, the lowest ones. Shards are
received one after another (log entry 101). -/
def startReceiving (d : Dev) : Dev :=
  let all := (modelEpochs d).flatMap fun x => x.2.numbered.map fun p => (x.1, x.2, p)
  if all.any fun q => match q.2.2.2.2 with
    | .receiving .. => true
    | _ => false
  then d
  else match all.find? fun q => receivesShard d q.2.1 q.2.2.1 q.2.2.2.1 q.2.2.2.2 with
    | none => d
    | some (m, e, i, s, _) =>
      let ws := takeFrom (fun w => (window d w).state == 0) 4096 0 (min 8 (pieceCount s))
      if ws.isEmpty then d
      else match stagePages d s with
        | none => d
        | some (p, d) =>
          let d := updEpoch d m e.epoch fun e => { e with stages := e.stages.set i (.receiving p []) }
          setWins d (d.srv.stageWins ++ ws.mapIdx fun k w => { window := w, model := m, epoch := e.epoch, shard := i, piece := k })

/-! ## Loaders at work (R277) -/

/-- A recipient's report is answered with its piece where the shard is staged here; until then it waits. -/
def serveReport (d : Dev) (r : ReadyMsg) : Dev :=
  match (modelEpochs d).findSome? fun x =>
      (x.2.numbered.find? fun p => p.2.1.digest.take 8 == r.digest8 && isLoader d x.2 p.1).map fun p => (x, p) with
  | none => d
  | some ((m, e), (i, s, _)) =>
    let l := loading e i
    let l := { l with done := false, askers := (l.askers ++ [r.src]).eraseDups, served := l.served.filter fun q => q != (r.src, r.piece) }
    let d := updEpoch d m e.epoch fun e => { e with loads := mset e.loads i l }
    match l.page with
    | none => d
    | some p =>
      let d := { d with srv := { d.srv with ready := d.srv.ready.filter fun q => q != r } }
      if pieceCount s ≤ r.piece then d
      else firmwareSend d r.src r.window r.gen (p * 2097152 + r.piece * 1048576) (pieceBytes s r.piece) (some (m, e.epoch, i, r.piece))

/-- Frames of what firmware sends go out on VC3 as far as credits allow. -/
def pushSend (id : Nat) : Nat → Dev → Dev
  | 0, d => d
  | n + 1, d =>
    match d.srv.sends.find? fun x => x.id == id with
    | none => d
    | some x =>
      match x.todo, routeHead d x.fa 3 with
      | off :: rest, some h =>
        let c := creditAt d h x.fa x.win x.gen
        if c.have_ = 0 then askCredit d h x.fa x.win x.gen
        else
          let k := min 4096 (x.len - off)
          let d := mapSend (setCredit d { c with have_ := c.have_ - 1 }) id fun x => { x with todo := rest }
          let d := addTxn d h (.write x.fa x.win x.gen off k) (.send id off)
          pushSend id n (sendTo d x.fa 3 .writeFrame [h, x.fa, 3, x.win, x.gen, off] (rsvRead d (x.addr + off) k))
      | _, _ => d

/-- What has landed whole at its recipient is done. -/
def sendDone (d : Dev) (x : FwSend) : Dev :=
  if x.landed.length < (x.len + 4095) / 4096 then d
  else
    let d := { d with srv := { d.srv with sends := d.srv.sends.filter fun o => o.id != x.id } }
    match x.piece with
    | none => d
    | some (m, ep, i, k) =>
      updEpoch d m ep fun e => { e with loads := mset e.loads i { loading e i with served := (loading e i).served ++ [(x.fa, k)] } }

/-- The recipients of a shard as far as its loader knows them: of the tokenizer every other member, of another shard those
that have reported (log entry 101). -/
def recipients (d : Dev) (e : EpochRec) (i : Nat) (s : Shard) : List Nat :=
  if s.kind = 3 then e.members.filter fun fa => fa != ownFa d else (loading e i).askers

/-- A loader has done with a shard that it has staged: it does not need the bytes itself, and every recipient holds them. -/
def loaderDone (d : Dev) (e : EpochRec) (i : Nat) (s : Shard) (st : ShardStage) : Bool :=
  let l := loading e i
  let own := match st with
    | .staged _ | .verified _ => true
    | _ => false
  let to_ := recipients d e i s
  l.page.isSome && !own && !(to_.isEmpty && e.members.any fun fa => fa != ownFa d)
    && to_.all fun fa => (List.range (pieceCount s)).all fun k => l.served.contains (fa, k)

/-- A loader that has done with a shard frees its pages. -/
def loaderFrees (d : Dev) (m : Nat) (e : EpochRec) (i : Nat) (s : Shard) (st : ShardStage) : Dev :=
  match (loading e i).page with
  | some p =>
    if loaderDone d e i s st then
      updEpoch (freePageRun d p (pagesFor s.length)) m e.epoch fun e => { e with loads := mset e.loads i { done := true } }
    else d
  | none => d

/-- Firmware goes on with the shards after a command that may have moved them. -/
def settleStaging (d : Dev) : Dev :=
  let d := d.srv.stageWins.foldl pieceLanded d
  let d := startReceiving d
  let d := d.srv.stageWins.foldl openStaging d
  let d := d.srv.ready.foldl serveReport d
  let d := d.srv.sends.foldl (fun d x => pushSend x.id 1024 d) d
  let d := d.srv.sends.foldl sendDone d
  startReads ((modelEpochs d).foldl (fun d x => x.2.numbered.foldl (fun d p => loaderFrees d x.1 x.2 p.1 p.2.1 p.2.2) d) d)

/-- The roster has changed: the loaders of the shards not yet delivered are chosen again, and those shards start over
(R275, R278). -/
def chooseAgain (d : Dev) : Dev :=
  if d.srv.models.all fun x => x.2.staged.isNone then d
  else
    let l := servingMembers d
    settleStaging (d.srv.models.foldl (fun d x =>
      match x.2.staged with
      | none => d
      | some e =>
        if e.members = l then d
        else
          let d := e.numbered.foldl (fun d p => match p.2.2 with
            | .receiving q _ => dropReceiving d x.1 e p.1 p.2.1 q
            | _ => d) d
          let d := updEpoch d x.1 e.epoch fun e =>
            { e with members := l, asked := e.asked.filter fun i => loaderOf e i == loaderOf { e with members := l } i }
          match (model d x.1).staged with
          | none => d
          | some e => e.numbered.foldl (fun d p => if (mget e.loads p.1).isSome then dropLoading d x.1 e p.1 p.2.1 p.2.2 else d) d) d)

end Sys2Proof.Machine
end

