-- ==== Sys2Proof/Machine/CmdFabric.lean ====
section
/-! DEFINITION. Machine/CmdFabric: the commands of fabric transactions (R234 to R252), one meaning each over the operations that
Machine/ shares. -/

namespace Sys2Proof.Machine

/-- WRITE (R244). -/
def execWrite (hdr : FrameHdr) (w : WindowHdr) (bytes : List Byte) (s : State) : Host.Outcome State Fault Refusal :=
  act (.write hdr w bytes) powered (fun d => windowWrite d hdr w bytes) s

/-- WRITE_LANDED (R244). -/
def execWriteLanded (n : Nat) (s : State) : Host.Outcome State Fault Refusal :=
  act (.writeLanded n) powered (fun d => settleStaging (settleReads (writeLanded d n))) s

/-- READ_REQ (R248). -/
def execReadReq (hdr : FrameHdr) (w : WindowHdr) (lenM1 : Fin 4096) (pump : PumpId) (bad : List BadRead)
    (s : State) : Host.Outcome State Fault Refusal :=
  act (.readReq hdr w lenM1 pump bad) powered
    (fun d => settleStaging (settleReads (windowRead d hdr w (lenM1 + 1) (pump == .b) bad))) s

/-- READ_RESP (R248). -/
def execReadResp (hdr : FrameHdr) (w : WindowHdr) (bytes : List Byte) (s : State) : Host.Outcome State Fault Refusal :=
  act (.readResp hdr w bytes) powered (fun d => readResp d hdr w bytes) s

/-- ACK (R243). -/
def execAck (x : ExpressHdr) (records : List AckRecord) (s : State) : Host.Outcome State Fault Refusal :=
  act (.ack x records) powered (fun d => settleStaging (ackFlit d x records)) s

/-- CREDIT_REQ (R247). -/
def execCreditReq (x : ExpressHdr) (xid : Fin 65536) (window : Fin 4096) (gen : Fin 65536) (wanted : Fin 65)
    (s : State) : Host.Outcome State Fault Refusal :=
  act (.creditReq x xid window gen wanted) powered (fun d => creditReq d x xid window gen wanted) s

/-- CREDIT (R247). -/
def execCredit (x : ExpressHdr) (xid : Fin 65536) (window : Fin 4096) (gen : Fin 65536) (n : Fin 65)
    (s : State) : Host.Outcome State Fault Refusal :=
  act (.credit x xid window gen n) powered (fun d => settleStaging (credit d x xid window gen n)) s

/-- GATE_OP (R250). -/
def execGateOp (x : ExpressHdr) (xid : Fin 65536) (gate : Fin 512) (opc : BitVec 3) (v : BitVec 24)
    (s : State) : Host.Outcome State Fault Refusal :=
  act (.gateOp x xid gate opc v) powered (fun d => gateOpFlit d x xid gate opc.toNat v.toNat) s

/-- GATE_ACK (R250). -/
def execGateAck (x : ExpressHdr) (xid : Fin 65536) (status : Byte) (s : State) : Host.Outcome State Fault Refusal :=
  act (.gateAck x xid status) powered (fun d => gateAckFlit d x xid status.toNat) s

/-- MBX_PART (R251). -/
def execMbxPart (x : ExpressHdr) (xid : Fin 65536) (mailbox : Fin 64) (part : Fin 2) (bytes : Vector Byte 32)
    (s : State) : Host.Outcome State Fault Refusal :=
  act (.mbxPart x xid mailbox part bytes) powered (fun d => mbxPartFlit d x xid mailbox part bytes.toList) s

/-- MBX_ACK (R337). -/
def execMbxAck (x : ExpressHdr) (xid : Fin 65536) (status : Byte) (s : State) : Host.Outcome State Fault Refusal :=
  act (.mbxAck x xid status) powered (fun d => mbxAckFlit d x xid status.toNat) s

/-- ABORT (R193). -/
def execAbort (x : ExpressHdr) (number : BitVec 64) (group : Fin 65536)
    (s : State) : Host.Outcome State Fault Refusal :=
  act (.abort x number group) powered (fun d => abortFlit d x number.toNat group) s

/-- EXPRESS_FLIT_DROP (R240). -/
def execExpressFlitDrop (e : DropEvent) (s : State) : Host.Outcome State Fault Refusal :=
  act (.expressFlitDrop e) powered (fun d => flitDropped d e) s

/-- WINDOW_OPEN (R246). -/
def execWindowOpen (p : Path) (h : HeadId) (s : State) : Host.Outcome State Fault Refusal :=
  act (.windowOpen p h) powered (fun d => ctlPut d p (txnReg R.AQD_WIN_OP h) 1) s

/-- WINDOW_CLOSE (R245). -/
def execWindowClose (p : Path) (h : HeadId) (s : State) : Host.Outcome State Fault Refusal :=
  act (.windowClose p h) powered (fun d => ctlPut d p (txnReg R.AQD_WIN_OP h) 2) s

/-- WINDOW_DRAINED (R245). -/
def execWindowDrained (window : Fin 4096) (h : HeadId) (s : State) : Host.Outcome State Fault Refusal :=
  act (.windowDrained window h) powered (fun d => settleStaging (windowDrained d window h)) s

/-- TRANSACTION_TIMEOUT (R249). -/
def execTransactionTimeout (n : Nat) (s : State) : Host.Outcome State Fault Refusal :=
  act (.transactionTimeout n) powered (fun d => settleStaging (transactionTimeout d n)) s

end Sys2Proof.Machine
end

