-- ==== Sys2Proof/Machine/CmdGate.lean ====
section
/-! DEFINITION. Machine/CmdGate: the commands of gates, the hold and aborts (R178 to R194, R379), one meaning each over the operations
that Machine/ shares. -/

namespace Sys2Proof.Machine

/-- SIGNAL (R179). -/
def execSignal (p : Path) (die : AnyDie) (gate : Fin 512) (n : BitVec 24)
    (s : State) : Host.Outcome State Fault Refusal :=
  act (.signal p die gate n) powered (fun d => gateCommand d p die gate (.signal n.toNat)) s

/-- CONSUME (R179). -/
def execConsume (p : Path) (die : AnyDie) (gate : Fin 512) (n : BitVec 24)
    (s : State) : Host.Outcome State Fault Refusal :=
  act (.consume p die gate n) powered (fun d => gateCommand d p die gate (.consume n.toNat)) s

/-- SET_THRESH (R179). -/
def execSetThresh (p : Path) (die : AnyDie) (gate : Fin 512) (n : BitVec 24)
    (s : State) : Host.Outcome State Fault Refusal :=
  act (.setThresh p die gate n) powered (fun d => gateCommand d p die gate (.setThresh n.toNat)) s

/-- ADD_THRESH (R179). -/
def execAddThresh (p : Path) (die : AnyDie) (gate : Fin 512) (n : BitVec 24)
    (s : State) : Host.Outcome State Fault Refusal :=
  act (.addThresh p die gate n) powered (fun d => gateCommand d p die gate (.addThresh n.toNat)) s

/-- RESET (R179). -/
def execReset (p : Path) (die : AnyDie) (gate : Fin 512) (s : State) : Host.Outcome State Fault Refusal :=
  act (.reset p die gate) powered (fun d => gateCommand d p die gate .reset) s

/-- HALLWAIT_ARM (R179). -/
def execHallwaitArm (p : Path) (die : AnyDie) (gate : Fin 512) (core : CoreId) (coreDie : AnyDie)
    (s : State) : Host.Outcome State Fault Refusal :=
  act (.hallwaitArm p die gate core coreDie) powered
    (fun d => ctlPut d p (gateReg R.GAT_HALLWAIT die gate) (core + 4 * coreDie + 256)) s

/-- HOLD_ARRIVE (R184). -/
def execHoldArrive (die : DieId) (b : BlockId) (s : State) : Host.Outcome State Fault Refusal :=
  act (.holdArrive die b) powered (fun d => holdArrive d die b) s

/-- HOLD_RELEASE (R185). -/
def execHoldRelease (s : State) : Host.Outcome State Fault Refusal :=
  act (.holdRelease) powered (fun d => holdRelease d) s

/-- HOLD_RESUME (R185). -/
def execHoldResume (die : DieId) (b : BlockId) (s : State) : Host.Outcome State Fault Refusal :=
  act (.holdResume die b) powered (fun d => holdResume d die b) s

/-- STEP_ABORT (R193). -/
def execStepAbort (s : State) : Host.Outcome State Fault Refusal :=
  act (.stepAbort) powered (fun d => stepAborts d) s

/-- ABORT_END (R193). -/
def execAbortEnd (s : State) : Host.Outcome State Fault Refusal :=
  act (.abortEnd) powered (fun d => abortEnds d) s

/-- STEP_WATCHDOG_EXPIRY (R193). -/
def execStepWatchdogExpiry (s : State) : Host.Outcome State Fault Refusal :=
  act (.stepWatchdogExpiry) powered (fun d => startsStep d wdogExpire) s

/-- DIE_STEP_COMPLETE (R194). -/
def execDieStepComplete (e : DieEnd) (s : State) : Host.Outcome State Fault Refusal :=
  act (.dieStepComplete e) powered (fun d => dieStepComplete d e.die e.bad) s

/-- STEP_COMPLETE (R194). -/
def execStepComplete (s : State) : Host.Outcome State Fault Refusal :=
  act (.stepComplete) powered (fun d => stepCompletes d) s

/-- STEP_REPLAY (R379). -/
def execStepReplay (s : State) : Host.Outcome State Fault Refusal :=
  act (.stepReplay) powered (fun d => stepReplay d) s

end Sys2Proof.Machine
end

