-- ==== Sys2Proof/Machine/CmdGroup.lean ====
section
/-! DEFINITION. Machine/CmdGroup: the commands of membership and global operations (R254 to R269), one meaning each over the
operations that Machine/ shares. -/

namespace Sys2Proof.Machine

/-- DISCOVERY_SEND (R254). -/
def execDiscoverySend (s : State) : Host.Outcome State Fault Refusal :=
  act (.discoverySend) powered (fun d => discoverySend d) s

/-- DISCOVERY_RECEIVE (R255). -/
def execDiscoveryReceive (hdr : FrameHdr) (r : DiscoveryRecord) (s : State) : Host.Outcome State Fault Refusal :=
  act (.discoveryReceive hdr r) powered (fun d => discoveryReceive d hdr r) s

/-- ROSTER_PUBLISH (R255). -/
def execRosterPublish (s : State) : Host.Outcome State Fault Refusal :=
  act (.rosterPublish) powered (fun d => chooseAgain (rosterPublish d)) s

/-- ROSTER_RECEIVE (R255). -/
def execRosterReceive (hdr : FrameHdr) (l : List DiscoveryRecord) (s : State) : Host.Outcome State Fault Refusal :=
  act (.rosterReceive hdr l) powered (fun d => chooseAgain (rosterReceive d hdr l)) s

/-- PARTNER_SILENT (R255). -/
def execPartnerSilent (fa : Fin 65536) (s : State) : Host.Outcome State Fault Refusal :=
  act (.partnerSilent fa) powered (fun d => chooseAgain (partnerSilent d fa)) s

/-- GROUP_FORM (R256). -/
def execGroupForm (m : GroupFormMsg) (s : State) : Host.Outcome State Fault Refusal :=
  act (.groupForm m) powered (fun d => groupForm d m) s

/-- GROUP_JOIN (R256). -/
def execGroupJoin (hdr : FrameHdr) (num : Fin 65536) (gen : Fin 65536) (edition : Fin 65536) (lo : Fin 256) (hi : Fin 256)
    (s : State) : Host.Outcome State Fault Refusal :=
  act (.groupJoin hdr num gen edition lo hi) powered (fun d => groupJoin d hdr num gen edition lo hi) s

/-- GROUP_COMMIT (R256). -/
def execGroupCommit (hdr : FrameHdr) (num : Fin 65536) (gen : Fin 65536) (version : Fin 256) (members : List (Fin 65536))
    (s : State) : Host.Outcome State Fault Refusal :=
  act (.groupCommit hdr num gen version members) powered (fun d => groupCommit d hdr num gen version members) s

/-- ARRIVE (R260). -/
def execArrive (x : ExpressHdr) (slot : Fin 64) (group : Fin 65536) (ggen : Fin 65536) (seq : Fin 65536) (pay : Word)
    (s : State) : Host.Outcome State Fault Refusal :=
  act (.arrive x slot group ggen seq pay) powered (fun d => barArrive d x slot group ggen seq pay.toNat) s

/-- RELEASE (R259). -/
def execRelease (x : ExpressHdr) (slot : Fin 64) (group : Fin 65536) (ggen : Fin 65536) (seq : Fin 65536) (pay : Word)
    (s : State) : Host.Outcome State Fault Refusal :=
  act (.release x slot group ggen seq pay) powered (fun d => barReleaseFlit d x slot group ggen seq pay.toNat) s

/-- BARRIER_GENERATION_WRITE (R262). -/
def execBarrierGenerationWrite (p : Path) (h : HeadId) (slot : Fin 64) (ggen : Fin 65536)
    (s : State) : Host.Outcome State Fault Refusal :=
  act (.barrierGenerationWrite p h slot ggen) powered
    (fun d => ctlPut d p (barReg R.GAT_BAR_STATE h slot) (ggen * 65536)) s

/-- SNAPSHOT_DRAIN_DONE (R266). -/
def execSnapshotDrainDone (s : State) : Host.Outcome State Fault Refusal :=
  act (.snapshotDrainDone) powered (fun d => snapshotDrainDone d) s

/-- SNAPSHOT_DRAIN_TIMEOUT (R266). -/
def execSnapshotDrainTimeout (s : State) : Host.Outcome State Fault Refusal :=
  act (.snapshotDrainTimeout) powered (fun d => snapshotDrainTimeout d) s

end Sys2Proof.Machine
end

