-- ==== Sys2Proof/Machine/CmdHall.lean ====
section
/-! DEFINITION. Machine/CmdHall: the commands of attestation, mailboxes, Town Halls (R323 to R341, R354, R386), one meaning each over
the operations that Machine/ shares. -/

namespace Sys2Proof.Machine

/-- ATTEST_REQUEST (R354). -/
def execAttestRequest (g : AqdId) (conn : Nat) (stream : Nat) (nonce : Vector Byte 64)
    (s : State) : Host.Outcome State Fault Refusal :=
  act (.attestRequest g conn stream nonce) powered (fun d => attestRequest d g conn stream nonce.toList) s

/-- ATTEST_SIGNED (R354). -/
def execAttestSigned (s : State) : Host.Outcome State Fault Refusal :=
  act (.attestSigned) powered (fun d => attestSigned d) s

/-- TX_GO (R337). -/
def execTxGo (p : Path) (die : DieId) (inst : Fin 6) (buffer : Fin 4) (s : State) : Host.Outcome State Fault Refusal :=
  act (.txGo p die inst buffer) powered (fun d => ctlPut d p (txReg R.HAL_TX_CTRL die inst buffer) 1) s

/-- MBX_DRAIN (R340). -/
def execMbxDrain (p : Path) (die : DieId) (mailbox : Fin 64) (seq : Byte)
    (s : State) : Host.Outcome State Fault Refusal :=
  act (.mbxDrain p die mailbox seq) powered (fun d => ctlPut d p (mbxReg R.MBX_DRAIN die mailbox) seq.toNat) s

/-- MAILBOX_TIMEOUT (R341). -/
def execMailboxTimeout (die : DieId) (mailbox : Fin 64) (s : State) : Host.Outcome State Fault Refusal :=
  act (.mailboxTimeout die mailbox) powered (fun d => mbxTimeout d die mailbox) s

/-- MBX_ENABLE_CLEAR (R341). -/
def execMbxEnableClear (p : Path) (die : DieId) (mailbox : Fin 64) (s : State) : Host.Outcome State Fault Refusal :=
  act (.mbxEnableClear p die mailbox) powered (fun d => mbxDisable d p die mailbox) s

/-- HEARTBEAT (R386). -/
def execHeartbeat (s : State) : Host.Outcome State Fault Refusal :=
  act (.heartbeat) powered (fun d => heartbeat d) s

/-- COORDINATOR_TAKEOVER (R386). -/
def execCoordinatorTakeover (s : State) : Host.Outcome State Fault Refusal :=
  act (.coordinatorTakeover) powered (fun d => takeover d) s

/-- MACHINE_TIMER_INTERRUPT (R323). -/
def execMachineTimerInterrupt (die : DieId) (core : CoreId) (s : State) : Host.Outcome State Fault Refusal :=
  act (.machineTimerInterrupt die core) powered (fun d => timerInterrupt d die core) s

/-- WELL_APERTURE_WRITE (R325). -/
def execWellApertureWrite (die : DieId) (core : CoreId) (mode : CoreMode) (off : BitVec 34) (bytes : List Byte) (env : WellEnv)
    (s : State) : Host.Outcome State Fault Refusal :=
  act (.wellApertureWrite die core mode off bytes env) powered
    (fun d => wellStore d (.core die core mode) off.toNat bytes env) s

/-- PROGRAM_STORE_READ (R161). -/
def execProgramStoreRead (p : Path) (die : DieId) (b : BlockId) (s : State) : Host.Outcome State Fault Refusal :=
  act (.programStoreRead p die b) powered (fun d => coreRead d p (ctl R.SEQ_PS_DATA die b)) s

/-- REFUSED_READ (R330). -/
def execRefusedRead (c : CtlAccess) (s : State) : Host.Outcome State Fault Refusal :=
  act (.refusedRead c) powered (fun d => refusedRead d c) s

end Sys2Proof.Machine
end

