-- ==== Sys2Proof/Machine/CmdPower.lean ====
section
/-! DEFINITION. Machine/CmdPower: the commands of input, reset, time and clocking (R356 to R374, R398, R402), one meaning each over
the operations that Machine/ shares. -/

namespace Sys2Proof.Machine

/-- POWER_UP (R358). -/
def execPowerUp (railsOk : Bool) (s : State) : Host.Outcome State Fault Refusal :=
  act (.powerUp railsOk) always (fun d => powerUp d railsOk) s

/-- INPUT_UNDERVOLTAGE (R358). -/
def execInputUndervoltage (s : State) : Host.Outcome State Fault Refusal :=
  act (.inputUndervoltage) always (fun d => powerLost d) s

/-- INPUT_OVERVOLTAGE (R358). -/
def execInputOvervoltage (s : State) : Host.Outcome State Fault Refusal :=
  act (.inputOvervoltage) always (fun d => powerLost d) s

/-- INPUT_BAND_CHANGE (R358). -/
def execInputBandChange (v : BitVec 16) (s : State) : Host.Outcome State Fault Refusal :=
  act (.inputBandChange v) powered (fun d => bandChange d v) s

/-- MOD_RST_N_RISE (R402). -/
def execModRstNRise (env : BootEnv) (s : State) : Host.Outcome State Fault Refusal :=
  act (.modRstNRise env) always (fun d => resetRise d env) s

/-- MOD_RST_N_FALL (R402). -/
def execModRstNFall (s : State) : Host.Outcome State Fault Refusal :=
  act (.modRstNFall) always (fun d => resetFall d) s

/-- BOOT_RETRY (R345). -/
def execBootRetry (flash : Option Flash) (s : State) : Host.Outcome State Fault Refusal :=
  act (.bootRetry flash) powered (fun d => bootRetry d flash) s

/-- REFERENCE_LOST (R370). -/
def execReferenceLost (s : State) : Host.Outcome State Fault Refusal :=
  act (.referenceLost) powered (fun d => referenceLost d) s

/-- REFERENCE_RESTORED (R370). -/
def execReferenceRestored (s : State) : Host.Outcome State Fault Refusal :=
  act (.referenceRestored) powered (fun d => referenceRestored d) s

/-- PPS_IN_EDGE (R398). -/
def execPpsInEdge (s : State) : Host.Outcome State Fault Refusal :=
  act (.ppsInEdge) powered (fun d => ppsIn d) s

/-- PPS_OUT_PULSE (R373). -/
def execPpsOutPulse (s : State) : Host.Outcome State Fault Refusal :=
  act (.ppsOutPulse) powered (fun d => ppsOut d) s

/-- TEMPERATURE_SAMPLE (R363). -/
def execTemperatureSample (place : ThermalPlace) (t : BitVec 8) (s : State) : Host.Outcome State Fault Refusal :=
  act (.temperatureSample place t) powered (fun d => temperatureSample d place t) s

/-- CEILING_LOWER (R363). -/
def execCeilingLower (place : ThermalPlace) (s : State) : Host.Outcome State Fault Refusal :=
  act (.ceilingLower place) powered (fun d => ceilingLower d place) s

/-- CEILING_RAISE (R363). -/
def execCeilingRaise (place : ThermalPlace) (s : State) : Host.Outcome State Fault Refusal :=
  act (.ceilingRaise place) powered (fun d => ceilingRaise d place) s

/-- CEILING_CHANGE (R364). -/
def execCeilingChange (s : State) : Host.Outcome State Fault Refusal :=
  act (.ceilingChange) powered (fun d => choosePoint d) s

/-- OP_RAISE_ALLOWED (R364). -/
def execOpRaiseAllowed (s : State) : Host.Outcome State Fault Refusal :=
  act (.opRaiseAllowed) powered (fun d => raiseAllowed d) s

/-- SUPPLY_CEILING_LOWER (R364). -/
def execSupplyCeilingLower (watts : BitVec 16) (amps : BitVec 16) (s : State) : Host.Outcome State Fault Refusal :=
  act (.supplyCeilingLower watts amps) powered (fun d => supplyLower d watts amps) s

/-- SUPPLY_CEILING_RAISE (R364). -/
def execSupplyCeilingRaise (watts : BitVec 16) (amps : BitVec 16) (s : State) : Host.Outcome State Fault Refusal :=
  act (.supplyCeilingRaise watts amps) powered (fun d => supplyRaise d watts amps) s

/-- OP_APPLY (R367). -/
def execOpApply (s : State) : Host.Outcome State Fault Refusal :=
  act (.opApply) powered (fun d => opApply d) s

/-- VOLTAGE_RAMP_DONE (R367). -/
def execVoltageRampDone (s : State) : Host.Outcome State Fault Refusal :=
  act (.voltageRampDone) powered (fun d => rampDone d) s

/-- DROOP_STRETCH (R368). -/
def execDroopStretch (die : DieId) (n : Fin 4) (deep : Bool) (margin : BitVec 8)
    (s : State) : Host.Outcome State Fault Refusal :=
  act (.droopStretch die n deep margin) powered (fun d => droopStretch d die n deep margin) s

/-- DROOP_STRETCH_END (R368). -/
def execDroopStretchEnd (die : DieId) (again : Option (Fin 4 × Bool × BitVec 8))
    (s : State) : Host.Outcome State Fault Refusal :=
  act (.droopStretchEnd die again) powered (fun d => droopEnd d die again) s

/-- RAIL_ALERT (R357). -/
def execRailAlert (rail : RailId) (s : State) : Host.Outcome State Fault Refusal :=
  act (.railAlert rail) powered (fun d => railAlert d rail) s

/-- TIME_STEP (R371). -/
def execTimeStep (p : Path) (v : Word) (s : State) : Host.Outcome State Fault Refusal :=
  act (.timeStep p v) powered (fun d => ctlPut d p (clkReg R.CLK_TIME_STEP) v.toNat) s

/-- TIME_RATE (R371). -/
def execTimeRate (p : Path) (v : Word) (s : State) : Host.Outcome State Fault Refusal :=
  act (.timeRate p v) powered (fun d => ctlPut d p (clkReg R.CLK_TIME_RATE) v.toNat) s

/-- TIME_SOURCE_SILENT (R372). -/
def execTimeSourceSilent (s : State) : Host.Outcome State Fault Refusal :=
  act (.timeSourceSilent) powered (fun d => sourceSilent d) s

/-- TALLY_READ (R360). -/
def execTallyRead (p : Path) (s : State) : Host.Outcome State Fault Refusal :=
  act (.tallyRead p) powered (fun d => coreRead d p (clkReg R.CLK_TALLY_LO)) s

/-- TIME_READ (R371). -/
def execTimeRead (p : Path) (s : State) : Host.Outcome State Fault Refusal :=
  act (.timeRead p) powered (fun d => coreRead d p (clkReg R.CLK_TIME_NS)) s

end Sys2Proof.Machine
end

