-- ==== Sys2Proof/Machine/CmdPump.lean ====
section
/-! DEFINITION. Machine/CmdPump: the commands of pumps (R129 to R140), one meaning each over the operations that Machine/ shares. -/

namespace Sys2Proof.Machine

/-- DESCRIPTOR_ISSUE (R130). -/
def execDescriptorIssue (die : DieId) (b : BlockId) (pump : PumpId) (env : WellEnv)
    (s : State) : Host.Outcome State Fault Refusal :=
  act (.descriptorIssue die b pump env) powered (fun d => seqPump d die b (pump == .b) env) s

/-- RING_DOORBELL (R129). -/
def execRingDoorbell (p : Path) (die : DieId) (b : BlockId) (pump : PumpId) (tail : BitVec 12)
    (s : State) : Host.Outcome State Fault Refusal :=
  act (.ringDoorbell p die b pump tail) powered
    (fun d => ctlPut d p (pumpReg R.PMP_RING_TAIL die b (pump == .b)) tail.toNat) s

/-- COPY (R133). -/
def execCopy (die : DieId) (b : BlockId) (pump : PumpId) (env : PumpEnv)
    (s : State) : Host.Outcome State Fault Refusal :=
  act (.copy die b pump env) powered (fun d => pumpStart d die b (pump == .b) .copy env) s

/-- GATHER (R133). -/
def execGather (die : DieId) (b : BlockId) (pump : PumpId) (env : PumpEnv)
    (s : State) : Host.Outcome State Fault Refusal :=
  act (.gather die b pump env) powered (fun d => pumpStart d die b (pump == .b) .gather env) s

/-- SCATTER (R133). -/
def execScatter (die : DieId) (b : BlockId) (pump : PumpId) (env : PumpEnv)
    (s : State) : Host.Outcome State Fault Refusal :=
  act (.scatter die b pump env) powered (fun d => pumpStart d die b (pump == .b) .scatter env) s

/-- UNSKEW16 (R135). -/
def execUnskew16 (die : DieId) (b : BlockId) (pump : PumpId) (env : PumpEnv)
    (s : State) : Host.Outcome State Fault Refusal :=
  act (.unskew16 die b pump env) powered (fun d => pumpStart d die b (pump == .b) .unskew16 env) s

/-- SKEW16 (R135). -/
def execSkew16 (die : DieId) (b : BlockId) (pump : PumpId) (env : PumpEnv)
    (s : State) : Host.Outcome State Fault Refusal :=
  act (.skew16 die b pump env) powered (fun d => pumpStart d die b (pump == .b) .skew16 env) s

/-- PUMP_WRITE_LAND (R136). -/
def execPumpWriteLand (die : DieId) (b : LandingAt) (pump : PumpId) (queue : QueueId)
    (s : State) : Host.Outcome State Fault Refusal :=
  act (.pumpWriteLand die b pump queue) powered (fun d => pumpLand d die b.block (pump == .b) queue b.env) s

/-- DESCRIPTOR_COMPLETE (R138). -/
def execDescriptorComplete (die : DieId) (b : BlockId) (pump : PumpId) (queue : QueueId)
    (s : State) : Host.Outcome State Fault Refusal :=
  act (.descriptorComplete die b pump queue) powered (fun d => descComplete d die b (pump == .b) queue) s

end Sys2Proof.Machine
end

