-- ==== Sys2Proof/Machine/CmdReservoir.lean ====
section
/-! DEFINITION. Machine/CmdReservoir: the commands of the reservoir (R196 to R212), one meaning each over the operations that Machine/
shares. -/

namespace Sys2Proof.Machine

/-- RESERVOIR_ACCESS (R198). -/
def execReservoirAccess (a : RsvArrival) (s : State) : Host.Outcome State Fault Refusal :=
  act (.reservoirAccess a) powered (fun d => reservoirAccess d a) s

/-- RESERVOIR_SERVICE (R202). -/
def execReservoirService (stack : StackId) (n : Nat) (fails : Fin 4) (s : State) : Host.Outcome State Fault Refusal :=
  act (.reservoirService stack n fails) powered (fun d => settleReads (rsvServe d stack n fails)) s

/-- PAGE_ENTRY_WRITE (R199). -/
def execPageEntryWrite (p : Path) (stack : StackId) (v : Word) (s : State) : Host.Outcome State Fault Refusal :=
  act (.pageEntryWrite p stack v) powered (fun d => ctlPut d p (ctl R.RSV_PT_ENTRY (48 + stack) 0) v.toNat) s

/-- PAGE_ZERO_FILL_DONE (R199). -/
def execPageZeroFillDone (stack : StackId) (page : Fin 49152) (s : State) : Host.Outcome State Fault Refusal :=
  act (.pageZeroFillDone stack page) powered (fun d => pageZeroed d stack page) s

/-- STACK_REFRESH (R203). -/
def execStackRefresh (stack : StackId) (s : State) : Host.Outcome State Fault Refusal :=
  act (.stackRefresh stack) powered (fun d => stackRefresh d stack) s

/-- CONVERSATION_EXPIRY (R209). -/
def execConversationExpiry (conv : Nat) (s : State) : Host.Outcome State Fault Refusal :=
  act (.conversationExpiry conv) powered (fun d => convExpiry d conv) s

/-- CONDENSING_CHANGE (R212). -/
def execCondensingChange (s : State) : Host.Outcome State Fault Refusal :=
  act (.condensingChange) powered (fun d => condensingChange d) s

end Sys2Proof.Machine
end

