-- ==== Sys2Proof/Machine/CmdServing.lean ====
section
/-! DEFINITION. Machine/CmdServing: the commands of requests, conversations, moves and peers (R293 to R309, R333), one meaning each
over the operations that Machine/ shares. -/

namespace Sys2Proof.Machine

/-- REQUEST (R294). -/
def execRequest (conn : ClientConn) (r : RequestIn) (s : State) : Host.Outcome State Fault Refusal :=
  act (.request conn r) powered (fun d => settleModels (requestBy d conn r.kv r.bytes)) s

/-- CANCEL_RECORD (R296). -/
def execCancelRecord (conn : ClientConn) (bytes : List Byte) (s : State) : Host.Outcome State Fault Refusal :=
  act (.cancelRecord conn bytes) powered (fun d => settleModels (cancelBy d conn bytes)) s

/-- RST_STREAM (R296). -/
def execRstStream (g : AqdId) (conn : Nat) (stream : Nat) (s : State) : Host.Outcome State Fault Refusal :=
  act (.rstStream g conn stream) powered (fun d => settleModels (rstStream d (.http g conn stream))) s

/-- CANCEL (R299). -/
def execCancel (x : ExpressHdr) (reqId : BitVec 64) (tenant : Fin 65536) (slot : Fin 65536) (kind : Byte)
    (s : State) : Host.Outcome State Fault Refusal :=
  act (.cancel x reqId tenant slot kind) powered
    (fun d => settleModels (cancelFlit d x reqId.toNat tenant slot kind.toNat)) s

/-- DEADLINE_EXPIRY (R306). -/
def execDeadlineExpiry (slot : Fin 65536) (s : State) : Host.Outcome State Fault Refusal :=
  act (.deadlineExpiry slot) powered (fun d => settleModels (deadlineExpiry d slot)) s

/-- ACTIVE_MASK_LOAD (R303). -/
def execActiveMaskLoad (die : DieId) (b : BlockId) (s : State) : Host.Outcome State Fault Refusal :=
  act (.activeMaskLoad die b) powered (fun d => activeMaskLoad d die b) s

/-- COMMIT_POINT (R306). -/
def execCommitPoint (s : State) : Host.Outcome State Fault Refusal :=
  act .commitPoint powered (fun d => settleModels (commitPoint d)) s

/-- HOLD (R305). -/
def execHold (m : HoldMsg) (s : State) : Host.Outcome State Fault Refusal :=
  act (.hold m) powered (fun d => holdFrame d m) s

/-- HOLD_ACK (R305). -/
def execHoldAck (hdr : FrameHdr) (slot : Fin 65536) (refused : Bool) (s : State) : Host.Outcome State Fault Refusal :=
  act (.holdAck hdr slot refused) powered (fun d => settleModels (holdAck d hdr slot refused)) s

/-- RELEASED (R307). -/
def execReleased (hdr : FrameHdr) (slot : Fin 65536) (s : State) : Host.Outcome State Fault Refusal :=
  act (.released hdr slot) powered (fun d => settleModels (releasedFrame d hdr slot)) s

/-- MIGRATE (R304). -/
def execMigrate (hdr : FrameHdr) (m : MigrateMsg) (s : State) : Host.Outcome State Fault Refusal :=
  act (.migrate hdr m) powered (fun d => migrateFrame d hdr m) s

/-- RELAY (R304). -/
def execRelay (hdr : FrameHdr) (slot : Fin 65536) (bytes : List Byte) (s : State) : Host.Outcome State Fault Refusal :=
  act (.relay hdr slot bytes) powered (fun d => relayFrames d hdr slot bytes) s

/-- CTL_READ (R333). -/
def execCtlRead (hdr : FrameHdr) (a : Word) (s : State) : Host.Outcome State Fault Refusal :=
  act (.ctlRead hdr a) powered (fun d => forHere d hdr .ctlRead [a.toNat] [] fun d => peerRead d hdr a.toNat) s

/-- CTL_WRITE (R333). -/
def execCtlWrite (hdr : FrameHdr) (a : Word) (v : Word) (s : State) : Host.Outcome State Fault Refusal :=
  act (.ctlWrite hdr a v) powered
    (fun d => forHere d hdr .ctlWrite [a.toNat, v.toNat] [] fun d => peerWrite d hdr a.toNat v.toNat) s

/-- CTL_RESP (R333). -/
def execCtlResp (hdr : FrameHdr) (a : Word) (status : Byte) (v : Word) (s : State) : Host.Outcome State Fault Refusal :=
  act (.ctlResp hdr a status v) powered
    (fun d => forHere d hdr .ctlResp [a.toNat, status.toNat] (leBytes 4 v.toNat) fun d => emit d .readData [hdr.src, a.toNat, status.toNat, v.toNat]) s

end Sys2Proof.Machine
end

