-- ==== Sys2Proof/Machine/CmdStep.lean ====
section
/-! DEFINITION. Machine/CmdStep: the commands of the start of a step and units (R166, R181, R127), one meaning each over the
operations that Machine/ shares. -/

namespace Sys2Proof.Machine

/-- START_TALLY (R181). -/
def execStartTally (bad : List (DieId × BlockId × BadRead)) (s : State) : Host.Outcome State Fault Refusal :=
  act (.startTally bad) powered (fun d => startsStep d fun d => startTallyReached d bad) s

/-- BLOCK_STEP_START (R181). -/
def execBlockStepStart (die : DieId) (b : BlockId) (bad : List BadRead) (s : State) : Host.Outcome State Fault Refusal :=
  act (.blockStepStart die b bad) powered (fun d => startsStep d fun d => blockStepStart d die b bad) s

/-- ZERO_FILL_DONE (R127). -/
def execZeroFillDone (die : DieId) (b : BlockId) (bad : List BadRead) (s : State) : Host.Outcome State Fault Refusal :=
  act (.zeroFillDone die b bad) powered (fun d => zeroFillDone d die b bad) s

/-- UNIT_START (R166). -/
def execUnitStart (die : DieId) (b : BlockId) (s : State) : Host.Outcome State Fault Refusal :=
  act (.unitStart die b) powered (fun d => unitStart d die b) s

/-- BLOCK_DONE (R166). -/
def execBlockDone (die : DieId) (b : BlockId) (s : State) : Host.Outcome State Fault Refusal :=
  act (.blockDone die b) powered (fun d => blockDone d die b) s

end Sys2Proof.Machine
end

