-- ==== Sys2Proof/Machine/CmdStreet.lean ====
section
/-! DEFINITION. Machine/CmdStreet: the commands of streets, bridges and fountains (R141 to R158, R215, R381), one meaning each over
the operations that Machine/ shares. -/

namespace Sys2Proof.Machine

/-- READ_MERGE (R154). -/
def execReadMerge (sq : SquareAt) (m : MergeEvent) (s : State) : Host.Outcome State Fault Refusal :=
  act (.readMerge sq m) powered (fun d => readMerge d sq.die sq.block m.die m.block (m.pump == .b) m.read) s

/-- LINK_RETRY (R147). -/
def execLinkRetry (link : LinkId) (crc : Bool) (waiter : Option (DieId × BlockId))
    (s : State) : Host.Outcome State Fault Refusal :=
  act (.linkRetry link crc waiter) powered (fun d => linkRetry d link crc waiter) s

/-- BRIDGE_LANE_RETIRE (R381). -/
def execBridgeLaneRetire (p : Path) (die : AnyDie) (port : Fin 4) (lane : Fin 64)
    (s : State) : Host.Outcome State Fault Refusal :=
  act (.bridgeLaneRetire p die port lane) powered
    (fun d => ctlPut d p (ctl R.DIE_BRG_RETIRE die 0) (port + 4 * lane + 256)) s

/-- BRIDGE_STATE_CHANGE (R215). -/
def execBridgeStateChange (die : AnyDie) (port : Fin 4) (up : Bool) (s : State) : Host.Outcome State Fault Refusal :=
  act (.bridgeStateChange die port up) powered (fun d => reviewConvs (setBridge d die port up)) s

/-- FOUNTAIN_FRAME_ACCEPT (R156). -/
def execFountainFrameAccept (h : HeadId) (s : State) : Host.Outcome State Fault Refusal :=
  act (.fountainFrameAccept h) powered (fun d => fntAccept d h) s

/-- FOUNTAIN_ACCEPTANCE (R156). -/
def execFountainAcceptance (h : HeadId) (frame : Nat) (target : Fin 64)
    (s : State) : Host.Outcome State Fault Refusal :=
  act (.fountainAcceptance h frame target) powered
    (fun d => fntAcceptance (takeFntTxn d h frame target) h frame target) s

/-- FOUNTAIN_CREDIT_RETURN (R156). -/
def execFountainCreditReturn (h : HeadId) (target : CreditFrom) (n : Fin 65)
    (s : State) : Host.Outcome State Fault Refusal :=
  act (.fountainCreditReturn h target n) powered (fun d => fntCredit d h target.place n) s

/-- FNT_STALL (R157). -/
def execFntStall (h : HeadId) (frame : Nat) (target : Fin 64) (s : State) : Host.Outcome State Fault Refusal :=
  act (.fntStall h frame target) powered (fun d => fntStall d h frame target) s

/-- FOUNTAIN_TARGET_REFUSED (R158). -/
def execFountainTargetRefused (h : HeadId) (frame : Nat) (target : Fin 64)
    (s : State) : Host.Outcome State Fault Refusal :=
  act (.fountainTargetRefused h frame target) powered
    (fun d => fntTargetRefused (takeFntTxn d h frame target) h frame target) s

/-- FNT_ENTRY_COMMIT (R155). -/
def execFntEntryCommit (p : Path) (h : HeadId) (v : Word) (s : State) : Host.Outcome State Fault Refusal :=
  act (.fntEntryCommit p h v) powered (fun d => ctlPut d p (ctl R.FNT_ENTRY_HI (56 + h) 0) v.toNat) s

/-- FNT_LIST_COMMIT (R155). -/
def execFntListCommit (p : Path) (h : HeadId) (first : BitVec 13) (countM1 : BitVec 6) (valid : Bool)
    (s : State) : Host.Outcome State Fault Refusal :=
  act (.fntListCommit p h first countM1 valid) powered
    (fun d => ctlPut d p (ctl R.FNT_LIST (56 + h) 0) (first.toNat + countM1.toNat * 8192 + b2n valid * 2147483648)) s

end Sys2Proof.Machine
end

