-- ==== Sys2Proof/Machine/CmdUnits.lean ====
section
/-! DEFINITION. Machine/CmdUnits: the commands of passes, tile loads, chains (R68 to R106, R119, R121), one meaning each over the
operations that Machine/ shares. -/

namespace Sys2Proof.Machine

/-- PASS (R68). -/
def execPass (die : DieId) (b : BlockId) (env : WellEnv) (s : State) : Host.Outcome State Fault Refusal :=
  act (.pass die b env) powered (fun d => seqPass d die b env) s

/-- ENTRY_COMPLETE (R71). -/
def execEntryComplete (die : DieId) (b : BlockId) (bad : List BadRead) (s : State) : Host.Outcome State Fault Refusal :=
  act (.entryComplete die b bad) powered (fun d => entryComplete d die b bad) s

/-- TILE_LOAD_START (R76). -/
def execTileLoadStart (die : DieId) (b : BlockId) (errs : List LineErr) (env : WellEnv)
    (s : State) : Host.Outcome State Fault Refusal :=
  act (.tileLoadStart die b errs env) powered (fun d => tileLoadStart (tileLost d die b env) die b errs env.bad) s

/-- TILE_READY (R76). -/
def execTileReady (die : DieId) (b : BlockId) (s : State) : Host.Outcome State Fault Refusal :=
  act (.tileReady die b) powered (fun d => tileReady d die b) s

/-- QUARTET_STALL_END (R72). -/
def execQuartetStallEnd (die : DieId) (b : BlockId) (env : WellEnv)
    (s : State) : Host.Outcome State Fault Refusal :=
  act (.quartetStallEnd die b env) powered (fun d => quartetStallEnd (quartetLost d die b env) die b env.bad) s

/-- FILL_MARK_WAIT_END (R119). -/
def execFillMarkWaitEnd (die : DieId) (b : BlockId) (unit : Consumer) (env : PumpEnv)
    (s : State) : Host.Outcome State Fault Refusal :=
  act (.fillMarkWaitEnd die b unit env) powered (fun d => markWaitEnd d die b unit env) s

/-- READ_REPLAY (R121). -/
def execReadReplay (die : DieId) (b : BlockId) (unit : Consumer) (s : State) : Host.Outcome State Fault Refusal :=
  act (.readReplay die b unit) powered (fun d => readReplay d die b unit) s

/-- CHAIN_ISSUE (R103). -/
def execChainIssue (die : DieId) (b : BlockId) (env : WellEnv) (s : State) : Host.Outcome State Fault Refusal :=
  act (.chainIssue die b env) powered (fun d => seqChain d die b env) s

/-- CHAIN_ITERATION (R103). -/
def execChainIteration (die : DieId) (b : BlockId) (env : WellEnv)
    (s : State) : Host.Outcome State Fault Refusal :=
  act (.chainIteration die b env) powered (fun d => chainIteration (chainLost d die b env) die b env.bad) s

/-- VECTOR_STORE_LAND (R96). -/
def execVectorStoreLand (die : DieId) (b : LandingAt) (s : State) : Host.Outcome State Fault Refusal :=
  act (.vectorStoreLand die b) powered (fun d => vectorStoreLand (storeLost d die b.block b.env) die b.block) s

end Sys2Proof.Machine
end

