-- ==== Sys2Proof/Machine/CmdWeights.lean ====
section
/-! DEFINITION. Machine/CmdWeights: the commands of weights: manifests, shards, scrubbing, repair (R270 to R292, R349), one meaning
each over the operations that Machine/ shares. -/

namespace Sys2Proof.Machine

/-- WINDOW_READY (R277). -/
def execWindowReady (hdr : FrameHdr) (window : Fin 65536) (gen : Fin 65536) (piece : Word) (digest8 : Vector Byte 8)
    (s : State) : Host.Outcome State Fault Refusal :=
  act (.windowReady hdr window gen piece digest8) powered (fun d => settleStaging (windowReady d hdr window gen piece.toNat digest8.toList)) s

/-- PAGE_REQUEST (R283). -/
def execPageRequest (hdr : FrameHdr) (m : PageMsg) (s : State) : Host.Outcome State Fault Refusal :=
  act (.pageRequest hdr m) powered (fun d => settleStaging (pageRequest d hdr m)) s

/-- PAGE_REFUSED (R283). -/
def execPageRefused (hdr : FrameHdr) (m : PageMsg) (s : State) : Host.Outcome State Fault Refusal :=
  act (.pageRefused hdr m) powered (fun d => pageRefused d hdr m) s

/-- TENANT_SET (R333). -/
def execTenantSet (route : TenantRoute) (identity : List Byte) (tag : Fin 65536)
    (s : State) : Host.Outcome State Fault Refusal :=
  act (.tenantSet route identity tag) powered (fun d => tenantSet d route identity tag) s

/-- MODEL_PART (R349). -/
def execModelPart (stamp : Word) (msg : Vector Byte 64) (s : State) : Host.Outcome State Fault Refusal :=
  act (.modelPart stamp msg) powered (fun d => modelPart d stamp msg.toList) s

/-- MODEL_COMMIT (R349). -/
def execModelCommit (stamp : Word) (msg : Vector Byte 64) (s : State) : Host.Outcome State Fault Refusal :=
  act (.modelCommit stamp msg) powered (fun d => modelCommit d stamp msg.toList) s

/-- MODEL_REMOVE (R349). -/
def execModelRemove (stamp : Word) (msg : Vector Byte 64) (s : State) : Host.Outcome State Fault Refusal :=
  act (.modelRemove stamp msg) powered (fun d => modelRemove d stamp msg.toList) s

/-- RETIRE (R378). -/
def execRetire (stamp : Word) (msg : Vector Byte 64) (s : State) : Host.Outcome State Fault Refusal :=
  act (.retire stamp msg) powered (fun d => retireMsg d stamp msg.toList) s

/-- MANIFEST_CHECK (R274). -/
def execManifestCheck (m : Fin 64) (slice : Fin 65536) (bytes : List Byte)
    (s : State) : Host.Outcome State Fault Refusal :=
  act (.manifestCheck m slice bytes) powered (fun d => settleStaging (chooseLoaders m (manifestCheck d m slice bytes))) s

/-- SHARD_STAGED (R276). -/
def execShardStaged (m : Fin 64) (shard : Nat) (a : ShardArrival) (s : State) : Host.Outcome State Fault Refusal :=
  act (.shardStaged m shard a) powered (fun d => settleStaging (shardStaged d m shard a)) s

/-- SHARD_DIGEST_DONE (R278). -/
def execShardDigestDone (m : Fin 64) (shard : Nat) (s : State) : Host.Outcome State Fault Refusal :=
  act (.shardDigestDone m shard) powered (fun d => settleStaging (shardDigest d m shard)) s

/-- SHARD_PLACE (R279). -/
def execShardPlace (m : Fin 64) (shard : Nat) (s : State) : Host.Outcome State Fault Refusal :=
  act (.shardPlace m shard) powered (fun d => settleStaging (shardPlace d m shard)) s

/-- SCRUB_INTERVAL (R282). -/
def execScrubInterval (page : PageRef) (s : State) : Host.Outcome State Fault Refusal :=
  act (.scrubInterval page) powered (fun d => scrubInterval d page) s

/-- SCRUB_RUN_START (R282). -/
def execScrubRunStart (p : Path) (die : DieId) (b : BlockId) (gap : Byte) (errs : List LineErr)
    (s : State) : Host.Outcome State Fault Refusal :=
  act (.scrubRunStart p die b gap errs) powered
    (fun d => ctlPut d p (ctl R.CIS_SCRUB_CTRL die b) (1 + gap.toNat * 256) errs) s

/-- SCRUB_RUN_DONE (R282). -/
def execScrubRunDone (die : DieId) (b : BlockId) (s : State) : Host.Outcome State Fault Refusal :=
  act (.scrubRunDone die b) powered (fun d => scrubRunDone d die b) s

/-- PAGE_REPAIR (R283). -/
def execPageRepair (page : PageRef) (env : RepairEnv) (s : State) : Host.Outcome State Fault Refusal :=
  act (.pageRepair page env) powered (fun d => pageRepair d page env) s

end Sys2Proof.Machine
end

