-- ==== Sys2Proof/Machine/CmdWell.lean ====
section
/-! DEFINITION. Machine/CmdWell: the commands of cisterns, wells and the program store (R109 to R128, R161), one meaning each over the
operations that Machine/ shares. -/

namespace Sys2Proof.Machine

/-- REFRESH_TICK (R109). -/
def execRefreshTick (die : DieId) (b : BlockId) (s : State) : Host.Outcome State Fault Refusal :=
  act (.refreshTick die b) powered (fun d => refreshTick d die b) s

/-- OPPORTUNISTIC_REFRESH (R110). -/
def execOpportunisticRefresh (die : DieId) (b : BlockId) (sub : Fin 32)
    (s : State) : Host.Outcome State Fault Refusal :=
  act (.opportunisticRefresh die b sub) powered (fun d => opportunisticRefresh d die b sub) s

/-- REFRESH_ACTION_END (R109). -/
def execRefreshActionEnd (die : DieId) (b : BlockId) (sub : Fin 32) (s : State) : Host.Outcome State Fault Refusal :=
  act (.refreshActionEnd die b sub) powered (fun d => refreshActionEnd d die b sub) s

/-- GROUND_REPAIR_DONE (R113). -/
def execGroundRepairDone (die : DieId) (b : BlockId) (fails : Fin 4) (bad : Bool)
    (s : State) : Host.Outcome State Fault Refusal :=
  act (.groundRepairDone die b fails bad) powered (fun d => groundReturn d die b fails bad) s

/-- BANK_POWER_DOWN (R124). -/
def execBankPowerDown (p : Path) (die : DieId) (b : BlockId) (bank : BankId)
    (s : State) : Host.Outcome State Fault Refusal :=
  act (.bankPowerDown p die b bank) powered (fun d => bankSwitch d p die b bank 0) s

/-- BANK_WAKE (R124). -/
def execBankWake (p : Path) (die : DieId) (b : BlockId) (bank : BankId)
    (s : State) : Host.Outcome State Fault Refusal :=
  act (.bankWake p die b bank) powered (fun d => bankSwitch d p die b bank 1) s

/-- BANK_READY (R124). -/
def execBankReady (die : DieId) (b : BlockId) (bank : BankId) (s : State) : Host.Outcome State Fault Refusal :=
  act (.bankReady die b bank) powered (fun d => bankReady d die b bank) s

/-- MARK_WRITE (R120). -/
def execMarkWrite (p : Path) (die : DieId) (b : BlockId) (row : BitVec 15) (narrow : Bool) (gen : BitVec 3) (filled : Bool)
    (s : State) : Host.Outcome State Fault Refusal :=
  act (.markWrite p die b row narrow gen filled) powered
    (fun d => markPut d p die b row.toNat narrow gen.toNat filled) s

/-- ZERO_RANGE_GO (R128). -/
def execZeroRangeGo (p : Path) (die : DieId) (b : BlockId) (narrow : Bool)
    (s : State) : Host.Outcome State Fault Refusal :=
  act (.zeroRangeGo p die b narrow) powered (fun d => ctlPut d p (ctl R.WEL_ZERO_CTRL die b) (1 + 2 * b2n narrow)) s

/-- ZERO_RANGE_DONE (R128). -/
def execZeroRangeDone (die : DieId) (b : LandingAt) (s : State) : Host.Outcome State Fault Refusal :=
  act (.zeroRangeDone die b) powered (fun d => zeroRangeDone d die b.block b.env) s

/-- PROGRAM_STORE_WRITE (R161). -/
def execProgramStoreWrite (w : StoreWrite) (s : State) : Host.Outcome State Fault Refusal :=
  act (.programStoreWrite w) powered (fun d => storeWrite d w) s

end Sys2Proof.Machine
end

