-- ==== Sys2Proof/Machine/Dispatch.lean ====
section
/-! DEFINITION. Machine/Dispatch: each command to its meaning. -/

namespace Sys2Proof.Machine

open Sys2Proof

def exec (i : Instr) (s : State) : Host.Outcome State Fault Refusal :=
  match i with
  | .powerUp railsOk => Sys2Proof.Machine.execPowerUp railsOk s
  | .inputUndervoltage => Sys2Proof.Machine.execInputUndervoltage s
  | .inputOvervoltage => Sys2Proof.Machine.execInputOvervoltage s
  | .inputBandChange v => Sys2Proof.Machine.execInputBandChange v s
  | .modRstNRise env => Sys2Proof.Machine.execModRstNRise env s
  | .modRstNFall => Sys2Proof.Machine.execModRstNFall s
  | .bootRetry flash => Sys2Proof.Machine.execBootRetry flash s
  | .referenceLost => Sys2Proof.Machine.execReferenceLost s
  | .referenceRestored => Sys2Proof.Machine.execReferenceRestored s
  | .ppsInEdge => Sys2Proof.Machine.execPpsInEdge s
  | .ppsOutPulse => Sys2Proof.Machine.execPpsOutPulse s
  | .temperatureSample place t => Sys2Proof.Machine.execTemperatureSample place t s
  | .ceilingLower place => Sys2Proof.Machine.execCeilingLower place s
  | .ceilingRaise place => Sys2Proof.Machine.execCeilingRaise place s
  | .ceilingChange => Sys2Proof.Machine.execCeilingChange s
  | .opRaiseAllowed => Sys2Proof.Machine.execOpRaiseAllowed s
  | .supplyCeilingLower watts amps => Sys2Proof.Machine.execSupplyCeilingLower watts amps s
  | .supplyCeilingRaise watts amps => Sys2Proof.Machine.execSupplyCeilingRaise watts amps s
  | .opApply => Sys2Proof.Machine.execOpApply s
  | .voltageRampDone => Sys2Proof.Machine.execVoltageRampDone s
  | .droopStretch die n deep margin => Sys2Proof.Machine.execDroopStretch die n deep margin s
  | .droopStretchEnd die again => Sys2Proof.Machine.execDroopStretchEnd die again s
  | .railAlert rail => Sys2Proof.Machine.execRailAlert rail s
  | .timeStep p v => Sys2Proof.Machine.execTimeStep p v s
  | .timeRate p v => Sys2Proof.Machine.execTimeRate p v s
  | .timeSourceSilent => Sys2Proof.Machine.execTimeSourceSilent s
  | .tallyRead p => Sys2Proof.Machine.execTallyRead p s
  | .timeRead p => Sys2Proof.Machine.execTimeRead p s
  | .rcCounterRead c => Sys2Proof.Machine.execRcCounterRead c s
  | .registerWrite c v => Sys2Proof.Machine.execRegisterWrite c v s
  | .applyArm p g => Sys2Proof.Machine.execApplyArm p g s
  | .pumpRingApply die b pump => Sys2Proof.Machine.execPumpRingApply die b pump s
  | .squareRetireApply die b => Sys2Proof.Machine.execSquareRetireApply die b s
  | .placementApply die => Sys2Proof.Machine.execPlacementApply die s
  | .reservoirShareApply stack => Sys2Proof.Machine.execReservoirShareApply stack s
  | .aqueductCtrlApply g => Sys2Proof.Machine.execAqueductCtrlApply g s
  | .barrierSlotApply h slot => Sys2Proof.Machine.execBarrierSlotApply h slot s
  | .modelTableApply m target => Sys2Proof.Machine.execModelTableApply m target s
  | .coreTimerApply die core => Sys2Proof.Machine.execCoreTimerApply die core s
  | .refreshTick die b => Sys2Proof.Machine.execRefreshTick die b s
  | .opportunisticRefresh die b sub => Sys2Proof.Machine.execOpportunisticRefresh die b sub s
  | .refreshActionEnd die b sub => Sys2Proof.Machine.execRefreshActionEnd die b sub s
  | .groundRepairDone die b fails bad => Sys2Proof.Machine.execGroundRepairDone die b fails bad s
  | .bankPowerDown p die b bank => Sys2Proof.Machine.execBankPowerDown p die b bank s
  | .bankWake p die b bank => Sys2Proof.Machine.execBankWake p die b bank s
  | .bankReady die b bank => Sys2Proof.Machine.execBankReady die b bank s
  | .markWrite p die b row narrow gen filled => Sys2Proof.Machine.execMarkWrite p die b row narrow gen filled s
  | .zeroRangeGo p die b narrow => Sys2Proof.Machine.execZeroRangeGo p die b narrow s
  | .zeroRangeDone die b => Sys2Proof.Machine.execZeroRangeDone die b s
  | .programStoreWrite w => Sys2Proof.Machine.execProgramStoreWrite w s
  | .startTally bad => Sys2Proof.Machine.execStartTally bad s
  | .blockStepStart die b bad => Sys2Proof.Machine.execBlockStepStart die b bad s
  | .zeroFillDone die b bad => Sys2Proof.Machine.execZeroFillDone die b bad s
  | .unitStart die b => Sys2Proof.Machine.execUnitStart die b s
  | .blockDone die b => Sys2Proof.Machine.execBlockDone die b s
  | .pass die b env => Sys2Proof.Machine.execPass die b env s
  | .entryComplete die b bad => Sys2Proof.Machine.execEntryComplete die b bad s
  | .tileLoadStart die b errs env => Sys2Proof.Machine.execTileLoadStart die b errs env s
  | .tileReady die b => Sys2Proof.Machine.execTileReady die b s
  | .quartetStallEnd die b env => Sys2Proof.Machine.execQuartetStallEnd die b env s
  | .fillMarkWaitEnd die b unit env => Sys2Proof.Machine.execFillMarkWaitEnd die b unit env s
  | .readReplay die b unit => Sys2Proof.Machine.execReadReplay die b unit s
  | .chainIssue die b env => Sys2Proof.Machine.execChainIssue die b env s
  | .chainIteration die b env => Sys2Proof.Machine.execChainIteration die b env s
  | .vectorStoreLand die b => Sys2Proof.Machine.execVectorStoreLand die b s
  | .nop die b env => Sys2Proof.Machine.execNop die b env s
  | .end_ die b env => Sys2Proof.Machine.execEnd die b env s
  | .loop die b env => Sys2Proof.Machine.execLoop die b env s
  | .gsig die b env => Sys2Proof.Machine.execGsig die b env s
  | .gwait die b env => Sys2Proof.Machine.execGwait die b env s
  | .gset die b env => Sys2Proof.Machine.execGset die b env s
  | .fence die b env => Sys2Proof.Machine.execFence die b env s
  | .eclr die b env => Sys2Proof.Machine.execEclr die b env s
  | .edepb die b env => Sys2Proof.Machine.execEdepb die b env s
  | .edepw die b env => Sys2Proof.Machine.execEdepw die b env s
  | .edeps die b env => Sys2Proof.Machine.execEdeps die b env s
  | .edept die b env => Sys2Proof.Machine.execEdept die b env s
  | .ernd die b env => Sys2Proof.Machine.execErnd die b env s
  | .ests die b env => Sys2Proof.Machine.execEsts die b env s
  | .estt die b env => Sys2Proof.Machine.execEstt die b env s
  | .addrSet die b env => Sys2Proof.Machine.execAddrSet die b env s
  | .addrAdd die b env => Sys2Proof.Machine.execAddrAdd die b env s
  | .addrSethi die b env => Sys2Proof.Machine.execAddrSethi die b env s
  | .addrMov die b env => Sys2Proof.Machine.execAddrMov die b env s
  | .descriptorIssue die b pump env => Sys2Proof.Machine.execDescriptorIssue die b pump env s
  | .ringDoorbell p die b pump tail => Sys2Proof.Machine.execRingDoorbell p die b pump tail s
  | .copy die b pump env => Sys2Proof.Machine.execCopy die b pump env s
  | .gather die b pump env => Sys2Proof.Machine.execGather die b pump env s
  | .scatter die b pump env => Sys2Proof.Machine.execScatter die b pump env s
  | .unskew16 die b pump env => Sys2Proof.Machine.execUnskew16 die b pump env s
  | .skew16 die b pump env => Sys2Proof.Machine.execSkew16 die b pump env s
  | .pumpWriteLand die b pump queue => Sys2Proof.Machine.execPumpWriteLand die b pump queue s
  | .descriptorComplete die b pump queue => Sys2Proof.Machine.execDescriptorComplete die b pump queue s
  | .readMerge sq m => Sys2Proof.Machine.execReadMerge sq m s
  | .linkRetry link crc waiter => Sys2Proof.Machine.execLinkRetry link crc waiter s
  | .bridgeLaneRetire p die port lane => Sys2Proof.Machine.execBridgeLaneRetire p die port lane s
  | .bridgeStateChange die port up => Sys2Proof.Machine.execBridgeStateChange die port up s
  | .fountainFrameAccept h => Sys2Proof.Machine.execFountainFrameAccept h s
  | .fountainAcceptance h frame target => Sys2Proof.Machine.execFountainAcceptance h frame target s
  | .fountainCreditReturn h target n => Sys2Proof.Machine.execFountainCreditReturn h target n s
  | .fntStall h frame target => Sys2Proof.Machine.execFntStall h frame target s
  | .fountainTargetRefused h frame target => Sys2Proof.Machine.execFountainTargetRefused h frame target s
  | .fntEntryCommit p h v => Sys2Proof.Machine.execFntEntryCommit p h v s
  | .fntListCommit p h first countM1 valid => Sys2Proof.Machine.execFntListCommit p h first countM1 valid s
  | .signal p die gate n => Sys2Proof.Machine.execSignal p die gate n s
  | .consume p die gate n => Sys2Proof.Machine.execConsume p die gate n s
  | .setThresh p die gate n => Sys2Proof.Machine.execSetThresh p die gate n s
  | .addThresh p die gate n => Sys2Proof.Machine.execAddThresh p die gate n s
  | .reset p die gate => Sys2Proof.Machine.execReset p die gate s
  | .hallwaitArm p die gate core coreDie => Sys2Proof.Machine.execHallwaitArm p die gate core coreDie s
  | .holdArrive die b => Sys2Proof.Machine.execHoldArrive die b s
  | .holdRelease => Sys2Proof.Machine.execHoldRelease s
  | .holdResume die b => Sys2Proof.Machine.execHoldResume die b s
  | .stepAbort => Sys2Proof.Machine.execStepAbort s
  | .abortEnd => Sys2Proof.Machine.execAbortEnd s
  | .stepWatchdogExpiry => Sys2Proof.Machine.execStepWatchdogExpiry s
  | .dieStepComplete e => Sys2Proof.Machine.execDieStepComplete e s
  | .stepComplete => Sys2Proof.Machine.execStepComplete s
  | .stepReplay => Sys2Proof.Machine.execStepReplay s
  | .reservoirAccess a => Sys2Proof.Machine.execReservoirAccess a s
  | .reservoirService stack n fails => Sys2Proof.Machine.execReservoirService stack n fails s
  | .pageEntryWrite p stack v => Sys2Proof.Machine.execPageEntryWrite p stack v s
  | .pageZeroFillDone stack page => Sys2Proof.Machine.execPageZeroFillDone stack page s
  | .stackRefresh stack => Sys2Proof.Machine.execStackRefresh stack s
  | .conversationExpiry conv => Sys2Proof.Machine.execConversationExpiry conv s
  | .condensingChange => Sys2Proof.Machine.execCondensingChange s
  | .trainingStateDone g => Sys2Proof.Machine.execTrainingStateDone g s
  | .trainingTimeout g => Sys2Proof.Machine.execTrainingTimeout g s
  | .laneMapExchange g own far farLaser => Sys2Proof.Machine.execLaneMapExchange g own far farLaser s
  | .mapRetryWait g => Sys2Proof.Machine.execMapRetryWait g s
  | .laserSample h input power => Sys2Proof.Machine.execLaserSample h input power s
  | .laserRestored h input => Sys2Proof.Machine.execLaserRestored h input s
  | .codewordNack g e => Sys2Proof.Machine.execCodewordNack g e s
  | .linkAck g n m => Sys2Proof.Machine.execLinkAck g n m s
  | .errorCountRelease g => Sys2Proof.Machine.execErrorCountRelease g s
  | .laneRetireReq p g lanes => Sys2Proof.Machine.execLaneRetireReq p g lanes s
  | .laneMapSwitch g far => Sys2Proof.Machine.execLaneMapSwitch g far s
  | .laneLoss g lane => Sys2Proof.Machine.execLaneLoss g lane s
  | .ethFrameRx g frame => Sys2Proof.Machine.execEthFrameRx g frame s
  | .hello g msg => Sys2Proof.Machine.execHello g msg s
  | .write hdr w bytes => Sys2Proof.Machine.execWrite hdr w bytes s
  | .writeLanded n => Sys2Proof.Machine.execWriteLanded n s
  | .readReq hdr w lenM1 pump bad => Sys2Proof.Machine.execReadReq hdr w lenM1 pump bad s
  | .readResp hdr w bytes => Sys2Proof.Machine.execReadResp hdr w bytes s
  | .ack x records => Sys2Proof.Machine.execAck x records s
  | .creditReq x xid window gen wanted => Sys2Proof.Machine.execCreditReq x xid window gen wanted s
  | .credit x xid window gen n => Sys2Proof.Machine.execCredit x xid window gen n s
  | .gateOp x xid gate opc v => Sys2Proof.Machine.execGateOp x xid gate opc v s
  | .gateAck x xid status => Sys2Proof.Machine.execGateAck x xid status s
  | .mbxPart x xid mailbox part bytes => Sys2Proof.Machine.execMbxPart x xid mailbox part bytes s
  | .mbxAck x xid status => Sys2Proof.Machine.execMbxAck x xid status s
  | .abort x number group => Sys2Proof.Machine.execAbort x number group s
  | .expressFlitDrop e => Sys2Proof.Machine.execExpressFlitDrop e s
  | .windowOpen p h => Sys2Proof.Machine.execWindowOpen p h s
  | .windowClose p h => Sys2Proof.Machine.execWindowClose p h s
  | .windowDrained window h => Sys2Proof.Machine.execWindowDrained window h s
  | .transactionTimeout n => Sys2Proof.Machine.execTransactionTimeout n s
  | .discoverySend => Sys2Proof.Machine.execDiscoverySend s
  | .discoveryReceive hdr r => Sys2Proof.Machine.execDiscoveryReceive hdr r s
  | .rosterPublish => Sys2Proof.Machine.execRosterPublish s
  | .rosterReceive hdr l => Sys2Proof.Machine.execRosterReceive hdr l s
  | .partnerSilent fa => Sys2Proof.Machine.execPartnerSilent fa s
  | .groupForm m => Sys2Proof.Machine.execGroupForm m s
  | .groupJoin hdr num gen edition lo hi => Sys2Proof.Machine.execGroupJoin hdr num gen edition lo hi s
  | .groupCommit hdr num gen version members => Sys2Proof.Machine.execGroupCommit hdr num gen version members s
  | .arrive x slot group ggen seq pay => Sys2Proof.Machine.execArrive x slot group ggen seq pay s
  | .release x slot group ggen seq pay => Sys2Proof.Machine.execRelease x slot group ggen seq pay s
  | .barrierGenerationWrite p h slot ggen => Sys2Proof.Machine.execBarrierGenerationWrite p h slot ggen s
  | .snapshotDrainDone => Sys2Proof.Machine.execSnapshotDrainDone s
  | .snapshotDrainTimeout => Sys2Proof.Machine.execSnapshotDrainTimeout s
  | .request conn r => Sys2Proof.Machine.execRequest conn r s
  | .cancelRecord conn bytes => Sys2Proof.Machine.execCancelRecord conn bytes s
  | .rstStream g conn stream => Sys2Proof.Machine.execRstStream g conn stream s
  | .cancel x reqId tenant slot kind => Sys2Proof.Machine.execCancel x reqId tenant slot kind s
  | .deadlineExpiry slot => Sys2Proof.Machine.execDeadlineExpiry slot s
  | .activeMaskLoad die b => Sys2Proof.Machine.execActiveMaskLoad die b s
  | .commitPoint => Sys2Proof.Machine.execCommitPoint s
  | .hold m => Sys2Proof.Machine.execHold m s
  | .holdAck hdr slot refused => Sys2Proof.Machine.execHoldAck hdr slot refused s
  | .released hdr slot => Sys2Proof.Machine.execReleased hdr slot s
  | .migrate hdr m => Sys2Proof.Machine.execMigrate hdr m s
  | .relay hdr slot bytes => Sys2Proof.Machine.execRelay hdr slot bytes s
  | .ctlRead hdr a => Sys2Proof.Machine.execCtlRead hdr a s
  | .ctlWrite hdr a v => Sys2Proof.Machine.execCtlWrite hdr a v s
  | .ctlResp hdr a status v => Sys2Proof.Machine.execCtlResp hdr a status v s
  | .windowReady hdr window gen piece digest8 => Sys2Proof.Machine.execWindowReady hdr window gen piece digest8 s
  | .pageRequest hdr m => Sys2Proof.Machine.execPageRequest hdr m s
  | .pageRefused hdr m => Sys2Proof.Machine.execPageRefused hdr m s
  | .tenantSet route identity tag => Sys2Proof.Machine.execTenantSet route identity tag s
  | .modelPart stamp msg => Sys2Proof.Machine.execModelPart stamp msg s
  | .modelCommit stamp msg => Sys2Proof.Machine.execModelCommit stamp msg s
  | .modelRemove stamp msg => Sys2Proof.Machine.execModelRemove stamp msg s
  | .retire stamp msg => Sys2Proof.Machine.execRetire stamp msg s
  | .manifestCheck m slice bytes => Sys2Proof.Machine.execManifestCheck m slice bytes s
  | .shardStaged m shard a => Sys2Proof.Machine.execShardStaged m shard a s
  | .shardDigestDone m shard => Sys2Proof.Machine.execShardDigestDone m shard s
  | .shardPlace m shard => Sys2Proof.Machine.execShardPlace m shard s
  | .scrubInterval page => Sys2Proof.Machine.execScrubInterval page s
  | .scrubRunStart p die b gap errs => Sys2Proof.Machine.execScrubRunStart p die b gap errs s
  | .scrubRunDone die b => Sys2Proof.Machine.execScrubRunDone die b s
  | .pageRepair page env => Sys2Proof.Machine.execPageRepair page env s
  | .attestRequest g conn stream nonce => Sys2Proof.Machine.execAttestRequest g conn stream nonce s
  | .attestSigned => Sys2Proof.Machine.execAttestSigned s
  | .txGo p die inst buffer => Sys2Proof.Machine.execTxGo p die inst buffer s
  | .mbxDrain p die mailbox seq => Sys2Proof.Machine.execMbxDrain p die mailbox seq s
  | .mailboxTimeout die mailbox => Sys2Proof.Machine.execMailboxTimeout die mailbox s
  | .mbxEnableClear p die mailbox => Sys2Proof.Machine.execMbxEnableClear p die mailbox s
  | .heartbeat => Sys2Proof.Machine.execHeartbeat s
  | .coordinatorTakeover => Sys2Proof.Machine.execCoordinatorTakeover s
  | .i3cRead bytes => Sys2Proof.Machine.execI3cRead bytes s
  | .i3cWrite bytes => Sys2Proof.Machine.execI3cWrite bytes s
  | .i3cResult => Sys2Proof.Machine.execI3cResult s
  | .getpid => Sys2Proof.Machine.execGetpid s
  | .setdasa static dyn => Sys2Proof.Machine.execSetdasa static dyn s
  | .entdaa dyn => Sys2Proof.Machine.execEntdaa dyn s
  | .tapReset => Sys2Proof.Machine.execTapReset s
  | .extest pins scan => Sys2Proof.Machine.execExtest pins scan s
  | .samplePreload pins scan => Sys2Proof.Machine.execSamplePreload pins scan s
  | .idcode => Sys2Proof.Machine.execIdcode s
  | .bypass code scan => Sys2Proof.Machine.execBypass code scan s
  | .ctlAccessRead a => Sys2Proof.Machine.execCtlAccessRead a s
  | .ctlAccessWrite a v => Sys2Proof.Machine.execCtlAccessWrite a v s
  | .retirementDecision => Sys2Proof.Machine.execRetirementDecision s
  | .gateRehome p die blocks => Sys2Proof.Machine.execGateRehome p die blocks s
  | .selftestSlice die b pass => Sys2Proof.Machine.execSelftestSlice die b pass s
  | .selftestInterval die b => Sys2Proof.Machine.execSelftestInterval die b s
  | .reservoirTestStart p => Sys2Proof.Machine.execReservoirTestStart p s
  | .liveUpdate u => Sys2Proof.Machine.execLiveUpdate u s
  | .machineTimerInterrupt die core => Sys2Proof.Machine.execMachineTimerInterrupt die core s
  | .wellApertureWrite die core mode off bytes env => Sys2Proof.Machine.execWellApertureWrite die core mode off bytes env s
  | .programStoreRead p die b => Sys2Proof.Machine.execProgramStoreRead p die b s
  | .reservoirTestDone bad => Sys2Proof.Machine.execReservoirTestDone bad s
  | .refusedRead c => Sys2Proof.Machine.execRefusedRead c s

end Sys2Proof.Machine
end

