-- ==== Sys2Proof/Safety.lean ====
section
/-! DEFINITION. Safety: the terms in which claims are stated: what waits is well formed, a command completes, and what a
command leaves as it was. -/

namespace Sys2Proof

open Sys2Proof.Machine

/-- The commands that wait are all well formed. -/
def QueueOk (s : State) : Prop := ∀ c ∈ s.pending, c.wellFormed = true

/-- The state with another device; the commands that wait are the same. -/
abbrev after (s : State) (d : Dev) : State := { s with dev := d }

/-- A command completes: the machine answers a next state, in which the commands that wait are the same and the device
has the property. -/
def Completes (c : Instr) (s : State) (P : Dev → Prop) : Prop :=
  ∃ d, Sys2Proof.Machine.exec c s = .next (after s d) ∧ P d

/-- A device with fields of its registers stored, one after another, and all else as it was. -/
def puts (d : Dev) (l : List (Nat × Fld × Nat)) : Dev := l.foldl (fun d x => fset d x.1 x.2.1 x.2.2) d

/-- Every register outside the list reads as before. -/
def RegsBut (d e : Dev) (l : List Nat) : Prop := ∀ a, a ∉ l → rd e a = rd d a

/-- Registers alone differ, and none outside the list. -/
def OnlyRegs (d e : Dev) (l : List Nat) : Prop := e = { d with regs := e.regs } ∧ RegsBut d e l

/-- One block and registers alone differ: no other block, and no register outside the list. -/
def OnlyBlock (d e : Dev) (die b : Nat) (l : List Nat) : Prop :=
  e = { d with regs := e.regs, blocks := e.blocks } ∧ RegsBut d e l
    ∧ ∀ g, g ≠ gblock die b → mgetD e.blocks g {} = mgetD d.blocks g {}

/-- A control write by a path is let through (R330). -/
abbrev MayWrite (d : Dev) (p : Path) (a : Nat) : Prop := refusal d { path := p, addr := BitVec.ofNat 32 a } true = none

/-- A control read by a path is let through (R330). -/
abbrev MayRead (d : Dev) (p : Path) (a : Nat) : Prop := refusal d { path := p, addr := BitVec.ofNat 32 a } false = none

/-- A bundle is in issue, and the slot named is the next to be performed (R167, R168). -/
abbrev SlotTurn (d : Dev) (die b : Nat) (slot : SlotId) (bu : Bundle) (rest : List SlotId) : Prop :=
  (blk d die b).seq.issuing = slot :: rest
    ∧ bundleAt d die b (unitCtx d die b (blk d die b).seq.slot) (blk d die b).seq.pos.pc = some bu

/-- A bundle may issue: its block runs in a live step, its cycle has come, it passes its checks, and nothing holds it
(R168, R175). -/
abbrev MayIssue (d : Dev) (die b : Nat) (bu : Bundle) : Prop :=
  let q := (blk d die b).seq
  let u := unitCtx d die b q.slot
  stepLive d = true ∧ q.frozen = false ∧ q.phase = .running ∧ q.issuing = [] ∧ bundleAt d die b u q.pos.pc = some bu
    ∧ intended q bu ≤ q.cycle ∧ issueFault d die b u bu = none ∧ issueWait d die b u bu = none

/-- A slot of a bundle has been performed: those that remain are next, and after the last, control goes on (R174). -/
def SlotPast (d e : Dev) (die b : Nat) (bu : Bundle) (rest : List SlotId) : Prop :=
  let q := (blk d die b).seq
  let r := (blk e die b).seq
  r.issuing = rest
    ∧ (if rest = [] then
        match advance q.pos bu with
        | some p => r.pos = p ∧ r.phase = q.phase
        | none => r.phase = .ended
      else r.pos = q.pos ∧ r.phase = q.phase)

/-- The command of an operation of the EAF unit (R173). -/
def eafCommand (die : DieId) (b : BlockId) (env : WellEnv) : Cop → Option Instr
  | .eclr .. => some (.eclr die b env)
  | .edepb .. => some (.edepb die b env)
  | .edepw .. => some (.edepw die b env)
  | .edeps .. => some (.edeps die b env)
  | .edept .. => some (.edept die b env)
  | .ernd .. => some (.ernd die b env)
  | .ests .. => some (.ests die b env)
  | .estt .. => some (.estt die b env)
  | _ => none

/-- A record of a kind, with its numbers and bytes, is all that goes out (R235, R239): on its VC, a frame with the
device's address as SRC. -/
def Went (d e : Dev) (vc : Nat) (m : Emit) : Prop :=
  ∃ r, e.out = d.out ++ [r] ∧ r.kind = m.kind ∧ r.nums = m.nums ∧ r.bytes = m.bytes ∧ r.vc = vc
    ∧ (m.kind.express = false → r.src = ownFa d)

/-- An aqueduct takes a record at once (R222, R226): nothing waits on it, its replay buffer has room, and for a frame the far
end has granted a credit of its VC. -/
def Takes (d : Dev) (g vc : Nat) (m : Emit) : Prop :=
  aqdFabricUp d g = true ∧ (aqd d g).queue = [] ∧ bufferBytes (aqd d g).unacked + m.fibre ≤ 524288
    ∧ (m.kind.express = true ∨ (vc < 8 ∧ 0 < mgetD (aqd d g).credits vc 0 ∧ m.bytes.length ≤ 4096))

/-- What a device sends to a fabric address on a VC (R226, R252): to itself, or by a reachable head on an aqueduct that takes
it, the record goes out at once. -/
def Sent (d e : Dev) (fa vc : Nat) (m : Emit) : Prop :=
  fa = ownFa d ∨ (∃ g, routeAqd d fa vc = some g ∧ headReachable d (g / 8) = true ∧ Takes d g vc m) → Went d e vc m

/-- Firmware moves no shard (R276, R277): none is received, waited for or sent, no recipient has reported to this device, which has
done with none that it has staged for others, and no read of one is to go out. -/
abbrev ShardsSettled (d : Dev) : Prop :=
  d.srv.stageWins = [] ∧ d.srv.ready = [] ∧ d.srv.sends = []
    ∧ ∀ x ∈ modelEpochs d, (∀ y ∈ x.2.loads, y.2.askers = [])
        ∧ ∀ p ∈ x.2.numbered, receivesShard d x.2 p.1 p.2.1 p.2.2 = false ∧ (match p.2.2 with
          | .receiving .. => true
          | _ => false) = false
          ∧ loaderDone d x.2 p.1 p.2.1 p.2.2 = false ∧ (p.1 ∈ x.2.asked ∨ readsShard d x.2 p.1 p.2.1 = false)

/-- A counter goes up by one and stays at its greatest value. -/
def Counted (d e : Dev) (a : Nat) (f : Fld) : Prop := fget e a f = min (fget d a f + 1) (pow2 f.width - 1)

/-- A die's first fault is recorded with its code, and counted (R191). -/
def Recorded (d e : Dev) (die : Nat) (code : FaultCode) : Prop :=
  let st := ctl R.DIE_FAULT_STATUS die 0
  Counted d e (ctl R.DIE_FAULT_CNT die 0) F.DIE_FAULT_CNT_COUNT
    ∧ (flag d st F.DIE_FAULT_STATUS_VALID = false → draining d = false →
        flag e st F.DIE_FAULT_STATUS_VALID = true ∧ fget e st F.DIE_FAULT_STATUS_CODE = code.code)

/-- The registers of a die that a fault may change (R191, R326): its record, its count, and the sources of its cores. -/
def faultRegs (die : Nat) : List Nat :=
  ([R.DIE_FAULT_STATUS, R.DIE_FAULT_CNT, R.DIE_FAULT_STEP_LO, R.DIE_FAULT_STEP_HI, R.DIE_FAULT_CYCLE, R.DIE_FAULT_BUNDLE,
    R.DIE_FAULT_ENTRY, R.DIE_FAULT_ROW, R.DIE_FAULT_TAG, R.DIE_FAULT_AUX].map fun p => ctl p die 0)
    ++ [0, 1, 2, 3].map fun c => ctl R.HAL_IRQ_PEND die c

/-- A record goes to a client: on its stream, in a fabric frame that a response's number follows (R299), or in a RELAY
frame to the admitting device (R295, R304). -/
def Responded (d e : Dev) (c : Conn) (kind : EmitKind) (bytes : List Byte) : Prop :=
  match c with
  | .http a n k => e.out = d.out ++ [{ kind, nums := [0, a, n, k], bytes }]
  | .fabric fa => Sent d e fa 5 { kind, nums := leaveBy d fa :: fa ::
      (if kind = .cancelResult then [] else [mgetD d.srv.responses fa 0]), bytes }
  | .relay fa k => Sent d e fa 5 { kind := .relay, nums := [leaveBy d fa, fa, k], bytes }

/-- The directory of paused conversations is empty, and a stack has HALL pages for the record of a request (R209). -/
abbrev HasRoom (d : Dev) (x : Slot) : Prop :=
  d.srv.convs = [] ∧ d.srv.dirPages = []
    ∧ ∃ k ∈ List.range 8, stackUp d k = true ∧ (freeOn d k (pagesFor (64 + 4 * x.tokens.length))).isSome = true

/-- A request has ended (R306, R308): its slot is FREE, it is known as ended, the end is counted, and its KV is kept
where the status and the request say so and there is room. -/
def RequestEnded (d e : Dev) (n : Nat) (x : Slot) (reg : Nat) (f : Fld) (kept : Prop) : Prop :=
  slot e n = none ∧ (x.tenant, x.reqId) ∈ e.srv.ended ∧ Counted d e reg f
    ∧ (kept → 0 < x.ttl → HasRoom d x → ∃ c ∈ e.srv.convs, c.tenant = x.tenant ∧ c.model = x.model ∧ c.tokens = x.tokens
        ∧ (x.conv ≠ 0 → c.conv = x.conv) ∧ c.pinned = false ∧ c.expiry = d.tally + x.ttl * 625000000)

/-- No epoch waits to drop out and no model to be removed. -/
abbrev ModelsSettled (d : Dev) : Prop := ∀ m ∈ d.srv.models, m.2.prev = none ∧ m.2.removing = false

end Sys2Proof
end

