-- ==== Sys2Proof/Certificates/Slice0/Obligations.lean ====
section
/-! DEFINITION. Certificates/Slice0/Obligations: the statements for the provers. For every command some statement says
where it completes and with what effect; the others state what holds of every step, of memories and of reset. A clause on
a condition of the state names it as a hypothesis on the state and the operands alone. -/

open Sys2Proof Sys2Proof.Machine

/-! ## The queue, reset and memories -/

/-- The model's own frame (log entry 1): a step takes the command at the front of the queue and runs it. Model's
choices: log entry 1. -/
def Obligations.FrontCommandRuns : Prop :=
  ∀ (c : Instr) (s : State), step { s with pending := c :: s.pending } = exec c s

/-- Log entry 3, the model's choice: with no command waiting a step is a tick of the tally (R360), which never stops.
Model's choices: log entries 3 and 20. -/
def Obligations.EmptyQueueTicks : Prop :=
  ∀ s : State, s.pending = [] →
    step s = .next { s with dev := tick s.dev }
      ∧ (powered s.dev = false → step s = .next s)

/-- The opcode table gives no row any bits. Model's choices: log entry 1. -/
def Obligations.NoWordSpellsACommand : Prop :=
  ∀ (s : State) (nbits w : Nat), decodeTableWord nbits w = none ∧ s.withFetchWord nbits w = s

/-- R191 to R193 and R330: what goes wrong is recorded in registers and the device goes on, so no command stops the
machine, and a queue of well-formed commands stays well formed. Model's choices: log entry 1. -/
def Obligations.StepKeepsQueueAndGoesOn : Prop :=
  ∀ s : State, ∃ t, step s = .next t ∧ (QueueOk s → QueueOk t)

/-- R358, R402: nothing acts on a device whose rails are off but the rise of its input. A command with an operand
outside the bounds of its kind is no event (the model's choice, log entry 1). Model's choices: log entries 1 and 20.
-/
def Obligations.OffDeviceUntouched : Prop :=
  ∀ (c : Instr) (s : State),
    (s.dev.boot.on = false → (∀ b, c ≠ .powerUp b) → exec c s = .next s) ∧ (c.wellFormed = false → exec c s = .next s)

/-- R10, R402 and the reset columns of the register tables. Model's choices: log entries 2, 4 and 6. -/
def Obligations.ResetLeaves : Prop :=
  State.reset.pending = [] ∧ QueueOk State.reset
    ∧ (let d := State.reset.dev
       d.regs = [] ∧ d.shadow = [] ∧ d.windows = [] ∧ d.txns = [] ∧ d.mailboxes = [] ∧ d.out = [] ∧ d.tally = 0
         ∧ bootStage d = 0 ∧ d.step.running = false
         ∧ fget d (clkReg R.CLK_THERM) F.CLK_THERM_THROTTLE = 95 ∧ fget d (clkReg R.CLK_THERM) F.CLK_THERM_RESUME = 90
         ∧ fget d (clkReg R.PWR_VTARGET) F.PWR_VTARGET_MV = 750 ∧ fget d (clkReg R.CLK_OP_LIMIT) F.CLK_OP_LIMIT_LIMIT = 7
         ∧ fget d (clkReg R.PWR_LIMIT) F.PWR_LIMIT_W = 16500 ∧ fget d (clkReg R.PWR_LIMIT) F.PWR_LIMIT_DECI_A = 3750
         ∧ flag d (ctl R.HAL_CORE_CTRL 7 0) F.HAL_CORE_CTRL_HOLD = false
         ∧ flag d (ctl R.HAL_CORE_CTRL 7 3) F.HAL_CORE_CTRL_HOLD = true
         ∧ bridgeUp d 7 0 = true ∧ bridgeUp d 0 0 = false
         ∧ blk d 3 5 = {} ∧ (blk d 3 5).ps.wf = true ∧ (blk d 3 5).expSlots.wf = true
         ∧ memByte d.epoch 0 (blk d 3 5).well 77 = Config.indetByte d.epoch 0 77
         ∧ memByte d.epoch 0 (blk d 3 5).expSlots 131071 = 0)

/-- R10, R126, R127: writes, zero-fills and losses of a byte memory. Model's choices: log entry 4. -/
def Obligations.MemoryReadsBack : Prop :=
  ∀ (m : Mem) (epoch unit a n k : Nat) (bs : List Byte), m.wf = true →
    memRead epoch unit (memWrite m a bs) a bs.length = bs
      ∧ (k < a ∨ a + bs.length ≤ k → memByte epoch unit (memWrite m a bs) k = memByte epoch unit m k)
      ∧ (a ≤ k ∧ k < a + n → memByte epoch unit (memZero m a n) k = 0
          ∧ memByte epoch unit (memForget m a n) k = Config.indetByte epoch unit k)
      ∧ (k < a ∨ a + n ≤ k → memByte epoch unit (memZero m a n) k = memByte epoch unit m k
          ∧ memByte epoch unit (memForget m a n) k = memByte epoch unit m k)

/-- The canonical form of a byte memory (log entry 4) is kept by every operation on it and makes equal contents equal
data. Model's choices: log entry 4. -/
def Obligations.MemoryStaysCanonical : Prop :=
  (∀ (m : Mem) (a n : Nat) (bs : List Byte) (os : List (Option Byte)), m.wf = true →
    (memWrite m a bs).wf = true ∧ (memWriteOpt m a os).wf = true ∧ (memZero m a n).wf = true ∧ (memForget m a n).wf = true)
  ∧ ∀ m n : Mem, m.wf = true → n.wf = true → (∀ a, ivHas m.zeroed a = ivHas n.zeroed a) →
      (∀ a, (mget m.cells a).or (memKnown m a) = (mget n.cells a).or (memKnown n a)) → m = n

/-! ## Input, reset, time and clocking (R356 to R374, R398, R402) -/

/-- R358 (power-up and loss), R402 (reset and boot), R345 (retries). Model's choices: log entries 2 and 10. -/
def Obligations.RailsAndResetComplete : Prop :=
  ∀ s : State,
    let lost (on inReset : Bool) : State :=
      { s with dev := { epoch := s.dev.epoch + 1, out := s.dev.out, boot := { on := on, inReset := inReset } } }
    (s.dev.boot.on = false → exec (.powerUp true) s = .next (lost true true))
      ∧ (s.dev.boot.on = true → exec .inputUndervoltage s = .next (lost false true)
          ∧ exec .inputOvervoltage s = .next (lost false true) ∧ exec .modRstNFall s = .next (lost true true))
      ∧ (∀ env, s.dev.boot.on = true → s.dev.boot.inReset = true →
          Completes (.modRstNRise env) s fun e =>
            e.boot.inReset = false ∧ e.boot.env = env ∧ bootStage e = 1 ∧ s.dev.tally < e.boot.until_
              ∧ e.boot.until_ ≤ s.dev.tally + msTicks 2 ∧ RegsBut s.dev e [cfgStatus])
      ∧ (∀ flash, powered s.dev = true → fget s.dev cfgStatus F.CFG_STATUS_ERR ≠ 0 →
          s.dev.boot.until_ + secTicks 1 ≤ s.dev.tally →
          Completes (.bootRetry flash) s fun e =>
            e.boot.env.flash = flash ∧ bootStage e = 3 ∧ fget e cfgStatus F.CFG_STATUS_ERR = 0
              ∧ RegsBut s.dev e [cfgStatus])

/-- R358 (bands of warning), R357 (rail alerts), R370 (loss of the reference). -/
def Obligations.InputAndReferenceComplete : Prop :=
  ∀ s : State, powered s.dev = true →
    let alert := clkReg R.PWR_ALERT
    let st := clkReg R.CLK_DEV_STATUS
    let deg := (clkReg R.CLK_TIME_CTRL, F.CLK_TIME_CTRL_DEGRADED)
    (∀ v : BitVec 16,
        let shown := puts s.dev [(clkReg R.PWR_IN, F.PWR_IN_VIN, v.toNat)]
        (4200 ≤ v.toNat → v.toNat < 4400 →
          exec (.inputBandChange v) s = .next (after s (puts shown [(alert, ⟨4, 1⟩, 1)])))
        ∧ (5800 < v.toNat → v.toNat ≤ 6000 →
          exec (.inputBandChange v) s = .next (after s (puts shown [(alert, ⟨5, 1⟩, 1)])))
        ∧ (v.toNat < 4200 ∨ 4400 ≤ v.toNat ∧ v.toNat ≤ 5800 ∨ 6000 < v.toNat →
          exec (.inputBandChange v) s = .next (after s (shown))))
      ∧ (∀ r, exec (.railAlert r) s =
          .next (after s { puts s.dev [(alert, ⟨6, 1⟩, 1)] with errors := s.dev.errors ++ [(r.loc, s.dev.tally)] }))
      ∧ exec .referenceLost s =
          .next (after s (puts s.dev
            [(st, F.CLK_DEV_STATUS_REF_OK, 0), (st, F.CLK_DEV_STATUS_HOLDOVER, 1),
             (st, F.CLK_DEV_STATUS_LOSS_OF_REFERENCE, 1), (st, F.CLK_DEV_STATUS_DEGRADED, 1), (alert, ⟨0, 1⟩, 1),
             (deg.1, deg.2, 1)]))
      ∧ (flag s.dev st F.CLK_DEV_STATUS_HOLDOVER = true → exec .referenceRestored s =
          .next (after s (puts s.dev
            [(st, F.CLK_DEV_STATUS_REF_OK, 1), (st, F.CLK_DEV_STATUS_HOLDOVER, 0), (st, F.CLK_DEV_STATUS_DEGRADED, 0),
             (deg.1, deg.2, b2n s.dev.power.sourceSilent)])))

/-- R363 (thresholds and ceilings), R365 (emergency), R366 (trip). -/
def Obligations.TemperatureAndCeilingsComplete : Prop :=
  ∀ s : State, powered s.dev = true →
    (∀ (die : DieId) (n : Fin 4) (t : BitVec 8),
        let reg := districtReg R.CLK_DST_STATUS die n
        (degrees t.toNat < throttleAt s.dev → degrees t.toNat < 102 → s.dev.power.emergency = false →
          s.dev.power.trip = false →
          Completes (.temperatureSample (.district die n) t) s fun e =>
            fget e reg F.CLK_DST_STATUS_TJ = t.toNat ∧ flag e reg F.CLK_DST_STATUS_THROTTLE = false
              ∧ flag e reg F.CLK_DST_STATUS_EMERG = false ∧ e = { s.dev with regs := e.regs, power := e.power }
              ∧ RegsBut s.dev e [reg, ctl R.CLK_TJ die 0])
        ∧ (102 ≤ degrees t.toNat →
          Completes (.temperatureSample (.district die n) t) s fun e =>
            fget e reg F.CLK_DST_STATUS_TJ = t.toNat ∧ flag e reg F.CLK_DST_STATUS_EMERG = true
              ∧ e.power.emergency = true
              ∧ (108 ≤ degrees t.toNat → s.dev.power.trip = false → e.power.trip = true
                  ∧ flag e (clkReg R.CLK_DEV_STATUS) F.CLK_DEV_STATUS_TRIP = true
                  ∧ ∀ x : DieId, flag e (ctl R.CLK_DIE_STATUS x 0) F.CLK_DIE_STATUS_GATED = true)))
      ∧ (∀ (p : ThermalPlace) (t : Nat), mget s.dev.power.hotSince p.key = some t → t + msTicks 1 ≤ s.dev.tally →
          Completes (.ceilingLower p) s fun e =>
            (ceilingOf s.dev p ≤ 7 → ceilingOf e p = ceilingOf s.dev p - 1) ∧ mget e.power.hotSince p.key = some s.dev.tally
              ∧ fget e (clkReg R.CLK_DEV_STATUS) F.CLK_DEV_STATUS_CEILING = deviceCeiling e)
      ∧ (∀ (p : ThermalPlace) (t : Nat), mget s.dev.power.coolSince p.key = some t → t + msTicks 1 ≤ s.dev.tally →
          Completes (.ceilingRaise p) s fun e =>
            (ceilingOf s.dev p ≤ 7 → ceilingOf e p = min 7 (ceilingOf s.dev p + 1))
              ∧ mget e.power.coolSince p.key = some s.dev.tally
              ∧ fget e (clkReg R.CLK_DEV_STATUS) F.CLK_DEV_STATUS_CEILING = deviceCeiling e)

/-- R364 (choice of the point), R367 (scheduled change). -/
def Obligations.OperatingPointComplete : Prop :=
  ∀ s : State, powered s.dev = true →
    let ap := clkReg R.CLK_OP_APPLY
    let armed (e : Dev) (op : Nat) : Prop :=
      flag e ap F.CLK_OP_APPLY_APPLY = true ∧ flag e (clkReg R.CLK_DEV_STATUS) F.CLK_DEV_STATUS_PEND = true
        ∧ shadowField e (clkReg R.CLK_OP_NEXT) F.CLK_OP_NEXT_OP = op ∧ shadowTally e = (s.dev.tally + 4096) % pow2 64
        ∧ e.power.allowed = none ∧ activeOp e = activeOp s.dev
    (flag s.dev ap F.CLK_OP_APPLY_APPLY = false → allowedPoint s.dev < activeOp s.dev →
        Completes .ceilingChange s fun e => armed e (allowedPoint s.dev))
      ∧ (∀ t, s.dev.power.allowed = some (allowedPoint s.dev, t) → t + msTicks 1 ≤ s.dev.tally →
          activeOp s.dev < allowedPoint s.dev →
          Completes .opRaiseAllowed s fun e => armed e (allowedPoint s.dev))
      ∧ (∀ w a : BitVec 16, (powerLimits s.dev).1 < w.toNat ∨ (powerLimits s.dev).2 < a.toNat →
          Completes (.supplyCeilingLower w a) s fun e =>
            e.power.supply = s.dev.power.supply - 1 ∧ e.power.supplyAt = s.dev.tally
              ∧ fget e (clkReg R.PWR_IN_POWER) F.PWR_IN_POWER_W = w.toNat
              ∧ fget e (clkReg R.PWR_IN) F.PWR_IN_IIN = a.toNat)
      ∧ (∀ w a : BitVec 16, 100 * w.toNat < 95 * (powerLimits s.dev).1 → 100 * a.toNat < 95 * (powerLimits s.dev).2 →
          s.dev.power.supplyAt + msTicks 10 ≤ s.dev.tally →
          Completes (.supplyCeilingRaise w a) s fun e =>
            e.power.supply = min 7 (s.dev.power.supply + 1) ∧ e.power.supplyAt = s.dev.tally
              ∧ fget e (clkReg R.PWR_IN_POWER) F.PWR_IN_POWER_W = w.toNat)
      ∧ (flag s.dev ap F.CLK_OP_APPLY_APPLY = true → shadowTally s.dev ≤ s.dev.tally →
          Completes .opApply s fun e =>
            let op := min (shadowField s.dev (clkReg R.CLK_OP_NEXT) F.CLK_OP_NEXT_OP) (allowedPoint s.dev)
            activeOp e = op ∧ (∀ x : DieId, fget e (ctl R.CLK_DIE_STATUS x 0) F.CLK_DIE_STATUS_OP = op)
              ∧ flag e ap F.CLK_OP_APPLY_APPLY = false ∧ flag e ap F.CLK_OP_APPLY_PEND = false
              ∧ flag e (clkReg R.CLK_DEV_STATUS) F.CLK_DEV_STATUS_PEND = false ∧ pend e pointGroup = false)
      ∧ (∀ mv, s.dev.power.ramp = some mv → 750 ≤ mv → mv ≤ 840 →
          Completes .voltageRampDone s fun e =>
            e.power.ramp = none ∧ flag e (clkReg R.CLK_DEV_STATUS) F.CLK_DEV_STATUS_RAMP = false
              ∧ ∀ x : DieId, mv ≤ fget e (ctl R.PWR_RAIL_CORE x 0) F.PWR_RAIL_CORE_MV + 10
                  ∧ fget e (ctl R.PWR_RAIL_CORE x 0) F.PWR_RAIL_CORE_MV ≤ mv + 10)
      ∧ (∃ t, exec .ceilingChange s = .next t) ∧ (∃ t, exec .opRaiseAllowed s = .next t)
      ∧ (∀ w a : BitVec 16, (∃ t, exec (.supplyCeilingLower w a) s = .next t)
          ∧ ∃ t, exec (.supplyCeilingRaise w a) s = .next t)
      ∧ (∃ t, exec .opApply s = .next t) ∧ (∃ t, exec .voltageRampDone s = .next t)

/-- R368 (droop), R372 (silent source), R373 (pulse per second), R398 (PPS_IN). Model's choices: log entries 21, 47
and 79. -/
def Obligations.DroopAndPulsesComplete : Prop :=
  ∀ s : State, powered s.dev = true →
    (∀ (die : DieId) (n : Fin 4) (deep : Bool) (margin : BitVec 8), (dieSt s.dev die).droop = none →
        Completes (.droopStretch die n deep margin) s fun e =>
          let m := districtReg R.CLK_DST_MARGIN die n
          let c := ctl R.CLK_DROOP_CNT die 0
          (dieSt e die).droop = some (16, deep)
            ∧ flag e (ctl R.CLK_DIE_STATUS die 0) F.CLK_DIE_STATUS_STRETCH = true
            ∧ fget e m F.CLK_DST_MARGIN_DROOPS
                = min (fget s.dev m F.CLK_DST_MARGIN_DROOPS + 1) (pow2 F.CLK_DST_MARGIN_DROOPS.width - 1)
            ∧ fget e m F.CLK_DST_MARGIN_MIN_PS = min margin.toNat (fget s.dev m F.CLK_DST_MARGIN_MIN_PS)
            ∧ fget e c F.CLK_DROOP_CNT_EPISODES
                = min (fget s.dev c F.CLK_DROOP_CNT_EPISODES + 1) (pow2 F.CLK_DROOP_CNT_EPISODES.width - 1))
      ∧ (∀ (die : DieId) (left : Nat) (deep : Bool), (dieSt s.dev die).droop = some (left, deep) →
          Completes (.droopStretchEnd die none) s fun e =>
            let c := ctl R.CLK_DROOP_CNT die 0
            (dieSt e die).droop = none ∧ flag e (ctl R.CLK_DIE_STATUS die 0) F.CLK_DIE_STATUS_STRETCH = false
              ∧ fget e c F.CLK_DROOP_CNT_CYCLES
                  = min (fget s.dev c F.CLK_DROOP_CNT_CYCLES + (16 - left)) (pow2 F.CLK_DROOP_CNT_CYCLES.width - 1)
              ∧ RegsBut s.dev e [c, ctl R.CLK_DIE_STATUS die 0])
      ∧ (fget s.dev (clkReg R.CLK_TIME_CTRL) F.CLK_TIME_CTRL_SRC ≠ 3 → s.dev.power.sourceHeard + secTicks 3 ≤ s.dev.tally →
          exec .timeSourceSilent s = .next (after s (puts { s.dev with power := { s.dev.power with sourceSilent := true } }
              [(clkReg R.CLK_TIME_CTRL, F.CLK_TIME_CTRL_DEGRADED, 1)])))
      ∧ (s.dev.boot.ppsIn = none → Completes .ppsInEdge s fun e =>
          e.boot.ppsIn = some s.dev.tally ∧ timeNs s.dev ≤ e.boot.ppsStamp + 4 ∧ e.boot.ppsStamp ≤ timeNs s.dev + 4)
      ∧ (flag s.dev (clkReg R.CLK_TIME_CTRL) F.CLK_TIME_CTRL_PPS_OUT_EN = true → exec .ppsOutPulse s = .next (after s
            { s.dev with out := s.dev.out ++ [{ kind := .ppsOut, nums := [timeNs s.dev / 1000000000], bytes := [] }] }))

/-- R371 (device time), R360 (the tally), R9 (reads that latch). Model's choices: log entries 16 and 79. -/
def Obligations.TimeAccessComplete : Prop :=
  ∀ (s : State) (p : Path), powered s.dev = true →
    (∀ v : Word, MayWrite s.dev p (clkReg R.CLK_TIME_STEP) →
        exec (.timeStep p v) s = .next (after s
            { s.dev with clock := { s.dev.clock with steps := s.dev.clock.steps ++ [v.toInt] } }))
      ∧ (∀ v : Word, MayWrite s.dev p (clkReg R.CLK_TIME_RATE) →
        exec (.timeRate p v) s = .next (after s
            { s.dev with clock := { s.dev.clock with
              newRate := some (unsigned 32 (max (-200000000) (min 200000000 v.toInt))) } }))
      ∧ (MayRead s.dev p (clkReg R.CLK_TALLY_LO) →
        exec (.tallyRead p) s = .next (after s
            { wr s.dev (clkReg R.CLK_TALLY_HI) (BitVec.ofNat 32 (s.dev.tally / pow2 32)) with
              out := s.dev.out ++ [{ kind := .readData, bytes := [],
                                     nums := [p.bank, clkReg R.CLK_TALLY_LO, s.dev.tally % pow2 32] }] }))
      ∧ (MayRead s.dev p (clkReg R.CLK_TIME_NS) →
        Completes (.timeRead p) s fun e =>
          e.out = s.dev.out ++ [{ kind := .readData, bytes := [],
                                  nums := [p.bank, clkReg R.CLK_TIME_NS, timeNs s.dev % 1000000000] }]
            ∧ rd e (clkReg R.CLK_TIME_SEC_LO) = BitVec.ofNat 32 (timeNs s.dev / 1000000000)
            ∧ (rd e (clkReg R.CLK_TIME_SEC_HI)).toNat = timeNs s.dev / 1000000000 / pow2 32 % pow2 16
            ∧ RegsBut s.dev e [clkReg R.CLK_TIME_SEC_LO, clkReg R.CLK_TIME_SEC_HI])

/-! ## Control accesses and apply groups (R9, R328 to R335) -/

/-- R9 (access codes) for every register of the table. Model's choices: log entries 16, 43 and 84. -/
def Obligations.AccessCodesComplete : Prop :=
  ∀ (s : State) (c : CtlAccess) (r : RegRow), powered s.dev = true → regAt c.addr.toNat = some r →
    (refusal s.dev c false = none →
        Completes (.rcCounterRead c) s fun e =>
          let k := regKey s.dev c.path c.addr.toNat
          e.out = s.dev.out ++ [{ kind := .readData, bytes := [],
                                  nums := [c.path.bank, c.addr.toNat, (view s.dev c.path c.addr.toNat).toNat] }]
            ∧ (∀ f ∈ r.fields, f.acc = .rc → fget e k f.fld = f.reset)
            ∧ (∀ f ∈ r.fields, f.acc ≠ .rc → fget e k f.fld = fget s.dev k f.fld))
      ∧ (∀ v : Word, refusal s.dev c true = none →
          (ctlClass c.addr.toNat ∈ [0x05, 0x07, 0x0C, 0x3F]
              ∨ ctlPlace c.addr.toNat ∈ [R.CLK_THERM, R.CLK_OP_LIMIT, R.PWR_LIMIT, R.PWR_ALERT, R.FNT_TIMEOUT, R.HAL_REMOTE,
                  R.GAT_CTRL] →
            Completes (.registerWrite c v) s fun e =>
              OnlyRegs s.dev e [c.addr.toNat]
                ∧ ∀ f ∈ r.fields,
                    let n := bits v.toNat f.fld.lo f.fld.width
                    let o := fget s.dev c.addr.toNat f.fld
                    fget e c.addr.toNat f.fld
                      = (match f.acc with
                          | .rw => n
                          | .w1c => o - (o &&& n)
                          | .w1s => o ||| n
                          | _ => o))
          ∧ (ctlPlace c.addr.toNat = R.RSV_SHARE →
            exec (.registerWrite c v) s
              = .next (after s { s.dev with shadow := mset s.dev.shadow c.addr.toNat v })))

/-- R330 (refusals), for reads, writes and the REFUSED_READ row. Model's choices: log entry 84. -/
def Obligations.RefusedAccessComplete : Prop :=
  ∀ (s : State) (c : CtlAccess) (write : Bool) (x : Reason) (v : Word), powered s.dev = true → refusal s.dev c write = some x →
    let st := ctl R.HAL_ACC_STATUS c.path.die 4
    let ad := ctl R.HAL_ACC_ADDR c.path.die 4
    let recorded (e : Dev) : Prop :=
      fget e st F.HAL_ACC_STATUS_COUNT
          = min (fget s.dev st F.HAL_ACC_STATUS_COUNT + 1) (pow2 F.HAL_ACC_STATUS_COUNT.width - 1)
        ∧ (flag s.dev st F.HAL_ACC_STATUS_VALID = false →
            flag e st F.HAL_ACC_STATUS_VALID = true ∧ fget e st F.HAL_ACC_STATUS_REASON = x.code
              ∧ fget e st F.HAL_ACC_STATUS_PATH = c.path.code ∧ flag e st F.HAL_ACC_STATUS_WRITE = write
              ∧ rd e ad = c.addr)
        ∧ (flag s.dev st F.HAL_ACC_STATUS_VALID = true →
            fget e st F.HAL_ACC_STATUS_REASON = fget s.dev st F.HAL_ACC_STATUS_REASON ∧ rd e ad = rd s.dev ad)
        ∧ e = { s.dev with regs := e.regs, out := e.out }
        ∧ RegsBut s.dev e ([st, ad] ++ [0, 1, 2, 3].map fun i => ctl R.HAL_IRQ_PEND c.path.die i)
    let told (e : Dev) : Prop :=
      match c.path with
      | .core die core _ => e.out = s.dev.out
          ++ [{ kind := .coreFault, bytes := [], nums := [die, core, if write then 7 else 5, c.addr.toNat] }]
      | p => e.out = s.dev.out ++ [{ kind := .readData, bytes := [], nums := [p.bank, c.addr.toNat, 0] }]
    (write = true → Completes (.registerWrite c v) s recorded)
      ∧ (write = false → Completes (.rcCounterRead c) s recorded
          ∧ Completes (.refusedRead c) s fun e => recorded e ∧ told e)

/-- R334 (apply groups), R335 (when they apply), R144 (link retirement), R323 (core timers). Model's choices: log
entry 43. -/
def Obligations.ApplyGroupsComplete : Prop :=
  ∀ s : State, powered s.dev = true →
    (∀ (p : Path) (g : ApplyGroup), MayWrite s.dev p (g.target s.dev p).1 →
        Completes (.applyArm p g) s fun e =>
          bits (rd e (regKey s.dev p (g.target s.dev p).1)).toNat (g.target s.dev p).2 1 = 1)
      ∧ (∀ (die : DieId) (b : BlockId) (pump : PumpId),
          let pb := pump == .b
          let ap := pumpReg R.PMP_RING_APPLY die b pb
          let hd := pumpReg R.PMP_RING_HEAD die b pb
          let tl := pumpReg R.PMP_RING_TAIL die b pb
          flag s.dev ap F.PMP_RING_APPLY_APPLY = true → rd s.dev hd = rd s.dev tl → pumpQueue s.dev die b pb .ring = [] →
          Completes (.pumpRingApply die b pump) s fun e =>
            (∀ a ∈ ringGroup die b pb, rd e a = shadowOf s.dev a) ∧ pend e (ringGroup die b pb) = false
              ∧ flag e ap F.PMP_RING_APPLY_APPLY = false ∧ rd e hd = 0 ∧ rd e tl = 0
              ∧ RegsBut s.dev e (ringGroup die b pb ++ [ap, hd, tl]))
      ∧ (∀ (die : DieId) (b : BlockId),
          let ap := ctl R.SQR_APPLY die b
          let r := ctl R.SQR_RETIRE die b
          flag s.dev ap F.SQR_APPLY_APPLY = true → s.dev.step.running = false →
          Completes (.squareRetireApply die b) s fun e =>
            rd e r = shadowOf s.dev r ∧ flag e ap F.SQR_APPLY_APPLY = false
              ∧ fget e (ctl R.SQR_STATUS die b) F.SQR_STATUS_RETIRED = shadowField s.dev r F.SQR_RETIRE_LINKS
              ∧ RegsBut s.dev e [r, ap, ctl R.SQR_STATUS die b])
      ∧ (∀ (die : DieId) (core : CoreId),
          let ap := ctl R.HAL_TIMER_APPLY die core
          flag s.dev ap F.HAL_TIMER_APPLY_APPLY = true →
          Completes (.coreTimerApply die core) s fun e =>
            (∀ a ∈ timerGroup die core, rd e a = shadowOf s.dev a) ∧ flag e ap F.HAL_TIMER_APPLY_APPLY = false
              ∧ (s.dev.tally < mtimecmp e die core → e.timerIrq = s.dev.timerIrq.filter fun c => c != die.val * 4 + core.val)
              ∧ RegsBut s.dev e (timerGroup die core ++ [ap]))

/-- R165, R200, R230, R259, R287: the groups that apply at step boundaries and idle cycles. Model's choices: log
entries 41, 42, 53, 54 and 71. -/
def Obligations.GroupsTakeTheirShadows : Prop :=
  ∀ s : State, powered s.dev = true →
    (∀ die : DieId,
        let ap := ctl R.DIE_PLACE_APPLY die 0
        flag s.dev ap F.DIE_PLACE_APPLY_APPLY = true → s.dev.step.running = false →
        Completes (.placementApply die) s fun e =>
          (∀ a ∈ placementGroup die, rd e a = shadowOf s.dev a) ∧ flag e ap F.DIE_PLACE_APPLY_APPLY = false
            ∧ (∀ a, a ∉ ap :: placementGroup die →
                s.dev.step.nextHdr = none ∨ (ModelsSettled s.dev ∧ ctlClass a ≠ 0x20) → rd e a = rd s.dev a)
            ∧ ((∀ x : DieId, x ≠ die → flag s.dev (ctl R.DIE_PLACE_APPLY x 0) F.DIE_PLACE_APPLY_APPLY = false) →
                ∀ h, s.dev.step.nextHdr = some h → e.step = { s.dev.step with hdr := h, nextHdr := none }))
      ∧ (∀ stack : StackId,
          let ap := ctl R.RSV_APPLY (48 + stack) 0
          let a := ctl R.RSV_SHARE (48 + stack) 0
          let v := (shadowOf s.dev a).toNat
          let sum := bits v 0 8 + bits v 8 8 + bits v 16 8 + bits v 24 8
          flag s.dev ap F.RSV_APPLY_APPLY = true → s.dev.step.running = false →
          Completes (.reservoirShareApply stack) s fun e =>
            (rd e a).toNat = (if 100 < sum then defaultShares else v)
              ∧ flag e (ctl R.RSV_STATUS (48 + stack) 0) F.RSV_STATUS_SHARE_ERR = decide (100 < sum)
              ∧ flag e ap F.RSV_APPLY_APPLY = false
              ∧ RegsBut s.dev e [a, ap, ctl R.RSV_STATUS (48 + stack) 0])
      ∧ (∀ g : AqdId,
          let ap := aqdReg R.AQD_APPLY g
          let c := aqdReg R.AQD_CTRL g
          flag s.dev ap F.AQD_APPLY_APPLY = true →
          Completes (.aqueductCtrlApply g) s fun e =>
            rd e c = shadowOf s.dev c ∧ flag e ap F.AQD_APPLY_APPLY = false
              ∧ (shadowField s.dev c ⟨0, 3⟩ ≠ fget s.dev c ⟨0, 3⟩ → shadowField s.dev c F.AQD_CTRL_ENABLE = 1 →
                  lanesOut s.dev g ≠ 0xFF → trainState e g = 1))
      ∧ (∀ (h : HeadId) (slot : Fin 64),
          let a := barReg R.GAT_BAR_ARRIVED h slot
          flag s.dev a F.GAT_BAR_ARRIVED_APPLY = true → flag s.dev a F.GAT_BAR_ARRIVED_LOCAL = false →
          (barSlot s.dev h slot).cur = [] → (barSlot s.dev h slot).next = [] → s.dev.barEvents = [] →
          gateMet s.dev (56 + h) (shadowField s.dev (barReg R.GAT_BAR_CTRL h slot) F.GAT_BAR_CTRL_ARRIVE_GATE) = false →
          Completes (.barrierSlotApply h slot) s fun e =>
            (∀ r ∈ barGroup h slot, rd e r = shadowOf s.dev r) ∧ flag e a F.GAT_BAR_ARRIVED_APPLY = false
              ∧ RegsBut s.dev e (a :: barGroup h slot))
      ∧ (∀ (m : Fin 64) (upto : Option (Fin 65536)) (x : EpochRec),
          flag s.dev (modelReg R.SRV_MT_APPLY m) F.SRV_MT_APPLY_APPLY = true → s.dev.step.running = false →
          (model s.dev m).staged = some x → (model s.dev m).prev = none → (model s.dev m).removing = false →
          (x.stages.zip x.manifest.shards).all (fun p => p.1 == .placed || !needed x p.2) = true →
          Completes (.modelTableApply m upto) s fun e =>
            let c := modelReg R.SRV_MT_CTRL m
            let alt := ((model s.dev m).active.map fun r => !r.alt).getD (bit (shadowOf s.dev c).toNat 1)
            (model e m).active = some { x with live := true, program := modelProgram e m, alt := alt }
              ∧ (model e m).staged = none ∧ (∀ r ∈ modelGroup m, r ≠ c → rd e r = shadowOf s.dev r)
              ∧ rd e c = BitVec.ofNat 32 (setBits (shadowOf s.dev c).toNat 1 1 (b2n alt))
              ∧ flag e (modelReg R.SRV_MT_APPLY m) F.SRV_MT_APPLY_APPLY = false)

/-! ## Cisterns, wells and program stores (R107 to R128, R161) -/

/-- R109 (debt), R110 (actions), R113 (repair from the ground copy). Model's choices: log entries 26 and 86. -/
def Obligations.RefreshAndRepairComplete : Prop :=
  ∀ (s : State) (die : DieId) (b : BlockId), powered s.dev = true →
    let x := blk s.dev die b
    let cnt := ctl R.CIS_REFRESH_CNT die b
    Completes (.refreshTick die b) s (fun e => OnlyBlock s.dev e die b [cnt] ∧ ∀ n : Fin 32,
        let owed := mgetD x.debt n 0
        mgetD (blk e die b).debt n 0 = (if subOn s.dev die b n then owed + 16 else owed)
          ∧ mget (blk e die b).action n
            = (if subOn s.dev die b n && decide (64 < owed + 16) && (mget x.action n).isNone then some (true, actionCycles)
                else mget x.action n))
      ∧ (∀ n : Fin 32, subOn s.dev die b n = true → 0 < mgetD x.debt n 0 → mget x.action n = none →
          subClaimed s.dev die b n = false →
          exec (.opportunisticRefresh die b n) s
            = .next (after s (setBlk s.dev die b { x with action := mset x.action n (false, actionCycles) })))
      ∧ (∀ (n : Fin 32) (a : Bool × Nat), mget x.action n = some a →
          Completes (.refreshActionEnd die b n) s fun e =>
            mgetD (blk e die b).debt n 0 = mgetD x.debt n 0 - 16
              ∧ mgetD (blk e die b).group n 0 = (mgetD x.group n 0 + 1) % 256
              ∧ mget (blk e die b).action n = (if 64 < mgetD x.debt n 0 - 16 then some (true, actionCycles) else none)
              ∧ OnlyBlock s.dev e die b [cnt])
      ∧ (∀ (fails : Fin 4) (r : Repair) (rest : List Repair),
          let addr := groundAddr s.dev die b r.line
          let stack := addr / 2097152 % 8
          x.repairs = r :: rest → fails.val < 3 → cisReady s.dev die b r.line = true →
          forcedIn x (r.line / 4096) = false → loaderClaims s.dev die b = false →
          (mgetD s.dev.stackTab stack {}).accepted = [] → stackReachable s.dev stack = true →
          rsvRefused s.dev stack { addr, len := 1024, data := none, vc := 3, ring := true, origin := .repair die b } = false →
          x.pumpA.ring = [] → x.pumpB.ring = [] →
          Completes (.groundRepairDone die b fails false) s fun e =>
            (blk e die b).repairs = rest ∧ e.rsv = s.dev.rsv
              ∧ memRead e.epoch 0 (blk e die b).cistern (r.line * 1024) 1024 = rsvRead s.dev addr 1024
              ∧ ∀ g, g ≠ gblock die b → mgetD e.blocks g {} = mgetD s.dev.blocks g {})

/-- R124 (bank power), R120 (marks written by firmware), R292 (private tiles lost). Model's choices: log entry 4. -/
def Obligations.BanksAndMarksComplete : Prop :=
  ∀ (s : State) (p : Path) (die : DieId) (b : BlockId), powered s.dev = true →
    (∀ k : BankId,
        let r := bankRegs die b k
        let lost (e : Dev) (srv : Serving) : Prop :=
          blk e die b = loseBank (blk s.dev die b) k
            ∧ (∀ n row, k = .wide n → row / 512 = n.val → mget (blk e die b).wideMarks row = none)
            ∧ (∀ n row, k = .narrow n → row / 4096 = n.val → mget (blk e die b).narrowMarks row = none)
            ∧ (∀ n a, k = .sub n → a / 4194304 = n.val → memByte e.epoch 0 (blk e die b).cistern a = Config.indetByte e.epoch 0 a)
            ∧ e = { s.dev with regs := e.regs, blocks := e.blocks, srv := srv, epoch := s.dev.epoch + 1 }
        (MayWrite s.dev p r.1 → bit (rd s.dev r.1).toNat r.2.2 = true →
          Completes (.bankPowerDown p die b k) s fun e =>
            bit (rd e r.1).toNat r.2.2 = false ∧ bit (rd e r.2.1).toNat r.2.2 = false
              ∧ lost e (match k with
                | .sub n => { s.dev.srv with tagLines := cutLines (gblock die b) (n * 4096) 4096 s.dev.srv.tagLines }
                | _ => s.dev.srv)
              ∧ RegsBut s.dev e [r.1, r.2.1])
        ∧ (MayWrite s.dev p r.1 → bit (rd s.dev r.1).toNat r.2.2 = false →
          exec (.bankWake p die b k) s = .next (after s (puts s.dev [(r.1, ⟨r.2.2, 1⟩, 1)])))
        ∧ (bit (rd s.dev r.1).toNat r.2.2 = true → bit (rd s.dev r.2.1).toNat r.2.2 = false →
          Completes (.bankReady die b k) s fun e =>
            bit (rd e r.2.1).toNat r.2.2 = true ∧ lost e s.dev.srv ∧ RegsBut s.dev e [r.2.1]))
      ∧ (∀ (row : BitVec 15) (narrow filled : Bool) (gen : BitVec 3),
          MayWrite s.dev p (ctl R.WEL_MARK_CTRL die b) → row.toNat < (if narrow then 32768 else 6144) →
          wellReady s.dev die b narrow row.toNat = true →
          Completes (.markWrite p die b row narrow gen filled) s fun e =>
            let marks (d : Dev) := if narrow then (blk d die b).narrowMarks else (blk d die b).wideMarks
            mget (marks e) row.toNat = (if filled then some gen.toNat else none)
              ∧ (∀ k, k ≠ row.toNat → mget (marks e) k = mget (marks s.dev) k)
              ∧ (blk e die b).well = (blk s.dev die b).well ∧ OnlyBlock s.dev e die b [])

/-- R128 (ranged zero-fill), R117 (lost arbitrations), R161 (the program store). Model's choices: log entries 11, 34
and 42. -/
def Obligations.ZeroFillAndProgramStoreComplete : Prop :=
  ∀ (s : State) (p : Path) (die : DieId) (b : BlockId), powered s.dev = true →
    let c := ctl R.WEL_ZERO_CTRL die b
    let rg := ctl R.WEL_ZERO_RANGE die b
    let x := blk s.dev die b
    (∀ narrow : Bool, MayWrite s.dev p c → flag s.dev c F.WEL_ZERO_CTRL_BUSY = false →
        Completes (.zeroRangeGo p die b narrow) s fun e =>
          let first := fget s.dev rg F.WEL_ZERO_RANGE_FIRST
          let last := min (if narrow then 32768 else 6144) (first + fget s.dev rg F.WEL_ZERO_RANGE_COUNT)
          (blk e die b) = { x with zeroLeft := some (narrow, first, last - first) }
            ∧ flag e c F.WEL_ZERO_CTRL_GO = true ∧ flag e c F.WEL_ZERO_CTRL_BUSY = true
            ∧ flag e c F.WEL_ZERO_CTRL_CLASS = narrow ∧ OnlyBlock s.dev e die b [c])
      ∧ (∀ (narrow : Bool) (first count : Nat) (env : WellEnv), x.zeroLeft = some (narrow, first, count) →
          x.well.wf = true → Completes (.zeroRangeDone die { block := b, env }) s fun e =>
            let lost := ctl R.WEL_ARB_CNT die b
            let counted (f : Fld) (n : Nat) : Prop := fget e lost f = min (fget s.dev lost f + n) (pow2 f.width - 1)
            counted F.WEL_ARB_CNT_WIDE_LOST env.lostWide ∧ counted F.WEL_ARB_CNT_NARROW_LOST env.lostNarrow ∧
            (∀ row i, first ≤ row → row < first + count → row < (if narrow then 32768 else 6144) → i < rowBytes narrow →
                wellReady s.dev die b narrow row = true →
                memByte e.epoch 0 (blk e die b).well (rowAddr narrow row + i) = 0
                  ∧ mget (if narrow then (blk e die b).narrowMarks else (blk e die b).wideMarks) row = none)
              ∧ (∀ a, a < rowAddr narrow first ∨ rowAddr narrow (first + count) ≤ a →
                memByte e.epoch 0 (blk e die b).well a = memByte s.dev.epoch 0 x.well a)
              ∧ flag e c F.WEL_ZERO_CTRL_BUSY = false ∧ flag e c F.WEL_ZERO_CTRL_GO = false
              ∧ (blk e die b).zeroLeft = none ∧ OnlyBlock s.dev e die b [c, lost])
      ∧ (∀ v : BitVec 32, MayWrite s.dev p (ctl R.SEQ_PS_DATA die b) → s.dev.step.running = false →
          let a := ctl R.SEQ_PS_ADDR die b
          let w := fget s.dev a F.SEQ_PS_ADDR_WORD
          Completes (.programStoreWrite (.word p die b v)) s fun e =>
            blk e die b = { x with ps := memWrite x.ps (w * 4) (leBytes 4 v.toNat) }
              ∧ fget e a F.SEQ_PS_ADDR_WORD = (w + 1) % pow2 F.SEQ_PS_ADDR_WORD.width ∧ OnlyBlock s.dev e die b [a])
      ∧ (∀ bytes : List Byte, s.dev.step.running = true →
          exec (.programStoreWrite (.program bytes)) s
            = .next (after s { s.dev with step := { s.dev.step with loads := s.dev.step.loads ++ [bytes] } }))
      ∧ (∀ bytes : List Byte, s.dev.step.running = false → Completes (.programStoreWrite (.program bytes)) s fun e =>
          (∃ r : LoadResult, e.out = s.dev.out ++ [{ kind := .loadResult, nums := [r.code], bytes := [] }]
            ∧ (bytes.length < 64 → r = .format ∧ e = { s.dev with out := e.out })
            ∧ (r = .loaded → e.step.nextHdr = some (parseStepHdr bytes)
                ∧ (∀ d : DieId, flag e (ctl R.DIE_PLACE_APPLY d 0) F.DIE_PLACE_APPLY_APPLY = true))))

/-! ## Starting and ending a step in its blocks (R19, R127, R166, R181) -/

/-- R181 (step start), R127 (step zero-fill), R166 (units of a block). Model's choices: log entries 26, 32, 46 and 64.
-/
def Obligations.StepStartComplete : Prop :=
  ∀ s : State, powered s.dev = true →
    (∀ bads : List (DieId × BlockId × BadRead), s.dev.step.hdr.lockstep = true → lockstepBarred s.dev = false → (∀ x : DieId, startTally s.dev x ≤ s.dev.tally) →
        (mayStart s.dev = true → Completes (.startTally bads) s fun e =>
          e.step.running = true ∧ e.step.lockstep = true ∧ e.step.tallied = true ∧ e.step.wdogFrom = s.dev.tally
            ∧ e.step.number = s.dev.step.number)
        ∧ (s.dev.step.running = true → s.dev.step.lockstep = true → s.dev.step.tallied = false → Completes (.startTally bads) s fun e =>
          e.step.tallied = true ∧ e.step.wdogFrom = s.dev.tally
            ∧ ∀ (die : DieId) (b : BlockId) (k : Nat), (blk s.dev die b).seq.phase = .armed →
                nextSlot s.dev die b 0 = some k → (blk e die b).seq.phase = .running ∧ (blk e die b).seq.slot = k))
      ∧ (∀ (die : DieId) (b : BlockId) (bad : List BadRead), startGateMet s.dev die = true → mayStart s.dev = true →
          let p := prepareStep s.dev
          Completes (.blockStepStart die b bad) s fun e =>
            e.step.running = true ∧ e.step.lockstep = (s.dev.step.hdr.lockstep && !lockstepBarred s.dev)
              ∧ e.step.wdogFrom = s.dev.step.signalled.getD s.dev.tally ∧ (blk e die b).basins = [] ∧ (blk e die b).accs = []
              ∧ (blk e die b).chains = [] ∧ (blk e die b).well = (blk p die b).well
              ∧ (selectionUnits s.dev = [] → strangeRows s.dev = [] → p = s.dev)
              ∧ (∀ x : DieId, fget e (ctl R.DIE_NAN_CNT x 0) F.DIE_NAN_CNT_COUNT = 0
                  ∧ flag e (ctl R.DIE_STEP_STATUS x 0) F.DIE_STEP_STATUS_ABORTED = false)
              ∧ (s.dev.step.hdr.zeroFill = true → (blk e die b).seq.phase = .filling)
              ∧ (s.dev.step.hdr.zeroFill = false → s.dev.step.hdr.lockstep = false →
                  ∀ k m, nextSlot s.dev die b 0 = some k → rowMask p die b (unitCtx s.dev die b k) = some m →
                    (blk e die b).seq.phase = .running ∧ (blk e die b).seq.slot = k ∧ (blk e die b).mask = m))
      ∧ (∀ (die : DieId) (b : BlockId) (bad : List BadRead), (blk s.dev die b).seq.phase = .filling → stepLive s.dev = true →
          (blk s.dev die b).well.wf = true →
          Completes (.zeroFillDone die b bad) s fun e =>
            (∀ (n : Fin 4) (row i : Nat), slotValid s.dev die b n = true → (unitCtx s.dev die b n).base.wide ≤ row →
                row < (unitCtx s.dev die b n).base.wide + (unitCtx s.dev die b n).hdr.wideRows → row < 6144 → i < 1024 →
                wellReady s.dev die b false row = true →
                memByte e.epoch 0 (blk e die b).well (row * 1024 + i) = 0 ∧ mget (blk e die b).wideMarks row = none)
              ∧ (s.dev.step.lockstep = false → ∀ k, nextSlot s.dev die b 0 = some k →
                  (blk e die b).seq.phase = .running ∧ (blk e die b).seq.slot = k)
              ∧ (s.dev.step.lockstep = true → s.dev.step.tallied = false → (blk e die b).seq.phase = .armed))
      ∧ (∀ (die : DieId) (b : BlockId) (k : Nat),
          let x := blk s.dev die b
          stepLive s.dev = true → x.seq.phase = .ended → opsDone x = true → nextSlot s.dev die b (x.seq.slot + 1) = some k →
          Completes (.unitStart die b) s fun e =>
            let y := blk e die b
            y.seq.phase = .running ∧ y.seq.slot = k ∧ y.seq.pos = {} ∧ y.seq.lastIssue = x.seq.cycle + 16
              ∧ y.temps = [] ∧ y.preds = [] ∧ y.accs = [] ∧ y.load = none ∧ y.well = x.well ∧ y.basins = x.basins
              ∧ OnlyBlock s.dev e die b [ctl R.SEQ_MQ_EXP_VALID die b])
      ∧ (∀ (die : DieId) (b : BlockId),
          let x := blk s.dev die b
          x.seq.phase = .ended → opsDone x = true → nextSlot s.dev die b (x.seq.slot + 1) = none →
          exec (.blockDone die b) s = .next (after s (setBlk s.dev die b { x with seq := { x.seq with phase := .done } })))

/-! ## The control and address slots (R170, R172 to R174) and the EAF unit (R58, R102, R173) -/

/-- R172 (control slot), R174 (loops), R168 (issue), R303 (the mask at a layer mark). Model's choices: log entries 45
and 91. -/
def Obligations.ControlFlowComplete : Prop :=
  ∀ (s : State) (die : DieId) (b : BlockId) (env : WellEnv) (bu : Bundle), powered s.dev = true →
    env.lostWide + env.lostNarrow = 0 →
    let x := blk s.dev die b
    let q := x.seq
    let kept (e : Dev) : Prop := blk e die b = { x with seq := (blk e die b).seq } ∧ OnlyBlock s.dev e die b []
    (∀ rest, SlotTurn s.dev die b .control bu rest →
        (bu.control = .nop → Completes (.nop die b env) s fun e => SlotPast s.dev e die b bu rest ∧ kept e)
        ∧ (bu.control = .end_ → Completes (.end_ die b env) s fun e =>
            (blk e die b).seq.issuing = rest ∧ (rest = [] → (blk e die b).seq.phase = .ended) ∧ kept e)
        ∧ (∀ count len, bu.control = .loop count len → Completes (.loop die b env) s fun e =>
            SlotPast s.dev e die b bu rest ∧ kept e
              ∧ (rest = [] → (blk e die b).seq.pos.pc = q.pos.pc + 1
                  ∧ (blk e die b).seq.pos.loops = { start := q.pos.pc + 1, len, left := count } :: q.pos.loops))
        ∧ (∀ m, bu.control = .fence m → Completes (.fence die b env) s fun e => SlotPast s.dev e die b bu rest ∧ kept e)
        ∧ (∀ g, bu.control = .gwait g → g ≠ 255 →
            Completes (.gwait die b env) s fun e => SlotPast s.dev e die b bu rest ∧ kept e)
        ∧ (∀ m, bu.control = .gwait 255 → env.bad = [] → rowMask s.dev die b (unitCtx s.dev die b q.slot) = some m →
            Completes (.gwait die b env) s fun e =>
              SlotPast s.dev e die b bu rest ∧ (blk e die b).maskLoads = x.maskLoads ++ [(m, q.lastIssue + 8)]
                ∧ OnlyBlock s.dev e die b [])
        ∧ (∀ f fs, bu.control = .nop → rest = [] → q.pos.loops = f :: fs → q.pos.pc + 1 = f.start + f.len → 1 < f.left →
            Completes (.nop die b env) s fun e =>
              (blk e die b).seq.pos.pc = f.start ∧ (blk e die b).seq.pos.loops = { f with left := f.left - 1 } :: fs))
      ∧ (MayIssue s.dev die b bu → bu.slots = [.control] → bu.control = .nop → q.holdCause = none → q.holds = [] →
          env.program = false →
          Completes (.nop die b env) s fun e =>
            SlotPast s.dev e die b bu [] ∧ (blk e die b).seq.lastIssue = intended q bu ∧ (blk e die b).seq.fresh = false
              ∧ (rd e (ctl R.SEQ_BUNDLE die b)).toNat = bundleAddr q.slot q.pos.pc % 4294967296
              ∧ OnlyBlock s.dev e die b [ctl R.SEQ_BUNDLE die b])

/-- R172 (GSIG, GSET), R179 (gate operations), R250 (signals to another device). Model's choices: log entries 33, 39
and 91. -/
def Obligations.GateSlotComplete : Prop :=
  ∀ (s : State) (die : DieId) (b : BlockId) (env : WellEnv) (bu : Bundle) (rest : List SlotId), powered s.dev = true →
    env.lostWide + env.lostNarrow = 0 → SlotTurn s.dev die b .control bu rest →
    let count (d : Dev) (g : Nat) (gate : Nat) := (rd d (gateReg R.GAT_COUNT g gate)).toNat
    let thresh (d : Dev) (g : Nat) (gate : Nat) := (rd d (gateReg R.GAT_THRESH g gate)).toNat
    let faults (d : Dev) (g : Nat) := fget d (ctl R.GAT_BANK_STATUS g 0) F.GAT_BANK_STATUS_FAULTS
    let past (e : Dev) : Prop := (blk e die b).seq.issuing = rest
    (∀ gate gdie add fareg, bu.control = .gsig gate gdie add false fareg → gdie < 48 → gate < 256 →
        (count s.dev gdie gate + add < 4294967296 → Completes (.gsig die b env) s fun e =>
          past e ∧ count e gdie gate = count s.dev gdie gate + add ∧ thresh e gdie gate = thresh s.dev gdie gate
            ∧ (thresh e gdie gate ≤ count e gdie gate → waiters e gdie gate = []
                ∧ ∀ (o : BlockId) w, o ≠ b → Waiter.block o ∈ waiters s.dev gdie gate →
                  (blk s.dev gdie o).seq.held = some w → w.on = .gate gdie gate →
                  (blk e gdie o).seq.held = none ∧ (blk e gdie o).seq.gateOpen = true)
            ∧ (count e gdie gate < thresh e gdie gate →
                OnlyBlock s.dev e die b [gateReg R.GAT_COUNT gdie gate, gateReg R.GAT_THRESH gdie gate]))
        ∧ (4294967296 ≤ count s.dev gdie gate + add → Completes (.gsig die b env) s fun e =>
            past e ∧ count e gdie gate = count s.dev gdie gate ∧ thresh e gdie gate = thresh s.dev gdie gate
              ∧ faults e gdie = min (faults s.dev gdie + 1) 65535))
      ∧ (∀ gate gdie add fareg, bu.control = .gsig gate gdie add true fareg →
          routeHead s.dev (areg (blk s.dev die b).seq.pos.regs fareg % 65536) 0 = none →
          Completes (.gsig die b env) s fun e =>
            past e ∧ fget e (ctl R.AQD_TXN_CNT_B (56 + primaryHead s.dev) 9) F.AQD_TXN_CNT_B_TIMEOUT
                = min (fget s.dev (ctl R.AQD_TXN_CNT_B (56 + primaryHead s.dev) 9) F.AQD_TXN_CNT_B_TIMEOUT + 1)
                    (pow2 F.AQD_TXN_CNT_B_TIMEOUT.width - 1)
              ∧ ∀ g gate : Nat, count e g gate = count s.dev g gate)
      ∧ (∀ gate v rel, bu.control = .gset gate v rel → gate < 256 → v < 4294967296 →
          (ownerOk s.dev die gate (.block die b) = true → (rel = true → thresh s.dev die gate + v < 4294967296) →
            Completes (.gset die b env) s fun e =>
              past e ∧ thresh e die gate = (if rel then thresh s.dev die gate + v else v)
                ∧ count e die gate = count s.dev die gate
                ∧ (thresh e die gate ≤ count e die gate → waiters e die gate = []))
          ∧ (ownerOk s.dev die gate (.block die b) = false → Completes (.gset die b env) s fun e =>
              past e ∧ thresh e die gate = thresh s.dev die gate ∧ count e die gate = count s.dev die gate
                ∧ faults e die = min (faults s.dev die + 1) 65535))

/-- R170 (address slot). Model's choices: log entry 91. -/
def Obligations.AddressSlotComplete : Prop :=
  ∀ (s : State) (die : DieId) (b : BlockId) (env : WellEnv) (bu : Bundle) (r imm : Nat), powered s.dev = true →
    env.lostWide + env.lostNarrow = 0 → SlotTurn s.dev die b .address bu [] → bu.control ≠ .end_ →
    0 < r → r < 8 → imm < 16777216 → (blk s.dev die b).seq.pos.regs.length = 8 → areg (blk s.dev die b).seq.pos.regs 0 = 0 →
    let x := blk s.dev die b
    let a (d : Dev) (n : Nat) := areg (blk d die b).seq.pos.regs n
    let writes (c : Instr) (v : Nat) : Prop := Completes c s fun e =>
      a e r = v ∧ a e 0 = 0 ∧ (∀ n, n ≠ r → a e n = a s.dev n) ∧ (blk e die b).seq.pos.regs.length = 8
        ∧ SlotPast s.dev e die b bu [] ∧ blk e die b = { x with seq := (blk e die b).seq } ∧ OnlyBlock s.dev e die b []
    (bu.address = some (.set r imm) → writes (.addrSet die b env) imm)
      ∧ (bu.address = some (.add r imm) →
          writes (.addrAdd die b env) ((a s.dev r + (if imm < 8388608 then imm else 4278190080 + imm)) % 4294967296))
      ∧ (bu.address = some (.sethi r imm) → a s.dev r < 4294967296 →
          writes (.addrSethi die b env) (a s.dev r % 16777216 + imm % 256 * 16777216))
      ∧ (bu.address = some (.mov r imm) →
          let k := imm / 8
          writes (.addrMov die b env) ((a s.dev (imm % 8) + (if k < 1048576 then k else 4292870144 + k)) % 4294967296))

/-- R58 (accumulators), R102 (order), R172, R173 (the operations), R50 (seals), R54 (rounding). Model's choices: log
entries 28, 88 and 91. -/
def Obligations.EafSlotComplete : Prop :=
  ∀ (s : State) (die : DieId) (b : BlockId) (o : EafOp) (os : List EafOp) (acc : Nat), powered s.dev = true →
    let x := blk s.dev die b
    let u := unitCtx s.dev die b o.slot
    let ac (d : Dev) (i : Nat) := accAt (blk d die b).accs i
    let row (gen : Option Nat) (r : Nat) : Prop := runRow s.dev die b u o.row gen = .ok r
    let left (e : Dev) : Prop := (blk e die b).eafQueue = os
    let bytes (e : Dev) (a n : Nat) := memRead e.epoch 0 (blk e die b).well a n
    x.eafQueue = o :: os → eafTurn x o = true → o.progress = 0 → o.taken = 0 → acc < 64 →
    (∀ c p y fx, eafCommand die b {} o.cop = some c → performEaf s.dev die b o = .done p y fx →
        exec c s = .next (after s (putBlk s.dev die b ({ y with eafQueue := os }, fx))))
      ∧ (∀ count, o.cop = .eclr acc count → acc + count ≤ 64 → Completes (.eclr die b {}) s fun e =>
        left e ∧ OnlyBlock s.dev e die b []
          ∧ (∀ i, i < 64 → ac e i = (if acc ≤ i ∧ i < acc + count then eafZero else ac s.dev i)))
      ∧ (∀ entry, o.cop = .edepb entry 1 acc → acc = 0 → entry < 1024 → entry < u.hdr.entries → entry + u.base.entry < 1024 →
          let k := u.base.entry + entry
          (passPending x o.seq k = false → (basinAt x k).sealBit = true → Completes (.edepb die b {}) s fun e =>
            left e ∧ (blk e die b).basins = x.basins
              ∧ ∀ i v, (basinVals s.dev die b k)[i]? = some v → i < 64 → ac e i = eafDepF (ac s.dev i) v)
          ∧ (passPending x o.seq k = false → (basinAt x k).sealBit = false → Completes (.edepb die b {}) s fun e =>
            left e ∧ (blk e die b).accs = x.accs
              ∧ fget e (ctl R.DIE_FAULT_CNT die 0) F.DIE_FAULT_CNT_COUNT
                = min (fget s.dev (ctl R.DIE_FAULT_CNT die 0) F.DIE_FAULT_CNT_COUNT + 1)
                    (pow2 F.DIE_FAULT_CNT_COUNT.width - 1)))
      ∧ (∀ gen qtr r, o.cop = .edepw 0 0 gen qtr 1 acc → acc = 0 → qtr < 4 → row (some gen) r →
          Completes (.edepw die b {}) s fun e =>
            left e ∧ (blk e die b).well = x.well
              ∧ ∀ i v, (groupLe 4 64 (wellRead s.dev die b (rowAddr false r + 256 * qtr) 256))[i]? = some v → i < 64 →
                ac e i = eafDepF (ac s.dev i) v)
      ∧ (∀ gen qtr r count, o.cop = .ernd 0 0 gen qtr acc count → acc + count ≤ 64 → row none r → x.well.wf = true →
          Completes (.ernd die b {}) s fun e =>
            left e ∧ (blk e die b).accs = x.accs ∧ mget (blk e die b).wideMarks r = some gen
              ∧ ∀ i, i < count → bytes e (rowAddr false r + 256 * qtr + 4 * i) 4
                  = leBytes 4 (eafRound (ac s.dev (acc + i))).1.val)
      ∧ (∀ gen r, o.cop = .ests 0 0 gen acc 1 → row none r → x.well.wf = true → Completes (.ests die b {}) s fun e =>
          left e ∧ (blk e die b).accs = x.accs ∧ mget (blk e die b).wideMarks r = some gen
            ∧ bytes e (rowAddr false r) 48 = eafStorage (ac s.dev acc))
      ∧ (∀ gen r, o.cop = .estt 0 0 gen acc 1 → row none r → x.well.wf = true → Completes (.estt die b {}) s fun e =>
          let w := eafTransport (ac s.dev acc)
          left e ∧ (blk e die b).accs = x.accs ∧ mget (blk e die b).wideMarks r = some gen
            ∧ bytes e (rowAddr false r) w.length = w ∧ bytes e (rowAddr false r + w.length) 8 = List.replicate 8 0)
      ∧ (∀ gen msh r, o.cop = .edeps 0 0 gen msh acc 1 → row (some gen) r → Completes (.edeps die b {}) s fun e =>
          left e ∧ (∀ i, i < 64 → ac e i = (if i = acc then
            eafDepW (ac s.dev acc) (eafOfStorage (wellRead s.dev die b (rowAddr false r) 48)) else ac s.dev i)))
      ∧ (∀ gen msh r w n, o.cop = .edept 0 0 gen msh acc 1 → row (some gen) r → 
          eafOfTransport (wellRead s.dev die b (rowAddr false r) 1024) = .word w n → Completes (.edept die b {}) s fun e =>
          left e ∧ (∀ i, i < 64 → ac e i = (if i = acc then eafDepW (ac s.dev acc) w else ac s.dev i)))
      ∧ (∀ gen qtr qcnt, o.cop = .edepw 0 0 gen qtr qcnt acc → o.wait = none →
          runRow s.dev die b u o.row (some gen) = .wait (markWait false (u.base.wide + o.row) gen) →
          Completes (.edepw die b {}) s fun e =>
            (blk e die b).eafQueue = { o with wait := some (markWait false (u.base.wide + o.row) gen) } :: os
              ∧ (blk e die b).accs = x.accs)

/-! ## Passes, tiles and chains (R45, R50, R68 to R79, R89 to R103, R119, R121) -/

/-- R68, R69 (passes), R71 (entries, chains), R45 (sums), R50 (seal counters), R72 (stalls), R82 (tenants). Model's
choices: log entries 20, 26, 27, 30 and 91. -/
def Obligations.PassesComplete : Prop :=
  ∀ (s : State) (die : DieId) (b : BlockId), powered s.dev = true →
    let x := blk s.dev die b
    (∀ (bu : Bundle) (rest : List SlotId) (m : MatrixSlot) (l : TileLoad), SlotTurn s.dev die b .matrix bu rest →
        bu.matrix = some m → x.load = some l → (∀ q ∈ x.passes, q.seq ≠ x.issueNo) → Completes (.pass die b {}) s fun e =>
          let y := blk e die b
          let regs := x.seq.pos.regs
          let u := unitCtx s.dev die b x.seq.slot
          SlotPast s.dev e die b bu rest ∧ y.load = none ∧ y.seq.nextPlane = 1 - l.plane
            ∧ y.seq.lastPass = some (x.seq.lastIssue, m.vcount) ∧ y.well = x.well ∧ y.basins = x.basins
            ∧ y.planes = x.planes
            ∧ ∃ p, y.passes = x.passes ++ [p] ∧ p.vcount = m.vcount ∧ p.desc = l.desc ∧ p.klen = m.klen ∧ p.tail = m.tail
                ∧ p.first = m.first ∧ p.sealing = m.sealing ∧ p.tag = m.tag ∧ p.actGen = m.actGen
                ∧ p.actBase = areg regs m.areg + m.actOff ∧ p.actStride = m.actStride
                ∧ p.rowBase = areg regs m.rreg + m.rowOff ∧ p.entry = u.base.entry + m.entry ∧ p.done = 0
                ∧ (∀ g, mget x.planes l.plane = some g → p.plane = g)
                ∧ (l.desc.tenant = 0 → p.masked = [])
                ∧ (∀ q, l.desc.tenant ≠ 0 → (q ∈ p.masked ↔ q < 4 * m.vcount
                    ∧ (rowEntry s.dev die b u (p.rowBase + q)).map entryTenant ≠ some l.desc.tenant)))
      ∧ (∀ (p : PassRun) (ps : List PassRun) (v : List (List Nat)) (vs : List (List (List Nat))),
          x.passes = p :: ps → p.vectors = v :: vs → p.wait = none →
          readerPending x (unitCtx s.dev die b p.slot).base.entry p.seq (p.entry + p.done) = false →
          Completes (.entryComplete die b []) s fun e =>
            let y := blk e die b
            (y.passes.length = ps.length + 1 → ∃ p', y.passes = p' :: ps ∧ p'.done = p.done + 1 ∧ p'.vectors = vs)
              ∧ (p.done + 1 = p.vcount → y.passes = ps) ∧ y.well = x.well
              ∧ (∀ k, k % 1024 ≠ p.entry + p.done → basinAt y k = basinAt x k)
              ∧ ∀ a : Nat, a < 4 → p.entry + p.done < 1024 →
                  let k := a * 1024 + (p.entry + p.done)
                  let old := basinAt x k
                  let c := if p.first then 0 else old.counter
                  let n := c + p.klen + p.tail
                  let start := if p.first then List.replicate 64 0 else basinVals s.dev die b k
                  ((p.first = true ∨ old.sealBit = false) ∧ c < 256 ∧ n ≤ 256 ∧ (p.sealing = true → n = 256) →
                      (basinAt y k).counter = n ∧ (basinAt y k).sealBit = p.sealing
                        ∧ ∀ (i : Nat) w z, p.plane.weights[i]? = some w → start[i]? = some z →
                          ((basinAt y k).value.bind fun l => l[i]?)
                            = some ((((v.getD a []).take p.klen).zip w).foldl
                                (fun acc t => (fAdd acc (arrayProduct p.desc.afmt t.1 t.2).val).val) z))
                    ∧ ((p.first = false ∧ old.sealBit = true) ∨ 256 ≤ c ∨ 256 < n ∨ (p.sealing = true ∧ n ≠ 256) →
                      (basinAt y k).value = old.value ∧ (basinAt y k).counter = old.counter
                        ∧ (basinAt y k).sealBit = (old.sealBit && !(p.sealing && p.first))))
      ∧ (let d' := setBlk s.dev die b { x with quartetWait := none }
         let reader := x.quartetWait.isSome && (x.passes.head?.map fun p =>
           readerPending x (unitCtx s.dev die b p.slot).base.entry p.seq (p.entry + p.done)).getD false
         (reader = true → exec (.quartetStallEnd die b {}) s = .next s)
          ∧ (reader = false → (x.passes.find? fun p => p.wait.isSome || p.entered < p.vcount) = none →
            exec (.quartetStallEnd die b {}) s = .next (after s d'))
          ∧ ∀ p, (x.passes.find? fun p => p.wait.isSome || p.entered < p.vcount) = some p → p.stopped = false →
              reader = false → p.entered + 1 = p.vcount →
              let u := unitCtx d' die b p.slot
              (∀ v, readVectors d' die b u p p.entered [0, 1, 2, 3] [] = .ok v →
                (chainWaits x (dieSt s.dev die).elapsed p = false →
                  Completes (.quartetStallEnd die b {}) s fun e =>
                    (blk e die b).passes = (x.passes.map fun q => if q.seq = p.seq then
                      { p with entered := p.vcount, vectors := p.vectors ++ [v], wait := none,
                               start := if p.wait.isSome then max p.start ((dieSt s.dev die).elapsed - p.entered)
                                 else p.start } else q)
                    ∧ (blk e die b).quartetWait = none ∧ e.dies = s.dev.dies)
                ∧ (chainWaits x (dieSt s.dev die).elapsed p = true →
                  Completes (.quartetStallEnd die b {}) s fun e =>
                    (blk e die b).passes = x.passes.map fun q => if q.seq = p.seq then
                      { p with wait := some { cause := .basin, on := .basin (p.entry + p.entered) } } else q))
              ∧ (∀ w, readVectors d' die b u p p.entered [0, 1, 2, 3] [] = .wait w →
                Completes (.quartetStallEnd die b {}) s fun e =>
                  (blk e die b).passes
                    = x.passes.map fun q => if q.seq = p.seq then { p with wait := some w } else q))

/-- R73, R76 (tile loads), R75 (expansion slots), R79 (well tiles), R119 (fill marks), R121 (replay). Model's choices:
log entries 20, 25, 26 and 35. -/
def Obligations.TilesComplete : Prop :=
  ∀ (s : State) (die : DieId) (b : BlockId), powered s.dev = true →
    let x := blk s.dev die b
    let u := unitCtx s.dev die b x.seq.slot
    let faults (d : Dev) := fget d (ctl R.DIE_FAULT_CNT die 0) F.DIE_FAULT_CNT_COUNT
    (∀ (p : SeqPos) (m : MatrixSlot) (t : TileDesc), stepLive s.dev = true → x.load = none → x.seq.phase = .running →
        nextPass s.dev die b u = some (p, m) → tileAt s.dev die b u (areg p.regs m.treg + m.tile) = some t →
        pairingOk s.dev.step.hdr.strict t = true → t.epochAlt = false → t.fromWell = false →
        (x.seq.passed = true ∨ p = x.seq.pos) →
        let lines := (loadLines t false).1 ++ (loadLines t false).2
        ((∀ i ∈ lines, i < u.hdr.cisLines ∧ i + u.base.cis < 131072
            ∧ pageBad s.dev (gblock die b * 64 + (i + u.base.cis) / 2048) = false
            ∧ cisReady s.dev die b (i + u.base.cis) = true ∧ forcedIn x ((i + u.base.cis) / 4096) = false) →
          Completes (.tileLoadStart die b [] {}) s fun e => ∃ l, (blk e die b) = { x with load := some l }
            ∧ l.bundle = bundleAddr u.slot p.pc ∧ l.tile = areg p.regs m.treg + m.tile ∧ l.desc = t ∧ l.alt = false
            ∧ l.plane = x.seq.nextPlane ∧ l.vcount = m.vcount ∧ l.ready = false ∧ l.repairs = [] ∧ l.wait = none
            ∧ (∀ i, i < imageLines t → l.lines[i]? = some (memRead s.dev.epoch (unitCis (gblock die b)) x.cistern
                ((t.img0 + i + u.base.cis) * 1024) 1024))
            ∧ l.lines.length = imageLines t ∧ l.expLines.length = expLineCount t ∧ OnlyBlock s.dev e die b [])
        ∧ ((∃ i ∈ lines, u.hdr.cisLines ≤ i) → Completes (.tileLoadStart die b [] {}) s fun e =>
            (blk e die b).load = none
              ∧ faults e = min (faults s.dev + 1) (pow2 F.DIE_FAULT_CNT_COUNT.width - 1)))
      ∧ (∀ (p : SeqPos) (m : MatrixSlot), x.seq.passed = false → nextPass s.dev die b u = some (p, m) → p ≠ x.seq.pos →
          exec (.tileLoadStart die b [] {}) s = .next s)
      ∧ (∀ l : TileLoad, x.load = some l → l.ready = false → l.repairs = [] → l.wait = none →
          forcedSubs x (loadingLines s.dev die b) = [] →
          (l.desc.fromWell = true → l.rows ≤ l.nextRow) → Completes (.tileReady die b) s fun e =>
            let y := blk e die b
            let t := l.desc
            let loads := t.expLoad
            y.load = some { l with ready := true } ∧ y.well = x.well ∧ y.basins = x.basins ∧ y.cistern = x.cistern
              ∧ (loads = true → y.expSlots = memWrite x.expSlots (t.expSlot * 4096) l.expLines.flatten
                  ∧ bit (rd e (ctl R.SEQ_MQ_EXP_VALID die b)).toNat t.expSlot = true)
              ∧ (loads = false → y.expSlots = x.expSlots)
              ∧ ∃ g, mget y.planes l.plane = some g ∧ g.fmt = t.tfmt ∧ g.tenant = t.tenant ∧ g.weights.length = 64
                  ∧ ∀ n k col, n < 64 → k < tileDepth t.tfmt → g.weights[n]? = some col → t.store = 0 →
                    col[k]? = some (byteField l.lines.flatten
                      ((if t.column then k * 64 + n else n * tileDepth t.tfmt + k) * t.tfmt.bytes) t.tfmt.bytes))
      ∧ (∀ env : PumpEnv,
          exec (.fillMarkWaitEnd die b .sequencer env) s = .next s ∧ exec (.fillMarkWaitEnd die b .hall env) s = .next s
          ∧ exec (.fillMarkWaitEnd die b .quartet env) s = exec (.quartetStallEnd die b env.well) s
          ∧ exec (.fillMarkWaitEnd die b .vector env) s = exec (.chainIteration die b env.well) s)
      ∧ (∀ (l : TileLoad) (row r : Nat), x.load = some l → l.ready = false → l.desc.fromWell = true →
          l.nextRow + 1 = l.rows → row = (if l.alt then l.desc.img1 else l.desc.img0) + l.nextRow →
          locateReady s.dev die b u false (wideAddr row) = .row r → markCheck x false r l.desc.gen = .ok →
          Completes (.fillMarkWaitEnd die b .tile {}) s fun e => (blk e die b) =
              { x with load := some { l with nextRow := l.rows, wait := none,
                                             lines := l.lines ++ [wellRead s.dev die b (rowAddr false r) 1024] } }
            ∧ OnlyBlock s.dev e die b [])
      ∧ (∀ c : Consumer, Completes (.readReplay die b c) s fun e =>
          let a := ctl R.WEL_REPLAY_CNT die b
          fget e a F.WEL_REPLAY_CNT_COUNT = min (fget s.dev a F.WEL_REPLAY_CNT_COUNT + 1) (pow2 F.WEL_REPLAY_CNT_COUNT.width - 1)
            ∧ (blk e die b).well = x.well ∧ (c = .hall → OnlyRegs s.dev e [a]))

/-- R89, R103 (chains), R105, R303 (active mask), R96 (stores). Model's choices: log entries 26, 29, 31 and 36. -/
def Obligations.ChainsComplete : Prop :=
  ∀ (s : State) (die : DieId) (b : BlockId), powered s.dev = true →
    let x := blk s.dev die b
    (∀ (bu : Bundle) (rest : List SlotId) (v : VectorSlot) (c : Chain), SlotTurn s.dev die b .vector bu rest →
        bu.vector = some v → chainAt s.dev die b (unitCtx s.dev die b x.seq.slot) v.chain = some c →
        Completes (.chainIssue die b {}) s fun e =>
          SlotPast s.dev e die b bu rest ∧ OnlyBlock s.dev e die b []
            ∧ ∃ r : ChainRun, (blk e die b).chains = x.chains ++ [r] ∧ r.chain = c ∧ r.iters = v.iter ∧ r.next = 0
                ∧ r.rowBase = areg x.seq.pos.regs v.rreg + v.rowOff ∧ r.bases = x.seq.pos.regs ∧ r.mask = x.mask
                ∧ r.genOffset = v.genOffset ∧ r.halted = false)
      ∧ (∀ (c : ChainRun) (rest : List ChainRun), x.chains = c :: rest →
          (c.halted = true → exec (.chainIteration die b {}) s = .next (after s (setBlk s.dev die b { x with chains := rest })))
          ∧ (c.halted = false → (∀ o ∈ x.eafQueue, c.seq ≤ o.seq) → laneRow c 255 ≤ 4095 →
              ∀ streams fx, readStreams s.dev die b (unitCtx s.dev die b c.slot) c (c.chain.streams.take 4) [] [] = .inr (streams, fx) →
              let u := unitCtx s.dev die b c.slot
              let v := c.chain.ops.foldl (runOp streams c.next die b (laneNan x b u c))
                { temps := x.temps, preds := x.preds, acc := { accs := x.accs }, outs := [], fx, nanLanes := [] }
              ∀ stores sfx,
                formStores s.dev die b u c v.outs ((c.chain.streams.drop 4).zipIdx.map fun p => (p.2, p.1)) [] []
                  = .inl (stores, sfx) →
                Completes (.chainIteration die b {}) s fun e =>
                  let y := blk e die b
                  let iters (d : Dev) := fget d (ctl R.VEC_ITER_CNT die b) F.VEC_ITER_CNT_COUNT
                  let ended (d : Dev) := fget d (ctl R.VEC_CHAIN_CNT die b) F.VEC_CHAIN_CNT_COUNT
                  y.chains = (if c.next + 1 = c.iters then rest else { c with next := c.next + 1, wait := none } :: rest)
                    ∧ y.stores = x.stores ++ stores ∧ y.temps = v.temps ∧ y.preds = v.preds ∧ y.accs = v.acc.accs
                    ∧ y.well = x.well ∧ y.basins = x.basins ∧ y.wideMarks = x.wideMarks
                    ∧ (v.fx = [] → sfx = [] →
                        iters e = min (iters s.dev + 1) (pow2 F.VEC_ITER_CNT_COUNT.width - 1)
                          ∧ ended e = (if c.next + 1 = c.iters then
                              min (ended s.dev + 1) (pow2 F.VEC_CHAIN_CNT_COUNT.width - 1) else ended s.dev))))
      ∧ (∀ (t : VecStore) (ts : List VecStore), x.stores = t :: ts → x.well.wf = true →
          (wellReady s.dev die b t.place.1 t.place.2 = false → Completes (.vectorStoreLand die { block := b }) s fun e =>
            (blk e die b).stores = ts ∧ (blk e die b).well = x.well ∧ (blk e die b).wideMarks = x.wideMarks
              ∧ (blk e die b).narrowMarks = x.narrowMarks ∧ Recorded s.dev e die .bankDown)
          ∧ (wellReady s.dev die b t.place.1 t.place.2 = true → Completes (.vectorStoreLand die { block := b }) s fun e =>
            let y := blk e die b
            y.stores = ts ∧ OnlyBlock s.dev e die b []
              ∧ (∀ i v, t.bytes[i]? = some (some v) → memByte e.epoch 0 y.well (t.addr + i) = v)
              ∧ (∀ a, (∀ i v, t.bytes[i]? = some (some v) → a ≠ t.addr + i) →
                  memByte e.epoch 0 y.well a = memByte s.dev.epoch 0 x.well a)
              ∧ (∀ narrow row gen, t.mark = some (narrow, row, gen) →
                  mget (if narrow then y.narrowMarks else y.wideMarks) row = some gen)
              ∧ (t.mark = none → y.wideMarks = x.wideMarks ∧ y.narrowMarks = x.narrowMarks)))

/-! ## Pumps (R129 to R138) -/

/-- R129 (rings), R130 (queues), R136, R137 (landing and marks), R138 (completion). Model's choices: log entries 20,
37 and 91. -/
def Obligations.DescriptorsComplete : Prop :=
  ∀ (s : State) (die : DieId) (b : BlockId) (pump : PumpId), powered s.dev = true →
    let pb := pump == .b
    let x := blk s.dev die b
    let reg (r : Nat) := pumpReg r die b pb
    (∀ (bu : Bundle) (rest : List SlotId) (sl : PumpSlot) (y : PumpDesc),
        SlotTurn s.dev die b (if pb then .pumpB else .pumpA) bu rest → (if pb then bu.pumpB else bu.pumpA) = some sl →
        slotDesc s.dev die b (unitCtx s.dev die b x.seq.slot) sl = .ok y →
        Completes (.descriptorIssue die b pump {}) s fun e =>
          SlotPast s.dev e die b bu rest
            ∧ (∃ i : PumpItem, pumpQueue e die b pb (queueOf y) = pumpQueue s.dev die b pb (queueOf y) ++ [i]
                ∧ i.desc = y ∧ i.serial = s.dev.nextId ∧ i.index = sl.desc ∧ i.genOffset = sl.genOffset ∧ i.ring = false
                ∧ i.started = false ∧ i.pieces = [] ∧ i.failed = false)
            ∧ (∀ q, q ≠ queueOf y → pumpQueue e die b pb q = pumpQueue s.dev die b pb q)
            ∧ e.nextId = s.dev.nextId + 1 ∧ e.regs = s.dev.regs)
      ∧ (∀ (p : Path) (tail : BitVec 12), MayWrite s.dev p (reg R.PMP_RING_TAIL) →
          let size := 2 ^ min 12 (fget s.dev (reg R.PMP_RING_SIZE) F.PMP_RING_SIZE_LOG2)
          let hd := fget s.dev (reg R.PMP_RING_HEAD) F.PMP_RING_HEAD_HEAD
          let entry := hallRead s.dev die (fget s.dev (reg R.PMP_RING_BASE) F.PMP_RING_BASE_BASE * 64 + 64 * hd) 64
          (pumpQueue s.dev die b pb .ring ≠ [] ∨ hd = tail.toNat % size → Completes (.ringDoorbell p die b pump tail) s fun e =>
              fget e (reg R.PMP_RING_TAIL) F.PMP_RING_TAIL_TAIL = tail.toNat % size
                ∧ OnlyRegs s.dev e [reg R.PMP_RING_TAIL])
          ∧ (pumpQueue s.dev die b pb .ring = [] → hd ≠ tail.toNat % size →
              (∀ y, parseDesc true [] (ofLeBytes entry) = .ok y → Completes (.ringDoorbell p die b pump tail) s fun e =>
                fget e (reg R.PMP_RING_TAIL) F.PMP_RING_TAIL_TAIL = tail.toNat % size
                  ∧ fget e (reg R.PMP_RING_HEAD) F.PMP_RING_HEAD_HEAD = (hd + 1) % size
                  ∧ ∃ i : PumpItem, pumpQueue e die b pb .ring = [i] ∧ i.desc = y ∧ i.ring = true ∧ i.index = hd
                    ∧ i.started = false)
              ∧ (parseDesc true [] (ofLeBytes entry) = .decode → Completes (.ringDoorbell p die b pump tail) s fun e =>
                fget e (reg R.PMP_RING_HEAD) F.PMP_RING_HEAD_HEAD = (hd + 1) % size
                  ∧ flag e (reg R.PMP_ERR_STATUS) F.PMP_ERR_STATUS_VALID = true ∧ e.blocks = s.dev.blocks)))
      ∧ (∀ (q : QueueId) (i : PumpItem) (k : Nat) (before : Bool) (p : PumpPiece),
          nextLanding (pumpQueue s.dev die b pb q) true = some (i, k, before) → i.pieces[k]? = some p → p.whole = true →
          (∀ o hd hb ha, p.dst = some o → o.isWell = true → i.desc.sfmt = i.desc.dfmt →
            let bytes := partBytes p.parts
            0 < bytes.length → o.addr % 1024 + bytes.length ≤ 1024 → locPump s.dev die b i o o.addr = .well hd hb ha →
            earlierWrite s.dev die b pb p = false → (blk s.dev hd hb).well.wf = true →
            Completes (.pumpWriteLand die { block := b } pump q) s fun e =>
              (∀ n v, bytes[n]? = some v → memByte e.epoch 0 (blk e hd hb).well (ha + n) = v)
                ∧ (∀ a, a < ha ∨ ha + bytes.length ≤ a →
                    memByte e.epoch 0 (blk e hd hb).well a = memByte s.dev.epoch 0 (blk s.dev hd hb).well a)
                ∧ (∀ m, before = true → p.marks = [m] → mget (blk e m.1 m.2.1).wideMarks m.2.2.1 = some m.2.2.2)
                ∧ (p.marks = [] ∨ before = false → ∀ d b', (blk e d b').wideMarks = (blk s.dev d b').wideMarks))
          ∧ (earlierWrite s.dev die b pb p = true → exec (.pumpWriteLand die { block := b } pump q) s = .next s)
          ∧ (∀ m, p.dst = none → p.marks = [m] → Completes (.pumpWriteLand die { block := b } pump q) s fun e =>
              mget (blk e m.1 m.2.1).wideMarks m.2.2.1 = some m.2.2.2 ∧ (blk e die b).well = x.well ∧ e.regs = s.dev.regs))
      ∧ (∀ (q : QueueId) (i : PumpItem) (is : List PumpItem), pumpQueue s.dev die b pb q = i :: is →
          i.started = true → i.readDone = true → i.pieces.all PumpPiece.landed = true → i.refusedBy = none →
          i.desc.dst.isFountain = false →
          let cnt := reg R.PMP_DESC_CNT
          let kept (e : Dev) (l : List Nat) : Prop := OnlyBlock { s.dev with asks := e.asks } e die b l
            ∧ e.asks = s.dev.asks.filter fun r => !(r.byDie == die.val && r.byBlock == b.val && r.byPumpB == pb) || askOpen s.dev r
          let done (e : Dev) : Prop := pumpQueue e die b pb q = is ∧ fget e cnt F.PMP_DESC_CNT_COUNT
            = min (fget s.dev cnt F.PMP_DESC_CNT_COUNT + 1) (pow2 F.PMP_DESC_CNT_COUNT.width - 1)
          (i.failed = true → Completes (.descriptorComplete die b pump q) s fun e =>
              pumpQueue e die b pb q = is ∧ kept e [])
          ∧ (i.failed = false → i.desc.gateEn = false → Completes (.descriptorComplete die b pump q) s fun e =>
              done e ∧ kept e [cnt])
          ∧ (i.failed = false → i.desc.gateEn = true → i.desc.gateRemote = false → i.desc.gateDie < 48 → i.desc.gate < 256 →
              let g (d : Dev) := (rd d (gateReg R.GAT_COUNT i.desc.gateDie i.desc.gate)).toNat
              g s.dev + 1 < 4294967296 → Completes (.descriptorComplete die b pump q) s fun e =>
                done e ∧ g e = g s.dev + 1))

/-- R130 (queues), R133 (COPY, GATHER, SCATTER), R135 (UNSKEW16, SKEW16). Model's choices: log entries 26, 37 and 87.
-/
def Obligations.PumpOperationsComplete : Prop :=
  ∀ (s : State) (die : DieId) (b : BlockId) (pump : PumpId) (q : QueueId) (i : PumpItem), powered s.dev = true →
    let pb := pump == .b
    let x := i.desc
    let w := x.sfmt.bytes
    let at_ (a : Nat) (n : Nat) (hd hb ha : Nat) : Prop := a % 1024 + n ≤ 1024 ∧ locPump s.dev die b i x.src a = .well hd hb ha
    let to_ (t n : Nat) : Prop := t % 1024 + n ≤ 1024 ∧ t + n ≤ 8388608 ∧ ∃ hd hb ha, locPump s.dev die b i x.dst t = .well hd hb ha
    let reads (hd hb ha n : Nat) := wellRead s.dev hd hb ha n
    let piece (k t : Nat) (bytes : List Byte) : PumpPiece :=
      { no := s.dev.nextId + k, rid := 0, row := 0, parts := [(0, some bytes)], dst := some (x.dst.at_ t), marks := [], sent := false, landed := false }
    let starts (c : Instr) (ps : List PumpPiece) : Prop := Completes c s fun e =>
      (∃ j : PumpItem, pumpQueue e die b pb q = [j] ∧ j.desc = x ∧ j.started = true ∧ j.readDone = true ∧ j.failed = false
          ∧ j.pieces = ps) ∧ (blk e die b).well = (blk s.dev die b).well
        ∧ OnlyBlock { s.dev with nextId := s.dev.nextId + ps.length } e die b []
    pumpOf (blk s.dev die b) pb = ({} : Pump).setQueue q [i] →
    i.started = false → i.failed = false → i.row = 0 → i.at_ = 0 → i.pieces = [] → i.slots = [] → i.openRow = none →
    i.wait = none → i.idxBytes = [] →
    x.rows = 1 → x.sfmt = x.dfmt → x.src.isWell = true → x.dst.isWell = true → x.scheck = false → x.dmark = false →
    x.idxCheck = false →
    (∀ (src : Nat), x.src = .ownWell src → 0 < x.len → ∀ hs, at_ src (x.len * w) die b hs → src + x.len * w ≤ 8388608 →
        to_ x.dst.addr (x.len * w) → x.op = .copy →
        starts (.copy die b pump {}) [piece 0 x.dst.addr (reads die b hs (x.len * w))])
      ∧ (∀ ix hx hs a, 0 < x.len → x.src = .ownWell a → x.idxAddr % 1024 + 4 ≤ 1024 →
          locPump s.dev die b i (.ownWell 0) x.idxAddr = .well die b hx → ofLeBytes (reads die b hx 4) = ix →
          (∀ src, x.op = .gather → rowStart x.src x.sstride ix = some src → at_ src (x.len * w) die b hs →
            src + x.len * w ≤ 8388608 → to_ x.dst.addr (x.len * w) →
            starts (.gather die b pump {}) [piece 0 x.dst.addr (reads die b hs (x.len * w))])
          ∧ (∀ dst, x.op = .scatter → rowStart x.dst x.dstride ix = some dst → at_ a (x.len * w) die b hs →
            a + x.len * w ≤ 8388608 → to_ dst (x.len * w) →
            starts (.scatter die b pump {}) [piece 0 dst (reads die b hs (x.len * w))]))
      ∧ (∀ (a : Nat) (sa ha : Nat → Nat), x.op = .unskew16 → x.src = .ownWell a →
          (∀ r, r < 64 → rowStart x.src x.sstride r = some (sa r) ∧ at_ (sa r) (64 * w) die b (ha r)) →
          to_ x.dst.addr (64 * w) →
          starts (.unskew16 die b pump {})
            [piece 0 x.dst.addr ((List.range 64).flatMap fun k => ((reads die b (ha k) (64 * w)).drop (k * w)).take w)])
      ∧ (∀ (a hs : Nat) (ta : Nat → Nat), x.op = .skew16 → x.src = .ownWell a → at_ a (64 * w) die b hs →
          (∀ t, t < 64 → rowStart x.dst x.dstride t = some (ta t) ∧ to_ (ta t) (64 * w)) →
          starts (.skew16 die b pump {}) ((List.range 64).map fun t => piece t (ta t)
            ((List.range 64).flatMap fun k => if k = t then ((reads die b hs (64 * w)).drop (t * w)).take w
              else leBytes w (zeroOf x.sfmt))))

/-! ## Squares, bridges and fountains (R12, R147 to R158, R215, R381) -/

/-- R147 (replay), R154 (merged reads), R215 (bridges up and down), R381 and R148 (lanes). Model's choices: log
entries 20, 50, 52 and 93. -/
def Obligations.LinksComplete : Prop :=
  ∀ s : State, powered s.dev = true →
    let status (e : Dev) (up : Bool) (die port : Nat) : Prop :=
      let n := 64 - lanesRetired e die port
      flag e (ctl R.BRG_STATUS die port) F.BRG_STATUS_UP = (up && decide (0 < n))
        ∧ fget e (ctl R.BRG_STATUS die port) F.BRG_STATUS_LANES = (if up then n else 0)
        ∧ flag e (ctl R.BRG_STATUS die port) F.BRG_STATUS_DEGRADED = decide ((if up then n else 0) < 64)
    (∀ (die : DieId) (b : BlockId) (by_ : DieId) (bb : BlockId) (pump : PumpId) (read : Nat),
        let pb := pump == .b
        ((s.dev.asks.find? fun r => r.id = read) = none → exec (.readMerge ⟨die, b⟩ ⟨by_, bb, pump, read⟩) s = .next s)
        ∧ (∀ (q : QueueId) (i : PumpItem) (asked : Nat × Nat × Nat × Nat) (g : Nat) (r : WellAsk),
            nextAsk s.dev by_ bb pb = some (q, i, asked, g) → (s.dev.asks.find? fun r => r.id = read) = some r →
            (r.die, r.block, r.addr, r.len) = asked → r.vc = i.desc.vc → r.gen = g → askOpen s.dev r = true →
            mergedAt r die b < 8 → (r.byDie, r.byBlock, r.byPumpB) ≠ (by_.val, bb.val, pb) →
            passesSquare s.dev die b r = true →
            onWay s.dev die b (by_, bb) (r.die, (translateHome s.dev r.die r.block r.addr).1) = true →
            (Completes (.readMerge ⟨die, b⟩ ⟨by_, bb, pump, read⟩) s fun e =>
              Counted s.dev e (ctl R.SQR_MERGE_CNT die b) F.SQR_MERGE_CNT_COUNT
                ∧ (∀ o ∈ e.asks, o.id = read → mergedAt o die b = mergedAt r die b + 1))
            ∧ (∀ (bytes : List Byte) (bad : Bool) (d0 : Nat), r.reply = .data bytes bad → i.desc.op = .copy →
                rowStart i.desc.dst i.desc.dstride i.row = some d0 →
                let n := bytes.length / i.desc.sfmt.bytes
                let t := d0 + i.at_ * i.desc.dfmt.bytes
                dstFault s.dev by_ bb i t (n * i.desc.dfmt.bytes) = none → i.desc.dst.isWell = true →
                Completes (.readMerge ⟨die, b⟩ ⟨by_, bb, pump, read⟩) s fun e => (bad = true → e.step.badAll = true)
                  ∧ ∃ j ∈ pumpQueue e by_ bb pb q, j.serial = i.serial ∧ ∃ w ∈ j.pieces,
                      partBytes w.parts = bytes ∧ w.dst = some (i.desc.dst.at_ t))
            ∧ (r.reply = .pending → i.desc.op = .copy →
                Completes (.readMerge ⟨die, b⟩ ⟨by_, bb, pump, read⟩) s fun e =>
                  ∃ j ∈ pumpQueue e by_ bb pb q, j.serial = i.serial ∧ j.merged = some (read, die.val, b.val)
                    ∧ j.pieces = i.pieces)))
      ∧ (∀ (die : DieId) (b : BlockId) (link : Fin 5) (crc : Bool),
          (LinkId.street die b link).carries s.dev = false → exec (.linkRetry (.street die b link) crc none) s = .next s)
      ∧ (∀ (die : DieId) (b : BlockId) (link : Fin 5) (crc : Bool), (LinkId.street die b link).carries s.dev = true →
          Completes (.linkRetry (.street die b link) crc none) s fun e =>
          let a := ctl R.SQR_RETRY_CNT die b
          fget e a F.SQR_RETRY_CNT_RETRY = min (fget s.dev a F.SQR_RETRY_CNT_RETRY + 1) (pow2 F.SQR_RETRY_CNT_RETRY.width - 1)
            ∧ RegsBut s.dev e [a] ∧ e.blocks = s.dev.blocks ∧ e.errors.length = s.dev.errors.length + 1)
      ∧ (∀ (die : AnyDie) (port : Fin 4) (lane : Fin 64) (crc : Bool) (wd : DieId) (wb : BlockId),
          let q := (blk s.dev wd wb).seq
          q.holdCause.isSome = true → (LinkId.bridge die port lane).carries s.dev = true →
          Completes (.linkRetry (.bridge die port lane) crc (some (wd, wb))) s fun e =>
          let a := ctl R.BRG_RETRY_CNT die port
          fget e a F.BRG_RETRY_CNT_RETRY = min (fget s.dev a F.BRG_RETRY_CNT_RETRY + 1) (pow2 F.BRG_RETRY_CNT_RETRY.width - 1)
            ∧ fget e a F.BRG_RETRY_CNT_CRC
              = min (fget s.dev a F.BRG_RETRY_CNT_CRC + (if crc then 1 else 0)) (pow2 F.BRG_RETRY_CNT_CRC.width - 1)
            ∧ (blk e wd wb).seq = { q with holdCause := some .retry } ∧ RegsBut s.dev e [a])
      ∧ (∀ (die : AnyDie) (port : Fin 4) (pd pp : Nat), bridgePeer die port = some (pd, pp) →
          (∀ up, Completes (.bridgeStateChange die port up) s fun e =>
            status e up die port ∧ status e up pd pp ∧ lanesRetired e die port = lanesRetired s.dev die port
              ∧ (die.val < 56 → pd < 56 → s.dev.srv.convs = [] → s.dev.srv.dirPages = [] →
                OnlyRegs s.dev e [ctl R.BRG_STATUS die port, ctl R.BRG_STATUS pd pp]))
          ∧ (∀ (p : Path) (lane : Fin 64), MayWrite s.dev p (ctl R.DIE_BRG_RETIRE die 0) →
            Completes (.bridgeLaneRetire p die port lane) s fun e =>
              let retired (d i : Nat) : Bool :=
                bit ((rd e (ctl R.BRG_LANE_RET_LO d i)).toNat + (rd e (ctl R.BRG_LANE_RET_HI d i)).toNat * 4294967296) lane
              retired die port = true ∧ retired pd pp = true
                ∧ status e (bridgeUp s.dev die port) die port ∧ status e (bridgeUp s.dev die port) pd pp))

/-- R155 (lists), R156 (frames), R157 (stalls), R158 (refusals). Model's choices: log entries 17 and 49. -/
def Obligations.FountainFramesComplete : Prop :=
  ∀ (s : State) (h : HeadId), powered s.dev = true →
    let k := fountain s.dev h
    (∀ (f : FtnFrame) (rest : List FtnFrame), k.incoming = f :: rest → mget k.descs f.desc = none →
        k.held.length < 512 → (k.held.map fun g => g.bytes.length).sum + f.bytes.length ≤ 2097152 →
        (∀ g ∈ k.held, g.id ≠ f.id) →
        (∀ g ∈ k.held, ∃ u, u < g.delivered.length ∧ g.delivered.getD u false = false
          ∧ ((mget k.descs g.desc).map fun y => y.refused.getD u false).getD false = false) →
        (∀ es, fntTargets s.dev h f.list = some es → (∀ e ∈ es, (fntEndpoint (fntEntry s.dev h e) f.off).isSome = true) →
          Completes (.fountainFrameAccept h) s fun e =>
            (fountain e h).incoming = rest ∧ (fountain e h).held.map FtnFrame.id = k.held.map FtnFrame.id ++ [f.id]
              ∧ ((mget (fountain e h).descs f.desc).map FtnDesc.targets) = some es
              ∧ ∃ g, (fountain e h).held.getLast? = some g ∧ g.bytes = f.bytes ∧ g.since = s.dev.tally
                ∧ g.delivered = es.map (fun _ => false))
        ∧ (fntTargets s.dev h f.list = none → Completes (.fountainFrameAccept h) s fun e =>
            (fountain e h) = { k with incoming := rest }))
      ∧ (∀ (f : FtnFrame) (y : FtnDesc) (t : Fin 64), f ∈ k.held → (k.held.map FtnFrame.id).Nodup →
          mget k.descs f.desc = some y → t.val < f.delivered.length → t.val < f.offered.length → t.val < y.refused.length →
          f.delivered[t.val]? = some false →
          let gone (e : Dev) : Prop := ∀ g ∈ (fountain e h).held, g.id ≠ f.id
          let others : Prop := ∃ u, u < f.delivered.length ∧ u ≠ t.val ∧ f.delivered.getD u false = false
            ∧ y.refused.getD u false = false
          (f.offered[t.val]? = some true →
            (∀ fa win off, fntEndpoint (y.entries.getD t 0) f.off = some (.window fa win off) →
              Completes (.fountainAcceptance h f.id t) s fun e =>
                (others → ∃ g ∈ (fountain e h).held, g.id = f.id ∧ g.bytes = f.bytes ∧ g.delivered = f.delivered.set t true)
                  ∧ (¬ others → gone e))
            ∧ (∀ pd pb addr, fntEndpoint (y.entries.getD t 0) f.off = some (.package pd pb addr) → ¬ others →
                0 < f.bytes.length → addr % 1024 + f.bytes.length ≤ 1024 → addr < 6291456 →
                let to_ := translateHome s.dev pd pb addr
                wellReady s.dev pd to_.1 false (to_.2 / 1024) = true → (blk s.dev pd to_.1).well.wf = true →
                Completes (.fountainAcceptance h f.id t) s fun e =>
                  gone e ∧ (∀ n v, f.bytes[n]? = some v → memByte e.epoch 0 (blk e pd to_.1).well (to_.2 + n) = v)
                    ∧ (∀ a, a < to_.2 ∨ to_.2 + f.bytes.length ≤ a →
                        memByte e.epoch 0 (blk e pd to_.1).well a = memByte s.dev.epoch 0 (blk s.dev pd to_.1).well a))
            ∧ (y.refused[t.val]? = some false → Completes (.fountainTargetRefused h f.id t) s fun e =>
                let a := ctl R.FNT_REFUSE_CNT (56 + h) 0
                fget e a F.FNT_REFUSE_CNT_COUNT
                    = min (fget s.dev a F.FNT_REFUSE_CNT_COUNT + 1) (pow2 F.FNT_REFUSE_CNT_COUNT.width - 1)
                  ∧ mget (fountain e h).descs f.desc = some { y with refused := y.refused.set t true }
                  ∧ (¬ others → gone e) ∧ RegsBut s.dev e [a]))
          ∧ (f.offered[t.val]? = some false → y.refused[t.val]? = some false → (f.desc, t.val) ∉ k.stalled →
              ((fntPlace f y t).map (fntCredits s.dev h)).getD 0 = 0 →
              (max f.since (((fntPlace f y t).map (placeGet k.lastCredit)).getD 0))
                + 625 * max 1 (fget s.dev (ctl R.FNT_TIMEOUT (56 + h) 0) F.FNT_TIMEOUT_US) ≤ s.dev.tally →
              Completes (.fntStall h f.id t) s fun e =>
                let a := ctl R.FNT_STALL_CNT (56 + h) 0
                let st := ctl R.FNT_STATUS (56 + h) 0
                let tg := ctl R.FNT_STALL_TGT (56 + h) 0
                fget e a F.FNT_STALL_CNT_COUNT
                    = min (fget s.dev a F.FNT_STALL_CNT_COUNT + 1) (pow2 F.FNT_STALL_CNT_COUNT.width - 1)
                  ∧ fountain e h = { k with stalled := k.stalled ++ [(f.desc, t.val)] }
                  ∧ flag e st F.FNT_STATUS_STALL = true ∧ RegsBut s.dev e [a, st, tg]
                  ∧ (flag s.dev st F.FNT_STATUS_STALL = true → rd e tg = rd s.dev tg)
                  ∧ (flag s.dev st F.FNT_STATUS_STALL = false →
                      fget e tg F.FNT_STALL_TGT_INDEX = t.val
                        ∧ fget e tg F.FNT_STALL_TGT_LIST = f.list % pow2 F.FNT_STALL_TGT_LIST.width
                        ∧ fget e tg F.FNT_STALL_TGT_FA = fntFa s.dev (y.entries.getD t 0) % 65536)))

/-- R156 (credits), R155 (entries and lists). Model's choices: log entry 49. -/
def Obligations.FountainTablesComplete : Prop :=
  ∀ (s : State) (h : HeadId), powered s.dev = true →
    let k := fountain s.dev h
    (∀ (target : CreditFrom) (n : Fin 65),
        let p := target.place
        (k.held = [] → Completes (.fountainCreditReturn h target n) s fun e =>
          fntCredits e h p = fntCredits s.dev h p + n ∧ placeGet (fountain e h).lastCredit p = s.dev.tally
            ∧ (∀ m, m ≠ p → fntCredits e h m = fntCredits s.dev h m) ∧ e.regs = s.dev.regs)
        ∧ (∀ (f : FtnFrame) (y : FtnDesc), k.held = [f] → f.delivered = [false] → f.offered = [false] → y.refused = [false] →
            mget k.descs f.desc = some y → fntPlace f y 0 = some p → 0 < n.val → (∃ die b vc, target = .square die b vc) →
            Completes (.fountainCreditReturn h target n) s fun e =>
              let c := ctl R.FNT_REOFFER_CNT (56 + h) 0
              (fountain e h).held = [{ f with offered := [true] }] ∧ fntCredits e h p + 1 = fntCredits s.dev h p + n
                ∧ fget e c F.FNT_REOFFER_CNT_COUNT
                  = min (fget s.dev c F.FNT_REOFFER_CNT_COUNT + 1) (pow2 F.FNT_REOFFER_CNT_COUNT.width - 1)
                ∧ (f.desc, 0) ∉ (fountain e h).stalled))
      ∧ (∀ (p : Path) (v : Word), MayWrite s.dev p (ctl R.FNT_ENTRY_HI (56 + h) 0) →
          let n := selField s.dev p (ctl R.FNT_SEL (56 + h) 0) F.FNT_SEL_ENTRY
          let lo := ctlSel R.FNT_ENTRY_LO (56 + h) 0 n
          let hi := ctlSel R.FNT_ENTRY_HI (56 + h) 0 n
          Completes (.fntEntryCommit p h v) s fun e =>
            rd e hi = v ∧ rd e lo = shadowOf s.dev lo ∧ mget e.shadow lo = none ∧ RegsBut s.dev e [hi, lo]
              ∧ e.fountains = s.dev.fountains)
      ∧ (∀ (p : Path) (first : BitVec 13) (countM1 : BitVec 6) (valid : Bool), MayWrite s.dev p (ctl R.FNT_LIST (56 + h) 0) →
          let a := ctlSel R.FNT_LIST (56 + h) 0 (selField s.dev p (ctl R.FNT_SEL (56 + h) 0) F.FNT_SEL_LIST)
          Completes (.fntListCommit p h first countM1 valid) s fun e =>
            fget e a F.FNT_LIST_FIRST = first.toNat ∧ fget e a F.FNT_LIST_COUNT_M1 = countM1.toNat
              ∧ flag e a F.FNT_LIST_VALID = valid ∧ OnlyRegs s.dev e [a])

/-! ## Gates, the hold, and how a step ends (R178, R179, R183 to R186, R193, R194, R379) -/

/-- R178 (gates), R179 (operations, owners, waiters). Model's choices: log entries 23, 33 and 39. -/
def Obligations.GateOperationsComplete : Prop :=
  ∀ (s : State) (p : Path) (die : AnyDie) (gate : Fin 512) (n : BitVec 24), powered s.dev = true →
    gateExists die gate = true → s.dev.barEvents = [] →
    (∀ i, i < 64 → 56 ≤ die.val → flag s.dev (barReg R.GAT_BAR_CTRL (die - 56) i) F.GAT_BAR_CTRL_VALID = false) →
    let c := gateReg R.GAT_COUNT die gate
    let t := gateReg R.GAT_THRESH die gate
    let faultReg := ctl R.GAT_BANK_STATUS die 0
    let count (d : Dev) := (rd d c).toNat
    let thresh (d : Dev) := (rd d t).toNat
    let owner := ownerOk s.dev die gate p.requester
    let refuses (i : Instr) (code : FaultCode) : Prop := Completes i s fun e =>
      fget e faultReg F.GAT_BANK_STATUS_FAULTS = min (fget s.dev faultReg F.GAT_BANK_STATUS_FAULTS + 1) 65535
        ∧ Recorded s.dev e p.die code ∧ RegsBut s.dev e (faultReg :: faultRegs p.die)
        ∧ e = { s.dev with regs := e.regs, step := { s.dev.step with abort := e.step.abort } }
    let gives (i : Instr) (op : GateOp) (cnt thr : Nat) (free : Bool) : Prop := Completes i s fun e =>
      count e = cnt ∧ thresh e = thr
        ∧ (thr ≤ cnt ∨ free = true → waiters e die gate = [] ∧ ∀ (hd : DieId) (core : CoreId),
            Waiter.hall hd core ∈ waiters s.dev die gate → bit (rd e (ctl R.HAL_IRQ_PEND hd core)).toNat 1 = true)
        ∧ (cnt < thr → free = false → OnlyRegs (noteStartSignal s.dev die gate op p.requester) e [c, t])
    (MayWrite s.dev p (gateReg R.GAT_OP die gate) →
        (count s.dev + n.toNat < 4294967296 → gives (.signal p die gate n) (.signal n.toNat) (count s.dev + n.toNat) (thresh s.dev) false)
        ∧ (4294967296 ≤ count s.dev + n.toNat → refuses (.signal p die gate n) .gateOverflow)
        ∧ (owner = true → n.toNat ≤ count s.dev →
            gives (.consume p die gate n) (.consume n.toNat) (count s.dev - n.toNat) (thresh s.dev) false)
        ∧ (owner = true → count s.dev < n.toNat → refuses (.consume p die gate n) .gateUnderflow)
        ∧ (owner = true → gives (.setThresh p die gate n) (.setThresh n.toNat) (count s.dev) n.toNat false)
        ∧ (owner = true → thresh s.dev + n.toNat < 4294967296 →
            gives (.addThresh p die gate n) (.addThresh n.toNat) (count s.dev) (thresh s.dev + n.toNat) false)
        ∧ (owner = true → 4294967296 ≤ thresh s.dev + n.toNat → refuses (.addThresh p die gate n) .gateOverflow)
        ∧ (owner = true → gives (.reset p die gate) .reset 0 0 true)
        ∧ (owner = false → refuses (.consume p die gate n) .gateOwner
            ∧ refuses (.setThresh p die gate n) .gateOwner ∧ refuses (.addThresh p die gate n) .gateOwner
            ∧ refuses (.reset p die gate) .gateOwner))
      ∧ (∀ (core : CoreId) (cd : AnyDie), MayWrite s.dev p (gateReg R.GAT_HALLWAIT die gate) →
          let a := gateReg R.GAT_HALLWAIT die gate
          let named (e : Dev) : Prop := fget e a F.GAT_HALLWAIT_CORE = core.val ∧ fget e a F.GAT_HALLWAIT_DIE = cd.val
          (thresh s.dev ≤ count s.dev → cd.val < 48 → Completes (.hallwaitArm p die gate core cd) s fun e =>
              named e ∧ bit (rd e (ctl R.HAL_IRQ_PEND cd core)).toNat 1 = true
                ∧ OnlyRegs s.dev e [a, ctl R.HAL_IRQ_PEND cd core])
          ∧ (count s.dev < thresh s.dev → (waiters s.dev die gate).length < 64 →
              Completes (.hallwaitArm p die gate core cd) s fun e =>
                named e ∧ waiters e die gate = waiters s.dev die gate ++ [.hall cd core] ∧ RegsBut s.dev e [a])
          ∧ (count s.dev < thresh s.dev → 64 ≤ (waiters s.dev die gate).length →
              Completes (.hallwaitArm p die gate core cd) s fun e =>
                named e ∧ flag e a F.GAT_HALLWAIT_REFUSED = true ∧ OnlyRegs s.dev e [a]))

/-- R183 (raise), R184 (arrival), R185 (release and resume). Model's choices: log entry 48. -/
def Obligations.HoldComplete : Prop :=
  ∀ s : State, powered s.dev = true →
    (∀ (die : DieId) (b : BlockId) (c : Nat),
        let q := (blk s.dev die b).seq
        s.dev.step.holdFrom = some c → s.dev.step.lockstep = true → activePhase q.phase = true → q.frozen = false →
        exec (.holdArrive die b) s = .next (after s (setBlk s.dev die b { blk s.dev die b with
          seq := { q with frozen := true, lead := min 24 (q.cycle - c), resumeAt := none, thawed := 0 } })))
      ∧ (∀ c, s.dev.step.holdFrom = some c → stepLive s.dev = true → linesLow s.dev = true →
          (∀ e ∈ s.dev.blocks, activePhase e.2.seq.phase = true → e.2.seq.frozen = true ∧ e.2.seq.resumeAt = none) →
          Completes .holdRelease s fun e =>
            e = { s.dev with step := { s.dev.step with holdFrom := none }, blocks := e.blocks }
              ∧ ∀ (die : DieId) (b : BlockId),
                let x := blk s.dev die b
                blk e die b = if x.seq.frozen then
                  { x with seq := { x.seq with raising := false, lead := min 24 (x.seq.cycle - c),
                                               resumeAt := some (s.dev.tally + 11), thawed := 0 } } else x)
      ∧ (∀ (die : DieId) (b : BlockId) (r : Nat),
          let x := blk s.dev die b
          let q := x.seq
          stepLive s.dev = true → q.frozen = true → q.resumeAt = some r → r < s.dev.tally → q.lead ≤ q.thawed →
          (dieSt s.dev die).droopRec = none →
          let past := q.thawed - q.lead
          let held := (dieSt s.dev die).elapsed - q.heldSince - past
          (waitCause x = none → exec (.holdResume die b) s = .next (after s (setBlk s.dev die b { x with
              seq := { q with frozen := false, cycle := q.cycle + past, lead := 0, thawed := 0, resumeAt := none, holdCause := none,
                              holds := q.holds ++ q.holdCause.toList.map fun c => (c, held) } })))
          ∧ (∀ c, waitCause x = some c → s.dev.step.lockstep = true → q.raising = false →
              Completes (.holdResume die b) s fun e =>
                let cnt := ctl R.DIE_HOLD_CNT die 0
                (blk e die b).seq.frozen = true ∧ (blk e die b).seq.raising = true ∧ (blk e die b).seq.holdCause = some c
                  ∧ e.step.holdFrom = some ((s.dev.step.holdFrom.map (min (q.cycle + past))).getD (q.cycle + past))
                  ∧ fget e cnt F.DIE_HOLD_CNT_RAISED
                    = min (fget s.dev cnt F.DIE_HOLD_CNT_RAISED + 1) (pow2 F.DIE_HOLD_CNT_RAISED.width - 1)))

/-- R193 (abort, watchdog), R194 (completion), R19 (numbers), R379 (replay). Model's choices: log entries 20, 22, 32,
46 and 60. -/
def Obligations.StepEndsComplete : Prop :=
  ∀ s : State, powered s.dev = true →
    let step := s.dev.step
    (∀ c, step.abort = .requested c → s.dev.groups = [] → Completes .stepAbort s fun e =>
        e.step = { step with abort := .draining c, holdFrom := none }
          ∧ (∀ d : DieId, flag e (ctl R.DIE_STEP_STATUS d 0) F.DIE_STEP_STATUS_ABORTED = true)
          ∧ ∀ (die : DieId) (b : BlockId),
              let x := blk s.dev die b
              let y := blk e die b
              y.load = none ∧ y.pumpA.ring = x.pumpA.ring ∧ y.pumpA.direct = x.pumpA.direct.filter PumpItem.started
                ∧ y.pumpA.sluice = x.pumpA.sluice.filter PumpItem.started ∧ y.passes = x.passes ∧ y.chains = x.chains
                ∧ y.pumpB.direct = x.pumpB.direct.filter PumpItem.started ∧ y.well = x.well ∧ y.basins = x.basins
                ∧ y.seq.raising = false ∧ y.seq.resumeAt = none)
      ∧ (∀ c, step.abort = .draining c →
          ((∃ e ∈ s.dev.blocks, opsDone e.2 = false) → exec .abortEnd s = .next s)
          ∧ ((∀ e ∈ s.dev.blocks, opsDone e.2 = true) → s.dev.errors = [] → s.dev.cont.pending = [] →
              Completes .abortEnd s fun e =>
                e.step.running = false ∧ e.step.number = step.number + 1 ∧ e.step.abort = .none ∧ e.step.commits = step.commits))
      ∧ ((stepLive s.dev = true → s.dev.tally < step.wdogFrom + usTicks (wdogUs s.dev) → exec .stepWatchdogExpiry s = .next s)
          ∧ (stepLive s.dev = true → step.wdogFrom + usTicks (wdogUs s.dev) ≤ s.dev.tally →
              Completes .stepWatchdogExpiry s fun e =>
                (∀ die : DieId,
                  let cnt := ctl R.DIE_FAULT_CNT die 0
                  fget e cnt F.DIE_FAULT_CNT_COUNT = if (dieBlocks.all fun b => seqDone s.dev die b) then
                      fget s.dev cnt F.DIE_FAULT_CNT_COUNT
                    else min (fget s.dev cnt F.DIE_FAULT_CNT_COUNT + 1) (pow2 F.DIE_FAULT_CNT_COUNT.width - 1))
                ∧ ((∃ (die : DieId) (b : BlockId), seqDone s.dev die b = false) → e.step.abort = .requested .deadlock)
                ∧ e.blocks = s.dev.blocks)
          ∧ (stepLive s.dev = false → step.signalled = none → exec .stepWatchdogExpiry s = .next s)
          ∧ (∀ t, stepLive s.dev = false → step.signalled = some t → t + usTicks (wdogUs s.dev) ≤ s.dev.tally →
              mayStart s.dev = true → (step.hdr.lockstep && !lockstepBarred s.dev) = false →
              Completes .stepWatchdogExpiry s fun e => e.step.running = true ∧ e.step.number = step.number
                ∧ ((∃ (die : DieId) (b : BlockId), nextSlot s.dev die b 0 ≠ none) → e.step.abort = .requested .deadlock)))
      ∧ (∀ (die : DieId) (bad : List BadRead),
          let y := dieSt s.dev die
          stepLive s.dev = true → y.stepDone = false → y.signals = 0 →
          (∀ b : BlockId, seqDone s.dev die b = true ∧ (blk s.dev die b).pumpA.direct = [] ∧ (blk s.dev die b).pumpA.sluice = []
            ∧ (blk s.dev die b).pumpB.direct = [] ∧ (blk s.dev die b).pumpB.sluice = []) →
          Completes (.dieStepComplete ⟨die, bad⟩) s fun e =>
            dieSt e die = { y with stepDone := true }
              ∧ e.step = { step with found := step.found ++ bad.map fun r => (die.val, r) }
              ∧ (∀ c : CoreId, bit (rd e (ctl R.HAL_IRQ_PEND die c)).toNat 4 = true)
              ∧ RegsBut s.dev e ([0, 1, 2, 3].map fun c => ctl R.HAL_IRQ_PEND die c) ∧ e.blocks = s.dev.blocks)
      ∧ (stepLive s.dev = true → (∀ die : DieId, (dieSt s.dev die).stepDone = true) → s.dev.errors = [] →
          s.dev.cont.pending = [] → Completes .stepComplete s fun e =>
            e.step.running = false ∧ e.step.number = step.number + 1 ∧ e.step.abort = .none
              ∧ e.step.commits = step.commits ++ [{ number := step.number, rows := step.rows, nanRows := step.nanRows,
                                                    badRows := step.badRows, badAll := step.badAll,
                                                    found := step.found }]
              ∧ ∀ die : DieId, (rd e (ctl R.DIE_STEP_ELAPSED die 0)).toNat = min (dieSt s.dev die).elapsed 4294967295)
      ∧ (step.running = true ∨ s.dev.srv.lostPages ≠ [] → exec .stepReplay s = .next s)
      ∧ (∀ m, step.replayOf = some m → step.running = false → s.dev.srv.lostPages = [] → s.dev.errors = [] →
          s.dev.cont.pending = [] → Completes .stepReplay s fun e =>
            let a := srvReg R.SRV_REPLAY_CNT
            e.step = { step with replayOf := none, badWells := [] }
              ∧ fget e a F.SRV_REPLAY_CNT_REPLAYS
                = min (fget s.dev a F.SRV_REPLAY_CNT_REPLAYS + 1) (pow2 F.SRV_REPLAY_CNT_REPLAYS.width - 1))

/-! ## The reservoir (R196 to R204, R211, R212) -/

/-- R197, R198 (checks), R199 (page entries and fences), R202 (order), R204 (parity), R203 (refresh). Model's choices:
log entries 19, 20, 26 and 51. -/
def Obligations.ReservoirComplete : Prop :=
  ∀ (s : State) (stack : StackId), powered s.dev = true →
    let k := mgetD s.dev.stackTab stack {}
    let refused := ctl R.RSV_REFUSE_CNT (48 + stack) 0
    let counts (d : Dev) := fget d refused F.RSV_REFUSE_CNT_COUNT
    (∀ (n : Nat) (a : RsvAcc), k.arriving[n]? = some a → mayArrive k.arriving n = true →
        (rsvRefused s.dev stack a = false → Completes (.reservoirAccess (.queued stack n)) s fun e =>
          (mgetD e.stackTab stack {}).arriving = k.arriving.eraseIdx n
            ∧ (∃ q, (mgetD e.stackTab stack {}).accepted = k.accepted ++ [q] ∧ q.addr = a.addr ∧ q.len = a.len ∧ q.data = a.data
                ∧ q.vc = a.vc ∧ q.origin = a.origin)
            ∧ e.rsv = s.dev.rsv ∧ e.regs = s.dev.regs)
        ∧ (∀ die core, rsvRefused s.dev stack a = true → a.origin = .core die core →
          Completes (.reservoirAccess (.queued stack n)) s fun e =>
            (mgetD e.stackTab stack {}).arriving = k.arriving.eraseIdx n ∧ (mgetD e.stackTab stack {}).accepted = k.accepted
              ∧ e.rsv = s.dev.rsv ∧ OnlyRegs s.dev { e with stackTab := s.dev.stackTab, out := s.dev.out } [refused]
              ∧ counts e = min (counts s.dev + 1) (pow2 F.RSV_REFUSE_CNT_COUNT.width - 1)))
      ∧ (∀ a : ApertureAccess, a.width ∈ [1, 2, 4, 8] → a.addr.toNat % a.width = 0 → a.addr.toNat < 824633720832 →
          (a.data.all fun b => b.length == a.width) = true → stackReachable s.dev (a.addr.toNat / 2097152 % 8) = true →
          Completes (.reservoirAccess (.aperture a)) s fun e =>
            (mgetD e.stackTab (a.addr.toNat / 2097152 % 8) {}).arriving
              = (mgetD s.dev.stackTab (a.addr.toNat / 2097152 % 8) {}).arriving
                ++ [{ addr := a.addr.toNat, len := a.width, data := a.data, vc := 4, ring := true, origin := .core a.die a.core }]
              ∧ e.rsv = s.dev.rsv ∧ e.regs = s.dev.regs)
      ∧ (∀ (n : Nat) (a : RsvAcc) (fails : Fin 4) (die core : Nat), k.accepted[n]? = some a → mayServe s.dev stack n = true →
          k.fences = [] → a.origin = .core die core → s.dev.rsv.wf = true → s.dev.winReads = [] →
          let left (e : Dev) : Prop := (mgetD e.stackTab stack {}).accepted = k.accepted.eraseIdx n
          let serves := stackReachable s.dev stack && stackServes s.dev stack
          (serves = false → Completes (.reservoirService stack n fails) s fun e =>
              left e ∧ e.rsv = s.dev.rsv
                ∧ counts e = (if stackReachable s.dev stack then min (counts s.dev + 1) (pow2 F.RSV_REFUSE_CNT_COUNT.width - 1)
                    else counts s.dev)
                ∧ e.out.getLast? = some { kind := .coreFault,
                                          nums := [die, core, if a.data.isSome then 7 else 5, pow2 40 + a.addr], bytes := [] })
          ∧ (∀ bs, serves = true → a.data = some bs → Completes (.reservoirService stack n fails) s fun e =>
              left e ∧ (∀ i v, bs[i]? = some v → memByte e.epoch 0 e.rsv (a.addr + i) = v)
                ∧ (∀ x, x < a.addr ∨ a.addr + bs.length ≤ x → memByte e.epoch 0 e.rsv x = memByte s.dev.epoch 0 s.dev.rsv x)
                ∧ e.regs = s.dev.regs)
          ∧ (serves = true → a.data = none → fails.val < 3 → Completes (.reservoirService stack n fails) s fun e =>
              left e ∧ e.rsv = s.dev.rsv
                ∧ e.out.getLast? = some { kind := .readData, nums := [die, core, a.addr], bytes := rsvRead s.dev a.addr a.len }
                ∧ (fails.val = 0 → e.regs = s.dev.regs))
          ∧ (serves = true → a.data = none → fails.val = 3 → Completes (.reservoirService stack n fails) s fun e =>
              left e ∧ e.rsv = s.dev.rsv
                ∧ flag e (ctl R.RSV_PERR_STATUS (48 + stack) 0) F.RSV_PERR_STATUS_VALID = true
                ∧ e.out.getLast? = some { kind := .coreFault, nums := [die, core, 5, pow2 40 + a.addr], bytes := [] }))
      ∧ (∀ (r : WinRead) (a : RsvAcc) (fails : Fin 4), s.dev.stackTab = [(stack.val, { accepted := [a] })] → s.dev.winReads = [r] →
          a.origin = .window r.id → a.data = none → a.addr = r.addr → a.len = r.len → r.got = [] → r.refused = false → r.win < 4096 → r.gen < 65536 → r.off < 1048576 →
          1 ≤ r.len → r.addr % 1024 + r.len ≤ 1024 → stackReachable s.dev stack = true → stackServes s.dev stack = true →
          (fails.val < 3 → Completes (.reservoirService stack 0 fails) s fun e => e.winReads = [] ∧ e.rsv = s.dev.rsv
              ∧ Sent s.dev e r.src r.vc { kind := .readResp, nums := [r.head, r.src, r.vc, r.win, r.gen, r.off],
                                          bytes := rsvRead s.dev r.addr r.len })
          ∧ (fails.val = 3 → Completes (.reservoirService stack 0 fails) s fun e => e.winReads = [] ∧ e.rsv = s.dev.rsv
              ∧ Sent s.dev e r.src 0 { kind := .ack, nums := [r.head, r.src, r.win, r.off, r.len - 1, 7, r.gen] }))
      ∧ (∀ (p : Path) (v : Word), MayWrite s.dev p (ctl R.RSV_PT_ENTRY (48 + stack) 0) →
          let lp := selField s.dev p (ctl R.RSV_PT_SEL (48 + stack) 0) F.RSV_PT_SEL_PAGE
          let a := pageReg stack lp
          lp < 49152 → k.fences = [] →
          (entryKind (rd s.dev a) = 7 → Completes (.pageEntryWrite p stack v) s fun e =>
              OnlyRegs s.dev e [refused] ∧ counts e = min (counts s.dev + 1) (pow2 F.RSV_REFUSE_CNT_COUNT.width - 1))
          ∧ (entryKind (rd s.dev a) ≠ 7 → (∀ x ∈ k.accepted, x.addr / 16777216 ≠ lp) →
              Completes (.pageEntryWrite p stack v) s fun e =>
                entryKind (rd e a) = entryKind v ∧ fget e a F.RSV_PT_ENTRY_REFS = v.toNat / 65536
                  ∧ flag e a F.RSV_PT_ENTRY_STEP_RD = bit v.toNat 3 ∧ flag e a F.RSV_PT_ENTRY_STEP_WR = bit v.toNat 4
                  ∧ (entryKind v = 0 → entryKind (rd s.dev a) ≠ 0 → pageZeroing e stack lp = true)
                  ∧ (mgetD e.stackTab stack {}).fences = [] ∧ e.rsv = s.dev.rsv)
          ∧ (entryKind (rd s.dev a) ≠ 7 → (∃ x ∈ k.accepted, x.addr / 16777216 = lp ∧ x.seq < s.dev.nextId) →
              Completes (.pageEntryWrite p stack v) s fun e =>
                rd e a = rd s.dev a ∧ e.regs = s.dev.regs
                  ∧ ∃ w : Word, (mgetD e.stackTab stack {}).fences = [(lp, s.dev.nextId, w)] ∧ entryKind w = entryKind v
                    ∧ w.toNat / 65536 = v.toNat / 65536 ∧ bit w.toNat 3 = bit v.toNat 3 ∧ bit w.toNat 4 = bit v.toNat 4))
      ∧ (∀ page : Fin 49152, s.dev.rsv.wf = true → Completes (.pageZeroFillDone stack page) s fun e =>
          if pageZeroing s.dev stack page then
            pageZeroing e stack page = false
              ∧ (∀ i, i < 2097152 → memByte e.epoch 0 e.rsv ((page.val * 8 + stack.val) * 2097152 + i) = 0)
              ∧ (∀ x, x / 2097152 ≠ page.val * 8 + stack.val →
                  memByte e.epoch 0 e.rsv x = memByte s.dev.epoch 0 s.dev.rsv x)
              ∧ RegsBut s.dev e [pageReg stack page]
          else e = s.dev)
      ∧ exec (.stackRefresh stack) s = .next s

/-! ## Aqueducts (R217 to R232, R253) -/

/-- R218 (training), R219 (lane maps), R232 (Ethernet mode), R253 (HELLO). Model's choices: log entries 9, 20, 53, 54
and 56. -/
def Obligations.AqueductTrainingComplete : Prop :=
  ∀ (s : State) (g : AqdId), powered s.dev = true →
    let a := aqd s.dev g
    let st := trainState s.dev g
    let status := aqdReg R.AQD_STATUS g
    let retrains (d : Dev) := fget d (aqdReg R.AQD_FEC_CNT g) F.AQD_FEC_CNT_RETRAIN
    let enters (e : Dev) (n : Nat) : Prop := trainState e g = n ∧ flag e status F.AQD_STATUS_UP = (n == 5)
      ∧ (aqd e g).since = s.dev.tally
    let again (e : Dev) : Prop := enters e 1 ∧ (aqd e g).map = 0 ∧ (aqd e g).mapped = false ∧ (aqd e g).greeted = false
      ∧ flag e (aqdReg R.AQD_PEER g) F.AQD_PEER_VALID = false
      ∧ retrains e = min (retrains s.dev + 1) (pow2 F.AQD_FEC_CNT_RETRAIN.width - 1)
    let greeting : Emit :=
      { kind := .hello, vc := 7, src := ownFa s.dev,
        nums := [g, 0xFFFF, ownFa s.dev, g, 2, 3, fget s.dev (ctl R.DIE_EDITION 0 0) F.DIE_EDITION_EDITION] }
    (((st = 0 ∨ 5 ≤ st ∨ (st = 1 ∧ a.down = true) ∨ (st = 3 ∧ a.mapped = false) ∨ (st = 4 ∧ ethernet s.dev g = false ∧ a.greeted = false)) →
        exec (.trainingStateDone g) s = .next s)
      ∧ ((st = 1 ∧ a.down = false) ∨ st = 2 → Completes (.trainingStateDone g) s fun e => enters e (st + 1))
      ∧ (st = 3 → a.mapped = true → Completes (.trainingStateDone g) s fun e => enters e 4
          ∧ e.out = s.dev.out ++ (if ethernet s.dev g then [] else [greeting]))
      ∧ (st = 4 → ethernet s.dev g = true ∨ a.greeted = true →
          (∀ i : LaserInput, (laserIn s.dev (g / 8) i).readmit.head? ≠ some g.val) →
          Completes (.trainingStateDone g) s fun e => enters e 5
            ∧ (ethernet s.dev g = false → flag e (aqdReg R.AQD_PEER g) F.AQD_PEER_VALID = true)))
      ∧ ((1 ≤ st → st ≤ 4 → a.emptyFrom = none → a.noVersion = false → a.down = false →
            a.since + msTicks (trainBound st) ≤ s.dev.tally →
            Completes (.trainingTimeout g) s again)
        ∧ (a.down = true → exec (.trainingTimeout g) s = .next s)
        ∧ (s.dev.tally < a.since + msTicks (trainBound st) → exec (.trainingTimeout g) s = .next s))
      ∧ (∀ own far farLaser : BitVec 8, st = 3 → a.mapped = false → a.emptyFrom = none → a.farLaser = 0 →
          let out (d : Dev) (i : Nat) := bit (lanesOut d g) i
          let retired (i : Nat) := out s.dev i || bit farLaser.toNat i || bit a.lost i
          let usable (i : Nat) := bit own.toNat i && bit far.toNat i && !retired i && !bit a.ownLaser i
          let half (f : Nat) := (List.range 4).all fun i => usable (f + i)
          let lanes (e : Dev) : Prop := (∀ i, i < 8 → out e i = retired i
              ∧ bit (lanesLaser e g) i = (bit (lanesLaser s.dev g) i || (bit farLaser.toNat i && !out s.dev i)))
            ∧ ∃ o, e.out = s.dev.out ++ [{ kind := .laneMap, nums := [g, o, a.ownLaser], bytes := [] }]
              ∧ ∀ i, i < 8 → bit o i = (bit own.toNat i && !out s.dev i && !bit a.ownLaser i && !bit a.lost i)
          ((∀ i, i < 8 → retired i = true) → farLaser = 0 → Completes (.laneMapExchange g own far farLaser) s fun e =>
              lanes e ∧ trainState e g = 0)
          ∧ ((∀ i, i < 8 → usable i = false) → farLaser ≠ 0 ∨ (∃ i, i < 8 ∧ retired i = false) →
              Completes (.laneMapExchange g own far farLaser) s fun e => lanes e ∧ trainState e g = 3 ∧ (aqd e g).mapped = false ∧ (aqd e g).emptyFrom = some s.dev.tally)
          ∧ ((∃ i, i < 8 ∧ usable i = true) → (ethernet s.dev g = true → ∀ i, i < 8 → usable i = true) →
              Completes (.laneMapExchange g own far farLaser) s fun e =>
                lanes e ∧ trainState e g = 3 ∧ (aqd e g).mapped = true ∧ (∀ i, i < 8 → bit (aqd e g).map i = usable i)
                  ∧ fget e status F.AQD_STATUS_LANES = ((List.range 8).filter usable).length
                  ∧ flag e status F.AQD_STATUS_DEGRADED = decide (((List.range 8).filter usable).length < 8))
          ∧ (ethernet s.dev g = true → (∃ i, i < 8 ∧ usable i = true) → (∃ i, i < 8 ∧ usable i = false) →
              Completes (.laneMapExchange g own far farLaser) s fun e =>
                lanes e ∧ (if (half 0 || half 4) && flag s.dev (aqdReg R.AQD_CTRL g) F.AQD_CTRL_ETH_HALF then
                    (aqd e g).mapped = true ∧ flag e status F.AQD_STATUS_HALF = true
                      ∧ (aqd e g).map = (if half 0 then 15 else 240)
                  else trainState e g = 1 ∧ (aqd e g).mapped = false ∧ (aqd e g).down = true)))
      ∧ (∀ t, a.emptyFrom = some t →
          (t + 62500000 ≤ s.dev.tally → Completes (.mapRetryWait g) s again)
          ∧ (s.dev.tally < t + 62500000 → exec (.mapRetryWait g) s = .next s))
      ∧ (st = 4 → ethernet s.dev g = false → a.noVersion = true →
          (a.helloAt + 62500000 ≤ s.dev.tally → Completes (.hello g none) s fun e =>
              e.out = s.dev.out ++ [greeting] ∧ aqd e g = { a with helloAt := s.dev.tally } ∧ OnlyRegs s.dev
                { e with aqds := s.dev.aqds, out := s.dev.out } [])
          ∧ (s.dev.tally < a.helloAt + 62500000 → exec (.hello g none) s = .next s))
      ∧ (∀ m : HelloMsg, m.verMin < 256 → m.verMax < 256 → m.edition < 65536 → st = 4 → ethernet s.dev g = false →
          let p := aqdReg R.AQD_PEER g
          (2 ≤ m.verMax → m.verMin ≤ min 3 m.verMax → a.unacked = [] → a.queue = [] →
            Completes (.hello g (some m)) s fun e =>
              let same : Prop := fget s.dev p F.AQD_PEER_FA = m.fa.val ∧ fget s.dev p F.AQD_PEER_AQ = m.aqd.val
              (same → aqd e g = { a with greeted := true, noVersion := false, version := min 3 m.verMax })
                ∧ (¬ same → aqd e g = { a with express := [], waiting := [], credits := [], greeted := true, noVersion := false,
                                               version := min 3 m.verMax })
                ∧ fget e p F.AQD_PEER_FA = m.fa.val ∧ fget e p F.AQD_PEER_AQ = m.aqd.val ∧ OnlyRegs s.dev
                  { e with aqds := s.dev.aqds } [p])
          ∧ (m.verMax < 2 ∨ min 3 m.verMax < m.verMin → Completes (.hello g (some m)) s fun e =>
              aqd e g = { a with noVersion := true } ∧ trainState e g = 4 ∧ e.out = s.dev.out
                ∧ retrains e = min (retrains s.dev + 1) (pow2 F.AQD_FEC_CNT_RETRAIN.width - 1)))
      ∧ (∀ f : List Byte, flag s.dev status F.AQD_STATUS_UP = true → ethernet s.dev g = true →
          let drop := aqdReg R.AQD_ETH_DROP g
          let rx := aqdReg R.AQD_ETH_RX g
          (frameGood f = false → Completes (.ethFrameRx g f) s fun e =>
              fget e drop F.AQD_ETH_DROP_FCS
                  = min (fget s.dev drop F.AQD_ETH_DROP_FCS + 1) (pow2 F.AQD_ETH_DROP_FCS.width - 1)
                ∧ OnlyRegs s.dev e [drop])
          ∧ (frameGood f = true → frameClass (fget s.dev (aqdReg R.AQD_CTRL g) F.AQD_CTRL_VLAN) f = .plain →
              Completes (.ethFrameRx g f) s fun e =>
                fget e rx F.AQD_ETH_RX_FRAMES = min (fget s.dev rx F.AQD_ETH_RX_FRAMES + 1) (pow2 F.AQD_ETH_RX_FRAMES.width - 1)
                  ∧ (∃ l, e.out = s.dev.out ++ [{ kind := .ethFrame, nums := [g, 0], bytes := f }] ++ l
                    ∧ (servedAddrs s.dev g false = [] → servedAddrs s.dev g true = [] → l = [])) ∧ RegsBut s.dev e [rx])
          ∧ (frameGood f = true → frameClass (fget s.dev (aqdReg R.AQD_CTRL g) F.AQD_CTRL_VLAN) f = .unsupported →
              Completes (.ethFrameRx g f) s fun e =>
                fget e drop F.AQD_ETH_DROP_UNSUP
                    = min (fget s.dev drop F.AQD_ETH_DROP_UNSUP + 1) (pow2 F.AQD_ETH_DROP_UNSUP.width - 1)
                  ∧ OnlyRegs s.dev e [drop, rx]))

/-- R217, R229 (lasers), R225, R226 (retry), R227 (errors held back), R228 (lane retirement). Model's choices: log
entries 20, 53 and 55. -/
def Obligations.AqueductLanesComplete : Prop :=
  ∀ (s : State) (g : AqdId), powered s.dev = true →
    let a := aqd s.dev g
    let st := trainState s.dev g
    let retrains (d : Dev) := fget d (aqdReg R.AQD_FEC_CNT g) F.AQD_FEC_CNT_RETRAIN
    let locks (e : Dev) : Prop := trainState e g = 2 ∧ (aqd e g).map = 0 ∧ (aqd e g).since = s.dev.tally
      ∧ retrains e = min (retrains s.dev + 1) (pow2 F.AQD_FEC_CNT_RETRAIN.width - 1)
    (∀ (h : HeadId) (i : LaserInput) (power : BitVec 16),
        let l := laserIn s.dev h i
        let ok := decide (signed 16 (fget s.dev (ctl R.AQD_LASER_THRESH (56 + h) 8) F.AQD_LASER_THRESH_DBM) ≤ signed 16 power.toNat)
        let pw := ctl R.AQD_LASER_PWR (56 + h) 8
        let ls := ctl R.AQD_LASER_STATUS (56 + h) 8
        let shows (e : Dev) : Prop :=
          fget e pw (match i with | .a => F.AQD_LASER_PWR_A | .b => F.AQD_LASER_PWR_B) = power.toNat
            ∧ flag e ls (match i with | .a => F.AQD_LASER_STATUS_A_OK | .b => F.AQD_LASER_STATUS_B_OK) = ok
        (ok = true → Completes (.laserSample h i power) s fun e => shows e
            ∧ laserIn e h i = { l with low := 0, okSince := some (l.okSince.getD s.dev.tally) } ∧ RegsBut s.dev e [pw, ls])
        ∧ (ok = false → l.low < 9 ∨ l.lost = true → Completes (.laserSample h i power) s fun e => shows e
            ∧ laserIn e h i = { l with low := min 10 (l.low + 1), okSince := none } ∧ RegsBut s.dev e [pw, ls])
        ∧ (ok = false → 9 ≤ l.low → l.lost = false → Completes (.laserSample h i power) s fun e => shows e
            ∧ (laserIn e h i).lost = true
            ∧ ∀ k : Fin 8, ∀ n : Fin 8, bit i.lanes n = true → bit (lanesOut e (h * 8 + k)) n = true)
        ∧ (∀ t, l.okSince = some t →
            (s.dev.tally < t + 625000000 ∨ l.lost = false → exec (.laserRestored h i) s = .next s)
            ∧ (l.lost = true → t + 625000000 ≤ s.dev.tally → Completes (.laserRestored h i) s fun e =>
                (laserIn e h i).lost = false
                  ∧ (flag s.dev (aqdReg R.AQD_CTRL (h * 8)) F.AQD_CTRL_ENABLE = true →
                      (aqd s.dev (h * 8)).ownLaser = i.lanes →
                      (∀ n : Fin 8, bit (lanesLaser s.dev (h * 8)) n = true → bit (lanesOut s.dev (h * 8)) n = true) → ∀ n : Fin 8, bit i.lanes n = true →
                      bit (lanesLaser s.dev (h * 8)) n = true → bit (lanesOut e (h * 8)) n = false))))
      ∧ (st = 5 → ethernet s.dev g = false →
          (∀ (symbols : Vector Nat 8) (unc : Bool), Completes (.codewordNack g (.found symbols unc)) s fun e =>
              let r := aqdReg R.AQD_FEC_CNT g
              let pair := a.refusing.getD (pairIn s.dev g)
              e.out = s.dev.out ++ [{ kind := .linkNack, nums := [g, pair], bytes := [] }]
                ∧ (unc = true → (∃ w : Nat, aqd e g = { a with refusing := some pair, held := a.held ++ [(w, s.dev.tally)] }
                      ∧ ∀ i : Fin 8, bit a.map i = true → ∃ k : Fin 8, k.val = w ∧ bit a.map k = true
                        ∧ symbols[i] ≤ symbols[k] ∧ (symbols[i] = symbols[k] → k ≤ i))
                    ∧ fget e r F.AQD_FEC_CNT_UNCORR
                      = min (fget s.dev r F.AQD_FEC_CNT_UNCORR + 1) (pow2 F.AQD_FEC_CNT_UNCORR.width - 1))
                ∧ (unc = false → aqd e g = { a with refusing := some pair } ∧ e.regs = s.dev.regs))
          ∧ (∀ (pair : Fin 65536) (crc : Bool),
              let r := aqdReg R.AQD_RETRY_CNT g
              let n := if a.replays.1 = pair.val then a.replays.2 + 1 else 1
              Completes (.codewordNack g (.named pair crc)) s fun e =>
                fget e r F.AQD_RETRY_CNT_RETRY
                    = min (fget s.dev r F.AQD_RETRY_CNT_RETRY + 1) (pow2 F.AQD_RETRY_CNT_RETRY.width - 1)
                  ∧ (n ≤ 8 → aqd e g = { a with replays := (pair.val, n), outPair := pair.val, outAt := s.dev.tally }
                    ∧ e.out = s.dev.out ++ ((a.unacked.filter fun x => pairPassed x.pair pair.val).map fun x => { x with retry := true })
                    ∧ trainState e g = 5)
                  ∧ (8 < n → locks e))
          ∧ (a.refusing = none → exec (.codewordNack g .again) s = .next s)
          ∧ (∀ pair, a.refusing = some pair →
              (∀ n m, exec (.linkAck g n m) s = .next s)
              ∧ Completes (.codewordNack g .again) s fun e =>
                  aqd e g = { a with refusing := none, inPair := pair, inAt := s.dev.tally })
          ∧ (∀ (n : Nat) (m : LinkMsg), a.refusing = none → a.queue = [] → m.time = false → Completes (.linkAck g n m) s fun e =>
              aqd e g = { a with unacked := a.unacked.drop n, replays := if n = 0 then a.replays else (0, 0),
                                 peerIsolated := m.isolated.getD a.peerIsolated, credits := (aqd e g).credits } ∧ e.out = s.dev.out
                ∧ (∀ v : Fin 8, mgetD (aqd e g).credits v 0 = mgetD a.credits v 0 + m.credits.getD v 0)
                ∧ ∀ i : Fin 8, let r := aqdReg (R.AQD_LANE_SER + 4 * i) g
                    fget e r F.AQD_LANE_SER_SYMBOLS
                      = min (fget s.dev r F.AQD_LANE_SER_SYMBOLS + m.corrected.getD i 0) (pow2 F.AQD_LANE_SER_SYMBOLS.width - 1))
          ∧ (∀ (q : Emit) (n : Nat) (m : LinkMsg), a.refusing = none → m.time = false → aqdFabricUp s.dev g = true →
              (a.express = [q] ∧ a.waiting = [] ∨ a.express = [] ∧ ∃ v, v < 8 ∧ a.waiting = [(v, [q])]
                ∧ 0 < mgetD a.credits v 0 + m.credits.getD v 0) →
              bufferBytes (a.unacked.drop n) + q.fibre ≤ 524288 → Completes (.linkAck g n m) s fun e =>
              let q' := { q with pair := carryingPair (pairOut s.dev g) }
              (aqd e g).queue = [] ∧ (aqd e g).unacked = a.unacked.drop n ++ [q'] ∧ e.out = s.dev.out ++ [q']))
      ∧ (st = 5 → Completes (.errorCountRelease g) s fun e =>
          aqd e g = { a with held := a.held.filter fun c => s.dev.tally < c.2 + 625000 }
            ∧ e.errors.length = s.dev.errors.length + (a.held.filter fun c => decide (c.2 + 625000 ≤ s.dev.tally)).length
            ∧ e.regs = s.dev.regs)
      ∧ (∀ (p : Path) (lanes : BitVec 8), MayWrite s.dev p (aqdReg R.AQD_LANE_RET g) → lanes ≠ 0 →
          (st = 5 → ethernet s.dev g = false → Completes (.laneRetireReq p g lanes) s fun e =>
              (∃ pair, (aqd e g).change = some (((a.change.map Prod.fst).getD 0) ||| lanes.toNat, pair) ∧ pair < 65536
                ∧ 64 ≤ (pair + 65536 - pairOut s.dev g) % 65536
                ∧ e.out = s.dev.out ++ [{ kind := .laneMapChange, nums := [g, ((a.change.map Prod.fst).getD 0) ||| lanes.toNat, pair],
                                          bytes := [] }])
                ∧ lanesOut e g = lanesOut s.dev g ∧ (aqd e g).map = a.map)
          ∧ (st < 5 → Completes (.laneRetireReq p g lanes) s fun e => ∀ i : Fin 8,
              bit (lanesOut e g) i = (bit (lanesOut s.dev g) i || bit lanes.toNat i)))
      ∧ (st = 5 → ethernet s.dev g = false →
          (∀ (lanes : BitVec 8) (pair : Fin 65536),
            (pairPassed (pairIn s.dev g) pair = false → exec (.laneMapSwitch g (some (lanes, pair))) s = .next s)
            ∧ (pairPassed (pairIn s.dev g) pair = true → a.map < 256 →
              ((∃ i : Fin 8, bit a.map i = true ∧ bit lanes.toNat i = false) →
                (∃ i : Fin 8, bit (lanesOut s.dev g) i = false ∧ bit lanes.toNat i = false) →
                Completes (.laneMapSwitch g (some (lanes, pair))) s fun e => trainState e g = 5 ∧ ∀ i : Fin 8,
                  bit (lanesOut e g) i = (bit (lanesOut s.dev g) i || bit lanes.toNat i)
                    ∧ bit (aqd e g).map i = (bit a.map i && !bit lanes.toNat i))
              ∧ ((∀ i : Fin 8, bit (lanesOut s.dev g) i = true ∨ bit lanes.toNat i = true) →
                Completes (.laneMapSwitch g (some (lanes, pair))) s fun e => trainState e g = 0)))
          ∧ (∀ c, a.change = some c → pairPassed (pairOut s.dev g) c.2 = false → exec (.laneMapSwitch g none) s = .next s)
          ∧ (∀ c, a.change = some c → pairPassed (pairOut s.dev g) c.2 = true →
            (∃ i : Fin 8, bit a.map i = true ∧ bit c.1 i = false) →
            (∃ i : Fin 8, bit (lanesOut s.dev g) i = false ∧ bit c.1 i = false) → a.map < 256 → c.1 < 256 →
            Completes (.laneMapSwitch g none) s fun e => (aqd e g).change = none ∧ trainState e g = 5 ∧ ∀ i : Fin 8,
              bit (aqd e g).map i = (bit a.map i && !bit c.1 i))
          ∧ (a.change = none → exec (.laneMapSwitch g none) s = .next s))
      ∧ (∀ lane : Fin 8, (st = 5 → bit a.map lane = true → Completes (.laneLoss g lane) s fun e =>
            locks e ∧ bit (aqd e g).lost lane = true)
          ∧ (st ≠ 5 ∨ bit a.map lane = false → exec (.laneLoss g lane) s = .next s))

/-! ## Fabric transactions (R193, R240 to R252) -/

/-- R243 (the order of the checks), R244 (landing), R247 (credits return), R248 (reads), R252 (forwarding). Model's
choices: log entries 12, 20 and 58. -/
def Obligations.WindowFramesComplete : Prop :=
  ∀ (s : State) (hdr : FrameHdr) (w : WindowHdr), powered s.dev = true →
    received s.dev hdr.arrival = true → ShardsSettled s.dev → s.dev.winReads = [] →
    let d := s.dev
    let x := windowAt d hdr.head w.window
    let cnt := txnReg R.AQD_TXN_CNT_A hdr.head
    let status (n : Nat) (write : Bool) : Option Nat :=
      if headReachable d hdr.head = false then some 5
      else if x.state ≠ 1 ∨ w.gen.val ≠ x.gen then some 1
      else if x.size < w.offset + n then some 2
      else if (if write then x.wr else x.rd) = false then some 3
      else if write = true ∧ mgetD x.granted hdr.src 0
          ≤ (d.accepted.filter fun a => a.src == hdr.src.val && a.win == w.window.val && a.gen == w.gen.val).length then some 4
      else none
    let acked (e : Dev) (fa hd win off n code gen : Nat) : Prop :=
      Sent d e fa 0 { kind := .ack, nums := [hd, fa, win, off, n - 1, code, gen], bytes := [] }
    let isolated (n : Nat) (e : Dev) : Prop := ∀ l, hdr.link = some l →
      let m : Emit := { kind := .ack, nums := [hdr.head, hdr.src, w.window, w.offset, n - 1, 5, w.gen] }
      Takes d (hdr.head * 8 + l) 0 m → Went d e 0 m
    let refused (n c : Nat) (e : Dev) : Prop :=
      let f := if c = 1 then F.AQD_TXN_CNT_A_CLOSED else F.AQD_TXN_CNT_A_REFUSED
      Counted d e cnt f ∧ e.windows = d.windows ∧ e.accepted = d.accepted ∧ e.blocks = d.blocks ∧ e.rsv = d.rsv
        ∧ RegsBut d e (cnt :: if c = 7 then (List.range 8).map (fun s => ctl R.RSV_REFUSE_CNT (48 + s) 0) else [])
        ∧ (if c = 5 then isolated n e else acked e hdr.src hdr.head w.window w.offset n c w.gen)
    let passes (g n : Nat) (bytes : List Byte) (c : Instr) (k : EmitKind) (nums : List Nat) : Prop :=
      routeAqd d hdr.dst w.vc = some g → (g / 8 = hdr.head ∨ (headReachable d hdr.head = true ∧ headReachable d (g / 8) = true)) →
        (aqd d g).queue = [] → 0 < mgetD (aqd d g).credits w.vc 0 →
        bufferBytes (aqd d g).unacked + (16 + n + 63) / 64 * 64 ≤ 524288 →
        Completes c s fun e => e.accepted = d.accepted ∧ e.regs = d.regs ∧ e.blocks = d.blocks ∧ e.windows = d.windows
          ∧ e.out = d.out ++ [{ kind := k, nums := 0 :: hdr.dst :: w.vc :: w.window :: w.gen :: w.offset :: nums, bytes,
                                vc := w.vc, src := hdr.src, pair := carryingPair (pairOut d g) }]
    (hdr.dst.val ≠ ownFa d → faValid d = true → ∀ g,
        (∀ bytes, 1 ≤ bytes.length → bytes.length ≤ 4096 →
          passes g bytes.length bytes (.write hdr w bytes) .writeFrame []
            ∧ passes g bytes.length bytes (.readResp hdr w bytes) .readResp [])
        ∧ ∀ l pump bad, passes g 0 [] (.readReq hdr w l pump bad) .readReq [l + 1])
      ∧ (hdr.dst.val = ownFa d →
        (∀ bytes, 1 ≤ bytes.length → bytes.length ≤ 4096 →
          (∀ c, status bytes.length true = some c → Completes (.write hdr w bytes) s (refused bytes.length c))
          ∧ (status bytes.length true = none → Completes (.write hdr w bytes) s fun e =>
              e.accepted = d.accepted ++ [{ seq := d.nextId, head := hdr.head, src := hdr.src, win := w.window, gen := w.gen,
                                            off := w.offset, vc := w.vc, bytes }]
                ∧ e.regs = d.regs ∧ e.windows = d.windows ∧ e.blocks = d.blocks ∧ e.rsv = d.rsv ∧ e.out = d.out))
        ∧ (∀ (l : Fin 4096) (pump : PumpId) (bad : List BadRead),
          let n := l.val + 1
          let x := window d w.window
          (∀ c, status n false = some c → Completes (.readReq hdr w l pump bad) s (refused n c))
          ∧ (status n false = none → d.accepted = [] →
              let answer (bytes : List Byte) (e : Dev) : Prop := e.blocks = d.blocks ∧ e.rsv = d.rsv ∧ e.windows = d.windows
                ∧ Sent d e hdr.src w.vc { kind := .readResp, nums := [hdr.head, hdr.src, w.vc, w.window, w.gen, w.offset], bytes }
              (targetReady d x w.offset n false = none → Completes (.readReq hdr w l pump bad) s (refused n 7))
              ∧ (∀ pd pb a, parseEndpoint x.target w.offset = some (some (.package pd pb a)) → bad = [] →
                  a % 1024 + n ≤ 1024 → a < 6291456 → let to_ := translateHome d pd pb a
                  wellReady d pd to_.1 false (to_.2 / 1024) = true →
                  Completes (.readReq hdr w l pump bad) s (answer (wellRead d pd to_.1 to_.2 n)))
              ∧ (∀ a, targetReady d x w.offset n false = some ([], some a) → Completes (.readReq hdr w l pump bad) s fun e =>
                  e.out = d.out ∧ e.regs = d.regs ∧ e.blocks = d.blocks ∧ e.rsv = d.rsv ∧ e.windows = d.windows
                    ∧ e.winReads = [{ id := d.nextId, head := hdr.head, src := hdr.src, vc := w.vc, win := w.window, gen := w.gen,
                                      off := w.offset, addr := a, len := n }]
                    ∧ ∀ p ∈ cutRange (n / 1024 + 2) a n, ∃ o ∈ (mgetD e.stackTab (p.1 / 2097152 % 8) {}).accepted,
                        o.addr = p.1 ∧ o.len = p.2 ∧ o.data = none ∧ o.vc = w.vc ∧ o.origin = .window d.nextId)))
        ∧ (∀ bytes d1 t, 1 ≤ bytes.length → bytes.length ≤ 4096 → headReachable d hdr.head = true →
            takeTxn d (.read hdr.src w.window w.gen w.offset bytes.length) = some (d1, t) →
            ∀ (die : DieId) (b : BlockId) (pb : Bool) rid (q : QueueId) (i : PumpItem) (p : PumpPiece) dst,
              t.origin = .pump die b pb rid → p.dst = some (.ownWell dst) → p.parts = [(rid, none)] → i.pieces = [p] →
              pumpOf (blk d die b) pb = ({} : Pump).setQueue q [i] →
              Completes (.readResp hdr w bytes) s fun e => e.txns = d1.txns
                ∧ OnlyBlock d { e with txns := d.txns, aqds := d.aqds } die b []
                ∧ pumpQueue e die b pb q = [{ i with pieces := [{ p with parts := [(rid, some bytes)] }] }]))
      ∧ (∀ (n : Nat) (a : Accepted), d.accepted[n]? = some a →
          (∀ o ∈ d.accepted.take n, ¬ (o.src = a.src ∧ o.vc = a.vc)) → a.win < 4096 → a.gen < 65536 → a.off < 1048576 →
          (window d a.win).waiting = [] →
          (∀ h k, h < 8 → k < 64 →
            let r := ctl (R.GAT_RLY_WIN + 0x10 * k) (56 + h) 1
            flag d r F.GAT_RLY_WIN_VALID = false ∨ fget d r F.GAT_RLY_WIN_WINDOW ≠ a.win) →
          let back (e : Dev) : Prop := e.accepted = d.accepted.eraseIdx n ∧ ((window d a.win).gen = a.gen →
            mgetD (window e a.win).granted a.src 0 = mgetD (window d a.win).granted a.src 0 - 1)
          let answer (e : Dev) (c : Nat) : Prop := acked e a.src a.head a.win a.off a.bytes.length c a.gen
          (∀ pd pb addr, parseEndpoint (window d a.win).target a.off = some (some (.package pd pb addr)) →
              0 < a.bytes.length → addr % 1024 + a.bytes.length ≤ 1024 → addr < 6291456 →
              let to_ := translateHome d pd pb addr
              wellReady d pd to_.1 false (to_.2 / 1024) = true → (blk d pd to_.1).well.wf = true →
              Completes (.writeLanded n) s fun e => back e ∧ answer e 0 ∧ e.regs = d.regs ∧ e.rsv = d.rsv
                ∧ (∀ n v, a.bytes[n]? = some v → memByte e.epoch 0 (blk e pd to_.1).well (to_.2 + n) = v)
                ∧ (∀ k, k < to_.2 ∨ to_.2 + a.bytes.length ≤ k →
                    memByte e.epoch 0 (blk e pd to_.1).well k = memByte d.epoch 0 (blk d pd to_.1).well k))
          ∧ (∀ addr, parseEndpoint (window d a.win).target a.off = some (some (.reservoir addr)) →
              let earlier : Prop := ∃ x ∈ d.stackTab, ∃ o ∈ x.2.accepted, addr / 1024 ≤ o.segment
                ∧ o.segment ≤ (addr + a.bytes.length - 1) / 1024 ∧ o.seq < a.seq
              (earlier → exec (.writeLanded n) s = .next s)
              ∧ (¬ earlier → targetReady d (window d a.win) a.off a.bytes.length true = some ([], some addr) →
                Completes (.writeLanded n) s fun e => back e ∧ answer e 0 ∧ e.regs = d.regs ∧ e.blocks = d.blocks
                  ∧ e.rsv = memWrite d.rsv addr a.bytes)
              ∧ (¬ earlier → targetReady d (window d a.win) a.off a.bytes.length true = none →
                Completes (.writeLanded n) s fun e => back e ∧ answer e 7 ∧ e.rsv = d.rsv ∧ e.blocks = d.blocks
                  ∧ fget e (txnReg R.AQD_TXN_CNT_A a.head) F.AQD_TXN_CNT_A_REFUSED
                    = min (fget d (txnReg R.AQD_TXN_CNT_A a.head) F.AQD_TXN_CNT_A_REFUSED + 1)
                        (pow2 F.AQD_TXN_CNT_A_REFUSED.width - 1))))
      ∧ (∀ (h : ExpressHdr) (r : AckRecord) d1 t, h.dst.val = ownFa d → received d h.arrival = true →
          headReachable d h.head = true →
          takeTxn d (.write (bits h.stamp.toNat 0 16) r.window r.gen r.offset (r.lenM1 + 1)) = some (d1, t) →
          ∀ (die : DieId) (b : BlockId) (pb : Bool) rid (q : QueueId) (i : PumpItem) (p : PumpPiece),
            t.origin = .pump die b pb rid → p.sent = true → p.rid = rid → i.pieces = [p] → i.failed = false →
            pumpOf (blk d die b) pb = ({} : Pump).setQueue q [i] →
            (r.status = 0 → Completes (.ack h [r]) s fun e => e.txns = d1.txns
                ∧ OnlyBlock d { e with txns := d.txns, aqds := d.aqds } die b []
                ∧ pumpQueue e die b pb q = [{ i with pieces := [{ p with landed := true }] }])
            ∧ (r.status = 1 → Completes (.ack h [r]) s fun e => e.txns = d1.txns
                ∧ fget e (pumpReg R.PMP_STALL_CNT die b pb) F.PMP_STALL_CNT_NACK
                  = min (fget d (pumpReg R.PMP_STALL_CNT die b pb) F.PMP_STALL_CNT_NACK + 1)
                      (pow2 F.PMP_STALL_CNT_NACK.width - 1)
                ∧ ∃ j : PumpItem, pumpQueue e die b pb q = [j] ∧ j.failed = true ∧ j.pieces = [] ∧ j.desc = i.desc))

/-- R247 (credits), R250 (gates), R193 (ABORT), R240 (unknown operations), R249 (timeout). Model's choices: log
entries 15, 20, 58, 59 and 60. -/
def Obligations.ExpressOperationsComplete : Prop :=
  ∀ (s : State) (h : ExpressHdr) (xid : Fin 65536), powered s.dev = true → h.dst.val = ownFa s.dev →
    received s.dev h.arrival = true → headReachable s.dev h.head = true → ShardsSettled s.dev →
    let d := s.dev
    let taken := noteTaken d h.arrival 0
    let fa := bits h.stamp.toNat 0 16
    (∀ (w : Fin 4096) (gen : Fin 65536) (n : Fin 65), 1 ≤ n.val →
        let x := window d w
        let out : Nat := (x.granted.map Prod.snd).sum
        let answered (e : Dev) (k : Nat) : Prop := Sent d e fa 0 { kind := .credit, nums := [leaveBy d fa, fa, xid, w, gen, k], bytes := [] }
        (x.state ≠ 1 ∨ gen.val ≠ x.gen → Completes (.creditReq h xid w gen n) s fun e =>
            answered e 0 ∧ e.windows = d.windows ∧ e.regs = d.regs)
        ∧ (x.state = 1 → gen.val = x.gen → x.waiting = [] →
            (out < x.pool → flag d (winReg R.AQD_WIN_CTRL w) F.AQD_WIN_CTRL_HOLD = false →
              Completes (.creditReq h xid w gen n) s fun e => answered e (min n.val (x.pool - out)) ∧ e.regs = d.regs
                ∧ (window e w).waiting = [] ∧ mgetD (window e w).granted fa 0 = mgetD x.granted fa 0 + min n.val (x.pool - out))
            ∧ (x.pool ≤ out ∨ flag d (winReg R.AQD_WIN_CTRL w) F.AQD_WIN_CTRL_HOLD = true →
              Completes (.creditReq h xid w gen n) s fun e =>
                (window e w).waiting = [{ fa, head := h.head, xid, gen, wanted := n, die := bits h.stamp.toNat 16 6 }] ∧ e.out = d.out))
        ∧ (∀ c, d.credits = [c] → c.fa = fa → c.win = w.val → c.gen = gen.val → 
            (c.asked ≠ some xid.val → Completes (.credit h xid w gen n) s fun e => e = taken)
            ∧ (c.asked = some xid.val → d.fountains = [] → d.blocks = [] → Completes (.credit h xid w gen n) s fun e =>
                e = { taken with credits := [{ c with have_ := c.have_ + n, asked := none }] })))
      ∧ (∀ (gate : Fin 512) (opc : BitVec 3) (v : BitVec 24), h.die.val < 56 →
          let c := gateReg R.GAT_COUNT h.die gate
          let count (e : Dev) := (rd e c).toNat
          let st := ctl R.GAT_BANK_STATUS h.die 0
          let on := flag d (gateReg R.GAT_CTRL h.die gate) F.GAT_CTRL_REMOTE_EN
          let owner := ownerOk d h.die gate .fabric
          let answers (code : Nat) (P : Dev → Prop) : Prop := Completes (.gateOp h xid gate opc v) s fun e =>
            Sent d e fa 0 { kind := .gateAck, nums := [leaveBy d fa, fa, xid, code], bytes := [] } ∧ P e
          let refuses (code : Nat) : Prop := answers code fun e => Counted d e st F.GAT_BANK_STATUS_FAULTS ∧ RegsBut d e [st]
          (gateExists h.die gate = false → answers 1 fun e => e.regs = d.regs)
          ∧ (gateExists h.die gate = true → on = false →
              answers 1 fun e => Counted d e st F.GAT_BANK_STATUS_REMOTE_REFUSED ∧ RegsBut d e [st])
          ∧ (gateExists h.die gate = true → on = true → waiters d h.die gate = [] →
              (opc = 0 → count d + v.toNat < 4294967296 → answers 0 fun e => count e = count d + v.toNat ∧ RegsBut d e [c])
              ∧ (opc = 0 → 4294967296 ≤ count d + v.toNat → refuses 4)
              ∧ (opc = 1 → owner = true → v.toNat ≤ count d → answers 0 fun e => count e = count d - v.toNat ∧ RegsBut d e [c])
              ∧ (opc = 1 → owner = true → count d < v.toNat → refuses 3)
              ∧ (1 ≤ opc.toNat → opc.toNat ≤ 4 → owner = false → refuses 2)))
      ∧ (∀ (status : Byte) d1 t g, takeTxn d (.gate xid) = some (d1, t) → t.origin = .signal g → g.die < 64 →
          let signals (e : Dev) := (dieSt e g.die).signals
          (status = 0 → Completes (.gateAck h xid status) s fun e => e.txns = d1.txns ∧ e.regs = d.regs
              ∧ signals e = signals d - (if g.step then 1 else 0))
          ∧ (1 ≤ status.toNat → status.toNat ≤ 4 → Completes (.gateAck h xid status) s fun e => e.txns = d1.txns
              ∧ signals e = signals d - (if g.step then 1 else 0)
              ∧ Recorded d e g.die (if status.toNat ≤ 2 then .gateOwner else if status = 3 then .gateUnderflow else .gateOverflow)))
      ∧ (∀ (number : BitVec 64) (group : Fin 65536),
          let mine : Prop := (∃ g ∈ d.groups, g.num = group.val ∧ g.committed = true ∧ ownFa d ∈ g.members) ∧ stepOf d group = true
          (d.step.number % 18446744073709551616 = number.toNat → mine → d.step.running = true →
            Completes (.abort h number group) s fun e => Recorded d e d.coord .abortRemote ∧ RegsBut d e (faultRegs d.coord)
              ∧ e.step = { d.step with abort := if d.step.abort = .none then .requested .abortRemote else d.step.abort })
          ∧ (d.step.number % 18446744073709551616 ≠ number.toNat ∨ ¬ mine ∨ d.step.running = false →
            Completes (.abort h number group) s fun e => e = taken))
      ∧ (∀ (eop : Byte) (args : Vector Byte 52),
          let counts (a : Nat) (f : Fld) : Prop := Completes (.expressFlitDrop (.express h eop args)) s fun e =>
            Counted d e a f ∧ OnlyRegs d { e with aqds := d.aqds } [a] ∧ e.aqds = taken.aqds
          let unknown : Prop := eop = 0 ∨ 10 < eop.toNat
          let barrier : Prop := eop = 9 ∧ (2 ≤ args[0].toNat ∨ 64 ≤ args[1].toNat)
          (unknown → counts (txnReg R.AQD_TXN_CNT_B h.head) F.AQD_TXN_CNT_B_DROPPED)
          ∧ (barrier → 56 ≤ h.die.val → counts (ctl R.GAT_BAR_STATUS h.die 0) F.GAT_BAR_STATUS_DROPPED)
          ∧ (∀ (x : ExpressHdr) g, let m : Emit := { kind := .expressFlit, nums := [0, x.dst, eop.toNat], bytes := args.toList }
              unknown ∨ barrier → x.dst.val ≠ ownFa d → faValid d = true → received d x.arrival = true → headReachable d x.head = true →
              routeAqd d x.dst 0 = some g → headReachable d (g / 8) = true → Takes d g 0 m →
              Completes (.expressFlitDrop (.express x eop args)) s fun e => e.regs = d.regs ∧ Went d e 0 m))
      ∧ (Completes (.expressFlitDrop .control) s fun e =>
          Counted d e (ctl R.HAL_ACC_STATUS 0 4) F.HAL_ACC_STATUS_DROPPED ∧ OnlyRegs d e [ctl R.HAL_ACC_STATUS 0 4])
      ∧ (∀ n t, d.txns[n]? = some t →
          let bound := 625 * max 1 (fget d (ctl R.AQD_TXN_TIMEOUT (56 + t.head) 9) F.AQD_TXN_TIMEOUT_US)
          let cnt := txnReg R.AQD_TXN_CNT_B t.head
          (d.tally < t.start + bound ∨ (∃ x y z, t.origin = .fountain x y z) → exec (.transactionTimeout n) s = .next s)
          ∧ (∀ g, t.origin = .signal g → g.die < 64 → t.start + bound ≤ d.tally → t.head < 8 → Completes (.transactionTimeout n) s fun e =>
              e.txns = d.txns.eraseIdx n ∧ Counted d e cnt F.AQD_TXN_CNT_B_TIMEOUT ∧ Recorded d e g.die .remoteTimeout)
          ∧ (∀ (die : DieId) (core : CoreId) (b : Fin 4), let c := txReg R.HAL_TX_CTRL die core b
              t.origin = .buffer c → t.start + bound ≤ d.tally → t.head < 8 → Completes (.transactionTimeout n) s fun e =>
              e.txns = d.txns.eraseIdx n ∧ Counted d e cnt F.AQD_TXN_CNT_B_TIMEOUT ∧ flag e c F.HAL_TX_CTRL_BUSY = false
                ∧ fget e c F.HAL_TX_CTRL_STATUS = 4 ∧ bit (rd e (ctl R.HAL_IRQ_PEND die core)).toNat 2 = true))

/-- R251, R339 (messages), R337 (answers), R242 (the primary head), R245 (CLOSE). Model's choices: log entry 59. -/
def Obligations.MailAndWindowsComplete : Prop :=
  ∀ s : State, powered s.dev = true →
    let d := s.dev
    (∀ (h : ExpressHdr) (xid : Fin 65536) (m : Fin 64) (part : Fin 2) (bytes : Vector Byte 32), h.dst.val = ownFa d →
        received d h.arrival = true → headReachable d h.head = true →
        let mine (g : MbxHalf) : Prop := g.stamp = h.stamp.toNat ∧ g.xid = xid.val ∧ g.die = h.die.val ∧ g.mailbox = m.val
        ((∀ g ∈ d.mbxHalves, ¬ mine g) → Completes (.mbxPart h xid m part bytes) s fun e =>
            e = { noteTaken d h.arrival 0 with mbxHalves := d.mbxHalves ++
                    [{ stamp := h.stamp.toNat, xid, die := h.die, mailbox := m, part, bytes := bytes.toList }] })
        ∧ (∀ g, d.mbxHalves = [g] → mine g → g.part ≠ part.val → g.part < 2 → g.bytes.length = 32 → h.die.val < 48 →
            let c := mbxReg R.MBX_CTRL h.die m
            let st := mbxReg R.MBX_STATUS h.die m
            let core := fget d c F.MBX_CTRL_CORE
            let whole := if part = 0 then bytes.toList ++ g.bytes else g.bytes ++ bytes.toList
            let takes : Prop := flag d c F.MBX_CTRL_ENABLE = true ∧ flag d (ctl R.HAL_CORE_CTRL h.die core) F.HAL_CORE_CTRL_HOLD = false
              ∧ coreRetired d h.die core = false ∧ fget d c F.MBX_CTRL_MIN_PRIV ≤ h.stamp.toNat / 1073741824
              ∧ (flag d c F.MBX_CTRL_REMOTE_OK = true ∨ h.stamp.toNat % 65536 = ownFa d)
            (takes → Completes (.mbxPart h xid m part bytes) s fun e => e.mbxHalves = []
                ∧ (∀ i, i < 16 → (rd e (mbxReg (R.MBX_MSG + 4 * i) h.die m)).toNat = ofLeBytes ((whole.drop (4 * i)).take 4))
                ∧ rd e (mbxReg R.MBX_STAMP h.die m) = h.stamp ∧ flag e st F.MBX_STATUS_FULL = true
                ∧ flag e st F.MBX_STATUS_TIMED_OUT = false
                ∧ fget e st F.MBX_STATUS_SEQ = (fget d st F.MBX_STATUS_SEQ + 1) % 256
                ∧ (flag d st F.MBX_STATUS_FULL = true → flag e st F.MBX_STATUS_COLLISION = true
                    ∧ Counted d e (mbxReg R.MBX_CNT h.die m) F.MBX_CNT_COLLISIONS)
                ∧ (flag d st F.MBX_STATUS_FULL = false → flag d c F.MBX_CTRL_DOORBELL = true →
                    bit (rd e (ctl R.HAL_IRQ_PEND h.die core)).toNat 0 = true))
            ∧ (¬ takes → Completes (.mbxPart h xid m part bytes) s fun e => e.mbxHalves = []
                ∧ Counted d e (mbxReg R.MBX_CNT h.die m) F.MBX_CNT_REFUSED ∧ RegsBut d e [mbxReg R.MBX_CNT h.die m]
                ∧ Sent d e (h.stamp.toNat % 65536) 0 { kind := .mbxAck, nums := [leaveBy d (h.stamp.toNat % 65536), h.stamp.toNat % 65536, xid, 1], bytes := [] })))
      ∧ (∀ (h : ExpressHdr) (xid : Fin 65536) (status : Byte) d1 t (die : DieId) (core : CoreId) (b : Fin 4),
          let c := txReg R.HAL_TX_CTRL die core b
          h.dst.val = ownFa d → received d h.arrival = true → headReachable d h.head = true → status.toNat ≤ 2 → takeTxn d (.mbx xid) = some (d1, t) → t.origin = .buffer c →
          Completes (.mbxAck h xid status) s fun e => e.txns = d1.txns ∧ flag e c F.HAL_TX_CTRL_BUSY = false
            ∧ fget e c F.HAL_TX_CTRL_STATUS = status.toNat + 1 ∧ bit (rd e (ctl R.HAL_IRQ_PEND die core)).toNat 2 = true
            ∧ RegsBut d e [c, ctl R.HAL_IRQ_PEND die core])
      ∧ (∀ (p : Path) (h : HeadId), MayWrite d p (txnReg R.AQD_WIN_OP h) →
          let w := selWindow d p h
          let x := window d w
          let st := txnReg R.AQD_TXN_STATUS h
          (h.val ≠ primaryHead d → (Completes (.windowOpen p h) s fun e => e.windows = d.windows)
              ∧ Completes (.windowClose p h) s fun e => e.windows = d.windows)
          ∧ (h.val = primaryHead d →
            (x.state = 1 → Completes (.windowClose p h) s fun e =>
                window e w = { x with state := 2, gen := (x.gen + 1) % 65536, granted := [], waiting := [], drained := [] }
                  ∧ flag e st F.AQD_TXN_STATUS_WIN_BUSY = true
                  ∧ ∀ k, k < 8 → k ≠ h.val → windowAt e k w = windowAt d k w)
            ∧ (x.state ≠ 1 → Completes (.windowClose p h) s fun e => e.windows = d.windows)))
      ∧ (∀ (w : Fin 4096) (h : HeadId), let x := window d w
          ShardsSettled d → mget d.winCopies (h * 4096 + w) = none → x.state = 2 → h.val ∉ x.drained → (∀ a ∈ d.accepted, ¬ (a.win = w.val ∧ a.head = h.val ∧ a.gen ≠ x.gen)) →
          (x.drained.length < 7 → Completes (.windowDrained w h) s fun e => window e w = { x with drained := x.drained ++ [h.val] })
          ∧ (x.drained.length = 7 → Completes (.windowDrained w h) s fun e => window e w = { x with state := 0, drained := [] }))

/-! ## Discovery, groups, barriers and snapshots (R254 to R269) -/

/-- R254 (the record), R255 (relaying, rosters, silence). Model's choices: log entries 20 and 73. -/
def Obligations.RostersComplete : Prop :=
  ∀ s : State, powered s.dev = true →
    let d := s.dev
    let own := ownFa d
    let still : Prop := ∀ x ∈ d.srv.models, x.2.staged = none
    let noted (r : DiscoveryRecord) (g : Nat) : Partner :=
      { fa := r.fa, verMin := r.verMin, verMax := r.verMax, edition := r.edition, flags := r.flags,
        capacity := r.capacity, identity := r.identity, models := r.models, heard := d.tally, aqd := g }
    let record : List Byte := leBytes 2 own ++ [2, 3]
      ++ leBytes 2 (fget d (ctl R.DIE_EDITION 0 0) F.DIE_EDITION_EDITION) ++ leBytes 1 (discoveryFlags d)
      ++ leBytes 1 (fget d (srvReg R.SRV_CAP_STATUS) F.SRV_CAP_STATUS_CAPACITY) ++ identity8 d
      ++ (sha512 (modelTable d)).take 8 ++ List.replicate 8 0
    (faValid d = true → (∀ g, g < 64 → aqdFabricUp d g = true → Takes d g 7 { kind := .discovery, bytes := record }) →
        Completes .discoverySend s fun e => e.regs = d.regs ∧ e.partners = d.partners
          ∧ e.out = d.out ++ ((List.range 64).filter (aqdFabricUp d)).map fun g =>
              { kind := .discovery, nums := [g, fget d (aqdReg R.AQD_PEER g) F.AQD_PEER_FA], bytes := record, vc := 7, src := own,
                pair := carryingPair (pairOut d g) })
      ∧ (∀ (h : FrameHdr) (r : DiscoveryRecord), r.wellFormed = true → r.fa.val ≠ own → h.dst.val = own → received d h.arrival = true →
          headReachable d h.head = true →
          let new := noted r (h.head * 8 + (h.link.map Fin.val).getD 0)
          let d1 := { noteTaken d h.arrival 7 with partners := (d.partners.filter fun o => o.fa != r.fa.val) ++ [new] }
          let others := (precinct d1).filter fun p => p.fa != own && p.fa != r.fa.val
          (isMaster d1 = false → Completes (.discoveryReceive h r) s fun e => e = d1)
          ∧ (isMaster d1 = true → (others = [] → Completes (.discoveryReceive h r) s fun e => e = d1)
            ∧ ∀ q, others = [q] → Completes (.discoveryReceive h r) s fun e => e.partners = d1.partners ∧ e.regs = d.regs
                ∧ Sent d e q.fa 7 { kind := .discovery, nums := [leaveBy d q.fa, q.fa], bytes := new.bytes }))
      ∧ ((isMaster d = false → still → exec .rosterPublish s = .next s)
        ∧ (isMaster d = true → d.groups = [] → still →
            let l := precinct d
            let rest := (l.filter fun p => p.fa != own).map Partner.fa ++ otherMasters d
            Completes .rosterPublish s (fun e => e.roster = l.map Partner.fa ∧ e.partners = d.partners ∧ e.regs = d.regs)
            ∧ (∀ q, rest = [q] → Completes .rosterPublish s fun e =>
                Sent d e q 7 { kind := .roster, nums := [leaveBy d q, q], bytes := l.flatMap Partner.bytes })))
      ∧ (∀ (h : FrameHdr) (l : List DiscoveryRecord), (∀ r ∈ l, r.wellFormed = true) → h.dst.val = own → received d h.arrival = true →
          headReachable d h.head = true → d.groups = [] → still →
          Completes (.rosterReceive h l) s fun e =>
            e.roster = (if h.src.val / 64 = own / 64 ∧ h.src.val ≠ own then l.map fun r => r.fa.val else d.roster)
              ∧ (∀ r ∈ l, r.fa.val ≠ own → r.fa.val / 64 ≠ own / 64 ∨ r.fa.val = h.src.val →
                  ∃ p ∈ e.partners, p.fa = r.fa.val ∧ p.heard = d.tally)
              ∧ (∀ (fa : Fin 65536) p, (d.partners.find? fun p => p.fa == fa.val) = some p → fa.val / 64 = own / 64 → fa.val ≠ h.src.val →
                  ∃ q ∈ e.partners, q.fa = fa.val ∧ q.heard = p.heard)
              ∧ (h.src.val / 64 ≠ own / 64 → ∀ p ∈ e.partners, p.fa / 64 = h.src.val / 64 → ∃ r ∈ l, r.fa.val = p.fa)
              ∧ e.regs = d.regs)
      ∧ (∀ (fa : Fin 65536) (p : Partner), (d.partners.find? fun p => p.fa == fa.val) = some p →
          (d.tally < p.heard + 18750000 → still → exec (.partnerSilent fa) s = .next s)
          ∧ (p.heard + 18750000 ≤ d.tally → d.groups = [] → still →
            (∀ x ∈ d.srv.slots, x.2.state ≠ .ending ∧ ∀ h ∈ x.2.holders, h.fa ≠ fa.val ∧ h.refused = false) →
            Completes (.partnerSilent fa) s fun e =>
              e = { d with partners := d.partners.filter fun o => o.fa != fa.val, roster := d.roster.filter fun x => x != fa.val,
                           regs := e.regs }
                ∧ RegsBut d e (srvReg R.SRV_STATUS :: srvReg R.SRV_CONV :: (d.srv.models.map Prod.fst).flatMap fun m =>
                    [modelReg R.SRV_MT_PIN_ACT m, modelReg R.SRV_MT_PIN_PREV m])))

/-- R256. Model's choices: log entries 20 and 73. -/
def Obligations.GroupsComplete : Prop :=
  ∀ s : State, powered s.dev = true →
    let d := s.dev
    let own := ownFa d
    let edn := fget d (ctl R.DIE_EDITION 0 0) F.DIE_EDITION_EDITION
    (∀ (num edition : Nat) (ms : List (Fin 65536)), num < 65536 → edition < 65536 →
        let members := ms.map Fin.val
        let others := members.filter fun m => m != own
        let start : Instr := .groupForm (.start num edition ms)
        (isMaster d = false ∨ (∃ x ∈ members, x / 64 < own / 64) ∨ (∀ x ∈ members, x / 64 ≠ own / 64) → exec start s = .next s)
        ∧ (isMaster d = true → (∀ x ∈ members, own / 64 ≤ x / 64) → own ∈ members → others ≠ [] →
            let gen := match groupOf d num with
              | some g => (g.gen + 1) % 65536
              | none => 1
            Completes start s (fun e => groupOf e num = some
              { num, gen, edition, members := if edition = edn then members else others, wanted := members, formed := members,
                master := own, joined := if edition = edn then [(own, 2, 3)] else [] })
            ∧ (∀ m, others = [m] → Completes start s fun e =>
                Sent d e m 7 { kind := .groupForm, nums := leaveBy d m :: m :: num :: gen :: edition :: members, bytes := [] })))
      ∧ (∀ (h : FrameHdr) (num gen edition : Nat) (ms : List (Fin 65536)), num < 65536 → gen < 65536 → edition < 65536 →
          h.dst.val = own → received d h.arrival = true → headReachable d h.head = true →
          Completes (.groupForm (.arrive h num gen edition ms)) s fun e =>
            groupOf e num = some { num, gen, edition, members := ms.map Fin.val, master := h.src }
              ∧ Sent d e h.src 7 { kind := .groupJoin, nums := [leaveBy d h.src, h.src, num, gen, edn, 2, 3], bytes := [] }
              ∧ (∀ g, groupOf d num = some g → g.committed = true → g.gen ≠ gen → d.step.running = true → stepOf d num = true →
                  Recorded d e d.coord .abortRemote ∧ (d.step.abort = .none → e.step.abort = .requested .abortRemote)))
      ∧ (∀ (h : FrameHdr) (num gen edition : Fin 65536) (lo hi : Fin 256) (g : Group), h.dst.val = own →
          received d h.arrival = true → headReachable d h.head = true →
          groupOf d num = some g → g.gen = gen.val → g.committed = false → g.master = own → h.src.val ∈ g.members →
          let joined := (g.joined.filter fun j => j.1 != h.src.val) ++ [(h.src.val, lo.val, hi.val)]
          let ok := joined.filter fun a => joined.all fun b => decide (b.2.1 ≤ a.2.2)
          let members := g.members.filter fun m => ok.any fun j => j.1 == m
          let all (l : List (Nat × Nat × Nat)) : Prop := ∀ m ∈ g.members, ∃ j ∈ l, j.1 = m
          (edition.val = g.edition → ¬ all joined → Completes (.groupJoin h num gen edition lo hi) s fun e =>
              groupOf e num = some { g with joined })
          ∧ (edition.val = g.edition → all joined → Completes (.groupJoin h num gen edition lo hi) s fun e =>
              groupOf e num = some { g with joined, members, committed := true, version := ok.foldl (fun v j => min v j.2.2) 3 }
                ∧ (∀ m, (members.filter fun m => m != own) = [m] → Sent d e m 7
                    { kind := .groupCommit, bytes := [],
                      nums := leaveBy d m :: m :: num.val :: g.gen :: ok.foldl (fun v j => min v j.2.2) 3 :: members }))
          ∧ (edition.val ≠ g.edition → (∃ m ∈ g.members, m ≠ h.src.val ∧ ∀ j ∈ g.joined, j.1 ≠ m) →
              Completes (.groupJoin h num gen edition lo hi) s fun e =>
                groupOf e num = some { g with members := g.members.filter fun m => m != h.src.val }))
      ∧ (∀ (h : FrameHdr) (num gen : Fin 65536) (version : Fin 256) (ms : List (Fin 65536)) (g : Group), h.dst.val = own →
          received d h.arrival = true → headReachable d h.head = true →
          groupOf d num = some g → g.gen = gen.val →
          (own ∈ ms.map Fin.val → Completes (.groupCommit h num gen version ms) s fun e =>
              groupOf e num = some { g with members := ms.map Fin.val, version, committed := true } ∧ e.regs = d.regs)
          ∧ (own ∉ ms.map Fin.val → Completes (.groupCommit h num gen version ms) s fun e =>
              groupOf e num = none ∧ e.regs = d.regs))

/-- R259 (engine), R260 (flits), R261 (payloads), R262 (new generation), R266 (drain). Model's choices: log entries
20, 38, 40, 57 and 61. -/
def Obligations.BarriersComplete : Prop :=
  ∀ (s : State) (x : ExpressHdr) (h : HeadId) (slot : Fin 64), powered s.dev = true → s.dev.barEvents = [] →
    x.dst.val = ownFa s.dev → x.die.val = 56 + h.val → received s.dev x.arrival = true → headReachable s.dev x.head = true →
    let d := s.dev
    let fa := x.stamp.toNat % 65536
    let c := barReg R.GAT_BAR_CTRL h slot
    let a := barReg R.GAT_BAR_ARRIVED h slot
    let st := barReg R.GAT_BAR_STATE h slot
    let par := barReg R.GAT_BAR_PARENT h slot
    let seqOf (e : Dev) := fget e st F.GAT_BAR_STATE_SEQ
    let b := barSlot d h slot
    let gate := fget d c F.GAT_BAR_CTRL_ARRIVE_GATE
    let waits : Prop := (rd d (gateReg R.GAT_COUNT (56 + h) gate)).toNat < (rd d (gateReg R.GAT_THRESH (56 + h) gate)).toNat
    let released (e : Dev) (pay : Nat) : Prop := seqOf e = (seqOf d + 1) % 65536
      ∧ (rd e (barReg R.GAT_BAR_RESULT h slot)).toNat = pay
      ∧ barSlot e h slot = { cur := b.next, next := [], curPay := b.nextPay, nextPay := 0 }
      ∧ (∀ die, die < 48 → let g := gateReg R.GAT_COUNT die (fget d c F.GAT_BAR_CTRL_RELEASE_GATE)
          bit ((rd d (barReg R.GAT_BAR_DIES_LO h slot)).toNat
              + fget d (barReg R.GAT_BAR_DIES_HI h slot) F.GAT_BAR_DIES_HI_DIES * 4294967296) die = true →
          (rd d g).toNat + 1 < 4294967296 → (rd e g).toNat = (rd d g).toNat + 1)
      ∧ (bit pay 0 = true → Counted d e (ctl R.GAT_BAR_STATUS (56 + h) 0) F.GAT_BAR_STATUS_FAILED)
    (∀ (group ggen seq : Fin 65536) (pay : Word),
        let mine : Prop := flag d c F.GAT_BAR_CTRL_VALID = true ∧ fget d par F.GAT_BAR_PARENT_GROUP = group.val
          ∧ fget d st F.GAT_BAR_STATE_GGEN = ggen.val
        let dropped (i : Instr) : Prop := Completes i s fun e =>
          Counted d e (ctl R.GAT_BAR_STATUS (56 + h) 0) F.GAT_BAR_STATUS_DROPPED ∧ OnlyRegs d { e with aqds := d.aqds } [ctl R.GAT_BAR_STATUS (56 + h) 0]
        (¬ mine → dropped (.arrive x slot group ggen seq pay) ∧ dropped (.release x slot group ggen seq pay))
        ∧ (mine → (seq.val ≠ seqOf d → dropped (.release x slot group ggen seq pay))
          ∧ (seq.val ≠ seqOf d → seq.val ≠ (seqOf d + 1) % 65536 → dropped (.arrive x slot group ggen seq pay))
          ∧ (seq.val = seqOf d → fa ∈ b.cur → dropped (.arrive x slot group ggen seq pay))
          ∧ (seq.val = (seqOf d + 1) % 65536 → fa ∈ b.next → dropped (.arrive x slot group ggen seq pay))
          ∧ (seq.val = (seqOf d + 1) % 65536 → fa ∉ b.next → Completes (.arrive x slot group ggen seq pay) s fun e =>
              barSlot e h slot = { b with next := b.next ++ [fa], nextPay := b.nextPay ||| pay.toNat } ∧ RegsBut d e [a])
          ∧ (waits → seq.val = seqOf d → fa ∉ b.cur →
              let own := (rd d (barReg R.GAT_BAR_PAYLOAD h slot)).toNat
              let all := own ||| (b.curPay ||| pay.toNat)
              let last : Prop := flag d a F.GAT_BAR_ARRIVED_LOCAL = true
                ∧ min 141 (fget d c F.GAT_BAR_CTRL_CHILDREN) ≤ b.cur.length + 1
              (¬ last → Completes (.arrive x slot group ggen seq pay) s fun e =>
                barSlot e h slot = { b with cur := b.cur ++ [fa], curPay := b.curPay ||| pay.toNat } ∧ RegsBut d e [a])
              ∧ (last → flag d c F.GAT_BAR_CTRL_ROOT = false → flag d a F.GAT_BAR_ARRIVED_SENT = false →
                Completes (.arrive x slot group ggen seq pay) s fun e =>
                  barSlot e h slot = { b with cur := b.cur ++ [fa], curPay := b.curPay ||| pay.toNat }
                    ∧ flag e a F.GAT_BAR_ARRIVED_SENT = true ∧ RegsBut d e [a]
                    ∧ Sent d e (fget d par F.GAT_BAR_PARENT_FA) 0 { kind := .barrierArrive, bytes := [], nums :=
                        [h, fget d par F.GAT_BAR_PARENT_FA, slot, group, ggen, seqOf d, all] })
              ∧ (last → flag d c F.GAT_BAR_CTRL_ROOT = true → d.snaps = [] → bit all 1 = false → b.curPay < 4294967296 →
                Completes (.arrive x slot group ggen seq pay) s fun e => released e all))
          ∧ (waits → seq.val = seqOf d → d.snaps = [] → bit pay.toNat 1 = false →
              Completes (.release x slot group ggen seq pay) s fun e => released e pay.toNat)))
      ∧ (∀ (p : Path) (ggen : Fin 65536), MayWrite d p st → flag d c F.GAT_BAR_CTRL_VALID = true → d.snaps = [] → waits →
          Completes (.barrierGenerationWrite p h slot ggen) s fun e =>
            fget e st F.GAT_BAR_STATE_GGEN = ggen.val ∧ seqOf e = 0 ∧ barSlot e h slot = {}
              ∧ flag e a F.GAT_BAR_ARRIVED_LOCAL = false ∧ flag e a F.GAT_BAR_ARRIVED_SENT = false
              ∧ (rd e (barReg R.GAT_BAR_RESULT h slot)).toNat = 1
              ∧ Counted d e (ctl R.GAT_BAR_STATUS (56 + h) 0) F.GAT_BAR_STATUS_FAILED)
      ∧ ((∀ y ∈ d.snaps, ∀ t, y.phase = .draining t → drained d y.group = false) → exec .snapshotDrainDone s = .next s)
      ∧ (∀ y t, d.snaps = [y] → y.slot = h * 64 + slot → y.phase = .draining t →
          let cnt := gateReg R.GAT_COUNT (56 + h) gate
          let arrives (e : Dev) : Prop := e.snaps = [{ y with phase := .arrived }] ∧ (rd e cnt).toNat = (rd d cnt).toNat + 1
          let early : Prop := (rd d cnt).toNat + 1 < (rd d (gateReg R.GAT_THRESH (56 + h) gate)).toNat
            ∧ ∀ i, i < 64 → flag d (barReg R.GAT_BAR_ARRIVED h i) F.GAT_BAR_ARRIVED_LOCAL = false
          let bound := t + 625 * max 1 (fget d (ctl R.AQD_TXN_TIMEOUT (56 + h) 9) F.AQD_TXN_TIMEOUT_US)
          let done : Prop := drained d y.group = true
          (early → done → Completes .snapshotDrainDone s arrives ∧ Completes .snapshotDrainTimeout s arrives)
          ∧ (¬ done → d.tally < bound → exec .snapshotDrainTimeout s = .next s)
          ∧ (early → ¬ done → bound ≤ d.tally → Completes .snapshotDrainTimeout s fun e => arrives e
              ∧ rd e (barReg R.GAT_BAR_PAYLOAD h slot) = rd d (barReg R.GAT_BAR_PAYLOAD h slot) ||| 1))

/-! ## Requests, conversations, moves and peers (R209 to R212, R293 to R309, R333) -/

/-- R294 (layout), R298 (tenant), R300 (slots), R301 (admission), R308 (resumption), R309 (reasons), R314 (count
lists), R234 (streams). Model's choices: log entries 7, 62 and 63. -/
def Obligations.RequestComplete : Prop :=
  ∀ (s : State) (conn : ClientConn) (kv : KvShape) (bytes : List Byte), powered s.dev = true → ModelsSettled s.dev →
    let d := s.dev
    let record : List Byte := match conn with
      | .http .. => bytes
      | .fabric h _ => mgetD d.srv.intake h.src [] ++ bytes
    let whole : Bool := match conn with
      | .http .. => true
      | .fabric .. => recordWhole record
    let here : Prop := match conn with
      | .http a n _ _ => aqdEthernetUp d a = true ∧ openStreams d a n < 1024
      | .fabric h _ => h.dst.val = ownFa d ∧ received d h.arrival = true ∧ headReachable d h.head = true
    let c : Conn := match conn with
      | .http a n k _ => .http a n k
      | .fabric h _ => .fabric h.src
    let tenant : Nat := match conn with
      | .http _ _ _ id => tenantTag d id
      | .fabric _ tag => tag
    let refused (code reason id conv : Nat) : Prop := Completes (.request conn ⟨bytes, kv⟩) s fun e =>
      e.srv.slots = d.srv.slots ∧ e.srv.convs = d.srv.convs
        ∧ Counted d e (srvReg R.SRV_END_CNT_D) (if code = 7 then F.SRV_END_CNT_D_NOT_FOUND else F.SRV_END_CNT_D_REFUSED)
        ∧ Responded d e c .endRecord (leBytes 2 2 ++ leBytes 1 code ++ leBytes 1 reason ++ leBytes 4 0 ++ leBytes 8 id
          ++ leBytes 16 conv ++ leBytes 4 0 ++ leBytes 4 0
          ++ leBytes 2 (fget d (ctl R.DIE_EDITION 0 0) F.DIE_EDITION_EDITION) ++ leBytes 2 (ownFa d) ++ leBytes 8 0 ++ leBytes 12 0)
    (∀ (a : AqdId) n k ident, conn = .http a n k ident →
        (aqdEthernetUp d a = false → Completes (.request conn ⟨bytes, kv⟩) s fun e => e.srv = d.srv ∧ e.out = d.out)
        ∧ (aqdEthernetUp d a = true → 1024 ≤ openStreams d a n → Completes (.request conn ⟨bytes, kv⟩) s fun e =>
            e.srv = d.srv ∧ e.out = d.out ++ [{ kind := .refusal, nums := [a, n, k] }]))
      ∧ (∀ h tag, conn = .fabric h tag → here → whole = false → Completes (.request conn ⟨bytes, kv⟩) s fun e =>
          e.srv = { d.srv with intake := mset d.srv.intake h.src record } ∧ e.out = d.out)
      ∧ (here → whole = true → parseReq record = none → refused 6 5 (numAt record 8 8) (numAt record 16 16))
      ∧ ∀ r, here → whole = true → parseReq record = some r →
        let old := if r.resume then d.srv.convs.find? fun c =>
            c.conv == r.conv && c.tenant == tenant && !c.pinned && c.span.isNone && d.tally < c.expiry
          else none
        let before := (old.map Conv.tokens).getD []
        let no (code reason : Nat) : Prop := refused code reason r.reqId r.conv
        let twice : Prop := ∃ x ∈ d.srv.slots, x.2.tenant = tenant ∧ x.2.reqId = r.reqId
          ∧ (x.2.holderOf = none ∨ x.2.gone = true) ∧ x.2.state ≠ .ending
        (lowestFree d = none → no 6 1)
        ∧ ∀ n, lowestFree d = some n →
          (modelReady d r.model = false → no 6 2)
          ∧ ∀ e0, modelReady d r.model = true → (model d r.model).active = some e0 →
            let admits := flag d (srvReg R.SRV_CTRL) F.SRV_CTRL_ADMIT
            (admits = false → no 6 3)
            ∧ (admits = true → twice → no 6 4)
            ∧ (admits = true → ¬ twice →
              (inputTokens d r e0 = none → no 6 5)
              ∧ ∀ t, inputTokens d r e0 = some t →
                (r.resume = true → old = none → no 7 0)
                ∧ ((r.resume = true → old.isSome = true) →
                  let tokens := before ++ t
                  let prompts := ((old.map Conv.prompts).getD []) ++ [(before.length, t.length)]
                  let fresh : Slot :=
                    { state := .admitted, record, conn := c, tenant, model := r.model, reqId := r.reqId, conv := r.conv,
                      textOut := r.textOut, keep := r.keep, maxTokens := r.maxTokens,
                      deadline := if r.deadlineUs = 0 then none else some (d.tally + 625 * r.deadlineUs),
                      ttl := if r.ttl = 4294967295 then defaultTtl d else min r.ttl 2592000, seed := r.seed,
                      sampling := r.sampling, stops := r.stops, tokens, epoch := e0.epoch, alt := e0.alt, stamp := d.tally,
                      kvShape := kv, prompts }
                  let back := old.filter fun o => o.edition == edition d && o.kvShape == kv && kvReadable d o
                  let holders := (old.map Conv.holders).getD []
                  let pages := (tokens.length * kv.posBytes + 2097151) / 2097152
                  (16777216 < tokens.length → no 6 6)
                  ∧ (tokens.length ≤ 16777216 →
                    (∀ o, old = some o → o.landed = false → Completes (.request conn ⟨bytes, kv⟩) s fun e =>
                        slot e n = some fresh ∧ e.out = d.out
                          ∧ e.srv.convs = d.srv.convs.map fun x => if x = o then { o with pinned := true } else x)
                    ∧ ((∀ o, old = some o → o.landed = true) → (holders ≠ [] → r.conv ≠ 0) →
                      Completes (.request conn ⟨bytes, kv⟩) s fun e =>
                        (slot e n).map (fun x => { x with kv := [], spill := [], stored := 0, gaps := [] }) = some
                            { fresh with state := .running, counts := countList (bit (numAt r.sampling 28 1) 0) prompts tokens,
                                         condensed := (old.any fun o => o.marked) || (back.any fun o => o.condensed),
                                         holders := holders.map fun y => { fa := y.fa, slot := none, first := y.first, count := y.count } }
                        ∧ (holders = [] → e.out = d.out)
                        ∧ (∀ y, holders = [y] → let span : HoldSpan :=
                              { first := y.first, count := y.count, tenant, reqId := r.reqId, model := r.model, epoch := e0.epoch,
                                conv := r.conv, ttl := fresh.ttl, kv }
                            Sent d e y.fa 5 { kind := .hold, nums := [leaveBy d y.fa, y.fa, n], bytes := span.bytes })
                        ∧ (∀ l, kvRun d pages = some l → (slot e n).map Slot.kv = some l
                          ∧ (l ≠ [] ∨ kv.vectors = 0 → (slot e n).map (fun x => (x.stored, x.gaps))
                              = some ((back.map Conv.count).getD 0, (back.map Conv.gaps).getD []))
                          ∧ (d.rsv.wf = true → ∀ o, back = some o → ∀ i v, i < pages * 2097152 → (convKv d o)[i]? = some v →
                              memByte e.epoch unitRsv e.rsv (l.getD (i / 2097152) 0 * 2097152 + i % 2097152) = v))))))

/-- R296 (cancels), R299 (the express CANCEL), R306 (deadlines), R307 (holders), R308 (KV kept). Model's choices: log
entries 62 and 63. -/
def Obligations.CancelsComplete : Prop :=
  ∀ s : State, powered s.dev = true → ModelsSettled s.dev → (s.dev.srv.slots.map Prod.fst).Nodup →
    let d := s.dev
    let cncReg := srvReg R.SRV_END_CNT_A
    let cnc := F.SRV_END_CNT_A_CANCELLED
    let active (p : Slot → Bool) :=
      d.srv.slots.find? fun e => (e.2.holderOf.isNone || e.2.gone) && e.2.state != .ending && p e.2
    let code (id k : Nat) : List Byte := leBytes 2 3 ++ leBytes 1 k ++ leBytes 1 0 ++ leBytes 4 0 ++ leBytes 8 id
    let asks (x : Slot) : Option Conn → Slot
      | none => x
      | some c => if (match x.conn, c with
            | .relay a _, .fabric b => a == b
            | _, _ => false) then x else { x with asked := x.asked ++ [c] }
    let released (e : Dev) (n : Nat) (x : Slot) (reg : Nat) (f : Fld) : Prop :=
      slot e n = none ∧ (x.tenant, x.reqId) ∈ e.srv.ended ∧ Counted d e reg f
        ∧ (∀ o ∈ d.srv.convs, o.conv = x.conv → o.tenant = x.tenant → o.pinned = true → o.span = none → 0 < x.ttl →
            { o with pinned := false, expiry := d.tally + x.ttl * 625000000 } ∈ e.srv.convs)
    let acts (i : Instr) (n : Nat) (x : Slot) (c : Option Conn) : Prop :=
      (x.holderOf = none → x.holders = [] → inFlight d n = false →
        (x.state = .running → Completes i s fun e => RequestEnded d e n x cncReg cnc True
          ∧ (∀ a b k, c = some (.http a b k) → x.asked = [] → (∀ y ∈ d.srv.slots, y.2.state ≠ .ending) →
              e.out.getLast? = some { kind := .cancelResult, nums := [0, a, b, k], bytes := code x.reqId 1 }))
        ∧ (x.state = .admitted → Completes i s fun e => released e n x cncReg cnc))
      ∧ (x.holderOf = none → x.holders = [] → inFlight d n = true → Completes i s fun e =>
          slot e n = some { asks x c with cancel := some (x.cancel.getD d.tally) } ∧ e.srv.ended = d.srv.ended)
      ∧ (∀ fa k, x.holderOf = some (fa, k) → Completes i s fun e => slot e n = some (asks x c)
          ∧ Sent d e fa 0 { kind := .cancelFrame, nums := [leaveBy d fa, fa, x.reqId, x.tenant, 65535, 0], bytes := [] })
    let byId (i : Instr) (c : Conn) (tenant id : Nat) : Prop :=
      let a := active fun x => x.tenant == tenant && x.reqId == id
      (∀ n x, a = some (n, x) → acts i n x (some c))
        ∧ (a = none → (tenant, id) ∈ d.srv.ended → Completes i s fun e => Responded d e c .cancelResult (code id 8) ∧ e.srv = d.srv
            ∧ Counted d e (srvReg R.SRV_CANCEL_CNT) F.SRV_CANCEL_CNT_ALREADY_COMPLETE)
        ∧ (a = none → (tenant, id) ∉ d.srv.ended → Completes i s fun e => Responded d e c .cancelResult (code id 9) ∧ e.srv = d.srv)
    let nothing (i : Instr) : Prop := Completes i s fun e => e.srv = d.srv ∧ e.out = d.out
    (∀ bytes : List Byte, let laidOut : Prop := bytes.length = 16 ∧ numAt bytes 0 4 = 0x4E43545A ∧ numAt bytes 4 4 = 0
        (∀ (a : AqdId) (n k : Nat) (ident : List Byte),
          (aqdEthernetUp d a = true → laidOut →
            byId (.cancelRecord (.http a n k ident) bytes) (.http a n k) (tenantTag d ident) (numAt bytes 8 8))
          ∧ (aqdEthernetUp d a = false ∨ ¬ laidOut → nothing (.cancelRecord (.http a n k ident) bytes)))
        ∧ (∀ (h : FrameHdr) (tag : Fin 65536), nothing (.cancelRecord (.fabric h tag) bytes)))
      ∧ (∀ (a : AqdId) (c k : Nat),
          let r := active fun x => x.conn == .http a c k
          (aqdEthernetUp d a = false ∨ r = none → nothing (.rstStream a c k))
          ∧ (aqdEthernetUp d a = true → ∀ n x, r = some (n, x) → acts (.rstStream a c k) n x none))
      ∧ (∀ (h : ExpressHdr) (id : BitVec 64) (tenant n : Fin 65536) (kind : Byte), h.dst.val = ownFa d →
          received d h.arrival = true → headReachable d h.head = true →
          let i : Instr := .cancel h id tenant n kind
          let fa := h.stamp.toNat % 65536
          let mine (x : Slot) : Prop := x.tenant = tenant.val ∧ x.reqId = id.toNat ∧ (x.holderOf = none ∨ x.gone = true) ∧ x.state ≠ .ending
          (2 ≤ kind.toNat → Completes i s fun e => e.srv = d.srv ∧ e.out = d.out
              ∧ Counted d e (txnReg R.AQD_TXN_CNT_B h.head) F.AQD_TXN_CNT_B_DROPPED)
          ∧ (∀ x, kind = 0 → n.val ≠ 65535 → slot d n = some x → mine x → acts i n x (some (.fabric fa)))
          ∧ (kind = 0 → n.val = 65535 ∨ (∀ x, slot d n = some x → ¬ mine x) → byId i (.fabric fa) tenant id.toNat)
          ∧ (∀ k x to_ j, kind = 1 → (if n.val = 65535 then findHeld d fa tenant id.toNat else some n.val) = some k → slot d k = some x →
              x.holderOf = some (to_, j) → x.gone = false → x.holders = [] → inStep d k = false →
              (∀ y ∈ d.srv.slots, y.2.state ≠ .ending) → Completes i s fun e => slot e k = none
                ∧ Sent d e to_ 5 { kind := .released, nums := [leaveBy d to_, to_, k], bytes := [] }
                ∧ (x.conv ≠ 0 → 0 < x.ttl → HasRoom d x → ∃ c ∈ e.srv.convs, c.conv = x.conv ∧ c.tenant = x.tenant ∧ c.span = x.span
                    ∧ c.expiry = d.tally + x.ttl * 625000000)))
      ∧ (∀ (n : Fin 65536) (x : Slot) (t : Nat), slot d n = some x → x.deadline = some t →
          (d.tally ≤ t ∨ inFlight d n = true → nothing (.deadlineExpiry n))
          ∧ (t < d.tally → inFlight d n = false → x.holderOf = none → x.holders = [] →
            (x.state = .running → Completes (.deadlineExpiry n) s fun e =>
                RequestEnded d e n x (srvReg R.SRV_END_CNT_B) F.SRV_END_CNT_B_DEADLINE True)
            ∧ (x.state = .admitted → Completes (.deadlineExpiry n) s fun e =>
                released e n x (srvReg R.SRV_END_CNT_B) F.SRV_END_CNT_B_DEADLINE)))

/-- R306 (the commit decision), R319 (results), R303 (layer marks), R209, R210 (conversations), R212, R213
(condensing). Model's choices: log entries 20, 63, 64, 65 and 66. -/
def Obligations.CommitComplete : Prop :=
  ∀ s : State, powered s.dev = true →
    let d := s.dev
    (∀ (die : DieId) (b : BlockId),
        let x := blk d die b
        (x.maskLoads = [] → exec (.activeMaskLoad die b) s = .next s)
        ∧ (∀ m c rest, x.maskLoads = (m, c) :: rest →
          (x.seq.cycle < c → exec (.activeMaskLoad die b) s = .next s)
          ∧ (c ≤ x.seq.cycle → Completes (.activeMaskLoad die b) s fun e =>
              blk e die b = { x with mask := m, maskLoads := rest } ∧ OnlyBlock d e die b [])))
      ∧ (ModelsSettled d → (d.srv.slots.map Prod.fst).Nodup →
        (d.step.commits = [] → Completes (.commitPoint) s fun e => e.srv = d.srv ∧ e.out = d.out)
        ∧ (∀ r rest, d.step.commits = r :: rest →
          Completes (.commitPoint) s (fun e => e.step.commits = rest
            ∧ (rd e (srvReg R.SRV_COMMIT_LO)).toNat = d.tally % 4294967296
            ∧ (rd e (srvReg R.SRV_COMMIT_HI)).toNat = d.tally / 4294967296 % 4294967296
            ∧ (rd e (srvReg R.SRV_COMMIT_STEP_LO)).toNat = r.number % 4294967296
            ∧ (rd e (srvReg R.SRV_COMMIT_STEP_HI)).toNat = r.number / 4294967296 % 4294967296)
          ∧ (∀ q x, d.step.badWells = [] → r.rows = [q] → q.sample = true → q.proposal = false → q.vidx = 0 → slot d q.slot = some x →
              x.holderOf = none → x.state = .running → x.holders = [] → inStep d q.slot = false →
              (∀ y ∈ d.srv.slots, y.2.state ≠ .ending) →
              let n := q.slot
              let t := resultWord d r.number q.row 0
              let cancelled : Prop := ∃ a, x.cancel = some a ∧ a < d.tally
              let late : Prop := ∃ a, x.deadline = some a ∧ a < d.tally
              let before : Prop := ∀ a b, x.cancel = some a → x.deadline = some b → a ≤ b
              let nan := r.nanRows.contains q.row || (decide (q.pos < 16777215) && t == 4294967295)
              let bad := r.badAll || r.badRows.contains q.row
              let stops := x.stops ++ endTokens d (((epochOf d x.model x.epoch).map tokRuns).getD [])
              (cancelled → ¬ late ∨ before → Completes (.commitPoint) s fun e =>
                  RequestEnded d e n x (srvReg R.SRV_END_CNT_A) F.SRV_END_CNT_A_CANCELLED True)
              ∧ (late → ¬ cancelled ∨ ¬ before → Completes (.commitPoint) s fun e =>
                  RequestEnded d e n x (srvReg R.SRV_END_CNT_B) F.SRV_END_CNT_B_DEADLINE True)
              ∧ (¬ cancelled → ¬ late → nan = true → Completes (.commitPoint) s fun e =>
                  RequestEnded d e n x (srvReg R.SRV_END_CNT_B) F.SRV_END_CNT_B_NUMERIC False)
              ∧ (¬ cancelled → ¬ late → nan = false → bad = true → Completes (.commitPoint) s fun e =>
                  slot e n = some x ∧ e.out = d.out)
              ∧ (¬ cancelled → ¬ late → nan = false → bad = false → t ≠ 4294967295 → q.pos + 1 < 16777215 →
                  x.textOut = false → x.pendingText = [] →
                  (t ∉ stops → x.emitted + 1 < x.maxTokens → Completes (.commitPoint) s fun e =>
                    (slot e n).map (fun y => { y with proposals := x.proposals, kv := x.kv, spill := x.spill }) = some
                        { x with tokens := x.tokens ++ [t], emitted := x.emitted + 1, commit := d.tally, noSpec := false,
                                 counts := mset x.counts t (mgetD x.counts t 0 + 1) }
                      ∧ Responded d e x.conn .tokenRecord (leBytes 2 1 ++ leBytes 2 0 ++ leBytes 4 t ++ leBytes 4 (q.pos + 1)
                          ++ leBytes 4 (if x.condensed then 1 else 0)))
                  ∧ (t ∈ stops ∨ x.maxTokens ≤ x.emitted + 1 → Completes (.commitPoint) s fun e =>
                    RequestEnded d e n { x with tokens := x.tokens ++ [t] } (srvReg R.SRV_END_CNT_A) F.SRV_END_CNT_A_COMPLETE
                      (x.conv ≠ 0 ∨ x.keep = true))))))
      ∧ (∀ conv : Nat,
          let due (c : Conv) : Bool := c.conv == conv && !c.pinned && decide (c.expiry ≤ d.tally)
          reviewConvs d = d →
          Completes (.conversationExpiry conv) s fun e => e.srv.convs = (d.srv.convs.filter fun c => !due c)
            ∧ e.srv.slots = d.srv.slots
            ∧ (∀ c, d.srv.convs = [c] → due c = true → d.stackTab = [] → ∀ p ∈ c.pages, p < 393216 →
                entryKind (rd d (pageReg (p % 8) (p / 8))) ≠ 7 → entryKind (rd e (pageReg (p % 8) (p / 8))) = 0)
            ∧ fget e (srvReg R.SRV_CONV_CNT) F.SRV_CONV_CNT_EXPIRED
              = min (fget d (srvReg R.SRV_CONV_CNT) F.SRV_CONV_CNT_EXPIRED + (d.srv.convs.filter due).length)
                  (pow2 F.SRV_CONV_CNT_EXPIRED.width - 1))
      ∧ (let st := srvReg R.SRV_STATUS
          let due := condensingDue (reviewConvs d)
          Completes .condensingChange s (fun e => flag e st F.SRV_STATUS_CONDENSING = due)
          ∧ (reviewConvs d = d →
            (due = false ∨ 4096 ≤ freePages d → Completes .condensingChange s fun e => OnlyRegs d e [st])
            ∧ (∀ x, due = true → freePages d < 4096 →
              earliest (d.srv.convs.filter (mayCondense d)) = some x → Completes .condensingChange s fun e =>
                { x with condensed := true, gaps := x.gaps ++ [x.count],
                         pages := x.pages.take ((recordBytes x.kvShape x.count true + 2097151) / 2097152) } ∈ e.srv.convs
                  ∧ e.srv.slots = d.srv.slots)))
      ∧ (∀ (k : KvShape) (n p : Nat) (full : List Byte), full.length = n * k.posBytes → p < n → p < 64 ∨ n ≤ p + 256 →
          let at_ (l : List Byte) := (l.drop (p * k.posBytes)).take k.posBytes
          at_ (restore k n (condense k n full)) = at_ full)

/-- R305 (HOLD, HOLD_ACK), R307 (RELEASED), R304 (MIGRATE, RELAY), R333 (peers). Model's choices: log entries 14, 16
and 65. -/
def Obligations.MovesAndPeersComplete : Prop :=
  ∀ s : State, powered s.dev = true →
    let d := s.dev
    let here (h : FrameHdr) : Prop := h.dst.val = ownFa d ∧ received d h.arrival = true ∧ headReachable d h.head = true
    let holdSent (e : Dev) (fa n first count : Nat) (x : Slot) : Prop :=
      let span : HoldSpan :=
        { first, count, tenant := x.tenant, reqId := x.reqId, model := x.model, epoch := x.epoch,
          conv := if x.conv ≠ 0 then x.conv else x.assigned, ttl := x.ttl, kv := x.kvShape }
      Sent d e fa 5 { kind := .hold, nums := [leaveBy d fa, fa, n], bytes := span.bytes }
    let asked (e : Dev) (fa n first count : Nat) (x : Slot) (old : List Holder) : Prop :=
      ∃ y, slot e n = some y ∧ { y with assigned := x.assigned } = { x with holders := old ++ [{ fa, slot := none, first, count }] }
        ∧ (x.conv ≠ 0 ∨ x.assigned ≠ 0 ∨ x.ttl = 0 → y.assigned = x.assigned) ∧ holdSent e fa n first count y
    (∀ (n fa : Fin 65536) (first count : Nat) (x : Slot), slot d n = some x →
        let may : Prop := x.holderOf = none ∧ x.holders.length < 1024 ∧ x.state = .running ∧ first % 4096 = 0 ∧ count % 4096 = 0 ∧ 0 < count
        (may → Completes (.hold (.send n fa first count)) s fun e => asked e fa n first count x x.holders ∧ e.regs = d.regs)
        ∧ (¬ may → exec (.hold (.send n fa first count)) s = .next s))
      ∧ (∀ (h : FrameHdr) (n : Fin 65536) (x : HoldSpan), here h →
          let ok : Prop := x.first % 4096 = 0 ∧ x.count % 4096 = 0 ∧ 0 < x.count
          let answer (e : Dev) (k c : Nat) : Prop := Sent d e h.src 5 { kind := .holdAck, nums := [leaveBy d h.src, h.src, k, c], bytes := [] }
          (∀ k, lowestFree d = some k → ok → Completes (.hold (.arrive h n x)) s fun e => answer e k 0
              ∧ (slot e k).map (fun y => { y with kv := [], stored := 0 }) = some
                { holderOf := some (h.src.val, n.val), span := some (x.first, x.count), tenant := x.tenant, reqId := x.reqId,
                  model := x.model, epoch := x.epoch, conv := x.conv, ttl := x.ttl, kvShape := x.kv }
              ∧ ∀ l, kvRun d ((x.count * x.kv.posBytes + 2097151) / 2097152) = some l → (slot e k).map Slot.kv = some l)
          ∧ (lowestFree d = none ∨ ¬ ok → Completes (.hold (.arrive h n x)) s fun e => e.srv = d.srv ∧ e.regs = d.regs ∧ answer e 0 1))
      ∧ (∀ (h : FrameHdr) (k : Fin 65536) (n : Nat) (x : Slot) (y : Holder), here h → ModelsSettled d →
          d.srv.slots = [(n, x)] → x.holders = [y] → y.fa = h.src.val → y.refused = false →
          let left : Slot := { x with passed := x.passed ++ [h.src.val] }
          let other := (twins d).find? fun fa => !left.passed.contains fa
          (y.slot = none → Completes (.holdAck h k false) s fun e => slot e n = some { x with holders := [{ y with slot := some k.val }] }
            ∧ (x.state = .ending → Sent d e h.src 0 { kind := .cancelFrame, bytes := [],
                                                      nums := [leaveBy d h.src, h.src, x.reqId, x.tenant, k.val, 1] }))
          ∧ (y.slot = none → x.state ≠ .ending →
            (inFlight d n = true → Completes (.holdAck h k true) s fun e => slot e n = some { left with holders := [{ y with refused := true }] })
            ∧ (inFlight d n = false →
              (∀ fa, other = some fa → Completes (.holdAck h k true) s fun e => asked e fa n y.first y.count left [])
              ∧ (other = none → x.state = .running → Completes (.holdAck h k true) s fun e =>
                  RequestEnded d e n x (srvReg R.SRV_END_CNT_D) F.SRV_END_CNT_D_REFUSED False)))
          ∧ (y.slot = some k.val → x.state ≠ .ending → Completes (.released h k) s fun e =>
              slot e n = some { x with holders := [] })
          ∧ (y.slot = some k.val → x.state = .ending → inStep d n = false → Completes (.released h k) s fun e => slot e n = none))
      ∧ (∀ (h : FrameHdr) (m : MigrateMsg) r n, here h → parseReq m.record = some r → lowestFree d = some n →
          let pages := (m.tokens.length * m.kv.posBytes + 2097151) / 2097152
          Completes (.migrate h m) s fun e => e.out = d.out
            ∧ (slot e n).map (fun x => { x with kv := [], spill := [], stored := 0 }) = some
              { conn := .relay h.src m.slot, record := m.record, tenant := m.tenant, model := r.model, reqId := r.reqId, conv := r.conv,
                textOut := r.textOut, keep := r.keep, maxTokens := r.maxTokens, deadline := m.deadline,
                ttl := if r.ttl = 4294967295 then defaultTtl d else min r.ttl 2592000, seed := r.seed,
                sampling := r.sampling, stops := r.stops, tokens := m.tokens, emitted := m.emitted, epoch := m.epoch,
                alt := m.alt, stamp := d.tally, kvShape := m.kv, prompts := m.prompts, counts := m.counts }
            ∧ (∀ l, kvRun d pages = some l → (slot e n).map Slot.kv = some l
              ∧ (l ≠ [] → m.data.length = m.tokens.length * m.kv.posBytes → (slot e n).map Slot.stored = some m.tokens.length
                ∧ (d.rsv.wf = true → ∀ i v, i < pages * 2097152 → m.data[i]? = some v →
                    memByte e.epoch unitRsv e.rsv (l.getD (i / 2097152) 0 * 2097152 + i % 2097152) = v))))
      ∧ (∀ (h : FrameHdr) (n : Fin 65536) (bytes : List Byte), here h →
          let mine (x : Slot) : Prop := x.gone = true ∧ ∃ k, x.holderOf = some (h.src.val, k)
          (∀ x k, slot d n = some x → x.gone = true → x.holderOf = some (h.src.val, k) →
            (numAt bytes 0 2 ≠ 2 → Completes (.relay h n bytes) s fun e => Responded d e x.conn .tokenRecord bytes
                ∧ e.srv.slots = d.srv.slots ∧ RegsBut d e ((List.range 64).map (aqdReg R.AQD_ETH_TX)))
            ∧ (numAt bytes 0 2 = 2 → x.asked = [] → (∀ y ∈ d.srv.slots, y.2.state ≠ .ending) → Completes (.relay h n bytes) s fun e =>
                Responded d e x.conn .endRecord bytes ∧ slot e n = none ∧ (x.tenant, x.reqId) ∈ e.srv.ended))
          ∧ ((∀ x, slot d n = some x → ¬ mine x) → Completes (.relay h n bytes) s fun e => e = noteTaken d h.arrival 5))
      ∧ (∀ (h : FrameHdr) (a v : Word) (status : Byte), here h →
          let p : Path := .peer h.src
          let answered (e : Dev) (st : Nat) (v : Word) : Prop :=
            Sent d e h.src 6 { kind := .ctlResp, nums := [h.head, h.src, a.toNat, st], bytes := leBytes 4 v.toNat }
          let turned := if flag d (ctl R.HAL_REMOTE 0 4) F.HAL_REMOTE_CTL_EN then 1 else 2
          let acc := ctl R.HAL_ACC_STATUS p.die 4
          let untouched (e : Dev) : Prop := RegsBut d e [acc, ctl R.HAL_ACC_ADDR p.die 4, ctl R.HAL_IRQ_PEND p.die 0,
            ctl R.HAL_IRQ_PEND p.die 1, ctl R.HAL_IRQ_PEND p.die 2, ctl R.HAL_IRQ_PEND p.die 3]
          (MayRead d p a.toNat → Completes (.ctlRead h a) s fun e =>
              answered e 0 (view d p a.toNat))
          ∧ (¬ MayRead d p a.toNat → Completes (.ctlRead h a) s fun e =>
              answered e turned 0 ∧ Counted d e acc F.HAL_ACC_STATUS_COUNT ∧ untouched e)
          ∧ (∀ r, MayWrite d p a.toNat → regAt a.toNat = some r →
              ctlPlace a.toNat ∈ [R.FNT_TIMEOUT, R.GAT_CTRL] →
              Completes (.ctlWrite h a v) s fun e => answered e 0 0 ∧ RegsBut d e [a.toNat]
                ∧ ∀ f ∈ r.fields, f.acc = .rw → fget e a.toNat f.fld = bits v.toNat f.fld.lo f.fld.width)
          ∧ (¬ MayWrite d p a.toNat → Completes (.ctlWrite h a v) s fun e =>
              answered e turned 0 ∧ Counted d e acc F.HAL_ACC_STATUS_COUNT ∧ untouched e)
          ∧ (Completes (.ctlResp h a status v) s fun e =>
              e = { noteTaken d h.arrival 6 with out := d.out ++ [{ kind := .readData, nums := [h.src, a.toNat, status.toNat, v.toNat], bytes := [] }] }))

/-! ## The weights' way (R270 to R284, R333, R349, R378) -/

/-- R277, R283, R333 (services), R349 (model messages), R378 (RETIRE). Model's choices: log entries 20 and 70. -/
def Obligations.ModelMessagesComplete : Prop :=
  ∀ s : State, powered s.dev = true →
    let d := s.dev
    let here (h : FrameHdr) : Prop := h.dst.val = ownFa d ∧ received d h.arrival = true ∧ headReachable d h.head = true
    -- a sending of frames to a window has begun: as many are out as the credits for it allowed
    let sends (h : FrameHdr) (win gen addr len : Nat) (piece : Option (Nat × Nat × Nat × Nat)) (e : Dev) : Prop :=
      let offs := (List.range ((len + 4095) / 4096)).map (· * 4096)
      let goes (c : Nat) (hd : Nat) : Prop :=
        e.srv.sends = [{ id := d.nextId, fa := h.src, win, gen, addr, len, todo := offs.drop c, piece }]
          ∧ e.txns = d.txns ++ (offs.take c).map fun off =>
              { head := hd, kind := .write h.src win gen off (min 4096 (len - off)), origin := .send d.nextId off, start := d.tally }
      (routeHead d h.src 3 = none → goes 0 0) ∧ (∀ hd, routeHead d h.src 3 = some hd → goes (creditAt d hd h.src win gen).have_ hd)
    (∀ (h : FrameHdr) (w gen : Fin 65536) (piece : Word) (g8 : Vector Byte 8), here h → ShardsSettled d →
        ((∀ x ∈ modelEpochs d, ∀ p ∈ x.2.numbered, p.2.1.digest.take 8 = g8.toList → isLoader d x.2 p.1 = false) →
          Completes (.windowReady h w gen piece g8) s fun e =>
            let r : ReadyMsg := { src := h.src, window := w, gen, piece := piece.toNat, digest8 := g8.toList }
            e = { noteTaken d h.arrival 6 with srv := { d.srv with ready := [r] } })
        ∧ (∀ m x e0 h0 st p, d.srv.models = [(m, x)] → x.staged = some e0 → x.active = none → x.prev = none →
            e0.numbered = [(0, h0, st)] → isLoader d e0 0 = true → e0.loads = [(0, { page := some p })] →
            h0.digest.take 8 = g8.toList → piece.toNat * 1048576 < h0.length → w.val < 4096 →
            Completes (.windowReady h w gen piece g8) s (sends h w gen (p * 2097152 + piece.toNat * 1048576)
              (min 1048576 (h0.length - piece.toNat * 1048576)) (some (m, e0.epoch, 0, piece.toNat)))))
      ∧ (∀ (h : FrameHdr) (m : PageMsg), here h →
          let nums := [m.modelId.toNat, m.epoch.toNat, m.page.toNat, m.window.val, m.gen.val]
          (ShardsSettled d →
            (holdsPage d m = false → Completes (.pageRequest h m) s fun e => e.regs = d.regs ∧ e.srv = d.srv
              ∧ Sent d e h.src 6 { kind := .service, nums := leaveBy d h.src :: h.src.val :: 3 :: nums, bytes := [] })
            ∧ (holdsPage d m = true → 4096 ≤ m.window.val → Completes (.pageRequest h m) s fun e => e = noteTaken d h.arrival 6)
            ∧ (holdsPage d m = true → m.window.val < 4096 → Completes (.pageRequest h m) s
              (sends h m.window m.gen (m.page.toNat * 2097152) 2097152 none)))
          ∧ (Completes (.pageRefused h m) s fun e => e = { noteTaken d h.arrival 6 with
              srv := { d.srv with noPage := (d.srv.noPage ++ [(m.page.toNat, h.src.val)]).eraseDups } }))
      ∧ (∀ (r : TenantRoute) (ident : List Byte) (tag : Fin 65536),
          let allowed : Prop := match r with
            | .frame h => here h ∧ flag d (ctl R.HAL_REMOTE 0 4) F.HAL_REMOTE_TENANT_EN = true ∧ h.src.val ∈ d.roster
            | .mailbox st => st.toNat / 4194304 % 256 = 3
          let goesOn : Prop := match r with
            | .frame h => ¬ here h
            | .mailbox _ => False
          let taken : Dev := match r with
            | .frame h => noteTaken d h.arrival 6
            | .mailbox _ => d
          -- a tag whose private lines still stand goes to its own identity only (R292)
          let barred : Prop := tag.val ≠ 0 ∧ (∃ t ∈ d.srv.tagLines, t.tag = tag.val) ∧ (∃ o ∈ d.srv.tagOwners, o.1 = tag.val)
            ∧ (tag.val, ident.take 32) ∉ d.srv.tagOwners
          (allowed → ¬ barred → Completes (.tenantSet r ident tag) s fun e => tenantTag e ident = tag.val ∧ e.regs = d.regs
              ∧ e.srv = { d.srv with tenants := e.srv.tenants, tagOwners := e.srv.tagOwners }
              ∧ ∀ i : List Byte, i.take 32 ≠ ident.take 32 → tenantTag e i = tenantTag d i)
          ∧ (¬ goesOn → ¬ allowed ∨ barred → Completes (.tenantSet r ident tag) s fun e => e = taken))
      ∧ (∀ (stamp : Word) (msg : Vector Byte 64),
          let b := msg.toList
          let m := numAt b 1 1
          let x := model d m
          let privileged : Prop := 2 ≤ stamp.toNat / 1073741824
          (privileged → numAt b 0 1 = 1 → m < 64 → numAt b 2 1 < 13 → Completes (.modelPart stamp msg) s fun e =>
              model e m = { x with parts := mset x.parts (numAt b 2 1) ((b.drop 8).take 48) } ∧ e.regs = d.regs)
          ∧ (privileged → numAt b 0 1 = 2 → m < 64 → (∀ i, i < 13 → (mget x.parts i).isSome = true) → x.staged = none →
              x.active = none →
              let entry := ((List.range 13).flatMap fun i => (mget x.parts i).getD []).take 592
              256 ≤ numAt entry 4 4 → numAt entry 4 4 ≤ 16777216 → Completes (.modelCommit stamp msg) s fun e =>
                model e m = { x with parts := [], entry, expected := (entry.drop 16).take 64 }
                  ∧ fget e (modelReg R.SRV_MT_LOAD m) F.SRV_MT_LOAD_STATE = 1)
          ∧ ((∃ i, i < 13 ∧ mget x.parts i = none) → exec (.modelCommit stamp msg) s = .next s)
          ∧ (privileged → numAt b 0 1 = 3 → m < 64 → d.srv.models = [(m, x)] → x.prev = none → x.staged = none →
              (∀ e0, x.active = some e0 → pins d m e0.epoch = 0 → Completes (.modelRemove stamp msg) s fun e =>
                model e m = {} ∧ flag e (modelReg R.SRV_MT_CTRL m) F.SRV_MT_CTRL_VALID = false
                  ∧ rd e (modelReg R.SRV_MT_EPOCH m) = 0xFFFFFFFF ∧ rd e (modelReg R.SRV_MT_LOAD m) = 0)
              ∧ (∀ e0, x.active = some e0 → 0 < pins d m e0.epoch → Completes (.modelRemove stamp msg) s fun e =>
                e.srv = { d.srv with models := [(m, { x with removing := true })] }))
          ∧ (privileged → numAt b 0 1 = 4 → locValid (numAt b 4 4) = true →
              let l := numAt b 4 4
              (l ∈ d.cont.retired ∨ l ∈ d.cont.pending ∨ l ∈ d.cont.due → exec (.retire stamp msg) s = .next s)
              ∧ (l ∉ d.cont.retired → l ∉ d.cont.pending → l ∉ d.cont.due → Completes (.retire stamp msg) s fun e =>
                e = { d with cont := { d.cont with due := d.cont.due ++ [l] } }))
          ∧ (¬ privileged → exec (.modelPart stamp msg) s = .next s ∧ exec (.modelCommit stamp msg) s = .next s
              ∧ exec (.modelRemove stamp msg) s = .next s ∧ exec (.retire stamp msg) s = .next s))

/-- R270, R274 (manifests), R275, R277 (loaders), R276 (staging), R278 (digests), R279, R280 (placement), R281 (load
state). Model's choices: log entries 8, 20, 41, 67 and 68. -/
def Obligations.LoadComplete : Prop :=
  ∀ (s : State) (m : Fin 64), powered s.dev = true → ShardsSettled s.dev →
    let d := s.dev
    let x := model d m
    let load (e : Dev) := fget e (modelReg R.SRV_MT_LOAD m) F.SRV_MT_LOAD_STATE
    (∀ (slice : Fin 65536) (bytes : List Byte),
        let c : Instr := .manifestCheck m slice bytes
        (x.expected = [] → x.staged = none → exec c s = .next s)
        ∧ (∀ e, x.staged = some e → e.members ≠ [] → exec c s = .next s)
        ∧ (kvRun d ((bytes.length + 2097151) / 2097152) = none → x.staged = none → exec c s = .next s)
        ∧ (∀ hall, x.expected ≠ [] → x.staged = none → kvRun d ((bytes.length + 2097151) / 2097152) = some hall →
          let fails : Prop := Completes c s fun e =>
            load e = 4 ∧ model e m = { x with expected := [] }
              ∧ RegsBut d e (modelReg R.SRV_MT_LOAD m :: hall.map fun q => pageReg (q % 8) (q / 8))
          (sha512 bytes ≠ x.expected ∨ parseManifest bytes = none → fails)
          ∧ (∀ mf, sha512 bytes = x.expected → parseManifest bytes = some mf →
            let prev := if mf.prevEpoch = 4294967295 then none else x.epochs.find? fun e => e.epoch = mf.prevEpoch
            let kept (h : Shard) : Bool := match prev with
              | some e => reusable mf e h
              | none => false
            (mf.edition ≠ fget d (ctl R.DIE_EDITION 0 0) F.DIE_EDITION_EDITION ∨ placesOk d mf prev = false → fails)
            ∧ (mf.edition = fget d (ctl R.DIE_EDITION 0 0) F.DIE_EDITION_EDITION → placesOk d mf prev = true →
              (servingMembers d = [ownFa d] → Completes c s (fun e =>
                (model e m).staged.map (fun r => { r with scrub := [], lastScrub := [], digests := [], live := false }) = some
                    { epoch := mf.epoch, modelId := mf.modelId, digest := sha512 bytes, manifest := mf, slice, hall,
                      stages := mf.shards.map fun h => if kept h then .placed else .waiting, members := [ownFa d],
                      asked := (List.range mf.shards.length).filter fun i => (mf.shards[i]?.map kept) = some false }
                  ∧ (model e m).expected = [] ∧ (model e m).active = x.active
                  ∧ (d.rsv.wf = true → ∀ i v, bytes[i]? = some v →
                      memByte e.epoch unitRsv e.rsv (hall.getD (i / 2097152) 0 * 2097152 + i % 2097152) = v))
                ∧ (∀ h o, mf.shards = [h] → kept h = false → 0 < h.length → h.length ≤ 1048576 → mf.sources[h.source]? = some o →
                    d.srv.models = [] ∨ d.srv.models = [(m.val, x)] → Completes c s fun e => ∃ r, e.out = d.out ++ [r]
                      ∧ r.kind = .storageRead ∧ r.nums = [m.val, 0, o.kind, o.port, o.nsid, h.offset, h.length]
                      ∧ r.bytes = o.addr ++ o.name ++ [0] ++ o.path))
              ∧ (∀ h fa l p, mf.shards = [h] → kept h = false → h.kind = 3 ∨ h.slice = slice.val → servingMembers d = fa :: l →
                  fa ≠ ownFa d → 0 < h.length → h.length ≤ 1048576 → freeRun (takePages d hall 6 false false) 1 = some p →
                  (∀ w, w < 4096 → (window d w).state = 0) →
                  d.srv.models = [] ∨ d.srv.models = [(m.val, x)] → x.active = none → x.prev = none →
                  Completes c s fun e =>
                    (model e m).staged.map EpochRec.stages = some [.receiving p []]
                      ∧ (model e m).staged.map EpochRec.members = some (fa :: l)
                      ∧ e.srv.stageWins = [{ window := 0, model := m, epoch := mf.epoch, shard := 0, piece := 0, opened := true }]
                      ∧ (window e 0).state = 1 ∧ (window e 0).size = 1048576 ∧ (window e 0).wr = true ∧ (window e 0).ring = true
                      ∧ (window e 0).target = 3 + p * 2097152 * 16 ∧ entryKind (pageEntry e p) = 6
                      ∧ Sent d e fa 6 { kind := .service, nums := [leaveBy d fa, fa, 1, 0, (window d 0).gen, 0],
                                        bytes := h.digest.take 8 })))))
      ∧ (∀ (i : Nat) (e0 : EpochRec) (h : Shard) (st : ShardStage), stagedShard d m i = some (e0, h, st) →
          let stage (e : Dev) (q : ShardStage) : Prop := (model e m).staged.map EpochRec.stages = some (e0.stages.set i q)
          let loads := isLoader d e0 i
          let tries (c : Instr) := (match c with
            | .shardStaged .. => if loads then mgetD e0.tries i 0 else max 1 (mgetD e0.tries i 0)
            | _ => mgetD e0.tries i 0) + 1
          let failsOnce (c : Instr) : Prop := Completes c s fun e => stage e (if tries c = 3 then .failed else .waiting)
            ∧ (model e m).staged.map (fun r => mgetD r.tries i 0) = some (tries c)
            ∧ (tries c = 3 → load e = 4 ∧ Counted d e (srvReg R.SRV_WT_CNT_B) F.SRV_WT_CNT_B_LOADFAIL)
          let pages := (h.length + 2097151) / 2097152
          (st = .waiting →
            (∀ bytes p, loads = true ∨ 2 ≤ mgetD e0.tries i 0 → freeRun d pages = some p → d.rsv.wf = true →
              Completes (.shardStaged m i (.read bytes)) s fun e => stage e (.staged p)
                ∧ (∀ j, j < pages → entryKind (pageEntry e (p + j)) = 6)
                ∧ (∀ n v, (bytes.take h.length)[n]? = some v → memByte e.epoch unitRsv e.rsv (p * 2097152 + n) = v))
            ∧ (∀ bytes, freeRun d pages = none → exec (.shardStaged m i (.read bytes)) s = .next s)
            ∧ (∀ k, let n := mgetD e0.retries (i * 4096 + k) 0
              let again : Prop := i ∈ e0.asked ∧ (loads = true ∨ 2 ≤ mgetD e0.tries i 0) ∧ n < 3
              (¬ again → failsOnce (.shardStaged m i (.failed k)))
              ∧ (∀ o, again → k * 1048576 < h.length → e0.manifest.sources[h.source]? = some o → Completes (.shardStaged m i (.failed k)) s fun e =>
                stage e st ∧ (model e m).staged.map (fun r => mgetD r.retries (i * 4096 + k) 0) = some (n + 1)
                  ∧ ∃ r, e.out = d.out ++ [r] ∧ r.kind = .storageRead ∧ r.nums = [m.val, i, o.kind, o.port, o.nsid, h.offset + k * 1048576,
                      min 1048576 (h.length - k * 1048576)] ∧ r.bytes = o.addr ++ o.name ++ [0] ++ o.path)))
          ∧ (∀ p, st = .staged p → let bs := rsvRead d (p * 2097152) h.length
            let bad : Prop := h.kind = 3 ∧ tokenizerOk bs = false
            (sha512 bs = h.digest → ¬ bad → Completes (.shardDigestDone m i) s fun e =>
                stage e (.verified p) ∧ (x.active = none → load e = 2) ∧ (x.active ≠ none → load e = load d))
            ∧ (sha512 bs = h.digest → bad → Completes (.shardDigestDone m i) s fun e => (model e m).staged = none ∧ load e = 4)
            ∧ (sha512 bs ≠ h.digest →
                loads = true ∨ 2 ≤ mgetD e0.tries i 0 → failsOnce (.shardDigestDone m i)))
          ∧ (∀ p, st = .verified p → let ps := shardPages d e0.manifest h
            let may : Prop := placeable d ps = true ∧ shardClear d m e0 h ps = true ∧ (h.kind = 3 ∨ h.tenant = 0 ∨ atBoundary d = true)
            (¬ may → exec (.shardPlace m i) s = .next s)
            ∧ (may → Completes (.shardPlace m i) s fun e => stage e .placed
                ∧ (model e m).staged.map (fun r => ps.all fun k => (mget r.scrub k).isSome) = some true)
            ∧ (∀ r g lo die b, may → h.kind = 0 → placementsOf e0.manifest h = [r] →
                hostLine d (lineRun r) 0 = some (g, lo) → g = die * 24 + b → b < 24 → (lineRun r).2.2.2 * 1024 = h.length →
                (blk d die b).cistern.wf = true → Completes (.shardPlace m i) s fun e =>
                  ∀ n v, (rsvRead d (p * 2097152) h.length)[n]? = some v →
                    memByte e.epoch (unitCis g) (blk e die b).cistern (lo * 1024 + n) = v)
            ∧ (∀ r, may → h.kind ≠ 0 → placementsOf e0.manifest h = [r] →
                let q := bits r 0 19
                let n := bits r 19 19 + 1
                h.length ≤ n * 2097152 → d.rsv.wf = true → Completes (.shardPlace m i) s fun e =>
                  (∀ k v, (rsvRead d (p * 2097152) h.length)[k]? = some v → memByte e.epoch unitRsv e.rsv (q * 2097152 + k) = v)
                  ∧ ∀ k, h.length ≤ k → k < n * 2097152 → memByte e.epoch unitRsv e.rsv (q * 2097152 + k) = 0)))

/-- R282 (scrubbing), R283 (repair), R284 (step boundaries). Model's choices: log entries 8, 20, 69 and 70. -/
def Obligations.ScrubComplete : Prop :=
  ∀ s : State, powered s.dev = true →
    let d := s.dev
    (∀ (p : PageRef), let k := p.key
        (epochUsing d k = none → exec (.scrubInterval p) s = .next s ∧ ∀ env, exec (.pageRepair p env) s = .next s)
        ∧ (∀ e0, epochUsing d k = some e0 →
          let due : Prop := mgetD e0.lastScrub k 0 + scrubTicks d ≤ d.tally
          let digest := mgetD e0.scrub k []
          (¬ due → exec (.scrubInterval p) s = .next s)
          ∧ (due → k < 1048576 → Completes (.scrubInterval p) s fun e =>
              e = { d with srv := { d.srv with scrubDue := d.srv.scrubDue.filter (fun x => x != k) ++ [k] } })
          ∧ (∀ q, p = .reservoir q → due →
            (pageReadable d q = false → exec (.scrubInterval p) s = .next s)
            ∧ (pageReadable d q = true → sha512 (pageBytes d k) = digest → Completes (.scrubInterval p) s fun e =>
                e.regs = d.regs ∧ e.errors = d.errors ∧ k ∉ e.srv.scrubDue)
            ∧ (pageReadable d q = true → sha512 (pageBytes d k) ≠ digest → Completes (.scrubInterval p) s fun e =>
                Counted d e (srvReg R.SRV_WT_CNT_A) F.SRV_WT_CNT_A_MISMATCH ∧ e.errors = d.errors ++ [(pageLoc k, d.tally)]))
          ∧ (∀ env : RepairEnv,
            (stepReads d p = true ∨ freeRun d 1 = none → Completes (.pageRepair p env) s fun e =>
              e = { d with srv := { d.srv with repairWait := (d.srv.repairWait.filter fun r => r.1 != p) ++ [(p, env)] } })
            ∧ (∀ q, stepReads d p = false → freeRun d 1 = some q →
              let ground := if env.groundFails then none else groundCopy d k
              let w := (List.range 4096).find? fun w => (window d w).state == 0
              let peer := if w.isSome then (repairPeer d k env).bind fun fa => (env.peer.filter fun x => x.1.val == fa).map Prod.snd else none
              let first := [(0, ground), (1, peer), (2, env.source)].findSome? fun c =>
                c.2.bind fun bs => if sha512 bs = digest then some (c.1, bs) else none
              (first = none → Completes (.pageRepair p env) s fun e => k ∈ e.srv.badPages ∧ e.blocks = d.blocks ∧ e.rsv = d.rsv)
              ∧ (∀ bs fa w0, first = some (1, bs) → repairPeer d k env = some fa → w = some w0 → Completes (.pageRepair p env) s fun e =>
                Sent d e fa 6 { kind := .service, bytes := [], nums := [leaveBy d fa, fa, 2, e0.modelId % 18446744073709551616,
                  e0.epoch % 4294967296, (countedPage d k).getD pageCount, w0, (window d w0).gen % 65536] })
              ∧ (∀ i bs, first = some (i, bs) →
                let counted (e : Dev) : Prop :=
                  (i = 0 → Counted d e (srvReg R.SRV_WT_CNT_A) F.SRV_WT_CNT_A_GROUND)
                    ∧ (i = 1 → Counted d e (srvReg R.SRV_WT_CNT_B) F.SRV_WT_CNT_B_PEER)
                    ∧ (i = 2 → Counted d e (srvReg R.SRV_WT_CNT_B) F.SRV_WT_CNT_B_STORAGE) ∧ k ∉ e.srv.badPages
                (∀ die b half, p = .cistern die b half → (blk d die b).cistern.wf = true → Completes (.pageRepair p env) s fun e =>
                  counted e ∧ ∀ n v, bs[n]? = some v →
                    memByte e.epoch (unitCis (gblock die b)) (blk e die b).cistern (half * 2097152 + n) = v)
                ∧ (∀ z, p = .reservoir z → d.rsv.wf = true →
                  (entryKind (pageEntry d z) ≠ 7 → Completes (.pageRepair p env) s fun e =>
                    counted e ∧ ∀ n v, bs[n]? = some v → memByte e.epoch unitRsv e.rsv (z * 2097152 + n) = v)
                  ∧ (∀ r, entryKind (pageEntry d z) = 7 → freeRun (setPage d q 6 0 false) 1 = some r → Completes (.pageRepair p env) s fun e =>
                    counted e ∧ (epochUsing e (1048576 + r)).isSome = true
                      ∧ ∀ n v, bs[n]? = some v → memByte e.epoch unitRsv e.rsv (r * 2097152 + n) = v)))))))
      ∧ (∀ (p : Path) (die : DieId) (b : BlockId) (gap : Byte),
          let c := ctl R.CIS_SCRUB_CTRL die b
          let run := ctl R.CIS_SCRUB_RUN die b
          MayWrite d p c →
          (flag d c F.CIS_SCRUB_CTRL_BUSY = false → Completes (.scrubRunStart p die b gap []) s fun e =>
              flag e c F.CIS_SCRUB_CTRL_BUSY = true ∧ flag e c F.CIS_SCRUB_CTRL_GO = true ∧ RegsBut d e [c]
                ∧ (blk e die b).scrub = some
                    { line := fget d run F.CIS_SCRUB_RUN_LINE, left := fget d run F.CIS_SCRUB_RUN_COUNT_M1 + 1
                      dest := fget d (ctl R.CIS_SCRUB_DEST die b) F.CIS_SCRUB_DEST_ADDR * 64 })
          ∧ (flag d c F.CIS_SCRUB_CTRL_BUSY = true → Completes (.scrubRunStart p die b gap []) s fun e => e.blocks = d.blocks))
      ∧ (∀ (die : DieId) (b : BlockId), let x := blk d die b
          let c := ctl R.CIS_SCRUB_CTRL die b
          (x.scrub = none → exec (.scrubRunDone die b) s = .next s)
          ∧ (∀ r, x.scrub = some r →
            let unready : Prop := ∃ i, i < r.left ∧ cisReady d die b (r.line + i) = false
            let held : Prop := (∃ q ∈ x.repairs, q.reader = 2) ∨ loaderClaims d die b = true ∨ pumpClaims x = true
              ∨ ∃ i, i < r.left ∧ (0 < mgetD x.debt ((r.line + i) / 4096) 0 ∨ (mget x.action ((r.line + i) / 4096)).isSome = true)
            (unready → Completes (.scrubRunDone die b) s fun e => (blk e die b).scrub = none ∧ e.halls = d.halls
                ∧ flag e c F.CIS_SCRUB_CTRL_BUSY = false ∧ flag e c F.CIS_SCRUB_CTRL_GO = false
                ∧ flag e c F.CIS_SCRUB_CTRL_ENDED = true ∧ (d.step.running = true → Recorded d e die .bankDown))
            ∧ (¬ unready → held → exec (.scrubRunDone die b) s = .next s)
            ∧ (¬ unready → ¬ held → 0 < r.left → Completes (.scrubRunDone die b) s fun e =>
                (blk e die b).scrub = none ∧ flag e c F.CIS_SCRUB_CTRL_BUSY = false ∧ flag e c F.CIS_SCRUB_CTRL_GO = false
                  ∧ mgetD e.halls die {} = memWrite (mgetD d.halls die {}) r.dest
                      (memRead d.epoch (unitCis (gblock die b)) x.cistern (r.line * 1024) (1024 * r.left)))
            ∧ (¬ unready → ¬ held → 0 < r.left → let lo := r.line % 2048
                let hi := lo + r.left
                let k := gblock die b * 64 + r.line / 2048
                hi ≤ 2048 →
                (lo ≠ 0 → lo ≠ mgetD d.srv.scrubbed k 0 → Completes (.scrubRunDone die b) s fun e => e.srv = d.srv ∧ e.errors = d.errors)
                ∧ (lo = 0 ∨ lo = mgetD d.srv.scrubbed k 0 →
                  (hi < 2048 → Completes (.scrubRunDone die b) s fun e => mgetD e.srv.scrubbed k 0 = hi ∧ e.errors = d.errors)
                  ∧ (∀ e0, hi = 2048 → epochUsing d k = some e0 → sha512 (pageBytes d k) ≠ mgetD e0.scrub k [] →
                    Completes (.scrubRunDone die b) s fun e => e.errors = d.errors ++ [(pageLoc k, d.tally)]
                      ∧ Counted d e (srvReg R.SRV_WT_CNT_A) F.SRV_WT_CNT_A_MISMATCH)
                  ∧ (∀ e0, hi = 2048 → epochUsing d k = some e0 → sha512 (pageBytes d k) = mgetD e0.scrub k [] →
                    Completes (.scrubRunDone die b) s fun e => e.errors = d.errors ∧ k ∉ e.srv.scrubDue)))))

/-! ## Town Halls, mailboxes, attestation (R161, R323 to R341, R354, R386) -/

/-- R337, R338, R251 (sending), R340 (drains), R341 (timeout, ENABLE), R323 (timers). Model's choices: log entries 20,
43, 59 and 84. -/
def Obligations.MailboxesComplete : Prop :=
  ∀ s : State, powered s.dev = true →
    let d := s.dev
    let answer (e : Dev) (h : MbxHeld) (code : Nat) : Prop :=
      Sent d e h.fa 0 { kind := .mbxAck, nums := [leaveBy d h.fa, h.fa, h.xid, code], bytes := [] }
    (∀ (p : Path) (die : DieId) (inst : Fin 6) (buffer : Fin 4),
        let c := txReg R.HAL_TX_CTRL die inst buffer
        let dst := txReg R.HAL_TX_DST die inst buffer
        let fa := if flag d dst F.HAL_TX_DST_LOCAL then ownFa d else fget d dst F.HAL_TX_DST_FA
        let xid := d.nextId % 65536
        let stamp := ownFa d + die.val * 65536
          + (if inst.val < 4 then 0xB * 4194304 + inst.val * 67108864 + p.priv * 1073741824 else 0x3 * 4194304 + 2 * 1073741824)
        let part (n : Nat) : Emit :=
          { kind := .mbxPart
            nums := [leaveBy d fa, fa, fget d dst F.HAL_TX_DST_DIE, stamp, xid, fget d dst F.HAL_TX_DST_MAILBOX, n]
            bytes := (List.range 8).flatMap fun i =>
              leBytes 4 (rd d (txReg (R.HAL_TX_DATA + 4 * (8 * n + i)) die inst buffer)).toNat
            src := stamp
            die := fget d dst F.HAL_TX_DST_DIE }
        MayWrite d p c →
        (flag d c F.HAL_TX_CTRL_BUSY = true → exec (.txGo p die inst buffer) s = .next s)
        ∧ (flag d c F.HAL_TX_CTRL_BUSY = false → Completes (.txGo p die inst buffer) s fun e =>
            flag e c F.HAL_TX_CTRL_BUSY = true ∧ RegsBut d e [c]
              ∧ e.txns = d.txns ++ [{ head := leaveBy d fa, kind := .mbx xid, origin := .buffer c, start := d.tally }]
              ∧ (fa = ownFa d → e.out = d.out ++ [part 0, part 1])
              ∧ (∀ g, fa ≠ ownFa d → routeAqd d fa 0 = some g → headReachable d (g / 8) = true → (aqd d g).queue = [] →
                  bufferBytes (aqd d g).unacked + 128 ≤ 524288 →
                  e.out = d.out ++ [{ part 0 with pair := carryingPair (pairOut d g) }, { part 1 with pair := carryingPair (pairOut d g) }])))
      ∧ (∀ (p : Path) (die : DieId) (m : Fin 64) (seq : Byte),
          let st := mbxReg R.MBX_STATUS die m
          let h := mbxHeld d die m
          MayWrite d p (mbxReg R.MBX_DRAIN die m) →
          (seq.toNat ≠ fget d st F.MBX_STATUS_SEQ → Completes (.mbxDrain p die m seq) s fun e =>
              Counted d e (mbxReg R.MBX_CNT die m) F.MBX_CNT_STALE ∧ OnlyRegs d e [mbxReg R.MBX_CNT die m])
          ∧ (seq.toNat = fget d st F.MBX_STATUS_SEQ → flag d st F.MBX_STATUS_FULL = true →
            flag d st F.MBX_STATUS_TIMED_OUT = false → Completes (.mbxDrain p die m seq) s fun e =>
              flag e st F.MBX_STATUS_FULL = false ∧ answer e h 0 ∧ RegsBut d e [st])
          ∧ (seq.toNat = fget d st F.MBX_STATUS_SEQ → flag d st F.MBX_STATUS_FULL = true →
            flag d st F.MBX_STATUS_TIMED_OUT = true → Completes (.mbxDrain p die m seq) s fun e =>
              flag e st F.MBX_STATUS_FULL = false ∧ flag e st F.MBX_STATUS_TIMED_OUT = false ∧ OnlyRegs d e [st])
          ∧ (seq.toNat = fget d st F.MBX_STATUS_SEQ → flag d st F.MBX_STATUS_FULL = false →
            exec (.mbxDrain p die m seq) s = .next s))
      ∧ (∀ (die : DieId) (m : Fin 64),
          let st := mbxReg R.MBX_STATUS die m
          let h := mbxHeld d die m
          let due : Prop := h.at_ + 625 * max 1 (fget d (mbxReg R.MBX_CTRL die m) F.MBX_CTRL_TIMEOUT_US) ≤ d.tally
          let waits : Prop := flag d st F.MBX_STATUS_FULL = true ∧ flag d st F.MBX_STATUS_TIMED_OUT = false
          (due → waits → Completes (.mailboxTimeout die m) s fun e => flag e st F.MBX_STATUS_TIMED_OUT = true
              ∧ flag e st F.MBX_STATUS_FULL = true ∧ answer e h 1 ∧ RegsBut d e [st])
          ∧ (¬ due ∨ ¬ waits → exec (.mailboxTimeout die m) s = .next s))
      ∧ (∀ (p : Path) (die : DieId) (m : Fin 64),
          let c := mbxReg R.MBX_CTRL die m
          let st := mbxReg R.MBX_STATUS die m
          let h := mbxHeld d die m
          MayWrite d p c → flag d c F.MBX_CTRL_ENABLE = true →
          (flag d st F.MBX_STATUS_FULL = true → flag d st F.MBX_STATUS_TIMED_OUT = false →
            Completes (.mbxEnableClear p die m) s fun e => flag e c F.MBX_CTRL_ENABLE = false
              ∧ flag e st F.MBX_STATUS_FULL = false ∧ answer e h 1 ∧ RegsBut d e [c, st])
          ∧ (flag d st F.MBX_STATUS_FULL = true → flag d st F.MBX_STATUS_TIMED_OUT = true →
            Completes (.mbxEnableClear p die m) s fun e => flag e c F.MBX_CTRL_ENABLE = false
              ∧ flag e st F.MBX_STATUS_FULL = false ∧ OnlyRegs d e [c, st])
          ∧ (flag d st F.MBX_STATUS_FULL = false → Completes (.mbxEnableClear p die m) s fun e =>
              flag e c F.MBX_CTRL_ENABLE = false ∧ OnlyRegs d e [c]))
      ∧ (∀ (die : DieId) (core : CoreId),
          let n := die.val * 4 + core.val
          (mtimecmp d die core ≤ d.tally → n ∉ d.timerIrq → Completes (.machineTimerInterrupt die core) s fun e =>
              e = { d with timerIrq := d.timerIrq ++ [n] })
          ∧ (d.tally < mtimecmp d die core ∨ n ∈ d.timerIrq → exec (.machineTimerInterrupt die core) s = .next s))

/-- R354, R355 (attestation), R386 (the standby), R325, R117, R119 (the aperture), R330 (refusals), R161
(SEQ_PS_DATA). Model's choices: log entries 5, 8, 11, 16, 20, 74 and 78. -/
def Obligations.HallsComplete : Prop :=
  ∀ s : State, powered s.dev = true →
    let d := s.dev
    (∀ (g : AqdId) (conn stream : Nat) (nonce : Vector Byte 64),
        (aqdEthernetUp d g = false → exec (.attestRequest g conn stream nonce) s = .next s)
        ∧ (aqdEthernetUp d g = true → 4 ≤ d.boot.signing.length * reportCount d → Completes (.attestRequest g conn stream nonce) s fun e =>
            e = { d with out := d.out ++ [{ kind := .attestResponse, nums := [g, conn, stream, 503], bytes := [] }] })
        ∧ (aqdEthernetUp d g = true → d.boot.signing.length * reportCount d < 4 → Completes (.attestRequest g conn stream nonce) s fun e =>
            e = { d with boot := { d.boot with signing := d.boot.signing ++ [(g.val, conn, stream, nonce.toList)] } }))
      ∧ (d.boot.signing = [] → exec .attestSigned s = .next s)
      ∧ (∀ g conn stream nonce rest, d.boot.signing = (g, conn, stream, nonce) :: rest →
          Completes .attestSigned s fun e =>
            let l := runningImages d
            let cert := if fget d (ctl R.CFG_STATUS 0 0) F.CFG_STATUS_IDENT = 0 then d.boot.certificate else []
            e = { d with
                  boot := { d.boot with signing := rest }
                  out := d.out ++ [{ kind := .attestResponse, nums := [g, conn, stream, 200]
                                     bytes := leBytes 4 l.length ++ leBytes 4 cert.length ++ List.replicate 8 0
                                       ++ l.flatMap (report { d with boot := { d.boot with signing := rest } } nonce) ++ cert }] })
      ∧ (∀ x, d.cont.standby = some x →
          let dead := hallRetired d d.coord
          (dead = false → d.cont.heartbeats + 62500 ≤ d.tally → Completes .heartbeat s fun e =>
              e = { d with cont := { d.cont with heartbeats := d.tally }
                           out := d.out ++ [{ kind := .heartbeat, nums := [d.coord, x], bytes := [] }] })
          ∧ (dead = true ∨ d.tally < d.cont.heartbeats + 62500 → exec .heartbeat s = .next s)
          ∧ (dead = true ∨ d.cont.heartbeats + 187500 ≤ d.tally → Completes .coordinatorTakeover s fun e =>
              e.coord = x ∧ (∀ die : DieId, fget e (ctl R.HAL_COORD die 4) F.HAL_COORD_DIE = x % 64)
                ∧ e.cont.heartbeats = d.tally ∧ (∀ y, e.cont.standby = some y → y ≠ x)
                ∧ (d.step.running = true → d.step.abort = .none → e.step.abort = .requested .abortRemote)
                ∧ RegsBut d e ((List.range 48).map fun die => ctl R.HAL_COORD die 4))
          ∧ (dead = false → d.tally < d.cont.heartbeats + 187500 → exec .coordinatorTakeover s = .next s))
      ∧ (∀ (die : DieId) (core : CoreId) (mode : CoreMode) (off : BitVec 34) (bytes : List Byte) (env : WellEnv),
          let hd := off.toNat / 268435456
          let hb := off.toNat / 8388608 % 32
          let a := off.toNat % 8388608
          let row := (a - 6291456) / 64
          let c : Instr := .wellApertureWrite die core mode off bytes env
          let wide : Prop := bytes.length ∈ [1, 2, 4, 8] ∧ a % bytes.length = 0
          let reached : Prop := hd < 48 ∧ hb < 24
          let acc := ctl R.HAL_ACC_STATUS die 4
          let refusedFor (x : Reason) : Prop := Completes c s fun e =>
            Counted d e acc F.HAL_ACC_STATUS_COUNT ∧ e.blocks = d.blocks
              ∧ (flag d acc F.HAL_ACC_STATUS_VALID = false → flag e acc F.HAL_ACC_STATUS_VALID = true
                  ∧ fget e acc F.HAL_ACC_STATUS_REASON = x.code ∧ fget e acc F.HAL_ACC_STATUS_WRITE = 1)
          (¬ wide → refusedFor .width)
          ∧ (wide → ¬ reached → refusedFor .notDecoded)
          ∧ (wide → reached → a < 6291456 → refusedFor .cls)
          ∧ (wide → reached → 6291456 ≤ a → wellReady d hd hb true row = false → refusedFor .target)
          ∧ (wide → reached → 6291456 ≤ a → wellReady d hd hb true row = true → (blk d hd hb).well.wf = true →
            Completes c s fun e => wellRead e hd hb a bytes.length = bytes
              ∧ (∀ n, n < a ∨ a + bytes.length ≤ n →
                  memByte e.epoch (unitWell (gblock hd hb)) (blk e hd hb).well n
                    = memByte d.epoch (unitWell (gblock hd hb)) (blk d hd hb).well n)
              ∧ { blk e hd hb with well := (blk d hd hb).well } = blk d hd hb
              ∧ RegsBut d e [ctl R.WEL_ARB_CNT hd hb, srvReg R.SRV_SEL_CNT]))
      ∧ (∀ (p : Path) (die : DieId) (b : BlockId),
          let a := ctl R.SEQ_PS_DATA die b
          let ad := ctl R.SEQ_PS_ADDR die b
          let w := fget d ad F.SEQ_PS_ADDR_WORD
          MayRead d p a → Completes (.programStoreRead p die b) s fun e =>
            e.out = d.out ++ [{ kind := .readData, bytes := []
                                nums := [p.bank, a, memNat d.epoch (unitPs (gblock die b)) (blk d die b).ps (4 * w) 4] }]
              ∧ fget e ad F.SEQ_PS_ADDR_WORD = (w + 1) % pow2 F.SEQ_PS_ADDR_WORD.width ∧ OnlyRegs { d with out := e.out } e [ad])

/-! ## Management agents (R353, R400, R401) -/

/-- R400 (I3C), R330 (refusals). Model's choices: log entries 5, 20 and 44. -/
def Obligations.I3cComplete : Prop :=
  ∀ s : State, powered s.dev = true →
    let d := s.dev
    let answers : Prop := 1 ≤ fget d (ctl R.CFG_STATUS 0 0) F.CFG_STATUS_STAGE
    let sends (k : EmitKind) (nums : List Nat) (e : Dev) : Prop := e = { d with out := d.out ++ [{ kind := k, nums, bytes := [] }] }
    let nack (c : Instr) : Prop := Completes c s (sends .i3cNack [])
    let acc := ctl R.HAL_ACC_STATUS 0 4
    let pid := Config.identity 0x3C 0 % 32768 * 8589934592 + 0x5A64 * 65536
      + (if fget d (ctl R.CFG_STATUS 0 0) F.CFG_STATUS_IDENT = 0 then (rd d (ctl R.TRU_ID_DIGEST 0 0)).toNat % 65536 else 0)
    (∀ bytes : List Byte,
        let whole (n op : Nat) : Prop := bytes.length = n ∧ (bytes.headD 0).toNat = op
        let silent : Prop := ¬ answers ∨ d.i3c.pending.isSome = true
        let bad (c : Instr) : Prop := Completes c s fun e => e = { d with i3c := { d.i3c with status := 3, data := 0 } }
        (whole 9 2 → exec (.i3cRead bytes) s = .next s)
        ∧ (whole 5 1 → exec (.i3cWrite bytes) s = .next s)
        ∧ (¬ whole 9 2 → silent → nack (.i3cRead bytes))
        ∧ (¬ whole 5 1 → silent → nack (.i3cWrite bytes))
        ∧ (¬ whole 9 2 → ¬ whole 5 1 → ¬ silent → bad (.i3cRead bytes) ∧ bad (.i3cWrite bytes)))
      ∧ (∀ a v : Word, answers → d.i3c.pending = none →
          let rb : List Byte := [1] ++ leBytes 4 a.toNat
          let wb : List Byte := [2] ++ leBytes 4 a.toNat ++ leBytes 4 v.toNat
          let refused (e : Dev) : Prop := e.i3c = { d.i3c with status := 2, data := 0 } ∧ Counted d e acc F.HAL_ACC_STATUS_COUNT
            ∧ RegsBut d e ([acc, ctl R.HAL_ACC_ADDR 0 4] ++ [0, 1, 2, 3].map fun i => ctl R.HAL_IRQ_PEND 0 i)
          (ctlClass a.toNat = 0x20 →
            (Completes (.i3cRead rb) s fun e => e = { d with i3c := { d.i3c with pending := some (a.toNat, none) } })
              ∧ Completes (.i3cWrite wb) s fun e => e = { d with i3c := { d.i3c with pending := some (a.toNat, some v.toNat) } })
          ∧ (ctlClass a.toNat ≠ 0x20 →
            (MayRead d .i3c a.toNat → Completes (.i3cRead rb) s fun e =>
                e.i3c = { d.i3c with status := 0, data := (view d .i3c a.toNat).toNat } ∧ e.out = d.out)
            ∧ (¬ MayRead d .i3c a.toNat → Completes (.i3cRead rb) s refused)
            ∧ (∀ (b : Fin 4) (i : Fin 16), a.toNat = txReg (R.HAL_TX_DATA + 4 * i.val) 0 5 b →
              flag d (txReg R.HAL_TX_CTRL 0 5 b) F.HAL_TX_CTRL_BUSY = false → Completes (.i3cWrite wb) s fun e =>
                rd e a.toNat = v ∧ OnlyRegs { d with i3c := { d.i3c with status := 0, data := 0 } } e [a.toNat])
            ∧ (¬ MayWrite d .i3c a.toNat → Completes (.i3cWrite wb) s refused)))
      ∧ ((¬ answers → nack .i3cResult ∧ nack .getpid)
        ∧ (answers → d.i3c.pending.isSome = true → Completes .i3cResult s (sends .i3cData [1, 0]))
        ∧ (answers → d.i3c.pending = none → Completes .i3cResult s (sends .i3cData [d.i3c.status, d.i3c.data]))
        ∧ (answers → Completes .getpid s (sends .i3cData [pid])))
      ∧ (∀ static dyn : Fin 128,
          let free : Prop := answers ∧ d.i3c.address = none
          (free → static = 0x5A → Completes (.setdasa static dyn) s fun e =>
              e = { d with i3c := { d.i3c with address := some dyn.val } })
          ∧ (¬ free ∨ static ≠ 0x5A → nack (.setdasa static dyn))
          ∧ (free → Completes (.entdaa dyn) s fun e => e = { d with
                i3c := { d.i3c with address := some dyn.val }
                out := d.out ++ [{ kind := .i3cData, nums := [pid, dyn.val], bytes := [] }] })
          ∧ (¬ free → nack (.entdaa dyn)))

/-- R401 (JTAG), R353 (DEBUG), R330 (refusals). Model's choices: log entries 18 and 44. -/
def Obligations.TapComplete : Prop :=
  ∀ s : State,
    let d := s.dev
    let tdo (nums : List Nat) : Emit := { kind := .tdo, nums, bytes := [] }
    (d.boot.on = true →
      (Completes .tapReset s fun e => e = { d with tap := { d.tap with ir := 2 } })
      ∧ (Completes .idcode s fun e => e = { d with tap := { d.tap with ir := 2 }, out := d.out ++ [tdo [2, 0x15A6416B]] })
      ∧ (∀ (code : Byte) (scan : List Bool), code.toNat ∉ [0, 1, 2, 0x20] → Completes (.bypass code scan) s fun e =>
          e = { d with
                tap := { d.tap with ir := code.toNat, bypass := scan.getLastD false }
                out := d.out ++ [tdo [code.toNat, 2 * bitsNat scan.dropLast]] })
      ∧ (∀ (pins : Vector Bool 49) (scan : Vector Bool 147) (op : Fin 2),
          let c : Instr := if op = 0 then .extest pins scan else .samplePreload pins scan
          let v := bitsNat (captured d pins.toList)
          (Completes c s fun e => e.tap = { d.tap with ir := op.val, scan := scan.toList }
              ∧ e.out = d.out ++ [tdo [op.val, v]] ∧ e.regs = d.regs ∧ e.blocks = d.blocks ∧ e.rsv = d.rsv)
            ∧ ∀ (i : Fin 49) t, scanContacts[i.val]? = some t →
              bit v (3 * i.val) = pins[i]
                ∧ (∀ n, gpioOf t = some n → bit v (3 * i.val + 1) = bit (rd d (ctl R.DIE_GPIO_OUT 0 0)).toNat n
                    ∧ bit v (3 * i.val + 2) = bit (rd d (ctl R.DIE_GPIO_OE 0 0)).toNat n)
                ∧ (t = (true, 13) → bit v (3 * i.val + 1) = false ∧ bit v (3 * i.val + 2) = alertLow d)
                ∧ (t = (true, 14) →
                    bit v (3 * i.val + 1) = decide (6 ≤ fget d (ctl R.CFG_STATUS 0 0) F.CFG_STATUS_STAGE))))
      ∧ (powered d = true → ∀ a v : Word,
          let acc := ctl R.HAL_ACC_STATUS 0 4
          let debug := flag d (ctl R.TRU_STATUS 0 0) F.TRU_STATUS_DEBUG
          let x : Dev := { d with tap := { d.tap with ir := 0x20 }, out := d.out ++ [tdo [0x20, d.tap.status, d.tap.data]] }
          let result (e : Dev) (status data : Nat) : Prop := e.tap = { x.tap with status, data } ∧ e.out = x.out
          let counted (e : Dev) : Prop := Counted d e acc F.HAL_ACC_STATUS_COUNT
            ∧ RegsBut d e ([acc, ctl R.HAL_ACC_ADDR 0 4] ++ [0, 1, 2, 3].map fun i => ctl R.HAL_IRQ_PEND 0 i)
          (d.tap.pending.isSome = true →
            let busy : Dev := { d with tap := { d.tap with ir := 0x20 }, out := d.out ++ [tdo [0x20, 1, 0]] }
            (Completes (.ctlAccessRead a) s fun e => e = busy) ∧ Completes (.ctlAccessWrite a v) s fun e => e = busy)
          ∧ (d.tap.pending = none → debug = true → ctlClass a.toNat = 0x20 →
            (Completes (.ctlAccessRead a) s fun e => e = { x with tap := { x.tap with pending := some (a.toNat, none) } })
              ∧ Completes (.ctlAccessWrite a v) s fun e =>
                e = { x with tap := { x.tap with pending := some (a.toNat, some v.toNat) } })
          ∧ (d.tap.pending = none → debug = false →
            (Completes (.ctlAccessRead a) s fun e => result e 3 0 ∧ counted e)
              ∧ Completes (.ctlAccessWrite a v) s fun e => result e 3 0 ∧ counted e)
          ∧ (d.tap.pending = none → debug = true → ctlClass a.toNat ≠ 0x20 →
            (MayRead x .jtag a.toNat → Completes (.ctlAccessRead a) s fun e => result e 0 (view x .jtag a.toNat).toNat)
            ∧ (¬ MayRead x .jtag a.toNat → Completes (.ctlAccessRead a) s fun e => result e 2 0 ∧ counted e)
            ∧ (∀ r, MayWrite x .jtag a.toNat → regAt a.toNat = some r → ctlPlace a.toNat ∈ [R.FNT_TIMEOUT, R.GAT_CTRL] →
              Completes (.ctlAccessWrite a v) s fun e => result e 0 0 ∧ RegsBut d e [a.toNat]
                ∧ ∀ f ∈ r.fields, f.acc = .rw → fget e a.toNat f.fld = bits v.toNat f.fld.lo f.fld.width)
            ∧ (¬ MayWrite x .jtag a.toNat → Completes (.ctlAccessWrite a v) s fun e => result e 2 0 ∧ counted e)))

/-! ## Continuity (R381 to R391) -/

/-- R381, R378, R382 (retirement), R384 (gates), R387, R388 (self-tests), R389, R390, R391 (live update). Model's
choices: log entries 20, 72, 75, 76 and 77. -/
def Obligations.ContinuityComplete : Prop :=
  ∀ s : State, powered s.dev = true →
    let d := s.dev
    (let c := collect d
      let count := srvReg R.SRV_FLT_CNT
      let told (e : Dev) (l : Nat) : Prop := ∃ m, m ∈ e.out ∧ m.kind = .healthMsg ∧ m.nums.headD 0 = l ∧ (m.bytes.drop 4).take 4 = leBytes 4 l
      (c.cont.due = [] → Completes .retirementDecision s fun e => e = c)
      ∧ (∀ l rest, c.cont.due = l :: rest →
          (Completes .retirementDecision s fun e => told e l)
          ∧ (d.step.running = true → locKind l ∈ [0, 1, 2, 5, 9, 10] → Completes .retirementDecision s fun e =>
              e.cont.due = rest ∧ e.cont.pending = c.cont.pending ++ [l] ∧ e.cont.retired = c.cont.retired
                ∧ Counted c e count F.SRV_FLT_CNT_PERMANENT ∧ e.blocks = d.blocks)
          ∧ (locKind l = 3 → let p := locIndex l * 8 + (locDie l - 48)
              entryKind (pageEntry c p) ≠ 1 → epochUsing c (rsvPage p) = none → Completes .retirementDecision s fun e =>
                e.cont.due = rest ∧ e.cont.retired = c.cont.retired ++ [l] ∧ entryKind (pageEntry e p) = 7
                  ∧ Counted c e count F.SRV_FLT_CNT_PERMANENT
                  ∧ (∀ n x q, slot c n = some x → p ∈ x.kv → freeRun c 1 = some q →
                      (slot e n).map Slot.kv = some (x.kv.map fun y => if y = p then q else y))
                  ∧ (∀ v ∈ c.srv.convs, p ∈ v.pages →
                      { v with lost := true, landed := true, pages := [], source := [], stack := none } ∈ e.srv.convs))
          ∧ (locKind l = 7 → locDie l < 48 → locIndex l < 4 → Completes .retirementDecision s fun e =>
                e.cont.due = rest ∧ e.cont.retired = c.cont.retired ++ [l] ∧ coreRetired e (locDie l) (locIndex l) = true
                  ∧ flag e (ctl R.HAL_CORE_CTRL (locDie l) (locIndex l)) F.HAL_CORE_CTRL_HOLD = true
                  ∧ Counted c e count F.SRV_FLT_CNT_PERMANENT)))
      ∧ (∀ (p : Path) (die : DieId) (blocks : BitVec 24),
          let r := ctl R.DIE_GATE_REHOME die 0
          let lowest4 (x : Nat) : List Nat := ((List.range 24).filter (bit x)).take 4
          let fresh := (lowest4 blocks.toNat).filter fun b => b ∉ lowest4 (rd d r).toNat
          let gates := fresh.flatMap fun b => (List.range 10).map fun i => 10 * b + i
          MayWrite d p r → Completes (.gateRehome p die blocks) s fun e =>
            (rd e r).toNat = blocks.toNat
              ∧ (∀ g ∈ gates, rd e (gateReg R.GAT_COUNT die g) = 0 ∧ rd e (gateReg R.GAT_THRESH die g) = 0
                  ∧ rd e (gateReg R.GAT_CTRL die g) = 0 ∧ waiters e die g = [])
              ∧ RegsBut d e (r :: gates.flatMap fun g =>
                  [gateReg R.GAT_COUNT die g, gateReg R.GAT_THRESH die g, gateReg R.GAT_CTRL die g]))
      ∧ (∀ (die : DieId) (b : BlockId), let g := gblock die b
          let st := srvReg R.SRV_ST_STATUS
          let rest := d.cont.testing.filter fun t => t.1 != g
          let finished : Continuity := { d.cont with testing := rest, lastTest := mset d.cont.lastTest g d.tally }
          let l := locId die 2 b
          (d.cont.testing.find? (fun t => t.1 == g) = none → ∀ pass, exec (.selftestSlice die b pass) s = .next s)
          ∧ (∀ n, d.cont.testing.find? (fun t => t.1 == g) = some (g, n) →
            (n + 1 ≠ 256 → Completes (.selftestSlice die b true) s fun e =>
                e = { d with cont := { d.cont with testing := rest ++ [(g, n + 1)] } })
            ∧ (n + 1 = 256 → Completes (.selftestSlice die b true) s fun e => e.cont = finished
                ∧ fget e st F.SRV_ST_STATUS_TESTING = rest.length % pow2 F.SRV_ST_STATUS_TESTING.width ∧ RegsBut d e [st])
            ∧ (l ∉ d.cont.retired → l ∉ d.cont.pending → l ∉ d.cont.due → Completes (.selftestSlice die b false) s fun e =>
                e.cont = { finished with due := d.cont.due ++ [l] } ∧ RegsBut d e [st]))
          ∧ (let c := srvReg R.SRV_ST_CTRL
            let waits : Prop :=
              d.tally < mgetD d.cont.lastTest g 0 + 2250000000000 * max 1 (fget d c F.SRV_ST_CTRL_INTERVAL_H) ∨ blockRetired d die b = true
                ∨ fget d c F.SRV_ST_CTRL_CONCURRENT ≤ d.cont.testing.length ∨ ∃ t ∈ d.cont.testing, t.1 / 24 = die
            (waits → exec (.selftestInterval die b) s = .next s)
            ∧ (¬ waits → leavesRoom d die b = false → Completes (.selftestInterval die b) s fun e =>
                Counted d e st F.SRV_ST_STATUS_DEFERRED ∧ OnlyRegs d e [st])
            ∧ (¬ waits → leavesRoom d die b = true → Completes (.selftestInterval die b) s fun e =>
                e.cont = { d.cont with testing := d.cont.testing ++ [(g, 0)] } ∧ RegsBut d e [st]
                  ∧ fget e st F.SRV_ST_STATUS_TESTING = (d.cont.testing.length + 1) % pow2 F.SRV_ST_STATUS_TESTING.width)))
      ∧ (∀ p : Path, let c := srvReg R.SRV_ST_CTRL
          MayWrite d p (ctl R.SRV_ST_CTRL (coordCopy d p) 0) →
          flag d c F.SRV_ST_CTRL_RSV_GO = false → Completes (.reservoirTestStart p) s fun e =>
            e.cont.testedPages = ((List.range 393216).filter (pageFree d)).take 64 ∧ flag e c F.SRV_ST_CTRL_RSV_GO = true)
      ∧ (∀ bad : List (Fin 393216), let c := srvReg R.SRV_ST_CTRL
          (flag d c F.SRV_ST_CTRL_RSV_GO = false → exec (.reservoirTestDone bad) s = .next s)
          ∧ (flag d c F.SRV_ST_CTRL_RSV_GO = true → Completes (.reservoirTestDone bad) s fun e =>
              e.cont.testedPages = [] ∧ flag e c F.SRV_ST_CTRL_RSV_GO = false
                ∧ e.rsv = d.cont.testedPages.foldl (fun m p => memForget m (p * 2097152) 2097152) d.rsv
                ∧ (∀ p ∈ bad, p.val ∈ d.cont.testedPages → let l := locId (48 + p.val % 8) 3 (p.val / 8)
                    l ∈ e.cont.due ∨ l ∈ e.cont.retired ∨ l ∈ e.cont.pending)))
      ∧ (let up := srvReg R.SRV_UPD_STATUS
        let cap := srvReg R.SRV_CAP_STATUS
        let phase (e : Dev) := fget e up F.SRV_UPD_STATUS_PHASE
        (∀ bytes : List Byte, let c : Instr := .liveUpdate (.image bytes)
          let refused : Prop := Completes c s fun e => phase e = 5 ∧ OnlyRegs d e [up]
          (d.boot.newImage.isSome = true → exec c s = .next s)
          ∧ (d.boot.newImage = none → parseImage d bytes = none → refused)
          ∧ (∀ x, d.boot.newImage = none → parseImage d bytes = some x →
            let ok : Prop := x.sectionsOk = true ∧ (x.edition = fget d (ctl R.DIE_EDITION 0 0) F.DIE_EDITION_EDITION ∨ drainedDevice d = true)
            (¬ ok → refused)
            ∧ (ok → Completes c s fun e => phase e = 2 ∧ e.boot.newImage = some x ∧ e.boot.updatedDies = [] ∧ e.boot.image = d.boot.image
                ∧ (∀ n rest, updateOrder d = n :: rest → n < 64 → fget e up F.SRV_UPD_STATUS_DIE = n)
                ∧ flag e cap F.SRV_CAP_STATUS_UPDATING = true ∧ flag e cap F.SRV_CAP_STATUS_MIXED = false ∧ RegsBut d e [up, cap])))
        ∧ (∀ fails : Bool, let c : Instr := .liveUpdate (.next fails)
          (d.boot.newImage = none ∨ d.cont.pending ≠ [] ∨ d.cont.due ≠ [] → exec c s = .next s)
          ∧ (∀ x, d.boot.newImage = some x → d.cont.pending = [] → d.cont.due = [] →
            (∀ die, (updateOrder d).find? (fun die => !d.boot.updatedDies.contains die) = some die → die ≠ d.coord → fails = false →
              Completes c s fun e => e.boot = { d.boot with updatedDies := d.boot.updatedDies ++ [die] } ∧ e.coord = d.coord
                ∧ (phase e = 3 ↔ phase d = 3 ∨ ∀ y ∈ updateOrder d, y = die ∨ y ∈ d.boot.updatedDies))
            ∧ ((∀ y ∈ updateOrder d, y ∈ d.boot.updatedDies) →
              (∀ h, (List.range 8).find? (fun h => !d.boot.updatedHeads.contains h) = some h → h ≠ 7 → Completes c s fun e =>
                e.boot = { d.boot with updatedHeads := d.boot.updatedHeads ++ [h] } ∧ e.regs = d.regs)
              ∧ ((List.range 8).find? (fun h => !d.boot.updatedHeads.contains h) = some 7 → x.edition < 65536 → Completes c s fun e =>
                e.boot = { d.boot with image := some x, newImage := none, updatedDies := [], updatedHeads := [] } ∧ phase e = 4
                  ∧ (∀ n, n < 64 → fget e (ctl R.DIE_EDITION n 0) F.DIE_EDITION_EDITION = x.edition)
                  ∧ flag e cap F.SRV_CAP_STATUS_UPDATING = false ∧ flag e cap F.SRV_CAP_STATUS_MIXED = false)))))

/-! ## Two rules of the spec, whole -/

/-- R8: "Reserved bits read 0 and ignore writes. An offset that holds no register within a decoded unit reads
0x0000_0000 and ignores writes." -/
def Obligations.ReservedBitsReadZero : Prop :=
  ∀ (s : State) (c : CtlAccess), powered s.dev = true →
    let d := s.dev
    let a := c.addr.toNat
    let delivers (v : Nat) (e : Dev) : Prop := e.out = d.out ++ [{ kind := .readData, nums := [c.path.bank, a, v], bytes := [] }]
    (regAt a = none →
        (refusal d c false = none → Completes (.rcCounterRead c) s fun e => delivers 0 e ∧ e = { d with out := e.out })
        ∧ (∀ v : Word, refusal d c true = none → exec (.registerWrite c v) s = .next s))
      ∧ (∀ (r : RegRow) (n : Fin 32), regAt a = some r →
          (∀ f ∈ r.fields, n.val < f.fld.lo ∨ f.fld.lo + f.fld.width ≤ n.val) →
          (refusal d c false = none → Completes (.rcCounterRead c) s fun e => ∃ v : Word, delivers v.toNat e ∧ v.getLsbD n = false)
          ∧ (∀ v : Word, refusal d c true = none → Completes (.registerWrite c v) s fun e => (view e c.path a).getLsbD n = false))

/-- R246: "An OPEN on a CLOSED window applies the target, size, permissions and pool written since the last OPEN, and
keeps the generation. An OPEN on a window that is OPEN or CLOSING is ignored and sets AQD_TXN_STATUS.OPEN_ERR. So is
an OPEN whose target range does not lie within the target's wells, or within reservoir pages 0–393,215." -/
def Obligations.OpenAppliesOrIsIgnored : Prop :=
  ∀ (s : State) (p : Path) (h : HeadId), powered s.dev = true → MayWrite s.dev p (txnReg R.AQD_WIN_OP h) → h.val = primaryHead s.dev →
    let d := s.dev
    let w := selWindow d p h
    let x := window d w
    let c := winReg R.AQD_WIN_CTRL w
    let size := (fget d c F.AQD_WIN_CTRL_SIZE_M1 + 1) * 4096
    let target := (rd d (winReg R.AQD_WIN_TGT_LO w)).toNat + (rd d (winReg R.AQD_WIN_TGT_HI w)).toNat * 4294967296
    let lies : Bool :=
      match parseEndpoint target 0 with
      | some (some (.package _ _ a)) => decide (a + size ≤ 8388608)
      | some (some (.reservoir a)) => decide (a + size ≤ 393216 * 2097152)
      | _ => false
    let st := txnReg R.AQD_TXN_STATUS h
    (x.state = 0 → lies = true → Completes (.windowOpen p h) s fun e =>
        window e w = { x with
            state := 1, target, size, granted := [], drained := [], pool := fget d c F.AQD_WIN_CTRL_CREDITS_M1 + 1
            wr := flag d c F.AQD_WIN_CTRL_WR_EN, rd := flag d c F.AQD_WIN_CTRL_RD_EN, ring := flag d c F.AQD_WIN_CTRL_RING_CLASS }
          ∧ (∀ v, v ≠ w → window e v = window d v) ∧ RegsBut d e [])
      ∧ (x.state ≠ 0 ∨ lies = false → Completes (.windowOpen p h) s fun e =>
        e.windows = d.windows ∧ OnlyRegs d e [st] ∧ rd e st = rd d st ||| BitVec.ofNat 32 (2 ^ F.AQD_TXN_STATUS_OPEN_ERR.lo))
end

