-- ==== Sys2Proof/Laws/Crypto.lean ====
section
/-! SUPPORT. Laws/Crypto: a SHA-512 digest has 64 bytes. -/

namespace Sys2Proof.Machine

theorem length_leBytes (n x : Nat) : (leBytes n x).length = n := by
  induction n generalizing x with
  | zero => rfl
  | succ n ih => simp [leBytes, ih]

/-- The rounds lengthen both histories. -/
theorem shaRounds_grow (l : List (Nat × Nat)) (v : ShaTrail) :
    v.hi.length ≤ (l.foldl shaRound v).hi.length ∧ v.lo.length ≤ (l.foldl shaRound v).lo.length := by
  induction l generalizing v with
  | nil => exact ⟨Nat.le_refl _, Nat.le_refl _⟩
  | cons k l ih =>
    have h := ih (shaRound v k)
    simp only [shaRound, List.length_cons] at h
    exact ⟨by simp only [List.foldl_cons, shaRound]; omega, by simp only [List.foldl_cons, shaRound]; omega⟩

theorem length_shaBlock {h : List Nat} (hh : h.length = 8) (b : List Byte) : (shaBlock h b).length = 8 := by
  have g := shaRounds_grow (shaK.zip (shaExpand 64 (beWords 16 b).reverse).reverse) ⟨h.take 4, h.drop 4⟩
  simp [hh] at g
  simp [shaBlock, hh]
  omega

theorem length_shaBlocks (n : Nat) {h : List Nat} (hh : h.length = 8) (bs : List Byte) :
    (shaBlocks n h bs).length = 8 := by
  induction n generalizing h bs with
  | zero => exact hh
  | succ n ih => exact ih (length_shaBlock hh _) _

/-- A digest has 64 bytes. -/
theorem length_sha512 (m : List Byte) : (sha512 m).length = 64 := by
  have : ∀ l : List Nat, (l.flatMap (beBytes 8)).length = 8 * l.length := fun l => by
    induction l with
    | nil => rfl
    | cons x l ih => simp [ih, beBytes, length_leBytes]; omega
  rw [sha512, this, length_shaBlocks _ (by rfl)]

theorem sha512_ne_nil (m : List Byte) : sha512 m ≠ [] := fun h => by
  simpa [h] using length_sha512 m

end Sys2Proof.Machine
end

