-- ==== Sys2Proof/Laws/Exec.lean ====
section
/-! SUPPORT. Laws/Exec: the meaning that each command has, one lemma per constructor, so that no proof unfolds the match of
`exec`. -/

namespace Sys2Proof.Machine

@[simp] theorem exec_powerUp (railsOk : Bool) (s : State) : exec (.powerUp railsOk) s = execPowerUp railsOk s := rfl
@[simp] theorem exec_inputUndervoltage (s : State) : exec .inputUndervoltage s = execInputUndervoltage s := rfl
@[simp] theorem exec_inputOvervoltage (s : State) : exec .inputOvervoltage s = execInputOvervoltage s := rfl
@[simp] theorem exec_inputBandChange (v : BitVec 16) (s : State) :
    exec (.inputBandChange v) s = execInputBandChange v s := rfl
@[simp] theorem exec_modRstNRise (env : BootEnv) (s : State) : exec (.modRstNRise env) s = execModRstNRise env s := rfl
@[simp] theorem exec_modRstNFall (s : State) : exec .modRstNFall s = execModRstNFall s := rfl
@[simp] theorem exec_bootRetry (flash : Option Flash) (s : State) :
    exec (.bootRetry flash) s = execBootRetry flash s := rfl
@[simp] theorem exec_referenceLost (s : State) : exec .referenceLost s = execReferenceLost s := rfl
@[simp] theorem exec_referenceRestored (s : State) : exec .referenceRestored s = execReferenceRestored s := rfl
@[simp] theorem exec_ppsInEdge (s : State) : exec .ppsInEdge s = execPpsInEdge s := rfl
@[simp] theorem exec_ppsOutPulse (s : State) : exec .ppsOutPulse s = execPpsOutPulse s := rfl
@[simp] theorem exec_temperatureSample (place : ThermalPlace) (t : BitVec 8) (s : State) :
    exec (.temperatureSample place t) s = execTemperatureSample place t s := rfl
@[simp] theorem exec_ceilingLower (place : ThermalPlace) (s : State) :
    exec (.ceilingLower place) s = execCeilingLower place s := rfl
@[simp] theorem exec_ceilingRaise (place : ThermalPlace) (s : State) :
    exec (.ceilingRaise place) s = execCeilingRaise place s := rfl
@[simp] theorem exec_ceilingChange (s : State) : exec .ceilingChange s = execCeilingChange s := rfl
@[simp] theorem exec_opRaiseAllowed (s : State) : exec .opRaiseAllowed s = execOpRaiseAllowed s := rfl
@[simp] theorem exec_supplyCeilingLower (watts : BitVec 16) (amps : BitVec 16) (s : State) :
    exec (.supplyCeilingLower watts amps) s = execSupplyCeilingLower watts amps s := rfl
@[simp] theorem exec_supplyCeilingRaise (watts : BitVec 16) (amps : BitVec 16) (s : State) :
    exec (.supplyCeilingRaise watts amps) s = execSupplyCeilingRaise watts amps s := rfl
@[simp] theorem exec_opApply (s : State) : exec .opApply s = execOpApply s := rfl
@[simp] theorem exec_voltageRampDone (s : State) : exec .voltageRampDone s = execVoltageRampDone s := rfl
@[simp] theorem exec_droopStretch (die : DieId) (n : Fin 4) (deep : Bool) (margin : BitVec 8) (s : State) :
    exec (.droopStretch die n deep margin) s = execDroopStretch die n deep margin s := rfl
@[simp] theorem exec_droopStretchEnd (die : DieId) (again : Option (Fin 4 × Bool × BitVec 8)) (s : State) :
    exec (.droopStretchEnd die again) s = execDroopStretchEnd die again s := rfl
@[simp] theorem exec_railAlert (rail : RailId) (s : State) : exec (.railAlert rail) s = execRailAlert rail s := rfl
@[simp] theorem exec_timeStep (p : Path) (v : Word) (s : State) : exec (.timeStep p v) s = execTimeStep p v s := rfl
@[simp] theorem exec_timeRate (p : Path) (v : Word) (s : State) : exec (.timeRate p v) s = execTimeRate p v s := rfl
@[simp] theorem exec_timeSourceSilent (s : State) : exec .timeSourceSilent s = execTimeSourceSilent s := rfl
@[simp] theorem exec_tallyRead (p : Path) (s : State) : exec (.tallyRead p) s = execTallyRead p s := rfl
@[simp] theorem exec_timeRead (p : Path) (s : State) : exec (.timeRead p) s = execTimeRead p s := rfl
@[simp] theorem exec_rcCounterRead (c : CtlAccess) (s : State) :
    exec (.rcCounterRead c) s = execRcCounterRead c s := rfl
@[simp] theorem exec_registerWrite (c : CtlAccess) (v : Word) (s : State) :
    exec (.registerWrite c v) s = execRegisterWrite c v s := rfl
@[simp] theorem exec_applyArm (p : Path) (g : ApplyGroup) (s : State) :
    exec (.applyArm p g) s = execApplyArm p g s := rfl
@[simp] theorem exec_pumpRingApply (die : DieId) (b : BlockId) (pump : PumpId) (s : State) :
    exec (.pumpRingApply die b pump) s = execPumpRingApply die b pump s := rfl
@[simp] theorem exec_squareRetireApply (die : DieId) (b : BlockId) (s : State) :
    exec (.squareRetireApply die b) s = execSquareRetireApply die b s := rfl
@[simp] theorem exec_placementApply (die : DieId) (s : State) :
    exec (.placementApply die) s = execPlacementApply die s := rfl
@[simp] theorem exec_reservoirShareApply (stack : StackId) (s : State) :
    exec (.reservoirShareApply stack) s = execReservoirShareApply stack s := rfl
@[simp] theorem exec_aqueductCtrlApply (g : AqdId) (s : State) :
    exec (.aqueductCtrlApply g) s = execAqueductCtrlApply g s := rfl
@[simp] theorem exec_barrierSlotApply (h : HeadId) (slot : Fin 64) (s : State) :
    exec (.barrierSlotApply h slot) s = execBarrierSlotApply h slot s := rfl
@[simp] theorem exec_modelTableApply (m : Fin 64) (target : Option (Fin 65536)) (s : State) :
    exec (.modelTableApply m target) s = execModelTableApply m target s := rfl
@[simp] theorem exec_coreTimerApply (die : DieId) (core : CoreId) (s : State) :
    exec (.coreTimerApply die core) s = execCoreTimerApply die core s := rfl
@[simp] theorem exec_refreshTick (die : DieId) (b : BlockId) (s : State) :
    exec (.refreshTick die b) s = execRefreshTick die b s := rfl
@[simp] theorem exec_opportunisticRefresh (die : DieId) (b : BlockId) (sub : Fin 32) (s : State) :
    exec (.opportunisticRefresh die b sub) s = execOpportunisticRefresh die b sub s := rfl
@[simp] theorem exec_refreshActionEnd (die : DieId) (b : BlockId) (sub : Fin 32) (s : State) :
    exec (.refreshActionEnd die b sub) s = execRefreshActionEnd die b sub s := rfl
@[simp] theorem exec_groundRepairDone (die : DieId) (b : BlockId) (fails : Fin 4) (bad : Bool) (s : State) :
    exec (.groundRepairDone die b fails bad) s = execGroundRepairDone die b fails bad s := rfl
@[simp] theorem exec_bankPowerDown (p : Path) (die : DieId) (b : BlockId) (bank : BankId) (s : State) :
    exec (.bankPowerDown p die b bank) s = execBankPowerDown p die b bank s := rfl
@[simp] theorem exec_bankWake (p : Path) (die : DieId) (b : BlockId) (bank : BankId) (s : State) :
    exec (.bankWake p die b bank) s = execBankWake p die b bank s := rfl
@[simp] theorem exec_bankReady (die : DieId) (b : BlockId) (bank : BankId) (s : State) :
    exec (.bankReady die b bank) s = execBankReady die b bank s := rfl
@[simp] theorem exec_markWrite (p : Path) (die : DieId) (b : BlockId) (row : BitVec 15) (narrow : Bool) (gen : BitVec 3) (filled : Bool) (s : State) :
    exec (.markWrite p die b row narrow gen filled) s = execMarkWrite p die b row narrow gen filled s := rfl
@[simp] theorem exec_zeroRangeGo (p : Path) (die : DieId) (b : BlockId) (narrow : Bool) (s : State) :
    exec (.zeroRangeGo p die b narrow) s = execZeroRangeGo p die b narrow s := rfl
@[simp] theorem exec_zeroRangeDone (die : DieId) (b : LandingAt) (s : State) :
    exec (.zeroRangeDone die b) s = execZeroRangeDone die b s := rfl
@[simp] theorem exec_programStoreWrite (w : StoreWrite) (s : State) :
    exec (.programStoreWrite w) s = execProgramStoreWrite w s := rfl
@[simp] theorem exec_startTally (bad : List (DieId × BlockId × BadRead)) (s : State) :
    exec (.startTally bad) s = execStartTally bad s := rfl
@[simp] theorem exec_blockStepStart (die : DieId) (b : BlockId) (bad : List BadRead) (s : State) :
    exec (.blockStepStart die b bad) s = execBlockStepStart die b bad s := rfl
@[simp] theorem exec_zeroFillDone (die : DieId) (b : BlockId) (bad : List BadRead) (s : State) :
    exec (.zeroFillDone die b bad) s = execZeroFillDone die b bad s := rfl
@[simp] theorem exec_unitStart (die : DieId) (b : BlockId) (s : State) :
    exec (.unitStart die b) s = execUnitStart die b s := rfl
@[simp] theorem exec_blockDone (die : DieId) (b : BlockId) (s : State) :
    exec (.blockDone die b) s = execBlockDone die b s := rfl
@[simp] theorem exec_pass (die : DieId) (b : BlockId) (env : WellEnv) (s : State) :
    exec (.pass die b env) s = execPass die b env s := rfl
@[simp] theorem exec_entryComplete (die : DieId) (b : BlockId) (bad : List BadRead) (s : State) :
    exec (.entryComplete die b bad) s = execEntryComplete die b bad s := rfl
@[simp] theorem exec_tileLoadStart (die : DieId) (b : BlockId) (errs : List LineErr) (env : WellEnv) (s : State) :
    exec (.tileLoadStart die b errs env) s = execTileLoadStart die b errs env s := rfl
@[simp] theorem exec_tileReady (die : DieId) (b : BlockId) (s : State) :
    exec (.tileReady die b) s = execTileReady die b s := rfl
@[simp] theorem exec_quartetStallEnd (die : DieId) (b : BlockId) (env : WellEnv) (s : State) :
    exec (.quartetStallEnd die b env) s = execQuartetStallEnd die b env s := rfl
@[simp] theorem exec_fillMarkWaitEnd (die : DieId) (b : BlockId) (unit : Consumer) (env : PumpEnv) (s : State) :
    exec (.fillMarkWaitEnd die b unit env) s = execFillMarkWaitEnd die b unit env s := rfl
@[simp] theorem exec_readReplay (die : DieId) (b : BlockId) (unit : Consumer) (s : State) :
    exec (.readReplay die b unit) s = execReadReplay die b unit s := rfl
@[simp] theorem exec_chainIssue (die : DieId) (b : BlockId) (env : WellEnv) (s : State) :
    exec (.chainIssue die b env) s = execChainIssue die b env s := rfl
@[simp] theorem exec_chainIteration (die : DieId) (b : BlockId) (env : WellEnv) (s : State) :
    exec (.chainIteration die b env) s = execChainIteration die b env s := rfl
@[simp] theorem exec_vectorStoreLand (die : DieId) (b : LandingAt) (s : State) :
    exec (.vectorStoreLand die b) s = execVectorStoreLand die b s := rfl
@[simp] theorem exec_nop (die : DieId) (b : BlockId) (env : WellEnv) (s : State) :
    exec (.nop die b env) s = execNop die b env s := rfl
@[simp] theorem exec_end_ (die : DieId) (b : BlockId) (env : WellEnv) (s : State) :
    exec (.end_ die b env) s = execEnd die b env s := rfl
@[simp] theorem exec_loop (die : DieId) (b : BlockId) (env : WellEnv) (s : State) :
    exec (.loop die b env) s = execLoop die b env s := rfl
@[simp] theorem exec_gsig (die : DieId) (b : BlockId) (env : WellEnv) (s : State) :
    exec (.gsig die b env) s = execGsig die b env s := rfl
@[simp] theorem exec_gwait (die : DieId) (b : BlockId) (env : WellEnv) (s : State) :
    exec (.gwait die b env) s = execGwait die b env s := rfl
@[simp] theorem exec_gset (die : DieId) (b : BlockId) (env : WellEnv) (s : State) :
    exec (.gset die b env) s = execGset die b env s := rfl
@[simp] theorem exec_fence (die : DieId) (b : BlockId) (env : WellEnv) (s : State) :
    exec (.fence die b env) s = execFence die b env s := rfl
@[simp] theorem exec_eclr (die : DieId) (b : BlockId) (env : WellEnv) (s : State) :
    exec (.eclr die b env) s = execEclr die b env s := rfl
@[simp] theorem exec_edepb (die : DieId) (b : BlockId) (env : WellEnv) (s : State) :
    exec (.edepb die b env) s = execEdepb die b env s := rfl
@[simp] theorem exec_edepw (die : DieId) (b : BlockId) (env : WellEnv) (s : State) :
    exec (.edepw die b env) s = execEdepw die b env s := rfl
@[simp] theorem exec_edeps (die : DieId) (b : BlockId) (env : WellEnv) (s : State) :
    exec (.edeps die b env) s = execEdeps die b env s := rfl
@[simp] theorem exec_edept (die : DieId) (b : BlockId) (env : WellEnv) (s : State) :
    exec (.edept die b env) s = execEdept die b env s := rfl
@[simp] theorem exec_ernd (die : DieId) (b : BlockId) (env : WellEnv) (s : State) :
    exec (.ernd die b env) s = execErnd die b env s := rfl
@[simp] theorem exec_ests (die : DieId) (b : BlockId) (env : WellEnv) (s : State) :
    exec (.ests die b env) s = execEsts die b env s := rfl
@[simp] theorem exec_estt (die : DieId) (b : BlockId) (env : WellEnv) (s : State) :
    exec (.estt die b env) s = execEstt die b env s := rfl
@[simp] theorem exec_addrSet (die : DieId) (b : BlockId) (env : WellEnv) (s : State) :
    exec (.addrSet die b env) s = execAddrSet die b env s := rfl
@[simp] theorem exec_addrAdd (die : DieId) (b : BlockId) (env : WellEnv) (s : State) :
    exec (.addrAdd die b env) s = execAddrAdd die b env s := rfl
@[simp] theorem exec_addrSethi (die : DieId) (b : BlockId) (env : WellEnv) (s : State) :
    exec (.addrSethi die b env) s = execAddrSethi die b env s := rfl
@[simp] theorem exec_addrMov (die : DieId) (b : BlockId) (env : WellEnv) (s : State) :
    exec (.addrMov die b env) s = execAddrMov die b env s := rfl
@[simp] theorem exec_descriptorIssue (die : DieId) (b : BlockId) (pump : PumpId) (env : WellEnv) (s : State) :
    exec (.descriptorIssue die b pump env) s = execDescriptorIssue die b pump env s := rfl
@[simp] theorem exec_ringDoorbell (p : Path) (die : DieId) (b : BlockId) (pump : PumpId) (tail : BitVec 12) (s : State) :
    exec (.ringDoorbell p die b pump tail) s = execRingDoorbell p die b pump tail s := rfl
@[simp] theorem exec_copy (die : DieId) (b : BlockId) (pump : PumpId) (env : PumpEnv) (s : State) :
    exec (.copy die b pump env) s = execCopy die b pump env s := rfl
@[simp] theorem exec_gather (die : DieId) (b : BlockId) (pump : PumpId) (env : PumpEnv) (s : State) :
    exec (.gather die b pump env) s = execGather die b pump env s := rfl
@[simp] theorem exec_scatter (die : DieId) (b : BlockId) (pump : PumpId) (env : PumpEnv) (s : State) :
    exec (.scatter die b pump env) s = execScatter die b pump env s := rfl
@[simp] theorem exec_unskew16 (die : DieId) (b : BlockId) (pump : PumpId) (env : PumpEnv) (s : State) :
    exec (.unskew16 die b pump env) s = execUnskew16 die b pump env s := rfl
@[simp] theorem exec_skew16 (die : DieId) (b : BlockId) (pump : PumpId) (env : PumpEnv) (s : State) :
    exec (.skew16 die b pump env) s = execSkew16 die b pump env s := rfl
@[simp] theorem exec_pumpWriteLand (die : DieId) (b : LandingAt) (pump : PumpId) (queue : QueueId) (s : State) :
    exec (.pumpWriteLand die b pump queue) s = execPumpWriteLand die b pump queue s := rfl
@[simp] theorem exec_descriptorComplete (die : DieId) (b : BlockId) (pump : PumpId) (queue : QueueId) (s : State) :
    exec (.descriptorComplete die b pump queue) s = execDescriptorComplete die b pump queue s := rfl
@[simp] theorem exec_readMerge (sq : SquareAt) (m : MergeEvent) (s : State) :
    exec (.readMerge sq m) s = execReadMerge sq m s := rfl
@[simp] theorem exec_linkRetry (link : LinkId) (crc : Bool) (waiter : Option (DieId × BlockId)) (s : State) :
    exec (.linkRetry link crc waiter) s = execLinkRetry link crc waiter s := rfl
@[simp] theorem exec_bridgeLaneRetire (p : Path) (die : AnyDie) (port : Fin 4) (lane : Fin 64) (s : State) :
    exec (.bridgeLaneRetire p die port lane) s = execBridgeLaneRetire p die port lane s := rfl
@[simp] theorem exec_bridgeStateChange (die : AnyDie) (port : Fin 4) (up : Bool) (s : State) :
    exec (.bridgeStateChange die port up) s = execBridgeStateChange die port up s := rfl
@[simp] theorem exec_fountainFrameAccept (h : HeadId) (s : State) :
    exec (.fountainFrameAccept h) s = execFountainFrameAccept h s := rfl
@[simp] theorem exec_fountainAcceptance (h : HeadId) (frame : Nat) (target : Fin 64) (s : State) :
    exec (.fountainAcceptance h frame target) s = execFountainAcceptance h frame target s := rfl
@[simp] theorem exec_fountainCreditReturn (h : HeadId) (target : CreditFrom) (n : Fin 65) (s : State) :
    exec (.fountainCreditReturn h target n) s = execFountainCreditReturn h target n s := rfl
@[simp] theorem exec_fntStall (h : HeadId) (frame : Nat) (target : Fin 64) (s : State) :
    exec (.fntStall h frame target) s = execFntStall h frame target s := rfl
@[simp] theorem exec_fountainTargetRefused (h : HeadId) (frame : Nat) (target : Fin 64) (s : State) :
    exec (.fountainTargetRefused h frame target) s = execFountainTargetRefused h frame target s := rfl
@[simp] theorem exec_fntEntryCommit (p : Path) (h : HeadId) (v : Word) (s : State) :
    exec (.fntEntryCommit p h v) s = execFntEntryCommit p h v s := rfl
@[simp] theorem exec_fntListCommit (p : Path) (h : HeadId) (first : BitVec 13) (countM1 : BitVec 6) (valid : Bool) (s : State) :
    exec (.fntListCommit p h first countM1 valid) s = execFntListCommit p h first countM1 valid s := rfl
@[simp] theorem exec_signal (p : Path) (die : AnyDie) (gate : Fin 512) (n : BitVec 24) (s : State) :
    exec (.signal p die gate n) s = execSignal p die gate n s := rfl
@[simp] theorem exec_consume (p : Path) (die : AnyDie) (gate : Fin 512) (n : BitVec 24) (s : State) :
    exec (.consume p die gate n) s = execConsume p die gate n s := rfl
@[simp] theorem exec_setThresh (p : Path) (die : AnyDie) (gate : Fin 512) (n : BitVec 24) (s : State) :
    exec (.setThresh p die gate n) s = execSetThresh p die gate n s := rfl
@[simp] theorem exec_addThresh (p : Path) (die : AnyDie) (gate : Fin 512) (n : BitVec 24) (s : State) :
    exec (.addThresh p die gate n) s = execAddThresh p die gate n s := rfl
@[simp] theorem exec_reset (p : Path) (die : AnyDie) (gate : Fin 512) (s : State) :
    exec (.reset p die gate) s = execReset p die gate s := rfl
@[simp] theorem exec_hallwaitArm (p : Path) (die : AnyDie) (gate : Fin 512) (core : CoreId) (coreDie : AnyDie) (s : State) :
    exec (.hallwaitArm p die gate core coreDie) s = execHallwaitArm p die gate core coreDie s := rfl
@[simp] theorem exec_holdArrive (die : DieId) (b : BlockId) (s : State) :
    exec (.holdArrive die b) s = execHoldArrive die b s := rfl
@[simp] theorem exec_holdRelease (s : State) : exec .holdRelease s = execHoldRelease s := rfl
@[simp] theorem exec_holdResume (die : DieId) (b : BlockId) (s : State) :
    exec (.holdResume die b) s = execHoldResume die b s := rfl
@[simp] theorem exec_stepAbort (s : State) : exec .stepAbort s = execStepAbort s := rfl
@[simp] theorem exec_abortEnd (s : State) : exec .abortEnd s = execAbortEnd s := rfl
@[simp] theorem exec_stepWatchdogExpiry (s : State) : exec .stepWatchdogExpiry s = execStepWatchdogExpiry s := rfl
@[simp] theorem exec_dieStepComplete (e : DieEnd) (s : State) :
    exec (.dieStepComplete e) s = execDieStepComplete e s := rfl
@[simp] theorem exec_stepComplete (s : State) : exec .stepComplete s = execStepComplete s := rfl
@[simp] theorem exec_stepReplay (s : State) : exec .stepReplay s = execStepReplay s := rfl
@[simp] theorem exec_reservoirAccess (a : RsvArrival) (s : State) :
    exec (.reservoirAccess a) s = execReservoirAccess a s := rfl
@[simp] theorem exec_reservoirService (stack : StackId) (n : Nat) (fails : Fin 4) (s : State) :
    exec (.reservoirService stack n fails) s = execReservoirService stack n fails s := rfl
@[simp] theorem exec_pageEntryWrite (p : Path) (stack : StackId) (v : Word) (s : State) :
    exec (.pageEntryWrite p stack v) s = execPageEntryWrite p stack v s := rfl
@[simp] theorem exec_pageZeroFillDone (stack : StackId) (page : Fin 49152) (s : State) :
    exec (.pageZeroFillDone stack page) s = execPageZeroFillDone stack page s := rfl
@[simp] theorem exec_stackRefresh (stack : StackId) (s : State) :
    exec (.stackRefresh stack) s = execStackRefresh stack s := rfl
@[simp] theorem exec_conversationExpiry (conv : Nat) (s : State) :
    exec (.conversationExpiry conv) s = execConversationExpiry conv s := rfl
@[simp] theorem exec_condensingChange (s : State) : exec .condensingChange s = execCondensingChange s := rfl
@[simp] theorem exec_trainingStateDone (g : AqdId) (s : State) :
    exec (.trainingStateDone g) s = execTrainingStateDone g s := rfl
@[simp] theorem exec_trainingTimeout (g : AqdId) (s : State) :
    exec (.trainingTimeout g) s = execTrainingTimeout g s := rfl
@[simp] theorem exec_laneMapExchange (g : AqdId) (own : BitVec 8) (far : BitVec 8) (farLaser : BitVec 8) (s : State) :
    exec (.laneMapExchange g own far farLaser) s = execLaneMapExchange g own far farLaser s := rfl
@[simp] theorem exec_mapRetryWait (g : AqdId) (s : State) : exec (.mapRetryWait g) s = execMapRetryWait g s := rfl
@[simp] theorem exec_laserSample (h : HeadId) (input : LaserInput) (power : BitVec 16) (s : State) :
    exec (.laserSample h input power) s = execLaserSample h input power s := rfl
@[simp] theorem exec_laserRestored (h : HeadId) (input : LaserInput) (s : State) :
    exec (.laserRestored h input) s = execLaserRestored h input s := rfl
@[simp] theorem exec_codewordNack (g : AqdId) (e : PairEvent) (s : State) :
    exec (.codewordNack g e) s = execCodewordNack g e s := rfl
@[simp] theorem exec_linkAck (g : AqdId) (n : Nat) (m : LinkMsg) (s : State) :
    exec (.linkAck g n m) s = execLinkAck g n m s := rfl
@[simp] theorem exec_errorCountRelease (g : AqdId) (s : State) :
    exec (.errorCountRelease g) s = execErrorCountRelease g s := rfl
@[simp] theorem exec_laneRetireReq (p : Path) (g : AqdId) (lanes : BitVec 8) (s : State) :
    exec (.laneRetireReq p g lanes) s = execLaneRetireReq p g lanes s := rfl
@[simp] theorem exec_laneMapSwitch (g : AqdId) (far : Option (BitVec 8 × Fin 65536)) (s : State) :
    exec (.laneMapSwitch g far) s = execLaneMapSwitch g far s := rfl
@[simp] theorem exec_laneLoss (g : AqdId) (lane : Fin 8) (s : State) :
    exec (.laneLoss g lane) s = execLaneLoss g lane s := rfl
@[simp] theorem exec_ethFrameRx (g : AqdId) (frame : List Byte) (s : State) :
    exec (.ethFrameRx g frame) s = execEthFrameRx g frame s := rfl
@[simp] theorem exec_hello (g : AqdId) (msg : Option HelloMsg) (s : State) :
    exec (.hello g msg) s = execHello g msg s := rfl
@[simp] theorem exec_write (hdr : FrameHdr) (w : WindowHdr) (bytes : List Byte) (s : State) :
    exec (.write hdr w bytes) s = execWrite hdr w bytes s := rfl
@[simp] theorem exec_writeLanded (n : Nat) (s : State) : exec (.writeLanded n) s = execWriteLanded n s := rfl
@[simp] theorem exec_readReq (hdr : FrameHdr) (w : WindowHdr) (lenM1 : Fin 4096) (pump : PumpId) (bad : List BadRead) (s : State) :
    exec (.readReq hdr w lenM1 pump bad) s = execReadReq hdr w lenM1 pump bad s := rfl
@[simp] theorem exec_readResp (hdr : FrameHdr) (w : WindowHdr) (bytes : List Byte) (s : State) :
    exec (.readResp hdr w bytes) s = execReadResp hdr w bytes s := rfl
@[simp] theorem exec_ack (x : ExpressHdr) (records : List AckRecord) (s : State) :
    exec (.ack x records) s = execAck x records s := rfl
@[simp] theorem exec_creditReq (x : ExpressHdr) (xid : Fin 65536) (window : Fin 4096) (gen : Fin 65536) (wanted : Fin 65) (s : State) :
    exec (.creditReq x xid window gen wanted) s = execCreditReq x xid window gen wanted s := rfl
@[simp] theorem exec_credit (x : ExpressHdr) (xid : Fin 65536) (window : Fin 4096) (gen : Fin 65536) (n : Fin 65) (s : State) :
    exec (.credit x xid window gen n) s = execCredit x xid window gen n s := rfl
@[simp] theorem exec_gateOp (x : ExpressHdr) (xid : Fin 65536) (gate : Fin 512) (opc : BitVec 3) (v : BitVec 24) (s : State) :
    exec (.gateOp x xid gate opc v) s = execGateOp x xid gate opc v s := rfl
@[simp] theorem exec_gateAck (x : ExpressHdr) (xid : Fin 65536) (status : Byte) (s : State) :
    exec (.gateAck x xid status) s = execGateAck x xid status s := rfl
@[simp] theorem exec_mbxPart (x : ExpressHdr) (xid : Fin 65536) (mailbox : Fin 64) (part : Fin 2) (bytes : Vector Byte 32) (s : State) :
    exec (.mbxPart x xid mailbox part bytes) s = execMbxPart x xid mailbox part bytes s := rfl
@[simp] theorem exec_mbxAck (x : ExpressHdr) (xid : Fin 65536) (status : Byte) (s : State) :
    exec (.mbxAck x xid status) s = execMbxAck x xid status s := rfl
@[simp] theorem exec_abort (x : ExpressHdr) (number : BitVec 64) (group : Fin 65536) (s : State) :
    exec (.abort x number group) s = execAbort x number group s := rfl
@[simp] theorem exec_expressFlitDrop (e : DropEvent) (s : State) :
    exec (.expressFlitDrop e) s = execExpressFlitDrop e s := rfl
@[simp] theorem exec_windowOpen (p : Path) (h : HeadId) (s : State) :
    exec (.windowOpen p h) s = execWindowOpen p h s := rfl
@[simp] theorem exec_windowClose (p : Path) (h : HeadId) (s : State) :
    exec (.windowClose p h) s = execWindowClose p h s := rfl
@[simp] theorem exec_windowDrained (window : Fin 4096) (h : HeadId) (s : State) :
    exec (.windowDrained window h) s = execWindowDrained window h s := rfl
@[simp] theorem exec_transactionTimeout (n : Nat) (s : State) :
    exec (.transactionTimeout n) s = execTransactionTimeout n s := rfl
@[simp] theorem exec_discoverySend (s : State) : exec .discoverySend s = execDiscoverySend s := rfl
@[simp] theorem exec_discoveryReceive (hdr : FrameHdr) (r : DiscoveryRecord) (s : State) :
    exec (.discoveryReceive hdr r) s = execDiscoveryReceive hdr r s := rfl
@[simp] theorem exec_rosterPublish (s : State) : exec .rosterPublish s = execRosterPublish s := rfl
@[simp] theorem exec_rosterReceive (hdr : FrameHdr) (l : List DiscoveryRecord) (s : State) :
    exec (.rosterReceive hdr l) s = execRosterReceive hdr l s := rfl
@[simp] theorem exec_partnerSilent (fa : Fin 65536) (s : State) :
    exec (.partnerSilent fa) s = execPartnerSilent fa s := rfl
@[simp] theorem exec_groupForm (m : GroupFormMsg) (s : State) : exec (.groupForm m) s = execGroupForm m s := rfl
@[simp] theorem exec_groupJoin (hdr : FrameHdr) (num : Fin 65536) (gen : Fin 65536) (edition : Fin 65536) (lo : Fin 256) (hi : Fin 256) (s : State) :
    exec (.groupJoin hdr num gen edition lo hi) s = execGroupJoin hdr num gen edition lo hi s := rfl
@[simp] theorem exec_groupCommit (hdr : FrameHdr) (num : Fin 65536) (gen : Fin 65536) (version : Fin 256) (members : List (Fin 65536)) (s : State) :
    exec (.groupCommit hdr num gen version members) s = execGroupCommit hdr num gen version members s := rfl
@[simp] theorem exec_arrive (x : ExpressHdr) (slot : Fin 64) (group : Fin 65536) (ggen : Fin 65536) (seq : Fin 65536) (pay : Word) (s : State) :
    exec (.arrive x slot group ggen seq pay) s = execArrive x slot group ggen seq pay s := rfl
@[simp] theorem exec_release (x : ExpressHdr) (slot : Fin 64) (group : Fin 65536) (ggen : Fin 65536) (seq : Fin 65536) (pay : Word) (s : State) :
    exec (.release x slot group ggen seq pay) s = execRelease x slot group ggen seq pay s := rfl
@[simp] theorem exec_barrierGenerationWrite (p : Path) (h : HeadId) (slot : Fin 64) (ggen : Fin 65536) (s : State) :
    exec (.barrierGenerationWrite p h slot ggen) s = execBarrierGenerationWrite p h slot ggen s := rfl
@[simp] theorem exec_snapshotDrainDone (s : State) : exec .snapshotDrainDone s = execSnapshotDrainDone s := rfl
@[simp] theorem exec_snapshotDrainTimeout (s : State) : exec .snapshotDrainTimeout s = execSnapshotDrainTimeout s := rfl
@[simp] theorem exec_request (conn : ClientConn) (r : RequestIn) (s : State) :
    exec (.request conn r) s = execRequest conn r s := rfl
@[simp] theorem exec_cancelRecord (conn : ClientConn) (bytes : List Byte) (s : State) :
    exec (.cancelRecord conn bytes) s = execCancelRecord conn bytes s := rfl
@[simp] theorem exec_rstStream (g : AqdId) (conn : Nat) (stream : Nat) (s : State) :
    exec (.rstStream g conn stream) s = execRstStream g conn stream s := rfl
@[simp] theorem exec_cancel (x : ExpressHdr) (reqId : BitVec 64) (tenant : Fin 65536) (slot : Fin 65536) (kind : Byte) (s : State) :
    exec (.cancel x reqId tenant slot kind) s = execCancel x reqId tenant slot kind s := rfl
@[simp] theorem exec_deadlineExpiry (slot : Fin 65536) (s : State) :
    exec (.deadlineExpiry slot) s = execDeadlineExpiry slot s := rfl
@[simp] theorem exec_activeMaskLoad (die : DieId) (b : BlockId) (s : State) :
    exec (.activeMaskLoad die b) s = execActiveMaskLoad die b s := rfl
@[simp] theorem exec_commitPoint (s : State) : exec .commitPoint s = execCommitPoint s := rfl
@[simp] theorem exec_hold (m : HoldMsg) (s : State) : exec (.hold m) s = execHold m s := rfl
@[simp] theorem exec_holdAck (hdr : FrameHdr) (slot : Fin 65536) (refused : Bool) (s : State) :
    exec (.holdAck hdr slot refused) s = execHoldAck hdr slot refused s := rfl
@[simp] theorem exec_released (hdr : FrameHdr) (slot : Fin 65536) (s : State) :
    exec (.released hdr slot) s = execReleased hdr slot s := rfl
@[simp] theorem exec_migrate (hdr : FrameHdr) (m : MigrateMsg) (s : State) :
    exec (.migrate hdr m) s = execMigrate hdr m s := rfl
@[simp] theorem exec_relay (hdr : FrameHdr) (slot : Fin 65536) (bytes : List Byte) (s : State) :
    exec (.relay hdr slot bytes) s = execRelay hdr slot bytes s := rfl
@[simp] theorem exec_ctlRead (hdr : FrameHdr) (a : Word) (s : State) :
    exec (.ctlRead hdr a) s = execCtlRead hdr a s := rfl
@[simp] theorem exec_ctlWrite (hdr : FrameHdr) (a : Word) (v : Word) (s : State) :
    exec (.ctlWrite hdr a v) s = execCtlWrite hdr a v s := rfl
@[simp] theorem exec_ctlResp (hdr : FrameHdr) (a : Word) (status : Byte) (v : Word) (s : State) :
    exec (.ctlResp hdr a status v) s = execCtlResp hdr a status v s := rfl
@[simp] theorem exec_windowReady (hdr : FrameHdr) (window : Fin 65536) (gen : Fin 65536) (piece : Word) (digest8 : Vector Byte 8) (s : State) :
    exec (.windowReady hdr window gen piece digest8) s = execWindowReady hdr window gen piece digest8 s := rfl
@[simp] theorem exec_pageRequest (hdr : FrameHdr) (m : PageMsg) (s : State) :
    exec (.pageRequest hdr m) s = execPageRequest hdr m s := rfl
@[simp] theorem exec_pageRefused (hdr : FrameHdr) (m : PageMsg) (s : State) :
    exec (.pageRefused hdr m) s = execPageRefused hdr m s := rfl
@[simp] theorem exec_tenantSet (route : TenantRoute) (identity : List Byte) (tag : Fin 65536) (s : State) :
    exec (.tenantSet route identity tag) s = execTenantSet route identity tag s := rfl
@[simp] theorem exec_modelPart (stamp : Word) (msg : Vector Byte 64) (s : State) :
    exec (.modelPart stamp msg) s = execModelPart stamp msg s := rfl
@[simp] theorem exec_modelCommit (stamp : Word) (msg : Vector Byte 64) (s : State) :
    exec (.modelCommit stamp msg) s = execModelCommit stamp msg s := rfl
@[simp] theorem exec_modelRemove (stamp : Word) (msg : Vector Byte 64) (s : State) :
    exec (.modelRemove stamp msg) s = execModelRemove stamp msg s := rfl
@[simp] theorem exec_retire (stamp : Word) (msg : Vector Byte 64) (s : State) :
    exec (.retire stamp msg) s = execRetire stamp msg s := rfl
@[simp] theorem exec_manifestCheck (m : Fin 64) (slice : Fin 65536) (bytes : List Byte) (s : State) :
    exec (.manifestCheck m slice bytes) s = execManifestCheck m slice bytes s := rfl
@[simp] theorem exec_shardStaged (m : Fin 64) (shard : Nat) (a : ShardArrival) (s : State) :
    exec (.shardStaged m shard a) s = execShardStaged m shard a s := rfl
@[simp] theorem exec_shardDigestDone (m : Fin 64) (shard : Nat) (s : State) :
    exec (.shardDigestDone m shard) s = execShardDigestDone m shard s := rfl
@[simp] theorem exec_shardPlace (m : Fin 64) (shard : Nat) (s : State) :
    exec (.shardPlace m shard) s = execShardPlace m shard s := rfl
@[simp] theorem exec_scrubInterval (page : PageRef) (s : State) :
    exec (.scrubInterval page) s = execScrubInterval page s := rfl
@[simp] theorem exec_scrubRunStart (p : Path) (die : DieId) (b : BlockId) (gap : Byte) (errs : List LineErr) (s : State) :
    exec (.scrubRunStart p die b gap errs) s = execScrubRunStart p die b gap errs s := rfl
@[simp] theorem exec_scrubRunDone (die : DieId) (b : BlockId) (s : State) :
    exec (.scrubRunDone die b) s = execScrubRunDone die b s := rfl
@[simp] theorem exec_pageRepair (page : PageRef) (env : RepairEnv) (s : State) :
    exec (.pageRepair page env) s = execPageRepair page env s := rfl
@[simp] theorem exec_attestRequest (g : AqdId) (conn : Nat) (stream : Nat) (nonce : Vector Byte 64) (s : State) :
    exec (.attestRequest g conn stream nonce) s = execAttestRequest g conn stream nonce s := rfl
@[simp] theorem exec_attestSigned (s : State) : exec .attestSigned s = execAttestSigned s := rfl
@[simp] theorem exec_txGo (p : Path) (die : DieId) (inst : Fin 6) (buffer : Fin 4) (s : State) :
    exec (.txGo p die inst buffer) s = execTxGo p die inst buffer s := rfl
@[simp] theorem exec_mbxDrain (p : Path) (die : DieId) (mailbox : Fin 64) (seq : Byte) (s : State) :
    exec (.mbxDrain p die mailbox seq) s = execMbxDrain p die mailbox seq s := rfl
@[simp] theorem exec_mailboxTimeout (die : DieId) (mailbox : Fin 64) (s : State) :
    exec (.mailboxTimeout die mailbox) s = execMailboxTimeout die mailbox s := rfl
@[simp] theorem exec_mbxEnableClear (p : Path) (die : DieId) (mailbox : Fin 64) (s : State) :
    exec (.mbxEnableClear p die mailbox) s = execMbxEnableClear p die mailbox s := rfl
@[simp] theorem exec_heartbeat (s : State) : exec .heartbeat s = execHeartbeat s := rfl
@[simp] theorem exec_coordinatorTakeover (s : State) : exec .coordinatorTakeover s = execCoordinatorTakeover s := rfl
@[simp] theorem exec_i3cRead (bytes : List Byte) (s : State) : exec (.i3cRead bytes) s = execI3cRead bytes s := rfl
@[simp] theorem exec_i3cWrite (bytes : List Byte) (s : State) : exec (.i3cWrite bytes) s = execI3cWrite bytes s := rfl
@[simp] theorem exec_i3cResult (s : State) : exec .i3cResult s = execI3cResult s := rfl
@[simp] theorem exec_getpid (s : State) : exec .getpid s = execGetpid s := rfl
@[simp] theorem exec_setdasa (static : Fin 128) (dyn : Fin 128) (s : State) :
    exec (.setdasa static dyn) s = execSetdasa static dyn s := rfl
@[simp] theorem exec_entdaa (dyn : Fin 128) (s : State) : exec (.entdaa dyn) s = execEntdaa dyn s := rfl
@[simp] theorem exec_tapReset (s : State) : exec .tapReset s = execTapReset s := rfl
@[simp] theorem exec_extest (pins : Vector Bool 49) (scan : Vector Bool 147) (s : State) :
    exec (.extest pins scan) s = execExtest pins scan s := rfl
@[simp] theorem exec_samplePreload (pins : Vector Bool 49) (scan : Vector Bool 147) (s : State) :
    exec (.samplePreload pins scan) s = execSamplePreload pins scan s := rfl
@[simp] theorem exec_idcode (s : State) : exec .idcode s = execIdcode s := rfl
@[simp] theorem exec_bypass (code : Byte) (scan : List Bool) (s : State) :
    exec (.bypass code scan) s = execBypass code scan s := rfl
@[simp] theorem exec_ctlAccessRead (a : Word) (s : State) : exec (.ctlAccessRead a) s = execCtlAccessRead a s := rfl
@[simp] theorem exec_ctlAccessWrite (a : Word) (v : Word) (s : State) :
    exec (.ctlAccessWrite a v) s = execCtlAccessWrite a v s := rfl
@[simp] theorem exec_retirementDecision (s : State) : exec .retirementDecision s = execRetirementDecision s := rfl
@[simp] theorem exec_gateRehome (p : Path) (die : DieId) (blocks : BitVec 24) (s : State) :
    exec (.gateRehome p die blocks) s = execGateRehome p die blocks s := rfl
@[simp] theorem exec_selftestSlice (die : DieId) (b : BlockId) (pass : Bool) (s : State) :
    exec (.selftestSlice die b pass) s = execSelftestSlice die b pass s := rfl
@[simp] theorem exec_selftestInterval (die : DieId) (b : BlockId) (s : State) :
    exec (.selftestInterval die b) s = execSelftestInterval die b s := rfl
@[simp] theorem exec_reservoirTestStart (p : Path) (s : State) :
    exec (.reservoirTestStart p) s = execReservoirTestStart p s := rfl
@[simp] theorem exec_liveUpdate (u : UpdateInput) (s : State) : exec (.liveUpdate u) s = execLiveUpdate u s := rfl
@[simp] theorem exec_machineTimerInterrupt (die : DieId) (core : CoreId) (s : State) :
    exec (.machineTimerInterrupt die core) s = execMachineTimerInterrupt die core s := rfl
@[simp] theorem exec_wellApertureWrite (die : DieId) (core : CoreId) (mode : CoreMode) (off : BitVec 34) (bytes : List Byte) (env : WellEnv) (s : State) :
    exec (.wellApertureWrite die core mode off bytes env) s = execWellApertureWrite die core mode off bytes env s := rfl
@[simp] theorem exec_programStoreRead (p : Path) (die : DieId) (b : BlockId) (s : State) :
    exec (.programStoreRead p die b) s = execProgramStoreRead p die b s := rfl
@[simp] theorem exec_reservoirTestDone (bad : List (Fin 393216)) (s : State) :
    exec (.reservoirTestDone bad) s = execReservoirTestDone bad s := rfl
@[simp] theorem exec_refusedRead (c : CtlAccess) (s : State) : exec (.refusedRead c) s = execRefusedRead c s := rfl

end Sys2Proof.Machine
end

