-- ==== Sys2Proof/Laws/Map.lean ====
section
/-! SUPPORT. Laws/Map: what reading a sparse map finds after a change, and that every change keeps its keys rising. -/

namespace Sys2Proof.Machine

variable {α : Type}

@[simp] theorem mget_nil (k : Nat) : mget ([] : SMap α) k = none := rfl

/-- The entry that was put is found. -/
@[simp] theorem mget_mset_self (m : SMap α) (k : Nat) (v : α) : mget (mset m k v) k = some v := by
  induction m with
  | nil => simp [mset, mget]
  | cons e m ih =>
    obtain ⟨i, x⟩ := e
    simp only [mset]
    split
    · simp [mget]
    · split
      · simp [mget]
      · simp_all [mget]

/-- Every other entry stays. -/
theorem mget_mset_ne (m : SMap α) {k j : Nat} (h : j ≠ k) (v : α) : mget (mset m k v) j = mget m j := by
  induction m with
  | nil => simp [mset, mget, h]
  | cons e m ih =>
    obtain ⟨i, x⟩ := e
    simp only [mset]
    split
    · simp [mget, h]
    · split
      · subst_vars; simp [mget, h]
      · simp [mget, ih]

@[simp] theorem mgetD_mset_self (m : SMap α) (k : Nat) (v x : α) : mgetD (mset m k v) k x = v := by simp [mgetD]

theorem mgetD_mset_ne (m : SMap α) {k j : Nat} (h : j ≠ k) (v x : α) : mgetD (mset m k v) j x = mgetD m j x := by
  simp [mgetD, mget_mset_ne m h]

/-- The rising keys of a map, as a proposition. -/
theorem mapWf_iff (m : SMap α) : mapWf m = true ↔ (m.map Prod.fst).Pairwise (· < ·) := by simp [mapWf]

theorem mem_keys_mset {m : SMap α} {k j : Nat} {v : α} (h : j ∈ (mset m k v).map Prod.fst) :
    j = k ∨ j ∈ m.map Prod.fst := by
  induction m with
  | nil => simpa [mset] using h
  | cons e m ih =>
    obtain ⟨i, x⟩ := e
    simp only [mset] at h
    split at h
    · simp only [List.map_cons, List.mem_cons] at h ⊢; tauto
    · split at h
      · simp only [List.map_cons, List.mem_cons] at h ⊢; tauto
      · simp only [List.map_cons, List.mem_cons] at h ⊢
        rcases h with h | h
        · exact .inr (.inl h)
        · rcases ih h with h | h
          · exact .inl h
          · exact .inr (.inr h)

/-- Putting an entry keeps the keys rising. -/
theorem mapWf_mset {m : SMap α} (h : mapWf m = true) (k : Nat) (v : α) : mapWf (mset m k v) = true := by
  rw [mapWf_iff] at *
  induction m with
  | nil => simp [mset]
  | cons e m ih =>
    obtain ⟨i, x⟩ := e
    simp only [List.map_cons, List.pairwise_cons] at h
    simp only [mset]
    split
    · simp only [List.map_cons, List.pairwise_cons, List.mem_cons]
      refine ⟨fun a ha => ?_, h.1, h.2⟩
      rcases ha with rfl | ha
      · assumption
      · exact lt_trans ‹_› (h.1 a ha)
    · split
      · subst_vars; simpa using ⟨fun a x hx => h.1 a (by simpa using ⟨x, hx⟩), h.2⟩
      · simp only [List.map_cons, List.pairwise_cons]
        refine ⟨fun a ha => ?_, ih h.2⟩
        rcases mem_keys_mset ha with rfl | ha
        · omega
        · exact h.1 a ha

theorem mapWf_filter {m : SMap α} (h : mapWf m = true) (p : Nat × α → Bool) : mapWf (m.filter p) = true := by
  rw [mapWf_iff] at *
  exact h.sublist (List.filter_sublist.map _)

/-- Taking an entry away keeps the keys rising. -/
theorem mapWf_mdel {m : SMap α} (h : mapWf m = true) (k : Nat) : mapWf (mdel m k) = true := mapWf_filter h _

/-- Taking a range of keys away keeps the keys rising. -/
theorem mapWf_mdelRange {m : SMap α} (h : mapWf m = true) (lo n : Nat) : mapWf (mdelRange m lo n) = true :=
  mapWf_filter h _

theorem mget_filter_of_pos (m : SMap α) (p : Nat → Bool) {k : Nat} (h : p k = true) :
    mget (m.filter fun e => p e.1) k = mget m k := by
  induction m with
  | nil => rfl
  | cons e m ih =>
    obtain ⟨i, x⟩ := e
    by_cases hp : p i = true
    · simp_all [mget]
    · by_cases hk : k = i
      · subst hk; simp_all
      · simp_all [mget]

theorem mget_filter_of_neg (m : SMap α) (p : Nat → Bool) {k : Nat} (h : p k = false) :
    mget (m.filter fun e => p e.1) k = none := by
  induction m with
  | nil => rfl
  | cons e m ih =>
    obtain ⟨i, x⟩ := e
    by_cases hp : p i = true
    · have : k ≠ i := by rintro rfl; simp_all
      simp_all [mget]
    · simp_all

/-- A key that was taken away is not listed. -/
@[simp] theorem mget_mdel_self (m : SMap α) (k : Nat) : mget (mdel m k) k = none :=
  mget_filter_of_neg m (· != k) (by simp)

theorem mget_mdel_ne (m : SMap α) {k j : Nat} (h : j ≠ k) : mget (mdel m k) j = mget m j :=
  mget_filter_of_pos m (· != k) (by simpa using h)

theorem mget_append (l m : SMap α) (k : Nat) : mget (l ++ m) k = (mget l k).or (mget m k) := by
  induction l with
  | nil => simp
  | cons e l ih =>
    obtain ⟨i, x⟩ := e
    by_cases h : k = i <;> simp_all [mget]

theorem mget_eq_none_of (m : SMap α) (k : Nat) (h : ∀ e ∈ m, e.1 ≠ k) : mget m k = none := by
  induction m with
  | nil => rfl
  | cons e m ih =>
    obtain ⟨i, x⟩ := e
    have : k ≠ i := fun hk => h (i, x) (by simp) hk.symm
    simp_all [mget]

end Sys2Proof.Machine
end

