-- ==== Sys2Proof/Laws/Mem.lean ====
section
/-! SUPPORT. Laws/Mem: reading a byte memory after a write, a zero-fill or a loss of contents, and that each of them keeps
the canonical form. -/

namespace Sys2Proof.Machine

/-! ## Reads -/

theorem mget_memSlice (m : Mem) {a n k : Nat} (h1 : a ≤ k) (h2 : k < a + n) : mget (memSlice m a n) k = mget m.cells k :=
  mget_filter_of_pos m.cells (fun i => a ≤ i && i < a + n) (by simp; omega)

/-- A read is the bytes of its addresses. -/
theorem memRead_eq (epoch unit : Nat) (m : Mem) (a n : Nat) :
    memRead epoch unit m a n = (List.range n).map fun i => memByte epoch unit m (a + i) := by
  unfold memRead
  refine List.map_congr_left fun i hi => ?_
  have hi := List.mem_range.1 hi
  simp only [memByte]
  rw [mget_memSlice m (by omega) (by omega)]
  rfl

@[simp] theorem memRead_length (epoch unit : Nat) (m : Mem) (a n : Nat) : (memRead epoch unit m a n).length = n := by
  simp [memRead]

/-! ## The cells that a write makes -/

theorem mem_mergeCells {old : List Host.Cell} {bs : List (Option Byte)} {a : Nat} {c : Host.Cell}
    (h : c ∈ mergeCells old a bs) : a ≤ c.1 ∧ c.1 < a + bs.length := by
  induction bs generalizing a with
  | nil => simp [mergeCells] at h
  | cons o os ih =>
    simp only [mergeCells, List.mem_append, List.mem_map] at h
    rcases h with ⟨b, -, rfl⟩ | h
    · simp
    · have := ih h
      simp only [List.length_cons]
      omega

theorem mapWf_mergeCells (old : List Host.Cell) (bs : List (Option Byte)) (a : Nat) :
    mapWf (mergeCells old a bs) = true := by
  rw [mapWf_iff]
  induction bs generalizing a with
  | nil => simp [mergeCells]
  | cons o os ih =>
    simp only [mergeCells, List.map_append, List.pairwise_append]
    refine ⟨?_, ih (a + 1), fun x hx y hy => ?_⟩
    · have : ((o.toList ++ (mget old a).toList).take 1).length ≤ 1 := by simp
      match (o.toList ++ (mget old a).toList).take 1, this with
      | [], _ => simp
      | [b], _ => simp
    · simp only [List.map_map, List.mem_map, Function.comp] at hx
      obtain ⟨b, -, rfl⟩ := hx
      obtain ⟨c, hc, rfl⟩ := List.mem_map.1 hy
      have := (mem_mergeCells hc).1
      show a < c.1
      omega

theorem mget_mergeCells (old : List Host.Cell) (bs : List (Option Byte)) (a i : Nat) (h : i < bs.length) :
    mget (mergeCells old a bs) (a + i) = (bs[i]).or (mget old (a + i)) := by
  induction bs generalizing a i with
  | nil => simp at h
  | cons o os ih =>
    simp only [mergeCells, mget_append]
    match i with
    | 0 =>
      have : mget (mergeCells old (a + 1) os) (a + 0) = none :=
        mget_eq_none_of _ _ fun e he => by have := (mem_mergeCells he).1; omega
      rw [this]
      cases o with
      | some b => simp [mget]
      | none =>
        cases mget old a <;> simp [mget]
    | i + 1 =>
      have h0 : mget (((o.toList ++ (mget old a).toList).take 1).map fun b => (a, b)) (a + (i + 1)) = none :=
        mget_eq_none_of _ _ fun e he => by
          obtain ⟨b, -, rfl⟩ := List.mem_map.1 he
          show a ≠ a + (i + 1)
          omega
      have := ih (a + 1) i (by simpa using h)
      rw [h0, Option.none_or, show a + (i + 1) = a + 1 + i by omega, this]
      simp

/-- Leaving out the cells that a predicate refuses, of a map with rising keys. -/
theorem mget_filter_val {α : Type} {m : SMap α} (hw : mapWf m = true) (p : Nat × α → Bool) (k : Nat) :
    mget (m.filter p) k = (mget m k).filter fun v => p (k, v) := by
  rw [mapWf_iff] at hw
  induction m with
  | nil => rfl
  | cons e m ih =>
    obtain ⟨i, x⟩ := e
    simp only [List.map_cons, List.pairwise_cons] at hw
    have ih := ih hw.2
    by_cases hk : k = i
    · subst hk
      by_cases hp : p (k, x) = true
      · simp [mget, hp, Option.filter]
      · have : mget (m.filter p) k = none :=
          mget_eq_none_of _ _ fun e he => by
            have := hw.1 e.1 (List.mem_map.2 ⟨e, (List.mem_filter.1 he).1, rfl⟩)
            omega
        simp [mget, hp, Option.filter, this]
    · by_cases hp : p (i, x) = true <;> simp [mget, hp, hk, ih]

/-! ## Reading after a write -/

/-- The bytes that a write leaves as they stand. -/
theorem memByte_memWriteOpt_out (epoch unit : Nat) (m : Mem) (a : Nat) (bs : List (Option Byte)) {k : Nat}
    (h : k < a ∨ a + bs.length ≤ k) : memByte epoch unit (memWriteOpt m a bs) k = memByte epoch unit m k := by
  have hmid : ∀ old, mget ((mergeCells old a bs).filter fun c => memKnown m c.1 != some c.2) k = none := fun old =>
    mget_eq_none_of _ _ fun e he => by have := mem_mergeCells (List.mem_filter.1 he).1; omega
  simp only [memByte, memWriteOpt, mget_append, hmid]
  show (Option.or _ (memKnown m k)).getD _ = _
  congr 2
  rcases h with h | h
  · have h1 : mget (m.cells.filter fun c => decide (c.1 < a)) k = mget m.cells k :=
      mget_filter_of_pos m.cells (fun i => decide (i < a)) (by simpa using h)
    have h2 : mget (m.cells.filter fun c => decide (a + bs.length ≤ c.1)) k = none :=
      mget_filter_of_neg m.cells (fun i => decide (a + bs.length ≤ i)) (by simp; omega)
    simp [h1, h2]
  · have h1 : mget (m.cells.filter fun c => decide (c.1 < a)) k = none :=
      mget_filter_of_neg m.cells (fun i => decide (i < a)) (by simp; omega)
    have h2 : mget (m.cells.filter fun c => decide (a + bs.length ≤ c.1)) k = mget m.cells k :=
      mget_filter_of_pos m.cells (fun i => decide (a + bs.length ≤ i)) (by simpa using h)
    simp [h1, h2]

/-- A byte that a write names is found; one that it leaves as it stands is found as before. -/
theorem memByte_memWriteOpt_in (epoch unit : Nat) (m : Mem) (a i : Nat) (bs : List (Option Byte)) (h : i < bs.length) :
    memByte epoch unit (memWriteOpt m a bs) (a + i) = (bs[i]).getD (memByte epoch unit m (a + i)) := by
  have h1 : mget (m.cells.filter fun c => decide (c.1 < a)) (a + i) = none :=
    mget_filter_of_neg m.cells (fun j => decide (j < a)) (by simp)
  have h2 : mget (m.cells.filter fun c => decide (a + bs.length ≤ c.1)) (a + i) = none :=
    mget_filter_of_neg m.cells (fun j => decide (a + bs.length ≤ j)) (by simp; omega)
  simp only [memByte, memWriteOpt, mget_append, h1, h2, Option.none_or, Option.or_none]
  rw [mget_filter_val (mapWf_mergeCells _ _ _), mget_mergeCells _ _ _ _ h, mget_memSlice m (by omega) (by omega)]
  show (Option.or _ (memKnown m (a + i))).getD _ = _
  cases hb : bs[i] with
  | some b =>
    by_cases hk : memKnown m (a + i) = some b <;> simp [Option.filter, hk]
  | none =>
    cases hm : mget m.cells (a + i) with
    | none => simp [Option.filter]
    | some b =>
      by_cases hk : memKnown m (a + i) = some b <;> simp [Option.filter, hk]

/-- Reading where bytes were written gives them back. -/
theorem memRead_memWrite (epoch unit : Nat) (m : Mem) (a : Nat) (bs : List Byte) :
    memRead epoch unit (memWrite m a bs) a bs.length = bs := by
  rw [memRead_eq]
  refine List.ext_getElem (by simp) fun i h1 h2 => ?_
  simp only [List.getElem_map, List.getElem_range, memWrite]
  rw [memByte_memWriteOpt_in epoch unit m a i _ (by simpa using h2)]
  simp

/-- Bytes outside those written stay. -/
theorem memByte_memWrite_out (epoch unit : Nat) (m : Mem) (a : Nat) (bs : List Byte) {k : Nat}
    (h : k < a ∨ a + bs.length ≤ k) : memByte epoch unit (memWrite m a bs) k = memByte epoch unit m k :=
  memByte_memWriteOpt_out epoch unit m a _ (by simpa using h)

/-! ## Zero-fill -/

theorem ivHas_append (l m : List (Nat × Nat)) (a : Nat) : ivHas (l ++ m) a = (ivHas l a || ivHas m a) := by
  simp [ivHas]

theorem ivHas_iff (l : List (Nat × Nat)) (a : Nat) : ivHas l a = true ↔ ∃ p ∈ l, p.1 ≤ a ∧ a < p.2 := by
  simp [ivHas]

/-- A zero-filled address reads zero. -/
theorem memByte_memZero_in (epoch unit : Nat) (m : Mem) {a n k : Nat} (h1 : a ≤ k) (h2 : k < a + n) :
    memByte epoch unit (memZero m a n) k = 0 := by
  have hc : mget (m.cells.filter fun c => decide (c.1 < a) || decide (a + n ≤ c.1)) k = none :=
    mget_filter_of_neg m.cells (fun i => decide (i < a) || decide (a + n ≤ i)) (by simp; omega)
  have hz : memKnown (memZero m a n) k = some 0 := by
    unfold memKnown
    rw [if_pos]
    simp only [memZero, ivHas_iff, ivAdd]
    rw [if_neg (by omega)]
    have hmin : ∀ (l : List (Nat × Nat)) (z : Nat), l.foldl (fun m p => min m p.1) z ≤ z := fun l => by
      induction l with
      | nil => simp
      | cons p l ih => intro z; exact le_trans (ih _) (min_le_left _ _)
    have hmax : ∀ (l : List (Nat × Nat)) (z : Nat), z ≤ l.foldl (fun m p => max m p.2) z := fun l => by
      induction l with
      | nil => simp
      | cons p l ih => intro z; exact le_trans (le_max_left _ _) (ih _)
    exact ⟨_, List.mem_append_right _ (List.mem_cons_self ..), le_trans (hmin _ _) h1, lt_of_lt_of_le h2 (hmax _ _)⟩
  simp only [memByte, hz]
  simp only [memZero, hc]
  rfl

/-! ## The canonical form -/

theorem ivWf_iff (l : List (Nat × Nat)) :
    ivWf l = true ↔ (∀ p ∈ l, p.1 < p.2) ∧ l.Pairwise fun p q => p.2 < q.1 := by
  simp [ivWf]

theorem foldl_min_le (l : List (Nat × Nat)) (z : Nat) :
    l.foldl (fun m p => min m p.1) z = z ∨ ∃ p ∈ l, l.foldl (fun m p => min m p.1) z = p.1 := by
  induction l generalizing z with
  | nil => simp
  | cons p l ih =>
    simp only [List.foldl_cons]
    rcases ih (min z p.1) with h | ⟨q, hq, h⟩
    · rw [h]
      rcases le_total z p.1 with hz | hz
      · exact .inl (min_eq_left hz)
      · exact .inr ⟨p, by simp, min_eq_right hz⟩
    · exact .inr ⟨q, by simp [hq], h⟩

theorem foldl_max_le (l : List (Nat × Nat)) (z : Nat) :
    l.foldl (fun m p => max m p.2) z = z ∨ ∃ p ∈ l, l.foldl (fun m p => max m p.2) z = p.2 := by
  induction l generalizing z with
  | nil => simp
  | cons p l ih =>
    simp only [List.foldl_cons]
    rcases ih (max z p.2) with h | ⟨q, hq, h⟩
    · rw [h]
      rcases le_total z p.2 with hz | hz
      · exact .inr ⟨p, by simp, max_eq_right hz⟩
      · exact .inl (max_eq_left hz)
    · exact .inr ⟨q, by simp [hq], h⟩

theorem foldl_min_le_init (l : List (Nat × Nat)) (z : Nat) : l.foldl (fun m p => min m p.1) z ≤ z := by
  induction l generalizing z with
  | nil => simp
  | cons p l ih => exact le_trans (ih _) (min_le_left _ _)

theorem le_foldl_max_init (l : List (Nat × Nat)) (z : Nat) : z ≤ l.foldl (fun m p => max m p.2) z := by
  induction l generalizing z with
  | nil => simp
  | cons p l ih => exact le_trans (le_max_left _ _) (ih _)

/-- Two intervals of a canonical list: one ends before the other begins, or they are one. -/
theorem ivWf_sep {l : List (Nat × Nat)} (h : l.Pairwise fun p q => p.2 < q.1) {p q : Nat × Nat} (hp : p ∈ l) (hq : q ∈ l) :
    p = q ∨ p.2 < q.1 ∨ q.2 < p.1 := by
  induction l with
  | nil => simp at hp
  | cons r l ih =>
    rw [List.pairwise_cons] at h
    rcases List.mem_cons.1 hp with hp1 | hp1 <;> rcases List.mem_cons.1 hq with hq1 | hq1
    · exact .inl (hp1.trans hq1.symm)
    · exact .inr (.inl (hp1 ▸ h.1 _ hq1))
    · exact .inr (.inr (hq1 ▸ h.1 _ hp1))
    · exact ih h.2 hp1 hq1

/-- Adding an interval keeps the canonical form. -/
theorem ivWf_ivAdd {l : List (Nat × Nat)} (h : ivWf l = true) (lo hi : Nat) : ivWf (ivAdd lo hi l) = true := by
  unfold ivAdd
  split
  · exact h
  · rename_i hlt
    rw [ivWf_iff] at *
    obtain ⟨hne, hsep⟩ := h
    set touch := l.filter fun p => decide (p.1 ≤ hi) && decide (lo ≤ p.2) with htouch
    have hmem : ∀ p ∈ touch, p ∈ l ∧ p.1 ≤ hi ∧ lo ≤ p.2 := fun p hp => by
      have := List.mem_filter.1 hp
      simpa using this
    refine ⟨fun p hp => ?_, ?_⟩
    · simp only [List.mem_append, List.mem_cons, List.mem_filter] at hp
      rcases hp with hp | rfl | hp
      · exact hne _ hp.1
      · exact lt_of_le_of_lt (foldl_min_le_init _ _) (lt_of_lt_of_le (by omega) (le_foldl_max_init _ _))
      · exact hne _ hp.1
    · rw [List.pairwise_append]
      refine ⟨hsep.sublist List.filter_sublist, ?_, ?_⟩
      · rw [List.pairwise_cons]
        refine ⟨fun q hq => ?_, hsep.sublist List.filter_sublist⟩
        have hq := List.mem_filter.1 hq
        have hq2 : hi < q.1 := by simpa using hq.2
        rcases foldl_max_le touch hi with h | ⟨p, hp, h⟩
        · rw [h]; exact hq2
        · rw [h]
          have hp' := hmem p hp
          rcases ivWf_sep hsep hp'.1 hq.1 with rfl | h1 | h1
          · omega
          · exact h1
          · have := hne _ hq.1; omega
      · intro p hp q hq
        have hp := List.mem_filter.1 hp
        have hp2 : p.2 < lo := by simpa using hp.2
        rcases List.mem_cons.1 hq with rfl | hq
        · rcases foldl_min_le touch lo with h | ⟨r, hr, h⟩
          · show p.2 < _; rw [h]; exact hp2
          · show p.2 < _; rw [h]
            have hr' := hmem r hr
            rcases ivWf_sep hsep hp.1 hr'.1 with rfl | h1 | h1
            · omega
            · exact h1
            · have := hne _ hp.1; omega
        · have hq := List.mem_filter.1 hq
          have hq2 : hi < q.1 := by simpa using hq.2
          omega

/-- Taking an interval away keeps the canonical form. -/
theorem ivWf_ivSub {l : List (Nat × Nat)} (h : ivWf l = true) (lo hi : Nat) : ivWf (ivSub lo hi l) = true := by
  unfold ivSub
  split
  · exact h
  · rename_i hlt
    rw [ivWf_iff] at *
    obtain ⟨hne, hsep⟩ := h
    refine ⟨fun p hp => ?_, ?_⟩
    · obtain ⟨r, -, hp⟩ := List.mem_flatMap.1 hp
      simpa using (List.mem_filter.1 hp).2
    · rw [List.pairwise_flatMap]
      refine ⟨fun r hr => ?_, hsep.imp_of_mem fun {p q} hp hq hpq x hx y hy => ?_⟩
      · refine List.Pairwise.sublist List.filter_sublist ?_
        simp only [List.pairwise_cons, List.mem_singleton, List.not_mem_nil, false_imp_iff, implies_true,
          List.Pairwise.nil, and_true, forall_eq]
        show min r.2 lo < max r.1 hi
        omega
      · have hx := (List.mem_filter.1 hx).1
        have hy := (List.mem_filter.1 hy).1
        simp only [List.mem_cons, List.not_mem_nil, or_false] at hx hy
        have := hne _ hp
        have := hne _ hq
        rcases hx with rfl | rfl <;> rcases hy with rfl | rfl <;> simp only <;> omega

theorem ivHas_ivSub_of {l : List (Nat × Nat)} {lo hi a : Nat} (h : a < lo ∨ hi ≤ a) :
    ivHas (ivSub lo hi l) a = ivHas l a := by
  unfold ivSub
  split
  · rfl
  · rw [Bool.eq_iff_iff]
    simp only [ivHas_iff, List.mem_flatMap, List.mem_filter, List.mem_cons, List.not_mem_nil, or_false]
    constructor
    · rintro ⟨p, ⟨q, hq, hp, -⟩, h1, h2⟩
      refine ⟨q, hq, ?_⟩
      rcases hp with rfl | rfl <;> simp only at h1 h2 <;> omega
    · rintro ⟨q, hq, h1, h2⟩
      rcases h with h | h
      · exact ⟨_, ⟨q, hq, .inl rfl, by simp only [decide_eq_true_eq]; omega⟩, h1, by simp only; omega⟩
      · exact ⟨_, ⟨q, hq, .inr rfl, by simp only [decide_eq_true_eq]; omega⟩, by simp only; omega, h2⟩

theorem ivHas_ivAdd_of {l : List (Nat × Nat)} (hw : ivWf l = true) {lo hi a : Nat} (h : a < lo ∨ hi ≤ a) :
    ivHas (ivAdd lo hi l) a = ivHas l a := by
  unfold ivAdd
  split
  · rfl
  · rename_i hlt
    rw [ivWf_iff] at hw
    obtain ⟨hne, hsep⟩ := hw
    set touch := l.filter fun p => decide (p.1 ≤ hi) && decide (lo ≤ p.2) with htouch
    have hmem : ∀ p ∈ touch, p ∈ l ∧ p.1 ≤ hi ∧ lo ≤ p.2 := fun p hp => by
      have := List.mem_filter.1 hp
      simpa using this
    have hle : ∀ (ts : List (Nat × Nat)) (z : Nat), ∀ p ∈ ts, ts.foldl (fun m p => min m p.1) z ≤ p.1 := fun ts => by
      induction ts with
      | nil => simp
      | cons t ts ih =>
        intro z p hp
        rcases List.mem_cons.1 hp with rfl | hp
        · exact le_trans (foldl_min_le_init ts (min z p.1)) (min_le_right _ _)
        · exact ih _ p hp
    have hge : ∀ (ts : List (Nat × Nat)) (z : Nat), ∀ p ∈ ts, p.2 ≤ ts.foldl (fun m p => max m p.2) z := fun ts => by
      induction ts with
      | nil => simp
      | cons t ts ih =>
        intro z p hp
        rcases List.mem_cons.1 hp with rfl | hp
        · exact le_trans (le_max_right _ _) (le_foldl_max_init ts (max z p.2))
        · exact ih _ p hp
    rw [Bool.eq_iff_iff]
    simp only [ivHas_iff, List.mem_append, List.mem_cons, List.mem_filter, decide_eq_true_eq]
    constructor
    · rintro ⟨p, hp, h1, h2⟩
      rcases hp with hp | rfl | hp
      · exact ⟨p, hp.1, h1, h2⟩
      · simp only at h1 h2
        rcases h with h | h
        · rcases foldl_min_le touch lo with he | ⟨r, hr, he⟩
          · omega
          · have := hmem r hr; exact ⟨r, this.1, by omega, by omega⟩
        · rcases foldl_max_le touch hi with he | ⟨r, hr, he⟩
          · omega
          · have := hmem r hr; exact ⟨r, this.1, by omega, by omega⟩
      · exact ⟨p, hp.1, h1, h2⟩
    · rintro ⟨p, hp, h1, h2⟩
      by_cases ht : p ∈ touch
      · exact ⟨_, .inr (.inl rfl), le_trans (hle _ _ p ht) h1, lt_of_lt_of_le h2 (hge _ _ p ht)⟩
      · have : ¬(p.1 ≤ hi ∧ lo ≤ p.2) := fun hh => ht (by rw [htouch]; exact List.mem_filter.2 ⟨hp, by simpa using hh⟩)
        by_cases hl : p.2 < lo
        · exact ⟨p, .inl ⟨hp, hl⟩, h1, h2⟩
        · exact ⟨p, .inr (.inr ⟨hp, by omega⟩), h1, h2⟩

theorem Mem.wf_iff (m : Mem) :
    m.wf = true ↔ mapWf m.cells = true ∧ (∀ c ∈ m.cells, memKnown m c.1 ≠ some c.2) ∧ ivWf m.zeroed = true := by
  simp [Mem.wf, and_assoc]

/-- A write keeps the canonical form. -/
theorem Mem.wf_memWriteOpt {m : Mem} (h : m.wf = true) (a : Nat) (bs : List (Option Byte)) :
    (memWriteOpt m a bs).wf = true := by
  rw [Mem.wf_iff] at *
  obtain ⟨hk, hc, hz⟩ := h
  refine ⟨?_, fun c hc' => ?_, hz⟩
  · rw [mapWf_iff] at *
    simp only [memWriteOpt, List.map_append, List.pairwise_append]
    have hmid := (mapWf_iff _).1 (mapWf_filter (mapWf_mergeCells (memSlice m a bs.length) bs a)
      fun c => memKnown m c.1 != some c.2)
    refine ⟨⟨hk.sublist (List.filter_sublist.map _), hmid, fun x hx y hy => ?_⟩, hk.sublist (List.filter_sublist.map _),
      fun x hx y hy => ?_⟩
    · obtain ⟨c, hc1, rfl⟩ := List.mem_map.1 hx
      obtain ⟨e, he, rfl⟩ := List.mem_map.1 hy
      have h1 : c.1 < a := by simpa using (List.mem_filter.1 hc1).2
      have h2 := mem_mergeCells (List.mem_filter.1 he).1
      omega
    · obtain ⟨e, he, rfl⟩ := List.mem_map.1 hy
      have h2 : a + bs.length ≤ e.1 := by simpa using (List.mem_filter.1 he).2
      rcases List.mem_append.1 hx with hx | hx
      · obtain ⟨c, hc1, rfl⟩ := List.mem_map.1 hx
        have h1 : c.1 < a := by simpa using (List.mem_filter.1 hc1).2
        omega
      · obtain ⟨c, hc1, rfl⟩ := List.mem_map.1 hx
        have h1 := mem_mergeCells (List.mem_filter.1 hc1).1
        omega
  · show memKnown m c.1 ≠ some c.2
    simp only [memWriteOpt, List.mem_append] at hc'
    rcases hc' with (h | h) | h
    · exact hc c (List.mem_filter.1 h).1
    · simpa using (List.mem_filter.1 h).2
    · exact hc c (List.mem_filter.1 h).1

theorem Mem.wf_memWrite {m : Mem} (h : m.wf = true) (a : Nat) (bs : List Byte) : (memWrite m a bs).wf = true :=
  Mem.wf_memWriteOpt h a _

/-- A zero-fill keeps the canonical form. -/
theorem Mem.wf_memZero {m : Mem} (h : m.wf = true) (a n : Nat) : (memZero m a n).wf = true := by
  rw [Mem.wf_iff] at *
  obtain ⟨hk, hc, hz⟩ := h
  refine ⟨mapWf_filter hk _, fun c hc' => ?_, ivWf_ivAdd hz _ _⟩
  have hm := List.mem_filter.1 hc'
  have ho : c.1 < a ∨ a + n ≤ c.1 := by simpa using hm.2
  have he : memKnown (memZero m a n) c.1 = memKnown m c.1 := by
    unfold memKnown
    rw [show ivHas (memZero m a n).zeroed c.1 = ivHas m.zeroed c.1 from ivHas_ivAdd_of hz ho]
  rw [he]
  exact hc c hm.1

/-- A loss of contents keeps the canonical form. -/
theorem Mem.wf_memForget {m : Mem} (h : m.wf = true) (a n : Nat) : (memForget m a n).wf = true := by
  rw [Mem.wf_iff] at *
  obtain ⟨hk, hc, hz⟩ := h
  refine ⟨mapWf_filter hk _, fun c hc' => ?_, ivWf_ivSub hz _ _⟩
  have hm := List.mem_filter.1 hc'
  have ho : c.1 < a ∨ a + n ≤ c.1 := by simpa using hm.2
  have he : memKnown (memForget m a n) c.1 = memKnown m c.1 := by
    unfold memKnown
    rw [show ivHas (memForget m a n).zeroed c.1 = ivHas m.zeroed c.1 from ivHas_ivSub_of ho]
  rw [he]
  exact hc c hm.1

/-- Bytes outside a zero-fill stay. -/
theorem memByte_memZero_out (epoch unit : Nat) {m : Mem} (h : m.wf = true) {a n k : Nat} (ho : k < a ∨ a + n ≤ k) :
    memByte epoch unit (memZero m a n) k = memByte epoch unit m k := by
  have hc : mget (m.cells.filter fun c => decide (c.1 < a) || decide (a + n ≤ c.1)) k = mget m.cells k :=
    mget_filter_of_pos m.cells (fun i => decide (i < a) || decide (a + n ≤ i)) (by simpa using ho)
  have hz : memKnown (memZero m a n) k = memKnown m k := by
    unfold memKnown
    rw [show ivHas (memZero m a n).zeroed k = ivHas m.zeroed k from ivHas_ivAdd_of ((Mem.wf_iff m).1 h).2.2 ho]
  simp only [memByte, hz]
  simp only [memZero, hc]

end Sys2Proof.Machine
end

