-- ==== Sys2Proof/Laws/Reg.lean ====
section
/-! SUPPORT. Laws/Reg: what reading a register or a field finds after a store, saturating counters, and what storing a
register, a block or a die's state leaves as it was. -/

namespace Sys2Proof.Machine

/-! ## Bit fields -/

theorem testBit_setBits (x lo w v i : Nat) :
    (setBits x lo w v).testBit i = if lo ≤ i ∧ i < lo + w then v.testBit (i - lo) else x.testBit i := by
  have h1 : setBits x lo w v = 2 ^ lo * (2 ^ w * (x >>> (lo + w)) + v % 2 ^ w) + x % 2 ^ lo := by
    simp only [setBits, pow2, Nat.shiftLeft_eq, Nat.pow_add]
    ring
  rw [h1, Nat.testBit_two_pow_mul_add _ (Nat.mod_lt _ (Nat.two_pow_pos _))]
  by_cases hlo : i < lo
  · simp [hlo, Nat.testBit_mod_two_pow, show ¬(lo ≤ i) by omega]
  · rw [if_neg hlo, Nat.testBit_two_pow_mul_add _ (Nat.mod_lt _ (Nat.two_pow_pos _))]
    by_cases hw : i - lo < w
    · simp [hw, Nat.testBit_mod_two_pow, show lo ≤ i ∧ i < lo + w by omega]
    · simp only [hw, if_false, Nat.testBit_shiftRight, show ¬(lo ≤ i ∧ i < lo + w) by omega]
      congr 1
      omega

theorem testBit_bits (x lo w i : Nat) : (bits x lo w).testBit i = (decide (i < w) && x.testBit (lo + i)) := by
  simp [bits, Nat.testBit_mod_two_pow, Nat.testBit_shiftRight]

/-- A field that was stored reads as stored. -/
theorem bits_setBits_self (x lo w v : Nat) : bits (setBits x lo w v) lo w = v % 2 ^ w := by
  refine Nat.eq_of_testBit_eq fun i => ?_
  rw [testBit_bits, testBit_setBits, Nat.testBit_mod_two_pow]
  by_cases h : i < w
  · simp [h]
  · simp [h]

/-- A field that shares no bit with the one stored reads as before. -/
theorem bits_setBits_other (x lo w v : Nat) {lo' w' : Nat} (h : lo' + w' ≤ lo ∨ lo + w ≤ lo') :
    bits (setBits x lo w v) lo' w' = bits x lo' w' := by
  refine Nat.eq_of_testBit_eq fun i => ?_
  rw [testBit_bits, testBit_bits, testBit_setBits]
  by_cases hi : i < w'
  · rw [if_neg (by omega)]
  · simp [hi]

theorem setBits_lt {x lo w v n : Nat} (hx : x < 2 ^ n) (h : lo + w ≤ n) : setBits x lo w v < 2 ^ n := by
  refine Nat.lt_pow_two_of_testBit _ fun i hi => ?_
  rw [testBit_setBits, if_neg (by omega)]
  exact Nat.testBit_lt_two_pow (lt_of_lt_of_le hx (Nat.pow_le_pow_right (by norm_num) hi))

theorem bits_lt (x lo w : Nat) : bits x lo w < 2 ^ w := Nat.mod_lt _ (Nat.two_pow_pos _)

/-! ## Registers -/

@[simp] theorem rd_wr_self (d : Dev) (a : Nat) (v : Word) : rd (wr d a v) a = v := by simp [rd, wr]

theorem rd_wr_ne (d : Dev) {a b : Nat} (h : b ≠ a) (v : Word) : rd (wr d a v) b = rd d b := by
  simp [rd, wr, mget_mset_ne _ h]

theorem rd_fset_ne (d : Dev) {a b : Nat} (h : b ≠ a) (f : Fld) (v : Nat) : rd (fset d a f v) b = rd d b :=
  rd_wr_ne d h _

/-- The word that a register holds after a field of it was stored. -/
theorem rd_fset_self (d : Dev) (a : Nat) (f : Fld) (v : Nat) (h : f.lo + f.width ≤ 32) :
    (rd (fset d a f v) a).toNat = setBits (rd d a).toNat f.lo f.width v := by
  rw [fset, rd_wr_self, BitVec.toNat_ofNat]
  exact Nat.mod_eq_of_lt (setBits_lt (rd d a).isLt h)

/-- A field that was stored reads as stored, modulo its width. -/
theorem fget_fset_self (d : Dev) (a : Nat) (f : Fld) (v : Nat) (h : f.lo + f.width ≤ 32) :
    fget (fset d a f v) a f = v % 2 ^ f.width := by
  rw [fget, rd_fset_self d a f v h, bits_setBits_self]

/-- Another field of the same register reads as before. -/
theorem fget_fset_other (d : Dev) (a : Nat) (f g : Fld) (v : Nat) (h : f.lo + f.width ≤ 32)
    (hd : g.lo + g.width ≤ f.lo ∨ f.lo + f.width ≤ g.lo) : fget (fset d a f v) a g = fget d a g := by
  rw [fget, rd_fset_self d a f v h, bits_setBits_other _ _ _ _ hd, fget]

/-- A field of another register reads as before. -/
theorem fget_fset_ne (d : Dev) {a b : Nat} (h : b ≠ a) (f g : Fld) (v : Nat) :
    fget (fset d a f v) b g = fget d b g := by rw [fget, rd_fset_ne d h, fget]

theorem fget_wr_ne (d : Dev) {a b : Nat} (h : b ≠ a) (g : Fld) (v : Word) : fget (wr d a v) b g = fget d b g := by
  rw [fget, rd_wr_ne d h, fget]

theorem fget_lt (d : Dev) (a : Nat) (f : Fld) : fget d a f < 2 ^ f.width := bits_lt _ _ _

/-- A counter goes up and stays at its largest value. -/
theorem fget_fcnt_self (d : Dev) (a : Nat) (f : Fld) (n : Nat) (h : f.lo + f.width ≤ 32) :
    fget (fcnt d a f n) a f = min (fget d a f + n) (2 ^ f.width - 1) := by
  unfold fcnt
  have := fget_lt d a f
  split
  · subst_vars; omega
  · rw [fget_fset_self d a f _ h]
    show min (fget d a f + n) (2 ^ f.width - 1) % 2 ^ f.width = _
    exact Nat.mod_eq_of_lt (by have := Nat.two_pow_pos f.width; omega)

theorem rd_fcnt_ne (d : Dev) {a b : Nat} (h : b ≠ a) (f : Fld) (n : Nat) : rd (fcnt d a f n) b = rd d b := by
  unfold fcnt
  split
  · rfl
  · exact rd_fset_ne d h _ _

theorem fget_fcnt_ne (d : Dev) {a b : Nat} (h : b ≠ a) (f g : Fld) (n : Nat) :
    fget (fcnt d a f n) b g = fget d b g := by rw [fget, rd_fcnt_ne d h, fget]

theorem fget_fcnt_other (d : Dev) (a : Nat) (f g : Fld) (n : Nat) (h : f.lo + f.width ≤ 32)
    (hd : g.lo + g.width ≤ f.lo ∨ f.lo + f.width ≤ g.lo) : fget (fcnt d a f n) a g = fget d a g := by
  unfold fcnt
  split
  · rfl
  · exact fget_fset_other d a f g _ h hd

/-- Storing fields of a register leaves every other register. -/
theorem rd_fsets_ne (d : Dev) {a b : Nat} (h : b ≠ a) (l : List (Fld × Nat)) : rd (fsets d a l) b = rd d b := by
  unfold fsets
  induction l generalizing d with
  | nil => rfl
  | cons e l ih => rw [List.foldl_cons, ih, rd_fset_ne d h]

theorem fget_fsets_ne (d : Dev) {a b : Nat} (h : b ≠ a) (l : List (Fld × Nat)) (g : Fld) :
    fget (fsets d a l) b g = fget d b g := by rw [fget, rd_fsets_ne d h, fget]

/-- A field that none of the stored ones shares a bit with reads as before. -/
theorem fget_fsets_other (d : Dev) (a : Nat) (l : List (Fld × Nat)) (g : Fld)
    (h : ∀ e ∈ l, e.1.lo + e.1.width ≤ 32 ∧ (g.lo + g.width ≤ e.1.lo ∨ e.1.lo + e.1.width ≤ g.lo)) :
    fget (fsets d a l) a g = fget d a g := by
  unfold fsets
  induction l generalizing d with
  | nil => rfl
  | cons e l ih =>
    rw [List.foldl_cons, ih _ fun x hx => h x (by simp [hx])]
    exact fget_fset_other d a e.1 g e.2 (h e (by simp)).1 (h e (by simp)).2

@[simp] theorem fsets_nil (d : Dev) (a : Nat) : fsets d a [] = d := rfl
@[simp] theorem fsets_cons (d : Dev) (a : Nat) (e : Fld × Nat) (l : List (Fld × Nat)) :
    fsets d a (e :: l) = fsets (fset d a e.1 e.2) a l := rfl

/-! ## Blocks and dies -/

theorem gblock_inj {die b die' b' : Nat} (hb : b < 24) (hb' : b' < 24) (h : gblock die b = gblock die' b') :
    die = die' ∧ b = b' := by unfold gblock at h; omega

@[simp] theorem blk_setBlk_self (d : Dev) (die b : Nat) (x : Block) : blk (setBlk d die b x) die b = x := by
  simp [blk, setBlk]

theorem blk_setBlk_ne (d : Dev) {die b die' b' : Nat} (h : gblock die' b' ≠ gblock die b) (x : Block) :
    blk (setBlk d die b x) die' b' = blk d die' b' := by simp [blk, setBlk, mgetD_mset_ne _ h]

@[simp] theorem dieSt_setDie_self (d : Dev) (die : Nat) (x : DieState) : dieSt (setDie d die x) die = x := by
  simp [dieSt, setDie]

theorem dieSt_setDie_ne (d : Dev) {die die' : Nat} (h : die' ≠ die) (x : DieState) :
    dieSt (setDie d die x) die' = dieSt d die' := by simp [dieSt, setDie, mgetD_mset_ne _ h]

@[simp] theorem blk_wr (d : Dev) (a : Nat) (v : Word) (die b : Nat) : blk (wr d a v) die b = blk d die b := rfl
@[simp] theorem blk_fset (d : Dev) (a : Nat) (f : Fld) (v die b : Nat) : blk (fset d a f v) die b = blk d die b := rfl
@[simp] theorem rd_setBlk (d : Dev) (die b : Nat) (x : Block) (a : Nat) : rd (setBlk d die b x) a = rd d a := rfl
@[simp] theorem fget_setBlk (d : Dev) (die b : Nat) (x : Block) (a : Nat) (f : Fld) :
    fget (setBlk d die b x) a f = fget d a f := rfl
@[simp] theorem rd_setDie (d : Dev) (die : Nat) (x : DieState) (a : Nat) : rd (setDie d die x) a = rd d a := rfl
@[simp] theorem fget_setDie (d : Dev) (die : Nat) (x : DieState) (a : Nat) (f : Fld) :
    fget (setDie d die x) a f = fget d a f := rfl
@[simp] theorem blk_setDie (d : Dev) (die : Nat) (x : DieState) (die' b : Nat) :
    blk (setDie d die x) die' b = blk d die' b := rfl
@[simp] theorem dieSt_setBlk (d : Dev) (die b : Nat) (x : Block) (die' : Nat) :
    dieSt (setBlk d die b x) die' = dieSt d die' := rfl
@[simp] theorem dieSt_wr (d : Dev) (a : Nat) (v : Word) (die : Nat) : dieSt (wr d a v) die = dieSt d die := rfl

/-- Storing a register, or its field, changes nothing but the registers. -/
theorem wr_frame (d : Dev) (a : Nat) (v : Word) : { wr d a v with regs := d.regs } = d := rfl
theorem fset_frame (d : Dev) (a : Nat) (f : Fld) (v : Nat) : { fset d a f v with regs := d.regs } = d := rfl

theorem fcnt_frame (d : Dev) (a : Nat) (f : Fld) (n : Nat) : { fcnt d a f n with regs := d.regs } = d := by
  unfold fcnt
  split <;> rfl

theorem fsets_frame (d : Dev) (a : Nat) (l : List (Fld × Nat)) : { fsets d a l with regs := d.regs } = d := by
  induction l generalizing d with
  | nil => rfl
  | cons e l ih =>
    have h := ih (fset d a e.1 e.2)
    rw [fsets_cons]
    calc { fsets (fset d a e.1 e.2) a l with regs := d.regs }
        = { ({ fsets (fset d a e.1 e.2) a l with regs := (fset d a e.1 e.2).regs } : Dev) with regs := d.regs } := rfl
      _ = _ := by rw [h]; rfl

end Sys2Proof.Machine
end

