-- ==== Sys2Proof/Laws/State.lean ====
section
/-! SUPPORT. Laws/State: what the named updates of the device leave as it was, field by field, so that no proof unfolds
a record update; and how a command acts on the state (Machine/Act.lean). -/

namespace Sys2Proof.Machine

/-! ## How a command acts -/

/-- Everything that a command can do: it gives a next state, in which the queue is the same, and the device has changed
only where the command's operands are ones that can come and the command acts on the device as it is. -/
theorem act_next_iff (i : Instr) (acts : Dev → Bool) (f : Dev → Dev) (s t : State) :
    act i acts f s = .next t ↔
      t = if i.wellFormed = true ∧ acts s.dev = true then { s with dev := f s.dev } else s := by
  simp only [act, Host.Outcome.next.injEq, Bool.and_eq_true]
  exact eq_comm

theorem act_of_wf {i : Instr} (h : i.wellFormed = true) (acts : Dev → Bool) (f : Dev → Dev) (s : State) :
    act i acts f s = .next { s with dev := if acts s.dev then f s.dev else s.dev } :=
  (act_next_iff i acts f s _).2 (by
    by_cases ha : acts s.dev = true
    · rw [if_pos ha, if_pos ⟨h, ha⟩]
    · rw [if_neg ha, if_neg (fun x => ha x.2)])

/-- A well-formed command at a device that runs. -/
theorem act_powered {i : Instr} (h : i.wellFormed = true) {s : State} (hp : powered s.dev = true) (f : Dev → Dev) :
    act i powered f s = .next { s with dev := f s.dev } := by
  rw [act_of_wf h, if_pos hp]

/-- A command that acts whatever the device does. -/
theorem act_always {i : Instr} (h : i.wellFormed = true) (s : State) (f : Dev → Dev) :
    act i always f s = .next { s with dev := f s.dev } := by
  rw [act_of_wf h]
  rfl

/-- A command that needs a device that runs leaves the state as it is where the device does not. -/
theorem act_off {i : Instr} (h : i.wellFormed = true) {s : State} {acts : Dev → Bool} (hp : acts s.dev = false)
    (f : Dev → Dev) : act i acts f s = .next s := by
  rw [act_of_wf h, if_neg (by simp [hp])]

/-- Operands that nothing can bring change nothing. -/
theorem act_ill {i : Instr} (h : i.wellFormed = false) (acts : Dev → Bool) (f : Dev → Dev) (s : State) :
    act i acts f s = .next s := by
  simp [act, h]

/-- What every command does to the state, whatever its effect on the device. -/
theorem act_row (i : Instr) (acts : Dev → Bool) (f : Dev → Dev) (s : State) :
    (∃ d, act i acts f s = .next { s with dev := d }) ∧ (i.wellFormed = false → act i acts f s = .next s) :=
  ⟨⟨_, (act_next_iff i acts f s { s with dev := if i.wellFormed = true ∧ acts s.dev = true then f s.dev else s.dev }).2
    (by split <;> rfl)⟩, fun h => act_ill h acts f s⟩

/-! ## Fields of the device -/

@[simp] theorem setBlk_epoch (d : Dev) (die b : Nat) (x : Block) : (setBlk d die b x).epoch = d.epoch := rfl
@[simp] theorem setBlk_tally (d : Dev) (die b : Nat) (x : Block) : (setBlk d die b x).tally = d.tally := rfl
@[simp] theorem setBlk_regs (d : Dev) (die b : Nat) (x : Block) : (setBlk d die b x).regs = d.regs := rfl
@[simp] theorem setBlk_shadow (d : Dev) (die b : Nat) (x : Block) : (setBlk d die b x).shadow = d.shadow := rfl
@[simp] theorem setBlk_selBank (d : Dev) (die b : Nat) (x : Block) : (setBlk d die b x).selBank = d.selBank := rfl
@[simp] theorem setBlk_since (d : Dev) (die b : Nat) (x : Block) : (setBlk d die b x).since = d.since := rfl
@[simp] theorem setBlk_dies (d : Dev) (die b : Nat) (x : Block) : (setBlk d die b x).dies = d.dies := rfl
@[simp] theorem setBlk_step (d : Dev) (die b : Nat) (x : Block) : (setBlk d die b x).step = d.step := rfl
@[simp] theorem setBlk_halls (d : Dev) (die b : Nat) (x : Block) : (setBlk d die b x).halls = d.halls := rfl
@[simp] theorem setBlk_tcms (d : Dev) (die b : Nat) (x : Block) : (setBlk d die b x).tcms = d.tcms := rfl
@[simp] theorem setBlk_rsv (d : Dev) (die b : Nat) (x : Block) : (setBlk d die b x).rsv = d.rsv := rfl
@[simp] theorem setBlk_stackTab (d : Dev) (die b : Nat) (x : Block) : (setBlk d die b x).stackTab = d.stackTab := rfl
@[simp] theorem setBlk_fountains (d : Dev) (die b : Nat) (x : Block) : (setBlk d die b x).fountains = d.fountains := rfl
@[simp] theorem setBlk_asks (d : Dev) (die b : Nat) (x : Block) : (setBlk d die b x).asks = d.asks := rfl
@[simp] theorem setBlk_windows (d : Dev) (die b : Nat) (x : Block) : (setBlk d die b x).windows = d.windows := rfl
@[simp] theorem setBlk_winCopies (d : Dev) (die b : Nat) (x : Block) : (setBlk d die b x).winCopies = d.winCopies := rfl
@[simp] theorem setBlk_accepted (d : Dev) (die b : Nat) (x : Block) : (setBlk d die b x).accepted = d.accepted := rfl
@[simp] theorem setBlk_winReads (d : Dev) (die b : Nat) (x : Block) : (setBlk d die b x).winReads = d.winReads := rfl
@[simp] theorem setBlk_txns (d : Dev) (die b : Nat) (x : Block) : (setBlk d die b x).txns = d.txns := rfl
@[simp] theorem setBlk_credits (d : Dev) (die b : Nat) (x : Block) : (setBlk d die b x).credits = d.credits := rfl
@[simp] theorem setBlk_aqds (d : Dev) (die b : Nat) (x : Block) : (setBlk d die b x).aqds = d.aqds := rfl
@[simp] theorem setBlk_nets (d : Dev) (die b : Nat) (x : Block) : (setBlk d die b x).nets = d.nets := rfl
@[simp] theorem setBlk_lasers (d : Dev) (die b : Nat) (x : Block) : (setBlk d die b x).lasers = d.lasers := rfl
@[simp] theorem setBlk_mbxHalves (d : Dev) (die b : Nat) (x : Block) : (setBlk d die b x).mbxHalves = d.mbxHalves := rfl
@[simp] theorem setBlk_mailboxes (d : Dev) (die b : Nat) (x : Block) : (setBlk d die b x).mailboxes = d.mailboxes := rfl
@[simp] theorem setBlk_partners (d : Dev) (die b : Nat) (x : Block) : (setBlk d die b x).partners = d.partners := rfl
@[simp] theorem setBlk_groups (d : Dev) (die b : Nat) (x : Block) : (setBlk d die b x).groups = d.groups := rfl
@[simp] theorem setBlk_barriers (d : Dev) (die b : Nat) (x : Block) : (setBlk d die b x).barriers = d.barriers := rfl
@[simp] theorem setBlk_relays (d : Dev) (die b : Nat) (x : Block) : (setBlk d die b x).relays = d.relays := rfl
@[simp] theorem setBlk_barEvents (d : Dev) (die b : Nat) (x : Block) : (setBlk d die b x).barEvents = d.barEvents := rfl
@[simp] theorem setBlk_snaps (d : Dev) (die b : Nat) (x : Block) : (setBlk d die b x).snaps = d.snaps := rfl
@[simp] theorem setBlk_nextId (d : Dev) (die b : Nat) (x : Block) : (setBlk d die b x).nextId = d.nextId := rfl
@[simp] theorem setBlk_coord (d : Dev) (die b : Nat) (x : Block) : (setBlk d die b x).coord = d.coord := rfl
@[simp] theorem setBlk_roster (d : Dev) (die b : Nat) (x : Block) : (setBlk d die b x).roster = d.roster := rfl
@[simp] theorem setBlk_errors (d : Dev) (die b : Nat) (x : Block) : (setBlk d die b x).errors = d.errors := rfl
@[simp] theorem setBlk_srv (d : Dev) (die b : Nat) (x : Block) : (setBlk d die b x).srv = d.srv := rfl
@[simp] theorem setBlk_cont (d : Dev) (die b : Nat) (x : Block) : (setBlk d die b x).cont = d.cont := rfl
@[simp] theorem setBlk_boot (d : Dev) (die b : Nat) (x : Block) : (setBlk d die b x).boot = d.boot := rfl
@[simp] theorem setBlk_clock (d : Dev) (die b : Nat) (x : Block) : (setBlk d die b x).clock = d.clock := rfl
@[simp] theorem setBlk_power (d : Dev) (die b : Nat) (x : Block) : (setBlk d die b x).power = d.power := rfl
@[simp] theorem setBlk_timerIrq (d : Dev) (die b : Nat) (x : Block) : (setBlk d die b x).timerIrq = d.timerIrq := rfl
@[simp] theorem setBlk_i3c (d : Dev) (die b : Nat) (x : Block) : (setBlk d die b x).i3c = d.i3c := rfl
@[simp] theorem setBlk_tap (d : Dev) (die b : Nat) (x : Block) : (setBlk d die b x).tap = d.tap := rfl
@[simp] theorem setBlk_out (d : Dev) (die b : Nat) (x : Block) : (setBlk d die b x).out = d.out := rfl

@[simp] theorem setDie_epoch (d : Dev) (die : Nat) (x : DieState) : (setDie d die x).epoch = d.epoch := rfl
@[simp] theorem setDie_tally (d : Dev) (die : Nat) (x : DieState) : (setDie d die x).tally = d.tally := rfl
@[simp] theorem setDie_regs (d : Dev) (die : Nat) (x : DieState) : (setDie d die x).regs = d.regs := rfl
@[simp] theorem setDie_shadow (d : Dev) (die : Nat) (x : DieState) : (setDie d die x).shadow = d.shadow := rfl
@[simp] theorem setDie_selBank (d : Dev) (die : Nat) (x : DieState) : (setDie d die x).selBank = d.selBank := rfl
@[simp] theorem setDie_since (d : Dev) (die : Nat) (x : DieState) : (setDie d die x).since = d.since := rfl
@[simp] theorem setDie_blocks (d : Dev) (die : Nat) (x : DieState) : (setDie d die x).blocks = d.blocks := rfl
@[simp] theorem setDie_step (d : Dev) (die : Nat) (x : DieState) : (setDie d die x).step = d.step := rfl
@[simp] theorem setDie_halls (d : Dev) (die : Nat) (x : DieState) : (setDie d die x).halls = d.halls := rfl
@[simp] theorem setDie_tcms (d : Dev) (die : Nat) (x : DieState) : (setDie d die x).tcms = d.tcms := rfl
@[simp] theorem setDie_rsv (d : Dev) (die : Nat) (x : DieState) : (setDie d die x).rsv = d.rsv := rfl
@[simp] theorem setDie_stackTab (d : Dev) (die : Nat) (x : DieState) : (setDie d die x).stackTab = d.stackTab := rfl
@[simp] theorem setDie_fountains (d : Dev) (die : Nat) (x : DieState) : (setDie d die x).fountains = d.fountains := rfl
@[simp] theorem setDie_asks (d : Dev) (die : Nat) (x : DieState) : (setDie d die x).asks = d.asks := rfl
@[simp] theorem setDie_windows (d : Dev) (die : Nat) (x : DieState) : (setDie d die x).windows = d.windows := rfl
@[simp] theorem setDie_winCopies (d : Dev) (die : Nat) (x : DieState) : (setDie d die x).winCopies = d.winCopies := rfl
@[simp] theorem setDie_accepted (d : Dev) (die : Nat) (x : DieState) : (setDie d die x).accepted = d.accepted := rfl
@[simp] theorem setDie_winReads (d : Dev) (die : Nat) (x : DieState) : (setDie d die x).winReads = d.winReads := rfl
@[simp] theorem setDie_txns (d : Dev) (die : Nat) (x : DieState) : (setDie d die x).txns = d.txns := rfl
@[simp] theorem setDie_credits (d : Dev) (die : Nat) (x : DieState) : (setDie d die x).credits = d.credits := rfl
@[simp] theorem setDie_aqds (d : Dev) (die : Nat) (x : DieState) : (setDie d die x).aqds = d.aqds := rfl
@[simp] theorem setDie_nets (d : Dev) (die : Nat) (x : DieState) : (setDie d die x).nets = d.nets := rfl
@[simp] theorem setDie_lasers (d : Dev) (die : Nat) (x : DieState) : (setDie d die x).lasers = d.lasers := rfl
@[simp] theorem setDie_mbxHalves (d : Dev) (die : Nat) (x : DieState) : (setDie d die x).mbxHalves = d.mbxHalves := rfl
@[simp] theorem setDie_mailboxes (d : Dev) (die : Nat) (x : DieState) : (setDie d die x).mailboxes = d.mailboxes := rfl
@[simp] theorem setDie_partners (d : Dev) (die : Nat) (x : DieState) : (setDie d die x).partners = d.partners := rfl
@[simp] theorem setDie_groups (d : Dev) (die : Nat) (x : DieState) : (setDie d die x).groups = d.groups := rfl
@[simp] theorem setDie_barriers (d : Dev) (die : Nat) (x : DieState) : (setDie d die x).barriers = d.barriers := rfl
@[simp] theorem setDie_relays (d : Dev) (die : Nat) (x : DieState) : (setDie d die x).relays = d.relays := rfl
@[simp] theorem setDie_barEvents (d : Dev) (die : Nat) (x : DieState) : (setDie d die x).barEvents = d.barEvents := rfl
@[simp] theorem setDie_snaps (d : Dev) (die : Nat) (x : DieState) : (setDie d die x).snaps = d.snaps := rfl
@[simp] theorem setDie_nextId (d : Dev) (die : Nat) (x : DieState) : (setDie d die x).nextId = d.nextId := rfl
@[simp] theorem setDie_coord (d : Dev) (die : Nat) (x : DieState) : (setDie d die x).coord = d.coord := rfl
@[simp] theorem setDie_roster (d : Dev) (die : Nat) (x : DieState) : (setDie d die x).roster = d.roster := rfl
@[simp] theorem setDie_errors (d : Dev) (die : Nat) (x : DieState) : (setDie d die x).errors = d.errors := rfl
@[simp] theorem setDie_srv (d : Dev) (die : Nat) (x : DieState) : (setDie d die x).srv = d.srv := rfl
@[simp] theorem setDie_cont (d : Dev) (die : Nat) (x : DieState) : (setDie d die x).cont = d.cont := rfl
@[simp] theorem setDie_boot (d : Dev) (die : Nat) (x : DieState) : (setDie d die x).boot = d.boot := rfl
@[simp] theorem setDie_clock (d : Dev) (die : Nat) (x : DieState) : (setDie d die x).clock = d.clock := rfl
@[simp] theorem setDie_power (d : Dev) (die : Nat) (x : DieState) : (setDie d die x).power = d.power := rfl
@[simp] theorem setDie_timerIrq (d : Dev) (die : Nat) (x : DieState) : (setDie d die x).timerIrq = d.timerIrq := rfl
@[simp] theorem setDie_i3c (d : Dev) (die : Nat) (x : DieState) : (setDie d die x).i3c = d.i3c := rfl
@[simp] theorem setDie_tap (d : Dev) (die : Nat) (x : DieState) : (setDie d die x).tap = d.tap := rfl
@[simp] theorem setDie_out (d : Dev) (die : Nat) (x : DieState) : (setDie d die x).out = d.out := rfl

@[simp] theorem wr_epoch (d : Dev) (a : Nat) (v : Word) : (wr d a v).epoch = d.epoch := rfl
@[simp] theorem wr_tally (d : Dev) (a : Nat) (v : Word) : (wr d a v).tally = d.tally := rfl
@[simp] theorem wr_shadow (d : Dev) (a : Nat) (v : Word) : (wr d a v).shadow = d.shadow := rfl
@[simp] theorem wr_selBank (d : Dev) (a : Nat) (v : Word) : (wr d a v).selBank = d.selBank := rfl
@[simp] theorem wr_since (d : Dev) (a : Nat) (v : Word) : (wr d a v).since = d.since := rfl
@[simp] theorem wr_blocks (d : Dev) (a : Nat) (v : Word) : (wr d a v).blocks = d.blocks := rfl
@[simp] theorem wr_dies (d : Dev) (a : Nat) (v : Word) : (wr d a v).dies = d.dies := rfl
@[simp] theorem wr_step (d : Dev) (a : Nat) (v : Word) : (wr d a v).step = d.step := rfl
@[simp] theorem wr_halls (d : Dev) (a : Nat) (v : Word) : (wr d a v).halls = d.halls := rfl
@[simp] theorem wr_tcms (d : Dev) (a : Nat) (v : Word) : (wr d a v).tcms = d.tcms := rfl
@[simp] theorem wr_rsv (d : Dev) (a : Nat) (v : Word) : (wr d a v).rsv = d.rsv := rfl
@[simp] theorem wr_stackTab (d : Dev) (a : Nat) (v : Word) : (wr d a v).stackTab = d.stackTab := rfl
@[simp] theorem wr_fountains (d : Dev) (a : Nat) (v : Word) : (wr d a v).fountains = d.fountains := rfl
@[simp] theorem wr_asks (d : Dev) (a : Nat) (v : Word) : (wr d a v).asks = d.asks := rfl
@[simp] theorem wr_windows (d : Dev) (a : Nat) (v : Word) : (wr d a v).windows = d.windows := rfl
@[simp] theorem wr_winCopies (d : Dev) (a : Nat) (v : Word) : (wr d a v).winCopies = d.winCopies := rfl
@[simp] theorem wr_accepted (d : Dev) (a : Nat) (v : Word) : (wr d a v).accepted = d.accepted := rfl
@[simp] theorem wr_winReads (d : Dev) (a : Nat) (v : Word) : (wr d a v).winReads = d.winReads := rfl
@[simp] theorem wr_txns (d : Dev) (a : Nat) (v : Word) : (wr d a v).txns = d.txns := rfl
@[simp] theorem wr_credits (d : Dev) (a : Nat) (v : Word) : (wr d a v).credits = d.credits := rfl
@[simp] theorem wr_aqds (d : Dev) (a : Nat) (v : Word) : (wr d a v).aqds = d.aqds := rfl
@[simp] theorem wr_nets (d : Dev) (a : Nat) (v : Word) : (wr d a v).nets = d.nets := rfl
@[simp] theorem wr_lasers (d : Dev) (a : Nat) (v : Word) : (wr d a v).lasers = d.lasers := rfl
@[simp] theorem wr_mbxHalves (d : Dev) (a : Nat) (v : Word) : (wr d a v).mbxHalves = d.mbxHalves := rfl
@[simp] theorem wr_mailboxes (d : Dev) (a : Nat) (v : Word) : (wr d a v).mailboxes = d.mailboxes := rfl
@[simp] theorem wr_partners (d : Dev) (a : Nat) (v : Word) : (wr d a v).partners = d.partners := rfl
@[simp] theorem wr_groups (d : Dev) (a : Nat) (v : Word) : (wr d a v).groups = d.groups := rfl
@[simp] theorem wr_barriers (d : Dev) (a : Nat) (v : Word) : (wr d a v).barriers = d.barriers := rfl
@[simp] theorem wr_relays (d : Dev) (a : Nat) (v : Word) : (wr d a v).relays = d.relays := rfl
@[simp] theorem wr_barEvents (d : Dev) (a : Nat) (v : Word) : (wr d a v).barEvents = d.barEvents := rfl
@[simp] theorem wr_snaps (d : Dev) (a : Nat) (v : Word) : (wr d a v).snaps = d.snaps := rfl
@[simp] theorem wr_nextId (d : Dev) (a : Nat) (v : Word) : (wr d a v).nextId = d.nextId := rfl
@[simp] theorem wr_coord (d : Dev) (a : Nat) (v : Word) : (wr d a v).coord = d.coord := rfl
@[simp] theorem wr_roster (d : Dev) (a : Nat) (v : Word) : (wr d a v).roster = d.roster := rfl
@[simp] theorem wr_errors (d : Dev) (a : Nat) (v : Word) : (wr d a v).errors = d.errors := rfl
@[simp] theorem wr_srv (d : Dev) (a : Nat) (v : Word) : (wr d a v).srv = d.srv := rfl
@[simp] theorem wr_cont (d : Dev) (a : Nat) (v : Word) : (wr d a v).cont = d.cont := rfl
@[simp] theorem wr_boot (d : Dev) (a : Nat) (v : Word) : (wr d a v).boot = d.boot := rfl
@[simp] theorem wr_clock (d : Dev) (a : Nat) (v : Word) : (wr d a v).clock = d.clock := rfl
@[simp] theorem wr_power (d : Dev) (a : Nat) (v : Word) : (wr d a v).power = d.power := rfl
@[simp] theorem wr_timerIrq (d : Dev) (a : Nat) (v : Word) : (wr d a v).timerIrq = d.timerIrq := rfl
@[simp] theorem wr_i3c (d : Dev) (a : Nat) (v : Word) : (wr d a v).i3c = d.i3c := rfl
@[simp] theorem wr_tap (d : Dev) (a : Nat) (v : Word) : (wr d a v).tap = d.tap := rfl
@[simp] theorem wr_out (d : Dev) (a : Nat) (v : Word) : (wr d a v).out = d.out := rfl

@[simp] theorem fset_epoch (d : Dev) (a : Nat) (f : Fld) (v : Nat) : (fset d a f v).epoch = d.epoch := rfl
@[simp] theorem fset_tally (d : Dev) (a : Nat) (f : Fld) (v : Nat) : (fset d a f v).tally = d.tally := rfl
@[simp] theorem fset_shadow (d : Dev) (a : Nat) (f : Fld) (v : Nat) : (fset d a f v).shadow = d.shadow := rfl
@[simp] theorem fset_selBank (d : Dev) (a : Nat) (f : Fld) (v : Nat) : (fset d a f v).selBank = d.selBank := rfl
@[simp] theorem fset_since (d : Dev) (a : Nat) (f : Fld) (v : Nat) : (fset d a f v).since = d.since := rfl
@[simp] theorem fset_blocks (d : Dev) (a : Nat) (f : Fld) (v : Nat) : (fset d a f v).blocks = d.blocks := rfl
@[simp] theorem fset_dies (d : Dev) (a : Nat) (f : Fld) (v : Nat) : (fset d a f v).dies = d.dies := rfl
@[simp] theorem fset_step (d : Dev) (a : Nat) (f : Fld) (v : Nat) : (fset d a f v).step = d.step := rfl
@[simp] theorem fset_halls (d : Dev) (a : Nat) (f : Fld) (v : Nat) : (fset d a f v).halls = d.halls := rfl
@[simp] theorem fset_tcms (d : Dev) (a : Nat) (f : Fld) (v : Nat) : (fset d a f v).tcms = d.tcms := rfl
@[simp] theorem fset_rsv (d : Dev) (a : Nat) (f : Fld) (v : Nat) : (fset d a f v).rsv = d.rsv := rfl
@[simp] theorem fset_stackTab (d : Dev) (a : Nat) (f : Fld) (v : Nat) : (fset d a f v).stackTab = d.stackTab := rfl
@[simp] theorem fset_fountains (d : Dev) (a : Nat) (f : Fld) (v : Nat) : (fset d a f v).fountains = d.fountains := rfl
@[simp] theorem fset_asks (d : Dev) (a : Nat) (f : Fld) (v : Nat) : (fset d a f v).asks = d.asks := rfl
@[simp] theorem fset_windows (d : Dev) (a : Nat) (f : Fld) (v : Nat) : (fset d a f v).windows = d.windows := rfl
@[simp] theorem fset_winCopies (d : Dev) (a : Nat) (f : Fld) (v : Nat) : (fset d a f v).winCopies = d.winCopies := rfl
@[simp] theorem fset_accepted (d : Dev) (a : Nat) (f : Fld) (v : Nat) : (fset d a f v).accepted = d.accepted := rfl
@[simp] theorem fset_winReads (d : Dev) (a : Nat) (f : Fld) (v : Nat) : (fset d a f v).winReads = d.winReads := rfl
@[simp] theorem fset_txns (d : Dev) (a : Nat) (f : Fld) (v : Nat) : (fset d a f v).txns = d.txns := rfl
@[simp] theorem fset_credits (d : Dev) (a : Nat) (f : Fld) (v : Nat) : (fset d a f v).credits = d.credits := rfl
@[simp] theorem fset_aqds (d : Dev) (a : Nat) (f : Fld) (v : Nat) : (fset d a f v).aqds = d.aqds := rfl
@[simp] theorem fset_nets (d : Dev) (a : Nat) (f : Fld) (v : Nat) : (fset d a f v).nets = d.nets := rfl
@[simp] theorem fset_lasers (d : Dev) (a : Nat) (f : Fld) (v : Nat) : (fset d a f v).lasers = d.lasers := rfl
@[simp] theorem fset_mbxHalves (d : Dev) (a : Nat) (f : Fld) (v : Nat) : (fset d a f v).mbxHalves = d.mbxHalves := rfl
@[simp] theorem fset_mailboxes (d : Dev) (a : Nat) (f : Fld) (v : Nat) : (fset d a f v).mailboxes = d.mailboxes := rfl
@[simp] theorem fset_partners (d : Dev) (a : Nat) (f : Fld) (v : Nat) : (fset d a f v).partners = d.partners := rfl
@[simp] theorem fset_groups (d : Dev) (a : Nat) (f : Fld) (v : Nat) : (fset d a f v).groups = d.groups := rfl
@[simp] theorem fset_barriers (d : Dev) (a : Nat) (f : Fld) (v : Nat) : (fset d a f v).barriers = d.barriers := rfl
@[simp] theorem fset_relays (d : Dev) (a : Nat) (f : Fld) (v : Nat) : (fset d a f v).relays = d.relays := rfl
@[simp] theorem fset_barEvents (d : Dev) (a : Nat) (f : Fld) (v : Nat) : (fset d a f v).barEvents = d.barEvents := rfl
@[simp] theorem fset_snaps (d : Dev) (a : Nat) (f : Fld) (v : Nat) : (fset d a f v).snaps = d.snaps := rfl
@[simp] theorem fset_nextId (d : Dev) (a : Nat) (f : Fld) (v : Nat) : (fset d a f v).nextId = d.nextId := rfl
@[simp] theorem fset_coord (d : Dev) (a : Nat) (f : Fld) (v : Nat) : (fset d a f v).coord = d.coord := rfl
@[simp] theorem fset_roster (d : Dev) (a : Nat) (f : Fld) (v : Nat) : (fset d a f v).roster = d.roster := rfl
@[simp] theorem fset_errors (d : Dev) (a : Nat) (f : Fld) (v : Nat) : (fset d a f v).errors = d.errors := rfl
@[simp] theorem fset_srv (d : Dev) (a : Nat) (f : Fld) (v : Nat) : (fset d a f v).srv = d.srv := rfl
@[simp] theorem fset_cont (d : Dev) (a : Nat) (f : Fld) (v : Nat) : (fset d a f v).cont = d.cont := rfl
@[simp] theorem fset_boot (d : Dev) (a : Nat) (f : Fld) (v : Nat) : (fset d a f v).boot = d.boot := rfl
@[simp] theorem fset_clock (d : Dev) (a : Nat) (f : Fld) (v : Nat) : (fset d a f v).clock = d.clock := rfl
@[simp] theorem fset_power (d : Dev) (a : Nat) (f : Fld) (v : Nat) : (fset d a f v).power = d.power := rfl
@[simp] theorem fset_timerIrq (d : Dev) (a : Nat) (f : Fld) (v : Nat) : (fset d a f v).timerIrq = d.timerIrq := rfl
@[simp] theorem fset_i3c (d : Dev) (a : Nat) (f : Fld) (v : Nat) : (fset d a f v).i3c = d.i3c := rfl
@[simp] theorem fset_tap (d : Dev) (a : Nat) (f : Fld) (v : Nat) : (fset d a f v).tap = d.tap := rfl
@[simp] theorem fset_out (d : Dev) (a : Nat) (f : Fld) (v : Nat) : (fset d a f v).out = d.out := rfl

@[simp] theorem emit_epoch (d : Dev) (kind : EmitKind) (nums : List Nat) (bytes : List Byte) : (emit d kind nums bytes).epoch = d.epoch := rfl
@[simp] theorem emit_tally (d : Dev) (kind : EmitKind) (nums : List Nat) (bytes : List Byte) : (emit d kind nums bytes).tally = d.tally := rfl
@[simp] theorem emit_regs (d : Dev) (kind : EmitKind) (nums : List Nat) (bytes : List Byte) : (emit d kind nums bytes).regs = d.regs := rfl
@[simp] theorem emit_shadow (d : Dev) (kind : EmitKind) (nums : List Nat) (bytes : List Byte) : (emit d kind nums bytes).shadow = d.shadow := rfl
@[simp] theorem emit_selBank (d : Dev) (kind : EmitKind) (nums : List Nat) (bytes : List Byte) : (emit d kind nums bytes).selBank = d.selBank := rfl
@[simp] theorem emit_since (d : Dev) (kind : EmitKind) (nums : List Nat) (bytes : List Byte) : (emit d kind nums bytes).since = d.since := rfl
@[simp] theorem emit_blocks (d : Dev) (kind : EmitKind) (nums : List Nat) (bytes : List Byte) : (emit d kind nums bytes).blocks = d.blocks := rfl
@[simp] theorem emit_dies (d : Dev) (kind : EmitKind) (nums : List Nat) (bytes : List Byte) : (emit d kind nums bytes).dies = d.dies := rfl
@[simp] theorem emit_step (d : Dev) (kind : EmitKind) (nums : List Nat) (bytes : List Byte) : (emit d kind nums bytes).step = d.step := rfl
@[simp] theorem emit_halls (d : Dev) (kind : EmitKind) (nums : List Nat) (bytes : List Byte) : (emit d kind nums bytes).halls = d.halls := rfl
@[simp] theorem emit_tcms (d : Dev) (kind : EmitKind) (nums : List Nat) (bytes : List Byte) : (emit d kind nums bytes).tcms = d.tcms := rfl
@[simp] theorem emit_rsv (d : Dev) (kind : EmitKind) (nums : List Nat) (bytes : List Byte) : (emit d kind nums bytes).rsv = d.rsv := rfl
@[simp] theorem emit_stackTab (d : Dev) (kind : EmitKind) (nums : List Nat) (bytes : List Byte) : (emit d kind nums bytes).stackTab = d.stackTab := rfl
@[simp] theorem emit_fountains (d : Dev) (kind : EmitKind) (nums : List Nat) (bytes : List Byte) : (emit d kind nums bytes).fountains = d.fountains := rfl
@[simp] theorem emit_asks (d : Dev) (kind : EmitKind) (nums : List Nat) (bytes : List Byte) : (emit d kind nums bytes).asks = d.asks := rfl
@[simp] theorem emit_windows (d : Dev) (kind : EmitKind) (nums : List Nat) (bytes : List Byte) : (emit d kind nums bytes).windows = d.windows := rfl
@[simp] theorem emit_winCopies (d : Dev) (kind : EmitKind) (nums : List Nat) (bytes : List Byte) : (emit d kind nums bytes).winCopies = d.winCopies := rfl
@[simp] theorem emit_accepted (d : Dev) (kind : EmitKind) (nums : List Nat) (bytes : List Byte) : (emit d kind nums bytes).accepted = d.accepted := rfl
@[simp] theorem emit_winReads (d : Dev) (kind : EmitKind) (nums : List Nat) (bytes : List Byte) : (emit d kind nums bytes).winReads = d.winReads := rfl
@[simp] theorem emit_txns (d : Dev) (kind : EmitKind) (nums : List Nat) (bytes : List Byte) : (emit d kind nums bytes).txns = d.txns := rfl
@[simp] theorem emit_credits (d : Dev) (kind : EmitKind) (nums : List Nat) (bytes : List Byte) : (emit d kind nums bytes).credits = d.credits := rfl
@[simp] theorem emit_aqds (d : Dev) (kind : EmitKind) (nums : List Nat) (bytes : List Byte) : (emit d kind nums bytes).aqds = d.aqds := rfl
@[simp] theorem emit_nets (d : Dev) (kind : EmitKind) (nums : List Nat) (bytes : List Byte) : (emit d kind nums bytes).nets = d.nets := rfl
@[simp] theorem emit_lasers (d : Dev) (kind : EmitKind) (nums : List Nat) (bytes : List Byte) : (emit d kind nums bytes).lasers = d.lasers := rfl
@[simp] theorem emit_mbxHalves (d : Dev) (kind : EmitKind) (nums : List Nat) (bytes : List Byte) : (emit d kind nums bytes).mbxHalves = d.mbxHalves := rfl
@[simp] theorem emit_mailboxes (d : Dev) (kind : EmitKind) (nums : List Nat) (bytes : List Byte) : (emit d kind nums bytes).mailboxes = d.mailboxes := rfl
@[simp] theorem emit_partners (d : Dev) (kind : EmitKind) (nums : List Nat) (bytes : List Byte) : (emit d kind nums bytes).partners = d.partners := rfl
@[simp] theorem emit_groups (d : Dev) (kind : EmitKind) (nums : List Nat) (bytes : List Byte) : (emit d kind nums bytes).groups = d.groups := rfl
@[simp] theorem emit_barriers (d : Dev) (kind : EmitKind) (nums : List Nat) (bytes : List Byte) : (emit d kind nums bytes).barriers = d.barriers := rfl
@[simp] theorem emit_relays (d : Dev) (kind : EmitKind) (nums : List Nat) (bytes : List Byte) : (emit d kind nums bytes).relays = d.relays := rfl
@[simp] theorem emit_barEvents (d : Dev) (kind : EmitKind) (nums : List Nat) (bytes : List Byte) : (emit d kind nums bytes).barEvents = d.barEvents := rfl
@[simp] theorem emit_snaps (d : Dev) (kind : EmitKind) (nums : List Nat) (bytes : List Byte) : (emit d kind nums bytes).snaps = d.snaps := rfl
@[simp] theorem emit_nextId (d : Dev) (kind : EmitKind) (nums : List Nat) (bytes : List Byte) : (emit d kind nums bytes).nextId = d.nextId := rfl
@[simp] theorem emit_coord (d : Dev) (kind : EmitKind) (nums : List Nat) (bytes : List Byte) : (emit d kind nums bytes).coord = d.coord := rfl
@[simp] theorem emit_roster (d : Dev) (kind : EmitKind) (nums : List Nat) (bytes : List Byte) : (emit d kind nums bytes).roster = d.roster := rfl
@[simp] theorem emit_errors (d : Dev) (kind : EmitKind) (nums : List Nat) (bytes : List Byte) : (emit d kind nums bytes).errors = d.errors := rfl
@[simp] theorem emit_srv (d : Dev) (kind : EmitKind) (nums : List Nat) (bytes : List Byte) : (emit d kind nums bytes).srv = d.srv := rfl
@[simp] theorem emit_cont (d : Dev) (kind : EmitKind) (nums : List Nat) (bytes : List Byte) : (emit d kind nums bytes).cont = d.cont := rfl
@[simp] theorem emit_boot (d : Dev) (kind : EmitKind) (nums : List Nat) (bytes : List Byte) : (emit d kind nums bytes).boot = d.boot := rfl
@[simp] theorem emit_clock (d : Dev) (kind : EmitKind) (nums : List Nat) (bytes : List Byte) : (emit d kind nums bytes).clock = d.clock := rfl
@[simp] theorem emit_power (d : Dev) (kind : EmitKind) (nums : List Nat) (bytes : List Byte) : (emit d kind nums bytes).power = d.power := rfl
@[simp] theorem emit_timerIrq (d : Dev) (kind : EmitKind) (nums : List Nat) (bytes : List Byte) : (emit d kind nums bytes).timerIrq = d.timerIrq := rfl
@[simp] theorem emit_i3c (d : Dev) (kind : EmitKind) (nums : List Nat) (bytes : List Byte) : (emit d kind nums bytes).i3c = d.i3c := rfl
@[simp] theorem emit_tap (d : Dev) (kind : EmitKind) (nums : List Nat) (bytes : List Byte) : (emit d kind nums bytes).tap = d.tap := rfl

@[simp] theorem bumpEpoch_tally (d : Dev) : (bumpEpoch d).tally = d.tally := rfl
@[simp] theorem bumpEpoch_regs (d : Dev) : (bumpEpoch d).regs = d.regs := rfl
@[simp] theorem bumpEpoch_shadow (d : Dev) : (bumpEpoch d).shadow = d.shadow := rfl
@[simp] theorem bumpEpoch_selBank (d : Dev) : (bumpEpoch d).selBank = d.selBank := rfl
@[simp] theorem bumpEpoch_since (d : Dev) : (bumpEpoch d).since = d.since := rfl
@[simp] theorem bumpEpoch_blocks (d : Dev) : (bumpEpoch d).blocks = d.blocks := rfl
@[simp] theorem bumpEpoch_dies (d : Dev) : (bumpEpoch d).dies = d.dies := rfl
@[simp] theorem bumpEpoch_step (d : Dev) : (bumpEpoch d).step = d.step := rfl
@[simp] theorem bumpEpoch_halls (d : Dev) : (bumpEpoch d).halls = d.halls := rfl
@[simp] theorem bumpEpoch_tcms (d : Dev) : (bumpEpoch d).tcms = d.tcms := rfl
@[simp] theorem bumpEpoch_rsv (d : Dev) : (bumpEpoch d).rsv = d.rsv := rfl
@[simp] theorem bumpEpoch_stackTab (d : Dev) : (bumpEpoch d).stackTab = d.stackTab := rfl
@[simp] theorem bumpEpoch_fountains (d : Dev) : (bumpEpoch d).fountains = d.fountains := rfl
@[simp] theorem bumpEpoch_asks (d : Dev) : (bumpEpoch d).asks = d.asks := rfl
@[simp] theorem bumpEpoch_windows (d : Dev) : (bumpEpoch d).windows = d.windows := rfl
@[simp] theorem bumpEpoch_winCopies (d : Dev) : (bumpEpoch d).winCopies = d.winCopies := rfl
@[simp] theorem bumpEpoch_accepted (d : Dev) : (bumpEpoch d).accepted = d.accepted := rfl
@[simp] theorem bumpEpoch_winReads (d : Dev) : (bumpEpoch d).winReads = d.winReads := rfl
@[simp] theorem bumpEpoch_txns (d : Dev) : (bumpEpoch d).txns = d.txns := rfl
@[simp] theorem bumpEpoch_credits (d : Dev) : (bumpEpoch d).credits = d.credits := rfl
@[simp] theorem bumpEpoch_aqds (d : Dev) : (bumpEpoch d).aqds = d.aqds := rfl
@[simp] theorem bumpEpoch_nets (d : Dev) : (bumpEpoch d).nets = d.nets := rfl
@[simp] theorem bumpEpoch_lasers (d : Dev) : (bumpEpoch d).lasers = d.lasers := rfl
@[simp] theorem bumpEpoch_mbxHalves (d : Dev) : (bumpEpoch d).mbxHalves = d.mbxHalves := rfl
@[simp] theorem bumpEpoch_mailboxes (d : Dev) : (bumpEpoch d).mailboxes = d.mailboxes := rfl
@[simp] theorem bumpEpoch_partners (d : Dev) : (bumpEpoch d).partners = d.partners := rfl
@[simp] theorem bumpEpoch_groups (d : Dev) : (bumpEpoch d).groups = d.groups := rfl
@[simp] theorem bumpEpoch_barriers (d : Dev) : (bumpEpoch d).barriers = d.barriers := rfl
@[simp] theorem bumpEpoch_relays (d : Dev) : (bumpEpoch d).relays = d.relays := rfl
@[simp] theorem bumpEpoch_barEvents (d : Dev) : (bumpEpoch d).barEvents = d.barEvents := rfl
@[simp] theorem bumpEpoch_snaps (d : Dev) : (bumpEpoch d).snaps = d.snaps := rfl
@[simp] theorem bumpEpoch_nextId (d : Dev) : (bumpEpoch d).nextId = d.nextId := rfl
@[simp] theorem bumpEpoch_coord (d : Dev) : (bumpEpoch d).coord = d.coord := rfl
@[simp] theorem bumpEpoch_roster (d : Dev) : (bumpEpoch d).roster = d.roster := rfl
@[simp] theorem bumpEpoch_errors (d : Dev) : (bumpEpoch d).errors = d.errors := rfl
@[simp] theorem bumpEpoch_srv (d : Dev) : (bumpEpoch d).srv = d.srv := rfl
@[simp] theorem bumpEpoch_cont (d : Dev) : (bumpEpoch d).cont = d.cont := rfl
@[simp] theorem bumpEpoch_boot (d : Dev) : (bumpEpoch d).boot = d.boot := rfl
@[simp] theorem bumpEpoch_clock (d : Dev) : (bumpEpoch d).clock = d.clock := rfl
@[simp] theorem bumpEpoch_power (d : Dev) : (bumpEpoch d).power = d.power := rfl
@[simp] theorem bumpEpoch_timerIrq (d : Dev) : (bumpEpoch d).timerIrq = d.timerIrq := rfl
@[simp] theorem bumpEpoch_i3c (d : Dev) : (bumpEpoch d).i3c = d.i3c := rfl
@[simp] theorem bumpEpoch_tap (d : Dev) : (bumpEpoch d).tap = d.tap := rfl
@[simp] theorem bumpEpoch_out (d : Dev) : (bumpEpoch d).out = d.out := rfl

@[simp] theorem fcnt_epoch (d : Dev) (a : Nat) (f : Fld) (n : Nat) : (fcnt d a f n).epoch = d.epoch := by unfold fcnt; split <;> rfl
@[simp] theorem fcnt_tally (d : Dev) (a : Nat) (f : Fld) (n : Nat) : (fcnt d a f n).tally = d.tally := by unfold fcnt; split <;> rfl
@[simp] theorem fcnt_shadow (d : Dev) (a : Nat) (f : Fld) (n : Nat) : (fcnt d a f n).shadow = d.shadow := by unfold fcnt; split <;> rfl
@[simp] theorem fcnt_selBank (d : Dev) (a : Nat) (f : Fld) (n : Nat) : (fcnt d a f n).selBank = d.selBank := by unfold fcnt; split <;> rfl
@[simp] theorem fcnt_since (d : Dev) (a : Nat) (f : Fld) (n : Nat) : (fcnt d a f n).since = d.since := by unfold fcnt; split <;> rfl
@[simp] theorem fcnt_blocks (d : Dev) (a : Nat) (f : Fld) (n : Nat) : (fcnt d a f n).blocks = d.blocks := by unfold fcnt; split <;> rfl
@[simp] theorem fcnt_dies (d : Dev) (a : Nat) (f : Fld) (n : Nat) : (fcnt d a f n).dies = d.dies := by unfold fcnt; split <;> rfl
@[simp] theorem fcnt_step (d : Dev) (a : Nat) (f : Fld) (n : Nat) : (fcnt d a f n).step = d.step := by unfold fcnt; split <;> rfl
@[simp] theorem fcnt_halls (d : Dev) (a : Nat) (f : Fld) (n : Nat) : (fcnt d a f n).halls = d.halls := by unfold fcnt; split <;> rfl
@[simp] theorem fcnt_tcms (d : Dev) (a : Nat) (f : Fld) (n : Nat) : (fcnt d a f n).tcms = d.tcms := by unfold fcnt; split <;> rfl
@[simp] theorem fcnt_rsv (d : Dev) (a : Nat) (f : Fld) (n : Nat) : (fcnt d a f n).rsv = d.rsv := by unfold fcnt; split <;> rfl
@[simp] theorem fcnt_stackTab (d : Dev) (a : Nat) (f : Fld) (n : Nat) : (fcnt d a f n).stackTab = d.stackTab := by unfold fcnt; split <;> rfl
@[simp] theorem fcnt_fountains (d : Dev) (a : Nat) (f : Fld) (n : Nat) : (fcnt d a f n).fountains = d.fountains := by unfold fcnt; split <;> rfl
@[simp] theorem fcnt_asks (d : Dev) (a : Nat) (f : Fld) (n : Nat) : (fcnt d a f n).asks = d.asks := by unfold fcnt; split <;> rfl
@[simp] theorem fcnt_windows (d : Dev) (a : Nat) (f : Fld) (n : Nat) : (fcnt d a f n).windows = d.windows := by unfold fcnt; split <;> rfl
@[simp] theorem fcnt_winCopies (d : Dev) (a : Nat) (f : Fld) (n : Nat) : (fcnt d a f n).winCopies = d.winCopies := by unfold fcnt; split <;> rfl
@[simp] theorem fcnt_accepted (d : Dev) (a : Nat) (f : Fld) (n : Nat) : (fcnt d a f n).accepted = d.accepted := by unfold fcnt; split <;> rfl
@[simp] theorem fcnt_winReads (d : Dev) (a : Nat) (f : Fld) (n : Nat) : (fcnt d a f n).winReads = d.winReads := by unfold fcnt; split <;> rfl
@[simp] theorem fcnt_txns (d : Dev) (a : Nat) (f : Fld) (n : Nat) : (fcnt d a f n).txns = d.txns := by unfold fcnt; split <;> rfl
@[simp] theorem fcnt_credits (d : Dev) (a : Nat) (f : Fld) (n : Nat) : (fcnt d a f n).credits = d.credits := by unfold fcnt; split <;> rfl
@[simp] theorem fcnt_aqds (d : Dev) (a : Nat) (f : Fld) (n : Nat) : (fcnt d a f n).aqds = d.aqds := by unfold fcnt; split <;> rfl
@[simp] theorem fcnt_nets (d : Dev) (a : Nat) (f : Fld) (n : Nat) : (fcnt d a f n).nets = d.nets := by unfold fcnt; split <;> rfl
@[simp] theorem fcnt_lasers (d : Dev) (a : Nat) (f : Fld) (n : Nat) : (fcnt d a f n).lasers = d.lasers := by unfold fcnt; split <;> rfl
@[simp] theorem fcnt_mbxHalves (d : Dev) (a : Nat) (f : Fld) (n : Nat) : (fcnt d a f n).mbxHalves = d.mbxHalves := by unfold fcnt; split <;> rfl
@[simp] theorem fcnt_mailboxes (d : Dev) (a : Nat) (f : Fld) (n : Nat) : (fcnt d a f n).mailboxes = d.mailboxes := by unfold fcnt; split <;> rfl
@[simp] theorem fcnt_partners (d : Dev) (a : Nat) (f : Fld) (n : Nat) : (fcnt d a f n).partners = d.partners := by unfold fcnt; split <;> rfl
@[simp] theorem fcnt_groups (d : Dev) (a : Nat) (f : Fld) (n : Nat) : (fcnt d a f n).groups = d.groups := by unfold fcnt; split <;> rfl
@[simp] theorem fcnt_barriers (d : Dev) (a : Nat) (f : Fld) (n : Nat) : (fcnt d a f n).barriers = d.barriers := by unfold fcnt; split <;> rfl
@[simp] theorem fcnt_relays (d : Dev) (a : Nat) (f : Fld) (n : Nat) : (fcnt d a f n).relays = d.relays := by unfold fcnt; split <;> rfl
@[simp] theorem fcnt_barEvents (d : Dev) (a : Nat) (f : Fld) (n : Nat) : (fcnt d a f n).barEvents = d.barEvents := by unfold fcnt; split <;> rfl
@[simp] theorem fcnt_snaps (d : Dev) (a : Nat) (f : Fld) (n : Nat) : (fcnt d a f n).snaps = d.snaps := by unfold fcnt; split <;> rfl
@[simp] theorem fcnt_nextId (d : Dev) (a : Nat) (f : Fld) (n : Nat) : (fcnt d a f n).nextId = d.nextId := by unfold fcnt; split <;> rfl
@[simp] theorem fcnt_coord (d : Dev) (a : Nat) (f : Fld) (n : Nat) : (fcnt d a f n).coord = d.coord := by unfold fcnt; split <;> rfl
@[simp] theorem fcnt_roster (d : Dev) (a : Nat) (f : Fld) (n : Nat) : (fcnt d a f n).roster = d.roster := by unfold fcnt; split <;> rfl
@[simp] theorem fcnt_errors (d : Dev) (a : Nat) (f : Fld) (n : Nat) : (fcnt d a f n).errors = d.errors := by unfold fcnt; split <;> rfl
@[simp] theorem fcnt_srv (d : Dev) (a : Nat) (f : Fld) (n : Nat) : (fcnt d a f n).srv = d.srv := by unfold fcnt; split <;> rfl
@[simp] theorem fcnt_cont (d : Dev) (a : Nat) (f : Fld) (n : Nat) : (fcnt d a f n).cont = d.cont := by unfold fcnt; split <;> rfl
@[simp] theorem fcnt_boot (d : Dev) (a : Nat) (f : Fld) (n : Nat) : (fcnt d a f n).boot = d.boot := by unfold fcnt; split <;> rfl
@[simp] theorem fcnt_clock (d : Dev) (a : Nat) (f : Fld) (n : Nat) : (fcnt d a f n).clock = d.clock := by unfold fcnt; split <;> rfl
@[simp] theorem fcnt_power (d : Dev) (a : Nat) (f : Fld) (n : Nat) : (fcnt d a f n).power = d.power := by unfold fcnt; split <;> rfl
@[simp] theorem fcnt_timerIrq (d : Dev) (a : Nat) (f : Fld) (n : Nat) : (fcnt d a f n).timerIrq = d.timerIrq := by unfold fcnt; split <;> rfl
@[simp] theorem fcnt_i3c (d : Dev) (a : Nat) (f : Fld) (n : Nat) : (fcnt d a f n).i3c = d.i3c := by unfold fcnt; split <;> rfl
@[simp] theorem fcnt_tap (d : Dev) (a : Nat) (f : Fld) (n : Nat) : (fcnt d a f n).tap = d.tap := by unfold fcnt; split <;> rfl
@[simp] theorem fcnt_out (d : Dev) (a : Nat) (f : Fld) (n : Nat) : (fcnt d a f n).out = d.out := by unfold fcnt; split <;> rfl

@[simp] theorem fsets_epoch (d : Dev) (a : Nat) (l : List (Fld × Nat)) : (fsets d a l).epoch = d.epoch := by
  conv => rhs; rw [← fsets_frame d a l]
@[simp] theorem fsets_tally (d : Dev) (a : Nat) (l : List (Fld × Nat)) : (fsets d a l).tally = d.tally := by
  conv => rhs; rw [← fsets_frame d a l]
@[simp] theorem fsets_shadow (d : Dev) (a : Nat) (l : List (Fld × Nat)) : (fsets d a l).shadow = d.shadow := by
  conv => rhs; rw [← fsets_frame d a l]
@[simp] theorem fsets_selBank (d : Dev) (a : Nat) (l : List (Fld × Nat)) : (fsets d a l).selBank = d.selBank := by
  conv => rhs; rw [← fsets_frame d a l]
@[simp] theorem fsets_since (d : Dev) (a : Nat) (l : List (Fld × Nat)) : (fsets d a l).since = d.since := by
  conv => rhs; rw [← fsets_frame d a l]
@[simp] theorem fsets_blocks (d : Dev) (a : Nat) (l : List (Fld × Nat)) : (fsets d a l).blocks = d.blocks := by
  conv => rhs; rw [← fsets_frame d a l]
@[simp] theorem fsets_dies (d : Dev) (a : Nat) (l : List (Fld × Nat)) : (fsets d a l).dies = d.dies := by
  conv => rhs; rw [← fsets_frame d a l]
@[simp] theorem fsets_step (d : Dev) (a : Nat) (l : List (Fld × Nat)) : (fsets d a l).step = d.step := by
  conv => rhs; rw [← fsets_frame d a l]
@[simp] theorem fsets_halls (d : Dev) (a : Nat) (l : List (Fld × Nat)) : (fsets d a l).halls = d.halls := by
  conv => rhs; rw [← fsets_frame d a l]
@[simp] theorem fsets_tcms (d : Dev) (a : Nat) (l : List (Fld × Nat)) : (fsets d a l).tcms = d.tcms := by
  conv => rhs; rw [← fsets_frame d a l]
@[simp] theorem fsets_rsv (d : Dev) (a : Nat) (l : List (Fld × Nat)) : (fsets d a l).rsv = d.rsv := by
  conv => rhs; rw [← fsets_frame d a l]
@[simp] theorem fsets_stackTab (d : Dev) (a : Nat) (l : List (Fld × Nat)) : (fsets d a l).stackTab = d.stackTab := by
  conv => rhs; rw [← fsets_frame d a l]
@[simp] theorem fsets_fountains (d : Dev) (a : Nat) (l : List (Fld × Nat)) : (fsets d a l).fountains = d.fountains := by
  conv => rhs; rw [← fsets_frame d a l]
@[simp] theorem fsets_asks (d : Dev) (a : Nat) (l : List (Fld × Nat)) : (fsets d a l).asks = d.asks := by
  conv => rhs; rw [← fsets_frame d a l]
@[simp] theorem fsets_windows (d : Dev) (a : Nat) (l : List (Fld × Nat)) : (fsets d a l).windows = d.windows := by
  conv => rhs; rw [← fsets_frame d a l]
@[simp] theorem fsets_winCopies (d : Dev) (a : Nat) (l : List (Fld × Nat)) : (fsets d a l).winCopies = d.winCopies := by
  conv => rhs; rw [← fsets_frame d a l]
@[simp] theorem fsets_accepted (d : Dev) (a : Nat) (l : List (Fld × Nat)) : (fsets d a l).accepted = d.accepted := by
  conv => rhs; rw [← fsets_frame d a l]
@[simp] theorem fsets_winReads (d : Dev) (a : Nat) (l : List (Fld × Nat)) : (fsets d a l).winReads = d.winReads := by
  conv => rhs; rw [← fsets_frame d a l]
@[simp] theorem fsets_txns (d : Dev) (a : Nat) (l : List (Fld × Nat)) : (fsets d a l).txns = d.txns := by
  conv => rhs; rw [← fsets_frame d a l]
@[simp] theorem fsets_credits (d : Dev) (a : Nat) (l : List (Fld × Nat)) : (fsets d a l).credits = d.credits := by
  conv => rhs; rw [← fsets_frame d a l]
@[simp] theorem fsets_aqds (d : Dev) (a : Nat) (l : List (Fld × Nat)) : (fsets d a l).aqds = d.aqds := by
  conv => rhs; rw [← fsets_frame d a l]
@[simp] theorem fsets_nets (d : Dev) (a : Nat) (l : List (Fld × Nat)) : (fsets d a l).nets = d.nets := by
  conv => rhs; rw [← fsets_frame d a l]
@[simp] theorem fsets_lasers (d : Dev) (a : Nat) (l : List (Fld × Nat)) : (fsets d a l).lasers = d.lasers := by
  conv => rhs; rw [← fsets_frame d a l]
@[simp] theorem fsets_mbxHalves (d : Dev) (a : Nat) (l : List (Fld × Nat)) : (fsets d a l).mbxHalves = d.mbxHalves := by
  conv => rhs; rw [← fsets_frame d a l]
@[simp] theorem fsets_mailboxes (d : Dev) (a : Nat) (l : List (Fld × Nat)) : (fsets d a l).mailboxes = d.mailboxes := by
  conv => rhs; rw [← fsets_frame d a l]
@[simp] theorem fsets_partners (d : Dev) (a : Nat) (l : List (Fld × Nat)) : (fsets d a l).partners = d.partners := by
  conv => rhs; rw [← fsets_frame d a l]
@[simp] theorem fsets_groups (d : Dev) (a : Nat) (l : List (Fld × Nat)) : (fsets d a l).groups = d.groups := by
  conv => rhs; rw [← fsets_frame d a l]
@[simp] theorem fsets_barriers (d : Dev) (a : Nat) (l : List (Fld × Nat)) : (fsets d a l).barriers = d.barriers := by
  conv => rhs; rw [← fsets_frame d a l]
@[simp] theorem fsets_relays (d : Dev) (a : Nat) (l : List (Fld × Nat)) : (fsets d a l).relays = d.relays := by
  conv => rhs; rw [← fsets_frame d a l]
@[simp] theorem fsets_barEvents (d : Dev) (a : Nat) (l : List (Fld × Nat)) : (fsets d a l).barEvents = d.barEvents := by
  conv => rhs; rw [← fsets_frame d a l]
@[simp] theorem fsets_snaps (d : Dev) (a : Nat) (l : List (Fld × Nat)) : (fsets d a l).snaps = d.snaps := by
  conv => rhs; rw [← fsets_frame d a l]
@[simp] theorem fsets_nextId (d : Dev) (a : Nat) (l : List (Fld × Nat)) : (fsets d a l).nextId = d.nextId := by
  conv => rhs; rw [← fsets_frame d a l]
@[simp] theorem fsets_coord (d : Dev) (a : Nat) (l : List (Fld × Nat)) : (fsets d a l).coord = d.coord := by
  conv => rhs; rw [← fsets_frame d a l]
@[simp] theorem fsets_roster (d : Dev) (a : Nat) (l : List (Fld × Nat)) : (fsets d a l).roster = d.roster := by
  conv => rhs; rw [← fsets_frame d a l]
@[simp] theorem fsets_errors (d : Dev) (a : Nat) (l : List (Fld × Nat)) : (fsets d a l).errors = d.errors := by
  conv => rhs; rw [← fsets_frame d a l]
@[simp] theorem fsets_srv (d : Dev) (a : Nat) (l : List (Fld × Nat)) : (fsets d a l).srv = d.srv := by
  conv => rhs; rw [← fsets_frame d a l]
@[simp] theorem fsets_cont (d : Dev) (a : Nat) (l : List (Fld × Nat)) : (fsets d a l).cont = d.cont := by
  conv => rhs; rw [← fsets_frame d a l]
@[simp] theorem fsets_boot (d : Dev) (a : Nat) (l : List (Fld × Nat)) : (fsets d a l).boot = d.boot := by
  conv => rhs; rw [← fsets_frame d a l]
@[simp] theorem fsets_clock (d : Dev) (a : Nat) (l : List (Fld × Nat)) : (fsets d a l).clock = d.clock := by
  conv => rhs; rw [← fsets_frame d a l]
@[simp] theorem fsets_power (d : Dev) (a : Nat) (l : List (Fld × Nat)) : (fsets d a l).power = d.power := by
  conv => rhs; rw [← fsets_frame d a l]
@[simp] theorem fsets_timerIrq (d : Dev) (a : Nat) (l : List (Fld × Nat)) : (fsets d a l).timerIrq = d.timerIrq := by
  conv => rhs; rw [← fsets_frame d a l]
@[simp] theorem fsets_i3c (d : Dev) (a : Nat) (l : List (Fld × Nat)) : (fsets d a l).i3c = d.i3c := by
  conv => rhs; rw [← fsets_frame d a l]
@[simp] theorem fsets_tap (d : Dev) (a : Nat) (l : List (Fld × Nat)) : (fsets d a l).tap = d.tap := by
  conv => rhs; rw [← fsets_frame d a l]
@[simp] theorem fsets_out (d : Dev) (a : Nat) (l : List (Fld × Nat)) : (fsets d a l).out = d.out := by
  conv => rhs; rw [← fsets_frame d a l]

/-! ## Fields of the state -/

@[simp] theorem State.reset_pending : State.reset.pending = [] := rfl
@[simp] theorem State.reset_dev : State.reset.dev = {} := rfl

end Sys2Proof.Machine
end

