-- ==== Sys2Proof/Laws/PerInstr.lean ====
section
/-! SUPPORT. Laws/PerInstr: the family Row: each command gives a next state with its queue
unchanged, and changes nothing where its operands are ones that nothing can bring. -/

namespace Sys2Proof.Laws.Row

open Sys2Proof.Machine

/-- What holds of every command. -/
def Statement (i : Instr) : Prop :=
  ∀ s : State, (∃ d, exec i s = .next { s with dev := d }) ∧ (i.wellFormed = false → exec i s = .next s)

theorem powerUp (railsOk : Bool) :
    Statement (.powerUp railsOk) := fun s => by rw [exec_powerUp, execPowerUp]; exact act_row _ _ _ s
theorem inputUndervoltage :
    Statement .inputUndervoltage := fun s => by rw [exec_inputUndervoltage, execInputUndervoltage]; exact act_row _ _ _ s
theorem inputOvervoltage :
    Statement .inputOvervoltage := fun s => by rw [exec_inputOvervoltage, execInputOvervoltage]; exact act_row _ _ _ s
theorem inputBandChange (v : BitVec 16) :
    Statement (.inputBandChange v) := fun s => by rw [exec_inputBandChange, execInputBandChange]; exact act_row _ _ _ s
theorem modRstNRise (env : BootEnv) :
    Statement (.modRstNRise env) := fun s => by rw [exec_modRstNRise, execModRstNRise]; exact act_row _ _ _ s
theorem modRstNFall :
    Statement .modRstNFall := fun s => by rw [exec_modRstNFall, execModRstNFall]; exact act_row _ _ _ s
theorem bootRetry (flash : Option Flash) :
    Statement (.bootRetry flash) := fun s => by rw [exec_bootRetry, execBootRetry]; exact act_row _ _ _ s
theorem referenceLost :
    Statement .referenceLost := fun s => by rw [exec_referenceLost, execReferenceLost]; exact act_row _ _ _ s
theorem referenceRestored :
    Statement .referenceRestored := fun s => by rw [exec_referenceRestored, execReferenceRestored]; exact act_row _ _ _ s
theorem ppsInEdge : Statement .ppsInEdge := fun s => by rw [exec_ppsInEdge, execPpsInEdge]; exact act_row _ _ _ s
theorem ppsOutPulse :
    Statement .ppsOutPulse := fun s => by rw [exec_ppsOutPulse, execPpsOutPulse]; exact act_row _ _ _ s
theorem temperatureSample (place : ThermalPlace) (t : BitVec 8) :
    Statement (.temperatureSample place t) := fun s => by rw [exec_temperatureSample, execTemperatureSample]; exact act_row _ _ _ s
theorem ceilingLower (place : ThermalPlace) :
    Statement (.ceilingLower place) := fun s => by rw [exec_ceilingLower, execCeilingLower]; exact act_row _ _ _ s
theorem ceilingRaise (place : ThermalPlace) :
    Statement (.ceilingRaise place) := fun s => by rw [exec_ceilingRaise, execCeilingRaise]; exact act_row _ _ _ s
theorem ceilingChange :
    Statement .ceilingChange := fun s => by rw [exec_ceilingChange, execCeilingChange]; exact act_row _ _ _ s
theorem opRaiseAllowed :
    Statement .opRaiseAllowed := fun s => by rw [exec_opRaiseAllowed, execOpRaiseAllowed]; exact act_row _ _ _ s
theorem supplyCeilingLower (watts : BitVec 16) (amps : BitVec 16) :
    Statement (.supplyCeilingLower watts amps) := fun s => by rw [exec_supplyCeilingLower, execSupplyCeilingLower]; exact act_row _ _ _ s
theorem supplyCeilingRaise (watts : BitVec 16) (amps : BitVec 16) :
    Statement (.supplyCeilingRaise watts amps) := fun s => by rw [exec_supplyCeilingRaise, execSupplyCeilingRaise]; exact act_row _ _ _ s
theorem opApply : Statement .opApply := fun s => by rw [exec_opApply, execOpApply]; exact act_row _ _ _ s
theorem voltageRampDone :
    Statement .voltageRampDone := fun s => by rw [exec_voltageRampDone, execVoltageRampDone]; exact act_row _ _ _ s
theorem droopStretch (die : DieId) (n : Fin 4) (deep : Bool) (margin : BitVec 8) :
    Statement (.droopStretch die n deep margin) := fun s => by rw [exec_droopStretch, execDroopStretch]; exact act_row _ _ _ s
theorem droopStretchEnd (die : DieId) (again : Option (Fin 4 × Bool × BitVec 8)) :
    Statement (.droopStretchEnd die again) := fun s => by rw [exec_droopStretchEnd, execDroopStretchEnd]; exact act_row _ _ _ s
theorem railAlert (rail : RailId) :
    Statement (.railAlert rail) := fun s => by rw [exec_railAlert, execRailAlert]; exact act_row _ _ _ s
theorem timeStep (p : Path) (v : Word) :
    Statement (.timeStep p v) := fun s => by rw [exec_timeStep, execTimeStep]; exact act_row _ _ _ s
theorem timeRate (p : Path) (v : Word) :
    Statement (.timeRate p v) := fun s => by rw [exec_timeRate, execTimeRate]; exact act_row _ _ _ s
theorem timeSourceSilent :
    Statement .timeSourceSilent := fun s => by rw [exec_timeSourceSilent, execTimeSourceSilent]; exact act_row _ _ _ s
theorem tallyRead (p : Path) :
    Statement (.tallyRead p) := fun s => by rw [exec_tallyRead, execTallyRead]; exact act_row _ _ _ s
theorem timeRead (p : Path) :
    Statement (.timeRead p) := fun s => by rw [exec_timeRead, execTimeRead]; exact act_row _ _ _ s
theorem rcCounterRead (c : CtlAccess) :
    Statement (.rcCounterRead c) := fun s => by rw [exec_rcCounterRead, execRcCounterRead]; exact act_row _ _ _ s
theorem registerWrite (c : CtlAccess) (v : Word) :
    Statement (.registerWrite c v) := fun s => by rw [exec_registerWrite, execRegisterWrite]; exact act_row _ _ _ s
theorem applyArm (p : Path) (g : ApplyGroup) :
    Statement (.applyArm p g) := fun s => by rw [exec_applyArm, execApplyArm]; exact act_row _ _ _ s
theorem pumpRingApply (die : DieId) (b : BlockId) (pump : PumpId) :
    Statement (.pumpRingApply die b pump) := fun s => by rw [exec_pumpRingApply, execPumpRingApply]; exact act_row _ _ _ s
theorem squareRetireApply (die : DieId) (b : BlockId) :
    Statement (.squareRetireApply die b) := fun s => by rw [exec_squareRetireApply, execSquareRetireApply]; exact act_row _ _ _ s
theorem placementApply (die : DieId) :
    Statement (.placementApply die) := fun s => by rw [exec_placementApply, execPlacementApply]; exact act_row _ _ _ s
theorem reservoirShareApply (stack : StackId) :
    Statement (.reservoirShareApply stack) := fun s => by rw [exec_reservoirShareApply, execReservoirShareApply]; exact act_row _ _ _ s
theorem aqueductCtrlApply (g : AqdId) :
    Statement (.aqueductCtrlApply g) := fun s => by rw [exec_aqueductCtrlApply, execAqueductCtrlApply]; exact act_row _ _ _ s
theorem barrierSlotApply (h : HeadId) (slot : Fin 64) :
    Statement (.barrierSlotApply h slot) := fun s => by rw [exec_barrierSlotApply, execBarrierSlotApply]; exact act_row _ _ _ s
theorem modelTableApply (m : Fin 64) (target : Option (Fin 65536)) :
    Statement (.modelTableApply m target) := fun s => by rw [exec_modelTableApply, execModelTableApply]; exact act_row _ _ _ s
theorem coreTimerApply (die : DieId) (core : CoreId) :
    Statement (.coreTimerApply die core) := fun s => by rw [exec_coreTimerApply, execCoreTimerApply]; exact act_row _ _ _ s
theorem refreshTick (die : DieId) (b : BlockId) :
    Statement (.refreshTick die b) := fun s => by rw [exec_refreshTick, execRefreshTick]; exact act_row _ _ _ s
theorem opportunisticRefresh (die : DieId) (b : BlockId) (sub : Fin 32) :
    Statement (.opportunisticRefresh die b sub) := fun s => by rw [exec_opportunisticRefresh, execOpportunisticRefresh]; exact act_row _ _ _ s
theorem refreshActionEnd (die : DieId) (b : BlockId) (sub : Fin 32) :
    Statement (.refreshActionEnd die b sub) := fun s => by rw [exec_refreshActionEnd, execRefreshActionEnd]; exact act_row _ _ _ s
theorem groundRepairDone (die : DieId) (b : BlockId) (fails : Fin 4) (bad : Bool) :
    Statement (.groundRepairDone die b fails bad) := fun s => by rw [exec_groundRepairDone, execGroundRepairDone]; exact act_row _ _ _ s
theorem bankPowerDown (p : Path) (die : DieId) (b : BlockId) (bank : BankId) :
    Statement (.bankPowerDown p die b bank) := fun s => by rw [exec_bankPowerDown, execBankPowerDown]; exact act_row _ _ _ s
theorem bankWake (p : Path) (die : DieId) (b : BlockId) (bank : BankId) :
    Statement (.bankWake p die b bank) := fun s => by rw [exec_bankWake, execBankWake]; exact act_row _ _ _ s
theorem bankReady (die : DieId) (b : BlockId) (bank : BankId) :
    Statement (.bankReady die b bank) := fun s => by rw [exec_bankReady, execBankReady]; exact act_row _ _ _ s
theorem markWrite (p : Path) (die : DieId) (b : BlockId) (row : BitVec 15) (narrow : Bool) (gen : BitVec 3) (filled : Bool) :
    Statement (.markWrite p die b row narrow gen filled) := fun s => by rw [exec_markWrite, execMarkWrite]; exact act_row _ _ _ s
theorem zeroRangeGo (p : Path) (die : DieId) (b : BlockId) (narrow : Bool) :
    Statement (.zeroRangeGo p die b narrow) := fun s => by rw [exec_zeroRangeGo, execZeroRangeGo]; exact act_row _ _ _ s
theorem zeroRangeDone (die : DieId) (b : LandingAt) :
    Statement (.zeroRangeDone die b) := fun s => by rw [exec_zeroRangeDone, execZeroRangeDone]; exact act_row _ _ _ s
theorem programStoreWrite (w : StoreWrite) :
    Statement (.programStoreWrite w) := fun s => by rw [exec_programStoreWrite, execProgramStoreWrite]; exact act_row _ _ _ s
theorem startTally (bad : List (DieId × BlockId × BadRead)) :
    Statement (.startTally bad) := fun s => by rw [exec_startTally, execStartTally]; exact act_row _ _ _ s
theorem blockStepStart (die : DieId) (b : BlockId) (bad : List BadRead) :
    Statement (.blockStepStart die b bad) := fun s => by rw [exec_blockStepStart, execBlockStepStart]; exact act_row _ _ _ s
theorem zeroFillDone (die : DieId) (b : BlockId) (bad : List BadRead) :
    Statement (.zeroFillDone die b bad) := fun s => by rw [exec_zeroFillDone, execZeroFillDone]; exact act_row _ _ _ s
theorem unitStart (die : DieId) (b : BlockId) :
    Statement (.unitStart die b) := fun s => by rw [exec_unitStart, execUnitStart]; exact act_row _ _ _ s
theorem blockDone (die : DieId) (b : BlockId) :
    Statement (.blockDone die b) := fun s => by rw [exec_blockDone, execBlockDone]; exact act_row _ _ _ s
theorem pass (die : DieId) (b : BlockId) (env : WellEnv) :
    Statement (.pass die b env) := fun s => by rw [exec_pass, execPass]; exact act_row _ _ _ s
theorem entryComplete (die : DieId) (b : BlockId) (bad : List BadRead) :
    Statement (.entryComplete die b bad) := fun s => by rw [exec_entryComplete, execEntryComplete]; exact act_row _ _ _ s
theorem tileLoadStart (die : DieId) (b : BlockId) (errs : List LineErr) (env : WellEnv) :
    Statement (.tileLoadStart die b errs env) := fun s => by rw [exec_tileLoadStart, execTileLoadStart]; exact act_row _ _ _ s
theorem tileReady (die : DieId) (b : BlockId) :
    Statement (.tileReady die b) := fun s => by rw [exec_tileReady, execTileReady]; exact act_row _ _ _ s
theorem quartetStallEnd (die : DieId) (b : BlockId) (env : WellEnv) :
    Statement (.quartetStallEnd die b env) := fun s => by rw [exec_quartetStallEnd, execQuartetStallEnd]; exact act_row _ _ _ s
theorem fillMarkWaitEnd (die : DieId) (b : BlockId) (unit : Consumer) (env : PumpEnv) :
    Statement (.fillMarkWaitEnd die b unit env) := fun s => by rw [exec_fillMarkWaitEnd, execFillMarkWaitEnd]; exact act_row _ _ _ s
theorem readReplay (die : DieId) (b : BlockId) (unit : Consumer) :
    Statement (.readReplay die b unit) := fun s => by rw [exec_readReplay, execReadReplay]; exact act_row _ _ _ s
theorem chainIssue (die : DieId) (b : BlockId) (env : WellEnv) :
    Statement (.chainIssue die b env) := fun s => by rw [exec_chainIssue, execChainIssue]; exact act_row _ _ _ s
theorem chainIteration (die : DieId) (b : BlockId) (env : WellEnv) :
    Statement (.chainIteration die b env) := fun s => by rw [exec_chainIteration, execChainIteration]; exact act_row _ _ _ s
theorem vectorStoreLand (die : DieId) (b : LandingAt) :
    Statement (.vectorStoreLand die b) := fun s => by rw [exec_vectorStoreLand, execVectorStoreLand]; exact act_row _ _ _ s
theorem nop (die : DieId) (b : BlockId) (env : WellEnv) :
    Statement (.nop die b env) := fun s => by rw [exec_nop, execNop]; exact act_row _ _ _ s
theorem end_ (die : DieId) (b : BlockId) (env : WellEnv) :
    Statement (.end_ die b env) := fun s => by rw [exec_end_, execEnd]; exact act_row _ _ _ s
theorem loop (die : DieId) (b : BlockId) (env : WellEnv) :
    Statement (.loop die b env) := fun s => by rw [exec_loop, execLoop]; exact act_row _ _ _ s
theorem gsig (die : DieId) (b : BlockId) (env : WellEnv) :
    Statement (.gsig die b env) := fun s => by rw [exec_gsig, execGsig]; exact act_row _ _ _ s
theorem gwait (die : DieId) (b : BlockId) (env : WellEnv) :
    Statement (.gwait die b env) := fun s => by rw [exec_gwait, execGwait]; exact act_row _ _ _ s
theorem gset (die : DieId) (b : BlockId) (env : WellEnv) :
    Statement (.gset die b env) := fun s => by rw [exec_gset, execGset]; exact act_row _ _ _ s
theorem fence (die : DieId) (b : BlockId) (env : WellEnv) :
    Statement (.fence die b env) := fun s => by rw [exec_fence, execFence]; exact act_row _ _ _ s
theorem eclr (die : DieId) (b : BlockId) (env : WellEnv) :
    Statement (.eclr die b env) := fun s => by rw [exec_eclr, execEclr]; exact act_row _ _ _ s
theorem edepb (die : DieId) (b : BlockId) (env : WellEnv) :
    Statement (.edepb die b env) := fun s => by rw [exec_edepb, execEdepb]; exact act_row _ _ _ s
theorem edepw (die : DieId) (b : BlockId) (env : WellEnv) :
    Statement (.edepw die b env) := fun s => by rw [exec_edepw, execEdepw]; exact act_row _ _ _ s
theorem edeps (die : DieId) (b : BlockId) (env : WellEnv) :
    Statement (.edeps die b env) := fun s => by rw [exec_edeps, execEdeps]; exact act_row _ _ _ s
theorem edept (die : DieId) (b : BlockId) (env : WellEnv) :
    Statement (.edept die b env) := fun s => by rw [exec_edept, execEdept]; exact act_row _ _ _ s
theorem ernd (die : DieId) (b : BlockId) (env : WellEnv) :
    Statement (.ernd die b env) := fun s => by rw [exec_ernd, execErnd]; exact act_row _ _ _ s
theorem ests (die : DieId) (b : BlockId) (env : WellEnv) :
    Statement (.ests die b env) := fun s => by rw [exec_ests, execEsts]; exact act_row _ _ _ s
theorem estt (die : DieId) (b : BlockId) (env : WellEnv) :
    Statement (.estt die b env) := fun s => by rw [exec_estt, execEstt]; exact act_row _ _ _ s
theorem addrSet (die : DieId) (b : BlockId) (env : WellEnv) :
    Statement (.addrSet die b env) := fun s => by rw [exec_addrSet, execAddrSet]; exact act_row _ _ _ s
theorem addrAdd (die : DieId) (b : BlockId) (env : WellEnv) :
    Statement (.addrAdd die b env) := fun s => by rw [exec_addrAdd, execAddrAdd]; exact act_row _ _ _ s
theorem addrSethi (die : DieId) (b : BlockId) (env : WellEnv) :
    Statement (.addrSethi die b env) := fun s => by rw [exec_addrSethi, execAddrSethi]; exact act_row _ _ _ s
theorem addrMov (die : DieId) (b : BlockId) (env : WellEnv) :
    Statement (.addrMov die b env) := fun s => by rw [exec_addrMov, execAddrMov]; exact act_row _ _ _ s
theorem descriptorIssue (die : DieId) (b : BlockId) (pump : PumpId) (env : WellEnv) :
    Statement (.descriptorIssue die b pump env) := fun s => by rw [exec_descriptorIssue, execDescriptorIssue]; exact act_row _ _ _ s
theorem ringDoorbell (p : Path) (die : DieId) (b : BlockId) (pump : PumpId) (tail : BitVec 12) :
    Statement (.ringDoorbell p die b pump tail) := fun s => by rw [exec_ringDoorbell, execRingDoorbell]; exact act_row _ _ _ s
theorem copy (die : DieId) (b : BlockId) (pump : PumpId) (env : PumpEnv) :
    Statement (.copy die b pump env) := fun s => by rw [exec_copy, execCopy]; exact act_row _ _ _ s
theorem gather (die : DieId) (b : BlockId) (pump : PumpId) (env : PumpEnv) :
    Statement (.gather die b pump env) := fun s => by rw [exec_gather, execGather]; exact act_row _ _ _ s
theorem scatter (die : DieId) (b : BlockId) (pump : PumpId) (env : PumpEnv) :
    Statement (.scatter die b pump env) := fun s => by rw [exec_scatter, execScatter]; exact act_row _ _ _ s
theorem unskew16 (die : DieId) (b : BlockId) (pump : PumpId) (env : PumpEnv) :
    Statement (.unskew16 die b pump env) := fun s => by rw [exec_unskew16, execUnskew16]; exact act_row _ _ _ s
theorem skew16 (die : DieId) (b : BlockId) (pump : PumpId) (env : PumpEnv) :
    Statement (.skew16 die b pump env) := fun s => by rw [exec_skew16, execSkew16]; exact act_row _ _ _ s
theorem pumpWriteLand (die : DieId) (b : LandingAt) (pump : PumpId) (queue : QueueId) :
    Statement (.pumpWriteLand die b pump queue) := fun s => by rw [exec_pumpWriteLand, execPumpWriteLand]; exact act_row _ _ _ s
theorem descriptorComplete (die : DieId) (b : BlockId) (pump : PumpId) (queue : QueueId) :
    Statement (.descriptorComplete die b pump queue) := fun s => by rw [exec_descriptorComplete, execDescriptorComplete]; exact act_row _ _ _ s
theorem readMerge (sq : SquareAt) (m : MergeEvent) :
    Statement (.readMerge sq m) := fun s => by rw [exec_readMerge, execReadMerge]; exact act_row _ _ _ s
theorem linkRetry (link : LinkId) (crc : Bool) (waiter : Option (DieId × BlockId)) :
    Statement (.linkRetry link crc waiter) := fun s => by rw [exec_linkRetry, execLinkRetry]; exact act_row _ _ _ s
theorem bridgeLaneRetire (p : Path) (die : AnyDie) (port : Fin 4) (lane : Fin 64) :
    Statement (.bridgeLaneRetire p die port lane) := fun s => by rw [exec_bridgeLaneRetire, execBridgeLaneRetire]; exact act_row _ _ _ s
theorem bridgeStateChange (die : AnyDie) (port : Fin 4) (up : Bool) :
    Statement (.bridgeStateChange die port up) := fun s => by rw [exec_bridgeStateChange, execBridgeStateChange]; exact act_row _ _ _ s
theorem fountainFrameAccept (h : HeadId) :
    Statement (.fountainFrameAccept h) := fun s => by rw [exec_fountainFrameAccept, execFountainFrameAccept]; exact act_row _ _ _ s
theorem fountainAcceptance (h : HeadId) (frame : Nat) (target : Fin 64) :
    Statement (.fountainAcceptance h frame target) := fun s => by rw [exec_fountainAcceptance, execFountainAcceptance]; exact act_row _ _ _ s
theorem fountainCreditReturn (h : HeadId) (target : CreditFrom) (n : Fin 65) :
    Statement (.fountainCreditReturn h target n) := fun s => by rw [exec_fountainCreditReturn, execFountainCreditReturn]; exact act_row _ _ _ s
theorem fntStall (h : HeadId) (frame : Nat) (target : Fin 64) :
    Statement (.fntStall h frame target) := fun s => by rw [exec_fntStall, execFntStall]; exact act_row _ _ _ s
theorem fountainTargetRefused (h : HeadId) (frame : Nat) (target : Fin 64) :
    Statement (.fountainTargetRefused h frame target) := fun s => by rw [exec_fountainTargetRefused, execFountainTargetRefused]; exact act_row _ _ _ s
theorem fntEntryCommit (p : Path) (h : HeadId) (v : Word) :
    Statement (.fntEntryCommit p h v) := fun s => by rw [exec_fntEntryCommit, execFntEntryCommit]; exact act_row _ _ _ s
theorem fntListCommit (p : Path) (h : HeadId) (first : BitVec 13) (countM1 : BitVec 6) (valid : Bool) :
    Statement (.fntListCommit p h first countM1 valid) := fun s => by rw [exec_fntListCommit, execFntListCommit]; exact act_row _ _ _ s
theorem signal (p : Path) (die : AnyDie) (gate : Fin 512) (n : BitVec 24) :
    Statement (.signal p die gate n) := fun s => by rw [exec_signal, execSignal]; exact act_row _ _ _ s
theorem consume (p : Path) (die : AnyDie) (gate : Fin 512) (n : BitVec 24) :
    Statement (.consume p die gate n) := fun s => by rw [exec_consume, execConsume]; exact act_row _ _ _ s
theorem setThresh (p : Path) (die : AnyDie) (gate : Fin 512) (n : BitVec 24) :
    Statement (.setThresh p die gate n) := fun s => by rw [exec_setThresh, execSetThresh]; exact act_row _ _ _ s
theorem addThresh (p : Path) (die : AnyDie) (gate : Fin 512) (n : BitVec 24) :
    Statement (.addThresh p die gate n) := fun s => by rw [exec_addThresh, execAddThresh]; exact act_row _ _ _ s
theorem reset (p : Path) (die : AnyDie) (gate : Fin 512) :
    Statement (.reset p die gate) := fun s => by rw [exec_reset, execReset]; exact act_row _ _ _ s
theorem hallwaitArm (p : Path) (die : AnyDie) (gate : Fin 512) (core : CoreId) (coreDie : AnyDie) :
    Statement (.hallwaitArm p die gate core coreDie) := fun s => by rw [exec_hallwaitArm, execHallwaitArm]; exact act_row _ _ _ s
theorem holdArrive (die : DieId) (b : BlockId) :
    Statement (.holdArrive die b) := fun s => by rw [exec_holdArrive, execHoldArrive]; exact act_row _ _ _ s
theorem holdRelease :
    Statement .holdRelease := fun s => by rw [exec_holdRelease, execHoldRelease]; exact act_row _ _ _ s
theorem holdResume (die : DieId) (b : BlockId) :
    Statement (.holdResume die b) := fun s => by rw [exec_holdResume, execHoldResume]; exact act_row _ _ _ s
theorem stepAbort : Statement .stepAbort := fun s => by rw [exec_stepAbort, execStepAbort]; exact act_row _ _ _ s
theorem abortEnd : Statement .abortEnd := fun s => by rw [exec_abortEnd, execAbortEnd]; exact act_row _ _ _ s
theorem stepWatchdogExpiry :
    Statement .stepWatchdogExpiry := fun s => by rw [exec_stepWatchdogExpiry, execStepWatchdogExpiry]; exact act_row _ _ _ s
theorem dieStepComplete (e : DieEnd) :
    Statement (.dieStepComplete e) := fun s => by rw [exec_dieStepComplete, execDieStepComplete]; exact act_row _ _ _ s
theorem stepComplete :
    Statement .stepComplete := fun s => by rw [exec_stepComplete, execStepComplete]; exact act_row _ _ _ s
theorem stepReplay : Statement .stepReplay := fun s => by rw [exec_stepReplay, execStepReplay]; exact act_row _ _ _ s
theorem reservoirAccess (a : RsvArrival) :
    Statement (.reservoirAccess a) := fun s => by rw [exec_reservoirAccess, execReservoirAccess]; exact act_row _ _ _ s
theorem reservoirService (stack : StackId) (n : Nat) (fails : Fin 4) :
    Statement (.reservoirService stack n fails) := fun s => by rw [exec_reservoirService, execReservoirService]; exact act_row _ _ _ s
theorem pageEntryWrite (p : Path) (stack : StackId) (v : Word) :
    Statement (.pageEntryWrite p stack v) := fun s => by rw [exec_pageEntryWrite, execPageEntryWrite]; exact act_row _ _ _ s
theorem pageZeroFillDone (stack : StackId) (page : Fin 49152) :
    Statement (.pageZeroFillDone stack page) := fun s => by rw [exec_pageZeroFillDone, execPageZeroFillDone]; exact act_row _ _ _ s
theorem stackRefresh (stack : StackId) :
    Statement (.stackRefresh stack) := fun s => by rw [exec_stackRefresh, execStackRefresh]; exact act_row _ _ _ s
theorem conversationExpiry (conv : Nat) :
    Statement (.conversationExpiry conv) := fun s => by rw [exec_conversationExpiry, execConversationExpiry]; exact act_row _ _ _ s
theorem condensingChange :
    Statement .condensingChange := fun s => by rw [exec_condensingChange, execCondensingChange]; exact act_row _ _ _ s
theorem trainingStateDone (g : AqdId) :
    Statement (.trainingStateDone g) := fun s => by rw [exec_trainingStateDone, execTrainingStateDone]; exact act_row _ _ _ s
theorem trainingTimeout (g : AqdId) :
    Statement (.trainingTimeout g) := fun s => by rw [exec_trainingTimeout, execTrainingTimeout]; exact act_row _ _ _ s
theorem laneMapExchange (g : AqdId) (own : BitVec 8) (far : BitVec 8) (farLaser : BitVec 8) :
    Statement (.laneMapExchange g own far farLaser) := fun s => by rw [exec_laneMapExchange, execLaneMapExchange]; exact act_row _ _ _ s
theorem mapRetryWait (g : AqdId) :
    Statement (.mapRetryWait g) := fun s => by rw [exec_mapRetryWait, execMapRetryWait]; exact act_row _ _ _ s
theorem laserSample (h : HeadId) (input : LaserInput) (power : BitVec 16) :
    Statement (.laserSample h input power) := fun s => by rw [exec_laserSample, execLaserSample]; exact act_row _ _ _ s
theorem laserRestored (h : HeadId) (input : LaserInput) :
    Statement (.laserRestored h input) := fun s => by rw [exec_laserRestored, execLaserRestored]; exact act_row _ _ _ s
theorem codewordNack (g : AqdId) (e : PairEvent) :
    Statement (.codewordNack g e) := fun s => by rw [exec_codewordNack, execCodewordNack]; exact act_row _ _ _ s
theorem linkAck (g : AqdId) (n : Nat) (m : LinkMsg) :
    Statement (.linkAck g n m) := fun s => by rw [exec_linkAck, execLinkAck]; exact act_row _ _ _ s
theorem errorCountRelease (g : AqdId) :
    Statement (.errorCountRelease g) := fun s => by rw [exec_errorCountRelease, execErrorCountRelease]; exact act_row _ _ _ s
theorem laneRetireReq (p : Path) (g : AqdId) (lanes : BitVec 8) :
    Statement (.laneRetireReq p g lanes) := fun s => by rw [exec_laneRetireReq, execLaneRetireReq]; exact act_row _ _ _ s
theorem laneMapSwitch (g : AqdId) (far : Option (BitVec 8 × Fin 65536)) :
    Statement (.laneMapSwitch g far) := fun s => by rw [exec_laneMapSwitch, execLaneMapSwitch]; exact act_row _ _ _ s
theorem laneLoss (g : AqdId) (lane : Fin 8) :
    Statement (.laneLoss g lane) := fun s => by rw [exec_laneLoss, execLaneLoss]; exact act_row _ _ _ s
theorem ethFrameRx (g : AqdId) (frame : List Byte) :
    Statement (.ethFrameRx g frame) := fun s => by rw [exec_ethFrameRx, execEthFrameRx]; exact act_row _ _ _ s
theorem hello (g : AqdId) (msg : Option HelloMsg) :
    Statement (.hello g msg) := fun s => by rw [exec_hello, execHello]; exact act_row _ _ _ s
theorem write (hdr : FrameHdr) (w : WindowHdr) (bytes : List Byte) :
    Statement (.write hdr w bytes) := fun s => by rw [exec_write, execWrite]; exact act_row _ _ _ s
theorem writeLanded (n : Nat) :
    Statement (.writeLanded n) := fun s => by rw [exec_writeLanded, execWriteLanded]; exact act_row _ _ _ s
theorem readReq (hdr : FrameHdr) (w : WindowHdr) (lenM1 : Fin 4096) (pump : PumpId) (bad : List BadRead) :
    Statement (.readReq hdr w lenM1 pump bad) := fun s => by rw [exec_readReq, execReadReq]; exact act_row _ _ _ s
theorem readResp (hdr : FrameHdr) (w : WindowHdr) (bytes : List Byte) :
    Statement (.readResp hdr w bytes) := fun s => by rw [exec_readResp, execReadResp]; exact act_row _ _ _ s
theorem ack (x : ExpressHdr) (records : List AckRecord) :
    Statement (.ack x records) := fun s => by rw [exec_ack, execAck]; exact act_row _ _ _ s
theorem creditReq (x : ExpressHdr) (xid : Fin 65536) (window : Fin 4096) (gen : Fin 65536) (wanted : Fin 65) :
    Statement (.creditReq x xid window gen wanted) := fun s => by rw [exec_creditReq, execCreditReq]; exact act_row _ _ _ s
theorem credit (x : ExpressHdr) (xid : Fin 65536) (window : Fin 4096) (gen : Fin 65536) (n : Fin 65) :
    Statement (.credit x xid window gen n) := fun s => by rw [exec_credit, execCredit]; exact act_row _ _ _ s
theorem gateOp (x : ExpressHdr) (xid : Fin 65536) (gate : Fin 512) (opc : BitVec 3) (v : BitVec 24) :
    Statement (.gateOp x xid gate opc v) := fun s => by rw [exec_gateOp, execGateOp]; exact act_row _ _ _ s
theorem gateAck (x : ExpressHdr) (xid : Fin 65536) (status : Byte) :
    Statement (.gateAck x xid status) := fun s => by rw [exec_gateAck, execGateAck]; exact act_row _ _ _ s
theorem mbxPart (x : ExpressHdr) (xid : Fin 65536) (mailbox : Fin 64) (part : Fin 2) (bytes : Vector Byte 32) :
    Statement (.mbxPart x xid mailbox part bytes) := fun s => by rw [exec_mbxPart, execMbxPart]; exact act_row _ _ _ s
theorem mbxAck (x : ExpressHdr) (xid : Fin 65536) (status : Byte) :
    Statement (.mbxAck x xid status) := fun s => by rw [exec_mbxAck, execMbxAck]; exact act_row _ _ _ s
theorem abort (x : ExpressHdr) (number : BitVec 64) (group : Fin 65536) :
    Statement (.abort x number group) := fun s => by rw [exec_abort, execAbort]; exact act_row _ _ _ s
theorem expressFlitDrop (e : DropEvent) :
    Statement (.expressFlitDrop e) := fun s => by rw [exec_expressFlitDrop, execExpressFlitDrop]; exact act_row _ _ _ s
theorem windowOpen (p : Path) (h : HeadId) :
    Statement (.windowOpen p h) := fun s => by rw [exec_windowOpen, execWindowOpen]; exact act_row _ _ _ s
theorem windowClose (p : Path) (h : HeadId) :
    Statement (.windowClose p h) := fun s => by rw [exec_windowClose, execWindowClose]; exact act_row _ _ _ s
theorem windowDrained (window : Fin 4096) (h : HeadId) :
    Statement (.windowDrained window h) := fun s => by rw [exec_windowDrained, execWindowDrained]; exact act_row _ _ _ s
theorem transactionTimeout (n : Nat) :
    Statement (.transactionTimeout n) := fun s => by rw [exec_transactionTimeout, execTransactionTimeout]; exact act_row _ _ _ s
theorem discoverySend :
    Statement .discoverySend := fun s => by rw [exec_discoverySend, execDiscoverySend]; exact act_row _ _ _ s
theorem discoveryReceive (hdr : FrameHdr) (r : DiscoveryRecord) :
    Statement (.discoveryReceive hdr r) := fun s => by rw [exec_discoveryReceive, execDiscoveryReceive]; exact act_row _ _ _ s
theorem rosterPublish :
    Statement .rosterPublish := fun s => by rw [exec_rosterPublish, execRosterPublish]; exact act_row _ _ _ s
theorem rosterReceive (hdr : FrameHdr) (l : List DiscoveryRecord) :
    Statement (.rosterReceive hdr l) := fun s => by rw [exec_rosterReceive, execRosterReceive]; exact act_row _ _ _ s
theorem partnerSilent (fa : Fin 65536) :
    Statement (.partnerSilent fa) := fun s => by rw [exec_partnerSilent, execPartnerSilent]; exact act_row _ _ _ s
theorem groupForm (m : GroupFormMsg) :
    Statement (.groupForm m) := fun s => by rw [exec_groupForm, execGroupForm]; exact act_row _ _ _ s
theorem groupJoin (hdr : FrameHdr) (num : Fin 65536) (gen : Fin 65536) (edition : Fin 65536) (lo : Fin 256) (hi : Fin 256) :
    Statement (.groupJoin hdr num gen edition lo hi) := fun s => by rw [exec_groupJoin, execGroupJoin]; exact act_row _ _ _ s
theorem groupCommit (hdr : FrameHdr) (num : Fin 65536) (gen : Fin 65536) (version : Fin 256) (members : List (Fin 65536)) :
    Statement (.groupCommit hdr num gen version members) := fun s => by rw [exec_groupCommit, execGroupCommit]; exact act_row _ _ _ s
theorem arrive (x : ExpressHdr) (slot : Fin 64) (group : Fin 65536) (ggen : Fin 65536) (seq : Fin 65536) (pay : Word) :
    Statement (.arrive x slot group ggen seq pay) := fun s => by rw [exec_arrive, execArrive]; exact act_row _ _ _ s
theorem release (x : ExpressHdr) (slot : Fin 64) (group : Fin 65536) (ggen : Fin 65536) (seq : Fin 65536) (pay : Word) :
    Statement (.release x slot group ggen seq pay) := fun s => by rw [exec_release, execRelease]; exact act_row _ _ _ s
theorem barrierGenerationWrite (p : Path) (h : HeadId) (slot : Fin 64) (ggen : Fin 65536) :
    Statement (.barrierGenerationWrite p h slot ggen) := fun s => by rw [exec_barrierGenerationWrite, execBarrierGenerationWrite]; exact act_row _ _ _ s
theorem snapshotDrainDone :
    Statement .snapshotDrainDone := fun s => by rw [exec_snapshotDrainDone, execSnapshotDrainDone]; exact act_row _ _ _ s
theorem snapshotDrainTimeout :
    Statement .snapshotDrainTimeout := fun s => by rw [exec_snapshotDrainTimeout, execSnapshotDrainTimeout]; exact act_row _ _ _ s
theorem request (conn : ClientConn) (r : RequestIn) :
    Statement (.request conn r) := fun s => by rw [exec_request, execRequest]; exact act_row _ _ _ s
theorem cancelRecord (conn : ClientConn) (bytes : List Byte) :
    Statement (.cancelRecord conn bytes) := fun s => by rw [exec_cancelRecord, execCancelRecord]; exact act_row _ _ _ s
theorem rstStream (g : AqdId) (conn : Nat) (stream : Nat) :
    Statement (.rstStream g conn stream) := fun s => by rw [exec_rstStream, execRstStream]; exact act_row _ _ _ s
theorem cancel (x : ExpressHdr) (reqId : BitVec 64) (tenant : Fin 65536) (slot : Fin 65536) (kind : Byte) :
    Statement (.cancel x reqId tenant slot kind) := fun s => by rw [exec_cancel, execCancel]; exact act_row _ _ _ s
theorem deadlineExpiry (slot : Fin 65536) :
    Statement (.deadlineExpiry slot) := fun s => by rw [exec_deadlineExpiry, execDeadlineExpiry]; exact act_row _ _ _ s
theorem activeMaskLoad (die : DieId) (b : BlockId) :
    Statement (.activeMaskLoad die b) := fun s => by rw [exec_activeMaskLoad, execActiveMaskLoad]; exact act_row _ _ _ s
theorem commitPoint :
    Statement .commitPoint := fun s => by rw [exec_commitPoint, execCommitPoint]; exact act_row _ _ _ s
theorem hold (m : HoldMsg) : Statement (.hold m) := fun s => by rw [exec_hold, execHold]; exact act_row _ _ _ s
theorem holdAck (hdr : FrameHdr) (slot : Fin 65536) (refused : Bool) :
    Statement (.holdAck hdr slot refused) := fun s => by rw [exec_holdAck, execHoldAck]; exact act_row _ _ _ s
theorem released (hdr : FrameHdr) (slot : Fin 65536) :
    Statement (.released hdr slot) := fun s => by rw [exec_released, execReleased]; exact act_row _ _ _ s
theorem migrate (hdr : FrameHdr) (m : MigrateMsg) :
    Statement (.migrate hdr m) := fun s => by rw [exec_migrate, execMigrate]; exact act_row _ _ _ s
theorem relay (hdr : FrameHdr) (slot : Fin 65536) (bytes : List Byte) :
    Statement (.relay hdr slot bytes) := fun s => by rw [exec_relay, execRelay]; exact act_row _ _ _ s
theorem ctlRead (hdr : FrameHdr) (a : Word) :
    Statement (.ctlRead hdr a) := fun s => by rw [exec_ctlRead, execCtlRead]; exact act_row _ _ _ s
theorem ctlWrite (hdr : FrameHdr) (a : Word) (v : Word) :
    Statement (.ctlWrite hdr a v) := fun s => by rw [exec_ctlWrite, execCtlWrite]; exact act_row _ _ _ s
theorem ctlResp (hdr : FrameHdr) (a : Word) (status : Byte) (v : Word) :
    Statement (.ctlResp hdr a status v) := fun s => by rw [exec_ctlResp, execCtlResp]; exact act_row _ _ _ s
theorem windowReady (hdr : FrameHdr) (window : Fin 65536) (gen : Fin 65536) (piece : Word) (digest8 : Vector Byte 8) :
    Statement (.windowReady hdr window gen piece digest8) := fun s => by rw [exec_windowReady, execWindowReady]; exact act_row _ _ _ s
theorem pageRequest (hdr : FrameHdr) (m : PageMsg) :
    Statement (.pageRequest hdr m) := fun s => by rw [exec_pageRequest, execPageRequest]; exact act_row _ _ _ s
theorem pageRefused (hdr : FrameHdr) (m : PageMsg) :
    Statement (.pageRefused hdr m) := fun s => by rw [exec_pageRefused, execPageRefused]; exact act_row _ _ _ s
theorem tenantSet (route : TenantRoute) (identity : List Byte) (tag : Fin 65536) :
    Statement (.tenantSet route identity tag) := fun s => by rw [exec_tenantSet, execTenantSet]; exact act_row _ _ _ s
theorem modelPart (stamp : Word) (msg : Vector Byte 64) :
    Statement (.modelPart stamp msg) := fun s => by rw [exec_modelPart, execModelPart]; exact act_row _ _ _ s
theorem modelCommit (stamp : Word) (msg : Vector Byte 64) :
    Statement (.modelCommit stamp msg) := fun s => by rw [exec_modelCommit, execModelCommit]; exact act_row _ _ _ s
theorem modelRemove (stamp : Word) (msg : Vector Byte 64) :
    Statement (.modelRemove stamp msg) := fun s => by rw [exec_modelRemove, execModelRemove]; exact act_row _ _ _ s
theorem retire (stamp : Word) (msg : Vector Byte 64) :
    Statement (.retire stamp msg) := fun s => by rw [exec_retire, execRetire]; exact act_row _ _ _ s
theorem manifestCheck (m : Fin 64) (slice : Fin 65536) (bytes : List Byte) :
    Statement (.manifestCheck m slice bytes) := fun s => by rw [exec_manifestCheck, execManifestCheck]; exact act_row _ _ _ s
theorem shardStaged (m : Fin 64) (shard : Nat) (a : ShardArrival) :
    Statement (.shardStaged m shard a) := fun s => by rw [exec_shardStaged, execShardStaged]; exact act_row _ _ _ s
theorem shardDigestDone (m : Fin 64) (shard : Nat) :
    Statement (.shardDigestDone m shard) := fun s => by rw [exec_shardDigestDone, execShardDigestDone]; exact act_row _ _ _ s
theorem shardPlace (m : Fin 64) (shard : Nat) :
    Statement (.shardPlace m shard) := fun s => by rw [exec_shardPlace, execShardPlace]; exact act_row _ _ _ s
theorem scrubInterval (page : PageRef) :
    Statement (.scrubInterval page) := fun s => by rw [exec_scrubInterval, execScrubInterval]; exact act_row _ _ _ s
theorem scrubRunStart (p : Path) (die : DieId) (b : BlockId) (gap : Byte) (errs : List LineErr) :
    Statement (.scrubRunStart p die b gap errs) := fun s => by rw [exec_scrubRunStart, execScrubRunStart]; exact act_row _ _ _ s
theorem scrubRunDone (die : DieId) (b : BlockId) :
    Statement (.scrubRunDone die b) := fun s => by rw [exec_scrubRunDone, execScrubRunDone]; exact act_row _ _ _ s
theorem pageRepair (page : PageRef) (env : RepairEnv) :
    Statement (.pageRepair page env) := fun s => by rw [exec_pageRepair, execPageRepair]; exact act_row _ _ _ s
theorem attestRequest (g : AqdId) (conn : Nat) (stream : Nat) (nonce : Vector Byte 64) :
    Statement (.attestRequest g conn stream nonce) := fun s => by rw [exec_attestRequest, execAttestRequest]; exact act_row _ _ _ s
theorem attestSigned :
    Statement .attestSigned := fun s => by rw [exec_attestSigned, execAttestSigned]; exact act_row _ _ _ s
theorem txGo (p : Path) (die : DieId) (inst : Fin 6) (buffer : Fin 4) :
    Statement (.txGo p die inst buffer) := fun s => by rw [exec_txGo, execTxGo]; exact act_row _ _ _ s
theorem mbxDrain (p : Path) (die : DieId) (mailbox : Fin 64) (seq : Byte) :
    Statement (.mbxDrain p die mailbox seq) := fun s => by rw [exec_mbxDrain, execMbxDrain]; exact act_row _ _ _ s
theorem mailboxTimeout (die : DieId) (mailbox : Fin 64) :
    Statement (.mailboxTimeout die mailbox) := fun s => by rw [exec_mailboxTimeout, execMailboxTimeout]; exact act_row _ _ _ s
theorem mbxEnableClear (p : Path) (die : DieId) (mailbox : Fin 64) :
    Statement (.mbxEnableClear p die mailbox) := fun s => by rw [exec_mbxEnableClear, execMbxEnableClear]; exact act_row _ _ _ s
theorem heartbeat : Statement .heartbeat := fun s => by rw [exec_heartbeat, execHeartbeat]; exact act_row _ _ _ s
theorem coordinatorTakeover :
    Statement .coordinatorTakeover := fun s => by rw [exec_coordinatorTakeover, execCoordinatorTakeover]; exact act_row _ _ _ s
theorem i3cRead (bytes : List Byte) :
    Statement (.i3cRead bytes) := fun s => by rw [exec_i3cRead, execI3cRead]; exact act_row _ _ _ s
theorem i3cWrite (bytes : List Byte) :
    Statement (.i3cWrite bytes) := fun s => by rw [exec_i3cWrite, execI3cWrite]; exact act_row _ _ _ s
theorem i3cResult : Statement .i3cResult := fun s => by rw [exec_i3cResult, execI3cResult]; exact act_row _ _ _ s
theorem getpid : Statement .getpid := fun s => by rw [exec_getpid, execGetpid]; exact act_row _ _ _ s
theorem setdasa (static : Fin 128) (dyn : Fin 128) :
    Statement (.setdasa static dyn) := fun s => by rw [exec_setdasa, execSetdasa]; exact act_row _ _ _ s
theorem entdaa (dyn : Fin 128) :
    Statement (.entdaa dyn) := fun s => by rw [exec_entdaa, execEntdaa]; exact act_row _ _ _ s
theorem tapReset : Statement .tapReset := fun s => by rw [exec_tapReset, execTapReset]; exact act_row _ _ _ s
theorem extest (pins : Vector Bool 49) (scan : Vector Bool 147) :
    Statement (.extest pins scan) := fun s => by rw [exec_extest, execExtest]; exact act_row _ _ _ s
theorem samplePreload (pins : Vector Bool 49) (scan : Vector Bool 147) :
    Statement (.samplePreload pins scan) := fun s => by rw [exec_samplePreload, execSamplePreload]; exact act_row _ _ _ s
theorem idcode : Statement .idcode := fun s => by rw [exec_idcode, execIdcode]; exact act_row _ _ _ s
theorem bypass (code : Byte) (scan : List Bool) :
    Statement (.bypass code scan) := fun s => by rw [exec_bypass, execBypass]; exact act_row _ _ _ s
theorem ctlAccessRead (a : Word) :
    Statement (.ctlAccessRead a) := fun s => by rw [exec_ctlAccessRead, execCtlAccessRead]; exact act_row _ _ _ s
theorem ctlAccessWrite (a : Word) (v : Word) :
    Statement (.ctlAccessWrite a v) := fun s => by rw [exec_ctlAccessWrite, execCtlAccessWrite]; exact act_row _ _ _ s
theorem retirementDecision :
    Statement .retirementDecision := fun s => by rw [exec_retirementDecision, execRetirementDecision]; exact act_row _ _ _ s
theorem gateRehome (p : Path) (die : DieId) (blocks : BitVec 24) :
    Statement (.gateRehome p die blocks) := fun s => by rw [exec_gateRehome, execGateRehome]; exact act_row _ _ _ s
theorem selftestSlice (die : DieId) (b : BlockId) (pass : Bool) :
    Statement (.selftestSlice die b pass) := fun s => by rw [exec_selftestSlice, execSelftestSlice]; exact act_row _ _ _ s
theorem selftestInterval (die : DieId) (b : BlockId) :
    Statement (.selftestInterval die b) := fun s => by rw [exec_selftestInterval, execSelftestInterval]; exact act_row _ _ _ s
theorem reservoirTestStart (p : Path) :
    Statement (.reservoirTestStart p) := fun s => by rw [exec_reservoirTestStart, execReservoirTestStart]; exact act_row _ _ _ s
theorem liveUpdate (u : UpdateInput) :
    Statement (.liveUpdate u) := fun s => by rw [exec_liveUpdate, execLiveUpdate]; exact act_row _ _ _ s
theorem machineTimerInterrupt (die : DieId) (core : CoreId) :
    Statement (.machineTimerInterrupt die core) := fun s => by rw [exec_machineTimerInterrupt, execMachineTimerInterrupt]; exact act_row _ _ _ s
theorem wellApertureWrite (die : DieId) (core : CoreId) (mode : CoreMode) (off : BitVec 34) (bytes : List Byte) (env : WellEnv) :
    Statement (.wellApertureWrite die core mode off bytes env) := fun s => by rw [exec_wellApertureWrite, execWellApertureWrite]; exact act_row _ _ _ s
theorem programStoreRead (p : Path) (die : DieId) (b : BlockId) :
    Statement (.programStoreRead p die b) := fun s => by rw [exec_programStoreRead, execProgramStoreRead]; exact act_row _ _ _ s
theorem reservoirTestDone (bad : List (Fin 393216)) :
    Statement (.reservoirTestDone bad) := fun s => by rw [exec_reservoirTestDone, execReservoirTestDone]; exact act_row _ _ _ s
theorem refusedRead (c : CtlAccess) :
    Statement (.refusedRead c) := fun s => by rw [exec_refusedRead, execRefusedRead]; exact act_row _ _ _ s

end Sys2Proof.Laws.Row
end

