-- ==== Sys2Proof/Laws/Reset.lean ====
section
/-! SUPPORT. Laws/Reset: what registers that nothing has written read as, where it is wanted of many at once. -/

namespace Sys2Proof.Machine

/-- No register from DIE_HOME_A on to the end of the home map is VALID by its reset column. -/
theorem rows_not_valid :
    regTable.all (fun r => decide (r.place + r.stride * r.count ≤ 0x400 ∧ r.place < 0x400
      ∨ 0x700 ≤ r.place ∨ bits r.resetNat 31 1 = 0 ∧ r.resetNat < 2 ^ 32)) = true := by decide +kernel

/-- The place of an entry of the home map. -/
theorem place_home (die n : Nat) (hn : n < 96) :
    ctlPlace (ctl (R.DIE_HOME_A + 8 * n) die 0) = 0x400 + 8 * n := by
  simp only [ctlPlace, ctlClass, ctlOff, bits, ctl, pow2, R.DIE_HOME_A, Nat.shiftRight_eq_div_pow]
  omega

/-- An entry of the home map that nothing has written is not VALID. -/
theorem home_reset (die n : Nat) (hn : n < 96) :
    bits (resetWord (ctl (R.DIE_HOME_A + 8 * n) die 0)).toNat 31 1 = 0 := by
  have hp := place_home die n hn
  have hs : specialReset (ctl (R.DIE_HOME_A + 8 * n) die 0) = 0 := by
    simp only [specialReset, hp, R.DIE_NAN_STATUS, R.SQR_STATUS, R.BRG_STATUS, R.AQD_TXN_STATUS, R.HAL_CORE_CTRL,
      R.TRU_ROOT_HASH]
    repeat (rw [if_neg (by omega)])
  rw [resetWord, hs]
  cases h : regAt (ctl (R.DIE_HOME_A + 8 * n) die 0) with
  | none => rfl
  | some r =>
    have hm : r ∈ regTable := List.mem_of_find?_eq_some h
    have hh : r.has (ctl (R.DIE_HOME_A + 8 * n) die 0) = true := by
      rw [regAt] at h
      exact List.find?_some (p := fun q : RegRow => q.has (ctl (R.DIE_HOME_A + 8 * n) die 0)) h
    have := List.all_eq_true.mp rows_not_valid r hm
    simp only [RegRow.has, hp, Bool.and_eq_true, decide_eq_true_eq] at hh this
    obtain ⟨⟨-, hle⟩, hk⟩ := hh
    rcases this with ⟨h1, h2⟩ | h1 | ⟨h1, h2⟩
    · split at hk
      · simp only [beq_iff_eq] at hk; omega
      · rename_i hst
        simp only [Bool.and_eq_true, beq_iff_eq, decide_eq_true_eq] at hk
        have hdiv := Nat.div_add_mod (0x400 + 8 * n - r.place) r.stride
        have : r.stride * ((0x400 + 8 * n - r.place) / r.stride) < r.stride * r.count :=
          Nat.mul_lt_mul_of_pos_left hk.2 (by omega)
        omega
    · omega
    · have e : (BitVec.ofNat 32 (((some r).map RegRow.resetNat).getD 0 + 0)).toNat = r.resetNat :=
        Nat.mod_eq_of_lt h2
      exact (congrArg (bits · 31 1) e).trans h1

/-- A device whose home maps nothing has written, and with no block retired, may run in lockstep (R181). -/
theorem barred_reset (d : Dev) (h : d.regs = []) (hb : ∀ die < 48, (rd d (ctl R.DIE_BLOCK_RET die 0)).toNat = 0) :
    lockstepBarred d = false := by
  rw [Bool.eq_false_iff]
  intro hx
  simp only [lockstepBarred, List.any_eq_true, Bool.or_eq_true, bne_iff_ne, Bool.and_eq_true,
    homeValid, flag, fget, beq_iff_eq] at hx
  obtain ⟨die, hd, h1 | ⟨n, hn, ⟨⟨h2, -⟩, -⟩, -⟩⟩ := hx
  · exact h1 (hb die (by simpa [computeDies] using hd))
  · have := home_reset die n (by simpa using hn)
    simp only [rd, h, mget, Option.getD_none] at h2
    simp [this] at h2

/-- No relay window list is VALID by its reset column. -/
theorem relays_not_valid :
    regTable.all (fun r => decide (r.place + r.stride * r.count ≤ 0x800400 ∧ r.place < 0x800400
      ∨ 0x800800 ≤ r.place ∨ bits r.resetNat 31 1 = 0 ∧ r.resetNat < 2 ^ 32)) = true := by decide +kernel

/-- The place of a relay window list. -/
theorem place_relay (die k : Nat) (hk : k < 64) : ctlPlace (ctl (R.GAT_RLY_WIN + 16 * k) die 1) = 0x800400 + 16 * k := by
  simp only [ctlPlace, ctlClass, ctlOff, bits, ctl, pow2, R.GAT_RLY_WIN, Nat.shiftRight_eq_div_pow]
  omega

/-- A relay window list that nothing has written is not VALID. -/
theorem relay_reset (die k : Nat) (hk : k < 64) :
    bits (resetWord (ctl (R.GAT_RLY_WIN + 16 * k) die 1)).toNat 31 1 = 0 := by
  have hp := place_relay die k hk
  have hs : specialReset (ctl (R.GAT_RLY_WIN + 16 * k) die 1) = 0 := by
    simp only [specialReset, hp, R.DIE_NAN_STATUS, R.SQR_STATUS, R.BRG_STATUS, R.AQD_TXN_STATUS, R.HAL_CORE_CTRL,
      R.TRU_ROOT_HASH]
    repeat (rw [if_neg (by omega)])
  rw [resetWord, hs]
  cases h : regAt (ctl (R.GAT_RLY_WIN + 16 * k) die 1) with
  | none => rfl
  | some r =>
    have hm : r ∈ regTable := List.mem_of_find?_eq_some h
    have hh : r.has (ctl (R.GAT_RLY_WIN + 16 * k) die 1) = true := by
      rw [regAt] at h
      exact List.find?_some (p := fun q : RegRow => q.has (ctl (R.GAT_RLY_WIN + 16 * k) die 1)) h
    have := List.all_eq_true.mp relays_not_valid r hm
    simp only [RegRow.has, hp, Bool.and_eq_true, decide_eq_true_eq] at hh this
    obtain ⟨⟨-, hle⟩, hk⟩ := hh
    rcases this with ⟨h1, h2⟩ | h1 | ⟨h1, h2⟩
    · split at hk
      · simp only [beq_iff_eq] at hk; omega
      · rename_i hst
        simp only [Bool.and_eq_true, beq_iff_eq, decide_eq_true_eq] at hk
        have hdiv := Nat.div_add_mod (0x800400 + 16 * k - r.place) r.stride
        have : r.stride * ((0x800400 + 16 * k - r.place) / r.stride) < r.stride * r.count :=
          Nat.mul_lt_mul_of_pos_left hk.2 (by omega)
        omega
    · omega
    · have e : (BitVec.ofNat 32 (((some r).map RegRow.resetNat).getD 0 + 0)).toNat = r.resetNat :=
        Nat.mod_eq_of_lt h2
      exact (congrArg (bits · 31 1) e).trans h1

theorem mget_none {α : Type} {m : SMap α} {k : Nat} (h : ∀ e ∈ m, e.1 ≠ k) : mget m k = none := by
  induction m with
  | nil => rfl
  | cons e m ih =>
    obtain ⟨i, x⟩ := e
    have : k ≠ i := fun hk => h (i, x) (by simp) hk.symm
    simp only [mget, if_neg this]
    exact ih fun e he => h e (by simp [he])

/-- A device none of whose relay window lists has been written relays no window. -/
theorem relay_free (d : Dev) (w : Nat) (hd : ∀ e ∈ d.regs, ctlPlace e.1 < 0x800400 ∨ 0x800800 ≤ ctlPlace e.1) (h k : Nat)
    (_ : h < 8) (hk : k < 64) :
    flag d (ctl (R.GAT_RLY_WIN + 16 * k) (56 + h) 1) F.GAT_RLY_WIN_VALID = false
      ∨ fget d (ctl (R.GAT_RLY_WIN + 16 * k) (56 + h) 1) F.GAT_RLY_WIN_WINDOW ≠ w := by
  left
  have hp := place_relay (56 + h) k hk
  have : mget d.regs (ctl (R.GAT_RLY_WIN + 16 * k) (56 + h) 1) = none := by
    refine mget_none fun e he hx => ?_
    have := hd e he
    rw [hx, hp] at this
    omega
  simp [flag, fget, rd, this, relay_reset (56 + h) k hk]

end Sys2Proof.Machine
end

