-- ==== Sys2Proof/Tests/Slice0.lean ====
section
/-! SUPPORT. Tests/Slice0: values that the spec works out, operands that are refused, and for each statement of
Certificates/Slice0/Obligations.lean a state and operands that meet its premises. A state that a section of witnesses uses
is defined at the head of the section; what stands under a witness's name is the statement's own premises. -/

open Sys2Proof Sys2Proof.Machine

namespace Sys2Proof.Tests

set_option maxRecDepth 100000
set_option Elab.async false

def on : State := { State.reset with dev := { State.reset.dev with boot := { State.reset.dev.boot with on := true, inReset := false } } }

def wd (f : Dev → Dev) : State := { on with dev := f on.dev }

def mp : Path := .core 0 1 .machine

/-- block (3, 4) changed -/
def wb (f : Block → Block) : State := wd fun d => setBlk d 3 4 (f (blk d 3 4))

def D3 : DieId := 3

def B4 : BlockId := 4

/-- bytes of a unit header -/
def chainOp0 : Nat := 1 + 3*256 + 2^13 + 21*2^18

def hdrBytes : List Byte := [0,0, 0,0, 8,0, 4,0, 2,0, 4,0, 16,0,0,0, 16,0, 8,0, 0,16, 64,0, 4,0,0,0, 64,0,0,0, 0,2,0,0, 0,4,0,0, 0,5,0,0].map fun n => BitVec.ofNat 8 n

def unitBlk (x : Block) : Block :=
  { x with ps := memWrite (memWrite (memWrite { zeroed := [(0, 2097152)] } 0 hdrBytes) 1024 [64]) 1152 (leBytes 8 chainOp0), well := { zeroed := [(0, 8388608)] }, cistern := { zeroed := [(0, 134217728)] } }

/-- a state with unit slot 0 of block (3,4) valid -/
def us (f : Block → Block) (g : Dev → Dev := id) : State := wd fun d =>
  let d := setBlk (fset d (ctl R.SEQ_US_CTRL 3 4) F.SEQ_US_CTRL_VALID 1) 3 4 (f (unitBlk (blk d 3 4)))
  g { d with step := { d.step with running := true } }

/-- bytes of a bundle: control operation, its operands, address operation word, delta -/
def ctlBun (cop ops aop delta : Nat) : Nat := (cop + ops * 64) * 2^172 + aop * 2^204 + delta * 2^236

def putBun (x : Block) (pc bu : Nat) : Block := { x with ps := memWrite x.ps (64 + 32 * pc) (leBytes 32 bu) }

/-- block (3,4) issuing at a slot of bundle `bu` -/
def iss (bu : Nat) (slots : List SlotId) (f : Block → Block := id) (g : Dev → Dev := id) : State :=
  us (fun x => f { putBun x 0 bu with seq := { x.seq with phase := .running, issuing := slots, cycle := 100 } }) g

def buOf (s : State) : Option Bundle := bundleAt s.dev 3 4 (unitCtx s.dev 3 4 0) 0

def buO (s : State) : Bundle := (buOf s).getD ⟨none, none, none, none, .nop, none, 0⟩

def devOf (c : Instr) (s : State) : Dev := match Sys2Proof.Machine.exec c s with | .next t => t.dev | _ => s.dev

/-- own address 77, aqueduct 18 up and routed to precinct 3 and member 9, head 2 reachable -/
def netD (d : Dev) : Dev :=
  let d := fsets d (ctl R.AQD_FA 56 9) [(F.AQD_FA_FA, 77), (F.AQD_FA_VALID, 1)]
  let d := wr (wr d (ctlSel R.AQD_RT_LO 56 9 3) (BitVec.ofNat 32 (2^18))) (ctlSel R.AQD_RT_LO 56 9 (1024 + 9)) (BitVec.ofNat 32 (2^18))
  let d := fset d (aqdReg R.AQD_STATUS 18) F.AQD_STATUS_UP 1
  let d := setAqd d 18 { aqd d 18 with credits := (List.range 7).map fun v => (v + 1, 64) }
  setBridge (setBlk d 3 4 (unitBlk (blk d 3 4))) 58 0 true

def y0 : PumpDesc := ⟨.copy,.fp32,.fp32,0,none,none,0,false,0,false,1,.ownWell 0,.ownWell 0,0,0,1,1,0,0,0,0,false,false,0,0,false,0⟩

namespace W00

/-! ## Values that the spec works out -/

/-- 00_scope.md, "forming a control address". -/
theorem test_control_address : ctl 0x300040 5 17 = 0x14311040 := by decide +kernel

/-- 02_number_formats.md, "LNS products to FP32". -/
theorem test_lns_products :
    arrayProduct .lns16 0x0300 0x8100 = ⟨0xC0800000, false⟩ ∧ arrayProduct .lns8 0x04 0x00 = ⟨0x3FB504F3, false⟩ := by
  decide +kernel

def bf16Tile : TileDesc := ⟨.bf16, 1, true, .bf16, false, 0, false, true, false, 0, .bf16, 0, 0, 0, 0, 0⟩

/-- 02_number_formats.md, "scale-and-zero-point expansion". -/
theorem test_scale_expansion :
    (scaleWeight bf16Tile 0x083C00 3).val = 0xBD20 ∧ (scaleWeight bf16Tile 0x3F81 7).val = 0x40E2 := by decide +kernel

/-- 02_number_formats.md, "rounding at the edges". -/
theorem test_rounding :
    convert .fp32 .bf16 0 0x3F808000 = ⟨0x3F80, false, false⟩ ∧ convert .fp32 .bf16 0 0x3F818000 = ⟨0x3F82, false, false⟩
      ∧ convert .fp32 .fp16 0 0x477FF000 = ⟨0x7C00, true, false⟩ ∧ convert .fp32 .lns8 0 0x40400000 = ⟨0x0D, false, false⟩
      ∧ convert .fp32 .lns8 0 0x447A0000 = ⟨0x3F, true, false⟩ ∧ convert .lns16 .lns8 0 0x0020 = ⟨0, false, false⟩ := by
  decide +kernel

/-- 03_canonical_reduction.md, "transport encodings". -/
theorem test_transport :
    eafTransport { v := 2 ^ 149, partials := 1 } = leBytes 8 0x11200 ++ leBytes 8 0x200000
      ∧ eafTransport { v := - 2 ^ 149 } = leBytes 8 0x1200 ++ leBytes 8 0xFFFFFFFFFFE00000
      ∧ eafTransport {} = leBytes 8 0x1000 ++ leBytes 8 0
      ∧ (eafTransport { v := 2 ^ 149 + 2 ^ 109 }).length = 24 := by decide +kernel

/-- 09_block_programs.md, "encoding one pass bundle and its timetable". -/
theorem test_bundle :
    parseBundle (0x0009001100018001 + 0x0000002A10400FC0 * 2 ^ 64 + 0x0030400000000000 * 2 ^ 128
        + 0x0000400000000000 * 2 ^ 192)
      = some ⟨some ⟨0, 0, 4, 0, 64, 1, 1, 1, 0, 0, 64, 0, true, false, 0x2A10⟩, none, none, none, .gwait 12, none, 4⟩ := by
  decide +kernel

/-- FIPS 180-4: SHA-512 of "abc". -/
theorem test_sha512 :
    sha512 [0x61, 0x62, 0x63] = beBytes 64
      0xddaf35a193617abacc417349ae20413112e6fa4e89a97ea20a9eeee64b55d39a2192992a274fc1a836ba3c23a3feebbd454d4423643ce80e2a9ac94fa54ca49f := by
  decide +kernel

/-- 13_fabric_transactions.md, R238: the check value of CRC-32C over "123456789". -/
theorem test_crc32c : crc32c [0x31, 0x32, 0x33, 0x34, 0x35, 0x36, 0x37, 0x38, 0x39] = 0xE3069283 := by decide +kernel

/-! ## What arrives on the fibre -/

/-- A frame of KIND 0x2 (WRITE, VC3) of two bytes from 0x00C9 to 0x0049, window 0x123, generation 0x0045, offset 0x6789
(R235): its header byte by byte, the CRC and the payload. -/
def writeFrame : List Byte :=
  withCrc [0x12, 0x00, 0x49, 0x00, 0xC9, 0x00, 0x23, 0x51, 0x04, 0x90, 0x78, 0x06] ++ [0xAA, 0xBB]

theorem test_decode_write :
    decodeFrame 2 (some 5) writeFrame
        = some (.write { head := 2, dst := 0x49, src := 0xC9, link := some 5 } ⟨2, 0x123, 0x45, 0x6789⟩ [0xAA, 0xBB])
      ∧ decodeFrame 2 (some 5) (writeFrame.set 2 0x48) = none := by decide +kernel

/-- A CTL_READ of 0x14311040 (R333). -/
theorem test_decode_ctl_read :
    decodeFrame 0 none (withCrc [0x0D, 0x00, 0x49, 0x00, 0xC9, 0x00, 0x01, 0x40, 0x10, 0x31, 0x14, 0x00])
      = some (.ctlRead { head := 0, dst := 0x49, src := 0xC9 } 0x14311040) := by decide +kernel

/-- A GATE_OP of package die 58 to FA 0x0049: XID 0x0102, gate 0x0103, ADDTH, value 0x000005 (R240). -/
theorem test_decode_gate_op :
    decodeExpress 1 none (withCrc ([0x49, 0x00, 0xC9, 0x00, 0x00, 0x00, 0x01, 0x3A, 0x02, 0x01, 0x03, 0x01, 0x03, 0x05, 0x00, 0x00]
        ++ List.replicate 44 0))
      = some (.gateOp { head := 1, dst := 0x49, stamp := 0xC9, die := 0x3A } 0x0102 0x0103 3 5) := by decide +kernel

/-! ## Reset, the queue and the memories -/

/-- A device whose rails are off. -/
def off : State := { dev := { boot := { State.reset.dev.boot with on := false } } }

/-- Obligations.EmptyQueueTicks: an empty queue, with the device powered and not. -/
theorem witness_EmptyQueueTicks :
    State.reset.pending = [] ∧ off.pending = [] ∧ powered off.dev = false := by decide +kernel

/-- Obligations.StepKeepsQueueAndGoesOn: its premise holds with commands of both kinds waiting. -/
theorem witness_StepKeepsQueueAndGoesOn :
    QueueOk { State.reset with pending := [.powerUp true, .bypass 7 [], .creditReq ⟨0, 1, 2, 3, none⟩ 0 0 0 1] } := by
  exact List.all_eq_true.mp (by decide +kernel)

/-- Obligations.OffDeviceUntouched: a well-formed command, and a device that is off. -/
theorem witness_OffDeviceUntouched :
    (Instr.startTally []).wellFormed = true ∧ off.dev.boot.on = false ∧ (∀ b, Instr.startTally [] ≠ .powerUp b)
      ∧ (Instr.bypass 1 []).wellFormed = false  := by
  refine ⟨rfl, rfl, fun b h => ?_, by decide⟩
  have := congrArg (fun c : Instr => match c with | .powerUp _ => true | _ => false) h
  simp at this

/-- Obligations.MemoryReadsBack, MemoryStaysCanonical: two memories in canonical form. -/
theorem witness_MemoryReadsBack :
    (memWrite (memZero {} 4096 4096) 5000 [1, 2, 3]).wf = true ∧ (memWrite {} 8191 [9]).wf = true
      ∧ 5000 ≤ 5001 ∧ 5001 < 5000 + 2 ∧ 5004 < 5000 + 3 + 7 ∧ 5000 + 3 ≤ 5004 := by decide +kernel

/-! ## Ill-formed operands: one for each check of WellFormed.lean -/

/-- A command that cannot come: it changes nothing in any state. -/
def Refused (c : Instr) : Prop := c.wellFormed = false ∧ ∀ s, exec c s = .next s

theorem test_refuse_aperture : Refused (.reservoirAccess (.aperture ⟨3, 0, 64, 4, some [1, 2, 3]⟩)) := ⟨rfl, fun _ => rfl⟩

theorem test_refuse_hello :
    Refused (.hello 0 (some ⟨1, 2, 256, 1, 1⟩)) ∧ Refused (.hello 0 (some ⟨1, 2, 1, 256, 1⟩))
      ∧ Refused (.hello 0 (some ⟨1, 2, 1, 1, 65536⟩)) := by
  and_intros <;> first | rfl | exact fun _ => rfl

def hdr : FrameHdr := { head := 0, dst := 1, src := 2 }

theorem test_refuse_frames :
    Refused (.write hdr ⟨1, 0, 0, 0⟩ []) ∧ Refused (.readResp hdr ⟨1, 0, 0, 0⟩ []) := by
  and_intros <;> first | rfl | exact fun _ => rfl

/-- A frame carries at most 4,096 bytes. -/
theorem test_refuse_long_frame : frameLength (List.replicate 4097 0) = false := by decide +kernel

theorem test_refuse_express :
    Refused (.ack ⟨0, 1, 2, 3, none⟩ []) ∧ Refused (.ack ⟨0, 1, 2, 3, none⟩ (List.replicate 7 ⟨0, 0, 0, 0, 0⟩))
      ∧ Refused (.creditReq ⟨0, 1, 2, 3, none⟩ 0 0 0 0) ∧ Refused (.expressFlitDrop (.express ⟨0, 1, 2, 56, none⟩ 9 (.replicate 52 1)))
      ∧ Refused (.expressFlitDrop (.express ⟨0, 1, 2, 3, none⟩ 1 (.replicate 52 0))) := by
  and_intros <;> first | rfl | exact fun _ => rfl

def rec (f : DiscoveryRecord → DiscoveryRecord) : DiscoveryRecord :=
  f ⟨1, 1, 1, 1, 0, 0, List.replicate 8 0, List.replicate 8 0⟩

theorem test_refuse_records :
    Refused (.discoveryReceive hdr (rec ({ · with verMin := 256 }))) ∧ Refused (.discoveryReceive hdr (rec ({ · with verMax := 256 })))
      ∧ Refused (.discoveryReceive hdr (rec ({ · with edition := 65536 }))) ∧ Refused (.discoveryReceive hdr (rec ({ · with flags := 256 })))
      ∧ Refused (.discoveryReceive hdr (rec ({ · with capacity := 256 }))) ∧ Refused (.discoveryReceive hdr (rec ({ · with identity := [] })))
      ∧ Refused (.rosterReceive hdr [rec id, rec ({ · with models := [] })]) := by
  and_intros <;> first | rfl | exact fun _ => rfl

theorem test_refuse_groups :
    Refused (.groupForm (.start 65536 1 [])) ∧ Refused (.groupForm (.start 1 65536 [])) ∧ Refused (.groupForm (.arrive hdr 65536 1 1 []))
      ∧ Refused (.groupForm (.arrive hdr 1 65536 1 [])) ∧ Refused (.groupForm (.arrive hdr 1 1 65536 [])) := by
  and_intros <;> first | rfl | exact fun _ => rfl

/-- The instruction codes with a meaning of their own do not select BYPASS (R401). -/
theorem test_refuse_bypass :
    Refused (.bypass 0 []) ∧ Refused (.bypass 1 []) ∧ Refused (.bypass 2 []) ∧ Refused (.bypass 0x20 []) := by
  and_intros <;> first | rfl | exact fun _ => rfl

end W00

namespace W02

def sx1 : State := wd fun d => {d with boot := {d.boot with on := false}}
def sx2 : State := wd fun d => {d with boot := {d.boot with inReset := true}}
def sx3 : State := wd fun d => fset {d with tally := 625000000} cfgStatus F.CFG_STATUS_ERR 2
def sx4 : State := wd fun d => {d with tally := 625000, power := {d.power with hotSince := [((ThermalPlace.district 5 2).key, 0)]}}
def sx5 : State := wd fun d => {d with tally := 625000, power := {d.power with coolSince := [((ThermalPlace.edge 3).key, 0)]}}
def w4 : State := wd fun d => devStatus d F.CLK_DEV_STATUS_OP 5
def w4b : State := wd fun d => {fset d (clkReg R.CLK_OP_LIMIT) F.CLK_OP_LIMIT_LIMIT 3 with boot := {d.boot with config := List.replicate 4096 7}}
def w4c := {w4b with dev := devStatus w4b.dev F.CLK_DEV_STATUS_OP 5 }
def w4d : State := {w4b with dev := {w4b.dev with tally := 625000, power := {w4b.dev.power with allowed := some (3, 0)}}}
def sx6 : State := wd fun d => {d with tally := 6250000}
def w4e : State := {w4b with dev := {(schedulePoint w4b.dev 7) with tally := 5000}}
def sx7 : State := wd fun d => {d with power := {d.power with ramp := some 780}}
def sx8 : State := wd fun d => droopStretch d 5 2 true 9
def sx9 : State := wd fun d => {d with tally := 3*625000000}
def sx10 : State := wd fun d => fset d (clkReg R.CLK_TIME_CTRL) F.CLK_TIME_CTRL_PPS_OUT_EN 1
def sx11 : State := wd fun d => {d with tally := 5*2^32+7}
def sx12 : State := wd fun d => {d with tally := 5*2^32+7}

/-- Obligations.RailsAndResetComplete: its premises on powerUp hold together. -/
theorem witness_RailsAndResetComplete_powerUp :
    sx1.dev.boot.on = false := by
  decide +kernel

/-- Obligations.RailsAndResetComplete: its premises on inputUndervoltage hold together. -/
theorem witness_RailsAndResetComplete_inputUndervoltage :
    on.dev.boot.on = true := by
  decide +kernel

/-- Obligations.RailsAndResetComplete: its premises on modRstNRise hold together. -/
theorem witness_RailsAndResetComplete_modRstNRise :
    sx2.dev.boot.on = true ∧ sx2.dev.boot.inReset = true := by
  decide +kernel

/-- Obligations.RailsAndResetComplete: its premises on bootRetry hold together. -/
theorem witness_RailsAndResetComplete_bootRetry :
    powered sx3.dev = true ∧ fget sx3.dev cfgStatus F.CFG_STATUS_ERR ≠ 0 ∧ sx3.dev.boot.until_ + secTicks 1 ≤
      sx3.dev.tally := by
  decide +kernel

/-- Obligations.InputAndReferenceComplete: its premises on inputBandChange hold together. -/
theorem witness_InputAndReferenceComplete_inputBandChange :
    (powered on.dev = true ∧ 4200 ≤ 4399 ∧ 4399 < 4400) ∧ (powered on.dev = true ∧ 5800 < 5801 ∧ 5801 ≤ 6000) ∧ (powered
      on.dev = true ∧ (5800 < 4200 ∨ 4400 ≤ 5800 ∧ 5800 ≤ 5800 ∨ 6000 < 5800)) := by
  decide +kernel

/-- Obligations.InputAndReferenceComplete: its premises on railAlert hold together. -/
theorem witness_InputAndReferenceComplete_railAlert :
    powered on.dev = true := by
  decide +kernel

/-- Obligations.InputAndReferenceComplete: its premises on referenceLost hold together. -/
theorem witness_InputAndReferenceComplete_referenceLost :
    powered on.dev = true := by
  decide +kernel

/-- Obligations.InputAndReferenceComplete: its premises on referenceRestored hold together. -/
theorem witness_InputAndReferenceComplete_referenceRestored :
    powered (wd referenceLost).dev = true ∧ flag (wd referenceLost).dev (clkReg R.CLK_DEV_STATUS)
      F.CLK_DEV_STATUS_HOLDOVER = true := by
  decide +kernel

/-- Obligations.TemperatureAndCeilingsComplete: its premises on temperatureSample hold together. -/
theorem witness_TemperatureAndCeilingsComplete_temperatureSample :
    (powered on.dev = true ∧ degrees (70) < throttleAt on.dev ∧ degrees (70) < 102 ∧ on.dev.power.emergency = false ∧
      on.dev.power.trip = false) ∧ (powered on.dev = true ∧ 102 ≤ degrees (110)) := by
  decide +kernel

/-- Obligations.TemperatureAndCeilingsComplete: its premises on ceilingLower hold together. -/
theorem witness_TemperatureAndCeilingsComplete_ceilingLower :
    powered sx4.dev = true ∧ mget sx4.dev.power.hotSince (ThermalPlace.district 5 2).key = some 0 ∧ 0 + msTicks 1 ≤
      sx4.dev.tally := by
  decide +kernel

/-- Obligations.TemperatureAndCeilingsComplete: its premises on ceilingRaise hold together. -/
theorem witness_TemperatureAndCeilingsComplete_ceilingRaise :
    powered sx5.dev = true ∧ mget sx5.dev.power.coolSince (ThermalPlace.edge 3).key = some 0 ∧ 0 + msTicks 1 ≤
      sx5.dev.tally := by
  decide +kernel

/-- Obligations.OperatingPointComplete: its premises on ceilingChange hold together. -/
theorem witness_OperatingPointComplete_ceilingChange :
    powered w4c.dev = true ∧ flag w4c.dev (clkReg R.CLK_OP_APPLY) F.CLK_OP_APPLY_APPLY = false ∧ allowedPoint w4c.dev <
      activeOp w4c.dev := by
  decide +kernel

/-- Obligations.OperatingPointComplete: its premises on opRaiseAllowed hold together. -/
theorem witness_OperatingPointComplete_opRaiseAllowed :
    powered w4d.dev = true ∧ w4d.dev.power.allowed = some (allowedPoint w4d.dev, 0) ∧ 0 + msTicks 1 ≤ w4d.dev.tally ∧
      activeOp w4d.dev < allowedPoint w4d.dev := by
  decide +kernel

/-- Obligations.OperatingPointComplete: its premises on supplyCeilingLower hold together. -/
theorem witness_OperatingPointComplete_supplyCeilingLower :
    powered w4c.dev = true ∧ ((powerLimits w4c.dev).fst < 17000 ∨ (powerLimits w4c.dev).snd < 10) := by
  decide +kernel

/-- Obligations.OperatingPointComplete: its premises on supplyCeilingRaise hold together. -/
theorem witness_OperatingPointComplete_supplyCeilingRaise :
    powered sx6.dev = true ∧ 100 * 15000 < 95 * (powerLimits sx6.dev).fst ∧ 100 * 10 < 95 * (powerLimits sx6.dev).snd ∧
      sx6.dev.power.supplyAt + msTicks 10 ≤ sx6.dev.tally := by
  decide +kernel

/-- Obligations.OperatingPointComplete: its premises on opApply hold together. -/
theorem witness_OperatingPointComplete_opApply :
    powered w4e.dev = true ∧ flag w4e.dev (clkReg R.CLK_OP_APPLY) F.CLK_OP_APPLY_APPLY = true ∧ shadowTally w4e.dev ≤
      w4e.dev.tally := by
  decide +kernel

/-- Obligations.OperatingPointComplete: its premises on voltageRampDone hold together. -/
theorem witness_OperatingPointComplete_voltageRampDone :
    powered sx7.dev = true ∧ sx7.dev.power.ramp = some 780 ∧ 750 ≤ 780 ∧ 780 ≤ 840 := by
  decide +kernel

/-- Obligations.DroopAndPulsesComplete: its premises on droopStretch hold together. -/
theorem witness_DroopAndPulsesComplete_droopStretch :
    powered on.dev = true ∧ (dieSt on.dev 5).droop = none := by
  decide +kernel

/-- Obligations.DroopAndPulsesComplete: its premises on droopStretchEnd hold together. -/
theorem witness_DroopAndPulsesComplete_droopStretchEnd :
    powered sx8.dev = true ∧ (dieSt sx8.dev 5).droop = some (16, true) := by
  decide +kernel

/-- Obligations.DroopAndPulsesComplete: its premises on timeSourceSilent hold together. -/
theorem witness_DroopAndPulsesComplete_timeSourceSilent :
    powered sx9.dev = true ∧ fget sx9.dev (clkReg R.CLK_TIME_CTRL) F.CLK_TIME_CTRL_SRC ≠ 3 ∧ sx9.dev.power.sourceHeard +
      secTicks 3 ≤ sx9.dev.tally := by
  decide +kernel

/-- Obligations.DroopAndPulsesComplete: its premises on ppsInEdge hold together. -/
theorem witness_DroopAndPulsesComplete_ppsInEdge :
    powered on.dev = true ∧ on.dev.boot.ppsIn = none := by
  decide +kernel

/-- Obligations.DroopAndPulsesComplete: its premises on ppsOutPulse hold together. -/
theorem witness_DroopAndPulsesComplete_ppsOutPulse :
    powered sx10.dev = true ∧ flag sx10.dev (clkReg R.CLK_TIME_CTRL) F.CLK_TIME_CTRL_PPS_OUT_EN = true := by
  decide +kernel

/-- Obligations.TimeAccessComplete: its premises on timeStep hold together. -/
theorem witness_TimeAccessComplete_timeStep :
    powered on.dev = true ∧ MayWrite on.dev mp (clkReg R.CLK_TIME_STEP) := by
  decide +kernel

/-- Obligations.TimeAccessComplete: its premises on timeRate hold together. -/
theorem witness_TimeAccessComplete_timeRate :
    powered on.dev = true ∧ MayWrite on.dev mp (clkReg R.CLK_TIME_RATE) := by
  decide +kernel

/-- Obligations.TimeAccessComplete: its premises on tallyRead hold together. -/
theorem witness_TimeAccessComplete_tallyRead :
    powered sx11.dev = true ∧ MayRead sx11.dev mp (clkReg R.CLK_TALLY_LO) := by
  decide +kernel

/-- Obligations.TimeAccessComplete: its premises on timeRead hold together. -/
theorem witness_TimeAccessComplete_timeRead :
    powered sx12.dev = true ∧ MayRead sx12.dev mp (clkReg R.CLK_TIME_NS) := by
  decide +kernel

end W02

namespace W03

def row0 : RegRow := ⟨0, 1, 32, .head, .bank0, []⟩
def rP := (regAt (clkReg R.PWR_IN_POWER)).get (by decide)
def cP : CtlAccess := {path := mp, addr := BitVec.ofNat 32 (clkReg R.PWR_IN_POWER)}
def sx1 : State := wd fun d => wr d (clkReg R.PWR_IN_POWER) 0x12345678
def aV := ctl R.VEC_STALL_A 3 4
def aB := ctl R.BRG_LANE_RET_LO 3 1
def aX := (regTable.filter fun r => [0x05,0x07,0x0C,0x3F].contains (r.place/2^20)).map fun r => (r.place)
def aS := ctl R.RSV_SHARE 50 0
def cR : CtlAccess := {path := .core 3 1 .user, addr := 0x1234}
def cR2 : CtlAccess := {path := .i3c, addr := 0x1235}
def sx2 : State := wd fun d => fset d (ctl R.HAL_ACC_STATUS 0 4) F.HAL_ACC_STATUS_VALID 1
def gs : List ApplyGroup := [.pumpRing 3 4 .b, .pumpRing 3 4 .a, .square 3 4, .placement 3, .share 2, .aqueduct 9, .barrier 3 7, .model, .timer 3 1, .point]
def sh (d : Dev) (l : List Nat) : Dev := l.foldl (fun d a => writeShadow d a (BitVec.ofNat 32 (a % 97 + 3))) d
def sx3 : State := wd fun d => fset (sh d (ringGroup 3 4 true)) (pumpReg R.PMP_RING_APPLY 3 4 true) F.PMP_RING_APPLY_APPLY 1
def sx4 : State := wd fun d => fset (sh d [ctl R.SQR_RETIRE 3 4]) (ctl R.SQR_APPLY 3 4) F.SQR_APPLY_APPLY 1
def sx5 : State := wd fun d => fset (sh {d with timerIrq := [13,12]} (timerGroup 3 1)) (ctl R.HAL_TIMER_APPLY 3 1) F.HAL_TIMER_APPLY_APPLY 1
def sx6 : State := wd fun d => fset (sh {d with step := {d.step with nextHdr := some {d.step.hdr with nanHalt := true}}} (placementGroup 3)) (ctl R.DIE_PLACE_APPLY 3 0) F.DIE_PLACE_APPLY_APPLY 1
def sx7 : State := wd fun d => fset (writeShadow d (ctl R.RSV_SHARE 50 0) 0x20202020) (ctl R.RSV_APPLY 50 0) F.RSV_APPLY_APPLY 1
def sx8 : State := wd fun d => fset (writeShadow d (ctl R.RSV_SHARE 50 0) 0x10101010) (ctl R.RSV_APPLY 50 0) F.RSV_APPLY_APPLY 1
def sx9 : State := wd fun d => fset (writeShadow d (aqdReg R.AQD_CTRL 9) 7) (aqdReg R.AQD_APPLY 9) F.AQD_APPLY_APPLY 1
def wB := (wd fun d => wr (fset (sh d (barGroup 3 7)) (barReg R.GAT_BAR_ARRIVED 3 7) F.GAT_BAR_ARRIVED_APPLY 1) (gateReg R.GAT_THRESH 59 (shadowField (sh d (barGroup 3 7)) (barReg R.GAT_BAR_CTRL 3 7) F.GAT_BAR_CTRL_ARRIVE_GATE)) 3)
def ep : EpochRec := {epoch := 4, modelId := 1, digest := [], manifest := {edition := 0, modelId := 1, epoch := 4, slices := 1, sources := [], shards := [], placements := [], prevEpoch := 0}, slice := 0, stages := []}
def sx10 : State := wd fun d => fset (sh (setModel d 5 {staged := some ep}) (modelGroup 5)) (modelReg R.SRV_MT_APPLY 5) F.SRV_MT_APPLY_APPLY 1
def aG := ctl R.GAT_CTRL 3 5
def aH := ctl R.HAL_REMOTE 3 4

/-- Obligations.AccessCodesComplete: its premises on rcCounterRead hold together. -/
theorem witness_AccessCodesComplete_rcCounterRead :
    powered sx1.dev = true ∧ regAt cP.addr.toNat = some rP ∧ refusal sx1.dev cP false = none := by
  decide +kernel

/-- Obligations.AccessCodesComplete: its premises on registerWrite hold together. -/
theorem witness_AccessCodesComplete_registerWrite :
    (powered on.dev = true ∧ regAt ({ path := mp, addr := BitVec.ofNat 32 aV } : CtlAccess).addr.toNat = some ((regAt
      aV).getD row0) ∧ refusal on.dev ({ path := mp, addr := BitVec.ofNat 32 aV } : CtlAccess) true = none ∧ (ctlClass
      ({ path := mp, addr := BitVec.ofNat 32 aV } : CtlAccess).addr.toNat ∈ [5, 7, 12, 63] ∨ ctlPlace
      ({ path := mp, addr := BitVec.ofNat 32 aV } : CtlAccess).addr.toNat ∈
      [R.CLK_THERM, R.CLK_OP_LIMIT, R.PWR_LIMIT, R.PWR_ALERT, R.FNT_TIMEOUT, R.HAL_REMOTE, R.GAT_CTRL])) ∧ (powered on.dev =
      true ∧ regAt ({ path := mp, addr := BitVec.ofNat 32 aS } : CtlAccess).addr.toNat = some ((regAt aS).getD row0) ∧
      refusal on.dev ({ path := mp, addr := BitVec.ofNat 32 aS } : CtlAccess) true = none ∧ ctlPlace
      ({ path := mp, addr := BitVec.ofNat 32 aS } : CtlAccess).addr.toNat = R.RSV_SHARE) ∧ (powered on.dev = true ∧ regAt
      ({ path := mp, addr := BitVec.ofNat 32 aG } : CtlAccess).addr.toNat = some ((regAt aG).getD row0) ∧ refusal on.dev
      ({ path := mp, addr := BitVec.ofNat 32 aG } : CtlAccess) true = none ∧ (ctlClass
      ({ path := mp, addr := BitVec.ofNat 32 aG } : CtlAccess).addr.toNat ∈ [5, 7, 12, 63] ∨ ctlPlace
      ({ path := mp, addr := BitVec.ofNat 32 aG } : CtlAccess).addr.toNat ∈
      [R.CLK_THERM, R.CLK_OP_LIMIT, R.PWR_LIMIT, R.PWR_ALERT, R.FNT_TIMEOUT, R.HAL_REMOTE, R.GAT_CTRL])) ∧ (powered on.dev =
      true ∧ regAt ({ path := mp, addr := BitVec.ofNat 32 aH } : CtlAccess).addr.toNat = some ((regAt aH).getD row0) ∧
      refusal on.dev ({ path := mp, addr := BitVec.ofNat 32 aH } : CtlAccess) true = none ∧ (ctlClass
      ({ path := mp, addr := BitVec.ofNat 32 aH } : CtlAccess).addr.toNat ∈ [5, 7, 12, 63] ∨ ctlPlace
      ({ path := mp, addr := BitVec.ofNat 32 aH } : CtlAccess).addr.toNat ∈
      [R.CLK_THERM, R.CLK_OP_LIMIT, R.PWR_LIMIT, R.PWR_ALERT, R.FNT_TIMEOUT, R.HAL_REMOTE, R.GAT_CTRL])) ∧ (powered on.dev =
      true ∧ regAt ({ path := mp, addr := BitVec.ofNat 32 R.PWR_ALERT } : CtlAccess).addr.toNat = some ((regAt
      R.PWR_ALERT).getD row0) ∧ refusal on.dev ({ path := mp, addr := BitVec.ofNat 32 R.PWR_ALERT } : CtlAccess) true = none
      ∧ (ctlClass ({ path := mp, addr := BitVec.ofNat 32 R.PWR_ALERT } : CtlAccess).addr.toNat ∈ [5, 7, 12, 63] ∨ ctlPlace
      ({ path := mp, addr := BitVec.ofNat 32 R.PWR_ALERT } : CtlAccess).addr.toNat ∈
      [R.CLK_THERM, R.CLK_OP_LIMIT, R.PWR_LIMIT, R.PWR_ALERT, R.FNT_TIMEOUT, R.HAL_REMOTE, R.GAT_CTRL])) := by
  decide +kernel

/-- Obligations.RefusedAccessComplete: its premises on registerWrite hold together. -/
theorem witness_RefusedAccessComplete_registerWrite :
    powered on.dev = true ∧ refusal on.dev cR true = some Reason.priv := by
  decide +kernel

/-- Obligations.RefusedAccessComplete: its premises on rcCounterRead hold together. -/
theorem witness_RefusedAccessComplete_rcCounterRead :
    (powered on.dev = true ∧ refusal on.dev cR false = some Reason.priv) ∧ (powered sx2.dev = true ∧ refusal sx2.dev cR2
      false = some Reason.width) := by
  decide +kernel

/-- Obligations.ApplyGroupsComplete: its premises on applyArm hold together. -/
theorem witness_ApplyGroupsComplete_applyArm :
    (powered on.dev = true ∧ MayWrite on.dev mp (ApplyGroup.target on.dev mp (ApplyGroup.barrier 7 63)).fst) ∧ (powered
      on.dev = true ∧ MayWrite on.dev mp (ApplyGroup.target on.dev mp (ApplyGroup.pumpRing 47 23 PumpId.b)).fst) := by
  decide +kernel

/-- Obligations.ApplyGroupsComplete: its premises on pumpRingApply hold together. -/
theorem witness_ApplyGroupsComplete_pumpRingApply :
    powered sx3.dev = true ∧ flag sx3.dev (pumpReg R.PMP_RING_APPLY (3) (4) (PumpId.b == PumpId.b)) F.PMP_RING_APPLY_APPLY
      = true ∧ rd sx3.dev (pumpReg R.PMP_RING_HEAD (3) (4) (PumpId.b == PumpId.b)) = rd sx3.dev (pumpReg R.PMP_RING_TAIL (3)
      (4) (PumpId.b == PumpId.b)) ∧ pumpQueue sx3.dev (3) (4) (PumpId.b == PumpId.b) QueueId.ring = [] := by
  decide +kernel

/-- Obligations.ApplyGroupsComplete: its premises on squareRetireApply hold together. -/
theorem witness_ApplyGroupsComplete_squareRetireApply :
    powered sx4.dev = true ∧ flag sx4.dev (ctl R.SQR_APPLY 3 4) F.SQR_APPLY_APPLY = true ∧ sx4.dev.step.running = false := by
  decide +kernel

/-- Obligations.ApplyGroupsComplete: its premises on coreTimerApply hold together. -/
theorem witness_ApplyGroupsComplete_coreTimerApply :
    powered sx5.dev = true ∧ flag sx5.dev (ctl R.HAL_TIMER_APPLY 3 1) F.HAL_TIMER_APPLY_APPLY = true := by
  decide +kernel

/-- Obligations.GroupsTakeTheirShadows: its premises on placementApply hold together. -/
theorem witness_GroupsTakeTheirShadows_placementApply :
    powered sx6.dev = true ∧ flag sx6.dev (ctl R.DIE_PLACE_APPLY (3) 0) F.DIE_PLACE_APPLY_APPLY = true ∧
      sx6.dev.step.running = false := by
  decide +kernel

/-- Obligations.GroupsTakeTheirShadows: its premises on reservoirShareApply hold together. -/
theorem witness_GroupsTakeTheirShadows_reservoirShareApply :
    (powered sx7.dev = true ∧ flag sx7.dev (ctl R.RSV_APPLY (48 + 2) 0) F.RSV_APPLY_APPLY = true ∧ sx7.dev.step.running =
      false) ∧ (powered sx8.dev = true ∧ flag sx8.dev (ctl R.RSV_APPLY (48 + 2) 0) F.RSV_APPLY_APPLY = true ∧
      sx8.dev.step.running = false) := by
  decide +kernel

/-- Obligations.GroupsTakeTheirShadows: its premises on aqueductCtrlApply hold together. -/
theorem witness_GroupsTakeTheirShadows_aqueductCtrlApply :
    powered sx9.dev = true ∧ flag sx9.dev (aqdReg R.AQD_APPLY 9) F.AQD_APPLY_APPLY = true := by
  decide +kernel

/-- Obligations.GroupsTakeTheirShadows: its premises on barrierSlotApply hold together. -/
theorem witness_GroupsTakeTheirShadows_barrierSlotApply :
    powered wB.dev = true ∧ flag wB.dev (barReg R.GAT_BAR_ARRIVED 3 7) F.GAT_BAR_ARRIVED_APPLY = true ∧ flag wB.dev
      (barReg R.GAT_BAR_ARRIVED 3 7) F.GAT_BAR_ARRIVED_LOCAL = false ∧ (barSlot wB.dev 3 7).cur = [] ∧ (barSlot wB.dev 3
      7).next = [] ∧ wB.dev.barEvents = [] ∧ gateMet wB.dev (56 + 3) (shadowField wB.dev (barReg R.GAT_BAR_CTRL 3 7)
      F.GAT_BAR_CTRL_ARRIVE_GATE) = false := by
  decide +kernel

/-- Obligations.GroupsTakeTheirShadows: its premises on modelTableApply hold together. -/
theorem witness_GroupsTakeTheirShadows_modelTableApply :
    powered sx10.dev = true ∧ flag sx10.dev (modelReg R.SRV_MT_APPLY 5) F.SRV_MT_APPLY_APPLY = true ∧
      sx10.dev.step.running = false ∧ (model sx10.dev 5).staged = some ep ∧ (model sx10.dev 5).prev = none ∧ (model sx10.dev
      5).removing = false ∧ ((ep.stages.zip ep.manifest.shards).all fun p => p.fst == ShardStage.placed || !needed ep p.snd)
      = true := by
  decide +kernel

end W03

namespace W04

def sx1 : State := wb fun x => {x with debt := [(0, 60),(5,10)]}
def sx2 : State := wb fun x => {x with debt := [(0, 60),(5,10)]}
def sx3 : State := wb fun x => {x with debt := [(0, 90),(5,10)], action := [(0,(true,3))]}
def sx4 : State := wb fun x => {x with debt := [(0, 60),(5,10)], action := [(0,(true,3))]}
def rp : Repair := {line := 7, reader := 0, tries := 0}
def gaddr := groundAddr on.dev 3 4 7
def s4 := wb fun x => {x with repairs := [rp, {rp with line := 9}]}
def stk (d : Dev) : Dev := wr (fset (fset d (ctl R.BRG_STATUS 48 0) F.BRG_STATUS_UP 1) (ctl R.RSV_STATUS 48 0) F.RSV_STATUS_READY 1) (pageReg 0 0) 0x19
def s5 : State := wd fun d => let d := stk d; setBlk {d with rsv := memWrite d.rsv gaddr (List.replicate 1024 7)} 3 4 {(blk d 3 4) with repairs := [rp, {rp with line := 9}]}
def sw (k : BankId) : State := wd fun d => let r := bankRegs 3 4 k; fset d r.1 ⟨r.2.2, 1⟩ 0
def sb (k : BankId) : State := wd fun d => let r := bankRegs 3 4 k; fset d r.2.1 ⟨r.2.2, 1⟩ 0
def sx5 : State := wb fun x => {x with narrowMarks := [(32767, 3)], wideMarks := [(7,1)]}
def zr := wd fun d => wr d (ctl R.WEL_ZERO_RANGE 3 4) (BitVec.ofNat 32 (32760 + 100 * 65536))
def z : State := wd fun d => setBlk (fset (fset d (ctl R.WEL_ZERO_CTRL 3 4) F.WEL_ZERO_CTRL_BUSY 1) (ctl R.WEL_ZERO_CTRL 3 4) F.WEL_ZERO_CTRL_GO 1) 3 4 {(blk d 3 4) with zeroLeft := some (false, 4, 3), well := memWrite { zeroed := [(0, 8388608)] } 4000 [9, 9], wideMarks := [(4,1),(7,1)]}
def ez := zeroRangeDone z.dev 3 4 {}
def sx6 : State := wd fun d => wr d (ctl R.SEQ_PS_ADDR 3 4) 0x7FFFF
def hp : State := wd fun d => {d with step := {d.step with running := true}}
def lk : State := wd fun d => {d with step := {d.step with hdr := {d.step.hdr with lockstep := true}}}
def us0 : State := us id
def mrow : Nat := (unitCtx us0.dev 3 4 0).base.narrow + (unitCtx us0.dev 3 4 0).hdr.rowtab + 2048
def bd : List BadRead := [.wide 3, .narrow (mrow + 7)]
def bds : List (DieId × BlockId × BadRead) := [(D3, B4, .narrow mrow), (2, 4, .narrow mrow)]
def us2 : State := wd fun d => {d with step := {d.step with running := true, hdr := {d.step.hdr with lockstep := true}, lockstep := true}}
def zf : State := us (fun x => {x with basins := [(3, ⟨none, 3, true⟩)]}) (fun d => {d with step := {d.step with running := false, hdr := {d.step.hdr with zeroFill := true}}})
def zf2 : State := us (fun x => x) (fun d => {d with step := {d.step with running := false}})
def zf3 : State := us (fun x => {x with seq := {x.seq with phase := .filling}, well := memWrite x.well 1000 [5, 5, 5], wideMarks := [(0,1),(15,2),(16,1)]})
def ue : State := us (fun x => {x with seq := {x.seq with phase := .ended, slot := 0, cycle := 100}, temps := [(0,[1])], accs := []}) (fun d => fset d (ctl (R.SEQ_US_CTRL+0x40) 3 4) F.SEQ_US_CTRL_VALID 1)
def ud : State := us (fun x => {x with seq := {x.seq with phase := .ended, slot := 0, cycle := 100}, temps := [(0,[1])], accs := []})

/-- Obligations.RefreshAndRepairComplete: its premises on refreshTick hold together. -/
theorem witness_RefreshAndRepairComplete_refreshTick :
    powered sx1.dev = true := by
  decide +kernel

/-- Obligations.RefreshAndRepairComplete: its premises on opportunisticRefresh hold together. -/
theorem witness_RefreshAndRepairComplete_opportunisticRefresh :
    powered sx2.dev = true ∧ subOn sx2.dev ↑D3 ↑B4 0 = true ∧ 0 < mgetD (blk sx2.dev ↑D3 ↑B4).debt (0) 0 ∧ mget (blk
      sx2.dev ↑D3 ↑B4).action 0 = none ∧ subClaimed sx2.dev ↑D3 ↑B4 0 = false := by
  decide +kernel

/-- Obligations.RefreshAndRepairComplete: its premises on refreshActionEnd hold together. -/
theorem witness_RefreshAndRepairComplete_refreshActionEnd :
    (powered sx3.dev = true ∧ mget (blk sx3.dev ↑D3 ↑B4).action 0 = some (true, 3)) ∧ (powered sx4.dev = true ∧ mget (blk
      sx4.dev ↑D3 ↑B4).action 0 = some (true, 3)) := by
  decide +kernel

/-- Obligations.RefreshAndRepairComplete: its premises on groundRepairDone hold together. -/
theorem witness_RefreshAndRepairComplete_groundRepairDone :
    powered s5.dev = true ∧ (blk s5.dev ↑D3 ↑B4).repairs =
      [rp, ({ line := 9, reader := rp.reader, tries := rp.tries } : Repair)] ∧ 2 < 3 ∧ cisReady s5.dev (↑D3) (↑B4) rp.line =
      true ∧ forcedIn (blk s5.dev ↑D3 ↑B4) (rp.line / 4096) = false ∧ loaderClaims s5.dev ↑D3 ↑B4 = false ∧ (mgetD
      s5.dev.stackTab (groundAddr s5.dev (↑D3) (↑B4) rp.line / 2097152 % 8) ({} : Stack)).accepted = [] ∧ stackReachable
      s5.dev (groundAddr s5.dev (↑D3) (↑B4) rp.line / 2097152 % 8) = true ∧ rsvRefused s5.dev (groundAddr s5.dev (↑D3) (↑B4)
      rp.line / 2097152 % 8)
      ({ addr := groundAddr s5.dev (↑D3) (↑B4) rp.line, len := 1024, data := none, vc := 3, ring := true, origin := Origin.repair ↑D3 ↑B4 }
      : RsvAcc) = false ∧ (blk s5.dev ↑D3 ↑B4).pumpA.ring = [] ∧ (blk s5.dev ↑D3 ↑B4).pumpB.ring = [] := by
  decide +kernel

/-- Obligations.BanksAndMarksComplete: its premises on bankWake hold together. -/
theorem witness_BanksAndMarksComplete_bankWake :
    (powered (sw (BankId.wide 3)).dev = true ∧ MayWrite (sw (BankId.wide 3)).dev mp (bankRegs (↑D3) (↑B4) (BankId.wide
      3)).fst ∧ bit (BitVec.toNat (rd (sw (BankId.wide 3)).dev (bankRegs (↑D3) (↑B4) (BankId.wide 3)).fst)) (bankRegs (↑D3)
      (↑B4) (BankId.wide 3)).snd.snd = false) ∧ (powered (sw (BankId.sub 31)).dev = true ∧ MayWrite (sw (BankId.sub 31)).dev
      mp (bankRegs (↑D3) (↑B4) (BankId.sub 31)).fst ∧ bit (BitVec.toNat (rd (sw (BankId.sub 31)).dev (bankRegs (↑D3) (↑B4)
      (BankId.sub 31)).fst)) (bankRegs (↑D3) (↑B4) (BankId.sub 31)).snd.snd = false) := by
  decide +kernel

/-- Obligations.BanksAndMarksComplete: its premises on bankPowerDown hold together. -/
theorem witness_BanksAndMarksComplete_bankPowerDown :
    powered on.dev = true ∧ MayWrite on.dev mp (bankRegs (↑D3) (↑B4) (BankId.narrow 7)).fst ∧ bit (BitVec.toNat (rd on.dev
      (bankRegs (↑D3) (↑B4) (BankId.narrow 7)).fst)) (bankRegs (↑D3) (↑B4) (BankId.narrow 7)).snd.snd = true := by
  decide +kernel

/-- Obligations.BanksAndMarksComplete: its premises on bankReady hold together. -/
theorem witness_BanksAndMarksComplete_bankReady :
    powered (sb (BankId.wide 11)).dev = true ∧ bit (BitVec.toNat (rd (sb (BankId.wide 11)).dev (bankRegs (↑D3) (↑B4)
      (BankId.wide 11)).fst)) (bankRegs (↑D3) (↑B4) (BankId.wide 11)).snd.snd = true ∧ bit (BitVec.toNat (rd (sb
      (BankId.wide 11)).dev (bankRegs (↑D3) (↑B4) (BankId.wide 11)).snd.fst)) (bankRegs (↑D3) (↑B4) (BankId.wide
      11)).snd.snd = false := by
  decide +kernel

/-- Obligations.BanksAndMarksComplete: its premises on markWrite hold together. -/
theorem witness_BanksAndMarksComplete_markWrite :
    (powered on.dev = true ∧ MayWrite on.dev mp (ctl R.WEL_MARK_CTRL ↑D3 ↑B4) ∧ (6143 < if false = true then 32768 else
      6144) ∧ wellReady on.dev (↑D3) (↑B4) false (6143) = true) ∧ (powered sx5.dev = true ∧ MayWrite sx5.dev mp (ctl
      R.WEL_MARK_CTRL ↑D3 ↑B4) ∧ (32767 < if true = true then 32768 else 6144) ∧ wellReady sx5.dev (↑D3) (↑B4) true (32767)
      = true) := by
  decide +kernel

/-- Obligations.ZeroFillAndProgramStoreComplete: its premises on zeroRangeGo hold together. -/
theorem witness_ZeroFillAndProgramStoreComplete_zeroRangeGo :
    (powered on.dev = true ∧ MayWrite on.dev mp (ctl R.WEL_ZERO_CTRL ↑D3 ↑B4) ∧ flag on.dev (ctl R.WEL_ZERO_CTRL ↑D3 ↑B4)
      F.WEL_ZERO_CTRL_BUSY = false) ∧ (powered zr.dev = true ∧ MayWrite zr.dev mp (ctl R.WEL_ZERO_CTRL ↑D3 ↑B4) ∧ flag
      zr.dev (ctl R.WEL_ZERO_CTRL ↑D3 ↑B4) F.WEL_ZERO_CTRL_BUSY = false) := by
  decide +kernel

/-- Obligations.ZeroFillAndProgramStoreComplete: its premises on zeroRangeDone hold together. -/
theorem witness_ZeroFillAndProgramStoreComplete_zeroRangeDone :
    powered z.dev = true ∧ (blk z.dev ↑D3 ↑B4).zeroLeft = some (false, 4, 3) ∧ (blk z.dev ↑D3 ↑B4).well.wf = true := by
  decide +kernel

/-- Obligations.ZeroFillAndProgramStoreComplete: its premises on programStoreWrite hold together. -/
theorem witness_ZeroFillAndProgramStoreComplete_programStoreWrite :
    (powered sx6.dev = true ∧ MayWrite sx6.dev mp (ctl R.SEQ_PS_DATA ↑D3 ↑B4) ∧ sx6.dev.step.running = false) ∧ (powered
      hp.dev = true ∧ hp.dev.step.running = true) ∧ (powered on.dev = true ∧ on.dev.step.running = false) := by
  decide +kernel

/-- Obligations.StepStartComplete: its premises on startTally hold together. -/
theorem witness_StepStartComplete_startTally :
    (powered lk.dev = true ∧ lk.dev.step.hdr.lockstep = true ∧ lockstepBarred lk.dev = false ∧ (∀ (x : DieId), startTally
      lk.dev ↑x ≤ lk.dev.tally) ∧ mayStart lk.dev = true) ∧ (powered us2.dev = true ∧ us2.dev.step.hdr.lockstep = true ∧
      lockstepBarred us2.dev = false ∧ (∀ (x : DieId), startTally us2.dev ↑x ≤ us2.dev.tally) ∧ us2.dev.step.running = true
      ∧ us2.dev.step.lockstep = true ∧ us2.dev.step.tallied = false) := by
  exact ⟨⟨by decide +kernel, by decide +kernel, barred_reset _ rfl (by decide +kernel), by decide +kernel, by decide +kernel⟩,
    by decide +kernel, by decide +kernel, barred_reset _ rfl (by decide +kernel), by decide +kernel, by decide +kernel,
    by decide +kernel, by decide +kernel⟩

/-- Obligations.StepStartComplete: its premises on blockStepStart hold together. -/
theorem witness_StepStartComplete_blockStepStart :
    (powered zf.dev = true ∧ startGateMet zf.dev ↑D3 = true ∧ mayStart zf.dev = true) ∧ (powered zf2.dev = true ∧
      startGateMet zf2.dev ↑D3 = true ∧ mayStart zf2.dev = true) := by
  decide +kernel

/-- Obligations.StepStartComplete: its premises on zeroFillDone hold together. -/
theorem witness_StepStartComplete_zeroFillDone :
    powered zf3.dev = true ∧ (blk zf3.dev ↑D3 ↑B4).seq.phase = SeqPhase.filling ∧ stepLive zf3.dev = true ∧ (blk zf3.dev
      ↑D3 ↑B4).well.wf = true := by
  decide +kernel

/-- Obligations.StepStartComplete: its premises on unitStart hold together. -/
theorem witness_StepStartComplete_unitStart :
    powered ue.dev = true ∧ stepLive ue.dev = true ∧ (blk ue.dev ↑D3 ↑B4).seq.phase = SeqPhase.ended ∧ opsDone (blk ue.dev
      ↑D3 ↑B4) = true ∧ nextSlot ue.dev (↑D3) (↑B4) ((blk ue.dev ↑D3 ↑B4).seq.slot + 1) = some 2 := by
  decide +kernel

/-- Obligations.StepStartComplete: its premises on blockDone hold together. -/
theorem witness_StepStartComplete_blockDone :
    powered ud.dev = true ∧ (blk ud.dev ↑D3 ↑B4).seq.phase = SeqPhase.ended ∧ opsDone (blk ud.dev ↑D3 ↑B4) = true ∧
      nextSlot ud.dev (↑D3) (↑B4) ((blk ud.dev ↑D3 ↑B4).seq.slot + 1) = none := by
  decide +kernel

end W04

namespace W05

def nop := iss (ctlBun 0 0 0 5) [.control]
def nop2 := iss (ctlBun 0 0 (1+2*8+7*64) 5) [.control,.address]
def end1 := iss (ctlBun 1 0 0 5) [.control]
def loop1 := iss (ctlBun 2 (9+65536*2) 0 5) [.control]
def fence1 := iss (ctlBun 6 31 0 5) [.control]
def gw1 := iss (ctlBun 4 7 0 5) [.control]
def gw2 := iss (ctlBun 4 255 0 5) [.control]
def nop3 := iss (ctlBun 0 0 0 5) [.control] fun x => {x with seq := {x.seq with pos := {x.seq.pos with loops := [⟨0,1,2⟩,⟨0,6,4⟩]}}}
def nopI := iss (ctlBun 0 0 0 5) []
def gs1 := iss (ctlBun 3 (37 + 5*512 + 3*32768) 0 5) [.control] id fun d => setBlk (setWaiters (wr d (gateReg R.GAT_THRESH 5 37) 4) 5 37 [.block 9]) 5 9 {seq := {held := some {cause := .gate, on := .gate 5 37}}}
def gs2 := iss (ctlBun 3 (37 + 5*512 + 3*32768) 0 5) [.control] id fun d => wr d (gateReg R.GAT_THRESH 5 37) 5
def gs3 := iss (ctlBun 3 (37 + 5*512 + 3*32768) 0 5) [.control] id fun d => wr d (gateReg R.GAT_COUNT 5 37) 0xFFFFFFFF
def gs4 := iss (ctlBun 3 (37 + 5*512 + 3*32768+2^19) 0 5) [.control]
def ge1 := iss (ctlBun 5 (37 + 500*256+ 2^24) 0 5) [.control] id fun d => wr d (gateReg R.GAT_THRESH 3 37) 5
def ge2 := iss (ctlBun 5 (37 + 500*256+ 2^24) 0 5) [.control] id fun d => wr d (gateReg R.GAT_CTRL 3 37) 0x0502
def ad (aop r imm : Nat) := iss (ctlBun 0 0 (aop + r*8+imm*64) 5) [.address] fun x => {x with seq := {x.seq with pos := {x.seq.pos with regs := [0,0xFFFFFFF0,2,0x12345678,4,5,6,7]}}}
def eop (c : Cop) : EafOp := {seq := 0, bundle := 0, slot := 0, cop := c, row := 2, progress := 0, taken := 0, wait := none}
def eo2 := eop .nop
def ef (c : Cop) (f : Block → Block := id) : State := us fun x => f { x with eafQueue := [eop c, eo2], accs := [(0, eafDepF eafZero 0x3F800000), (3, eafDepF eafZero 0x40490FDB), (63, eafDepF eafZero 0x7FC00000)] }
def e1 := ef (.eclr 2 3)
def e2 := ef (.edepb 5 1 0) fun x => {x with basins := [(5, ⟨some ((List.range 64).map fun i => 0x3F800000 + i * 0x10000), 4, true⟩)]}
def e3 := ef (.edepb 5 1 0) fun x => {x with basins := [(5, ⟨some ((List.range 64).map fun i => 0x3F800000 + i * 0x10000), 4, false⟩)]}
def wl (x : Block) : Block := {x with wideMarks := [(2, 5)], well := memWrite x.well 2048 ((List.range 16).map fun i => BitVec.ofNat 8 (i * 7 / 3))}
def e4 := ef (.edepw 0 0 5 2 1 0) wl
def e5 := ef (.ernd 0 0 5 2 0 5) wl
def e6 := ef (.ests 0 0 5 3 1) wl
def e7 := ef (.estt 0 0 5 3 1) wl
def e8 := ef (.edeps 0 0 5 3 3 1) wl
def wx (x : Block) : Block := {x with wideMarks := [(2, 5)], well := memWrite x.well 2048 (eafTransport (eafDepF eafZero 0x40490FDB))}
def e9 := ef (.edept 0 0 5 3 3 1) wx
def e10 := ef (.edepw 0 0 5 2 1 0)

/-- Obligations.ControlFlowComplete: its premises on nop hold together. -/
theorem witness_ControlFlowComplete_nop :
    (powered nop.dev = true ∧ ({} : WellEnv).lostWide + ({} : WellEnv).lostNarrow = 0 ∧ SlotTurn nop.dev (↑D3) (↑B4)
      SlotId.control (buO nop) [] ∧ (buO nop).control = Cop.nop) ∧ (powered nop2.dev = true ∧ ({} : WellEnv).lostWide + ({}
      : WellEnv).lostNarrow = 0 ∧ SlotTurn nop2.dev (↑D3) (↑B4) SlotId.control (buO nop2) [SlotId.address] ∧ (buO
      nop2).control = Cop.nop) ∧ (powered nop3.dev = true ∧ ({} : WellEnv).lostWide + ({} : WellEnv).lostNarrow = 0 ∧
      SlotTurn nop3.dev (↑D3) (↑B4) SlotId.control (buO nop3) [] ∧ (buO nop3).control = Cop.nop ∧ (blk nop3.dev ↑D3
      ↑B4).seq.pos.loops =
      [({ start := 0, len := 1, left := 2 } : LoopFrame), ({ start := 0, len := 6, left := 4 } : LoopFrame)] ∧ (blk nop3.dev
      ↑D3 ↑B4).seq.pos.pc + 1 = ({ start := 0, len := 1, left := 2 } : LoopFrame).start +
      ({ start := 0, len := 1, left := 2 } : LoopFrame).len ∧ 1 < ({ start := 0, len := 1, left := 2 } : LoopFrame).left) := by
  decide +kernel

/-- Obligations.ControlFlowComplete: its premises on end_ hold together. -/
theorem witness_ControlFlowComplete_end_ :
    powered end1.dev = true ∧ ({} : WellEnv).lostWide + ({} : WellEnv).lostNarrow = 0 ∧ SlotTurn end1.dev (↑D3) (↑B4)
      SlotId.control (buO end1) [] ∧ (buO end1).control = Cop.end_ := by
  decide +kernel

/-- Obligations.ControlFlowComplete: its premises on loop hold together. -/
theorem witness_ControlFlowComplete_loop :
    powered loop1.dev = true ∧ ({} : WellEnv).lostWide + ({} : WellEnv).lostNarrow = 0 ∧ SlotTurn loop1.dev (↑D3) (↑B4)
      SlotId.control (buO loop1) [] ∧ (buO loop1).control = Cop.loop 10 3 := by
  decide +kernel

/-- Obligations.ControlFlowComplete: its premises on fence hold together. -/
theorem witness_ControlFlowComplete_fence :
    powered fence1.dev = true ∧ ({} : WellEnv).lostWide + ({} : WellEnv).lostNarrow = 0 ∧ SlotTurn fence1.dev (↑D3) (↑B4)
      SlotId.control (buO fence1) [] ∧ (buO fence1).control = Cop.fence 31 := by
  decide +kernel

/-- Obligations.ControlFlowComplete: its premises on gwait hold together. -/
theorem witness_ControlFlowComplete_gwait :
    (powered gw1.dev = true ∧ ({} : WellEnv).lostWide + ({} : WellEnv).lostNarrow = 0 ∧ SlotTurn gw1.dev (↑D3) (↑B4)
      SlotId.control (buO gw1) [] ∧ (buO gw1).control = Cop.gwait 7 ∧ 7 ≠ 255) ∧ (powered gw2.dev = true ∧ ({} :
      WellEnv).lostWide + ({} : WellEnv).lostNarrow = 0 ∧ SlotTurn gw2.dev (↑D3) (↑B4) SlotId.control (buO gw2) [] ∧ (buO
      gw2).control = Cop.gwait 255 ∧ ({} : WellEnv).bad = [] ∧ rowMask gw2.dev (↑D3) (↑B4) (unitCtx gw2.dev (↑D3) (↑B4) (blk
      gw2.dev ↑D3 ↑B4).seq.slot) = some 0) := by
  decide +kernel

/-- Obligations.ControlFlowComplete: its premises hold together. -/
theorem witness_ControlFlowComplete :
    powered nopI.dev = true ∧ ({} : WellEnv).lostWide + ({} : WellEnv).lostNarrow = 0 ∧ MayIssue nopI.dev (↑D3) (↑B4) (buO
      nopI) ∧ (buO nopI).slots = [SlotId.control] ∧ (buO nopI).control = Cop.nop ∧ (blk nopI.dev ↑D3 ↑B4).seq.holdCause =
      none ∧ (blk nopI.dev ↑D3 ↑B4).seq.holds = [] := by
  decide +kernel

/-- Obligations.GateSlotComplete: its premises on gsig hold together. -/
theorem witness_GateSlotComplete_gsig_1 :
    (powered gs1.dev = true ∧ ({} : WellEnv).lostWide + ({} : WellEnv).lostNarrow = 0 ∧ SlotTurn gs1.dev (↑D3) (↑B4)
      SlotId.control (buO gs1) [] ∧ (buO gs1).control = Cop.gsig 37 5 4 false 0 ∧ 5 < 48 ∧ 37 < 256 ∧ BitVec.toNat (rd
      gs1.dev (gateReg R.GAT_COUNT 5 37)) + 4 < 4294967296) ∧ (powered gs2.dev = true ∧ ({} : WellEnv).lostWide + ({} :
      WellEnv).lostNarrow = 0 ∧ SlotTurn gs2.dev (↑D3) (↑B4) SlotId.control (buO gs2) [] ∧ (buO gs2).control = Cop.gsig 37 5
      4 false 0 ∧ 5 < 48 ∧ 37 < 256 ∧ BitVec.toNat (rd gs2.dev (gateReg R.GAT_COUNT 5 37)) + 4 < 4294967296) ∧ (powered
      gs3.dev = true ∧ ({} : WellEnv).lostWide + ({} : WellEnv).lostNarrow = 0 ∧ SlotTurn gs3.dev (↑D3) (↑B4) SlotId.control
      (buO gs3) [] ∧ (buO gs3).control = Cop.gsig 37 5 4 false 0 ∧ 5 < 48 ∧ 37 < 256 ∧ 4294967296 ≤ BitVec.toNat (rd gs3.dev
      (gateReg R.GAT_COUNT 5 37)) + 4) := by
  decide +kernel

/-- Obligations.GateSlotComplete: its premises on gsig hold together. -/
theorem witness_GateSlotComplete_gsig_2 :
    powered gs4.dev = true ∧ ({} : WellEnv).lostWide + ({} : WellEnv).lostNarrow = 0 ∧ SlotTurn gs4.dev (↑D3) (↑B4)
      SlotId.control (buO gs4) [] ∧ (buO gs4).control = Cop.gsig 37 5 4 true 0 ∧ routeHead gs4.dev (areg (blk gs4.dev ↑D3
      ↑B4).seq.pos.regs 0 % 65536) 0 = none := by
  decide +kernel

/-- Obligations.GateSlotComplete: its premises on gset hold together. -/
theorem witness_GateSlotComplete_gset :
    (powered ge1.dev = true ∧ ({} : WellEnv).lostWide + ({} : WellEnv).lostNarrow = 0 ∧ SlotTurn ge1.dev (↑D3) (↑B4)
      SlotId.control (buO ge1) [] ∧ (buO ge1).control = Cop.gset 37 500 true ∧ 37 < 256 ∧ 500 < 4294967296 ∧ ownerOk ge1.dev
      (↑D3) 37 (Requester.block ↑D3 ↑B4) = true ∧ (true = true → BitVec.toNat (rd ge1.dev (gateReg R.GAT_THRESH (↑D3) 37)) +
      500 < 4294967296)) ∧ (powered ge2.dev = true ∧ ({} : WellEnv).lostWide + ({} : WellEnv).lostNarrow = 0 ∧ SlotTurn
      ge2.dev (↑D3) (↑B4) SlotId.control (buO ge2) [] ∧ (buO ge2).control = Cop.gset 37 500 true ∧ 37 < 256 ∧ 500 <
      4294967296 ∧ ownerOk ge2.dev (↑D3) 37 (Requester.block ↑D3 ↑B4) = false) := by
  decide +kernel

/-- Obligations.AddressSlotComplete: its premises on addrSet hold together. -/
theorem witness_AddressSlotComplete_addrSet :
    powered (ad 1 3 16777215).dev = true ∧ ({} : WellEnv).lostWide + ({} : WellEnv).lostNarrow = 0 ∧ SlotTurn (ad 1 3
      16777215).dev (↑D3) (↑B4) SlotId.address (buO (ad 1 3 16777215)) [] ∧ (buO (ad 1 3 16777215)).control ≠ Cop.end_ ∧ 0 <
      3 ∧ 3 < 8 ∧ 16777215 < 16777216 ∧ (blk (ad 1 3 16777215).dev ↑D3 ↑B4).seq.pos.regs.length = 8 ∧ areg (blk (ad 1 3
      16777215).dev ↑D3 ↑B4).seq.pos.regs 0 = 0 ∧ (buO (ad 1 3 16777215)).address = some (Aop.set 3 16777215) := by
  decide +kernel

/-- Obligations.AddressSlotComplete: its premises on addrAdd hold together. -/
theorem witness_AddressSlotComplete_addrAdd :
    (powered (ad 2 1 32).dev = true ∧ ({} : WellEnv).lostWide + ({} : WellEnv).lostNarrow = 0 ∧ SlotTurn (ad 2 1 32).dev
      (↑D3) (↑B4) SlotId.address (buO (ad 2 1 32)) [] ∧ (buO (ad 2 1 32)).control ≠ Cop.end_ ∧ 0 < 1 ∧ 1 < 8 ∧ 32 < 16777216
      ∧ (blk (ad 2 1 32).dev ↑D3 ↑B4).seq.pos.regs.length = 8 ∧ areg (blk (ad 2 1 32).dev ↑D3 ↑B4).seq.pos.regs 0 = 0 ∧ (buO
      (ad 2 1 32)).address = some (Aop.add 1 32)) ∧ (powered (ad 2 2 16777215).dev = true ∧ ({} : WellEnv).lostWide + ({} :
      WellEnv).lostNarrow = 0 ∧ SlotTurn (ad 2 2 16777215).dev (↑D3) (↑B4) SlotId.address (buO (ad 2 2 16777215)) [] ∧ (buO
      (ad 2 2 16777215)).control ≠ Cop.end_ ∧ 0 < 2 ∧ 2 < 8 ∧ 16777215 < 16777216 ∧ (blk (ad 2 2 16777215).dev ↑D3
      ↑B4).seq.pos.regs.length = 8 ∧ areg (blk (ad 2 2 16777215).dev ↑D3 ↑B4).seq.pos.regs 0 = 0 ∧ (buO (ad 2 2
      16777215)).address = some (Aop.add 2 16777215)) := by
  decide +kernel

/-- Obligations.AddressSlotComplete: its premises on addrSethi hold together. -/
theorem witness_AddressSlotComplete_addrSethi :
    powered (ad 3 3 255).dev = true ∧ ({} : WellEnv).lostWide + ({} : WellEnv).lostNarrow = 0 ∧ SlotTurn (ad 3 3 255).dev
      (↑D3) (↑B4) SlotId.address (buO (ad 3 3 255)) [] ∧ (buO (ad 3 3 255)).control ≠ Cop.end_ ∧ 0 < 3 ∧ 3 < 8 ∧ 255 <
      16777216 ∧ (blk (ad 3 3 255).dev ↑D3 ↑B4).seq.pos.regs.length = 8 ∧ areg (blk (ad 3 3 255).dev ↑D3 ↑B4).seq.pos.regs 0
      = 0 ∧ (buO (ad 3 3 255)).address = some (Aop.sethi 3 255) ∧ areg (blk (ad 3 3 255).dev ↑D3 ↑B4).seq.pos.regs 3 <
      4294967296 := by
  decide +kernel

/-- Obligations.AddressSlotComplete: its premises on addrMov hold together. -/
theorem witness_AddressSlotComplete_addrMov :
    (powered (ad 4 7 16777209).dev = true ∧ ({} : WellEnv).lostWide + ({} : WellEnv).lostNarrow = 0 ∧ SlotTurn (ad 4 7
      16777209).dev (↑D3) (↑B4) SlotId.address (buO (ad 4 7 16777209)) [] ∧ (buO (ad 4 7 16777209)).control ≠ Cop.end_ ∧ 0 <
      7 ∧ 7 < 8 ∧ 16777209 < 16777216 ∧ (blk (ad 4 7 16777209).dev ↑D3 ↑B4).seq.pos.regs.length = 8 ∧ areg (blk (ad 4 7
      16777209).dev ↑D3 ↑B4).seq.pos.regs 0 = 0 ∧ (buO (ad 4 7 16777209)).address = some (Aop.mov 7 16777209)) ∧ (powered
      (ad 4 7 16777208).dev = true ∧ ({} : WellEnv).lostWide + ({} : WellEnv).lostNarrow = 0 ∧ SlotTurn (ad 4 7
      16777208).dev (↑D3) (↑B4) SlotId.address (buO (ad 4 7 16777208)) [] ∧ (buO (ad 4 7 16777208)).control ≠ Cop.end_ ∧ 0 <
      7 ∧ 7 < 8 ∧ 16777208 < 16777216 ∧ (blk (ad 4 7 16777208).dev ↑D3 ↑B4).seq.pos.regs.length = 8 ∧ areg (blk (ad 4 7
      16777208).dev ↑D3 ↑B4).seq.pos.regs 0 = 0 ∧ (buO (ad 4 7 16777208)).address = some (Aop.mov 7 16777208)) := by
  decide +kernel

/-- Obligations.EafSlotComplete: its premises on eclr hold together. -/
theorem witness_EafSlotComplete_eclr :
    powered e1.dev = true ∧ (blk e1.dev ↑D3 ↑B4).eafQueue = [eop (Cop.eclr 2 3), eo2] ∧ eafTurn (blk e1.dev ↑D3 ↑B4) (eop
      (Cop.eclr 2 3)) = true ∧ (eop (Cop.eclr 2 3)).progress = 0 ∧ (eop (Cop.eclr 2 3)).taken = 0 ∧ 2 < 64 ∧ (eop (Cop.eclr
      2 3)).cop = Cop.eclr 2 3 ∧ 2 + 3 ≤ 64 := by
  decide +kernel

/-- Obligations.EafSlotComplete: its premises on edepb hold together. -/
theorem witness_EafSlotComplete_edepb :
    (powered e2.dev = true ∧ (blk e2.dev ↑D3 ↑B4).eafQueue = [eop (Cop.edepb 5 1 0), eo2] ∧ eafTurn (blk e2.dev ↑D3 ↑B4)
      (eop (Cop.edepb 5 1 0)) = true ∧ (eop (Cop.edepb 5 1 0)).progress = 0 ∧ (eop (Cop.edepb 5 1 0)).taken = 0 ∧ 0 < 64 ∧
      (eop (Cop.edepb 5 1 0)).cop = Cop.edepb 5 1 0 ∧ 5 < 1024 ∧ 5 < (unitCtx e2.dev (↑D3) (↑B4) (eop (Cop.edepb 5 1
      0)).slot).hdr.entries ∧ 5 + (unitCtx e2.dev (↑D3) (↑B4) (eop (Cop.edepb 5 1 0)).slot).base.entry < 1024 ∧ passPending
      (blk e2.dev ↑D3 ↑B4) (eop (Cop.edepb 5 1 0)).seq ((unitCtx e2.dev (↑D3) (↑B4) (eop (Cop.edepb 5 1 0)).slot).base.entry
      + 5) = false ∧ (basinAt (blk e2.dev ↑D3 ↑B4) ((unitCtx e2.dev (↑D3) (↑B4) (eop (Cop.edepb 5 1 0)).slot).base.entry +
      5)).sealBit = true) ∧ (powered e3.dev = true ∧ (blk e3.dev ↑D3 ↑B4).eafQueue = [eop (Cop.edepb 5 1 0), eo2] ∧ eafTurn
      (blk e3.dev ↑D3 ↑B4) (eop (Cop.edepb 5 1 0)) = true ∧ (eop (Cop.edepb 5 1 0)).progress = 0 ∧ (eop (Cop.edepb 5 1
      0)).taken = 0 ∧ 0 < 64 ∧ (eop (Cop.edepb 5 1 0)).cop = Cop.edepb 5 1 0 ∧ 5 < 1024 ∧ 5 < (unitCtx e3.dev (↑D3) (↑B4)
      (eop (Cop.edepb 5 1 0)).slot).hdr.entries ∧ 5 + (unitCtx e3.dev (↑D3) (↑B4) (eop (Cop.edepb 5 1 0)).slot).base.entry <
      1024 ∧ passPending (blk e3.dev ↑D3 ↑B4) (eop (Cop.edepb 5 1 0)).seq ((unitCtx e3.dev (↑D3) (↑B4) (eop (Cop.edepb 5 1
      0)).slot).base.entry + 5) = false ∧ (basinAt (blk e3.dev ↑D3 ↑B4) ((unitCtx e3.dev (↑D3) (↑B4) (eop (Cop.edepb 5 1
      0)).slot).base.entry + 5)).sealBit = false) := by
  decide +kernel

/-- Obligations.EafSlotComplete: its premises on edepw hold together. -/
theorem witness_EafSlotComplete_edepw :
    powered e4.dev = true ∧ (blk e4.dev ↑D3 ↑B4).eafQueue = [eop (Cop.edepw 0 0 5 2 1 0), eo2] ∧ eafTurn (blk e4.dev ↑D3
      ↑B4) (eop (Cop.edepw 0 0 5 2 1 0)) = true ∧ (eop (Cop.edepw 0 0 5 2 1 0)).progress = 0 ∧ (eop (Cop.edepw 0 0 5 2 1
      0)).taken = 0 ∧ 0 < 64 ∧ (eop (Cop.edepw 0 0 5 2 1 0)).cop = Cop.edepw 0 0 5 2 1 0 ∧ 2 < 4 ∧ runRow e4.dev (↑D3) (↑B4)
      (unitCtx e4.dev (↑D3) (↑B4) (eop (Cop.edepw 0 0 5 2 1 0)).slot) (eop (Cop.edepw 0 0 5 2 1 0)).row (some 5) = RunRow.ok
      2 := by
  decide +kernel

/-- Obligations.EafSlotComplete: its premises on ernd hold together. -/
theorem witness_EafSlotComplete_ernd :
    powered e5.dev = true ∧ (blk e5.dev ↑D3 ↑B4).eafQueue = [eop (Cop.ernd 0 0 5 2 0 5), eo2] ∧ eafTurn (blk e5.dev ↑D3
      ↑B4) (eop (Cop.ernd 0 0 5 2 0 5)) = true ∧ (eop (Cop.ernd 0 0 5 2 0 5)).progress = 0 ∧ (eop (Cop.ernd 0 0 5 2 0
      5)).taken = 0 ∧ 0 < 64 ∧ (eop (Cop.ernd 0 0 5 2 0 5)).cop = Cop.ernd 0 0 5 2 0 5 ∧ 0 + 5 ≤ 64 ∧ runRow e5.dev (↑D3)
      (↑B4) (unitCtx e5.dev (↑D3) (↑B4) (eop (Cop.ernd 0 0 5 2 0 5)).slot) (eop (Cop.ernd 0 0 5 2 0 5)).row none = RunRow.ok
      2 ∧ (blk e5.dev ↑D3 ↑B4).well.wf = true := by
  decide +kernel

/-- Obligations.EafSlotComplete: its premises on ests hold together. -/
theorem witness_EafSlotComplete_ests :
    powered e6.dev = true ∧ (blk e6.dev ↑D3 ↑B4).eafQueue = [eop (Cop.ests 0 0 5 3 1), eo2] ∧ eafTurn (blk e6.dev ↑D3 ↑B4)
      (eop (Cop.ests 0 0 5 3 1)) = true ∧ (eop (Cop.ests 0 0 5 3 1)).progress = 0 ∧ (eop (Cop.ests 0 0 5 3 1)).taken = 0 ∧ 3
      < 64 ∧ (eop (Cop.ests 0 0 5 3 1)).cop = Cop.ests 0 0 5 3 1 ∧ runRow e6.dev (↑D3) (↑B4) (unitCtx e6.dev (↑D3) (↑B4)
      (eop (Cop.ests 0 0 5 3 1)).slot) (eop (Cop.ests 0 0 5 3 1)).row none = RunRow.ok 2 ∧ (blk e6.dev ↑D3 ↑B4).well.wf =
      true := by
  decide +kernel

/-- Obligations.EafSlotComplete: its premises on estt hold together. -/
theorem witness_EafSlotComplete_estt :
    powered e7.dev = true ∧ (blk e7.dev ↑D3 ↑B4).eafQueue = [eop (Cop.estt 0 0 5 3 1), eo2] ∧ eafTurn (blk e7.dev ↑D3 ↑B4)
      (eop (Cop.estt 0 0 5 3 1)) = true ∧ (eop (Cop.estt 0 0 5 3 1)).progress = 0 ∧ (eop (Cop.estt 0 0 5 3 1)).taken = 0 ∧ 3
      < 64 ∧ (eop (Cop.estt 0 0 5 3 1)).cop = Cop.estt 0 0 5 3 1 ∧ runRow e7.dev (↑D3) (↑B4) (unitCtx e7.dev (↑D3) (↑B4)
      (eop (Cop.estt 0 0 5 3 1)).slot) (eop (Cop.estt 0 0 5 3 1)).row none = RunRow.ok 2 ∧ (blk e7.dev ↑D3 ↑B4).well.wf =
      true := by
  decide +kernel

/-- Obligations.EafSlotComplete: its premises on edeps hold together. -/
theorem witness_EafSlotComplete_edeps :
    powered e8.dev = true ∧ (blk e8.dev ↑D3 ↑B4).eafQueue = [eop (Cop.edeps 0 0 5 3 3 1), eo2] ∧ eafTurn (blk e8.dev ↑D3
      ↑B4) (eop (Cop.edeps 0 0 5 3 3 1)) = true ∧ (eop (Cop.edeps 0 0 5 3 3 1)).progress = 0 ∧ (eop (Cop.edeps 0 0 5 3 3
      1)).taken = 0 ∧ 3 < 64 ∧ (eop (Cop.edeps 0 0 5 3 3 1)).cop = Cop.edeps 0 0 5 3 3 1 ∧ runRow e8.dev (↑D3) (↑B4)
      (unitCtx e8.dev (↑D3) (↑B4) (eop (Cop.edeps 0 0 5 3 3 1)).slot) (eop (Cop.edeps 0 0 5 3 3 1)).row (some 5) = RunRow.ok
      2 := by
  decide +kernel

/-- Obligations.EafSlotComplete: its premises on edept hold together. -/
theorem witness_EafSlotComplete_edept :
    powered e9.dev = true ∧ (blk e9.dev ↑D3 ↑B4).eafQueue = [eop (Cop.edept 0 0 5 3 3 1), eo2] ∧ eafTurn (blk e9.dev ↑D3
      ↑B4) (eop (Cop.edept 0 0 5 3 3 1)) = true ∧ (eop (Cop.edept 0 0 5 3 3 1)).progress = 0 ∧ (eop (Cop.edept 0 0 5 3 3
      1)).taken = 0 ∧ 3 < 64 ∧ (eop (Cop.edept 0 0 5 3 3 1)).cop = Cop.edept 0 0 5 3 3 1 ∧ runRow e9.dev (↑D3) (↑B4)
      (unitCtx e9.dev (↑D3) (↑B4) (eop (Cop.edept 0 0 5 3 3 1)).slot) (eop (Cop.edept 0 0 5 3 3 1)).row (some 5) = RunRow.ok
      2 ∧ eafOfTransport (wellRead e9.dev (↑D3) (↑B4) (rowAddr false 2) 1024) = TransportItem.word (eafDepF eafZero
      1078530011) (eafTransport (eafDepF eafZero 1078530011)).length := by
  decide +kernel

/-- Obligations.EafSlotComplete: its premises hold together. -/
theorem witness_EafSlotComplete :
    powered e10.dev = true ∧ (blk e10.dev ↑D3 ↑B4).eafQueue = [eop (Cop.edepw 0 0 5 2 1 0), eo2] ∧ eafTurn (blk e10.dev
      ↑D3 ↑B4) (eop (Cop.edepw 0 0 5 2 1 0)) = true ∧ (eop (Cop.edepw 0 0 5 2 1 0)).progress = 0 ∧ (eop (Cop.edepw 0 0 5 2 1
      0)).taken = 0 ∧ 0 < 64 ∧ (eop (Cop.edepw 0 0 5 2 1 0)).cop = Cop.edepw 0 0 5 2 1 0 ∧ (eop (Cop.edepw 0 0 5 2 1
      0)).wait = none := by
  decide +kernel

end W05

namespace W06

def mslot (m : Nat) := m
def mbun := 1 + 3 * 2^15 + 2*2^26 + 1*2^36 + 4*2^54 + 6*2^60 + 63*2^70 + 192*2^78 + 2^86 + 2^87 + 77 * 2^88
def td : TileDesc := (tileAt (us id).dev 3 4 (unitCtx (us id).dev 3 4 0) 0).getD ⟨.fp32,0,false,.fp32,false,0,false,false,false,0,.fp32,0,0,0,0,0⟩
def tl : TileLoad := {bundle := 0, tile := 0, desc := td, alt := false, rowBase := 4, tag := 77, vcount := 4, plane := 0, nextRow := 0, rows := 0, lines := (List.range 16).map fun i => (List.range 1024).map fun j => BitVec.ofNat 8 (i*3+j), expLines := [], repairs := [], ready := true, wait := none}
def sp := iss mbun [.matrix, .control] fun x => {x with load := some tl}
def mm : MatrixSlot := ((buO sp).matrix).getD ⟨0,0,0,0,0,0,0,0,0,0,0,0,false,false,0⟩
def pe := devOf (.pass D3 B4 {}) sp
def pr : PassRun := ((blk pe 3 4).passes.head?).getD {seq := 0, bundle := 0, slot := 0, start := 0, desc := td, plane := ⟨.fp32,[],0,false⟩, vcount := 1, actBase := 0, actStride := 0, actGen := 0, rowBase := 0, entry := 0, klen := 0, tail := 0, first := false, sealing := false, tag := 0, entered := 0, vectors := [], stopped := false, done := 0, masked := [], faulted := false, wait := none}
def pl : PlaneTile := ⟨.fp32, List.replicate 64 (List.replicate 64 0x3F80), 0, false⟩
def pr1 : PassRun := {pr with plane := pl, vectors := List.replicate 4 (List.replicate 4 (List.replicate 64 0x4000)), entered := 4, wait := none}
def sE (p : PassRun) := us fun x => {x with passes := [p], basins := [(6, ⟨some (List.replicate 64 0), 3, true⟩)]}
def eE := devOf (.entryComplete D3 B4 []) (sE pr1)
def pr2 := {pr1 with first := false}
def eE2 := devOf (.entryComplete D3 B4 []) (sE pr2)
def pr3 := {pr1 with tail := 3}
def eE3 := devOf (.entryComplete D3 B4 []) (sE pr3)
def pr4 : PassRun := {pr with entered := 3, vcount := 4, wait := none}
def sQ := us fun x => {x with passes := [pr4], wideMarks := (List.range 16).map fun i => (i, 0), quartetWait := some {cause := .mark, on := .other}}
def sQ2 := us fun x => {x with passes := [pr4], quartetWait := some {cause := .mark, on := .other}}
def sQr := us fun x => {x with passes := [{pr4 with seq := 9}], quartetWait := some {cause := .mark, on := .other}, eafQueue := [⟨1, 0, 0, .edepb (pr4.entry + pr4.done) 1 0, 0, 0, 0, none⟩]}
def vq : List (List Nat) := match readVectors sQ.dev 3 4 (unitCtx sQ.dev 3 4 0) pr4 3 [0,1,2,3] [] with | .ok v => v | _ => []
def vw : Wait := match readVectors sQ2.dev 3 4 (unitCtx sQ2.dev 3 4 0) pr4 3 [0,1,2,3] [] with | .wait v => v | _ => {cause := .mark, on := .other}
def sQ3 := us fun x => {x with passes := [{pr4 with vcount := 6, seq := 0, entered := 6, vectors := [], first := true}, {pr4 with seq := 5, first := false}], wideMarks := (List.range 16).map fun i => (i, 0)}
def sT := iss mbun []
def sT2 := iss mbun [] fun x => {x with ps := memWrite x.ps 512 (leBytes 32 (12 * 2^64))}
def td2 := {td with img0 := 12}
def sTp := us fun x => {putBun (putBun x 0 (ctlBun 0 0 0 1)) 1 mbun with seq := {x.seq with phase := .running, passed := false}}
def tl0 : TileLoad := {tl with ready := false}
def sR := iss mbun [] fun x => {x with load := some tl0}
def envW : PumpEnv := {well := {bad := [.wide 3]}}
def tlw : TileLoad := {tl with ready := false, desc := {td with fromWell := true}, rows := 3, nextRow := 2, lines := []}
def sW := us fun x => {x with load := some tlw, wideMarks := [(2,0)]}
def sC := iss ((1 + 9 * 2^9 + 2*2^21 + 5*2^27)*2^104) [.vector, .control]
def ch := (chainAt sC.dev 3 4 (unitCtx sC.dev 3 4 0) 0).getD ⟨[],0,0,0,[]⟩
def cr : ChainRun := { seq := 0, bundle := 0, slot := 0, chain := ch, iters := 2, next := 0, genOffset := 0, rowBase := 3, bases := List.replicate 8 0, mask := 5, halted := false, wait := none }
def sI := us fun x => {x with chains := [cr, {cr with iters := 9}]}
def rsI := match readStreams sI.dev 3 4 (unitCtx sI.dev 3 4 0) cr (cr.chain.streams.take 4) [] [] with | .inr (s, fx) => (s, fx) | _ => ([], [])
def vI := let x := blk sI.dev 3 4; let u := unitCtx sI.dev 3 4 0; cr.chain.ops.foldl (runOp rsI.1 cr.next 3 4 (laneNan x 4 u cr)) { temps := x.temps, preds := x.preds, acc := { accs := x.accs }, outs := [], fx := rsI.2, nanLanes := [] }
def fsI := match formStores sI.dev 3 4 (unitCtx sI.dev 3 4 0) cr vI.outs ((cr.chain.streams.drop 4).zipIdx.map fun p => (p.2, p.1)) [] [] with | .inl v => v | _ => ([], [])
def sI2 := us fun x => {x with chains := [{cr with iters := 1}, {cr with iters := 9}]}
def sH := us fun x => {x with chains := [{cr with halted := true}, {cr with iters := 9}]}
def vs : VecStore := {addr := 2046, bytes := [some 1, none, some 3], mark := some (true, 5, 2), lastOfChain := true, bundle := 0, tag := 77, row := 3}
def sS := us fun x => {x with stores := [vs, vs], well := memWrite x.well 2040 (List.replicate 20 9)}
def sSd := us (fun x => {x with stores := [vs, vs]}) (fun d => fset d (bankRegs 3 4 (.wide 0)).2.1 ⟨(bankRegs 3 4 (.wide 0)).2.2, 1⟩ 0)

/-- Obligations.PassesComplete: its premises on pass hold together. -/
theorem witness_PassesComplete_pass :
    powered sp.dev = true ∧ SlotTurn sp.dev (↑D3) (↑B4) SlotId.matrix (buO sp) [SlotId.control] ∧ (buO sp).matrix = some
      mm ∧ (blk sp.dev ↑D3 ↑B4).load = some tl ∧ (∀ (q : PassRun), q ∈ (blk sp.dev ↑D3 ↑B4).passes → q.seq ≠ (blk sp.dev ↑D3
      ↑B4).issueNo) := by
  decide +kernel

/-- Obligations.PassesComplete: its premises on entryComplete hold together. -/
theorem witness_PassesComplete_entryComplete :
    powered (sE pr1).dev = true ∧ (blk (sE pr1).dev ↑D3 ↑B4).passes = [pr1] ∧ pr1.vectors = List.replicate 4
      (List.replicate 64 16384) :: List.replicate 3 (List.replicate 4 (List.replicate 64 16384)) ∧ pr1.wait = none ∧
      readerPending (blk (sE pr1).dev ↑D3 ↑B4) (unitCtx (sE pr1).dev (↑D3) (↑B4) pr1.slot).base.entry pr1.seq (pr1.entry +
      pr1.done) = false := by
  decide +kernel

/-- Obligations.PassesComplete: its premises on quartetStallEnd hold together. -/
theorem witness_PassesComplete_quartetStallEnd_1 :
    (powered sQr.dev = true ∧ ((blk sQr.dev ↑D3 ↑B4).quartetWait.isSome && (Option.map (fun p => readerPending (blk
      sQr.dev ↑D3 ↑B4) (unitCtx sQr.dev (↑D3) (↑B4) p.slot).base.entry p.seq (p.entry + p.done)) (blk sQr.dev ↑D3
      ↑B4).passes.head?).getD false) = true) ∧ (powered (us id).dev = true ∧ ((blk (us id).dev ↑D3 ↑B4).quartetWait.isSome
      && (Option.map (fun p => readerPending (blk (us id).dev ↑D3 ↑B4) (unitCtx (us id).dev (↑D3) (↑B4) p.slot).base.entry
      p.seq (p.entry + p.done)) (blk (us id).dev ↑D3 ↑B4).passes.head?).getD false) = false ∧ List.find? (fun p =>
      p.wait.isSome || decide (p.entered < p.vcount)) (blk (us id).dev ↑D3 ↑B4).passes = none) ∧ (powered sQ.dev = true ∧
      List.find? (fun p => p.wait.isSome || decide (p.entered < p.vcount)) (blk sQ.dev ↑D3 ↑B4).passes = some pr4 ∧
      pr4.stopped = false ∧ ((blk sQ.dev ↑D3 ↑B4).quartetWait.isSome && (Option.map (fun p => readerPending (blk sQ.dev ↑D3
      ↑B4) (unitCtx sQ.dev (↑D3) (↑B4) p.slot).base.entry p.seq (p.entry + p.done)) (blk sQ.dev ↑D3 ↑B4).passes.head?).getD
      false) = false ∧ pr4.entered + 1 = pr4.vcount ∧ readVectors (setBlk sQ.dev ↑D3 ↑B4 ({ (blk sQ.dev ↑D3 ↑B4) with  } :
      Block)) (↑D3) (↑B4) (unitCtx (setBlk sQ.dev ↑D3 ↑B4 ({ (blk sQ.dev ↑D3 ↑B4) with  } : Block)) (↑D3) (↑B4) pr4.slot)
      pr4 pr4.entered [0, 1, 2, 3] [] = VecRead.ok vq ∧ chainWaits (blk sQ.dev ↑D3 ↑B4) (dieSt sQ.dev ↑D3).elapsed pr4 =
      false) ∧ (powered sQ3.dev = true ∧ List.find? (fun p => p.wait.isSome || decide (p.entered < p.vcount)) (blk sQ3.dev
      ↑D3 ↑B4).passes = some ({ pr4 with seq := 5, first := false } : PassRun) ∧ ({ pr4 with seq := 5, first := false } :
      PassRun).stopped = false ∧ ((blk sQ3.dev ↑D3 ↑B4).quartetWait.isSome && (Option.map (fun p => readerPending (blk
      sQ3.dev ↑D3 ↑B4) (unitCtx sQ3.dev (↑D3) (↑B4) p.slot).base.entry p.seq (p.entry + p.done)) (blk sQ3.dev ↑D3
      ↑B4).passes.head?).getD false) = false ∧ ({ pr4 with seq := 5, first := false } : PassRun).entered + 1 =
      ({ pr4 with seq := 5, first := false } : PassRun).vcount ∧ readVectors (setBlk sQ3.dev ↑D3 ↑B4
      ({ (blk sQ3.dev ↑D3 ↑B4) with  } : Block)) (↑D3) (↑B4) (unitCtx (setBlk sQ3.dev ↑D3 ↑B4
      ({ (blk sQ3.dev ↑D3 ↑B4) with  } : Block)) ↑D3 ↑B4 ({ pr4 with seq := 5, first := false } : PassRun).slot)
      ({ pr4 with seq := 5, first := false } : PassRun) ({ pr4 with seq := 5, first := false } : PassRun).entered
      [0, 1, 2, 3] [] = VecRead.ok vq ∧ chainWaits (blk sQ3.dev ↑D3 ↑B4) (dieSt sQ3.dev ↑D3).elapsed
      ({ pr4 with seq := 5, first := false } : PassRun) = true) := by
  decide +kernel

/-- Obligations.PassesComplete: its premises on quartetStallEnd hold together. -/
theorem witness_PassesComplete_quartetStallEnd_2 :
    powered sQ2.dev = true ∧ List.find? (fun p => p.wait.isSome || decide (p.entered < p.vcount)) (blk sQ2.dev ↑D3
      ↑B4).passes = some pr4 ∧ pr4.stopped = false ∧ ((blk sQ2.dev ↑D3 ↑B4).quartetWait.isSome && (Option.map (fun p =>
      readerPending (blk sQ2.dev ↑D3 ↑B4) (unitCtx sQ2.dev (↑D3) (↑B4) p.slot).base.entry p.seq (p.entry + p.done)) (blk
      sQ2.dev ↑D3 ↑B4).passes.head?).getD false) = false ∧ pr4.entered + 1 = pr4.vcount ∧ readVectors (setBlk sQ2.dev ↑D3
      ↑B4 ({ (blk sQ2.dev ↑D3 ↑B4) with  } : Block)) (↑D3) (↑B4) (unitCtx (setBlk sQ2.dev ↑D3 ↑B4
      ({ (blk sQ2.dev ↑D3 ↑B4) with  } : Block)) (↑D3) (↑B4) pr4.slot) pr4 pr4.entered [0, 1, 2, 3] [] = VecRead.wait vw := by
  decide +kernel

/-- Obligations.TilesComplete: its premises on tileLoadStart hold together. -/
theorem witness_TilesComplete_tileLoadStart_1 :
    (powered sT.dev = true ∧ stepLive sT.dev = true ∧ (blk sT.dev ↑D3 ↑B4).load = none ∧ (blk sT.dev ↑D3 ↑B4).seq.phase =
      SeqPhase.running ∧ nextPass sT.dev (↑D3) (↑B4) (unitCtx sT.dev (↑D3) (↑B4) (blk sT.dev ↑D3 ↑B4).seq.slot) = some (({}
      : SeqPos), mm) ∧ tileAt sT.dev (↑D3) (↑B4) (unitCtx sT.dev (↑D3) (↑B4) (blk sT.dev ↑D3 ↑B4).seq.slot) (areg ({} :
      SeqPos).regs mm.treg + mm.tile) = some td ∧ pairingOk sT.dev.step.hdr.strict td = true ∧ td.epochAlt = false ∧
      td.fromWell = false ∧ ((blk sT.dev ↑D3 ↑B4).seq.passed = true ∨ ({} : SeqPos) = (blk sT.dev ↑D3 ↑B4).seq.pos) ∧ (∀ (i
      : Nat), i ∈ (loadLines td false).fst ++ (loadLines td false).snd → i < (unitCtx sT.dev (↑D3) (↑B4) (blk sT.dev ↑D3
      ↑B4).seq.slot).hdr.cisLines ∧ i + (unitCtx sT.dev (↑D3) (↑B4) (blk sT.dev ↑D3 ↑B4).seq.slot).base.cis < 131072 ∧
      pageBad sT.dev (gblock ↑D3 ↑B4 * 64 + (i + (unitCtx sT.dev (↑D3) (↑B4) (blk sT.dev ↑D3 ↑B4).seq.slot).base.cis) /
      2048) = false ∧ cisReady sT.dev (↑D3) (↑B4) (i + (unitCtx sT.dev (↑D3) (↑B4) (blk sT.dev ↑D3 ↑B4).seq.slot).base.cis)
      = true ∧ forcedIn (blk sT.dev ↑D3 ↑B4) ((i + (unitCtx sT.dev (↑D3) (↑B4) (blk sT.dev ↑D3 ↑B4).seq.slot).base.cis) /
      4096) = false)) ∧ (powered sT2.dev = true ∧ stepLive sT2.dev = true ∧ (blk sT2.dev ↑D3 ↑B4).load = none ∧ (blk sT2.dev
      ↑D3 ↑B4).seq.phase = SeqPhase.running ∧ nextPass sT2.dev (↑D3) (↑B4) (unitCtx sT2.dev (↑D3) (↑B4) (blk sT2.dev ↑D3
      ↑B4).seq.slot) = some (({} : SeqPos), mm) ∧ tileAt sT2.dev (↑D3) (↑B4) (unitCtx sT2.dev (↑D3) (↑B4) (blk sT2.dev ↑D3
      ↑B4).seq.slot) (areg ({} : SeqPos).regs mm.treg + mm.tile) = some td2 ∧ pairingOk sT2.dev.step.hdr.strict td2 = true ∧
      td2.epochAlt = false ∧ td2.fromWell = false ∧ ((blk sT2.dev ↑D3 ↑B4).seq.passed = true ∨ ({} : SeqPos) = (blk sT2.dev
      ↑D3 ↑B4).seq.pos) ∧ 16 ∈ (loadLines td2 false).fst ++ (loadLines td2 false).snd ∧ (unitCtx sT2.dev (↑D3) (↑B4) (blk
      sT2.dev ↑D3 ↑B4).seq.slot).hdr.cisLines ≤ 16) := by
  decide +kernel

/-- Obligations.TilesComplete: its premises on tileLoadStart hold together. -/
theorem witness_TilesComplete_tileLoadStart_2 :
    powered sTp.dev = true ∧ (blk sTp.dev ↑D3 ↑B4).seq.passed = false ∧ nextPass sTp.dev (↑D3) (↑B4) (unitCtx sTp.dev
      (↑D3) (↑B4) (blk sTp.dev ↑D3 ↑B4).seq.slot) = some (({ pc := 1 } : SeqPos), mm) ∧ ({ pc := 1 } : SeqPos) ≠ (blk
      sTp.dev ↑D3 ↑B4).seq.pos := by
  decide +kernel

/-- Obligations.TilesComplete: its premises on tileReady hold together. -/
theorem witness_TilesComplete_tileReady :
    powered sR.dev = true ∧ (blk sR.dev ↑D3 ↑B4).load = some tl0 ∧ tl0.ready = false ∧ tl0.repairs = [] ∧ tl0.wait = none
      ∧ forcedSubs (blk sR.dev ↑D3 ↑B4) (loadingLines sR.dev ↑D3 ↑B4) = [] ∧ (tl0.desc.fromWell = true → tl0.rows ≤
      tl0.nextRow) := by
  decide +kernel

/-- Obligations.TilesComplete: its premises on fillMarkWaitEnd hold together. -/
theorem witness_TilesComplete_fillMarkWaitEnd :
    (powered sR.dev = true) ∧ (powered sW.dev = true ∧ (blk sW.dev ↑D3 ↑B4).load = some tlw ∧ tlw.ready = false ∧
      tlw.desc.fromWell = true ∧ tlw.nextRow + 1 = tlw.rows ∧ (2 = (if tlw.alt = true then tlw.desc.img1 else tlw.desc.img0)
      + tlw.nextRow) ∧ locateReady sW.dev (↑D3) (↑B4) (unitCtx sW.dev (↑D3) (↑B4) (blk sW.dev ↑D3 ↑B4).seq.slot) false
      (wideAddr 2) = Loc.row 2 ∧ markCheck (blk sW.dev ↑D3 ↑B4) false 2 tlw.desc.gen = MarkRes.ok) := by
  decide +kernel

/-- Obligations.TilesComplete: its premises on readReplay hold together. -/
theorem witness_TilesComplete_readReplay :
    powered sW.dev = true := by
  decide +kernel

/-- Obligations.ChainsComplete: its premises on chainIssue hold together. -/
theorem witness_ChainsComplete_chainIssue :
    powered sC.dev = true ∧ SlotTurn sC.dev (↑D3) (↑B4) SlotId.vector (buO sC) [SlotId.control] ∧ (buO sC).vector = some
      ((buO sC).vector.getD ({ chain := 0, iter := 0, genOffset := 0, rreg := 0, rowOff := 0 } : VectorSlot)) ∧ chainAt
      sC.dev (↑D3) (↑B4) (unitCtx sC.dev (↑D3) (↑B4) (blk sC.dev ↑D3 ↑B4).seq.slot) ((buO sC).vector.getD
      ({ chain := 0, iter := 0, genOffset := 0, rreg := 0, rowOff := 0 } : VectorSlot)).chain = some ch := by
  decide +kernel

/-- Obligations.ChainsComplete: its premises on chainIteration hold together. -/
theorem witness_ChainsComplete_chainIteration :
    (powered sI.dev = true ∧ (blk sI.dev ↑D3 ↑B4).chains = [cr, ({ cr with iters := 9 } : ChainRun)] ∧ cr.halted = false ∧
      (∀ (o : EafOp), o ∈ (blk sI.dev ↑D3 ↑B4).eafQueue → cr.seq ≤ o.seq) ∧ laneRow cr 255 ≤ 4095 ∧ readStreams sI.dev (↑D3)
      (↑B4) (unitCtx sI.dev (↑D3) (↑B4) cr.slot) cr (List.take 4 cr.chain.streams) [] [] = Sum.inr (rsI.fst, rsI.snd) ∧
      formStores sI.dev (↑D3) (↑B4) (unitCtx sI.dev (↑D3) (↑B4) cr.slot) cr (List.foldl (runOp rsI.fst cr.next (↑D3) (↑B4)
      (laneNan (blk sI.dev ↑D3 ↑B4) (↑B4) (unitCtx sI.dev (↑D3) (↑B4) cr.slot) cr))
      ({ (blk sI.dev ↑D3 ↑B4) with acc := ({ accs := (blk sI.dev ↑D3 ↑B4).accs } : AccRes), outs := [], fx := rsI.snd, nanLanes := [] }
      : VecState) cr.chain.ops).outs (List.map (fun p => (p.snd, p.fst)) (List.drop 4 cr.chain.streams).zipIdx) [] [] =
      Sum.inl (fsI.fst, fsI.snd)) ∧ (powered sH.dev = true ∧ (blk sH.dev ↑D3 ↑B4).chains =
      [({ cr with halted := true } : ChainRun), ({ cr with iters := 9 } : ChainRun)] ∧ ({ cr with halted := true } :
      ChainRun).halted = true) := by
  decide +kernel

/-- Obligations.ChainsComplete: its premises on vectorStoreLand hold together. -/
theorem witness_ChainsComplete_vectorStoreLand :
    (powered sS.dev = true ∧ (blk sS.dev ↑D3 ↑B4).stores = [vs, vs] ∧ (blk sS.dev ↑D3 ↑B4).well.wf = true ∧ wellReady
      sS.dev (↑D3) (↑B4) vs.place.fst vs.place.snd = true) ∧ (powered sSd.dev = true ∧ (blk sSd.dev ↑D3 ↑B4).stores =
      [vs, vs] ∧ (blk sSd.dev ↑D3 ↑B4).well.wf = true ∧ wellReady sSd.dev (↑D3) (↑B4) vs.place.fst vs.place.snd = false) := by
  decide +kernel

end W06

namespace W07

def sP := iss ((1 + 1*2 + 3*2^13)*2^156) [.pumpB, .control] id fun d => {d with nextId := 7}
def sl := ((buO sP).pumpB).getD ⟨0,0⟩
def yO := slotDesc sP.dev 3 4 (unitCtx sP.dev 3 4 0) sl
def y7 : PumpDesc := match yO with | .ok y => y | _ => ⟨.copy,.fp32,.fp32,0,none,none,0,false,0,false,1,.ownWell 0,.ownWell 0,0,0,1,1,0,0,0,0,false,false,0,0,false,0⟩
def sD (hd : Nat) := wd fun d => {fset (fset d (pumpReg R.PMP_RING_SIZE 3 4 true) F.PMP_RING_SIZE_LOG2 5) (pumpReg R.PMP_RING_HEAD 3 4 true) F.PMP_RING_HEAD_HEAD hd with tally := d.tally}
def it (y : PumpDesc) : PumpItem := { desc := y, serial := 7, index := 1, ring := false, bundle := 0, slot := 0, genOffset := 0}
def yc : PumpDesc := {y7 with op := .copy, src := .ownWell 1000, dst := .ownWell 4000, len := 5}
def sO (y : PumpDesc) := us fun x => {x with pumpB := {direct := [it y]}, well := memWrite x.well 1000 [1,2,3,4,5]}
def yg : PumpDesc := {y7 with op := .gather, src := .ownWell 0, sstride := 1024, dst := .ownWell 4000, len := 5, idxAddr := 8192}
def sO2 (y : PumpDesc) := us fun x => {x with pumpB := {direct := [it y]}, well := memWrite (memWrite x.well 1000 [1,2,3,4,5]) 8192 (leBytes 4 3)}
def ysc : PumpDesc := {y7 with op := .scatter, src := .ownWell 16, dstride := 1024, dst := .ownWell 4000, len := 5, idxAddr := 8192}
def yu : PumpDesc := {y7 with op := .unskew16, sfmt := .lns16, dfmt := .lns16, src := .ownWell 0, sstride := 128, dst := .ownWell 9088, len := 64}
def saF (r : Nat) : Nat := 128 * r
def yk : PumpDesc := {y7 with op := .skew16, sfmt := .lns16, dfmt := .lns16, src := .ownWell 256, dstride := 128, dst := .ownWell 8192, len := 64}
def rb : List Byte := List.replicate 64 0
def sRr := wd fun d => {fset (fset (fset d (pumpReg R.PMP_RING_SIZE 3 4 true) F.PMP_RING_SIZE_LOG2 5) (pumpReg R.PMP_RING_HEAD 3 4 true) F.PMP_RING_HEAD_HEAD 31) (pumpReg R.PMP_RING_BASE 3 4 true) F.PMP_RING_BASE_BASE 1 with halls := [(3, {zeroed := [(0, 65536)]})]}
def ry : PumpDesc := match parseDesc true [] 0 with | .ok y => y | _ => y0
def sRd := wd fun d => {sRr.dev with halls := [(3, memWrite {zeroed := [(0, 65536)]} (64+64*31) [255])]}
def pc : PumpPiece := {no := 7, rid := 0, row := 0, parts := [(0, some [1,2,3])], dst := some (.ownWell 4000), marks := [(3,4,3,6)], sent := false, landed := false}
def sL := us fun x => {x with pumpB := {direct := [{it y7 with started := true, row := 1, pieces := [pc]}]}}
def pe1 : PumpPiece := {pc with no := 3}
def sLe := us fun x => {x with pumpB := {direct := [{it y7 with started := true, row := 1, pieces := [pc]}], sluice := [{it y7 with started := true, row := 1, pieces := [pe1]}]}}
def pm : PumpPiece := {pc with dst := none}
def sLm := us fun x => {x with pumpB := {direct := [{it y7 with started := true, row := 1, pieces := [pm]}]}}
def iD : PumpItem := {it {y7 with gateEn := true, gateDie := 5, gate := 37} with started := true, row := 1, pieces := [{pc with landed := true}]}
def sDc := us fun x => {x with pumpB := {sluice := [iD, it y0]}}
def iF := {iD with failed := true}
def sDf := us fun x => {x with pumpB := {sluice := [iF, it y0]}}
def iN := {iD with desc := {iD.desc with gateEn := false}}
def sDn := us fun x => {x with pumpA := {sluice := [iN, it y0]}}

/-- Obligations.DescriptorsComplete: its premises on descriptorIssue hold together. -/
theorem witness_DescriptorsComplete_descriptorIssue :
    powered sP.dev = true ∧ (SlotTurn sP.dev (↑D3) (↑B4) (if (PumpId.b == PumpId.b) = true then SlotId.pumpB else
      SlotId.pumpA) (buO sP) [SlotId.control]) ∧ ((if (PumpId.b == PumpId.b) = true then (buO sP).pumpB else (buO sP).pumpA)
      = some sl) ∧ slotDesc sP.dev (↑D3) (↑B4) (unitCtx sP.dev (↑D3) (↑B4) (blk sP.dev ↑D3 ↑B4).seq.slot) sl = DescRes.ok y7 := by
  decide +kernel

/-- Obligations.DescriptorsComplete: its premises on ringDoorbell hold together. -/
theorem witness_DescriptorsComplete_ringDoorbell :
    (powered (sD 4).dev = true ∧ MayWrite (sD 4).dev mp (pumpReg R.PMP_RING_TAIL (↑D3) (↑B4) (PumpId.b == PumpId.b)) ∧
      fget (sD 4).dev (pumpReg R.PMP_RING_HEAD (↑D3) (↑B4) (PumpId.b == PumpId.b)) F.PMP_RING_HEAD_HEAD = 68 % 2 ^ min 12
      (fget (sD 4).dev (pumpReg R.PMP_RING_SIZE (↑D3) (↑B4) (PumpId.b == PumpId.b)) F.PMP_RING_SIZE_LOG2)) ∧ (powered
      sRr.dev = true ∧ MayWrite sRr.dev mp (pumpReg R.PMP_RING_TAIL (↑D3) (↑B4) (PumpId.b == PumpId.b)) ∧ pumpQueue sRr.dev
      (↑D3) (↑B4) (PumpId.b == PumpId.b) QueueId.ring = [] ∧ fget sRr.dev (pumpReg R.PMP_RING_HEAD (↑D3) (↑B4) (PumpId.b ==
      PumpId.b)) F.PMP_RING_HEAD_HEAD ≠ 4 % 2 ^ min 12 (fget sRr.dev (pumpReg R.PMP_RING_SIZE (↑D3) (↑B4) (PumpId.b ==
      PumpId.b)) F.PMP_RING_SIZE_LOG2) ∧ parseDesc true [] (ofLeBytes (hallRead sRr.dev (↑D3) (fget sRr.dev (pumpReg
      R.PMP_RING_BASE (↑D3) (↑B4) (PumpId.b == PumpId.b)) F.PMP_RING_BASE_BASE * 64 + 64 * fget sRr.dev (pumpReg
      R.PMP_RING_HEAD (↑D3) (↑B4) (PumpId.b == PumpId.b)) F.PMP_RING_HEAD_HEAD) 64)) = DescRes.ok ry) ∧ (powered sRd.dev =
      true ∧ MayWrite sRd.dev mp (pumpReg R.PMP_RING_TAIL (↑D3) (↑B4) (PumpId.b == PumpId.b)) ∧ pumpQueue sRd.dev (↑D3)
      (↑B4) (PumpId.b == PumpId.b) QueueId.ring = [] ∧ fget sRd.dev (pumpReg R.PMP_RING_HEAD (↑D3) (↑B4) (PumpId.b ==
      PumpId.b)) F.PMP_RING_HEAD_HEAD ≠ 4 % 2 ^ min 12 (fget sRd.dev (pumpReg R.PMP_RING_SIZE (↑D3) (↑B4) (PumpId.b ==
      PumpId.b)) F.PMP_RING_SIZE_LOG2) ∧ parseDesc true [] (ofLeBytes (hallRead sRd.dev (↑D3) (fget sRd.dev (pumpReg
      R.PMP_RING_BASE (↑D3) (↑B4) (PumpId.b == PumpId.b)) F.PMP_RING_BASE_BASE * 64 + 64 * fget sRd.dev (pumpReg
      R.PMP_RING_HEAD (↑D3) (↑B4) (PumpId.b == PumpId.b)) F.PMP_RING_HEAD_HEAD) 64)) = DescRes.decode) := by
  decide +kernel

/-- Obligations.PumpOperationsComplete: its premises on copy hold together. -/
theorem witness_PumpOperationsComplete_copy :
    powered (sO yc).dev = true ∧ pumpOf (blk (sO yc).dev ↑D3 ↑B4) (PumpId.b == PumpId.b) = ({} : Pump).setQueue
      QueueId.direct [it yc] ∧ (it yc).started = false ∧ (it yc).failed = false ∧ (it yc).row = 0 ∧ (it yc).at_ = 0 ∧ (it
      yc).pieces = [] ∧ (it yc).slots = [] ∧ (it yc).openRow = none ∧ (it yc).wait = none ∧ (it yc).idxBytes = [] ∧ (it
      yc).desc.rows = 1 ∧ (it yc).desc.sfmt = (it yc).desc.dfmt ∧ (it yc).desc.src.isWell = true ∧ (it yc).desc.dst.isWell =
      true ∧ (it yc).desc.scheck = false ∧ (it yc).desc.dmark = false ∧ (it yc).desc.idxCheck = false ∧ (it yc).desc.src =
      Endpoint.ownWell 1000 ∧ 0 < (it yc).desc.len ∧ (1000 % 1024 + (it yc).desc.len * (it yc).desc.sfmt.bytes ≤ 1024 ∧
      locPump (sO yc).dev (↑D3) (↑B4) (it yc) (it yc).desc.src 1000 = WellLoc.well (↑D3) (↑B4) 1000) ∧ 1000 + (it
      yc).desc.len * (it yc).desc.sfmt.bytes ≤ 8388608 ∧ (it yc).desc.dst.addr % 1024 + (it yc).desc.len * (it
      yc).desc.sfmt.bytes ≤ 1024 ∧ (it yc).desc.dst.addr + (it yc).desc.len * (it yc).desc.sfmt.bytes ≤ 8388608 ∧ locPump
      (sO yc).dev (↑D3) (↑B4) (it yc) (it yc).desc.dst (it yc).desc.dst.addr = WellLoc.well 3 4 4000 ∧ (it yc).desc.op =
      PumpOp.copy := by
  decide +kernel

/-- Obligations.PumpOperationsComplete: its premises on gather hold together. -/
theorem witness_PumpOperationsComplete_gather :
    powered (sO2 yg).dev = true ∧ pumpOf (blk (sO2 yg).dev ↑D3 ↑B4) (PumpId.b == PumpId.b) = ({} : Pump).setQueue
      QueueId.direct [it yg] ∧ (it yg).started = false ∧ (it yg).failed = false ∧ (it yg).row = 0 ∧ (it yg).at_ = 0 ∧ (it
      yg).pieces = [] ∧ (it yg).slots = [] ∧ (it yg).openRow = none ∧ (it yg).wait = none ∧ (it yg).idxBytes = [] ∧ (it
      yg).desc.rows = 1 ∧ (it yg).desc.sfmt = (it yg).desc.dfmt ∧ (it yg).desc.src.isWell = true ∧ (it yg).desc.dst.isWell =
      true ∧ (it yg).desc.scheck = false ∧ (it yg).desc.dmark = false ∧ (it yg).desc.idxCheck = false ∧ 0 < (it yg).desc.len
      ∧ (it yg).desc.src = Endpoint.ownWell 0 ∧ (it yg).desc.idxAddr % 1024 + 4 ≤ 1024 ∧ locPump (sO2 yg).dev (↑D3) (↑B4)
      (it yg) (Endpoint.ownWell 0) (it yg).desc.idxAddr = WellLoc.well (↑D3) (↑B4) 8192 ∧ ofLeBytes (wellRead (sO2 yg).dev
      (↑D3) (↑B4) 8192 4) = 3 ∧ (it yg).desc.op = PumpOp.gather ∧ rowStart (it yg).desc.src (it yg).desc.sstride 3 = some
      3072 ∧ (3072 % 1024 + (it yg).desc.len * (it yg).desc.sfmt.bytes ≤ 1024 ∧ locPump (sO2 yg).dev (↑D3) (↑B4) (it yg) (it
      yg).desc.src 3072 = WellLoc.well (↑D3) (↑B4) 3072) ∧ 3072 + (it yg).desc.len * (it yg).desc.sfmt.bytes ≤ 8388608 ∧ (it
      yg).desc.dst.addr % 1024 + (it yg).desc.len * (it yg).desc.sfmt.bytes ≤ 1024 ∧ (it yg).desc.dst.addr + (it
      yg).desc.len * (it yg).desc.sfmt.bytes ≤ 8388608 ∧ locPump (sO2 yg).dev (↑D3) (↑B4) (it yg) (it yg).desc.dst (it
      yg).desc.dst.addr = WellLoc.well 3 4 4000 := by
  decide +kernel

/-- Obligations.PumpOperationsComplete: its premises on scatter hold together. -/
theorem witness_PumpOperationsComplete_scatter :
    powered (sO2 ysc).dev = true ∧ pumpOf (blk (sO2 ysc).dev ↑D3 ↑B4) (PumpId.b == PumpId.b) = ({} : Pump).setQueue
      QueueId.direct [it ysc] ∧ (it ysc).started = false ∧ (it ysc).failed = false ∧ (it ysc).row = 0 ∧ (it ysc).at_ = 0 ∧
      (it ysc).pieces = [] ∧ (it ysc).slots = [] ∧ (it ysc).openRow = none ∧ (it ysc).wait = none ∧ (it ysc).idxBytes = [] ∧
      (it ysc).desc.rows = 1 ∧ (it ysc).desc.sfmt = (it ysc).desc.dfmt ∧ (it ysc).desc.src.isWell = true ∧ (it
      ysc).desc.dst.isWell = true ∧ (it ysc).desc.scheck = false ∧ (it ysc).desc.dmark = false ∧ (it ysc).desc.idxCheck =
      false ∧ 0 < (it ysc).desc.len ∧ (it ysc).desc.src = Endpoint.ownWell 16 ∧ (it ysc).desc.idxAddr % 1024 + 4 ≤ 1024 ∧
      locPump (sO2 ysc).dev (↑D3) (↑B4) (it ysc) (Endpoint.ownWell 0) (it ysc).desc.idxAddr = WellLoc.well (↑D3) (↑B4) 8192
      ∧ ofLeBytes (wellRead (sO2 ysc).dev (↑D3) (↑B4) 8192 4) = 3 ∧ (it ysc).desc.op = PumpOp.scatter ∧ rowStart (it
      ysc).desc.dst (it ysc).desc.dstride 3 = some 7072 ∧ (16 % 1024 + (it ysc).desc.len * (it ysc).desc.sfmt.bytes ≤ 1024 ∧
      locPump (sO2 ysc).dev (↑D3) (↑B4) (it ysc) (it ysc).desc.src 16 = WellLoc.well (↑D3) (↑B4) 16) ∧ 16 + (it
      ysc).desc.len * (it ysc).desc.sfmt.bytes ≤ 8388608 ∧ 7072 % 1024 + (it ysc).desc.len * (it ysc).desc.sfmt.bytes ≤ 1024
      ∧ 7072 + (it ysc).desc.len * (it ysc).desc.sfmt.bytes ≤ 8388608 ∧ locPump (sO2 ysc).dev (↑D3) (↑B4) (it ysc) (it
      ysc).desc.dst 7072 = WellLoc.well 3 4 7072 := by
  decide +kernel

/-- Obligations.PumpOperationsComplete: its premises on unskew16 hold together. -/
theorem witness_PumpOperationsComplete_unskew16 :
    powered (sO yu).dev = true ∧ pumpOf (blk (sO yu).dev ↑D3 ↑B4) (PumpId.b == PumpId.b) = ({} : Pump).setQueue
      QueueId.direct [it yu] ∧ (it yu).started = false ∧ (it yu).failed = false ∧ (it yu).row = 0 ∧ (it yu).at_ = 0 ∧ (it
      yu).pieces = [] ∧ (it yu).slots = [] ∧ (it yu).openRow = none ∧ (it yu).wait = none ∧ (it yu).idxBytes = [] ∧ (it
      yu).desc.rows = 1 ∧ (it yu).desc.sfmt = (it yu).desc.dfmt ∧ (it yu).desc.src.isWell = true ∧ (it yu).desc.dst.isWell =
      true ∧ (it yu).desc.scheck = false ∧ (it yu).desc.dmark = false ∧ (it yu).desc.idxCheck = false ∧ (it yu).desc.op =
      PumpOp.unskew16 ∧ (it yu).desc.src = Endpoint.ownWell 0 ∧ (∀ (r : Nat), r < 64 → rowStart (it yu).desc.src (it
      yu).desc.sstride r = some (saF r) ∧ saF r % 1024 + 64 * (it yu).desc.sfmt.bytes ≤ 1024 ∧ locPump (sO yu).dev (↑D3)
      (↑B4) (it yu) (it yu).desc.src (saF r) = WellLoc.well (↑D3) (↑B4) (saF r)) ∧ (it yu).desc.dst.addr % 1024 + 64 * (it
      yu).desc.sfmt.bytes ≤ 1024 ∧ (it yu).desc.dst.addr + 64 * (it yu).desc.sfmt.bytes ≤ 8388608 ∧ locPump (sO yu).dev
      (↑D3) (↑B4) (it yu) (it yu).desc.dst (it yu).desc.dst.addr = WellLoc.well 3 4 9088 := by
  decide +kernel

/-- Obligations.PumpOperationsComplete: its premises on skew16 hold together. -/
theorem witness_PumpOperationsComplete_skew16 :
    powered (sO yk).dev = true ∧ pumpOf (blk (sO yk).dev ↑D3 ↑B4) (PumpId.b == PumpId.b) = ({} : Pump).setQueue
      QueueId.direct [it yk] ∧ (it yk).started = false ∧ (it yk).failed = false ∧ (it yk).row = 0 ∧ (it yk).at_ = 0 ∧ (it
      yk).pieces = [] ∧ (it yk).slots = [] ∧ (it yk).openRow = none ∧ (it yk).wait = none ∧ (it yk).idxBytes = [] ∧ (it
      yk).desc.rows = 1 ∧ (it yk).desc.sfmt = (it yk).desc.dfmt ∧ (it yk).desc.src.isWell = true ∧ (it yk).desc.dst.isWell =
      true ∧ (it yk).desc.scheck = false ∧ (it yk).desc.dmark = false ∧ (it yk).desc.idxCheck = false ∧ (it yk).desc.op =
      PumpOp.skew16 ∧ (it yk).desc.src = Endpoint.ownWell 256 ∧ (256 % 1024 + 64 * (it yk).desc.sfmt.bytes ≤ 1024 ∧ locPump
      (sO yk).dev (↑D3) (↑B4) (it yk) (it yk).desc.src 256 = WellLoc.well (↑D3) (↑B4) 256) ∧ (∀ (t : Nat), t < 64 → rowStart
      (it yk).desc.dst (it yk).desc.dstride t = some (8192 + 128 * t) ∧ (8192 + 128 * t) % 1024 + 64 * (it
      yk).desc.sfmt.bytes ≤ 1024 ∧ 8192 + 128 * t + 64 * (it yk).desc.sfmt.bytes ≤ 8388608 ∧ locPump (sO yk).dev D3 B4 (it yk) (it yk).desc.dst (8192 + 128 * t) = WellLoc.well 3 4 (8192 + 128 * t)) := by
  decide +kernel

/-- Obligations.DescriptorsComplete: its premises on pumpWriteLand hold together. -/
theorem witness_DescriptorsComplete_pumpWriteLand :
    (powered sL.dev = true ∧ nextLanding (pumpQueue sL.dev (↑D3) (↑B4) (PumpId.b == PumpId.b) QueueId.direct) true = some
      (({ (it y7) with started := true, row := 1, pieces := [pc] } : PumpItem), 0, true) ∧
      ({ (it y7) with started := true, row := 1, pieces := [pc] } : PumpItem).pieces[0]? = some pc ∧ pc.whole = true ∧
      pc.dst = some (Endpoint.ownWell 4000) ∧ (Endpoint.ownWell 4000).isWell = true ∧
      ({ (it y7) with started := true, row := 1, pieces := [pc] } : PumpItem).desc.sfmt =
      ({ (it y7) with started := true, row := 1, pieces := [pc] } : PumpItem).desc.dfmt ∧ 0 < (partBytes pc.parts).length ∧
      (Endpoint.ownWell 4000).addr % 1024 + (partBytes pc.parts).length ≤ 1024 ∧ locPump sL.dev ↑D3 ↑B4
      ({ (it y7) with started := true, row := 1, pieces := [pc] } : PumpItem) (Endpoint.ownWell 4000) (Endpoint.ownWell
      4000).addr = WellLoc.well 3 4 4000 ∧ earlierWrite sL.dev (↑D3) (↑B4) (PumpId.b == PumpId.b) pc = false ∧ (blk sL.dev 3
      4).well.wf = true) ∧ (powered sLe.dev = true ∧ nextLanding (pumpQueue sLe.dev (↑D3) (↑B4) (PumpId.b == PumpId.b)
      QueueId.direct) true = some (({ (it y7) with started := true, row := 1, pieces := [pc] } : PumpItem), 0, true) ∧
      ({ (it y7) with started := true, row := 1, pieces := [pc] } : PumpItem).pieces[0]? = some pc ∧ pc.whole = true ∧
      earlierWrite sLe.dev (↑D3) (↑B4) (PumpId.b == PumpId.b) pc = true) ∧ (powered sLm.dev = true ∧ nextLanding (pumpQueue
      sLm.dev (↑D3) (↑B4) (PumpId.b == PumpId.b) QueueId.direct) true = some
      (({ (it y7) with started := true, row := 1, pieces := [pm] } : PumpItem), 0, true) ∧
      ({ (it y7) with started := true, row := 1, pieces := [pm] } : PumpItem).pieces[0]? = some pm ∧ pm.whole = true ∧
      pm.dst = none ∧ pm.marks = [(3, 4, 3, 6)]) := by
  decide +kernel

/-- Obligations.DescriptorsComplete: its premises on descriptorComplete hold together. -/
theorem witness_DescriptorsComplete_descriptorComplete_1 :
    (powered sDc.dev = true ∧ pumpQueue sDc.dev (↑D3) (↑B4) (PumpId.b == PumpId.b) QueueId.sluice = [iD, it y0] ∧
      iD.started = true ∧ iD.readDone = true ∧ iD.pieces.all PumpPiece.landed = true ∧ iD.refusedBy = none ∧
      iD.desc.dst.isFountain = false ∧ iD.failed = false ∧ iD.desc.gateEn = true ∧ iD.desc.gateRemote = false ∧
      iD.desc.gateDie < 48 ∧ iD.desc.gate < 256 ∧ BitVec.toNat (rd sDc.dev (gateReg R.GAT_COUNT iD.desc.gateDie
      iD.desc.gate)) + 1 < 4294967296) ∧ (powered sDf.dev = true ∧ pumpQueue sDf.dev (↑D3) (↑B4) (PumpId.b == PumpId.b)
      QueueId.sluice = [iF, it y0] ∧ iF.started = true ∧ iF.readDone = true ∧ iF.pieces.all PumpPiece.landed = true ∧
      iF.refusedBy = none ∧ iF.desc.dst.isFountain = false ∧ iF.failed = true) := by
  decide +kernel

/-- Obligations.DescriptorsComplete: its premises on descriptorComplete hold together. -/
theorem witness_DescriptorsComplete_descriptorComplete_2 :
    powered sDn.dev = true ∧ pumpQueue sDn.dev (↑D3) (↑B4) (PumpId.a == PumpId.b) QueueId.sluice = [iN, it y0] ∧
      iN.started = true ∧ iN.readDone = true ∧ iN.pieces.all PumpPiece.landed = true ∧ iN.refusedBy = none ∧
      iN.desc.dst.isFountain = false ∧ iN.failed = false ∧ iN.desc.gateEn = false := by
  decide +kernel

end W07

namespace W08

def ypk : PumpDesc := {y0 with op := .copy, src := .package 3 9 2048, dst := .ownWell 4000, len := 5, scheck := true, vc := 1}
def itM (y : PumpDesc) : PumpItem := { desc := y, serial := 7, index := 1, ring := false, bundle := 0, slot := 0, genOffset := 0}
def wkB : List Byte := (List.range 20).map fun i => BitVec.ofNat 8 (i + 1)
def wkA : WellAsk := {id := 21, serial := 7, die := 3, block := 9, addr := 2048, len := 20, vc := 1, gen := 0, byDie := 3, byBlock := 5, byPumpB := true, reply := .data wkB true, merged := [(3, 9, 7)]}
def mrg : State := wd fun d =>
  let d := setBlk d 3 4 {unitBlk (blk d 3 4) with pumpA := {direct := [itM ypk]}}
  let d := setBlk d 3 5 {unitBlk (blk d 3 5) with pumpB := {direct := [{itM {ypk with dst := .ownWell 0} with started := true, row := 1, pieces := [{no := 3, rid := 0, row := 0, parts := [(21, some wkB)], dst := some (.ownWell 0), marks := [], sent := false, landed := false}]}]}}
  {setBlk d 3 9 (unitBlk (blk d 3 9)) with asks := [wkA], step := {d.step with running := true}}
def q8 := wd fun d => setBridge (setBlk d 3 4 {(blk d 3 4) with seq := {(blk d 3 4).seq with holdCause := some .gate}}) 50 0 true
def r8 := wd fun d => setBridge d 3 1 true
def H0 : HeadId := 2
def pkg : Nat := 1 + 3 * 16 + 4 * 2^10
def pkE : Nat := 1 + 4000*16 + 4 * 2^27 + 3*2^32
def winE : Nat := 4 + 4000*16 + 9 * 2^36 + 77*2^48
def mfr (i desc : Nat) : FtnFrame := {id := i, die := 3, block := 4, pumpB := false, rid := 99, relay := none, desc, list := 6, off := 0, wgen := 5, vc := 1, bytes := [1,2,3]}
def putE (d : Dev) (e v : Nat) : Dev := wr (wr d (ctlSel R.FNT_ENTRY_LO 58 0 e) (BitVec.ofNat 32 v)) (ctlSel R.FNT_ENTRY_HI 58 0 e) (BitVec.ofNat 32 (v / 2^32))
def putL (d : Dev) (l first n : Nat) : Dev := wr d (ctlSel R.FNT_LIST 58 0 l) (BitVec.ofNat 32 (first + (n-1)*8192 + 2^31))
def fb (d : Dev) : Dev := setBlk (putL (putE (putE d 20 pkE) 21 winE) 6 20 2) 3 4 (unitBlk (blk d 3 4))
def s1 := wd fun d => setFountain (fb d) 2 {incoming := [mfr 1 10, mfr 2 10]}
def s2 := wd fun d => setFountain (d) 2 {incoming := [mfr 1 10, mfr 2 10]}
def y1 : FtnDesc := {targets := [20,21], entries := [pkE, winE], refused := [false,false]}
def f1 (del off : List Bool) : FtnFrame := {mfr 1 10 with delivered := del, offered := off}
def s3 (f : FtnFrame) := wd fun d => setFountain (fb {d with tally := 500000000}) 2 {held := [f, mfr 2 11], descs := [(10, y1)]}
def fA := f1 [false,false] [false,true]
def fB := f1 [true,false] [false,true]
def fC := f1 [false,true] [true,true]
def sx1 : State := s3 {fB with offered := [false,false]}
def s4 := wd fun d => setFountain (fb {d with tally := 500000000}) 2 {credits := [(.square 3 4 1, 4)]}
def y5 : FtnDesc := {targets := [20], entries := [pkE], refused := [false]}
def f5 := f1 [false] [false]
def s5 := wd fun d => setFountain (fb {d with tally := 500000000}) 2 {held := [f5], descs := [(10, y5)], credits := [(.square 3 4 1, 4)], stalled := [(10,0)]}
def s6 := wd fun d => writeShadow (wr d (ctl R.FNT_SEL 58 0) 0x55) (ctlSel R.FNT_ENTRY_LO 58 0 0x55) 0x1234

/-- Obligations.LinksComplete: its premises on readMerge hold together. -/
theorem witness_LinksComplete_readMerge_1 :
    (powered on.dev = true ∧ List.find? (fun r => decide (r.id = 7)) on.dev.asks = none) ∧ (powered mrg.dev = true ∧
      nextAsk mrg.dev (↑D3) (↑B4) (PumpId.a == PumpId.b) = some (QueueId.direct, itM ypk, (3, 9, 2048, 20), 0) ∧ List.find?
      (fun r => decide (r.id = 21)) mrg.dev.asks = some wkA ∧ (wkA.die, wkA.block, wkA.addr, wkA.len) = (3, 9, 2048, 20) ∧
      wkA.vc = (itM ypk).desc.vc ∧ wkA.gen = 0 ∧ askOpen mrg.dev wkA = true ∧ mergedAt wkA ↑D3 9 < 8 ∧ (wkA.byDie,
      wkA.byBlock, wkA.byPumpB) ≠ (↑D3, ↑B4, PumpId.a == PumpId.b) ∧ passesSquare mrg.dev (↑D3) (9) wkA = true ∧ onWay
      mrg.dev ↑D3 9 (↑D3, ↑B4) (wkA.die, (translateHome mrg.dev wkA.die wkA.block wkA.addr).fst) = true) := by
  and_intros <;> first | decide +kernel | rfl

/-- Obligations.LinksComplete: its premises on readMerge hold together. -/
theorem witness_LinksComplete_readMerge_2 :
    powered mrg.dev = true ∧ nextAsk mrg.dev (↑D3) (↑B4) (PumpId.a == PumpId.b) = some (QueueId.direct, itM ypk, (3, 9,
      2048, 20), 0) ∧ List.find? (fun r => decide (r.id = 21)) mrg.dev.asks = some wkA ∧ (wkA.die, wkA.block, wkA.addr,
      wkA.len) = (3, 9, 2048, 20) ∧ wkA.vc = (itM ypk).desc.vc ∧ wkA.gen = 0 ∧ askOpen mrg.dev wkA = true ∧ mergedAt wkA ↑D3
      9 < 8 ∧ (wkA.byDie, wkA.byBlock, wkA.byPumpB) ≠ (↑D3, ↑B4, PumpId.a == PumpId.b) ∧ passesSquare mrg.dev (↑D3) (9) wkA
      = true ∧ onWay mrg.dev ↑D3 9 (↑D3, ↑B4) (wkA.die, (translateHome mrg.dev wkA.die wkA.block wkA.addr).fst) = true ∧
      wkA.reply = AskReply.data wkB true ∧ (itM ypk).desc.op = PumpOp.copy ∧ rowStart (itM ypk).desc.dst (itM
      ypk).desc.dstride (itM ypk).row = some 4000 ∧ dstFault mrg.dev (↑D3) (↑B4) (itM ypk) (4000 + (itM ypk).at_ * (itM
      ypk).desc.dfmt.bytes) (wkB.length / (itM ypk).desc.sfmt.bytes * (itM ypk).desc.dfmt.bytes) = none ∧ (itM
      ypk).desc.dst.isWell = true := by
  and_intros <;> first | decide +kernel | rfl

/-- Obligations.LinksComplete: its premises on linkRetry hold together. -/
theorem witness_LinksComplete_linkRetry :
    (powered on.dev = true ∧ (LinkId.street D3 0 0).carries on.dev = false) ∧ (powered on.dev = true ∧ (LinkId.street D3
      B4 2).carries on.dev = true) ∧ (powered q8.dev = true ∧ (blk q8.dev ↑D3 ↑B4).seq.holdCause.isSome = true ∧
      (LinkId.bridge 50 0 7).carries q8.dev = true) := by
  decide +kernel

/-- Obligations.LinksComplete: its premises on bridgeStateChange hold together. -/
theorem witness_LinksComplete_bridgeStateChange :
    (powered on.dev = true ∧ bridgePeer 3 1 = some (4, 3)) ∧ (powered on.dev = true ∧ bridgePeer 56 0 = some (1, 0)) := by
  decide +kernel

/-- Obligations.LinksComplete: its premises on bridgeLaneRetire hold together. -/
theorem witness_LinksComplete_bridgeLaneRetire :
    powered r8.dev = true ∧ bridgePeer 3 1 = some (4, 3) ∧ MayWrite r8.dev mp (ctl R.DIE_BRG_RETIRE (3) 0) := by
  decide +kernel

/-- Obligations.FountainFramesComplete: its premises on fountainFrameAccept hold together. -/
theorem witness_FountainFramesComplete_fountainFrameAccept :
    (powered s1.dev = true ∧ (fountain s1.dev ↑H0).incoming = [mfr 1 10, mfr 2 10] ∧ mget (fountain s1.dev ↑H0).descs (mfr
      1 10).desc = none ∧ (fountain s1.dev ↑H0).held.length < 512 ∧ (List.map (fun g => g.bytes.length) (fountain s1.dev
      ↑H0).held).sum + (mfr 1 10).bytes.length ≤ 2097152 ∧ (∀ (g : FtnFrame), g ∈ (fountain s1.dev ↑H0).held → g.id ≠ (mfr 1
      10).id) ∧ (∀ (g : FtnFrame), g ∈ (fountain s1.dev ↑H0).held → ∃ u, u < g.delivered.length ∧ g.delivered.getD u false =
      false ∧ (Option.map (fun y => y.refused.getD u false) (mget (fountain s1.dev ↑H0).descs g.desc)).getD false = false) ∧
      fntTargets s1.dev (↑H0) (mfr 1 10).list = some [20, 21] ∧ (∀ (e : Nat), e ∈ [20, 21] → (fntEndpoint (fntEntry s1.dev
      (↑H0) e) (mfr 1 10).off).isSome = true)) ∧ (powered s2.dev = true ∧ (fountain s2.dev ↑H0).incoming =
      [mfr 1 10, mfr 2 10] ∧ mget (fountain s2.dev ↑H0).descs (mfr 1 10).desc = none ∧ (fountain s2.dev ↑H0).held.length <
      512 ∧ (List.map (fun g => g.bytes.length) (fountain s2.dev ↑H0).held).sum + (mfr 1 10).bytes.length ≤ 2097152 ∧ (∀ (g
      : FtnFrame), g ∈ (fountain s2.dev ↑H0).held → g.id ≠ (mfr 1 10).id) ∧ (∀ (g : FtnFrame), g ∈ (fountain s2.dev
      ↑H0).held → ∃ u, u < g.delivered.length ∧ g.delivered.getD u false = false ∧ (Option.map (fun y => y.refused.getD u
      false) (mget (fountain s2.dev ↑H0).descs g.desc)).getD false = false) ∧ fntTargets s2.dev (↑H0) (mfr 1 10).list =
      none) := by
  decide +kernel

/-- Obligations.FountainFramesComplete: its premises on fountainAcceptance hold together. -/
theorem witness_FountainFramesComplete_fountainAcceptance_1 :
    (powered (s3 fA).dev = true ∧ fA ∈ (fountain (s3 fA).dev ↑H0).held ∧ (List.map FtnFrame.id (fountain (s3 fA).dev
      ↑H0).held).Nodup ∧ mget (fountain (s3 fA).dev ↑H0).descs fA.desc = some y1 ∧ 1 < fA.delivered.length ∧ 1 <
      fA.offered.length ∧ 1 < y1.refused.length ∧ fA.delivered[1]? = some false ∧ fA.offered[1]? = some true ∧ fntEndpoint
      (y1.entries.getD (1) 0) fA.off = some (Endpoint.window 77 9 4000)) ∧ (powered (s3 fB).dev = true ∧ fB ∈ (fountain (s3
      fB).dev ↑H0).held ∧ (List.map FtnFrame.id (fountain (s3 fB).dev ↑H0).held).Nodup ∧ mget (fountain (s3 fB).dev
      ↑H0).descs fB.desc = some y1 ∧ 1 < fB.delivered.length ∧ 1 < fB.offered.length ∧ 1 < y1.refused.length ∧
      fB.delivered[1]? = some false ∧ fB.offered[1]? = some true ∧ fntEndpoint (y1.entries.getD (1) 0) fB.off = some
      (Endpoint.window 77 9 4000)) := by
  decide +kernel

/-- Obligations.FountainFramesComplete: its premises on fountainAcceptance hold together. -/
theorem witness_FountainFramesComplete_fountainAcceptance_2 :
    powered (s3 fC).dev = true ∧ fC ∈ (fountain (s3 fC).dev ↑H0).held ∧ (List.map FtnFrame.id (fountain (s3 fC).dev
      ↑H0).held).Nodup ∧ mget (fountain (s3 fC).dev ↑H0).descs fC.desc = some y1 ∧ 0 < fC.delivered.length ∧ 0 <
      fC.offered.length ∧ 0 < y1.refused.length ∧ fC.delivered[0]? = some false ∧ fC.offered[0]? = some true ∧ fntEndpoint
      (y1.entries.getD (0) 0) fC.off = some (Endpoint.package 3 4 4000) ∧ (¬∃ u, u < fC.delivered.length ∧ u ≠ 0 ∧
      fC.delivered.getD u false = false ∧ y1.refused.getD u false = false) ∧ 0 < fC.bytes.length ∧ 4000 % 1024 +
      fC.bytes.length ≤ 1024 ∧ 4000 < 6291456 ∧ wellReady (s3 fC).dev 3 (translateHome (s3 fC).dev 3 4 4000).fst false
      ((translateHome (s3 fC).dev 3 4 4000).snd / 1024) = true ∧ (blk (s3 fC).dev 3 (translateHome (s3 fC).dev 3 4
      4000).fst).well.wf = true := by
  decide +kernel

/-- Obligations.FountainFramesComplete: its premises on fountainTargetRefused hold together. -/
theorem witness_FountainFramesComplete_fountainTargetRefused :
    powered (s3 fB).dev = true ∧ fB ∈ (fountain (s3 fB).dev ↑H0).held ∧ (List.map FtnFrame.id (fountain (s3 fB).dev
      ↑H0).held).Nodup ∧ mget (fountain (s3 fB).dev ↑H0).descs fB.desc = some y1 ∧ 1 < fB.delivered.length ∧ 1 <
      fB.offered.length ∧ 1 < y1.refused.length ∧ fB.delivered[1]? = some false ∧ fB.offered[1]? = some true ∧
      y1.refused[1]? = some false := by
  decide +kernel

/-- Obligations.FountainFramesComplete: its premises hold together. -/
theorem witness_FountainFramesComplete :
    powered sx1.dev = true ∧ ({ fB with offered := [false, false] } : FtnFrame) ∈ (fountain sx1.dev ↑H0).held ∧ (List.map
      FtnFrame.id (fountain sx1.dev ↑H0).held).Nodup ∧ mget (fountain sx1.dev ↑H0).descs
      ({ fB with offered := [false, false] } : FtnFrame).desc = some y1 ∧ 1 < ({ fB with offered := [false, false] } :
      FtnFrame).delivered.length ∧ 1 < ({ fB with offered := [false, false] } : FtnFrame).offered.length ∧ 1 <
      y1.refused.length ∧ ({ fB with offered := [false, false] } : FtnFrame).delivered[1]? = some false ∧
      ({ fB with offered := [false, false] } : FtnFrame).offered[1]? = some false ∧ y1.refused[1]? = some false ∧
      (¬(({ fB with offered := [false, false] } : FtnFrame).desc, 1) ∈ (fountain sx1.dev ↑H0).stalled) ∧ (Option.map
      (fntCredits sx1.dev ↑H0) (fntPlace ({ fB with offered := [false, false] } : FtnFrame) y1 1)).getD 0 = 0 := by
  decide +kernel

/-- Obligations.FountainTablesComplete: its premises on fountainCreditReturn hold together. -/
theorem witness_FountainTablesComplete_fountainCreditReturn :
    (powered s4.dev = true ∧ (fountain s4.dev ↑H0).held = []) ∧ (powered s5.dev = true ∧ (fountain s5.dev ↑H0).held = [f5]
      ∧ f5.delivered = [false] ∧ f5.offered = [false] ∧ y5.refused = [false] ∧ mget (fountain s5.dev ↑H0).descs f5.desc =
      some y5 ∧ fntPlace f5 y5 0 = some (CreditFrom.square D3 B4 1).place ∧ 0 < 3 ∧ (∃ die b vc, CreditFrom.square D3 B4 1 =
      CreditFrom.square die b vc)) := by
  decide +kernel

/-- Obligations.FountainTablesComplete: its premises on fntEntryCommit hold together. -/
theorem witness_FountainTablesComplete_fntEntryCommit :
    powered s6.dev = true ∧ MayWrite s6.dev mp (ctl R.FNT_ENTRY_HI (56 + ↑H0) 0) := by
  decide +kernel

/-- Obligations.FountainTablesComplete: its premises on fntListCommit hold together. -/
theorem witness_FountainTablesComplete_fntListCommit :
    powered s6.dev = true ∧ MayWrite s6.dev mp (ctl R.FNT_LIST (56 + ↑H0) 0) := by
  decide +kernel

end W08

namespace W09

def G (c t : Nat) (die : Nat) (o : Nat) := wd fun d => setWaiters (wr (wr (wr d (gateReg R.GAT_COUNT die 37) (BitVec.ofNat 32 c)) (gateReg R.GAT_THRESH die 37) (BitVec.ofNat 32 t)) (gateReg R.GAT_CTRL die 37) (BitVec.ofNat 32 o)) die 37 [.hall 5 2, .hall 3 1]
def fullG := wd fun d => setWaiters (wr d (gateReg R.GAT_THRESH 3 37) 4) 3 37 (List.replicate 64 (.hall 1 1))
def hs := us (fun x => {x with seq := {x.seq with phase := .running, cycle := 70}}) fun d => {d with step := {d.step with lockstep := true, holdFrom := some 9}}
def hr := us (fun x => {x with seq := {x.seq with phase := .running, cycle := 70, frozen := true, lead := 3}}) fun d => {d with step := {d.step with lockstep := true, holdFrom := some 9}}
def hq (f : Block → Block) := us (fun x => f {x with seq := {x.seq with phase := .running, cycle := 70, frozen := true, lead := 3, thawed := 3, resumeAt := some 100}}) fun d => {d with tally := 101, step := {d.step with lockstep := true}}
def hq2 := hq fun x => {x with quartetWait := some {cause := .mark, on := .other}}
def sA := us (fun x => {x with seq := {x.seq with phase := .running}}) fun d => {d with step := {d.step with abort := .requested .deadlock}}
def sE := us (fun x => {x with seq := {x.seq with phase := .running}}) fun d => {d with step := {d.step with number := 7, abort := .draining .deadlock}}
def sE2 := us (fun x => {x with eafQueue := [⟨0,0,0,.nop,0,0,0,none⟩], seq := {x.seq with phase := .running}}) fun d => {d with step := {d.step with number := 7, abort := .draining .deadlock}}
def sWd := us (fun x => {x with seq := {x.seq with phase := .running}}) fun d => {d with tally := 100000000}
def sWs := us id fun d => {d with tally := 100000000, step := {d.step with running := false, signalled := some 5}}
def sD := us (fun x => {x with seq := {x.seq with phase := .done}})
def sC := us (fun x => {x with seq := {x.seq with phase := .done}}) fun d => {d with dies := (List.range 48).map fun i => (i, {stepDone := true, elapsed := 77}), step := {d.step with nanRows := [4]}}
def sRp := wd fun d => {d with step := {d.step with replayOf := some 3, number := 4}}

/-- Obligations.GateOperationsComplete: its premises on signal hold together. -/
theorem witness_GateOperationsComplete_signal :
    (powered (G 5 9 3 0).dev = true ∧ gateExists 3 37 = true ∧ (G 5 9 3 0).dev.barEvents = [] ∧ (∀ (i : Nat), i < 64 → 56
      ≤ 3 → flag (G 5 9 3 0).dev (barReg R.GAT_BAR_CTRL (3 - 56) i) F.GAT_BAR_CTRL_VALID = false) ∧ MayWrite (G 5 9 3 0).dev
      mp (gateReg R.GAT_OP 3 37) ∧ BitVec.toNat (rd (G 5 9 3 0).dev (gateReg R.GAT_COUNT 3 37)) + 3 < 4294967296) ∧ (powered
      (G 5 9 3 0).dev = true ∧ gateExists 3 37 = true ∧ (G 5 9 3 0).dev.barEvents = [] ∧ (∀ (i : Nat), i < 64 → 56 ≤ 3 →
      flag (G 5 9 3 0).dev (barReg R.GAT_BAR_CTRL (3 - 56) i) F.GAT_BAR_CTRL_VALID = false) ∧ MayWrite (G 5 9 3 0).dev mp
      (gateReg R.GAT_OP 3 37) ∧ BitVec.toNat (rd (G 5 9 3 0).dev (gateReg R.GAT_COUNT 3 37)) + 4 < 4294967296) ∧ (powered (G
      5 9 60 0).dev = true ∧ gateExists 60 37 = true ∧ (G 5 9 60 0).dev.barEvents = [] ∧ (∀ (i : Nat), i < 64 → 56 ≤ 60 →
      flag (G 5 9 60 0).dev (barReg R.GAT_BAR_CTRL (60 - 56) i) F.GAT_BAR_CTRL_VALID = false) ∧ MayWrite (G 5 9 60 0).dev mp
      (gateReg R.GAT_OP 60 37) ∧ BitVec.toNat (rd (G 5 9 60 0).dev (gateReg R.GAT_COUNT 60 37)) + 4 < 4294967296) ∧ (powered
      (G 4294967295 9 60 0).dev = true ∧ gateExists 60 37 = true ∧ (G 4294967295 9 60 0).dev.barEvents = [] ∧ (∀ (i : Nat),
      i < 64 → 56 ≤ 60 → flag (G 4294967295 9 60 0).dev (barReg R.GAT_BAR_CTRL (60 - 56) i) F.GAT_BAR_CTRL_VALID = false) ∧
      MayWrite (G 4294967295 9 60 0).dev mp (gateReg R.GAT_OP 60 37) ∧ 4294967296 ≤ BitVec.toNat (rd (G 4294967295 9 60
      0).dev (gateReg R.GAT_COUNT 60 37)) + 4) := by
  decide +kernel

/-- Obligations.GateOperationsComplete: its premises on consume hold together. -/
theorem witness_GateOperationsComplete_consume :
    (powered (G 5 9 3 0).dev = true ∧ gateExists 3 37 = true ∧ (G 5 9 3 0).dev.barEvents = [] ∧ (∀ (i : Nat), i < 64 → 56
      ≤ 3 → flag (G 5 9 3 0).dev (barReg R.GAT_BAR_CTRL (3 - 56) i) F.GAT_BAR_CTRL_VALID = false) ∧ MayWrite (G 5 9 3 0).dev
      mp (gateReg R.GAT_OP 3 37) ∧ ownerOk (G 5 9 3 0).dev (3) (37) mp.requester = true ∧ 3 ≤ BitVec.toNat (rd (G 5 9 3
      0).dev (gateReg R.GAT_COUNT 3 37))) ∧ (powered (G 5 9 3 0).dev = true ∧ gateExists 3 37 = true ∧ (G 5 9 3
      0).dev.barEvents = [] ∧ (∀ (i : Nat), i < 64 → 56 ≤ 3 → flag (G 5 9 3 0).dev (barReg R.GAT_BAR_CTRL (3 - 56) i)
      F.GAT_BAR_CTRL_VALID = false) ∧ MayWrite (G 5 9 3 0).dev mp (gateReg R.GAT_OP 3 37) ∧ ownerOk (G 5 9 3 0).dev (3) (37)
      mp.requester = true ∧ BitVec.toNat (rd (G 5 9 3 0).dev (gateReg R.GAT_COUNT 3 37)) < 8) ∧ (powered (G 5 9 3 1).dev =
      true ∧ gateExists 3 37 = true ∧ (G 5 9 3 1).dev.barEvents = [] ∧ (∀ (i : Nat), i < 64 → 56 ≤ 3 → flag (G 5 9 3 1).dev
      (barReg R.GAT_BAR_CTRL (3 - 56) i) F.GAT_BAR_CTRL_VALID = false) ∧ MayWrite (G 5 9 3 1).dev mp (gateReg R.GAT_OP 3 37)
      ∧ ownerOk (G 5 9 3 1).dev (3) (37) mp.requester = false) := by
  decide +kernel

/-- Obligations.GateOperationsComplete: its premises on setThresh hold together. -/
theorem witness_GateOperationsComplete_setThresh :
    powered (G 5 9 3 0).dev = true ∧ gateExists 3 37 = true ∧ (G 5 9 3 0).dev.barEvents = [] ∧ (∀ (i : Nat), i < 64 → 56 ≤
      3 → flag (G 5 9 3 0).dev (barReg R.GAT_BAR_CTRL (3 - 56) i) F.GAT_BAR_CTRL_VALID = false) ∧ MayWrite (G 5 9 3 0).dev
      mp (gateReg R.GAT_OP 3 37) ∧ ownerOk (G 5 9 3 0).dev (3) (37) mp.requester = true := by
  decide +kernel

/-- Obligations.GateOperationsComplete: its premises on addThresh hold together. -/
theorem witness_GateOperationsComplete_addThresh :
    (powered (G 5 9 3 0).dev = true ∧ gateExists 3 37 = true ∧ (G 5 9 3 0).dev.barEvents = [] ∧ (∀ (i : Nat), i < 64 → 56
      ≤ 3 → flag (G 5 9 3 0).dev (barReg R.GAT_BAR_CTRL (3 - 56) i) F.GAT_BAR_CTRL_VALID = false) ∧ MayWrite (G 5 9 3 0).dev
      mp (gateReg R.GAT_OP 3 37) ∧ ownerOk (G 5 9 3 0).dev (3) (37) mp.requester = true ∧ BitVec.toNat (rd (G 5 9 3 0).dev
      (gateReg R.GAT_THRESH 3 37)) + 5 < 4294967296) ∧ (powered (G 5 4294967295 3 0).dev = true ∧ gateExists 3 37 = true ∧
      (G 5 4294967295 3 0).dev.barEvents = [] ∧ (∀ (i : Nat), i < 64 → 56 ≤ 3 → flag (G 5 4294967295 3 0).dev (barReg
      R.GAT_BAR_CTRL (3 - 56) i) F.GAT_BAR_CTRL_VALID = false) ∧ MayWrite (G 5 4294967295 3 0).dev mp (gateReg R.GAT_OP 3
      37) ∧ ownerOk (G 5 4294967295 3 0).dev (3) (37) mp.requester = true ∧ 4294967296 ≤ BitVec.toNat (rd (G 5 4294967295 3
      0).dev (gateReg R.GAT_THRESH 3 37)) + 5) := by
  decide +kernel

/-- Obligations.GateOperationsComplete: its premises on reset hold together. -/
theorem witness_GateOperationsComplete_reset :
    powered (G 5 9 3 0).dev = true ∧ gateExists 3 37 = true ∧ (G 5 9 3 0).dev.barEvents = [] ∧ (∀ (i : Nat), i < 64 → 56 ≤
      3 → flag (G 5 9 3 0).dev (barReg R.GAT_BAR_CTRL (3 - 56) i) F.GAT_BAR_CTRL_VALID = false) ∧ MayWrite (G 5 9 3 0).dev
      mp (gateReg R.GAT_OP 3 37) ∧ ownerOk (G 5 9 3 0).dev (3) (37) mp.requester = true := by
  decide +kernel

/-- Obligations.GateOperationsComplete: its premises on hallwaitArm hold together. -/
theorem witness_GateOperationsComplete_hallwaitArm :
    (powered (G 5 5 3 0).dev = true ∧ gateExists 3 37 = true ∧ (G 5 5 3 0).dev.barEvents = [] ∧ (∀ (i : Nat), i < 64 → 56
      ≤ 3 → flag (G 5 5 3 0).dev (barReg R.GAT_BAR_CTRL (3 - 56) i) F.GAT_BAR_CTRL_VALID = false) ∧ MayWrite (G 5 5 3 0).dev
      mp (gateReg R.GAT_HALLWAIT 3 37) ∧ BitVec.toNat (rd (G 5 5 3 0).dev (gateReg R.GAT_THRESH 3 37)) ≤ BitVec.toNat (rd (G
      5 5 3 0).dev (gateReg R.GAT_COUNT 3 37)) ∧ 7 < 48) ∧ (powered (G 5 6 3 0).dev = true ∧ gateExists 3 37 = true ∧ (G 5 6
      3 0).dev.barEvents = [] ∧ (∀ (i : Nat), i < 64 → 56 ≤ 3 → flag (G 5 6 3 0).dev (barReg R.GAT_BAR_CTRL (3 - 56) i)
      F.GAT_BAR_CTRL_VALID = false) ∧ MayWrite (G 5 6 3 0).dev mp (gateReg R.GAT_HALLWAIT 3 37) ∧ BitVec.toNat (rd (G 5 6 3
      0).dev (gateReg R.GAT_COUNT 3 37)) < BitVec.toNat (rd (G 5 6 3 0).dev (gateReg R.GAT_THRESH 3 37)) ∧ (waiters (G 5 6 3
      0).dev 3 37).length < 64) ∧ (powered fullG.dev = true ∧ gateExists 3 37 = true ∧ fullG.dev.barEvents = [] ∧ (∀ (i :
      Nat), i < 64 → 56 ≤ 3 → flag fullG.dev (barReg R.GAT_BAR_CTRL (3 - 56) i) F.GAT_BAR_CTRL_VALID = false) ∧ MayWrite
      fullG.dev mp (gateReg R.GAT_HALLWAIT 3 37) ∧ BitVec.toNat (rd fullG.dev (gateReg R.GAT_COUNT 3 37)) < BitVec.toNat (rd
      fullG.dev (gateReg R.GAT_THRESH 3 37)) ∧ 64 ≤ (waiters fullG.dev 3 37).length) := by
  decide +kernel

/-- Obligations.HoldComplete: its premises on holdArrive hold together. -/
theorem witness_HoldComplete_holdArrive :
    powered hs.dev = true ∧ hs.dev.step.holdFrom = some 9 ∧ hs.dev.step.lockstep = true ∧ activePhase (blk hs.dev ↑D3
      ↑B4).seq.phase = true ∧ (blk hs.dev ↑D3 ↑B4).seq.frozen = false := by
  decide +kernel

/-- Obligations.HoldComplete: its premises on holdRelease hold together. -/
theorem witness_HoldComplete_holdRelease :
    powered hr.dev = true ∧ hr.dev.step.holdFrom = some 9 ∧ stepLive hr.dev = true ∧ linesLow hr.dev = true ∧ (∀ (e : Nat
      × Block), e ∈ hr.dev.blocks → activePhase e.snd.seq.phase = true → e.snd.seq.frozen = true ∧ e.snd.seq.resumeAt =
      none) := by
  decide +kernel

/-- Obligations.HoldComplete: its premises on holdResume hold together. -/
theorem witness_HoldComplete_holdResume :
    (powered (hq id).dev = true ∧ stepLive (hq id).dev = true ∧ (blk (hq id).dev ↑D3 ↑B4).seq.frozen = true ∧ (blk (hq
      id).dev ↑D3 ↑B4).seq.resumeAt = some 100 ∧ 100 < (hq id).dev.tally ∧ (blk (hq id).dev ↑D3 ↑B4).seq.lead ≤ (blk (hq
      id).dev ↑D3 ↑B4).seq.thawed ∧ (dieSt (hq id).dev ↑D3).droopRec = none ∧ waitCause (blk (hq id).dev ↑D3 ↑B4) = none) ∧
      (powered hq2.dev = true ∧ stepLive hq2.dev = true ∧ (blk hq2.dev ↑D3 ↑B4).seq.frozen = true ∧ (blk hq2.dev ↑D3
      ↑B4).seq.resumeAt = some 100 ∧ 100 < hq2.dev.tally ∧ (blk hq2.dev ↑D3 ↑B4).seq.lead ≤ (blk hq2.dev ↑D3 ↑B4).seq.thawed
      ∧ (dieSt hq2.dev ↑D3).droopRec = none ∧ waitCause (blk hq2.dev ↑D3 ↑B4) = some Cause.mark ∧ hq2.dev.step.lockstep =
      true ∧ (blk hq2.dev ↑D3 ↑B4).seq.raising = false) := by
  decide +kernel

/-- Obligations.StepEndsComplete: its premises on stepAbort hold together. -/
theorem witness_StepEndsComplete_stepAbort :
    powered sA.dev = true ∧ sA.dev.step.abort = AbortPhase.requested FaultCode.deadlock ∧ sA.dev.groups = [] := by
  decide +kernel

/-- Obligations.StepEndsComplete: its premises on abortEnd hold together. -/
theorem witness_StepEndsComplete_abortEnd :
    (powered sE.dev = true ∧ sE.dev.step.abort = AbortPhase.draining FaultCode.deadlock ∧ (∀ (e : Nat × Block), e ∈
      sE.dev.blocks → opsDone e.snd = true) ∧ sE.dev.errors = [] ∧ sE.dev.cont.pending = []) ∧ (powered sE2.dev = true ∧
      sE2.dev.step.abort = AbortPhase.draining FaultCode.deadlock ∧ List.getD sE2.dev.blocks 0 (0, ({} : Block)) ∈
      sE2.dev.blocks ∧ opsDone (List.getD sE2.dev.blocks 0 (0, ({} : Block))).snd = false) := by
  decide +kernel

/-- Obligations.StepEndsComplete: its premises on stepWatchdogExpiry hold together. -/
theorem witness_StepEndsComplete_stepWatchdogExpiry :
    (powered hr.dev = true ∧ stepLive hr.dev = true ∧ hr.dev.tally < hr.dev.step.wdogFrom + usTicks (wdogUs hr.dev)) ∧
      (powered sWd.dev = true ∧ stepLive sWd.dev = true ∧ sWd.dev.step.wdogFrom + usTicks (wdogUs sWd.dev) ≤ sWd.dev.tally)
      ∧ (powered on.dev = true ∧ stepLive on.dev = false ∧ on.dev.step.signalled = none) ∧ (powered sWs.dev = true ∧
      stepLive sWs.dev = false ∧ sWs.dev.step.signalled = some 5 ∧ 5 + usTicks (wdogUs sWs.dev) ≤ sWs.dev.tally ∧ mayStart
      sWs.dev = true ∧ (sWs.dev.step.hdr.lockstep && !lockstepBarred sWs.dev) = false) := by
  decide +kernel

/-- Obligations.StepEndsComplete: its premises on dieStepComplete hold together. -/
theorem witness_StepEndsComplete_dieStepComplete :
    powered sD.dev = true ∧ stepLive sD.dev = true ∧ (dieSt sD.dev ↑D3).stepDone = false ∧ (dieSt sD.dev ↑D3).signals = 0
      ∧ (∀ (b : BlockId), seqDone sD.dev ↑D3 ↑b = true ∧ (blk sD.dev ↑D3 ↑b).pumpA.direct = [] ∧ (blk sD.dev ↑D3
      ↑b).pumpA.sluice = [] ∧ (blk sD.dev ↑D3 ↑b).pumpB.direct = [] ∧ (blk sD.dev ↑D3 ↑b).pumpB.sluice = []) := by
  decide +kernel

/-- Obligations.StepEndsComplete: its premises on stepComplete hold together. -/
theorem witness_StepEndsComplete_stepComplete :
    powered sC.dev = true ∧ stepLive sC.dev = true ∧ (∀ (die : DieId), (dieSt sC.dev ↑die).stepDone = true) ∧
      sC.dev.errors = [] ∧ sC.dev.cont.pending = [] := by
  decide +kernel

/-- Obligations.StepEndsComplete: its premises on stepReplay hold together. -/
theorem witness_StepEndsComplete_stepReplay :
    (powered hr.dev = true ∧ (hr.dev.step.running = true ∨ hr.dev.srv.lostPages ≠ [])) ∧ (powered sRp.dev = true ∧
      sRp.dev.step.replayOf = some 3 ∧ sRp.dev.step.running = false ∧ sRp.dev.srv.lostPages = [] ∧ sRp.dev.errors = [] ∧
      sRp.dev.cont.pending = []) := by
  decide +kernel

end W09

namespace W10

def ac (addr : Nat) (dat : Option (List Byte)) : RsvAcc := { addr, len := 8, data := dat, vc := 4, ring := true, origin := .core 3 1 }
def ready (d : Dev) : Dev := wr (fset (fset d (ctl R.BRG_STATUS 50 0) F.BRG_STATUS_UP 1) (ctl R.RSV_STATUS 50 0) F.RSV_STATUS_READY 1) (pageReg 2 1) 0x50019
def A0 := (8+2) * 2097152 + 4096
def sA (l : List RsvAcc) := wd fun d => {ready d with stackTab := [(2, {arriving := l})], nextId := 5}
def ap : ApertureAccess := {die := 3, core := 1, addr := BitVec.ofNat 40 A0, width := 4, data := some [1,2,3,4]}
def sS (a : RsvAcc) := wd fun d => {ready d with stackTab := [(2, {accepted := [a, ac 77777 none]})], rsv := memWrite d.rsv (A0-2) (List.replicate 20 9)}
def aw := ac A0 (some [1,2,3,4,5,6,7,8])
def sSn := wd fun d => fset (sS aw).dev (ctl R.RSV_STATUS 50 0) F.RSV_STATUS_READY 0
def sP (v : Nat) (l : List RsvAcc) := wd fun d => {ready d with stackTab := [(2, {accepted := l})], regs := mset d.regs (pageReg 2 0) (BitVec.ofNat 32 v), nextId := 7}
def sP1 : State := sP 1 [ac (2*2097152) none]
def wr0 : WinRead := {id := 31, head := 0, src := 73, vc := 1, win := 5, gen := 3, off := 4096, addr := A0, len := 8}
def aW : RsvAcc := { addr := A0, len := 8, data := none, vc := 1, ring := true, origin := .window 31 }
def sW := wd fun d => {netD (ready d) with stackTab := [(2, {accepted := [aW]})], winReads := [wr0], rsv := memWrite d.rsv (A0-2) (List.replicate 20 9)}

/-- Obligations.ReservoirComplete: its premises on reservoirAccess hold together. -/
theorem witness_ReservoirComplete_reservoirAccess :
    (powered (sA [ac A0 none]).dev = true ∧ (mgetD (sA [ac A0 none]).dev.stackTab 2 ({} : Stack)).arriving[0]? = some (ac
      A0 none) ∧ mayArrive (mgetD (sA [ac A0 none]).dev.stackTab 2 ({} : Stack)).arriving 0 = true ∧ rsvRefused (sA
      [ac A0 none]).dev (2) (ac A0 none) = false) ∧ (powered (sA [ac 0 none]).dev = true ∧ (mgetD (sA
      [ac 0 none]).dev.stackTab 2 ({} : Stack)).arriving[0]? = some (ac 0 none) ∧ mayArrive (mgetD (sA
      [ac 0 none]).dev.stackTab 2 ({} : Stack)).arriving 0 = true ∧ rsvRefused (sA [ac 0 none]).dev (2) (ac 0 none) = true ∧
      (ac 0 none).origin = Origin.core 3 1) ∧ (powered (sA []).dev = true ∧ ap.width ∈ [1, 2, 4, 8] ∧ ap.addr.toNat %
      ap.width = 0 ∧ ap.addr.toNat < 824633720832 ∧ Option.all (fun b => b.length == ap.width) ap.data = true ∧
      stackReachable (sA []).dev (ap.addr.toNat / 2097152 % 8) = true) := by
  decide +kernel

/-- Obligations.ReservoirComplete: its premises on reservoirService hold together. -/
theorem witness_ReservoirComplete_reservoirService_1 :
    (powered (sS (ac A0 none)).dev = true ∧ (mgetD (sS (ac A0 none)).dev.stackTab 2 ({} : Stack)).accepted[0]? = some (ac
      A0 none) ∧ mayServe (sS (ac A0 none)).dev (2) 0 = true ∧ (mgetD (sS (ac A0 none)).dev.stackTab 2 ({} : Stack)).fences
      = [] ∧ (ac A0 none).origin = Origin.core 3 1 ∧ (sS (ac A0 none)).dev.rsv.wf = true ∧ (sS (ac A0 none)).dev.winReads =
      [] ∧ (stackReachable (sS (ac A0 none)).dev 2 && stackServes (sS (ac A0 none)).dev 2) = true ∧ (ac A0 none).data = none
      ∧ 3 = 3) ∧ (powered (sS (ac A0 none)).dev = true ∧ (mgetD (sS (ac A0 none)).dev.stackTab 2 ({} : Stack)).accepted[0]?
      = some (ac A0 none) ∧ mayServe (sS (ac A0 none)).dev (2) 0 = true ∧ (mgetD (sS (ac A0 none)).dev.stackTab 2 ({} :
      Stack)).fences = [] ∧ (ac A0 none).origin = Origin.core 3 1 ∧ (sS (ac A0 none)).dev.rsv.wf = true ∧ (sS (ac A0
      none)).dev.winReads = [] ∧ (stackReachable (sS (ac A0 none)).dev 2 && stackServes (sS (ac A0 none)).dev 2) = true ∧
      (ac A0 none).data = none ∧ 0 < 3) := by
  decide +kernel

/-- Obligations.ReservoirComplete: its premises on reservoirService hold together. -/
theorem witness_ReservoirComplete_reservoirService_2 :
    (powered (sS aw).dev = true ∧ (mgetD (sS aw).dev.stackTab 2 ({} : Stack)).accepted[0]? = some aw ∧ mayServe (sS
      aw).dev (2) 0 = true ∧ (mgetD (sS aw).dev.stackTab 2 ({} : Stack)).fences = [] ∧ aw.origin = Origin.core 3 1 ∧ (sS
      aw).dev.rsv.wf = true ∧ (sS aw).dev.winReads = [] ∧ (stackReachable (sS aw).dev 2 && stackServes (sS aw).dev 2) = true
      ∧ aw.data = some [1, 2, 3, 4, 5, 6, 7, 8]) ∧ (powered sSn.dev = true ∧ (mgetD sSn.dev.stackTab 2 ({} :
      Stack)).accepted[0]? = some aw ∧ mayServe sSn.dev (2) 0 = true ∧ (mgetD sSn.dev.stackTab 2 ({} : Stack)).fences = [] ∧
      aw.origin = Origin.core 3 1 ∧ sSn.dev.rsv.wf = true ∧ sSn.dev.winReads = [] ∧ (stackReachable sSn.dev 2 && stackServes
      sSn.dev 2) = false) := by
  decide +kernel

/-- Obligations.ReservoirComplete: its premises on reservoirService hold together. -/
theorem witness_ReservoirComplete_reservoirService_3 :
    powered sW.dev = true ∧ sW.dev.stackTab = [(2, ({ accepted := [aW] } : Stack))] ∧ sW.dev.winReads = [wr0] ∧ aW.origin
      = Origin.window wr0.id ∧ aW.data = none ∧ aW.addr = wr0.addr ∧ aW.len = wr0.len ∧ wr0.got = [] ∧ wr0.refused = false ∧
      wr0.win < 4096 ∧ wr0.gen < 65536 ∧ wr0.off < 1048576 ∧ 1 ≤ wr0.len ∧ wr0.addr % 1024 + wr0.len ≤ 1024 ∧ stackReachable
      sW.dev 2 = true ∧ stackServes sW.dev 2 = true ∧ 0 < 3 := by
  decide +kernel

/-- Obligations.ReservoirComplete: its premises on reservoirService hold together. -/
theorem witness_ReservoirComplete_reservoirService_4 :
    powered sW.dev = true ∧ sW.dev.stackTab = [(2, ({ accepted := [aW] } : Stack))] ∧ sW.dev.winReads = [wr0] ∧ aW.origin
      = Origin.window wr0.id ∧ aW.data = none ∧ aW.addr = wr0.addr ∧ aW.len = wr0.len ∧ wr0.got = [] ∧ wr0.refused = false ∧
      wr0.win < 4096 ∧ wr0.gen < 65536 ∧ wr0.off < 1048576 ∧ 1 ≤ wr0.len ∧ wr0.addr % 1024 + wr0.len ≤ 1024 ∧ stackReachable
      sW.dev 2 = true ∧ stackServes sW.dev 2 = true ∧ 3 = 3 := by
  decide +kernel

/-- Obligations.ReservoirComplete: its premises on pageEntryWrite hold together. -/
theorem witness_ReservoirComplete_pageEntryWrite :
    (powered (sP 7 []).dev = true ∧ MayWrite (sP 7 []).dev mp (ctl R.RSV_PT_ENTRY (48 + 2) 0) ∧ selField (sP 7 []).dev mp
      (ctl R.RSV_PT_SEL (48 + 2) 0) F.RSV_PT_SEL_PAGE < 49152 ∧ (mgetD (sP 7 []).dev.stackTab 2 ({} : Stack)).fences = [] ∧
      entryKind (rd (sP 7 []).dev (pageReg (2) (selField (sP 7 []).dev mp (ctl R.RSV_PT_SEL (48 + 2) 0) F.RSV_PT_SEL_PAGE)))
      = 7) ∧ (powered (sP 1 []).dev = true ∧ MayWrite (sP 1 []).dev mp (ctl R.RSV_PT_ENTRY (48 + 2) 0) ∧ selField (sP 1
      []).dev mp (ctl R.RSV_PT_SEL (48 + 2) 0) F.RSV_PT_SEL_PAGE < 49152 ∧ (mgetD (sP 1 []).dev.stackTab 2 ({} :
      Stack)).fences = [] ∧ entryKind (rd (sP 1 []).dev (pageReg (2) (selField (sP 1 []).dev mp (ctl R.RSV_PT_SEL (48 + 2)
      0) F.RSV_PT_SEL_PAGE))) ≠ 7 ∧ (∀ (x : RsvAcc), x ∈ (mgetD (sP 1 []).dev.stackTab 2 ({} : Stack)).accepted → x.addr /
      16777216 ≠ selField (sP 1 []).dev mp (ctl R.RSV_PT_SEL (48 + 2) 0) F.RSV_PT_SEL_PAGE)) ∧ (powered (sP 0 []).dev = true
      ∧ MayWrite (sP 0 []).dev mp (ctl R.RSV_PT_ENTRY (48 + 2) 0) ∧ selField (sP 0 []).dev mp (ctl R.RSV_PT_SEL (48 + 2) 0)
      F.RSV_PT_SEL_PAGE < 49152 ∧ (mgetD (sP 0 []).dev.stackTab 2 ({} : Stack)).fences = [] ∧ entryKind (rd (sP 0 []).dev
      (pageReg (2) (selField (sP 0 []).dev mp (ctl R.RSV_PT_SEL (48 + 2) 0) F.RSV_PT_SEL_PAGE))) ≠ 7 ∧ (∀ (x : RsvAcc), x ∈
      (mgetD (sP 0 []).dev.stackTab 2 ({} : Stack)).accepted → x.addr / 16777216 ≠ selField (sP 0 []).dev mp (ctl
      R.RSV_PT_SEL (48 + 2) 0) F.RSV_PT_SEL_PAGE)) ∧ (powered sP1.dev = true ∧ MayWrite sP1.dev mp (ctl R.RSV_PT_ENTRY (48 +
      2) 0) ∧ selField sP1.dev mp (ctl R.RSV_PT_SEL (48 + 2) 0) F.RSV_PT_SEL_PAGE < 49152 ∧ (mgetD sP1.dev.stackTab 2 ({} :
      Stack)).fences = [] ∧ entryKind (rd sP1.dev (pageReg (2) (selField sP1.dev mp (ctl R.RSV_PT_SEL (48 + 2) 0)
      F.RSV_PT_SEL_PAGE))) ≠ 7 ∧ (∃ x, x ∈ (mgetD sP1.dev.stackTab 2 ({} : Stack)).accepted ∧ x.addr / 16777216 = selField
      sP1.dev mp (ctl R.RSV_PT_SEL (48 + 2) 0) F.RSV_PT_SEL_PAGE ∧ x.seq < sP1.dev.nextId)) := by
  decide +kernel

/-- Obligations.ReservoirComplete: its premises on pageZeroFillDone hold together. -/
theorem witness_ReservoirComplete_pageZeroFillDone :
    powered on.dev = true ∧ on.dev.rsv.wf = true := by
  decide +kernel

end W10

namespace W11

def Gq : AqdId := 11
def tr (st : Nat) (f : Aqd → Aqd := id) (g : Dev → Dev := id) := wd fun d => g (setAqd (fsets {d with tally := 100000000000} (aqdReg R.AQD_STATUS 11) [(F.AQD_STATUS_STATE, st), (F.AQD_STATUS_UP, b2n (st == 5))]) 11 (f {since := 5}))
def eth (d : Dev) := fset d (aqdReg R.AQD_STATUS 11) F.AQD_STATUS_MODE_ACTIVE 1
def t3 := tr 3 fun a => {a with mapped := true}
def t4 := tr 4 fun a => {a with greeted := true}
def sx1 : State := tr 2 fun a => {a with map := 3}
def lmx (o : Nat) (x : Dev → Dev := id) := tr 3 (fun a => {a with lost := 2}) fun d => x (fset d (aqdReg R.AQD_LANE_RET 11) F.AQD_LANE_RET_RETIRED o)
def lme := lmx 0x10 fun d => fset (eth d) (aqdReg R.AQD_CTRL 11) F.AQD_CTRL_ETH_HALF 1
def sx2 : State := tr 3 id fun d => fset (eth (fset d (aqdReg R.AQD_LANE_RET 11) F.AQD_LANE_RET_RETIRED 0x10)) (aqdReg R.AQD_CTRL 11) F.AQD_CTRL_ETH_HALF 1
def sx3 : State := tr 3 fun a => {a with emptyFrom := some 6}
def sx4 : State := tr 4 fun a => {a with noVersion := true, helloAt := 4}
def sx5 : State := tr 4 fun a => {a with noVersion := true, helloAt := 99999999999}
def hm : HelloMsg := {fa := 300, aqd := 5, verMin := 2, verMax := 9, edition := 3}
def lz (l : LaserIn) (f : Dev → Dev := id) := wd fun d => f (setLaser {d with tally := 100000000000} 2 .b l)
def sx6 : State := lz {low := 3}
def sx7 : State := lz {low := 3}
def sx8 : State := lz {low := 9}
def lzr := lz {low := 9, lost := true, okSince := some 4} fun d => setAqd (fset (fset (fset d (aqdReg R.AQD_CTRL 16) F.AQD_CTRL_ENABLE 1) (aqdReg R.AQD_LANE_RET 16) F.AQD_LANE_RET_RETIRED 0xF1) (aqdReg R.AQD_LANE_RET 16) F.AQD_LANE_RET_CAUSE_LASER 0xF0) 16 {ownLaser := 0xF0}
def sy : Vector Nat 8 := #v[4,9,3,9,1,0,0,2]
def t5 := tr 5 fun a => {a with map := 0xFF}
def em : Emit := {kind := .hello, nums := [1]}
def t5u := tr 5 fun a => {a with map := 0xFF, unacked := [{em with pair := 65534}, {em with pair := 1}, {em with pair := 3}]}
def sx9 : State := tr 5 fun a => {a with replays := (3,7)}
def sx10 : State := tr 5 fun a => {a with replays := (3,8)}
def t5r := tr 5 fun a => {a with map := 0xFF, refusing := some 9}
def lm : LinkMsg := {corrected := [1,2,3,4,5,6,7,8], credits := [0,5,6], isolated := some true}
def eg : Emit := {kind := .isolated, nums := [1]}
def sx11 : State := tr 5 fun a => {a with unacked := [em,em,em], express := [eg]}
def ew : Emit := {kind := .migrate, nums := [1], bytes := [1], vc := 2}
def sx12 : State := tr 5 fun a => {a with unacked := [em,em,em], waiting := [(2, [ew])]}
def sx13 : State := tr 5 fun a => {a with held := [(3, 5), (4, 100000000000)]}
def sx14 : State := tr 5 fun a => {a with map := 0xFF, change := some (2, 9)}
def tm := tr 5 (fun a => {a with map := 0xFF, change := some (2, 9), outPair := 20, outAt := 100000000000, inPair := 30, inAt := 100000000000})
def tmL : State := wd fun d => fset tm.dev (aqdReg R.AQD_LANE_RET 11) F.AQD_LANE_RET_RETIRED 0x7E
def tm2 := tr 5 (fun a => {a with map := 0xFF, change := some (2, 9), outPair := 5, outAt := 100000000000})
def ff : List Byte := List.replicate 60 (1 : Byte) ++ leBytes 4 (crc32 (List.replicate 60 (1 : Byte)))
def sx15 : State := tr 2 fun a => {a with down := true}
def sx16 : State := tr 2 fun a => {a with since := 100000000000}
def sx17 : State := tr 1 fun a => {a with down := true}

/-- Obligations.AqueductTrainingComplete: its premises on trainingStateDone hold together. -/
theorem witness_AqueductTrainingComplete_trainingStateDone :
    (powered (tr 1).dev = true ∧ (trainState (tr 1).dev ↑Gq = 1 ∧ (aqd (tr 1).dev ↑Gq).down = false)) ∧ (powered (tr
      2).dev = true ∧ trainState (tr 2).dev ↑Gq = 2) ∧ (powered t3.dev = true ∧ trainState t3.dev ↑Gq = 3 ∧ (aqd t3.dev
      ↑Gq).mapped = true) ∧ (powered t4.dev = true ∧ trainState t4.dev ↑Gq = 4 ∧ (aqd t4.dev ↑Gq).greeted = true ∧ (laserIn t4.dev (Gq / 8) .a).readmit.head? ≠ some Gq.val ∧
      (laserIn t4.dev (Gq / 8) .b).readmit.head? ≠ some Gq.val) ∧ (powered sx17.dev = true ∧ (trainState sx17.dev
      ↑Gq = 1 ∧ (aqd sx17.dev ↑Gq).down = true)) := by
  decide +kernel

/-- Obligations.AqueductTrainingComplete: its premises hold together. -/
theorem witness_AqueductTrainingComplete :
    powered sx1.dev = true ∧ 1 ≤ trainState sx1.dev ↑Gq ∧ trainState sx1.dev ↑Gq ≤ 4 ∧ (aqd sx1.dev ↑Gq).emptyFrom = none
      ∧ (aqd sx1.dev ↑Gq).noVersion = false ∧ (aqd sx1.dev ↑Gq).down = false := by
  decide +kernel

/-- Obligations.AqueductTrainingComplete: its premises on laneMapExchange hold together. -/
theorem witness_AqueductTrainingComplete_laneMapExchange_1 :
    (powered (lmx 1).dev = true ∧ trainState (lmx 1).dev ↑Gq = 3 ∧ (aqd (lmx 1).dev ↑Gq).mapped = false ∧ (aqd (lmx 1).dev
      ↑Gq).emptyFrom = none ∧ (aqd (lmx 1).dev ↑Gq).farLaser = 0 ∧ (∀ (i : Nat), i < 8 → (bit (240) i && bit (15) i && !(bit
      (lanesOut (lmx 1).dev ↑Gq) i || bit (4) i || bit (aqd (lmx 1).dev ↑Gq).lost i) && !bit (aqd (lmx 1).dev ↑Gq).ownLaser
      i) = false) ∧ (4 ≠ 0 ∨ ∃ i, i < 8 ∧ (bit (lanesOut (lmx 1).dev ↑Gq) i || bit (4) i || bit (aqd (lmx 1).dev ↑Gq).lost
      i) = false)) ∧ (powered (lmx 255).dev = true ∧ trainState (lmx 255).dev ↑Gq = 3 ∧ (aqd (lmx 255).dev ↑Gq).mapped =
      false ∧ (aqd (lmx 255).dev ↑Gq).emptyFrom = none ∧ (aqd (lmx 255).dev ↑Gq).farLaser = 0 ∧ (∀ (i : Nat), i < 8 → (bit
      (lanesOut (lmx 255).dev ↑Gq) i || bit (0) i || bit (aqd (lmx 255).dev ↑Gq).lost i) = true)) ∧ (powered (lmx 1).dev =
      true ∧ trainState (lmx 1).dev ↑Gq = 3 ∧ (aqd (lmx 1).dev ↑Gq).mapped = false ∧ (aqd (lmx 1).dev ↑Gq).emptyFrom = none
      ∧ (aqd (lmx 1).dev ↑Gq).farLaser = 0 ∧ (∃ i, i < 8 ∧ (bit (248) i && bit (255) i && !(bit (lanesOut (lmx 1).dev ↑Gq) i
      || bit (4) i || bit (aqd (lmx 1).dev ↑Gq).lost i) && !bit (aqd (lmx 1).dev ↑Gq).ownLaser i) = true) ∧ (ethernet (lmx
      1).dev ↑Gq = true → ∀ (i : Nat), i < 8 → (bit (248) i && bit (255) i && !(bit (lanesOut (lmx 1).dev ↑Gq) i || bit (4)
      i || bit (aqd (lmx 1).dev ↑Gq).lost i) && !bit (aqd (lmx 1).dev ↑Gq).ownLaser i) = true)) := by
  decide +kernel

/-- Obligations.AqueductTrainingComplete: its premises on laneMapExchange hold together. -/
theorem witness_AqueductTrainingComplete_laneMapExchange_2 :
    (powered (lmx 1 eth).dev = true ∧ trainState (lmx 1 eth).dev ↑Gq = 3 ∧ (aqd (lmx 1 eth).dev ↑Gq).mapped = false ∧ (aqd
      (lmx 1 eth).dev ↑Gq).emptyFrom = none ∧ (aqd (lmx 1 eth).dev ↑Gq).farLaser = 0 ∧ ethernet (lmx 1 eth).dev ↑Gq = true ∧
      (∃ i, i < 8 ∧ (bit (248) i && bit (255) i && !(bit (lanesOut (lmx 1 eth).dev ↑Gq) i || bit (4) i || bit (aqd (lmx 1
      eth).dev ↑Gq).lost i) && !bit (aqd (lmx 1 eth).dev ↑Gq).ownLaser i) = true) ∧ (∃ i, i < 8 ∧ (bit (248) i && bit (255)
      i && !(bit (lanesOut (lmx 1 eth).dev ↑Gq) i || bit (4) i || bit (aqd (lmx 1 eth).dev ↑Gq).lost i) && !bit (aqd (lmx 1
      eth).dev ↑Gq).ownLaser i) = false)) ∧ (powered sx2.dev = true ∧ trainState sx2.dev ↑Gq = 3 ∧ (aqd sx2.dev ↑Gq).mapped
      = false ∧ (aqd sx2.dev ↑Gq).emptyFrom = none ∧ (aqd sx2.dev ↑Gq).farLaser = 0 ∧ ethernet sx2.dev ↑Gq = true ∧ (∃ i, i
      < 8 ∧ (bit (255) i && bit (255) i && !(bit (lanesOut sx2.dev ↑Gq) i || bit (0) i || bit (aqd sx2.dev ↑Gq).lost i) &&
      !bit (aqd sx2.dev ↑Gq).ownLaser i) = true) ∧ (∃ i, i < 8 ∧ (bit (255) i && bit (255) i && !(bit (lanesOut sx2.dev ↑Gq)
      i || bit (0) i || bit (aqd sx2.dev ↑Gq).lost i) && !bit (aqd sx2.dev ↑Gq).ownLaser i) = false)) ∧ (powered lme.dev =
      true ∧ trainState lme.dev ↑Gq = 3 ∧ (aqd lme.dev ↑Gq).mapped = false ∧ (aqd lme.dev ↑Gq).emptyFrom = none ∧ (aqd
      lme.dev ↑Gq).farLaser = 0 ∧ ethernet lme.dev ↑Gq = true ∧ (∃ i, i < 8 ∧ (bit (255) i && bit (255) i && !(bit (lanesOut
      lme.dev ↑Gq) i || bit (0) i || bit (aqd lme.dev ↑Gq).lost i) && !bit (aqd lme.dev ↑Gq).ownLaser i) = true) ∧ (∃ i, i <
      8 ∧ (bit (255) i && bit (255) i && !(bit (lanesOut lme.dev ↑Gq) i || bit (0) i || bit (aqd lme.dev ↑Gq).lost i) &&
      !bit (aqd lme.dev ↑Gq).ownLaser i) = false)) := by
  decide +kernel

/-- Obligations.AqueductTrainingComplete: its premises on mapRetryWait hold together. -/
theorem witness_AqueductTrainingComplete_mapRetryWait :
    powered sx3.dev = true ∧ (aqd sx3.dev ↑Gq).emptyFrom = some 6 ∧ 6 + 62500000 ≤ sx3.dev.tally := by
  decide +kernel

/-- Obligations.AqueductTrainingComplete: its premises on hello hold together. -/
theorem witness_AqueductTrainingComplete_hello_1 :
    (powered sx4.dev = true ∧ trainState sx4.dev ↑Gq = 4 ∧ ethernet sx4.dev ↑Gq = false ∧ (aqd sx4.dev ↑Gq).noVersion =
      true ∧ (aqd sx4.dev ↑Gq).helloAt + 62500000 ≤ sx4.dev.tally) ∧ (powered sx5.dev = true ∧ trainState sx5.dev ↑Gq = 4 ∧
      ethernet sx5.dev ↑Gq = false ∧ (aqd sx5.dev ↑Gq).noVersion = true ∧ sx5.dev.tally < (aqd sx5.dev ↑Gq).helloAt +
      62500000) ∧ (powered (tr 4).dev = true ∧ hm.verMin < 256 ∧ hm.verMax < 256 ∧ hm.edition < 65536 ∧ trainState (tr
      4).dev ↑Gq = 4 ∧ ethernet (tr 4).dev ↑Gq = false ∧ 2 ≤ hm.verMax ∧ hm.verMin ≤ min 3 hm.verMax ∧ (aqd (tr 4).dev
      ↑Gq).unacked = [] ∧ (aqd (tr 4).dev ↑Gq).queue = []) := by
  decide +kernel

/-- Obligations.AqueductTrainingComplete: its premises on hello hold together. -/
theorem witness_AqueductTrainingComplete_hello_2 :
    powered (tr 4).dev = true ∧ ({ hm with verMin := 4 } : HelloMsg).verMin < 256 ∧ ({ hm with verMin := 4 } :
      HelloMsg).verMax < 256 ∧ ({ hm with verMin := 4 } : HelloMsg).edition < 65536 ∧ trainState (tr 4).dev ↑Gq = 4 ∧
      ethernet (tr 4).dev ↑Gq = false ∧ min 3 ({ hm with verMin := 4 } : HelloMsg).verMax < ({ hm with verMin := 4 } :
      HelloMsg).verMin := by
  decide +kernel

/-- Obligations.AqueductTrainingComplete: its premises on ethFrameRx hold together. -/
theorem witness_AqueductTrainingComplete_ethFrameRx :
    (powered (tr 5 id eth).dev = true ∧ flag (tr 5 id eth).dev (aqdReg R.AQD_STATUS ↑Gq) F.AQD_STATUS_UP = true ∧ ethernet
      (tr 5 id eth).dev ↑Gq = true ∧ frameGood [1, 2, 3] = false) ∧ (powered (tr 5 id eth).dev = true ∧ flag (tr 5 id
      eth).dev (aqdReg R.AQD_STATUS ↑Gq) F.AQD_STATUS_UP = true ∧ ethernet (tr 5 id eth).dev ↑Gq = true ∧ frameGood ff =
      true ∧ frameClass (fget (tr 5 id eth).dev (aqdReg R.AQD_CTRL ↑Gq) F.AQD_CTRL_VLAN) ff = EthClass.unsupported) := by
  decide +kernel

/-- Obligations.AqueductLanesComplete: its premises on laserSample hold together. -/
theorem witness_AqueductLanesComplete_laserSample :
    (powered sx6.dev = true ∧ decide (signed 16 (fget sx6.dev (ctl R.AQD_LASER_THRESH (56 + 2) 8) F.AQD_LASER_THRESH_DBM)
      ≤ signed 16 (32767)) = true) ∧ (powered sx7.dev = true ∧ decide (signed 16 (fget sx7.dev (ctl R.AQD_LASER_THRESH (56 +
      2) 8) F.AQD_LASER_THRESH_DBM) ≤ signed 16 (32768)) = false ∧ (laserIn sx7.dev (2) LaserInput.b).low < 9) ∧ (powered
      sx8.dev = true ∧ decide (signed 16 (fget sx8.dev (ctl R.AQD_LASER_THRESH (56 + 2) 8) F.AQD_LASER_THRESH_DBM) ≤ signed
      16 (32768)) = false ∧ 9 ≤ (laserIn sx8.dev (2) LaserInput.b).low ∧ (laserIn sx8.dev (2) LaserInput.b).lost = false) := by
  decide +kernel

/-- Obligations.AqueductLanesComplete: its premises hold together. -/
theorem witness_AqueductLanesComplete :
    powered lzr.dev = true ∧ (laserIn lzr.dev (2) LaserInput.b).okSince = some 4 := by
  decide +kernel

/-- Obligations.AqueductLanesComplete: its premises on laserRestored hold together. -/
theorem witness_AqueductLanesComplete_laserRestored :
    powered lzr.dev = true ∧ (laserIn lzr.dev (2) LaserInput.b).okSince = some 4 ∧ (laserIn lzr.dev (2) LaserInput.b).lost
      = true ∧ 4 + 625000000 ≤ lzr.dev.tally := by
  decide +kernel

/-- Obligations.AqueductLanesComplete: its premises on codewordNack hold together. -/
theorem witness_AqueductLanesComplete_codewordNack :
    (powered t5.dev = true ∧ trainState t5.dev ↑Gq = 5 ∧ ethernet t5.dev ↑Gq = false) ∧ (powered t5u.dev = true ∧
      trainState t5u.dev ↑Gq = 5 ∧ ethernet t5u.dev ↑Gq = false) ∧ (powered sx9.dev = true ∧ trainState sx9.dev ↑Gq = 5 ∧
      ethernet sx9.dev ↑Gq = false) ∧ (powered sx10.dev = true ∧ trainState sx10.dev ↑Gq = 5 ∧ ethernet sx10.dev ↑Gq =
      false) ∧ (powered t5u.dev = true ∧ trainState t5u.dev ↑Gq = 5 ∧ ethernet t5u.dev ↑Gq = false ∧ (aqd t5u.dev
      ↑Gq).refusing = none) ∧ (powered t5r.dev = true ∧ trainState t5r.dev ↑Gq = 5 ∧ ethernet t5r.dev ↑Gq = false ∧ (aqd
      t5r.dev ↑Gq).refusing = some 9) := by
  decide +kernel

/-- Obligations.AqueductLanesComplete: its premises on linkAck hold together. -/
theorem witness_AqueductLanesComplete_linkAck_1 :
    (powered t5u.dev = true ∧ trainState t5u.dev ↑Gq = 5 ∧ ethernet t5u.dev ↑Gq = false ∧ (aqd t5u.dev ↑Gq).refusing =
      none ∧ (aqd t5u.dev ↑Gq).queue = [] ∧ lm.time = false) ∧ (powered sx11.dev = true ∧ trainState sx11.dev ↑Gq = 5 ∧
      ethernet sx11.dev ↑Gq = false ∧ (aqd sx11.dev ↑Gq).refusing = none ∧ lm.time = false ∧ aqdFabricUp sx11.dev ↑Gq = true
      ∧ ((aqd sx11.dev ↑Gq).express = [eg] ∧ (aqd sx11.dev ↑Gq).waiting = []) ∧ bufferBytes (List.drop 2 (aqd sx11.dev
      ↑Gq).unacked) + eg.fibre ≤ 524288) := by
  decide +kernel

/-- Obligations.AqueductLanesComplete: its premises on linkAck hold together. -/
theorem witness_AqueductLanesComplete_linkAck_2 :
    powered sx12.dev = true ∧ trainState sx12.dev ↑Gq = 5 ∧ ethernet sx12.dev ↑Gq = false ∧ (aqd sx12.dev ↑Gq).refusing =
      none ∧ lm.time = false ∧ aqdFabricUp sx12.dev ↑Gq = true ∧ (aqd sx12.dev ↑Gq).express = [] ∧ 2 < 8 ∧ (aqd sx12.dev
      ↑Gq).waiting = [(2, [ew])] ∧ 0 < mgetD (aqd sx12.dev ↑Gq).credits 2 0 + lm.credits.getD 2 0 ∧ bufferBytes (List.drop 2
      (aqd sx12.dev ↑Gq).unacked) + ew.fibre ≤ 524288 := by
  decide +kernel

/-- Obligations.AqueductLanesComplete: its premises on errorCountRelease hold together. -/
theorem witness_AqueductLanesComplete_errorCountRelease :
    powered sx13.dev = true ∧ trainState sx13.dev ↑Gq = 5 := by
  decide +kernel

/-- Obligations.AqueductLanesComplete: its premises on laneRetireReq hold together. -/
theorem witness_AqueductLanesComplete_laneRetireReq :
    (powered (tr 2).dev = true ∧ MayWrite (tr 2).dev mp (aqdReg R.AQD_LANE_RET ↑Gq) ∧ 129 ≠ 0 ∧ trainState (tr 2).dev ↑Gq
      < 5) ∧ (powered sx14.dev = true ∧ MayWrite sx14.dev mp (aqdReg R.AQD_LANE_RET ↑Gq) ∧ 129 ≠ 0 ∧ trainState sx14.dev ↑Gq
      = 5 ∧ ethernet sx14.dev ↑Gq = false) := by
  decide +kernel

/-- Obligations.AqueductLanesComplete: its premises on laneMapSwitch hold together. -/
theorem witness_AqueductLanesComplete_laneMapSwitch_1 :
    (powered tm.dev = true ∧ trainState tm.dev ↑Gq = 5 ∧ ethernet tm.dev ↑Gq = false ∧ pairPassed (pairIn tm.dev ↑Gq) 31 =
      false) ∧ (powered tm.dev = true ∧ trainState tm.dev ↑Gq = 5 ∧ ethernet tm.dev ↑Gq = false ∧ pairPassed (pairIn tm.dev
      ↑Gq) 30 = true ∧ (aqd tm.dev ↑Gq).map < 256 ∧ (∃ i : Fin 8, bit (aqd tm.dev ↑Gq).map i = true ∧ bit 129 i = false) ∧ (∃ i : Fin 8, bit (lanesOut tm.dev ↑Gq) i = false ∧ bit (129) i = false)) ∧ (powered tmL.dev = true ∧ trainState tmL.dev ↑Gq = 5 ∧
      ethernet tmL.dev ↑Gq = false ∧ pairPassed (pairIn tmL.dev ↑Gq) 30 = true ∧ (aqd tmL.dev ↑Gq).map < 256 ∧ (∀ (i : Fin
      8), bit (lanesOut tmL.dev ↑Gq) ↑i = true ∨ bit (129) ↑i = true)) ∧ (powered t5.dev = true ∧ trainState t5.dev ↑Gq = 5
      ∧ ethernet t5.dev ↑Gq = false ∧ (aqd t5.dev ↑Gq).change = none) := by
  decide +kernel

/-- Obligations.AqueductLanesComplete: its premises on laneMapSwitch hold together. -/
theorem witness_AqueductLanesComplete_laneMapSwitch_2 :
    (powered tm2.dev = true ∧ trainState tm2.dev ↑Gq = 5 ∧ ethernet tm2.dev ↑Gq = false ∧ (aqd tm2.dev ↑Gq).change = some
      (2, 9) ∧ pairPassed (pairOut tm2.dev ↑Gq) (2, 9).snd = false) ∧ (powered tm.dev = true ∧ trainState tm.dev ↑Gq = 5 ∧
      ethernet tm.dev ↑Gq = false ∧ (aqd tm.dev ↑Gq).change = some (2, 9) ∧ pairPassed (pairOut tm.dev ↑Gq) (2, 9).snd =
      true ∧ (∃ i : Fin 8, bit (aqd tm.dev ↑Gq).map i = true ∧ bit 2 i = false) ∧ (∃ i : Fin 8, bit (lanesOut tm.dev ↑Gq) i = false ∧ bit (2, 9).fst i = false) ∧ (aqd tm.dev ↑Gq).map < 256 ∧ 2 < 256) := by
  decide +kernel

/-- Obligations.AqueductLanesComplete: its premises on laneLoss hold together. -/
theorem witness_AqueductLanesComplete_laneLoss :
    (powered tm.dev = true ∧ trainState tm.dev ↑Gq = 5 ∧ bit (aqd tm.dev ↑Gq).map 3 = true) ∧ (powered (tr 3).dev = true ∧
      trainState (tr 3).dev ↑Gq ≠ 5) := by
  decide +kernel

/-- Obligations.AqueductTrainingComplete: its premises on trainingTimeout hold together. -/
theorem witness_AqueductTrainingComplete_trainingTimeout :
    (powered sx15.dev = true ∧ (aqd sx15.dev ↑Gq).down = true) ∧ (powered sx16.dev = true ∧ sx16.dev.tally < (aqd sx16.dev
      ↑Gq).since + msTicks (trainBound (trainState sx16.dev ↑Gq))) := by
  decide +kernel

end W11

namespace W12

def far : Nat := 64 + 9
def wx : Window := { state := 1, gen := 5, target := 1 + 4000*16 + 4 * 2^27 + 3*2^32, size := 65536, wr := true, rd := true, pool := 8, granted := [(73, 2)] }
def sW (f : Window → Window) (g : Dev → Dev := id) := wd fun d => g (setWindow (netD d) 40 (f wx))
def hd1 : FrameHdr := {head := 2, dst := 77, src := 73}
def wh : WindowHdr := ⟨1, 40, 5, 32⟩
def h2 : FrameHdr := {head := 2, dst := 73, src := 77}
def sx1 : State := sW fun x => {x with gen := 6}
def sx2 : State := sW fun x => {x with size := 34}
def sx3 : State := sW fun x => {x with wr := false}
def sx4 : State := sW fun x => {x with granted := []}
def up26 (d : Dev) : Dev := fset d (aqdReg R.AQD_STATUS 26) F.AQD_STATUS_UP 1
def sx5 : State := sW fun x => {x with rd := false}
def filled (d : Dev) : Dev := setBlk d 3 4 {blk d 3 4 with well := memWrite (blk d 3 4).well 4030 [1,2,3,4,5,6,7,8]}
def sx6 : State := sW fun x => {x with target := 3 + 5 * 2^27 + 3*2^32}
def rsvW : Window → Window := fun x => {x with target := 3 + ((8+2) * 2097152 + 4096 - 32) * 16}
def ready (d : Dev) : Dev := wr (fset (fset d (ctl R.BRG_STATUS 50 0) F.BRG_STATUS_UP 1) (ctl R.RSV_STATUS 50 0) F.RSV_STATUS_READY 1) (pageReg 2 1) 0x50019
def A0 := (8+2) * 2097152 + 4096
def acw : Accepted := {seq := 3, head := 2, src := 73, win := 40, gen := 5, off := 32, vc := 1, bytes := [9,8,7]}
def ac0 : Accepted := {acw with vc := 2, off := 100}
def sL (f : Window → Window) (g : Dev → Dev := id) (l := [ac0, acw, acw]) := sW f fun d => g { filled d with accepted := l }
def st10 (d : Dev) : Dev := {ready d with stackTab := [(2, {accepted := [{ addr := A0 - A0 % 1024, len := 8, data := none, vc := 4, ring := true, origin := .core 3 1, seq := 2 }]})]}
def it (p : PumpPiece) : PumpItem := { desc := y0, serial := 7, index := 1, ring := false, bundle := 0, slot := 0, genOffset := 0, pieces := [p], started := true}
def p1 : PumpPiece := {no := 1, rid := 44, row := 0, parts := [(45, none)], dst := some (.ownWell 64), marks := [], sent := false, landed := false}
def sR (p : PumpPiece) (k : TxnKind) (rid : Nat) := wd fun d => let d := netD d; setBlk { d with txns := [⟨2, .gate 4, .firmware, 3⟩, ⟨2, k, .pump 3 4 true rid, 0⟩] } 3 4 { blk d 3 4 with pumpB := ({} : Pump).setQueue .sluice [it p] }
def tk (d : Dev) (k : TxnKind) := (takeTxn d k).getD (d, ⟨0, .gate 0, .firmware, 0⟩)
def kr : TxnKind := .read 73 40 5 32 5
def s5 := sR p1 kr 45
def t5 := tk s5.dev kr
def kw : TxnKind := .write 73 40 5 32 5
def p2 := {p1 with sent := true, dst := some (.window 73 40 32), parts := [(45, some [1,2,3,4,5])]}
def s6 := sR p2 kw 44
def t6 := tk s6.dev kw
def xh : ExpressHdr := {head := 2, dst := 77, stamp := 73, die := 3}
def rr (st : Fin 16) : AckRecord := ⟨40, 32, 4, st, 5⟩
def sx7 : State := sW fun x => {x with pool := 2}
def c1 : SendCredit := {head := 2, fa := 73, win := 40, gen := 5, have_ := 3, asked := some 9}
def sC := wd fun d => {netD d with credits := [c1], blocks := []}
def gR (on th cn : Nat) (f : Dev → Dev := id) := wd fun d => f (wr (wr (fset (netD d) (gateReg R.GAT_CTRL 3 17) F.GAT_CTRL_REMOTE_EN on) (gateReg R.GAT_THRESH 3 17) (BitVec.ofNat 32 th)) (gateReg R.GAT_COUNT 3 17) (BitVec.ofNat 32 cn))
def sg : SignalId := {die := 3, block := 4, unit := 9, bundle := 3, cycle := 5, tag := 1, aux := 2, step := true}
def sT (k : TxnKind) (o : Origin) := wd fun d => {setDie (netD d) 3 {dieSt d 3 with signals := 2} with tally := 100000000, txns := [⟨2, .gate 4, .firmware, 3⟩, ⟨2, k, o, 0⟩]}
def sg1 := sT (.gate 9) (.signal sg)
def tg1 := tk sg1.dev (.gate 9)
def gA := wd fun d => {netD d with groups := [{num := 6, gen := 1, edition := 1, members := [77], committed := true}], step := {d.step with running := true, number := 55}}
def va (a b : Byte) : Vector Byte 52 := ((Vector.replicate 52 7).set 0 a).set 1 b
def xh73 : ExpressHdr := {xh with dst := 73}
def xh58 : ExpressHdr := {xh with die := 58, link := some 2}
def sB := sT (.mbx 9) (.buffer (txReg R.HAL_TX_CTRL 3 1 2))
def tB := tk sB.dev (.mbx 9)
def sF := sT (.mbx 9) (.fountain 1 2 3)
def tF := tk sF.dev (.mbx 9)
def own0 (d : Dev) := fset d (gateReg R.GAT_CTRL 3 17) F.GAT_CTRL_OWNER_KIND 1
def vb : Vector Byte 32 := Vector.replicate 32 7
def hf : MbxHalf := {stamp := 73, xid := 9, die := 3, mailbox := 12, part := 0, bytes := (List.range 32).map fun i => BitVec.ofNat 8 (i+100)}
def sM (f : Dev → Dev) := wd fun d => f {fsets (fset (netD d) (ctl R.HAL_CORE_CTRL 3 0) F.HAL_CORE_CTRL_HOLD 0) (mbxReg R.MBX_CTRL 3 12) [(F.MBX_CTRL_ENABLE,1),(F.MBX_CTRL_REMOTE_OK,1),(F.MBX_CTRL_DOORBELL,1),(F.MBX_CTRL_MIN_PRIV,0)] with mbxHalves := [hf]}
def full (d : Dev) := fset d (mbxReg R.MBX_STATUS 3 12) F.MBX_STATUS_FULL 1
def noR (d : Dev) := fset d (mbxReg R.MBX_CTRL 3 12) F.MBX_CTRL_REMOTE_OK 0
def selw (d : Dev) := wr (fsets d (winReg R.AQD_WIN_CTRL 0) [(F.AQD_WIN_CTRL_SIZE_M1, 3), (F.AQD_WIN_CTRL_WR_EN, 1), (F.AQD_WIN_CTRL_CREDITS_M1, 5)]) (winReg R.AQD_WIN_TGT_LO 0) (BitVec.ofNat 32 (1 + 4000*16 + 4 * 2^27))
def sO (f : Window → Window) := wd fun d => selw (setWindow (netD d) 0 (f {gen := 9}))
def sx8 : State := sO fun x => {x with state := 1}
def sD (l : List Nat) := sO fun x => {x with state := 2, drained := l}

/-- Obligations.WindowFramesComplete: its premises on write hold together. -/
theorem witness_WindowFramesComplete_write_1 :
    (powered (sW id).dev = true ∧ received (sW id).dev h2.arrival = true ∧ ShardsSettled (sW id).dev ∧ (sW
      id).dev.winReads = [] ∧ h2.dst.val ≠ ownFa (sW id).dev ∧ faValid (sW id).dev = true ∧ 1 ≤ ([1, 2, 3] : List
      Byte).length ∧ ([1, 2, 3] : List Byte).length ≤ 4096 ∧ routeAqd (sW id).dev (h2.dst.val) wh.vc = some 18 ∧ 18 / 8 =
      h2.head.val ∧ (aqd (sW id).dev 18).queue = [] ∧ 0 < mgetD (aqd (sW id).dev 18).credits wh.vc 0 ∧ bufferBytes (aqd (sW
      id).dev 18).unacked + (16 + ([1, 2, 3] : List Byte).length + 63) / 64 * 64 ≤ 524288) ∧ (powered (sW id).dev = true ∧
      received (sW id).dev hd1.arrival = true ∧ ShardsSettled (sW id).dev ∧ (sW id).dev.winReads = [] ∧ hd1.dst.val = ownFa
      (sW id).dev ∧ 1 ≤ ([1, 2, 3] : List Byte).length ∧ ([1, 2, 3] : List Byte).length ≤ 4096 ∧ ((if headReachable (sW
      id).dev hd1.head.val = false then some 5 else if (windowAt (sW id).dev hd1.head.val ↑wh.window).state ≠ 1 ∨ ↑wh.gen ≠
      (windowAt (sW id).dev hd1.head.val ↑wh.window).gen then some 1 else if (windowAt (sW id).dev hd1.head.val
      ↑wh.window).size < ↑wh.offset + ([1, 2, 3] : List Byte).length then some 2 else if (if true = true then (windowAt (sW
      id).dev hd1.head.val ↑wh.window).wr else (windowAt (sW id).dev hd1.head.val ↑wh.window).rd) = false then some 3 else
      if true = true ∧ mgetD (windowAt (sW id).dev hd1.head.val ↑wh.window).granted (hd1.src.val) 0 ≤ (List.filter (fun a =>
      a.src == hd1.src.val && a.win == ↑wh.window && a.gen == ↑wh.gen) (sW id).dev.accepted).length then some 4 else none) =
      none)) := by
  decide +kernel

/-- Obligations.WindowFramesComplete: its premises on write hold together. -/
theorem witness_WindowFramesComplete_write_2 :
    (powered sx1.dev = true ∧ received sx1.dev hd1.arrival = true ∧ ShardsSettled sx1.dev ∧ sx1.dev.winReads = [] ∧
      hd1.dst.val = ownFa sx1.dev ∧ 1 ≤ ([1, 2, 3] : List Byte).length ∧ ([1, 2, 3] : List Byte).length ≤ 4096 ∧ ((if
      headReachable sx1.dev hd1.head.val = false then some 5 else if (windowAt sx1.dev hd1.head.val ↑wh.window).state ≠ 1 ∨
      ↑wh.gen ≠ (windowAt sx1.dev hd1.head.val ↑wh.window).gen then some 1 else if (windowAt sx1.dev hd1.head.val
      ↑wh.window).size < ↑wh.offset + ([1, 2, 3] : List Byte).length then some 2 else if (if true = true then (windowAt
      sx1.dev hd1.head.val ↑wh.window).wr else (windowAt sx1.dev hd1.head.val ↑wh.window).rd) = false then some 3 else if
      true = true ∧ mgetD (windowAt sx1.dev hd1.head.val ↑wh.window).granted (hd1.src.val) 0 ≤ (List.filter (fun a => a.src
      == hd1.src.val && a.win == ↑wh.window && a.gen == ↑wh.gen) sx1.dev.accepted).length then some 4 else none) = some 1))
      ∧ (powered sx2.dev = true ∧ received sx2.dev hd1.arrival = true ∧ ShardsSettled sx2.dev ∧ sx2.dev.winReads = [] ∧
      hd1.dst.val = ownFa sx2.dev ∧ 1 ≤ ([1, 2, 3] : List Byte).length ∧ ([1, 2, 3] : List Byte).length ≤ 4096 ∧ ((if
      headReachable sx2.dev hd1.head.val = false then some 5 else if (windowAt sx2.dev hd1.head.val ↑wh.window).state ≠ 1 ∨
      ↑wh.gen ≠ (windowAt sx2.dev hd1.head.val ↑wh.window).gen then some 1 else if (windowAt sx2.dev hd1.head.val
      ↑wh.window).size < ↑wh.offset + ([1, 2, 3] : List Byte).length then some 2 else if (if true = true then (windowAt
      sx2.dev hd1.head.val ↑wh.window).wr else (windowAt sx2.dev hd1.head.val ↑wh.window).rd) = false then some 3 else if
      true = true ∧ mgetD (windowAt sx2.dev hd1.head.val ↑wh.window).granted (hd1.src.val) 0 ≤ (List.filter (fun a => a.src
      == hd1.src.val && a.win == ↑wh.window && a.gen == ↑wh.gen) sx2.dev.accepted).length then some 4 else none) = some 2))
      ∧ (powered sx3.dev = true ∧ received sx3.dev hd1.arrival = true ∧ ShardsSettled sx3.dev ∧ sx3.dev.winReads = [] ∧
      hd1.dst.val = ownFa sx3.dev ∧ 1 ≤ ([1, 2, 3] : List Byte).length ∧ ([1, 2, 3] : List Byte).length ≤ 4096 ∧ ((if
      headReachable sx3.dev hd1.head.val = false then some 5 else if (windowAt sx3.dev hd1.head.val ↑wh.window).state ≠ 1 ∨
      ↑wh.gen ≠ (windowAt sx3.dev hd1.head.val ↑wh.window).gen then some 1 else if (windowAt sx3.dev hd1.head.val
      ↑wh.window).size < ↑wh.offset + ([1, 2, 3] : List Byte).length then some 2 else if (if true = true then (windowAt
      sx3.dev hd1.head.val ↑wh.window).wr else (windowAt sx3.dev hd1.head.val ↑wh.window).rd) = false then some 3 else if
      true = true ∧ mgetD (windowAt sx3.dev hd1.head.val ↑wh.window).granted (hd1.src.val) 0 ≤ (List.filter (fun a => a.src
      == hd1.src.val && a.win == ↑wh.window && a.gen == ↑wh.gen) sx3.dev.accepted).length then some 4 else none) = some 3)) := by
  decide +kernel

/-- Obligations.WindowFramesComplete: its premises on write hold together. -/
theorem witness_WindowFramesComplete_write_3 :
    (powered sx4.dev = true ∧ received sx4.dev hd1.arrival = true ∧ ShardsSettled sx4.dev ∧ sx4.dev.winReads = [] ∧
      hd1.dst.val = ownFa sx4.dev ∧ 1 ≤ ([1, 2, 3] : List Byte).length ∧ ([1, 2, 3] : List Byte).length ≤ 4096 ∧ ((if
      headReachable sx4.dev hd1.head.val = false then some 5 else if (windowAt sx4.dev hd1.head.val ↑wh.window).state ≠ 1 ∨
      ↑wh.gen ≠ (windowAt sx4.dev hd1.head.val ↑wh.window).gen then some 1 else if (windowAt sx4.dev hd1.head.val
      ↑wh.window).size < ↑wh.offset + ([1, 2, 3] : List Byte).length then some 2 else if (if true = true then (windowAt
      sx4.dev hd1.head.val ↑wh.window).wr else (windowAt sx4.dev hd1.head.val ↑wh.window).rd) = false then some 3 else if
      true = true ∧ mgetD (windowAt sx4.dev hd1.head.val ↑wh.window).granted (hd1.src.val) 0 ≤ (List.filter (fun a => a.src
      == hd1.src.val && a.win == ↑wh.window && a.gen == ↑wh.gen) sx4.dev.accepted).length then some 4 else none) = some 4))
      ∧ (powered (sW id up26).dev = true ∧ received (sW id up26).dev ({ hd1 with head := 3, link := some 2 } :
      FrameHdr).arrival = true ∧ ShardsSettled (sW id up26).dev ∧ (sW id up26).dev.winReads = [] ∧
      ↑({ hd1 with head := 3, link := some 2 } : FrameHdr).dst = ownFa (sW id up26).dev ∧ 1 ≤ ([1, 2, 3] : List Byte).length
      ∧ ([1, 2, 3] : List Byte).length ≤ 4096 ∧ ((if headReachable (sW id up26).dev ↑({ hd1 with head := 3, link := some 2 }
      : FrameHdr).head = false then some 5 else if (windowAt (sW id up26).dev ↑({ hd1 with head := 3, link := some 2 } :
      FrameHdr).head ↑wh.window).state ≠ 1 ∨ ↑wh.gen ≠ (windowAt (sW id up26).dev ↑({ hd1 with head := 3, link := some 2 } :
      FrameHdr).head ↑wh.window).gen then some 1 else if (windowAt (sW id up26).dev ↑({ hd1 with head := 3, link := some 2 }
      : FrameHdr).head ↑wh.window).size < ↑wh.offset + ([1, 2, 3] : List Byte).length then some 2 else if (if true = true
      then (windowAt (sW id up26).dev ↑({ hd1 with head := 3, link := some 2 } : FrameHdr).head ↑wh.window).wr else
      (windowAt (sW id up26).dev ↑({ hd1 with head := 3, link := some 2 } : FrameHdr).head ↑wh.window).rd) = false then some
      3 else if true = true ∧ mgetD (windowAt (sW id up26).dev ↑({ hd1 with head := 3, link := some 2 } : FrameHdr).head
      ↑wh.window).granted (↑({ hd1 with head := 3, link := some 2 } : FrameHdr).src) 0 ≤ (List.filter (fun a => a.src ==
      ↑({ hd1 with head := 3, link := some 2 } : FrameHdr).src && a.win == ↑wh.window && a.gen == ↑wh.gen) (sW id
      up26).dev.accepted).length then some 4 else none) = some 5)) := by
  decide +kernel

/-- Obligations.WindowFramesComplete: its premises on readResp hold together. -/
theorem witness_WindowFramesComplete_readResp_1 :
    powered (sW id).dev = true ∧ received (sW id).dev h2.arrival = true ∧ ShardsSettled (sW id).dev ∧ (sW id).dev.winReads
      = [] ∧ h2.dst.val ≠ ownFa (sW id).dev ∧ faValid (sW id).dev = true ∧ 1 ≤ ([1, 2, 3] : List Byte).length ∧ ([1, 2, 3] :
      List Byte).length ≤ 4096 ∧ routeAqd (sW id).dev (h2.dst.val) wh.vc = some 18 ∧ 18 / 8 = h2.head.val ∧ (aqd (sW id).dev
      18).queue = [] ∧ 0 < mgetD (aqd (sW id).dev 18).credits wh.vc 0 ∧ bufferBytes (aqd (sW id).dev 18).unacked + (16 +
      ([1, 2, 3] : List Byte).length + 63) / 64 * 64 ≤ 524288 := by
  decide +kernel

/-- Obligations.WindowFramesComplete: its premises on readResp hold together. -/
theorem witness_WindowFramesComplete_readResp_2 :
    powered s5.dev = true ∧ received s5.dev hd1.arrival = true ∧ ShardsSettled s5.dev ∧ s5.dev.winReads = [] ∧ hd1.dst.val
      = ownFa s5.dev ∧ 1 ≤ ([1, 2, 3, 4, 5] : List Byte).length ∧ ([1, 2, 3, 4, 5] : List Byte).length ≤ 4096 ∧
      headReachable s5.dev hd1.head.val = true ∧ takeTxn s5.dev (TxnKind.read hd1.src.val ↑wh.window ↑wh.gen ↑wh.offset
      ([1, 2, 3, 4, 5] : List Byte).length) = some (t5.fst, t5.snd) ∧ t5.snd.origin = Origin.pump (↑D3) (↑B4) true 45 ∧
      p1.dst = some (Endpoint.ownWell 64) ∧ p1.parts = [(45, none)] ∧ (it p1).pieces = [p1] ∧ pumpOf (blk s5.dev ↑D3 ↑B4)
      true = ({} : Pump).setQueue QueueId.sluice [it p1] := by
  decide +kernel

/-- Obligations.WindowFramesComplete: its premises on readReq hold together. -/
theorem witness_WindowFramesComplete_readReq_1 :
    (powered (sW id).dev = true ∧ received (sW id).dev h2.arrival = true ∧ ShardsSettled (sW id).dev ∧ (sW
      id).dev.winReads = [] ∧ h2.dst.val ≠ ownFa (sW id).dev ∧ faValid (sW id).dev = true ∧ routeAqd (sW id).dev
      (h2.dst.val) wh.vc = some 18 ∧ 18 / 8 = h2.head.val ∧ (aqd (sW id).dev 18).queue = [] ∧ 0 < mgetD (aqd (sW id).dev
      18).credits wh.vc 0 ∧ bufferBytes (aqd (sW id).dev 18).unacked + (16 + 0 + 63) / 64 * 64 ≤ 524288) ∧ (powered sx5.dev
      = true ∧ received sx5.dev hd1.arrival = true ∧ ShardsSettled sx5.dev ∧ sx5.dev.winReads = [] ∧ hd1.dst.val = ownFa
      sx5.dev ∧ ((if headReachable sx5.dev hd1.head.val = false then some 5 else if (windowAt sx5.dev hd1.head.val
      ↑wh.window).state ≠ 1 ∨ ↑wh.gen ≠ (windowAt sx5.dev hd1.head.val ↑wh.window).gen then some 1 else if (windowAt sx5.dev
      hd1.head.val ↑wh.window).size < ↑wh.offset + (7 + 1) then some 2 else if (if false = true then (windowAt sx5.dev
      hd1.head.val ↑wh.window).wr else (windowAt sx5.dev hd1.head.val ↑wh.window).rd) = false then some 3 else if false =
      true ∧ mgetD (windowAt sx5.dev hd1.head.val ↑wh.window).granted (hd1.src.val) 0 ≤ (List.filter (fun a => a.src ==
      hd1.src.val && a.win == ↑wh.window && a.gen == ↑wh.gen) sx5.dev.accepted).length then some 4 else none) = some 3)) := by
  decide +kernel

/-- Obligations.WindowFramesComplete: its premises on readReq hold together. -/
theorem witness_WindowFramesComplete_readReq_2 :
    (powered (sW id filled).dev = true ∧ received (sW id filled).dev hd1.arrival = true ∧ ShardsSettled (sW id filled).dev
      ∧ (sW id filled).dev.winReads = [] ∧ hd1.dst.val = ownFa (sW id filled).dev ∧ ((if headReachable (sW id filled).dev
      hd1.head.val = false then some 5 else if (windowAt (sW id filled).dev hd1.head.val ↑wh.window).state ≠ 1 ∨ ↑wh.gen ≠
      (windowAt (sW id filled).dev hd1.head.val ↑wh.window).gen then some 1 else if (windowAt (sW id filled).dev
      hd1.head.val ↑wh.window).size < ↑wh.offset + (7 + 1) then some 2 else if (if false = true then (windowAt (sW id
      filled).dev hd1.head.val ↑wh.window).wr else (windowAt (sW id filled).dev hd1.head.val ↑wh.window).rd) = false then
      some 3 else if false = true ∧ mgetD (windowAt (sW id filled).dev hd1.head.val ↑wh.window).granted (hd1.src.val) 0 ≤
      (List.filter (fun a => a.src == hd1.src.val && a.win == ↑wh.window && a.gen == ↑wh.gen) (sW id
      filled).dev.accepted).length then some 4 else none) = none) ∧ (sW id filled).dev.accepted = [] ∧ parseEndpoint (window
      (sW id filled).dev ↑wh.window).target ↑wh.offset = some (some (Endpoint.package 3 4 4032)) ∧ 4032 % 1024 + (7 + 1) ≤
      1024 ∧ 4032 < 6291456 ∧ wellReady (sW id filled).dev 3 (translateHome (sW id filled).dev 3 4 4032).fst false
      ((translateHome (sW id filled).dev 3 4 4032).snd / 1024) = true) ∧ (powered sx6.dev = true ∧ received sx6.dev
      hd1.arrival = true ∧ ShardsSettled sx6.dev ∧ sx6.dev.winReads = [] ∧ hd1.dst.val = ownFa sx6.dev ∧ ((if headReachable
      sx6.dev hd1.head.val = false then some 5 else if (windowAt sx6.dev hd1.head.val ↑wh.window).state ≠ 1 ∨ ↑wh.gen ≠
      (windowAt sx6.dev hd1.head.val ↑wh.window).gen then some 1 else if (windowAt sx6.dev hd1.head.val ↑wh.window).size <
      ↑wh.offset + (7 + 1) then some 2 else if (if false = true then (windowAt sx6.dev hd1.head.val ↑wh.window).wr else
      (windowAt sx6.dev hd1.head.val ↑wh.window).rd) = false then some 3 else if false = true ∧ mgetD (windowAt sx6.dev
      hd1.head.val ↑wh.window).granted (hd1.src.val) 0 ≤ (List.filter (fun a => a.src == hd1.src.val && a.win == ↑wh.window
      && a.gen == ↑wh.gen) sx6.dev.accepted).length then some 4 else none) = none) ∧ sx6.dev.accepted = [] ∧ targetReady
      sx6.dev (window sx6.dev ↑wh.window) (↑wh.offset) (7 + 1) false = none) := by
  decide +kernel

/-- Obligations.WindowFramesComplete: its premises on readReq hold together. -/
theorem witness_WindowFramesComplete_readReq_3 :
    powered (sW rsvW ready).dev = true ∧ received (sW rsvW ready).dev hd1.arrival = true ∧ ShardsSettled (sW rsvW
      ready).dev ∧ (sW rsvW ready).dev.winReads = [] ∧ hd1.dst.val = ownFa (sW rsvW ready).dev ∧ ((if headReachable (sW rsvW
      ready).dev hd1.head.val = false then some 5 else if (windowAt (sW rsvW ready).dev hd1.head.val ↑wh.window).state ≠ 1 ∨
      ↑wh.gen ≠ (windowAt (sW rsvW ready).dev hd1.head.val ↑wh.window).gen then some 1 else if (windowAt (sW rsvW ready).dev
      hd1.head.val ↑wh.window).size < ↑wh.offset + (7 + 1) then some 2 else if (if false = true then (windowAt (sW rsvW
      ready).dev hd1.head.val ↑wh.window).wr else (windowAt (sW rsvW ready).dev hd1.head.val ↑wh.window).rd) = false then
      some 3 else if false = true ∧ mgetD (windowAt (sW rsvW ready).dev hd1.head.val ↑wh.window).granted (hd1.src.val) 0 ≤
      (List.filter (fun a => a.src == hd1.src.val && a.win == ↑wh.window && a.gen == ↑wh.gen) (sW rsvW
      ready).dev.accepted).length then some 4 else none) = none) ∧ (sW rsvW ready).dev.accepted = [] ∧ targetReady (sW rsvW
      ready).dev (window (sW rsvW ready).dev ↑wh.window) (↑wh.offset) (7 + 1) false = some ([], some A0) := by
  decide +kernel

/-- Obligations.WindowFramesComplete: its premises on writeLanded hold together. -/
theorem witness_WindowFramesComplete_writeLanded_1 :
    powered (sL id).dev = true ∧ received (sL id).dev hd1.arrival = true ∧ ShardsSettled (sL id).dev ∧ (sL
      id).dev.winReads = [] ∧ (sL id).dev.accepted[1]? = some acw ∧ (∀ (o : Accepted), o ∈ List.take 1 (sL id).dev.accepted
      → ¬(o.src = acw.src ∧ o.vc = acw.vc)) ∧ acw.win < 4096 ∧ acw.gen < 65536 ∧ acw.off < 1048576 ∧ (window (sL id).dev
      acw.win).waiting = [] ∧ (∀ (h k : Nat), h < 8 → k < 64 → flag (sL id).dev (ctl (R.GAT_RLY_WIN + 16 * k) (56 + h) 1)
      F.GAT_RLY_WIN_VALID = false ∨ fget (sL id).dev (ctl (R.GAT_RLY_WIN + 16 * k) (56 + h) 1) F.GAT_RLY_WIN_WINDOW ≠
      acw.win) ∧ parseEndpoint (window (sL id).dev acw.win).target acw.off = some (some (Endpoint.package 3 4 4032)) ∧ 0 <
      acw.bytes.length ∧ 4032 % 1024 + acw.bytes.length ≤ 1024 ∧ 4032 < 6291456 ∧ wellReady (sL id).dev 3 (translateHome (sL
      id).dev 3 4 4032).fst false ((translateHome (sL id).dev 3 4 4032).snd / 1024) = true ∧ (blk (sL id).dev 3
      (translateHome (sL id).dev 3 4 4032).fst).well.wf = true := by
  and_intros <;> first | (intro h k h8 k64; exact relay_free _ _ (by decide +kernel) h k h8 k64) | decide +kernel

/-- Obligations.WindowFramesComplete: its premises on writeLanded hold together. -/
theorem witness_WindowFramesComplete_writeLanded_2 :
    powered (sL rsvW ready).dev = true ∧ received (sL rsvW ready).dev hd1.arrival = true ∧ ShardsSettled (sL rsvW
      ready).dev ∧ (sL rsvW ready).dev.winReads = [] ∧ (sL rsvW ready).dev.accepted[1]? = some acw ∧ (∀ (o : Accepted), o ∈
      List.take 1 (sL rsvW ready).dev.accepted → ¬(o.src = acw.src ∧ o.vc = acw.vc)) ∧ acw.win < 4096 ∧ acw.gen < 65536 ∧
      acw.off < 1048576 ∧ (window (sL rsvW ready).dev acw.win).waiting = [] ∧ (∀ (h k : Nat), h < 8 → k < 64 → flag (sL rsvW
      ready).dev (ctl (R.GAT_RLY_WIN + 16 * k) (56 + h) 1) F.GAT_RLY_WIN_VALID = false ∨ fget (sL rsvW ready).dev (ctl
      (R.GAT_RLY_WIN + 16 * k) (56 + h) 1) F.GAT_RLY_WIN_WINDOW ≠ acw.win) ∧ parseEndpoint (window (sL rsvW ready).dev
      acw.win).target acw.off = some (some (Endpoint.reservoir A0)) ∧ (¬∃ x, x ∈ (sL rsvW ready).dev.stackTab ∧ ∃ o, o ∈
      x.snd.accepted ∧ A0 / 1024 ≤ o.segment ∧ o.segment ≤ (A0 + acw.bytes.length - 1) / 1024 ∧ o.seq < acw.seq) ∧
      targetReady (sL rsvW ready).dev (window (sL rsvW ready).dev acw.win) acw.off acw.bytes.length true = some ([], some
      A0) := by
  and_intros <;> first | (intro h k h8 k64; exact relay_free _ _ (by decide +kernel) h k h8 k64) | decide +kernel

/-- Obligations.WindowFramesComplete: its premises on writeLanded hold together. -/
theorem witness_WindowFramesComplete_writeLanded_3 :
    powered (sL rsvW st10).dev = true ∧ received (sL rsvW st10).dev hd1.arrival = true ∧ ShardsSettled (sL rsvW st10).dev
      ∧ (sL rsvW st10).dev.winReads = [] ∧ (sL rsvW st10).dev.accepted[1]? = some acw ∧ (∀ (o : Accepted), o ∈ List.take 1
      (sL rsvW st10).dev.accepted → ¬(o.src = acw.src ∧ o.vc = acw.vc)) ∧ acw.win < 4096 ∧ acw.gen < 65536 ∧ acw.off <
      1048576 ∧ (window (sL rsvW st10).dev acw.win).waiting = [] ∧ (∀ (h k : Nat), h < 8 → k < 64 → flag (sL rsvW st10).dev
      (ctl (R.GAT_RLY_WIN + 16 * k) (56 + h) 1) F.GAT_RLY_WIN_VALID = false ∨ fget (sL rsvW st10).dev (ctl (R.GAT_RLY_WIN +
      16 * k) (56 + h) 1) F.GAT_RLY_WIN_WINDOW ≠ acw.win) ∧ parseEndpoint (window (sL rsvW st10).dev acw.win).target acw.off
      = some (some (Endpoint.reservoir A0)) ∧ (∃ x, x ∈ (sL rsvW st10).dev.stackTab ∧ ∃ o, o ∈ x.snd.accepted ∧ A0 / 1024 ≤
      o.segment ∧ o.segment ≤ (A0 + acw.bytes.length - 1) / 1024 ∧ o.seq < acw.seq) := by
  and_intros <;> first | (intro h k h8 k64; exact relay_free _ _ (by decide +kernel) h k h8 k64) | decide +kernel

/-- Obligations.WindowFramesComplete: its premises on writeLanded hold together. -/
theorem witness_WindowFramesComplete_writeLanded_4 :
    powered (sL rsvW).dev = true ∧ received (sL rsvW).dev hd1.arrival = true ∧ ShardsSettled (sL rsvW).dev ∧ (sL
      rsvW).dev.winReads = [] ∧ (sL rsvW).dev.accepted[1]? = some acw ∧ (∀ (o : Accepted), o ∈ List.take 1 (sL
      rsvW).dev.accepted → ¬(o.src = acw.src ∧ o.vc = acw.vc)) ∧ acw.win < 4096 ∧ acw.gen < 65536 ∧ acw.off < 1048576 ∧
      (window (sL rsvW).dev acw.win).waiting = [] ∧ (∀ (h k : Nat), h < 8 → k < 64 → flag (sL rsvW).dev (ctl (R.GAT_RLY_WIN
      + 16 * k) (56 + h) 1) F.GAT_RLY_WIN_VALID = false ∨ fget (sL rsvW).dev (ctl (R.GAT_RLY_WIN + 16 * k) (56 + h) 1)
      F.GAT_RLY_WIN_WINDOW ≠ acw.win) ∧ parseEndpoint (window (sL rsvW).dev acw.win).target acw.off = some (some
      (Endpoint.reservoir A0)) ∧ (¬∃ x, x ∈ (sL rsvW).dev.stackTab ∧ ∃ o, o ∈ x.snd.accepted ∧ A0 / 1024 ≤ o.segment ∧
      o.segment ≤ (A0 + acw.bytes.length - 1) / 1024 ∧ o.seq < acw.seq) ∧ targetReady (sL rsvW).dev (window (sL rsvW).dev
      acw.win) acw.off acw.bytes.length true = none := by
  and_intros <;> first | (intro h k h8 k64; exact relay_free _ _ (by decide +kernel) h k h8 k64) | decide +kernel

/-- Obligations.WindowFramesComplete: its premises on ack hold together. -/
theorem witness_WindowFramesComplete_ack_1 :
    powered s6.dev = true ∧ received s6.dev hd1.arrival = true ∧ ShardsSettled s6.dev ∧ s6.dev.winReads = [] ∧ xh.dst.val
      = ownFa s6.dev ∧ received s6.dev xh.arrival = true ∧ headReachable s6.dev xh.head.val = true ∧ takeTxn s6.dev
      (TxnKind.write (bits xh.stamp.toNat 0 16) (↑(rr 0).window) (↑(rr 0).gen) (↑(rr 0).offset) (↑(rr 0).lenM1 + 1)) = some
      (t6.fst, t6.snd) ∧ t6.snd.origin = Origin.pump (↑D3) (↑B4) true 44 ∧ p2.sent = true ∧ p2.rid = 44 ∧ (it p2).pieces =
      [p2] ∧ (it p2).failed = false ∧ pumpOf (blk s6.dev ↑D3 ↑B4) true = ({} : Pump).setQueue QueueId.sluice [it p2] ∧ (rr
      0).status = 0 := by
  decide +kernel

/-- Obligations.WindowFramesComplete: its premises on ack hold together. -/
theorem witness_WindowFramesComplete_ack_2 :
    powered s6.dev = true ∧ received s6.dev hd1.arrival = true ∧ ShardsSettled s6.dev ∧ s6.dev.winReads = [] ∧ xh.dst.val
      = ownFa s6.dev ∧ received s6.dev xh.arrival = true ∧ headReachable s6.dev xh.head.val = true ∧ takeTxn s6.dev
      (TxnKind.write (bits xh.stamp.toNat 0 16) (↑(rr 1).window) (↑(rr 1).gen) (↑(rr 1).offset) (↑(rr 1).lenM1 + 1)) = some
      (t6.fst, t6.snd) ∧ t6.snd.origin = Origin.pump (↑D3) (↑B4) true 44 ∧ p2.sent = true ∧ p2.rid = 44 ∧ (it p2).pieces =
      [p2] ∧ (it p2).failed = false ∧ pumpOf (blk s6.dev ↑D3 ↑B4) true = ({} : Pump).setQueue QueueId.sluice [it p2] ∧ (rr
      1).status = 1 := by
  decide +kernel

/-- Obligations.ExpressOperationsComplete: its premises on creditReq hold together. -/
theorem witness_ExpressOperationsComplete_creditReq_1 :
    (powered (sW id).dev = true ∧ xh.dst.val = ownFa (sW id).dev ∧ received (sW id).dev xh.arrival = true ∧ headReachable
      (sW id).dev xh.head.val = true ∧ ShardsSettled (sW id).dev ∧ 1 ≤ 4 ∧ ((window (sW id).dev 40).state ≠ 1 ∨ 6 ≠ (window
      (sW id).dev 40).gen)) ∧ (powered (sW id).dev = true ∧ xh.dst.val = ownFa (sW id).dev ∧ received (sW id).dev xh.arrival
      = true ∧ headReachable (sW id).dev xh.head.val = true ∧ ShardsSettled (sW id).dev ∧ 1 ≤ 40 ∧ (window (sW id).dev
      40).state = 1 ∧ 5 = (window (sW id).dev 40).gen ∧ (window (sW id).dev 40).waiting = [] ∧ (List.map Prod.snd (window
      (sW id).dev 40).granted).sum < (window (sW id).dev 40).pool ∧ flag (sW id).dev (winReg R.AQD_WIN_CTRL 40)
      F.AQD_WIN_CTRL_HOLD = false) := by
  decide +kernel

/-- Obligations.ExpressOperationsComplete: its premises on creditReq hold together. -/
theorem witness_ExpressOperationsComplete_creditReq_2 :
    powered sx7.dev = true ∧ xh.dst.val = ownFa sx7.dev ∧ received sx7.dev xh.arrival = true ∧ headReachable sx7.dev
      xh.head.val = true ∧ ShardsSettled sx7.dev ∧ 1 ≤ 40 ∧ (window sx7.dev 40).state = 1 ∧ 5 = (window sx7.dev 40).gen ∧
      (window sx7.dev 40).waiting = [] ∧ ((window sx7.dev 40).pool ≤ (List.map Prod.snd (window sx7.dev 40).granted).sum ∨
      flag sx7.dev (winReg R.AQD_WIN_CTRL 40) F.AQD_WIN_CTRL_HOLD = true) := by
  decide +kernel

/-- Obligations.ExpressOperationsComplete: its premises on credit hold together. -/
theorem witness_ExpressOperationsComplete_credit :
    (powered sC.dev = true ∧ xh.dst.val = ownFa sC.dev ∧ received sC.dev xh.arrival = true ∧ headReachable sC.dev
      xh.head.val = true ∧ ShardsSettled sC.dev ∧ 1 ≤ 4 ∧ sC.dev.credits = [c1] ∧ c1.fa = bits xh.stamp.toNat 0 16 ∧ c1.win
      = 40 ∧ c1.gen = 5 ∧ c1.asked = some 9 ∧ sC.dev.fountains = [] ∧ sC.dev.blocks = []) ∧ (powered sC.dev = true ∧
      xh.dst.val = ownFa sC.dev ∧ received sC.dev xh.arrival = true ∧ headReachable sC.dev xh.head.val = true ∧
      ShardsSettled sC.dev ∧ 1 ≤ 4 ∧ sC.dev.credits = [c1] ∧ c1.fa = bits xh.stamp.toNat 0 16 ∧ c1.win = 40 ∧ c1.gen = 5 ∧
      c1.asked ≠ some 8) := by
  decide +kernel

/-- Obligations.ExpressOperationsComplete: its premises on gateOp hold together. -/
theorem witness_ExpressOperationsComplete_gateOp_1 :
    (powered (gR 1 3 0).dev = true ∧ xh.dst.val = ownFa (gR 1 3 0).dev ∧ received (gR 1 3 0).dev xh.arrival = true ∧
      headReachable (gR 1 3 0).dev xh.head.val = true ∧ ShardsSettled (gR 1 3 0).dev ∧ xh.die.val < 56 ∧ gateExists
      xh.die.val 400 = false) ∧ (powered (gR 0 3 0).dev = true ∧ xh.dst.val = ownFa (gR 0 3 0).dev ∧ received (gR 0 3 0).dev
      xh.arrival = true ∧ headReachable (gR 0 3 0).dev xh.head.val = true ∧ ShardsSettled (gR 0 3 0).dev ∧ xh.die.val < 56 ∧
      gateExists xh.die.val 17 = true ∧ flag (gR 0 3 0).dev (gateReg R.GAT_CTRL xh.die.val 17) F.GAT_CTRL_REMOTE_EN = false) := by
  decide +kernel

/-- Obligations.ExpressOperationsComplete: its premises on gateOp hold together. -/
theorem witness_ExpressOperationsComplete_gateOp_2 :
    (powered (gR 1 3 0).dev = true ∧ xh.dst.val = ownFa (gR 1 3 0).dev ∧ received (gR 1 3 0).dev xh.arrival = true ∧
      headReachable (gR 1 3 0).dev xh.head.val = true ∧ ShardsSettled (gR 1 3 0).dev ∧ xh.die.val < 56 ∧ gateExists
      xh.die.val 17 = true ∧ flag (gR 1 3 0).dev (gateReg R.GAT_CTRL xh.die.val 17) F.GAT_CTRL_REMOTE_EN = true ∧ waiters
      (gR 1 3 0).dev xh.die.val 17 = [] ∧ BitVec.toNat (rd (gR 1 3 0).dev (gateReg R.GAT_COUNT xh.die.val 17)) + 4 <
      4294967296) ∧ (powered (gR 1 3 4294967295).dev = true ∧ xh.dst.val = ownFa (gR 1 3 4294967295).dev ∧ received (gR 1 3
      4294967295).dev xh.arrival = true ∧ headReachable (gR 1 3 4294967295).dev xh.head.val = true ∧ ShardsSettled (gR 1 3
      4294967295).dev ∧ xh.die.val < 56 ∧ gateExists xh.die.val 17 = true ∧ flag (gR 1 3 4294967295).dev (gateReg R.GAT_CTRL
      xh.die.val 17) F.GAT_CTRL_REMOTE_EN = true ∧ waiters (gR 1 3 4294967295).dev xh.die.val 17 = [] ∧ 4294967296 ≤
      BitVec.toNat (rd (gR 1 3 4294967295).dev (gateReg R.GAT_COUNT xh.die.val 17)) + 4) := by
  decide +kernel

/-- Obligations.ExpressOperationsComplete: its premises on gateOp hold together. -/
theorem witness_ExpressOperationsComplete_gateOp_3 :
    (powered (gR 1 3 5).dev = true ∧ xh.dst.val = ownFa (gR 1 3 5).dev ∧ received (gR 1 3 5).dev xh.arrival = true ∧
      headReachable (gR 1 3 5).dev xh.head.val = true ∧ ShardsSettled (gR 1 3 5).dev ∧ xh.die.val < 56 ∧ gateExists
      xh.die.val 17 = true ∧ flag (gR 1 3 5).dev (gateReg R.GAT_CTRL xh.die.val 17) F.GAT_CTRL_REMOTE_EN = true ∧ waiters
      (gR 1 3 5).dev xh.die.val 17 = [] ∧ ownerOk (gR 1 3 5).dev (xh.die.val) (17) Requester.fabric = true ∧ 4 ≤
      BitVec.toNat (rd (gR 1 3 5).dev (gateReg R.GAT_COUNT xh.die.val 17))) ∧ (powered (gR 1 3 2).dev = true ∧ xh.dst.val =
      ownFa (gR 1 3 2).dev ∧ received (gR 1 3 2).dev xh.arrival = true ∧ headReachable (gR 1 3 2).dev xh.head.val = true ∧
      ShardsSettled (gR 1 3 2).dev ∧ xh.die.val < 56 ∧ gateExists xh.die.val 17 = true ∧ flag (gR 1 3 2).dev (gateReg
      R.GAT_CTRL xh.die.val 17) F.GAT_CTRL_REMOTE_EN = true ∧ waiters (gR 1 3 2).dev xh.die.val 17 = [] ∧ ownerOk (gR 1 3
      2).dev (xh.die.val) (17) Requester.fabric = true ∧ BitVec.toNat (rd (gR 1 3 2).dev (gateReg R.GAT_COUNT xh.die.val
      17)) < 4) := by
  decide +kernel

/-- Obligations.ExpressOperationsComplete: its premises on gateOp hold together. -/
theorem witness_ExpressOperationsComplete_gateOp_4 :
    powered (gR 1 3 2 own0).dev = true ∧ xh.dst.val = ownFa (gR 1 3 2 own0).dev ∧ received (gR 1 3 2 own0).dev xh.arrival
      = true ∧ headReachable (gR 1 3 2 own0).dev xh.head.val = true ∧ ShardsSettled (gR 1 3 2 own0).dev ∧ xh.die.val < 56 ∧
      gateExists xh.die.val 17 = true ∧ flag (gR 1 3 2 own0).dev (gateReg R.GAT_CTRL xh.die.val 17) F.GAT_CTRL_REMOTE_EN =
      true ∧ waiters (gR 1 3 2 own0).dev xh.die.val 17 = [] ∧ 1 ≤ 4 ∧ 4 ≤ 4 ∧ ownerOk (gR 1 3 2 own0).dev (xh.die.val) (17)
      Requester.fabric = false := by
  decide +kernel

/-- Obligations.ExpressOperationsComplete: its premises on gateAck hold together. -/
theorem witness_ExpressOperationsComplete_gateAck :
    (powered sg1.dev = true ∧ xh.dst.val = ownFa sg1.dev ∧ received sg1.dev xh.arrival = true ∧ headReachable sg1.dev
      xh.head.val = true ∧ ShardsSettled sg1.dev ∧ takeTxn sg1.dev (TxnKind.gate 9) = some (tg1.fst, tg1.snd) ∧
      tg1.snd.origin = Origin.signal sg ∧ sg.die < 64) ∧ (powered sg1.dev = true ∧ xh.dst.val = ownFa sg1.dev ∧ received
      sg1.dev xh.arrival = true ∧ headReachable sg1.dev xh.head.val = true ∧ ShardsSettled sg1.dev ∧ takeTxn sg1.dev
      (TxnKind.gate 9) = some (tg1.fst, tg1.snd) ∧ tg1.snd.origin = Origin.signal sg ∧ sg.die < 64 ∧ 1 ≤ 3 ∧ 3 ≤ 4) := by
  decide +kernel

/-- Obligations.ExpressOperationsComplete: its premises on abort hold together. -/
theorem witness_ExpressOperationsComplete_abort :
    (powered gA.dev = true ∧ xh.dst.val = ownFa gA.dev ∧ received gA.dev xh.arrival = true ∧ headReachable gA.dev
      xh.head.val = true ∧ ShardsSettled gA.dev ∧ gA.dev.step.number % 18446744073709551616 = 55 ∧ ((∃ g, g ∈ gA.dev.groups
      ∧ g.num = 6 ∧ g.committed = true ∧ ownFa gA.dev ∈ g.members) ∧ stepOf gA.dev 6 = true) ∧ gA.dev.step.running = true) ∧
      (powered gA.dev = true ∧ xh.dst.val = ownFa gA.dev ∧ received gA.dev xh.arrival = true ∧ headReachable gA.dev
      xh.head.val = true ∧ ShardsSettled gA.dev ∧ (gA.dev.step.number % 18446744073709551616 ≠ 55 ∨ ¬((∃ g, g ∈
      gA.dev.groups ∧ g.num = 7 ∧ g.committed = true ∧ ownFa gA.dev ∈ g.members) ∧ stepOf gA.dev 7 = true) ∨
      gA.dev.step.running = false)) := by
  decide +kernel

/-- Obligations.ExpressOperationsComplete: its premises on expressFlitDrop hold together. -/
theorem witness_ExpressOperationsComplete_expressFlitDrop_1 :
    (powered gA.dev = true ∧ xh.dst.val = ownFa gA.dev ∧ received gA.dev xh.arrival = true ∧ headReachable gA.dev
      xh.head.val = true ∧ ShardsSettled gA.dev ∧ (51 = 0 ∨ 10 < 51)) ∧ (powered gA.dev = true ∧ xh58.dst.val = ownFa gA.dev
      ∧ received gA.dev xh58.arrival = true ∧ headReachable gA.dev xh58.head.val = true ∧ ShardsSettled gA.dev ∧ (9 = 9 ∧ (2
      ≤ BitVec.toNat (va 2 3)[0] ∨ 64 ≤ BitVec.toNat (va 2 3)[1])) ∧ 56 ≤ xh58.die.val) ∧ (powered gA.dev = true ∧
      xh58.dst.val = ownFa gA.dev ∧ received gA.dev xh58.arrival = true ∧ headReachable gA.dev xh58.head.val = true ∧
      ShardsSettled gA.dev ∧ (9 = 9 ∧ (2 ≤ BitVec.toNat (va 0 64)[0] ∨ 64 ≤ BitVec.toNat (va 0 64)[1])) ∧ 56 ≤ xh58.die.val) := by
  decide +kernel

/-- Obligations.ExpressOperationsComplete: its premises on expressFlitDrop hold together. -/
theorem witness_ExpressOperationsComplete_expressFlitDrop_2 :
    (powered gA.dev = true ∧ xh58.dst.val = ownFa gA.dev ∧ received gA.dev xh58.arrival = true ∧ headReachable gA.dev
      xh58.head.val = true ∧ ShardsSettled gA.dev ∧ (9 = 9 ∧ (2 ≤ BitVec.toNat (va 0 64)[0] ∨ 64 ≤ BitVec.toNat (va 0
      64)[1])) ∧ xh73.dst.val ≠ ownFa gA.dev ∧ faValid gA.dev = true ∧ received gA.dev xh73.arrival = true ∧ headReachable
      gA.dev xh73.head.val = true ∧ routeAqd gA.dev (xh73.dst.val) 0 = some 18 ∧ headReachable gA.dev (18 / 8) = true ∧
      Takes gA.dev 18 0 ({ kind := EmitKind.expressFlit, nums := [0, xh73.dst.val, 9], bytes := (va 0 64).toList } : Emit))
      ∧ (powered gA.dev = true ∧ xh.dst.val = ownFa gA.dev ∧ received gA.dev xh.arrival = true ∧ headReachable gA.dev
      xh.head.val = true ∧ ShardsSettled gA.dev) := by
  and_intros <;> first | decide +kernel | rfl

/-- Obligations.ExpressOperationsComplete: its premises on transactionTimeout hold together. -/
theorem witness_ExpressOperationsComplete_transactionTimeout_1 :
    (powered sg1.dev = true ∧ xh.dst.val = ownFa sg1.dev ∧ received sg1.dev xh.arrival = true ∧ headReachable sg1.dev
      xh.head.val = true ∧ ShardsSettled sg1.dev ∧ sg1.dev.txns[1]? = some tg1.snd ∧ tg1.snd.origin = Origin.signal sg ∧
      sg.die < 64 ∧ tg1.snd.start + 625 * max 1 (fget sg1.dev (ctl R.AQD_TXN_TIMEOUT (56 + tg1.snd.head) 9)
      F.AQD_TXN_TIMEOUT_US) ≤ sg1.dev.tally ∧ tg1.snd.head < 8) ∧ (powered sB.dev = true ∧ xh.dst.val = ownFa sB.dev ∧
      received sB.dev xh.arrival = true ∧ headReachable sB.dev xh.head.val = true ∧ ShardsSettled sB.dev ∧ sB.dev.txns[1]? =
      some tB.snd ∧ tB.snd.origin = Origin.buffer (txReg R.HAL_TX_CTRL 3 1 2) ∧ tB.snd.start + 625 * max 1 (fget sB.dev (ctl
      R.AQD_TXN_TIMEOUT (56 + tB.snd.head) 9) F.AQD_TXN_TIMEOUT_US) ≤ sB.dev.tally ∧ tB.snd.head < 8) := by
  decide +kernel

/-- Obligations.ExpressOperationsComplete: its premises on transactionTimeout hold together. -/
theorem witness_ExpressOperationsComplete_transactionTimeout_2 :
    powered sF.dev = true ∧ xh.dst.val = ownFa sF.dev ∧ received sF.dev xh.arrival = true ∧ headReachable sF.dev
      xh.head.val = true ∧ ShardsSettled sF.dev ∧ sF.dev.txns[1]? = some tF.snd ∧ tF.snd.origin = Origin.fountain 1 2 3 := by
  decide +kernel

/-- Obligations.MailAndWindowsComplete: its premises on mbxPart hold together. -/
theorem witness_MailAndWindowsComplete_mbxPart_1 :
    (powered (sW id).dev = true ∧ xh.dst.val = ownFa (sW id).dev ∧ received (sW id).dev xh.arrival = true ∧ headReachable
      (sW id).dev xh.head.val = true ∧ (∀ (g : MbxHalf), g ∈ (sW id).dev.mbxHalves → ¬(g.stamp = xh.stamp.toNat ∧ g.xid = 9
      ∧ g.die = xh.die.val ∧ g.mailbox = 12))) ∧ (powered (sM id).dev = true ∧ xh.dst.val = ownFa (sM id).dev ∧ received (sM
      id).dev xh.arrival = true ∧ headReachable (sM id).dev xh.head.val = true ∧ (sM id).dev.mbxHalves = [hf] ∧ (hf.stamp =
      xh.stamp.toNat ∧ hf.xid = 9 ∧ hf.die = xh.die.val ∧ hf.mailbox = 12) ∧ hf.part ≠ 1 ∧ hf.part < 2 ∧ hf.bytes.length =
      32 ∧ xh.die.val < 48 ∧ (flag (sM id).dev (mbxReg R.MBX_CTRL xh.die.val 12) F.MBX_CTRL_ENABLE = true ∧ flag (sM id).dev
      (ctl R.HAL_CORE_CTRL (xh.die.val) (fget (sM id).dev (mbxReg R.MBX_CTRL xh.die.val 12) F.MBX_CTRL_CORE))
      F.HAL_CORE_CTRL_HOLD = false ∧ coreRetired (sM id).dev (xh.die.val) (fget (sM id).dev (mbxReg R.MBX_CTRL xh.die.val
      12) F.MBX_CTRL_CORE) = false ∧ fget (sM id).dev (mbxReg R.MBX_CTRL xh.die.val 12) F.MBX_CTRL_MIN_PRIV ≤ xh.stamp.toNat
      / 1073741824 ∧ (flag (sM id).dev (mbxReg R.MBX_CTRL xh.die.val 12) F.MBX_CTRL_REMOTE_OK = true ∨ xh.stamp.toNat %
      65536 = ownFa (sM id).dev))) := by
  decide +kernel

/-- Obligations.MailAndWindowsComplete: its premises on mbxPart hold together. -/
theorem witness_MailAndWindowsComplete_mbxPart_2 :
    (powered (sM full).dev = true ∧ xh.dst.val = ownFa (sM full).dev ∧ received (sM full).dev xh.arrival = true ∧
      headReachable (sM full).dev xh.head.val = true ∧ (sM full).dev.mbxHalves = [hf] ∧ (hf.stamp = xh.stamp.toNat ∧ hf.xid
      = 9 ∧ hf.die = xh.die.val ∧ hf.mailbox = 12) ∧ hf.part ≠ 1 ∧ hf.part < 2 ∧ hf.bytes.length = 32 ∧ xh.die.val < 48 ∧
      (flag (sM full).dev (mbxReg R.MBX_CTRL xh.die.val 12) F.MBX_CTRL_ENABLE = true ∧ flag (sM full).dev (ctl
      R.HAL_CORE_CTRL (xh.die.val) (fget (sM full).dev (mbxReg R.MBX_CTRL xh.die.val 12) F.MBX_CTRL_CORE))
      F.HAL_CORE_CTRL_HOLD = false ∧ coreRetired (sM full).dev (xh.die.val) (fget (sM full).dev (mbxReg R.MBX_CTRL
      xh.die.val 12) F.MBX_CTRL_CORE) = false ∧ fget (sM full).dev (mbxReg R.MBX_CTRL xh.die.val 12) F.MBX_CTRL_MIN_PRIV ≤
      xh.stamp.toNat / 1073741824 ∧ (flag (sM full).dev (mbxReg R.MBX_CTRL xh.die.val 12) F.MBX_CTRL_REMOTE_OK = true ∨
      xh.stamp.toNat % 65536 = ownFa (sM full).dev))) ∧ (powered (sM noR).dev = true ∧ xh.dst.val = ownFa (sM noR).dev ∧
      received (sM noR).dev xh.arrival = true ∧ headReachable (sM noR).dev xh.head.val = true ∧ (sM noR).dev.mbxHalves =
      [hf] ∧ (hf.stamp = xh.stamp.toNat ∧ hf.xid = 9 ∧ hf.die = xh.die.val ∧ hf.mailbox = 12) ∧ hf.part ≠ 1 ∧ hf.part < 2 ∧
      hf.bytes.length = 32 ∧ xh.die.val < 48 ∧ (¬(flag (sM noR).dev (mbxReg R.MBX_CTRL xh.die.val 12) F.MBX_CTRL_ENABLE =
      true ∧ flag (sM noR).dev (ctl R.HAL_CORE_CTRL (xh.die.val) (fget (sM noR).dev (mbxReg R.MBX_CTRL xh.die.val 12)
      F.MBX_CTRL_CORE)) F.HAL_CORE_CTRL_HOLD = false ∧ coreRetired (sM noR).dev (xh.die.val) (fget (sM noR).dev (mbxReg
      R.MBX_CTRL xh.die.val 12) F.MBX_CTRL_CORE) = false ∧ fget (sM noR).dev (mbxReg R.MBX_CTRL xh.die.val 12)
      F.MBX_CTRL_MIN_PRIV ≤ xh.stamp.toNat / 1073741824 ∧ (flag (sM noR).dev (mbxReg R.MBX_CTRL xh.die.val 12)
      F.MBX_CTRL_REMOTE_OK = true ∨ xh.stamp.toNat % 65536 = ownFa (sM noR).dev)))) := by
  decide +kernel

/-- Obligations.MailAndWindowsComplete: its premises on mbxAck hold together. -/
theorem witness_MailAndWindowsComplete_mbxAck :
    powered sB.dev = true ∧ xh.dst.val = ownFa sB.dev ∧ received sB.dev xh.arrival = true ∧ headReachable sB.dev
      xh.head.val = true ∧ 2 ≤ 2 ∧ takeTxn sB.dev (TxnKind.mbx 9) = some (tB.fst, tB.snd) ∧ tB.snd.origin = Origin.buffer
      (txReg R.HAL_TX_CTRL 3 1 2) := by
  decide +kernel

/-- Obligations.MailAndWindowsComplete: its premises on windowOpen hold together. -/
theorem witness_MailAndWindowsComplete_windowOpen :
    powered (sO id).dev = true ∧ MayWrite (sO id).dev mp (txnReg R.AQD_WIN_OP 3) ∧ 3 ≠ primaryHead (sO id).dev := by
  decide +kernel

/-- Obligations.MailAndWindowsComplete: its premises on windowClose hold together. -/
theorem witness_MailAndWindowsComplete_windowClose :
    (powered (sO id).dev = true ∧ MayWrite (sO id).dev mp (txnReg R.AQD_WIN_OP 2) ∧ 2 = primaryHead (sO id).dev ∧ (window
      (sO id).dev (selWindow (sO id).dev mp 2)).state ≠ 1) ∧ (powered sx8.dev = true ∧ MayWrite sx8.dev mp (txnReg
      R.AQD_WIN_OP 2) ∧ 2 = primaryHead sx8.dev ∧ (window sx8.dev (selWindow sx8.dev mp 2)).state = 1) := by
  decide +kernel

/-- Obligations.MailAndWindowsComplete: its premises on windowDrained hold together. -/
theorem witness_MailAndWindowsComplete_windowDrained :
    (powered (sD [1, 2]).dev = true ∧ ShardsSettled (sD [1, 2]).dev ∧ mget (sD [1, 2]).dev.winCopies (3 * 4096 + 0) = none
      ∧ (window (sD [1, 2]).dev 0).state = 2 ∧ (¬3 ∈ (window (sD [1, 2]).dev 0).drained) ∧ (∀ (a : Accepted), a ∈ (sD
      [1, 2]).dev.accepted → ¬(a.win = 0 ∧ a.head = 3 ∧ a.gen ≠ (window (sD [1, 2]).dev 0).gen)) ∧ (window (sD [1, 2]).dev
      0).drained.length < 7) ∧ (powered (sD [1, 2, 0, 4, 5, 6, 7]).dev = true ∧ ShardsSettled (sD [1, 2, 0, 4, 5, 6, 7]).dev
      ∧ mget (sD [1, 2, 0, 4, 5, 6, 7]).dev.winCopies (3 * 4096 + 0) = none ∧ (window (sD [1, 2, 0, 4, 5, 6, 7]).dev
      0).state = 2 ∧ (¬3 ∈ (window (sD [1, 2, 0, 4, 5, 6, 7]).dev 0).drained) ∧ (∀ (a : Accepted), a ∈ (sD
      [1, 2, 0, 4, 5, 6, 7]).dev.accepted → ¬(a.win = 0 ∧ a.head = 3 ∧ a.gen ≠ (window (sD [1, 2, 0, 4, 5, 6, 7]).dev
      0).gen)) ∧ (window (sD [1, 2, 0, 4, 5, 6, 7]).dev 0).drained.length = 7) := by
  decide +kernel

end W12

namespace W13

def n1 := wd netD
def rec (fa : Fin 65536) (f : Nat) : DiscoveryRecord := ⟨fa, 2, 3, 1, f, 50, [1,2,3,4,5,6,7,8], [8,7,6,5,4,3,2,1]⟩
def hd : FrameHdr := {head := 2, dst := 77, src := 73, link := some 2}
def pt (fa f : Nat) : Partner := ⟨fa, 2, 3, 1, f, 50, [1,2,3,4,5,6,7,8], [8,7,6,5,4,3,2,1], 4, 18⟩
def n2 (l : List Partner) (g : List Group := []) := wd fun d => {netD d with partners := l, groups := g, roster := [73,77], tally := 40000000}
def p9 : Partner := {pt 73 0 with heard := 30000000}
def g1 : Group := {num := 6, gen := 4, edition := 1, members := [73, 77], joined := [(77,2,3)], master := 77}
def sg := wd fun d => let d := (n2 [pt 73 0] [{g1 with committed := true}]).dev; {d with step := {d.step with running := true}}
def s6 (g : Group) := n2 [pt 73 0] [g]
def sx1 : State := s6 {g1 with members := [73,74,77]}
def sx2 : State := s6 {g1 with members := [73,74,77]}
def sx3 : State := s6 {g1 with members := [73,74,77]}
def sx4 : State := s6 {g1 with members := [73,74,77]}
def xb : ExpressHdr := {head := 2, dst := 77, stamp := 73, die := 58}
def bs (f : Dev → Dev) := wd fun d => let d := fsets (fsets (fsets (netD d) (barReg R.GAT_BAR_CTRL 2 5) [(F.GAT_BAR_CTRL_VALID,1),(F.GAT_BAR_CTRL_CHILDREN,2),(F.GAT_BAR_CTRL_ARRIVE_GATE,300),(F.GAT_BAR_CTRL_RELEASE_GATE,9)]) (barReg R.GAT_BAR_PARENT 2 5) [(F.GAT_BAR_PARENT_FA, 200),(F.GAT_BAR_PARENT_GROUP, 6)]) (barReg R.GAT_BAR_STATE 2 5) [(F.GAT_BAR_STATE_SEQ, 65535),(F.GAT_BAR_STATE_GGEN,4)]; f (wr (wr (wr (wr d (barReg R.GAT_BAR_DIES_LO 2 5) 0x18) (barReg R.GAT_BAR_DIES_HI 2 5) 0x8) (gateReg R.GAT_THRESH 58 300) 3)  (barReg R.GAT_BAR_PAYLOAD 2 5) 0x400)
def loc (d : Dev) := fset d (barReg R.GAT_BAR_ARRIVED 2 5) F.GAT_BAR_ARRIVED_LOCAL 1
def one (d : Dev) := setBarSlot d 2 5 {cur := [80], curPay := 0x1000, next := [81], nextPay := 0x700}
def root (d : Dev) := fset d (barReg R.GAT_BAR_CTRL 2 5) F.GAT_BAR_CTRL_ROOT 1
def sn : Snapshot := {slot := 2*64+5, group := 6, phase := .draining 0}
def dr (ok : Bool) (d : Dev) : Dev := {d with tally := 50000000, snaps := [sn], windows := if ok then [] else [(4, {state := 1, granted := [(3, 1)]})] }
def sx5 : State := bs fun d => {dr false d with tally := 100}

/-- Obligations.RostersComplete: its premises on discoverySend hold together. -/
theorem witness_RostersComplete_discoverySend :
    powered n1.dev = true ∧ faValid n1.dev = true ∧ (∀ (g : Nat), g < 64 → aqdFabricUp n1.dev g = true → Takes n1.dev g 7
      ({ kind := EmitKind.discovery, bytes := leBytes 2 (ownFa n1.dev) ++ [2, 3] ++ leBytes 2 (fget n1.dev (ctl R.DIE_EDITION 0 0) F.DIE_EDITION_EDITION) ++ leBytes 1 (discoveryFlags n1.dev) ++ leBytes 1 (fget n1.dev (srvReg R.SRV_CAP_STATUS) F.SRV_CAP_STATUS_CAPACITY) ++ identity8 n1.dev ++ List.take 8 (sha512 (modelTable n1.dev)) ++ List.replicate 8 0 }
      : Emit)) := by
  have h : ∀ g, g < 64 → aqdFabricUp n1.dev g = true → (aqd n1.dev g).queue = []
      ∧ bufferBytes (aqd n1.dev g).unacked + 64 ≤ 524288 ∧ 0 < mgetD (aqd n1.dev g).credits 7 0 := by decide +kernel
  refine ⟨by decide +kernel, by decide +kernel, fun g hg up => ?_⟩
  have l : ∀ v e f c, (leBytes 2 v ++ [2, 3] ++ leBytes 2 e ++ leBytes 1 f ++ leBytes 1 c ++ identity8 n1.dev
      ++ List.take 8 (sha512 (modelTable n1.dev)) ++ List.replicate 8 0).length = 32 := by
    simp [length_leBytes, identity8, length_sha512]
  obtain ⟨q, b, c⟩ := h g hg up
  exact ⟨up, q, by simp only [Emit.fibre, l, EmitKind.express]; exact b, .inr ⟨by decide, c, by rw [l]; decide⟩⟩

/-- Obligations.RostersComplete: its premises on discoveryReceive hold together. -/
theorem witness_RostersComplete_discoveryReceive :
    (powered n1.dev = true ∧ (rec 73 1).wellFormed = true ∧ ↑(rec 73 1).fa ≠ ownFa n1.dev ∧ hd.dst.val = ownFa n1.dev ∧
      received n1.dev hd.arrival = true ∧ headReachable n1.dev hd.head.val = true ∧ isMaster
      ({ (noteTaken n1.dev hd.arrival 7) with partners := List.filter (fun o => o.fa != ↑(rec 73 1).fa) n1.dev.partners ++ [({ fa := ↑(rec 73 1).fa, verMin := (rec 73 1).verMin, verMax := (rec 73 1).verMax, edition := (rec 73 1).edition, flags := (rec 73 1).flags, capacity := (rec 73 1).capacity, identity := (rec 73 1).identity, models := (rec 73 1).models, heard := n1.dev.tally, aqd := hd.head.val * 8 + (Option.map Fin.val hd.link).getD 0 } : Partner)] }
      : Dev) = false) ∧ (powered n1.dev = true ∧ (rec 200 1).wellFormed = true ∧ ↑(rec 200 1).fa ≠ ownFa n1.dev ∧ hd.dst.val
      = ownFa n1.dev ∧ received n1.dev hd.arrival = true ∧ headReachable n1.dev hd.head.val = true ∧ isMaster
      ({ (noteTaken n1.dev hd.arrival 7) with partners := List.filter (fun o => o.fa != ↑(rec 200 1).fa) n1.dev.partners ++ [({ fa := ↑(rec 200 1).fa, verMin := (rec 200 1).verMin, verMax := (rec 200 1).verMax, edition := (rec 200 1).edition, flags := (rec 200 1).flags, capacity := (rec 200 1).capacity, identity := (rec 200 1).identity, models := (rec 200 1).models, heard := n1.dev.tally, aqd := hd.head.val * 8 + (Option.map Fin.val hd.link).getD 0 } : Partner)] }
      : Dev) = true ∧ List.filter (fun p => p.fa != ownFa n1.dev && p.fa != ↑(rec 200 1).fa) (precinct
      ({ (noteTaken n1.dev hd.arrival 7) with partners := List.filter (fun o => o.fa != ↑(rec 200 1).fa) n1.dev.partners ++ [({ fa := ↑(rec 200 1).fa, verMin := (rec 200 1).verMin, verMax := (rec 200 1).verMax, edition := (rec 200 1).edition, flags := (rec 200 1).flags, capacity := (rec 200 1).capacity, identity := (rec 200 1).identity, models := (rec 200 1).models, heard := n1.dev.tally, aqd := hd.head.val * 8 + (Option.map Fin.val hd.link).getD 0 } : Partner)] }
      : Dev)) = []) ∧ (powered (n2 [pt 73 0]).dev = true ∧ (rec 200 1).wellFormed = true ∧ ↑(rec 200 1).fa ≠ ownFa (n2
      [pt 73 0]).dev ∧ hd.dst.val = ownFa (n2 [pt 73 0]).dev ∧ received (n2 [pt 73 0]).dev hd.arrival = true ∧ headReachable
      (n2 [pt 73 0]).dev hd.head.val = true ∧ isMaster
      ({ (noteTaken (n2 [pt 73 0]).dev hd.arrival 7) with partners := List.filter (fun o => o.fa != ↑(rec 200 1).fa) (n2 [pt 73 0]).dev.partners ++ [({ fa := ↑(rec 200 1).fa, verMin := (rec 200 1).verMin, verMax := (rec 200 1).verMax, edition := (rec 200 1).edition, flags := (rec 200 1).flags, capacity := (rec 200 1).capacity, identity := (rec 200 1).identity, models := (rec 200 1).models, heard := (n2 [pt 73 0]).dev.tally, aqd := hd.head.val * 8 + (Option.map Fin.val hd.link).getD 0 } : Partner)] }
      : Dev) = true ∧ List.filter (fun p => p.fa != ownFa (n2 [pt 73 0]).dev && p.fa != ↑(rec 200 1).fa) (precinct
      ({ (noteTaken (n2 [pt 73 0]).dev hd.arrival 7) with partners := List.filter (fun o => o.fa != ↑(rec 200 1).fa) (n2 [pt 73 0]).dev.partners ++ [({ fa := ↑(rec 200 1).fa, verMin := (rec 200 1).verMin, verMax := (rec 200 1).verMax, edition := (rec 200 1).edition, flags := (rec 200 1).flags, capacity := (rec 200 1).capacity, identity := (rec 200 1).identity, models := (rec 200 1).models, heard := (n2 [pt 73 0]).dev.tally, aqd := hd.head.val * 8 + (Option.map Fin.val hd.link).getD 0 } : Partner)] }
      : Dev)) = [pt 73 0]) := by
  decide +kernel

/-- Obligations.RostersComplete: its premises on rosterPublish hold together. -/
theorem witness_RostersComplete_rosterPublish :
    (powered (n2 [pt 73 1]).dev = true ∧ isMaster (n2 [pt 73 1]).dev = false ∧ (∀ (x : Nat × Model), x ∈ (n2
      [pt 73 1]).dev.srv.models → x.snd.staged = none)) ∧ (powered (n2 [pt 73 0]).dev = true ∧ isMaster (n2 [pt 73 0]).dev =
      true ∧ (n2 [pt 73 0]).dev.groups = [] ∧ (∀ (x : Nat × Model), x ∈ (n2 [pt 73 0]).dev.srv.models → x.snd.staged =
      none)) ∧ (powered (n2 [pt 73 0]).dev = true ∧ isMaster (n2 [pt 73 0]).dev = true ∧ (n2 [pt 73 0]).dev.groups = [] ∧ (∀
      (x : Nat × Model), x ∈ (n2 [pt 73 0]).dev.srv.models → x.snd.staged = none) ∧ List.map Partner.fa (List.filter (fun p
      => p.fa != ownFa (n2 [pt 73 0]).dev) (precinct (n2 [pt 73 0]).dev)) ++ otherMasters (n2 [pt 73 0]).dev = [73]) := by
  decide +kernel

/-- Obligations.RostersComplete: its premises on rosterReceive hold together. -/
theorem witness_RostersComplete_rosterReceive :
    (powered (n2 [pt 73 0]).dev = true ∧ (∀ (r : DiscoveryRecord), r ∈ [rec 64 0, rec 77 1, rec 80 1] → r.wellFormed =
      true) ∧ hd.dst.val = ownFa (n2 [pt 73 0]).dev ∧ received (n2 [pt 73 0]).dev hd.arrival = true ∧ headReachable (n2
      [pt 73 0]).dev hd.head.val = true ∧ (n2 [pt 73 0]).dev.groups = [] ∧ (∀ (x : Nat × Model), x ∈ (n2
      [pt 73 0]).dev.srv.models → x.snd.staged = none)) ∧ (powered (n2 [pt 73 0]).dev = true ∧ (∀ (r : DiscoveryRecord), r ∈
      [rec 64 0, rec 77 1, rec 80 1] → r.wellFormed = true) ∧ ↑({ hd with src := 200 } : FrameHdr).dst = ownFa (n2
      [pt 73 0]).dev ∧ received (n2 [pt 73 0]).dev ({ hd with src := 200 } : FrameHdr).arrival = true ∧ headReachable (n2
      [pt 73 0]).dev ↑({ hd with src := 200 } : FrameHdr).head = true ∧ (n2 [pt 73 0]).dev.groups = [] ∧ (∀ (x : Nat ×
      Model), x ∈ (n2 [pt 73 0]).dev.srv.models → x.snd.staged = none)) := by
  decide +kernel

/-- Obligations.RostersComplete: its premises on partnerSilent hold together. -/
theorem witness_RostersComplete_partnerSilent :
    (powered (n2 [pt 73 0]).dev = true ∧ List.find? (fun p => p.fa == 73) (n2 [pt 73 0]).dev.partners = some (pt 73 0) ∧
      (pt 73 0).heard + 18750000 ≤ (n2 [pt 73 0]).dev.tally ∧ (n2 [pt 73 0]).dev.groups = [] ∧ (∀ (x : Nat × Model), x ∈ (n2
      [pt 73 0]).dev.srv.models → x.snd.staged = none) ∧ (∀ (x : Nat × Slot), x ∈ (n2 [pt 73 0]).dev.srv.slots → x.snd.state
      ≠ SlotState.ending ∧ ∀ (h : Holder), h ∈ x.snd.holders → h.fa ≠ 73 ∧ h.refused = false)) ∧ (powered (n2 [p9]).dev =
      true ∧ List.find? (fun p => p.fa == 73) (n2 [p9]).dev.partners = some p9 ∧ (n2 [p9]).dev.tally < p9.heard + 18750000 ∧
      (∀ (x : Nat × Model), x ∈ (n2 [p9]).dev.srv.models → x.snd.staged = none)) := by
  decide +kernel

/-- Obligations.GroupsComplete: its premises on groupForm hold together. -/
theorem witness_GroupsComplete_groupForm_1 :
    (powered (n2 [pt 73 1]).dev = true ∧ 6 < 65536 ∧ 1 < 65536 ∧ isMaster (n2 [pt 73 1]).dev = false) ∧ (powered (n2
      [pt 73 0]).dev = true ∧ 6 < 65536 ∧ 1 < 65536 ∧ (∃ x, x ∈ List.map Fin.val ([77, 3] : List (Fin 65536)) ∧ x / 64 <
      ownFa (n2 [pt 73 0]).dev / 64)) ∧ (powered (n2 [pt 73 0]).dev = true ∧ 6 < 65536 ∧ 1 < 65536 ∧ (∀ (x : Nat), x ∈
      List.map Fin.val ([3000, 3001] : List (Fin 65536)) → x / 64 ≠ ownFa (n2 [pt 73 0]).dev / 64)) ∧ (powered (n2
      [pt 73 0]).dev = true ∧ 6 < 65536 ∧ 2 < 65536 ∧ isMaster (n2 [pt 73 0]).dev = true ∧ (∀ (x : Nat), x ∈ List.map
      Fin.val ([73, 77] : List (Fin 65536)) → ownFa (n2 [pt 73 0]).dev / 64 ≤ x / 64) ∧ ownFa (n2 [pt 73 0]).dev ∈ List.map
      Fin.val ([73, 77] : List (Fin 65536)) ∧ List.filter (fun m => m != ownFa (n2 [pt 73 0]).dev) (List.map Fin.val
      ([73, 77] : List (Fin 65536))) ≠ [] ∧ List.filter (fun m => m != ownFa (n2 [pt 73 0]).dev) (List.map Fin.val ([73, 77]
      : List (Fin 65536))) = [73]) := by
  decide +kernel

/-- Obligations.GroupsComplete: its premises on groupForm hold together. -/
theorem witness_GroupsComplete_groupForm_2 :
    (powered (n2 [pt 73 0]).dev = true ∧ 6 < 65536 ∧ 2 < 65536 ∧ isMaster (n2 [pt 73 0]).dev = true ∧ (∀ (x : Nat), x ∈
      List.map Fin.val ([73, 77] : List (Fin 65536)) → ownFa (n2 [pt 73 0]).dev / 64 ≤ x / 64) ∧ ownFa (n2 [pt 73 0]).dev ∈
      List.map Fin.val ([73, 77] : List (Fin 65536)) ∧ List.filter (fun m => m != ownFa (n2 [pt 73 0]).dev) (List.map
      Fin.val ([73, 77] : List (Fin 65536))) ≠ []) ∧ (powered (n2 [pt 73 0]).dev = true ∧ 6 < 65536 ∧ fget on.dev (ctl
      R.DIE_EDITION 0 0) F.DIE_EDITION_EDITION < 65536 ∧ isMaster (n2 [pt 73 0]).dev = true ∧ (∀ (x : Nat), x ∈ List.map
      Fin.val ([73, 77] : List (Fin 65536)) → ownFa (n2 [pt 73 0]).dev / 64 ≤ x / 64) ∧ ownFa (n2 [pt 73 0]).dev ∈ List.map
      Fin.val ([73, 77] : List (Fin 65536)) ∧ List.filter (fun m => m != ownFa (n2 [pt 73 0]).dev) (List.map Fin.val
      ([73, 77] : List (Fin 65536))) ≠ []) ∧ (powered (n2 [pt 73 0]).dev = true ∧ 6 < 65536 ∧ fget on.dev (ctl R.DIE_EDITION
      0 0) F.DIE_EDITION_EDITION < 65536 ∧ isMaster (n2 [pt 73 0]).dev = true ∧ (∀ (x : Nat), x ∈ List.map Fin.val ([73, 77]
      : List (Fin 65536)) → ownFa (n2 [pt 73 0]).dev / 64 ≤ x / 64) ∧ ownFa (n2 [pt 73 0]).dev ∈ List.map Fin.val ([73, 77]
      : List (Fin 65536)) ∧ List.filter (fun m => m != ownFa (n2 [pt 73 0]).dev) (List.map Fin.val ([73, 77] : List (Fin
      65536))) ≠ [] ∧ List.filter (fun m => m != ownFa (n2 [pt 73 0]).dev) (List.map Fin.val ([73, 77] : List (Fin 65536)))
      = [73]) := by
  decide +kernel

/-- Obligations.GroupsComplete: its premises on groupForm hold together. -/
theorem witness_GroupsComplete_groupForm_3 :
    powered sg.dev = true ∧ 6 < 65536 ∧ 5 < 65536 ∧ 1 < 65536 ∧ hd.dst.val = ownFa sg.dev ∧ received sg.dev hd.arrival =
      true ∧ headReachable sg.dev hd.head.val = true := by
  decide +kernel

/-- Obligations.GroupsComplete: its premises on groupJoin hold together. -/
theorem witness_GroupsComplete_groupJoin_1 :
    (powered sx1.dev = true ∧ hd.dst.val = ownFa sx1.dev ∧ received sx1.dev hd.arrival = true ∧ headReachable sx1.dev
      hd.head.val = true ∧ groupOf sx1.dev 6 = some ({ g1 with members := [73, 74, 77] } : Group) ∧
      ({ g1 with members := [73, 74, 77] } : Group).gen = 4 ∧ ({ g1 with members := [73, 74, 77] } : Group).committed =
      false ∧ ({ g1 with members := [73, 74, 77] } : Group).master = ownFa sx1.dev ∧ hd.src.val ∈
      ({ g1 with members := [73, 74, 77] } : Group).members ∧ 1 = ({ g1 with members := [73, 74, 77] } : Group).edition ∧
      (¬∀ (m : Nat), m ∈ ({ g1 with members := [73, 74, 77] } : Group).members → ∃ j, j ∈ List.filter (fun j => j.fst !=
      hd.src.val) ({ g1 with members := [73, 74, 77] } : Group).joined ++ [(hd.src.val, 2, 3)] ∧ j.fst = m)) ∧ (powered (s6
      g1).dev = true ∧ hd.dst.val = ownFa (s6 g1).dev ∧ received (s6 g1).dev hd.arrival = true ∧ headReachable (s6 g1).dev
      hd.head.val = true ∧ groupOf (s6 g1).dev 6 = some g1 ∧ g1.gen = 4 ∧ g1.committed = false ∧ g1.master = ownFa (s6
      g1).dev ∧ hd.src.val ∈ g1.members ∧ 1 = g1.edition ∧ (∀ (m : Nat), m ∈ g1.members → ∃ j, j ∈ List.filter (fun j =>
      j.fst != hd.src.val) g1.joined ++ [(hd.src.val, 2, 3)] ∧ j.fst = m)) := by
  decide +kernel

/-- Obligations.GroupsComplete: its premises on groupJoin hold together. -/
theorem witness_GroupsComplete_groupJoin_2 :
    powered sx2.dev = true ∧ hd.dst.val = ownFa sx2.dev ∧ received sx2.dev hd.arrival = true ∧ headReachable sx2.dev
      hd.head.val = true ∧ groupOf sx2.dev 6 = some ({ g1 with members := [73, 74, 77] } : Group) ∧
      ({ g1 with members := [73, 74, 77] } : Group).gen = 4 ∧ ({ g1 with members := [73, 74, 77] } : Group).committed =
      false ∧ ({ g1 with members := [73, 74, 77] } : Group).master = ownFa sx2.dev ∧ hd.src.val ∈
      ({ g1 with members := [73, 74, 77] } : Group).members ∧ 9 ≠ ({ g1 with members := [73, 74, 77] } : Group).edition ∧ (∃
      m, m ∈ ({ g1 with members := [73, 74, 77] } : Group).members ∧ m ≠ hd.src.val ∧ ∀ (j : Nat × Nat × Nat), j ∈
      ({ g1 with members := [73, 74, 77] } : Group).joined → j.fst ≠ m) := by
  decide +kernel

/-- Obligations.GroupsComplete: its premises on groupCommit hold together. -/
theorem witness_GroupsComplete_groupCommit :
    (powered sx3.dev = true ∧ hd.dst.val = ownFa sx3.dev ∧ received sx3.dev hd.arrival = true ∧ headReachable sx3.dev
      hd.head.val = true ∧ groupOf sx3.dev 6 = some ({ g1 with members := [73, 74, 77] } : Group) ∧
      ({ g1 with members := [73, 74, 77] } : Group).gen = 4 ∧ ownFa sx3.dev ∈ List.map Fin.val ([73, 77] : List (Fin
      65536))) ∧ (powered sx4.dev = true ∧ hd.dst.val = ownFa sx4.dev ∧ received sx4.dev hd.arrival = true ∧ headReachable
      sx4.dev hd.head.val = true ∧ groupOf sx4.dev 6 = some ({ g1 with members := [73, 74, 77] } : Group) ∧
      ({ g1 with members := [73, 74, 77] } : Group).gen = 4 ∧ (¬ownFa sx4.dev ∈ List.map Fin.val ([73, 70] : List (Fin
      65536)))) := by
  decide +kernel

/-- Obligations.BarriersComplete: its premises on arrive hold together. -/
theorem witness_BarriersComplete_arrive_1 :
    (powered (bs id).dev = true ∧ (bs id).dev.barEvents = [] ∧ xb.dst.val = ownFa (bs id).dev ∧ xb.die.val = 56 + 2 ∧
      received (bs id).dev xb.arrival = true ∧ headReachable (bs id).dev xb.head.val = true ∧ (¬(flag (bs id).dev (barReg
      R.GAT_BAR_CTRL 2 5) F.GAT_BAR_CTRL_VALID = true ∧ fget (bs id).dev (barReg R.GAT_BAR_PARENT 2 5)
      F.GAT_BAR_PARENT_GROUP = 6 ∧ fget (bs id).dev (barReg R.GAT_BAR_STATE 2 5) F.GAT_BAR_STATE_GGEN = 5))) ∧ (powered (bs
      id).dev = true ∧ (bs id).dev.barEvents = [] ∧ xb.dst.val = ownFa (bs id).dev ∧ xb.die.val = 56 + 2 ∧ received (bs
      id).dev xb.arrival = true ∧ headReachable (bs id).dev xb.head.val = true ∧ (flag (bs id).dev (barReg R.GAT_BAR_CTRL 2
      5) F.GAT_BAR_CTRL_VALID = true ∧ fget (bs id).dev (barReg R.GAT_BAR_PARENT 2 5) F.GAT_BAR_PARENT_GROUP = 6 ∧ fget (bs
      id).dev (barReg R.GAT_BAR_STATE 2 5) F.GAT_BAR_STATE_GGEN = 4) ∧ 65534 ≠ fget (bs id).dev (barReg R.GAT_BAR_STATE 2 5)
      F.GAT_BAR_STATE_SEQ ∧ 65534 ≠ (fget (bs id).dev (barReg R.GAT_BAR_STATE 2 5) F.GAT_BAR_STATE_SEQ + 1) % 65536) := by
  decide +kernel

/-- Obligations.BarriersComplete: its premises on arrive hold together. -/
theorem witness_BarriersComplete_arrive_2 :
    (powered (bs one).dev = true ∧ (bs one).dev.barEvents = [] ∧ ↑({ xb with stamp := 80 } : ExpressHdr).dst = ownFa (bs
      one).dev ∧ ↑({ xb with stamp := 80 } : ExpressHdr).die = 56 + 2 ∧ received (bs one).dev ({ xb with stamp := 80 } :
      ExpressHdr).arrival = true ∧ headReachable (bs one).dev ↑({ xb with stamp := 80 } : ExpressHdr).head = true ∧ (flag
      (bs one).dev (barReg R.GAT_BAR_CTRL 2 5) F.GAT_BAR_CTRL_VALID = true ∧ fget (bs one).dev (barReg R.GAT_BAR_PARENT 2 5)
      F.GAT_BAR_PARENT_GROUP = 6 ∧ fget (bs one).dev (barReg R.GAT_BAR_STATE 2 5) F.GAT_BAR_STATE_GGEN = 4) ∧ 65535 = fget
      (bs one).dev (barReg R.GAT_BAR_STATE 2 5) F.GAT_BAR_STATE_SEQ ∧ ({ xb with stamp := 80 } : ExpressHdr).stamp.toNat %
      65536 ∈ (barSlot (bs one).dev 2 5).cur) ∧ (powered (bs one).dev = true ∧ (bs one).dev.barEvents = [] ∧
      ↑({ xb with stamp := 81 } : ExpressHdr).dst = ownFa (bs one).dev ∧ ↑({ xb with stamp := 81 } : ExpressHdr).die = 56 +
      2 ∧ received (bs one).dev ({ xb with stamp := 81 } : ExpressHdr).arrival = true ∧ headReachable (bs one).dev
      ↑({ xb with stamp := 81 } : ExpressHdr).head = true ∧ (flag (bs one).dev (barReg R.GAT_BAR_CTRL 2 5)
      F.GAT_BAR_CTRL_VALID = true ∧ fget (bs one).dev (barReg R.GAT_BAR_PARENT 2 5) F.GAT_BAR_PARENT_GROUP = 6 ∧ fget (bs
      one).dev (barReg R.GAT_BAR_STATE 2 5) F.GAT_BAR_STATE_GGEN = 4) ∧ 0 = (fget (bs one).dev (barReg R.GAT_BAR_STATE 2 5)
      F.GAT_BAR_STATE_SEQ + 1) % 65536 ∧ ({ xb with stamp := 81 } : ExpressHdr).stamp.toNat % 65536 ∈ (barSlot (bs one).dev
      2 5).next) := by
  decide +kernel

/-- Obligations.BarriersComplete: its premises on arrive hold together. -/
theorem witness_BarriersComplete_arrive_3 :
    (powered (bs one).dev = true ∧ (bs one).dev.barEvents = [] ∧ xb.dst.val = ownFa (bs one).dev ∧ xb.die.val = 56 + 2 ∧
      received (bs one).dev xb.arrival = true ∧ headReachable (bs one).dev xb.head.val = true ∧ (flag (bs one).dev (barReg
      R.GAT_BAR_CTRL 2 5) F.GAT_BAR_CTRL_VALID = true ∧ fget (bs one).dev (barReg R.GAT_BAR_PARENT 2 5)
      F.GAT_BAR_PARENT_GROUP = 6 ∧ fget (bs one).dev (barReg R.GAT_BAR_STATE 2 5) F.GAT_BAR_STATE_GGEN = 4) ∧ 0 = (fget (bs
      one).dev (barReg R.GAT_BAR_STATE 2 5) F.GAT_BAR_STATE_SEQ + 1) % 65536 ∧ (¬xb.stamp.toNat % 65536 ∈ (barSlot (bs
      one).dev 2 5).next)) ∧ (powered (bs one).dev = true ∧ (bs one).dev.barEvents = [] ∧ xb.dst.val = ownFa (bs one).dev ∧
      xb.die.val = 56 + 2 ∧ received (bs one).dev xb.arrival = true ∧ headReachable (bs one).dev xb.head.val = true ∧ (flag
      (bs one).dev (barReg R.GAT_BAR_CTRL 2 5) F.GAT_BAR_CTRL_VALID = true ∧ fget (bs one).dev (barReg R.GAT_BAR_PARENT 2 5)
      F.GAT_BAR_PARENT_GROUP = 6 ∧ fget (bs one).dev (barReg R.GAT_BAR_STATE 2 5) F.GAT_BAR_STATE_GGEN = 4) ∧ BitVec.toNat
      (rd (bs one).dev (gateReg R.GAT_COUNT (56 + 2) (fget (bs one).dev (barReg R.GAT_BAR_CTRL 2 5)
      F.GAT_BAR_CTRL_ARRIVE_GATE))) < BitVec.toNat (rd (bs one).dev (gateReg R.GAT_THRESH (56 + 2) (fget (bs one).dev
      (barReg R.GAT_BAR_CTRL 2 5) F.GAT_BAR_CTRL_ARRIVE_GATE))) ∧ 65535 = fget (bs one).dev (barReg R.GAT_BAR_STATE 2 5)
      F.GAT_BAR_STATE_SEQ ∧ (¬xb.stamp.toNat % 65536 ∈ (barSlot (bs one).dev 2 5).cur) ∧ (¬(flag (bs one).dev (barReg
      R.GAT_BAR_ARRIVED 2 5) F.GAT_BAR_ARRIVED_LOCAL = true ∧ min 141 (fget (bs one).dev (barReg R.GAT_BAR_CTRL 2 5)
      F.GAT_BAR_CTRL_CHILDREN) ≤ (barSlot (bs one).dev 2 5).cur.length + 1))) := by
  decide +kernel

/-- Obligations.BarriersComplete: its premises on arrive hold together. -/
theorem witness_BarriersComplete_arrive_4 :
    powered (bs (loc ∘ one)).dev = true ∧ (bs (loc ∘ one)).dev.barEvents = [] ∧ xb.dst.val = ownFa (bs (loc ∘ one)).dev ∧
      xb.die.val = 56 + 2 ∧ received (bs (loc ∘ one)).dev xb.arrival = true ∧ headReachable (bs (loc ∘ one)).dev xb.head.val
      = true ∧ (flag (bs (loc ∘ one)).dev (barReg R.GAT_BAR_CTRL 2 5) F.GAT_BAR_CTRL_VALID = true ∧ fget (bs (loc ∘
      one)).dev (barReg R.GAT_BAR_PARENT 2 5) F.GAT_BAR_PARENT_GROUP = 6 ∧ fget (bs (loc ∘ one)).dev (barReg R.GAT_BAR_STATE
      2 5) F.GAT_BAR_STATE_GGEN = 4) ∧ BitVec.toNat (rd (bs (loc ∘ one)).dev (gateReg R.GAT_COUNT (56 + 2) (fget (bs (loc ∘
      one)).dev (barReg R.GAT_BAR_CTRL 2 5) F.GAT_BAR_CTRL_ARRIVE_GATE))) < BitVec.toNat (rd (bs (loc ∘ one)).dev (gateReg
      R.GAT_THRESH (56 + 2) (fget (bs (loc ∘ one)).dev (barReg R.GAT_BAR_CTRL 2 5) F.GAT_BAR_CTRL_ARRIVE_GATE))) ∧ 65535 =
      fget (bs (loc ∘ one)).dev (barReg R.GAT_BAR_STATE 2 5) F.GAT_BAR_STATE_SEQ ∧ (¬xb.stamp.toNat % 65536 ∈ (barSlot (bs
      (loc ∘ one)).dev 2 5).cur) ∧ (flag (bs (loc ∘ one)).dev (barReg R.GAT_BAR_ARRIVED 2 5) F.GAT_BAR_ARRIVED_LOCAL = true
      ∧ min 141 (fget (bs (loc ∘ one)).dev (barReg R.GAT_BAR_CTRL 2 5) F.GAT_BAR_CTRL_CHILDREN) ≤ (barSlot (bs (loc ∘
      one)).dev 2 5).cur.length + 1) ∧ flag (bs (loc ∘ one)).dev (barReg R.GAT_BAR_CTRL 2 5) F.GAT_BAR_CTRL_ROOT = false ∧
      flag (bs (loc ∘ one)).dev (barReg R.GAT_BAR_ARRIVED 2 5) F.GAT_BAR_ARRIVED_SENT = false := by
  decide +kernel

/-- Obligations.BarriersComplete: its premises on arrive hold together. -/
theorem witness_BarriersComplete_arrive_5 :
    powered (bs (root ∘ loc ∘ one)).dev = true ∧ (bs (root ∘ loc ∘ one)).dev.barEvents = [] ∧ xb.dst.val = ownFa (bs (root
      ∘ loc ∘ one)).dev ∧ xb.die.val = 56 + 2 ∧ received (bs (root ∘ loc ∘ one)).dev xb.arrival = true ∧ headReachable (bs
      (root ∘ loc ∘ one)).dev xb.head.val = true ∧ (flag (bs (root ∘ loc ∘ one)).dev (barReg R.GAT_BAR_CTRL 2 5)
      F.GAT_BAR_CTRL_VALID = true ∧ fget (bs (root ∘ loc ∘ one)).dev (barReg R.GAT_BAR_PARENT 2 5) F.GAT_BAR_PARENT_GROUP =
      6 ∧ fget (bs (root ∘ loc ∘ one)).dev (barReg R.GAT_BAR_STATE 2 5) F.GAT_BAR_STATE_GGEN = 4) ∧ BitVec.toNat (rd (bs
      (root ∘ loc ∘ one)).dev (gateReg R.GAT_COUNT (56 + 2) (fget (bs (root ∘ loc ∘ one)).dev (barReg R.GAT_BAR_CTRL 2 5)
      F.GAT_BAR_CTRL_ARRIVE_GATE))) < BitVec.toNat (rd (bs (root ∘ loc ∘ one)).dev (gateReg R.GAT_THRESH (56 + 2) (fget (bs
      (root ∘ loc ∘ one)).dev (barReg R.GAT_BAR_CTRL 2 5) F.GAT_BAR_CTRL_ARRIVE_GATE))) ∧ 65535 = fget (bs (root ∘ loc ∘
      one)).dev (barReg R.GAT_BAR_STATE 2 5) F.GAT_BAR_STATE_SEQ ∧ (¬xb.stamp.toNat % 65536 ∈ (barSlot (bs (root ∘ loc ∘
      one)).dev 2 5).cur) ∧ (flag (bs (root ∘ loc ∘ one)).dev (barReg R.GAT_BAR_ARRIVED 2 5) F.GAT_BAR_ARRIVED_LOCAL = true
      ∧ min 141 (fget (bs (root ∘ loc ∘ one)).dev (barReg R.GAT_BAR_CTRL 2 5) F.GAT_BAR_CTRL_CHILDREN) ≤ (barSlot (bs (root
      ∘ loc ∘ one)).dev 2 5).cur.length + 1) ∧ flag (bs (root ∘ loc ∘ one)).dev (barReg R.GAT_BAR_CTRL 2 5)
      F.GAT_BAR_CTRL_ROOT = true ∧ (bs (root ∘ loc ∘ one)).dev.snaps = [] ∧ bit (BitVec.toNat (rd (bs (root ∘ loc ∘
      one)).dev (barReg R.GAT_BAR_PAYLOAD 2 5)) ||| ((barSlot (bs (root ∘ loc ∘ one)).dev 2 5).curPay ||| 2049)) 1 = false ∧
      (barSlot (bs (root ∘ loc ∘ one)).dev 2 5).curPay < 4294967296 := by
  decide +kernel

/-- Obligations.BarriersComplete: its premises on release hold together. -/
theorem witness_BarriersComplete_release :
    (powered (bs id).dev = true ∧ (bs id).dev.barEvents = [] ∧ xb.dst.val = ownFa (bs id).dev ∧ xb.die.val = 56 + 2 ∧
      received (bs id).dev xb.arrival = true ∧ headReachable (bs id).dev xb.head.val = true ∧ (flag (bs id).dev (barReg
      R.GAT_BAR_CTRL 2 5) F.GAT_BAR_CTRL_VALID = true ∧ fget (bs id).dev (barReg R.GAT_BAR_PARENT 2 5)
      F.GAT_BAR_PARENT_GROUP = 6 ∧ fget (bs id).dev (barReg R.GAT_BAR_STATE 2 5) F.GAT_BAR_STATE_GGEN = 4) ∧ 65534 ≠ fget
      (bs id).dev (barReg R.GAT_BAR_STATE 2 5) F.GAT_BAR_STATE_SEQ) ∧ (powered (bs (loc ∘ one)).dev = true ∧ (bs (loc ∘
      one)).dev.barEvents = [] ∧ xb.dst.val = ownFa (bs (loc ∘ one)).dev ∧ xb.die.val = 56 + 2 ∧ received (bs (loc ∘
      one)).dev xb.arrival = true ∧ headReachable (bs (loc ∘ one)).dev xb.head.val = true ∧ (flag (bs (loc ∘ one)).dev
      (barReg R.GAT_BAR_CTRL 2 5) F.GAT_BAR_CTRL_VALID = true ∧ fget (bs (loc ∘ one)).dev (barReg R.GAT_BAR_PARENT 2 5)
      F.GAT_BAR_PARENT_GROUP = 6 ∧ fget (bs (loc ∘ one)).dev (barReg R.GAT_BAR_STATE 2 5) F.GAT_BAR_STATE_GGEN = 4) ∧
      BitVec.toNat (rd (bs (loc ∘ one)).dev (gateReg R.GAT_COUNT (56 + 2) (fget (bs (loc ∘ one)).dev (barReg R.GAT_BAR_CTRL
      2 5) F.GAT_BAR_CTRL_ARRIVE_GATE))) < BitVec.toNat (rd (bs (loc ∘ one)).dev (gateReg R.GAT_THRESH (56 + 2) (fget (bs
      (loc ∘ one)).dev (barReg R.GAT_BAR_CTRL 2 5) F.GAT_BAR_CTRL_ARRIVE_GATE))) ∧ 65535 = fget (bs (loc ∘ one)).dev (barReg
      R.GAT_BAR_STATE 2 5) F.GAT_BAR_STATE_SEQ ∧ (bs (loc ∘ one)).dev.snaps = [] ∧ bit (2049) 1 = false) := by
  decide +kernel

/-- Obligations.BarriersComplete: its premises on barrierGenerationWrite hold together. -/
theorem witness_BarriersComplete_barrierGenerationWrite :
    powered (bs (loc ∘ one)).dev = true ∧ (bs (loc ∘ one)).dev.barEvents = [] ∧ xb.dst.val = ownFa (bs (loc ∘ one)).dev ∧
      xb.die.val = 56 + 2 ∧ received (bs (loc ∘ one)).dev xb.arrival = true ∧ headReachable (bs (loc ∘ one)).dev xb.head.val
      = true ∧ MayWrite (bs (loc ∘ one)).dev mp (barReg R.GAT_BAR_STATE 2 5) ∧ flag (bs (loc ∘ one)).dev (barReg
      R.GAT_BAR_CTRL 2 5) F.GAT_BAR_CTRL_VALID = true ∧ (bs (loc ∘ one)).dev.snaps = [] ∧ BitVec.toNat (rd (bs (loc ∘
      one)).dev (gateReg R.GAT_COUNT (56 + 2) (fget (bs (loc ∘ one)).dev (barReg R.GAT_BAR_CTRL 2 5)
      F.GAT_BAR_CTRL_ARRIVE_GATE))) < BitVec.toNat (rd (bs (loc ∘ one)).dev (gateReg R.GAT_THRESH (56 + 2) (fget (bs (loc ∘
      one)).dev (barReg R.GAT_BAR_CTRL 2 5) F.GAT_BAR_CTRL_ARRIVE_GATE))) := by
  decide +kernel

/-- Obligations.BarriersComplete: its premises on snapshotDrainDone hold together. -/
theorem witness_BarriersComplete_snapshotDrainDone :
    (powered (bs (dr false)).dev = true ∧ (bs (dr false)).dev.barEvents = [] ∧ xb.dst.val = ownFa (bs (dr false)).dev ∧
      xb.die.val = 56 + 2 ∧ received (bs (dr false)).dev xb.arrival = true ∧ headReachable (bs (dr false)).dev xb.head.val =
      true ∧ (∀ (y : Snapshot), y ∈ (bs (dr false)).dev.snaps → ∀ (t : Nat), y.phase = SnapPhase.draining t → drained (bs
      (dr false)).dev y.group = false)) ∧ (powered (bs (dr true)).dev = true ∧ (bs (dr true)).dev.barEvents = [] ∧
      xb.dst.val = ownFa (bs (dr true)).dev ∧ xb.die.val = 56 + 2 ∧ received (bs (dr true)).dev xb.arrival = true ∧
      headReachable (bs (dr true)).dev xb.head.val = true ∧ (bs (dr true)).dev.snaps = [sn] ∧ sn.slot = 2 * 64 + 5 ∧
      sn.phase = SnapPhase.draining 0 ∧ (BitVec.toNat (rd (bs (dr true)).dev (gateReg R.GAT_COUNT (56 + 2) (fget (bs (dr
      true)).dev (barReg R.GAT_BAR_CTRL 2 5) F.GAT_BAR_CTRL_ARRIVE_GATE))) + 1 < BitVec.toNat (rd (bs (dr true)).dev
      (gateReg R.GAT_THRESH (56 + 2) (fget (bs (dr true)).dev (barReg R.GAT_BAR_CTRL 2 5) F.GAT_BAR_CTRL_ARRIVE_GATE))) ∧ ∀
      (i : Nat), i < 64 → flag (bs (dr true)).dev (barReg R.GAT_BAR_ARRIVED (2) i) F.GAT_BAR_ARRIVED_LOCAL = false) ∧
      drained (bs (dr true)).dev sn.group = true) := by
  and_intros <;> first | decide +kernel | (intro y hy t ht; have e : (bs (dr false)).dev.snaps = [sn] := by decide +kernel
                                           rw [e, List.mem_singleton] at hy; subst hy; decide +kernel)

/-- Obligations.BarriersComplete: its premises on snapshotDrainTimeout hold together. -/
theorem witness_BarriersComplete_snapshotDrainTimeout :
    (powered sx5.dev = true ∧ sx5.dev.barEvents = [] ∧ xb.dst.val = ownFa sx5.dev ∧ xb.die.val = 56 + 2 ∧ received sx5.dev
      xb.arrival = true ∧ headReachable sx5.dev xb.head.val = true ∧ sx5.dev.snaps = [sn] ∧ sn.slot = 2 * 64 + 5 ∧ sn.phase
      = SnapPhase.draining 0 ∧ (¬drained sx5.dev sn.group = true) ∧ sx5.dev.tally < 0 + 625 * max 1 (fget sx5.dev (ctl
      R.AQD_TXN_TIMEOUT (56 + 2) 9) F.AQD_TXN_TIMEOUT_US)) ∧ (powered (bs (dr false)).dev = true ∧ (bs (dr
      false)).dev.barEvents = [] ∧ xb.dst.val = ownFa (bs (dr false)).dev ∧ xb.die.val = 56 + 2 ∧ received (bs (dr
      false)).dev xb.arrival = true ∧ headReachable (bs (dr false)).dev xb.head.val = true ∧ (bs (dr false)).dev.snaps =
      [sn] ∧ sn.slot = 2 * 64 + 5 ∧ sn.phase = SnapPhase.draining 0 ∧ (BitVec.toNat (rd (bs (dr false)).dev (gateReg
      R.GAT_COUNT (56 + 2) (fget (bs (dr false)).dev (barReg R.GAT_BAR_CTRL 2 5) F.GAT_BAR_CTRL_ARRIVE_GATE))) + 1 <
      BitVec.toNat (rd (bs (dr false)).dev (gateReg R.GAT_THRESH (56 + 2) (fget (bs (dr false)).dev (barReg R.GAT_BAR_CTRL 2
      5) F.GAT_BAR_CTRL_ARRIVE_GATE))) ∧ ∀ (i : Nat), i < 64 → flag (bs (dr false)).dev (barReg R.GAT_BAR_ARRIVED (2) i)
      F.GAT_BAR_ARRIVED_LOCAL = false) ∧ (¬drained (bs (dr false)).dev sn.group = true) ∧ 0 + 625 * max 1 (fget (bs (dr
      false)).dev (ctl R.AQD_TXN_TIMEOUT (56 + 2) 9) F.AQD_TXN_TIMEOUT_US) ≤ (bs (dr false)).dev.tally) := by
  decide +kernel

end W13

namespace W14

def le (n v : Nat) : List Byte := leBytes n v
/-- request record: model 0, no text, MAX_TOKENS 5, payload two tokens 1, 2 -/
def recB (flags conv : Nat) (payload : List Byte) : List Byte := le 4 0x5152545A ++ le 2 1 ++ le 1 0 ++ le 1 flags ++ le 8 77 ++ le 16 conv ++ le 4 5 ++ le 4 1000 ++ le 4 60 ++ le 8 9 ++ List.replicate 32 0 ++ le 2 0 ++ le 2 0 ++ le 4 payload.length ++ List.replicate 36 0 ++ payload
def tokMan : Manifest := {edition := 1, modelId := 5, epoch := 3, slices := 1, sources := [], shards := [{offset := 0, length := 1000, source := 0, kind := 3, slice := 0, tenant := 0, placeFirst := 0, placeCount := 1, digest := []}], placements := [7], prevEpoch := 0}
def ep : EpochRec := {epoch := 3, modelId := 5, digest := [], manifest := tokMan, slice := 0, stages := []}
def srvD (quota : Nat) (f : Serving → Serving) (d : Dev) : Dev :=
  let d := fsets d (aqdReg R.AQD_STATUS 19) [(F.AQD_STATUS_UP, 1), (F.AQD_STATUS_MODE_ACTIVE, 1)]
  let d := fset (fset (fset (netD d) (modelReg R.SRV_MT_CTRL 0) F.SRV_MT_CTRL_VALID 1) (modelReg R.SRV_MT_LOAD 0) F.SRV_MT_LOAD_STATE 3) (srvReg R.SRV_CTRL) F.SRV_CTRL_ADMIT quota
  {d with tally := 1000000000, rsv := memWrite d.rsv (7*2097152) (le 6 0 ++ [0, 1] ++ le 4 100 ++ le 4 0 ++ le 4 42), srv := f {d.srv with models := [(0, {active := some ep})], tenants := [([1,2], 6)]}}
def sv (quota : Nat) (f : Serving → Serving) := wd (srvD quota f)
abbrev ch : ClientConn := .http 19 4 5 [1,2]
abbrev cf : ClientConn := .fabric {head := 2, dst := 77, src := 73} 6
def kv0 : KvShape := {}
def rb := recB 0 0 (le 4 1 ++ le 4 2)
def req0 : Req := ⟨0, false, false, false, false, 0, 0, 0, 0, 0, 0, [], [], []⟩
def rq := (parseReq rb).getD req0
def sl (f : Slot → Slot) : Slot := f {conn := .http 19 4 5, tenant := 6, model := 0, reqId := 77, maxTokens := 5, ttl := 60, tokens := [4,5], epoch := 3}
def many := sv 1 fun x => {x with slots := (List.range 1024).map fun i => (i, sl fun y => {y with conn := .http 19 4 (6 + i)})}
def sx1 : State := sv 0 fun x => {x with models := []}
def wsl (f : Slot → Slot) (g : Serving → Serving := id) := sv 1 fun x => g {x with slots := [(0, sl f)]}
def rb5 := recB 0 0 (le 4 1 ++ le 4 200)
def rq5 := (parseReq rb5).getD req0
def rb7 := recB 4 0x123 (le 4 1 ++ le 4 2)
def rq7 := (parseReq rb7).getD req0
def cv (n : Nat) : Conv := {conv := 0x123, tenant := 6, model := 0, tokens := List.replicate n 9, expiry := 2000000000, condensed := false, pinned := false, holders := [], edition := 1}
def scv (n : Nat) := sv 1 fun x => {x with convs := [cv n]}
def swt := sv 1 fun x => {x with convs := [{cv 3 with landed := false}]}
def kv1 : KvShape := {vectors := 1}
def allUp (d : Dev) : Dev := (List.range 8).foldl (fun d k => fset (fset d (ctl R.BRG_STATUS (48 + k) 0) F.BRG_STATUS_UP 1) (ctl R.RSV_STATUS (48 + k) 0) F.RSV_STATUS_READY 1) d
def skv := wd fun d => let d := allUp (srvD 1 (fun x => {x with convs := [{cv 3 with kvShape := kv1, stack := some 0, pages := [64]}]}) d); let d := (List.range 8).foldl (fun d p => wr d (pageReg p 0) 6) (wr d (pageReg 0 8) 5); {d with rsv := memWrite d.rsv (64*2097152) (List.replicate 700 9)}
def cb : List Byte := le 4 0x4E43545A ++ le 4 0 ++ le 8 77
def roomy (s : State) : State := {s with dev := allUp s.dev}
def slc : Slot → Slot := fun x => {x with conv := 0x123, kvShape := kv1}
def adm : Slot → Slot := fun x => {x with state := .admitted, conv := 0x123}
def wadm := wsl adm fun x => {x with convs := [{cv 3 with landed := false, pinned := true}]}
def infl (s : State) : State := {s with dev := {s.dev with step := {s.dev.step with running := true, number := 55, rows := [{row := 3, slot := 0, pos := 1, prefill := false, sample := true, vidx := 0, proposal := false}]}}}
def mvd : Slot → Slot := fun x => {x with gone := true, holderOf := some (73, 9)}
def sx2 : State := sv 1 fun x => {x with ended := [(6,77)]}
def fh : FrameHdr := {head := 2, dst := 77, src := 73}
def xh : ExpressHdr := {head := 2, dst := 77, stamp := 73, die := 3}
def sx3 : State := sv 1 fun x => {x with ended := [(6,77)]}
def hold : Slot := {holderOf := some (73, 9), conv := 0x44, ttl := 50, tenant := 6, reqId := 77, span := some (0, 4096)}
def shd := roomy (sv 1 fun x => {x with slots := [(4, hold)]})
def dl (t : Nat) : Slot → Slot := fun x => {x with deadline := some t}
def dla : Slot → Slot := fun x => {adm x with deadline := some 5}
def mkl (l : List (Nat × Nat)) := wb fun x => {x with maskLoads := l, seq := {x.seq with cycle := 50}}
def q1 : RowUse := {row := 3, slot := 0, pos := 1, prefill := false, sample := true, vidx := 0, proposal := false}
def cr (r : CommitRec → CommitRec) : CommitRec := r {number := 54, rows := [q1], nanRows := [], badRows := [], badAll := false}
def cs (r : CommitRec → CommitRec) (f : Slot → Slot) (tok : Nat := 8) : State :=
  let s := wsl f
  { s with dev := (fun d : Dev =>
      let x := unitBlk (blk d 3 4)
      let ps := memWrite x.ps 20 (le 2 0x8000)  -- narrow rows
      let d := setBlk (fset d (ctl R.SEQ_US_CTRL 3 4) F.SEQ_US_CTRL_VALID 1) 3 4 {x with ps}
      let d := {d with step := {d.step with commits := [cr r]}}
      match selectionUnit d with
      | some (die, b, u) => 
        let row := u.base.narrow + u.hdr.rowtab + 10256 + 0 + 1
        setBlk d die b {blk d die b with well := memWrite (blk d die b).well (rowAddr true row + 32) (le 4 tok)}
      | none => d) s.dev }
def kp : Slot → Slot := fun x => {x with keep := true, maxTokens := 1}
def cnc (t : Nat) : Slot → Slot := fun x => {x with cancel := some t}
def nn : CommitRec → CommitRec := fun r => {r with nanRows := [3]}
def bd : CommitRec → CommitRec := fun r => {r with badAll := true}
def exc := sv 1 fun x => {x with convs := [cv 3, {cv 4 with expiry := 4}, {cv 5 with conv := 8, expiry := 4}]}
def excU := wd fun d => let d := allUp exc.dev; {d with srv := {d.srv with convs := d.srv.convs.map fun c => {c with copies := [1,2]}}}
def excP := wd fun d => let d := allUp (srvD 1 (fun x => {x with convs := [{cv 3 with expiry := 4, stack := some 0, pages := [64, 72], copies := [1,2]}]}) d); wr (wr d (pageReg 0 8) 5) (pageReg 0 9) 5
def hof : Slot → Slot := fun x => {x with state := .ending}
def hd : FrameHdr := {head := 2, dst := 77, src := 73}
def hsp : HoldSpan := {first := 4096, count := 4096, tenant := 6, reqId := 7, kv := kv1, conv := 3, ttl := 9}
def hol (k : Option Nat) : Holder := {fa := 73, slot := k, first := 0, count := 4096}
def hy (k : Option Nat) (st : SlotState) : Slot → Slot := fun x => {x with holders := [hol k], state := st}
def twin (s : State) : State := {s with dev := {s.dev with partners := [{fa := 74, verMin := 2, verMax := 3, edition := fget s.dev (ctl R.DIE_EDITION 0 0) F.DIE_EDITION_EDITION, flags := 0, capacity := 0, identity := [], models := (sha512 (modelTable s.dev)).take 8, heard := s.dev.tally, aqd := 18}], roster := [74]}}
def mg : MigrateMsg := {slot := 9, tenant := 6, record := rb, tokens := [1,2,3], emitted := 1, epoch := 3, deadline := none, counts := [(2, 1)], kv := {}}
def mgk : MigrateMsg := {mg with kv := kv1, data := List.replicate (3*kv1.posBytes) 8}
def pr := wd fun d => {fset (netD d) (ctl R.HAL_REMOTE 0 4) F.HAL_REMOTE_CTL_EN 1 with roster := [73]}
def A : Word := BitVec.ofNat 32 (gateReg R.GAT_CTRL 3 16)
def rA : RegRow := (regAt A.toNat).getD ⟨0,1,32,.head,.bank0,[]⟩
theorem twins_twin (s : State) : twins (twin s).dev = [74] := by
  have h : modelTable (twin s).dev = modelTable s.dev := rfl
  simp only [twins, h]
  simp [twin]

/-- Obligations.RequestComplete: its premises on request hold together. -/
theorem witness_RequestComplete_request_1 :
    (powered (sv 1 id).dev = true ∧ ModelsSettled (sv 1 id).dev ∧ ClientConn.http 18 4 5 [1, 2] = ClientConn.http 18 4 5
      [1, 2] ∧ aqdEthernetUp (sv 1 id).dev 18 = false) ∧ (powered many.dev = true ∧ ModelsSettled many.dev ∧ ch =
      ClientConn.http 19 4 5 [1, 2] ∧ aqdEthernetUp many.dev 19 = true ∧ 1024 ≤ openStreams many.dev (19) 4) ∧ (powered (sv
      1 id).dev = true ∧ ModelsSettled (sv 1 id).dev ∧ (aqdEthernetUp (sv 1 id).dev 19 = true ∧ openStreams (sv 1 id).dev
      (19) 4 < 1024) ∧ parseReq [1, 2, 3] = none) ∧ (powered (sv 1 id).dev = true ∧ ModelsSettled (sv 1 id).dev ∧ cf =
      ClientConn.fabric ({ head := 2, dst := 77, src := 73 } : FrameHdr) 6 ∧ (↑({ head := 2, dst := 77, src := 73 } :
      FrameHdr).dst = ownFa (sv 1 id).dev ∧ received (sv 1 id).dev ({ head := 2, dst := 77, src := 73 } : FrameHdr).arrival
      = true ∧ headReachable (sv 1 id).dev ↑({ head := 2, dst := 77, src := 73 } : FrameHdr).head = true) ∧ recordWhole
      (mgetD (sv 1 id).dev.srv.intake ↑({ head := 2, dst := 77, src := 73 } : FrameHdr).src [] ++ [1, 2, 3]) = false) ∧
      (powered (sv 1 id).dev = true ∧ ModelsSettled (sv 1 id).dev ∧ (↑({ head := 2, dst := 77, src := 73 } : FrameHdr).dst =
      ownFa (sv 1 id).dev ∧ received (sv 1 id).dev ({ head := 2, dst := 77, src := 73 } : FrameHdr).arrival = true ∧
      headReachable (sv 1 id).dev ↑({ head := 2, dst := 77, src := 73 } : FrameHdr).head = true) ∧ recordWhole (mgetD (sv 1
      id).dev.srv.intake ↑({ head := 2, dst := 77, src := 73 } : FrameHdr).src [] ++ List.replicate 128 0) = true ∧ parseReq
      (mgetD (sv 1 id).dev.srv.intake ↑({ head := 2, dst := 77, src := 73 } : FrameHdr).src [] ++ List.replicate 128 0) =
      none) := by
  decide +kernel

/-- Obligations.RequestComplete: its premises on request hold together. -/
theorem witness_RequestComplete_request_2 :
    (powered (sv 0 id).dev = true ∧ ModelsSettled (sv 0 id).dev ∧ (↑({ head := 2, dst := 77, src := 73 } : FrameHdr).dst =
      ownFa (sv 0 id).dev ∧ received (sv 0 id).dev ({ head := 2, dst := 77, src := 73 } : FrameHdr).arrival = true ∧
      headReachable (sv 0 id).dev ↑({ head := 2, dst := 77, src := 73 } : FrameHdr).head = true) ∧ recordWhole (mgetD (sv 0
      id).dev.srv.intake ↑({ head := 2, dst := 77, src := 73 } : FrameHdr).src [] ++ rb) = true ∧ parseReq (mgetD (sv 0
      id).dev.srv.intake ↑({ head := 2, dst := 77, src := 73 } : FrameHdr).src [] ++ rb) = some rq ∧ lowestFree (sv 0
      id).dev = some 0 ∧ modelReady (sv 0 id).dev rq.model = true ∧ (model (sv 0 id).dev rq.model).active = some ep ∧ flag
      (sv 0 id).dev (srvReg R.SRV_CTRL) F.SRV_CTRL_ADMIT = false) ∧ (powered sx1.dev = true ∧ ModelsSettled sx1.dev ∧
      (↑({ head := 2, dst := 77, src := 73 } : FrameHdr).dst = ownFa sx1.dev ∧ received sx1.dev
      ({ head := 2, dst := 77, src := 73 } : FrameHdr).arrival = true ∧ headReachable sx1.dev
      ↑({ head := 2, dst := 77, src := 73 } : FrameHdr).head = true) ∧ recordWhole (mgetD sx1.dev.srv.intake
      ↑({ head := 2, dst := 77, src := 73 } : FrameHdr).src [] ++ rb) = true ∧ parseReq (mgetD sx1.dev.srv.intake
      ↑({ head := 2, dst := 77, src := 73 } : FrameHdr).src [] ++ rb) = some rq ∧ lowestFree sx1.dev = some 0 ∧ modelReady
      sx1.dev rq.model = false) := by
  decide +kernel

/-- Obligations.RequestComplete: its premises on request hold together. -/
theorem witness_RequestComplete_request_3 :
    (powered (wsl id).dev = true ∧ ModelsSettled (wsl id).dev ∧ (aqdEthernetUp (wsl id).dev 19 = true ∧ openStreams (wsl
      id).dev (19) 4 < 1024) ∧ parseReq rb = some rq ∧ lowestFree (wsl id).dev = some 1 ∧ modelReady (wsl id).dev rq.model =
      true ∧ (model (wsl id).dev rq.model).active = some ep ∧ flag (wsl id).dev (srvReg R.SRV_CTRL) F.SRV_CTRL_ADMIT = true
      ∧ (∃ x, x ∈ (wsl id).dev.srv.slots ∧ x.snd.tenant = tenantTag (wsl id).dev [1, 2] ∧ x.snd.reqId = rq.reqId ∧
      (x.snd.holderOf = none ∨ x.snd.gone = true) ∧ x.snd.state ≠ SlotState.ending)) ∧ (powered (sv 1 id).dev = true ∧
      ModelsSettled (sv 1 id).dev ∧ (aqdEthernetUp (sv 1 id).dev 19 = true ∧ openStreams (sv 1 id).dev (19) 4 < 1024) ∧
      parseReq rb5 = some rq5 ∧ lowestFree (sv 1 id).dev = some 0 ∧ modelReady (sv 1 id).dev rq5.model = true ∧ (model (sv 1
      id).dev rq5.model).active = some ep ∧ flag (sv 1 id).dev (srvReg R.SRV_CTRL) F.SRV_CTRL_ADMIT = true ∧ (¬∃ x, x ∈ (sv
      1 id).dev.srv.slots ∧ x.snd.tenant = tenantTag (sv 1 id).dev [1, 2] ∧ x.snd.reqId = rq5.reqId ∧ (x.snd.holderOf = none
      ∨ x.snd.gone = true) ∧ x.snd.state ≠ SlotState.ending) ∧ inputTokens (sv 1 id).dev rq5 ep = none) := by
  decide +kernel

/-- Obligations.RequestComplete: its premises on request hold together. -/
theorem witness_RequestComplete_request_4 :
    powered (sv 1 id).dev = true ∧ ModelsSettled (sv 1 id).dev ∧ (aqdEthernetUp (sv 1 id).dev 19 = true ∧ openStreams (sv
      1 id).dev (19) 4 < 1024) ∧ parseReq rb7 = some rq7 ∧ lowestFree (sv 1 id).dev = some 0 ∧ modelReady (sv 1 id).dev
      rq7.model = true ∧ (model (sv 1 id).dev rq7.model).active = some ep ∧ flag (sv 1 id).dev (srvReg R.SRV_CTRL)
      F.SRV_CTRL_ADMIT = true ∧ (¬∃ x, x ∈ (sv 1 id).dev.srv.slots ∧ x.snd.tenant = tenantTag (sv 1 id).dev [1, 2] ∧
      x.snd.reqId = rq7.reqId ∧ (x.snd.holderOf = none ∨ x.snd.gone = true) ∧ x.snd.state ≠ SlotState.ending) ∧ inputTokens
      (sv 1 id).dev rq7 ep = some [1, 2] ∧ rq7.resume = true ∧ ((if rq7.resume = true then List.find? (fun c => c.conv ==
      rq7.conv && c.tenant == tenantTag (sv 1 id).dev [1, 2] && !c.pinned && c.span.isNone && decide ((sv 1 id).dev.tally <
      c.expiry)) (sv 1 id).dev.srv.convs else none) = none) := by
  decide +kernel

/-- Obligations.RequestComplete: its premises on request hold together. -/
theorem witness_RequestComplete_request_5 :
    powered (scv 3).dev = true ∧ ModelsSettled (scv 3).dev ∧ (aqdEthernetUp (scv 3).dev 19 = true ∧ openStreams (scv
      3).dev (19) 4 < 1024) ∧ parseReq rb7 = some rq7 ∧ lowestFree (scv 3).dev = some 0 ∧ modelReady (scv 3).dev rq7.model =
      true ∧ (model (scv 3).dev rq7.model).active = some ep ∧ flag (scv 3).dev (srvReg R.SRV_CTRL) F.SRV_CTRL_ADMIT = true ∧
      (¬∃ x, x ∈ (scv 3).dev.srv.slots ∧ x.snd.tenant = tenantTag (scv 3).dev [1, 2] ∧ x.snd.reqId = rq7.reqId ∧
      (x.snd.holderOf = none ∨ x.snd.gone = true) ∧ x.snd.state ≠ SlotState.ending) ∧ inputTokens (scv 3).dev rq7 ep = some
      [1, 2] ∧ (rq7.resume = true → (if rq7.resume = true then List.find? (fun c => c.conv == rq7.conv && c.tenant ==
      tenantTag (scv 3).dev [1, 2] && !c.pinned && c.span.isNone && decide ((scv 3).dev.tally < c.expiry)) (scv
      3).dev.srv.convs else none).isSome = true) ∧ (((Option.map Conv.tokens (if rq7.resume = true then List.find? (fun c =>
      c.conv == rq7.conv && c.tenant == tenantTag (scv 3).dev [1, 2] && !c.pinned && c.span.isNone && decide ((scv
      3).dev.tally < c.expiry)) (scv 3).dev.srv.convs else none)).getD [] ++ [1, 2]).length ≤ 16777216) ∧ (∀ (o : Conv), (if
      rq7.resume = true then List.find? (fun c => c.conv == rq7.conv && c.tenant == tenantTag (scv 3).dev [1, 2] &&
      !c.pinned && c.span.isNone && decide ((scv 3).dev.tally < c.expiry)) (scv 3).dev.srv.convs else none) = some o →
      o.landed = true) ∧ ((Option.map Conv.holders (if rq7.resume = true then List.find? (fun c => c.conv == rq7.conv &&
      c.tenant == tenantTag (scv 3).dev [1, 2] && !c.pinned && c.span.isNone && decide ((scv 3).dev.tally < c.expiry)) (scv
      3).dev.srv.convs else none)).getD [] ≠ [] → rq7.conv ≠ 0) := by
  decide +kernel

/-- Obligations.RequestComplete: its premises on request hold together. -/
theorem witness_RequestComplete_request_6 :
    powered swt.dev = true ∧ ModelsSettled swt.dev ∧ (aqdEthernetUp swt.dev 19 = true ∧ openStreams swt.dev (19) 4 < 1024)
      ∧ parseReq rb7 = some rq7 ∧ lowestFree swt.dev = some 0 ∧ modelReady swt.dev rq7.model = true ∧ (model swt.dev
      rq7.model).active = some ep ∧ flag swt.dev (srvReg R.SRV_CTRL) F.SRV_CTRL_ADMIT = true ∧ (¬∃ x, x ∈ swt.dev.srv.slots
      ∧ x.snd.tenant = tenantTag swt.dev [1, 2] ∧ x.snd.reqId = rq7.reqId ∧ (x.snd.holderOf = none ∨ x.snd.gone = true) ∧
      x.snd.state ≠ SlotState.ending) ∧ inputTokens swt.dev rq7 ep = some [1, 2] ∧ (rq7.resume = true → (if rq7.resume =
      true then List.find? (fun c => c.conv == rq7.conv && c.tenant == tenantTag swt.dev [1, 2] && !c.pinned &&
      c.span.isNone && decide (swt.dev.tally < c.expiry)) swt.dev.srv.convs else none).isSome = true) ∧ (((Option.map
      Conv.tokens (if rq7.resume = true then List.find? (fun c => c.conv == rq7.conv && c.tenant == tenantTag swt.dev [1, 2]
      && !c.pinned && c.span.isNone && decide (swt.dev.tally < c.expiry)) swt.dev.srv.convs else none)).getD [] ++
      [1, 2]).length ≤ 16777216) ∧ ((if rq7.resume = true then List.find? (fun c => c.conv == rq7.conv && c.tenant ==
      tenantTag swt.dev [1, 2] && !c.pinned && c.span.isNone && decide (swt.dev.tally < c.expiry)) swt.dev.srv.convs else
      none) = some ({ (cv 3) with landed := false } : Conv)) ∧ ({ (cv 3) with landed := false } : Conv).landed = false := by
  decide +kernel

/-- Obligations.RequestComplete: its premises on request hold together. -/
theorem witness_RequestComplete_request_7 :
    powered (sv 1 id).dev = true ∧ ModelsSettled (sv 1 id).dev ∧ (↑({ head := 2, dst := 77, src := 73 } : FrameHdr).dst =
      ownFa (sv 1 id).dev ∧ received (sv 1 id).dev ({ head := 2, dst := 77, src := 73 } : FrameHdr).arrival = true ∧
      headReachable (sv 1 id).dev ↑({ head := 2, dst := 77, src := 73 } : FrameHdr).head = true) ∧ recordWhole (mgetD (sv 1
      id).dev.srv.intake ↑({ head := 2, dst := 77, src := 73 } : FrameHdr).src [] ++ rb) = true ∧ parseReq (mgetD (sv 1
      id).dev.srv.intake ↑({ head := 2, dst := 77, src := 73 } : FrameHdr).src [] ++ rb) = some rq ∧ lowestFree (sv 1
      id).dev = some 0 ∧ modelReady (sv 1 id).dev rq.model = true ∧ (model (sv 1 id).dev rq.model).active = some ep ∧ flag
      (sv 1 id).dev (srvReg R.SRV_CTRL) F.SRV_CTRL_ADMIT = true ∧ (¬∃ x, x ∈ (sv 1 id).dev.srv.slots ∧ x.snd.tenant = 6 ∧
      x.snd.reqId = rq.reqId ∧ (x.snd.holderOf = none ∨ x.snd.gone = true) ∧ x.snd.state ≠ SlotState.ending) ∧ inputTokens
      (sv 1 id).dev rq ep = some [1, 2] ∧ (rq.resume = true → (if rq.resume = true then List.find? (fun c => c.conv ==
      rq.conv && c.tenant == 6 && !c.pinned && c.span.isNone && decide ((sv 1 id).dev.tally < c.expiry)) (sv 1
      id).dev.srv.convs else none).isSome = true) ∧ (((Option.map Conv.tokens (if rq.resume = true then List.find? (fun c =>
      c.conv == rq.conv && c.tenant == 6 && !c.pinned && c.span.isNone && decide ((sv 1 id).dev.tally < c.expiry)) (sv 1
      id).dev.srv.convs else none)).getD [] ++ [1, 2]).length ≤ 16777216) ∧ (∀ (o : Conv), (if rq.resume = true then
      List.find? (fun c => c.conv == rq.conv && c.tenant == 6 && !c.pinned && c.span.isNone && decide ((sv 1 id).dev.tally <
      c.expiry)) (sv 1 id).dev.srv.convs else none) = some o → o.landed = true) ∧ ((Option.map Conv.holders (if rq.resume =
      true then List.find? (fun c => c.conv == rq.conv && c.tenant == 6 && !c.pinned && c.span.isNone && decide ((sv 1
      id).dev.tally < c.expiry)) (sv 1 id).dev.srv.convs else none)).getD [] ≠ [] → rq.conv ≠ 0) := by
  decide +kernel

/-- Obligations.RequestComplete: its premises on request hold together. -/
theorem witness_RequestComplete_request_8 :
    powered skv.dev = true ∧ ModelsSettled skv.dev ∧ (aqdEthernetUp skv.dev 19 = true ∧ openStreams skv.dev (19) 4 < 1024)
      ∧ parseReq rb7 = some rq7 ∧ lowestFree skv.dev = some 0 ∧ modelReady skv.dev rq7.model = true ∧ (model skv.dev
      rq7.model).active = some ep ∧ flag skv.dev (srvReg R.SRV_CTRL) F.SRV_CTRL_ADMIT = true ∧ (¬∃ x, x ∈ skv.dev.srv.slots
      ∧ x.snd.tenant = tenantTag skv.dev [1, 2] ∧ x.snd.reqId = rq7.reqId ∧ (x.snd.holderOf = none ∨ x.snd.gone = true) ∧
      x.snd.state ≠ SlotState.ending) ∧ inputTokens skv.dev rq7 ep = some [1, 2] ∧ (rq7.resume = true → (if rq7.resume =
      true then List.find? (fun c => c.conv == rq7.conv && c.tenant == tenantTag skv.dev [1, 2] && !c.pinned &&
      c.span.isNone && decide (skv.dev.tally < c.expiry)) skv.dev.srv.convs else none).isSome = true) ∧ (((Option.map
      Conv.tokens (if rq7.resume = true then List.find? (fun c => c.conv == rq7.conv && c.tenant == tenantTag skv.dev [1, 2]
      && !c.pinned && c.span.isNone && decide (skv.dev.tally < c.expiry)) skv.dev.srv.convs else none)).getD [] ++
      [1, 2]).length ≤ 16777216) ∧ (∀ (o : Conv), (if rq7.resume = true then List.find? (fun c => c.conv == rq7.conv &&
      c.tenant == tenantTag skv.dev [1, 2] && !c.pinned && c.span.isNone && decide (skv.dev.tally < c.expiry))
      skv.dev.srv.convs else none) = some o → o.landed = true) ∧ ((Option.map Conv.holders (if rq7.resume = true then
      List.find? (fun c => c.conv == rq7.conv && c.tenant == tenantTag skv.dev [1, 2] && !c.pinned && c.span.isNone &&
      decide (skv.dev.tally < c.expiry)) skv.dev.srv.convs else none)).getD [] ≠ [] → rq7.conv ≠ 0) := by
  decide +kernel

/-- Obligations.CancelsComplete: its premises on cancelRecord hold together. -/
theorem witness_CancelsComplete_cancelRecord_1 :
    (powered (wsl id).dev = true ∧ ModelsSettled (wsl id).dev ∧ (List.map Prod.fst (wsl id).dev.srv.slots).Nodup ∧
      aqdEthernetUp (wsl id).dev 19 = true ∧ (cb.length = 16 ∧ numAt cb 0 4 = 1313035354 ∧ numAt cb 4 4 = 0) ∧ List.find?
      (fun e => (e.snd.holderOf.isNone || e.snd.gone) && e.snd.state != SlotState.ending && (e.snd.tenant == tenantTag (wsl
      id).dev [1, 2] && e.snd.reqId == numAt cb 8 8)) (wsl id).dev.srv.slots = some (0, sl id) ∧ (sl id).holderOf = none ∧
      (sl id).holders = [] ∧ inFlight (wsl id).dev 0 = false ∧ (sl id).state = SlotState.running) ∧ (powered (roomy (wsl
      slc)).dev = true ∧ ModelsSettled (roomy (wsl slc)).dev ∧ (List.map Prod.fst (roomy (wsl slc)).dev.srv.slots).Nodup ∧
      aqdEthernetUp (roomy (wsl slc)).dev 19 = true ∧ (cb.length = 16 ∧ numAt cb 0 4 = 1313035354 ∧ numAt cb 4 4 = 0) ∧
      List.find? (fun e => (e.snd.holderOf.isNone || e.snd.gone) && e.snd.state != SlotState.ending && (e.snd.tenant ==
      tenantTag (roomy (wsl slc)).dev [1, 2] && e.snd.reqId == numAt cb 8 8)) (roomy (wsl slc)).dev.srv.slots = some (0, sl
      slc) ∧ (sl slc).holderOf = none ∧ (sl slc).holders = [] ∧ inFlight (roomy (wsl slc)).dev 0 = false ∧ (sl slc).state =
      SlotState.running) := by
  decide +kernel

/-- Obligations.CancelsComplete: its premises on cancelRecord hold together. -/
theorem witness_CancelsComplete_cancelRecord_2 :
    (powered (roomy (wsl id)).dev = true ∧ ModelsSettled (roomy (wsl id)).dev ∧ (List.map Prod.fst (roomy (wsl
      id)).dev.srv.slots).Nodup ∧ aqdEthernetUp (roomy (wsl id)).dev 19 = true ∧ (cb.length = 16 ∧ numAt cb 0 4 = 1313035354
      ∧ numAt cb 4 4 = 0) ∧ List.find? (fun e => (e.snd.holderOf.isNone || e.snd.gone) && e.snd.state != SlotState.ending &&
      (e.snd.tenant == tenantTag (roomy (wsl id)).dev [1, 2] && e.snd.reqId == numAt cb 8 8)) (roomy (wsl id)).dev.srv.slots
      = some (0, sl id) ∧ (sl id).holderOf = none ∧ (sl id).holders = [] ∧ inFlight (roomy (wsl id)).dev 0 = false ∧ (sl
      id).state = SlotState.running) ∧ (powered wadm.dev = true ∧ ModelsSettled wadm.dev ∧ (List.map Prod.fst
      wadm.dev.srv.slots).Nodup ∧ aqdEthernetUp wadm.dev 19 = true ∧ (cb.length = 16 ∧ numAt cb 0 4 = 1313035354 ∧ numAt cb
      4 4 = 0) ∧ List.find? (fun e => (e.snd.holderOf.isNone || e.snd.gone) && e.snd.state != SlotState.ending &&
      (e.snd.tenant == tenantTag wadm.dev [1, 2] && e.snd.reqId == numAt cb 8 8)) wadm.dev.srv.slots = some (0, sl adm) ∧
      (sl adm).holderOf = none ∧ (sl adm).holders = [] ∧ inFlight wadm.dev 0 = false ∧ (sl adm).state = SlotState.admitted) := by
  decide +kernel

/-- Obligations.CancelsComplete: its premises on cancelRecord hold together. -/
theorem witness_CancelsComplete_cancelRecord_3 :
    (powered (infl (wsl id)).dev = true ∧ ModelsSettled (infl (wsl id)).dev ∧ (List.map Prod.fst (infl (wsl
      id)).dev.srv.slots).Nodup ∧ aqdEthernetUp (infl (wsl id)).dev 19 = true ∧ (cb.length = 16 ∧ numAt cb 0 4 = 1313035354
      ∧ numAt cb 4 4 = 0) ∧ List.find? (fun e => (e.snd.holderOf.isNone || e.snd.gone) && e.snd.state != SlotState.ending &&
      (e.snd.tenant == tenantTag (infl (wsl id)).dev [1, 2] && e.snd.reqId == numAt cb 8 8)) (infl (wsl id)).dev.srv.slots =
      some (0, sl id) ∧ (sl id).holderOf = none ∧ (sl id).holders = [] ∧ inFlight (infl (wsl id)).dev 0 = true) ∧ (powered
      (wsl mvd).dev = true ∧ ModelsSettled (wsl mvd).dev ∧ (List.map Prod.fst (wsl mvd).dev.srv.slots).Nodup ∧ aqdEthernetUp
      (wsl mvd).dev 19 = true ∧ (cb.length = 16 ∧ numAt cb 0 4 = 1313035354 ∧ numAt cb 4 4 = 0) ∧ List.find? (fun e =>
      (e.snd.holderOf.isNone || e.snd.gone) && e.snd.state != SlotState.ending && (e.snd.tenant == tenantTag (wsl mvd).dev
      [1, 2] && e.snd.reqId == numAt cb 8 8)) (wsl mvd).dev.srv.slots = some (0, sl mvd) ∧ (sl mvd).holderOf = some (73, 9))
      ∧ (powered sx2.dev = true ∧ ModelsSettled sx2.dev ∧ (List.map Prod.fst sx2.dev.srv.slots).Nodup ∧ aqdEthernetUp
      sx2.dev 19 = true ∧ (cb.length = 16 ∧ numAt cb 0 4 = 1313035354 ∧ numAt cb 4 4 = 0) ∧ List.find? (fun e =>
      (e.snd.holderOf.isNone || e.snd.gone) && e.snd.state != SlotState.ending && (e.snd.tenant == tenantTag sx2.dev [1, 2]
      && e.snd.reqId == numAt cb 8 8)) sx2.dev.srv.slots = none ∧ (tenantTag sx2.dev [1, 2], numAt cb 8 8) ∈
      sx2.dev.srv.ended) := by
  decide +kernel

/-- Obligations.CancelsComplete: its premises on cancelRecord hold together. -/
theorem witness_CancelsComplete_cancelRecord_4 :
    (powered (sv 1 id).dev = true ∧ ModelsSettled (sv 1 id).dev ∧ (List.map Prod.fst (sv 1 id).dev.srv.slots).Nodup ∧
      aqdEthernetUp (sv 1 id).dev 19 = true ∧ (cb.length = 16 ∧ numAt cb 0 4 = 1313035354 ∧ numAt cb 4 4 = 0) ∧ List.find?
      (fun e => (e.snd.holderOf.isNone || e.snd.gone) && e.snd.state != SlotState.ending && (e.snd.tenant == tenantTag (sv 1
      id).dev [1, 2] && e.snd.reqId == numAt cb 8 8)) (sv 1 id).dev.srv.slots = none ∧ (¬(tenantTag (sv 1 id).dev [1, 2],
      numAt cb 8 8) ∈ (sv 1 id).dev.srv.ended)) ∧ (powered (wsl id).dev = true ∧ ModelsSettled (wsl id).dev ∧ (List.map
      Prod.fst (wsl id).dev.srv.slots).Nodup ∧ (¬(([0] : List Byte).length = 16 ∧ numAt [0] 0 4 = 1313035354 ∧ numAt [0] 4 4
      = 0))) ∧ (powered (wsl id).dev = true ∧ ModelsSettled (wsl id).dev ∧ (List.map Prod.fst (wsl id).dev.srv.slots).Nodup
      ∧ aqdEthernetUp (wsl id).dev 18 = false) ∧ (powered (wsl id).dev = true ∧ ModelsSettled (wsl id).dev ∧ (List.map
      Prod.fst (wsl id).dev.srv.slots).Nodup) := by
  decide +kernel

/-- Obligations.CancelsComplete: its premises on rstStream hold together. -/
theorem witness_CancelsComplete_rstStream_1 :
    (powered (wsl id).dev = true ∧ ModelsSettled (wsl id).dev ∧ (List.map Prod.fst (wsl id).dev.srv.slots).Nodup ∧
      aqdEthernetUp (wsl id).dev 18 = false) ∧ (powered (wsl id).dev = true ∧ ModelsSettled (wsl id).dev ∧ (List.map
      Prod.fst (wsl id).dev.srv.slots).Nodup ∧ List.find? (fun e => (e.snd.holderOf.isNone || e.snd.gone) && e.snd.state !=
      SlotState.ending && e.snd.conn == Conn.http (19) 4 6) (wsl id).dev.srv.slots = none) ∧ (powered (wsl id).dev = true ∧
      ModelsSettled (wsl id).dev ∧ (List.map Prod.fst (wsl id).dev.srv.slots).Nodup ∧ aqdEthernetUp (wsl id).dev 19 = true ∧
      List.find? (fun e => (e.snd.holderOf.isNone || e.snd.gone) && e.snd.state != SlotState.ending && e.snd.conn ==
      Conn.http (19) 4 5) (wsl id).dev.srv.slots = some (0, sl id) ∧ (sl id).holderOf = none ∧ (sl id).holders = [] ∧
      inFlight (wsl id).dev 0 = false ∧ (sl id).state = SlotState.running) := by
  decide +kernel

/-- Obligations.CancelsComplete: its premises on rstStream hold together. -/
theorem witness_CancelsComplete_rstStream_2 :
    powered (infl (wsl id)).dev = true ∧ ModelsSettled (infl (wsl id)).dev ∧ (List.map Prod.fst (infl (wsl
      id)).dev.srv.slots).Nodup ∧ aqdEthernetUp (infl (wsl id)).dev 19 = true ∧ List.find? (fun e => (e.snd.holderOf.isNone
      || e.snd.gone) && e.snd.state != SlotState.ending && e.snd.conn == Conn.http (19) 4 5) (infl (wsl id)).dev.srv.slots =
      some (0, sl id) ∧ (sl id).holderOf = none ∧ (sl id).holders = [] ∧ inFlight (infl (wsl id)).dev 0 = true := by
  decide +kernel

/-- Obligations.CancelsComplete: its premises on cancel hold together. -/
theorem witness_CancelsComplete_cancel_1 :
    (powered (wsl id).dev = true ∧ ModelsSettled (wsl id).dev ∧ (List.map Prod.fst (wsl id).dev.srv.slots).Nodup ∧
      xh.dst.val = ownFa (wsl id).dev ∧ received (wsl id).dev xh.arrival = true ∧ headReachable (wsl id).dev xh.head.val =
      true ∧ 2 ≤ 2) ∧ (powered (wsl id).dev = true ∧ ModelsSettled (wsl id).dev ∧ (List.map Prod.fst (wsl
      id).dev.srv.slots).Nodup ∧ xh.dst.val = ownFa (wsl id).dev ∧ received (wsl id).dev xh.arrival = true ∧ headReachable
      (wsl id).dev xh.head.val = true ∧ 0 ≠ 65535 ∧ slot (wsl id).dev 0 = some (sl id) ∧ ((sl id).tenant = 6 ∧ (sl id).reqId
      = 77 ∧ ((sl id).holderOf = none ∨ (sl id).gone = true) ∧ (sl id).state ≠ SlotState.ending) ∧ (sl id).holderOf = none ∧
      (sl id).holders = [] ∧ inFlight (wsl id).dev 0 = false ∧ (sl id).state = SlotState.running) := by
  decide +kernel

/-- Obligations.CancelsComplete: its premises on cancel hold together. -/
theorem witness_CancelsComplete_cancel_2 :
    (powered (infl (wsl id)).dev = true ∧ ModelsSettled (infl (wsl id)).dev ∧ (List.map Prod.fst (infl (wsl
      id)).dev.srv.slots).Nodup ∧ xh.dst.val = ownFa (infl (wsl id)).dev ∧ received (infl (wsl id)).dev xh.arrival = true ∧
      headReachable (infl (wsl id)).dev xh.head.val = true ∧ 0 ≠ 65535 ∧ slot (infl (wsl id)).dev 0 = some (sl id) ∧ ((sl
      id).tenant = 6 ∧ (sl id).reqId = 77 ∧ ((sl id).holderOf = none ∨ (sl id).gone = true) ∧ (sl id).state ≠
      SlotState.ending) ∧ (sl id).holderOf = none ∧ (sl id).holders = [] ∧ inFlight (infl (wsl id)).dev 0 = true) ∧ (powered
      (wsl id).dev = true ∧ ModelsSettled (wsl id).dev ∧ (List.map Prod.fst (wsl id).dev.srv.slots).Nodup ∧ xh.dst.val =
      ownFa (wsl id).dev ∧ received (wsl id).dev xh.arrival = true ∧ headReachable (wsl id).dev xh.head.val = true ∧ 65535 =
      65535 ∧ List.find? (fun e => (e.snd.holderOf.isNone || e.snd.gone) && e.snd.state != SlotState.ending && (e.snd.tenant
      == 6 && e.snd.reqId == 77)) (wsl id).dev.srv.slots = some (0, sl id) ∧ (sl id).holderOf = none ∧ (sl id).holders = []
      ∧ inFlight (wsl id).dev 0 = false ∧ (sl id).state = SlotState.running) := by
  decide +kernel

/-- Obligations.CancelsComplete: its premises on cancel hold together. -/
theorem witness_CancelsComplete_cancel_3 :
    (powered sx3.dev = true ∧ ModelsSettled sx3.dev ∧ (List.map Prod.fst sx3.dev.srv.slots).Nodup ∧ xh.dst.val = ownFa
      sx3.dev ∧ received sx3.dev xh.arrival = true ∧ headReachable sx3.dev xh.head.val = true ∧ 65535 = 65535 ∧ List.find?
      (fun e => (e.snd.holderOf.isNone || e.snd.gone) && e.snd.state != SlotState.ending && (e.snd.tenant == 6 &&
      e.snd.reqId == 77)) sx3.dev.srv.slots = none ∧ (6, 77) ∈ sx3.dev.srv.ended) ∧ (powered shd.dev = true ∧ ModelsSettled
      shd.dev ∧ (List.map Prod.fst shd.dev.srv.slots).Nodup ∧ xh.dst.val = ownFa shd.dev ∧ received shd.dev xh.arrival =
      true ∧ headReachable shd.dev xh.head.val = true ∧ ((if 4 = 65535 then findHeld shd.dev (xh.stamp.toNat % 65536) (6)
      (77) else some 4) = some 4) ∧ slot shd.dev 4 = some hold ∧ hold.holderOf = some (73, 9) ∧ hold.gone = false ∧
      hold.holders = [] ∧ inStep shd.dev 4 = false ∧ (∀ (y : Nat × Slot), y ∈ shd.dev.srv.slots → y.snd.state ≠
      SlotState.ending)) := by
  decide +kernel

/-- Obligations.CancelsComplete: its premises on cancel hold together. -/
theorem witness_CancelsComplete_cancel_4 :
    powered shd.dev = true ∧ ModelsSettled shd.dev ∧ (List.map Prod.fst shd.dev.srv.slots).Nodup ∧ xh.dst.val = ownFa
      shd.dev ∧ received shd.dev xh.arrival = true ∧ headReachable shd.dev xh.head.val = true ∧ ((if 65535 = 65535 then
      findHeld shd.dev (xh.stamp.toNat % 65536) (6) (77) else some 65535) = some 4) ∧ slot shd.dev 4 = some hold ∧
      hold.holderOf = some (73, 9) ∧ hold.gone = false ∧ hold.holders = [] ∧ inStep shd.dev 4 = false ∧ (∀ (y : Nat × Slot),
      y ∈ shd.dev.srv.slots → y.snd.state ≠ SlotState.ending) := by
  decide +kernel

/-- Obligations.CancelsComplete: its premises on deadlineExpiry hold together. -/
theorem witness_CancelsComplete_deadlineExpiry_1 :
    (powered (wsl (dl 5)).dev = true ∧ ModelsSettled (wsl (dl 5)).dev ∧ (List.map Prod.fst (wsl (dl
      5)).dev.srv.slots).Nodup ∧ slot (wsl (dl 5)).dev 0 = some (sl (dl 5)) ∧ (sl (dl 5)).deadline = some 5 ∧ 5 < (wsl (dl
      5)).dev.tally ∧ inFlight (wsl (dl 5)).dev 0 = false ∧ (sl (dl 5)).holderOf = none ∧ (sl (dl 5)).holders = [] ∧ (sl (dl
      5)).state = SlotState.running) ∧ (powered (wsl dla).dev = true ∧ ModelsSettled (wsl dla).dev ∧ (List.map Prod.fst (wsl
      dla).dev.srv.slots).Nodup ∧ slot (wsl dla).dev 0 = some (sl dla) ∧ (sl dla).deadline = some 5 ∧ 5 < (wsl
      dla).dev.tally ∧ inFlight (wsl dla).dev 0 = false ∧ (sl dla).holderOf = none ∧ (sl dla).holders = [] ∧ (sl dla).state
      = SlotState.admitted) := by
  decide +kernel

/-- Obligations.CancelsComplete: its premises on deadlineExpiry hold together. -/
theorem witness_CancelsComplete_deadlineExpiry_2 :
    powered (wsl (dl 5000000000)).dev = true ∧ ModelsSettled (wsl (dl 5000000000)).dev ∧ (List.map Prod.fst (wsl (dl
      5000000000)).dev.srv.slots).Nodup ∧ slot (wsl (dl 5000000000)).dev 0 = some (sl (dl 5000000000)) ∧ (sl (dl
      5000000000)).deadline = some 5000000000 ∧ (wsl (dl 5000000000)).dev.tally ≤ 5000000000 := by
  decide +kernel

/-- Obligations.CommitComplete: its premises on activeMaskLoad hold together. -/
theorem witness_CommitComplete_activeMaskLoad :
    (powered (mkl []).dev = true ∧ (blk (mkl []).dev ↑D3 ↑B4).maskLoads = []) ∧ (powered (mkl [(7, 50)]).dev = true ∧ (blk
      (mkl [(7, 50)]).dev ↑D3 ↑B4).maskLoads = [(7, 50)] ∧ 50 ≤ (blk (mkl [(7, 50)]).dev ↑D3 ↑B4).seq.cycle) ∧ (powered (mkl
      [(7, 51)]).dev = true ∧ (blk (mkl [(7, 51)]).dev ↑D3 ↑B4).maskLoads = [(7, 51)] ∧ (blk (mkl [(7, 51)]).dev ↑D3
      ↑B4).seq.cycle < 51) := by
  decide +kernel

/-- Obligations.CommitComplete: its premises on commitPoint hold together. -/
theorem witness_CommitComplete_commitPoint_1 :
    (powered (sv 1 id).dev = true ∧ ModelsSettled (sv 1 id).dev ∧ (List.map Prod.fst (sv 1 id).dev.srv.slots).Nodup ∧ (sv
      1 id).dev.step.commits = []) ∧ (powered (cs id id).dev = true ∧ ModelsSettled (cs id id).dev ∧ (List.map Prod.fst (cs
      id id).dev.srv.slots).Nodup ∧ (cs id id).dev.step.commits = [cr id]) := by
  decide +kernel

/-- Obligations.CommitComplete: its premises on commitPoint hold together. -/
theorem witness_CommitComplete_commitPoint_2 :
    powered (cs id id).dev = true ∧ ModelsSettled (cs id id).dev ∧ (List.map Prod.fst (cs id id).dev.srv.slots).Nodup ∧
      (cs id id).dev.step.commits = [cr id] ∧ (cs id id).dev.step.badWells = [] ∧ (cr id).rows = [q1] ∧ q1.sample = true ∧
      q1.proposal = false ∧ q1.vidx = 0 ∧ slot (cs id id).dev q1.slot = some (sl id) ∧ (sl id).holderOf = none ∧ (sl
      id).state = SlotState.running ∧ (sl id).holders = [] ∧ inStep (cs id id).dev q1.slot = false ∧ (∀ (y : Nat × Slot), y
      ∈ (cs id id).dev.srv.slots → y.snd.state ≠ SlotState.ending) ∧ (¬∃ a, (sl id).cancel = some a ∧ a < (cs id
      id).dev.tally) ∧ (¬∃ a, (sl id).deadline = some a ∧ a < (cs id id).dev.tally) ∧ ((cr id).nanRows.contains q1.row ||
      decide (q1.pos < 16777215) && resultWord (cs id id).dev (cr id).number q1.row 0 == 4294967295) = false ∧ ((cr
      id).badAll || (cr id).badRows.contains q1.row) = false ∧ resultWord (cs id id).dev (cr id).number q1.row 0 ≠
      4294967295 ∧ q1.pos + 1 < 16777215 ∧ (sl id).textOut = false ∧ (sl id).pendingText = [] ∧ (¬resultWord (cs id id).dev
      (cr id).number q1.row 0 ∈ (sl id).stops ++ endTokens (cs id id).dev ((Option.map tokRuns (epochOf (cs id id).dev (sl
      id).model (sl id).epoch)).getD [])) ∧ (sl id).emitted + 1 < (sl id).maxTokens := by
  decide +kernel

/-- Obligations.CommitComplete: its premises on commitPoint hold together. -/
theorem witness_CommitComplete_commitPoint_3 :
    powered (cs id id 42).dev = true ∧ ModelsSettled (cs id id 42).dev ∧ (List.map Prod.fst (cs id id
      42).dev.srv.slots).Nodup ∧ (cs id id 42).dev.step.commits = [cr id] ∧ (cs id id 42).dev.step.badWells = [] ∧ (cr
      id).rows = [q1] ∧ q1.sample = true ∧ q1.proposal = false ∧ q1.vidx = 0 ∧ slot (cs id id 42).dev q1.slot = some (sl id)
      ∧ (sl id).holderOf = none ∧ (sl id).state = SlotState.running ∧ (sl id).holders = [] ∧ inStep (cs id id 42).dev
      q1.slot = false ∧ (∀ (y : Nat × Slot), y ∈ (cs id id 42).dev.srv.slots → y.snd.state ≠ SlotState.ending) ∧ (¬∃ a, (sl
      id).cancel = some a ∧ a < (cs id id 42).dev.tally) ∧ (¬∃ a, (sl id).deadline = some a ∧ a < (cs id id 42).dev.tally) ∧
      ((cr id).nanRows.contains q1.row || decide (q1.pos < 16777215) && resultWord (cs id id 42).dev (cr id).number q1.row 0
      == 4294967295) = false ∧ ((cr id).badAll || (cr id).badRows.contains q1.row) = false ∧ resultWord (cs id id 42).dev
      (cr id).number q1.row 0 ≠ 4294967295 ∧ q1.pos + 1 < 16777215 ∧ (sl id).textOut = false ∧ (sl id).pendingText = [] ∧
      (resultWord (cs id id 42).dev (cr id).number q1.row 0 ∈ (sl id).stops ++ endTokens (cs id id 42).dev ((Option.map
      tokRuns (epochOf (cs id id 42).dev (sl id).model (sl id).epoch)).getD []) ∨ (sl id).maxTokens ≤ (sl id).emitted + 1) := by
  decide +kernel

/-- Obligations.CommitComplete: its premises on commitPoint hold together. -/
theorem witness_CommitComplete_commitPoint_4 :
    powered (cs id kp).dev = true ∧ ModelsSettled (cs id kp).dev ∧ (List.map Prod.fst (cs id kp).dev.srv.slots).Nodup ∧
      (cs id kp).dev.step.commits = [cr id] ∧ (cs id kp).dev.step.badWells = [] ∧ (cr id).rows = [q1] ∧ q1.sample = true ∧
      q1.proposal = false ∧ q1.vidx = 0 ∧ slot (cs id kp).dev q1.slot = some (sl kp) ∧ (sl kp).holderOf = none ∧ (sl
      kp).state = SlotState.running ∧ (sl kp).holders = [] ∧ inStep (cs id kp).dev q1.slot = false ∧ (∀ (y : Nat × Slot), y
      ∈ (cs id kp).dev.srv.slots → y.snd.state ≠ SlotState.ending) ∧ (¬∃ a, (sl kp).cancel = some a ∧ a < (cs id
      kp).dev.tally) ∧ (¬∃ a, (sl kp).deadline = some a ∧ a < (cs id kp).dev.tally) ∧ ((cr id).nanRows.contains q1.row ||
      decide (q1.pos < 16777215) && resultWord (cs id kp).dev (cr id).number q1.row 0 == 4294967295) = false ∧ ((cr
      id).badAll || (cr id).badRows.contains q1.row) = false ∧ resultWord (cs id kp).dev (cr id).number q1.row 0 ≠
      4294967295 ∧ q1.pos + 1 < 16777215 ∧ (sl kp).textOut = false ∧ (sl kp).pendingText = [] ∧ (resultWord (cs id kp).dev
      (cr id).number q1.row 0 ∈ (sl kp).stops ++ endTokens (cs id kp).dev ((Option.map tokRuns (epochOf (cs id kp).dev (sl
      kp).model (sl kp).epoch)).getD []) ∨ (sl kp).maxTokens ≤ (sl kp).emitted + 1) := by
  decide +kernel

/-- Obligations.CommitComplete: its premises on commitPoint hold together. -/
theorem witness_CommitComplete_commitPoint_5 :
    powered (cs id (cnc 5)).dev = true ∧ ModelsSettled (cs id (cnc 5)).dev ∧ (List.map Prod.fst (cs id (cnc
      5)).dev.srv.slots).Nodup ∧ (cs id (cnc 5)).dev.step.commits = [cr id] ∧ (cs id (cnc 5)).dev.step.badWells = [] ∧ (cr
      id).rows = [q1] ∧ q1.sample = true ∧ q1.proposal = false ∧ q1.vidx = 0 ∧ slot (cs id (cnc 5)).dev q1.slot = some (sl
      (cnc 5)) ∧ (sl (cnc 5)).holderOf = none ∧ (sl (cnc 5)).state = SlotState.running ∧ (sl (cnc 5)).holders = [] ∧ inStep
      (cs id (cnc 5)).dev q1.slot = false ∧ (∀ (y : Nat × Slot), y ∈ (cs id (cnc 5)).dev.srv.slots → y.snd.state ≠
      SlotState.ending) ∧ (∃ a, (sl (cnc 5)).cancel = some a ∧ a < (cs id (cnc 5)).dev.tally) ∧ ((¬∃ a, (sl (cnc
      5)).deadline = some a ∧ a < (cs id (cnc 5)).dev.tally) ∨ ∀ (a b : Nat), (sl (cnc 5)).cancel = some a → (sl (cnc
      5)).deadline = some b → a ≤ b) := by
  and_intros <;> first | decide +kernel | (refine .inl ?_; rintro ⟨a, h, _⟩; exact nomatch (h : none = some a))

/-- Obligations.CommitComplete: its premises on commitPoint hold together. -/
theorem witness_CommitComplete_commitPoint_6 :
    powered (cs id (dl 5)).dev = true ∧ ModelsSettled (cs id (dl 5)).dev ∧ (List.map Prod.fst (cs id (dl
      5)).dev.srv.slots).Nodup ∧ (cs id (dl 5)).dev.step.commits = [cr id] ∧ (cs id (dl 5)).dev.step.badWells = [] ∧ (cr
      id).rows = [q1] ∧ q1.sample = true ∧ q1.proposal = false ∧ q1.vidx = 0 ∧ slot (cs id (dl 5)).dev q1.slot = some (sl
      (dl 5)) ∧ (sl (dl 5)).holderOf = none ∧ (sl (dl 5)).state = SlotState.running ∧ (sl (dl 5)).holders = [] ∧ inStep (cs
      id (dl 5)).dev q1.slot = false ∧ (∀ (y : Nat × Slot), y ∈ (cs id (dl 5)).dev.srv.slots → y.snd.state ≠
      SlotState.ending) ∧ (∃ a, (sl (dl 5)).deadline = some a ∧ a < (cs id (dl 5)).dev.tally) ∧ ((¬∃ a, (sl (dl 5)).cancel =
      some a ∧ a < (cs id (dl 5)).dev.tally) ∨ ¬∀ (a b : Nat), (sl (dl 5)).cancel = some a → (sl (dl 5)).deadline = some b →
      a ≤ b) := by
  and_intros <;> first | decide +kernel | (refine .inl ?_; rintro ⟨a, h, _⟩; exact nomatch (h : none = some a))

/-- Obligations.CommitComplete: its premises on commitPoint hold together. -/
theorem witness_CommitComplete_commitPoint_7 :
    powered (cs nn id).dev = true ∧ ModelsSettled (cs nn id).dev ∧ (List.map Prod.fst (cs nn id).dev.srv.slots).Nodup ∧
      (cs nn id).dev.step.commits = [cr nn] ∧ (cs nn id).dev.step.badWells = [] ∧ (cr nn).rows = [q1] ∧ q1.sample = true ∧
      q1.proposal = false ∧ q1.vidx = 0 ∧ slot (cs nn id).dev q1.slot = some (sl id) ∧ (sl id).holderOf = none ∧ (sl
      id).state = SlotState.running ∧ (sl id).holders = [] ∧ inStep (cs nn id).dev q1.slot = false ∧ (∀ (y : Nat × Slot), y
      ∈ (cs nn id).dev.srv.slots → y.snd.state ≠ SlotState.ending) ∧ (¬∃ a, (sl id).cancel = some a ∧ a < (cs nn
      id).dev.tally) ∧ (¬∃ a, (sl id).deadline = some a ∧ a < (cs nn id).dev.tally) ∧ ((cr nn).nanRows.contains q1.row ||
      decide (q1.pos < 16777215) && resultWord (cs nn id).dev (cr nn).number q1.row 0 == 4294967295) = true := by
  decide +kernel

/-- Obligations.CommitComplete: its premises on commitPoint hold together. -/
theorem witness_CommitComplete_commitPoint_8 :
    powered (cs bd id).dev = true ∧ ModelsSettled (cs bd id).dev ∧ (List.map Prod.fst (cs bd id).dev.srv.slots).Nodup ∧
      (cs bd id).dev.step.commits = [cr bd] ∧ (cs bd id).dev.step.badWells = [] ∧ (cr bd).rows = [q1] ∧ q1.sample = true ∧
      q1.proposal = false ∧ q1.vidx = 0 ∧ slot (cs bd id).dev q1.slot = some (sl id) ∧ (sl id).holderOf = none ∧ (sl
      id).state = SlotState.running ∧ (sl id).holders = [] ∧ inStep (cs bd id).dev q1.slot = false ∧ (∀ (y : Nat × Slot), y
      ∈ (cs bd id).dev.srv.slots → y.snd.state ≠ SlotState.ending) ∧ (¬∃ a, (sl id).cancel = some a ∧ a < (cs bd
      id).dev.tally) ∧ (¬∃ a, (sl id).deadline = some a ∧ a < (cs bd id).dev.tally) ∧ ((cr bd).nanRows.contains q1.row ||
      decide (q1.pos < 16777215) && resultWord (cs bd id).dev (cr bd).number q1.row 0 == 4294967295) = false ∧ ((cr
      bd).badAll || (cr bd).badRows.contains q1.row) = true := by
  decide +kernel

/-- Obligations.CommitComplete: its premises on conversationExpiry hold together. -/
theorem witness_CommitComplete_conversationExpiry :
    (powered excU.dev = true ∧ reviewConvs excU.dev = excU.dev) ∧ (powered excP.dev = true ∧ reviewConvs excP.dev =
      excP.dev) := by
  decide +kernel

/-- Obligations.CommitComplete: its premises on condensingChange hold together. -/
theorem witness_CommitComplete_condensingChange :
    (powered exc.dev = true) ∧ (powered excU.dev = true ∧ reviewConvs excU.dev = excU.dev ∧ 4096 ≤ freePages excU.dev) := by
  decide +kernel

/-- Obligations.CommitComplete: its premises hold together. -/
theorem witness_CommitComplete :
    powered on.dev = true ∧ (List.replicate 512 9).length = 2 * kv1.posBytes ∧ 1 < 2 ∧ 1 < 64 := by
  decide +kernel

/-- Obligations.MovesAndPeersComplete: its premises on hold hold together. -/
theorem witness_MovesAndPeersComplete_hold :
    (powered (wsl id).dev = true ∧ slot (wsl id).dev 0 = some (sl id) ∧ ((sl id).holderOf = none ∧ (sl id).holders.length
      < 1024 ∧ (sl id).state = SlotState.running ∧ 4096 % 4096 = 0 ∧ 8192 % 4096 = 0 ∧ 0 < 8192)) ∧ (powered (wsl slc).dev =
      true ∧ slot (wsl slc).dev 0 = some (sl slc) ∧ ((sl slc).holderOf = none ∧ (sl slc).holders.length < 1024 ∧ (sl
      slc).state = SlotState.running ∧ 4096 % 4096 = 0 ∧ 8192 % 4096 = 0 ∧ 0 < 8192)) ∧ (powered (wsl hof).dev = true ∧ slot
      (wsl hof).dev 0 = some (sl hof) ∧ (¬((sl hof).holderOf = none ∧ (sl hof).holders.length < 1024 ∧ (sl hof).state =
      SlotState.running ∧ 4096 % 4096 = 0 ∧ 8192 % 4096 = 0 ∧ 0 < 8192))) ∧ (powered (roomy (wsl id)).dev = true ∧
      (hd.dst.val = ownFa (roomy (wsl id)).dev ∧ received (roomy (wsl id)).dev hd.arrival = true ∧ headReachable (roomy (wsl
      id)).dev hd.head.val = true) ∧ lowestFree (roomy (wsl id)).dev = some 1 ∧ (hsp.first % 4096 = 0 ∧ hsp.count % 4096 = 0
      ∧ 0 < hsp.count)) ∧ (powered (wsl id).dev = true ∧ (hd.dst.val = ownFa (wsl id).dev ∧ received (wsl id).dev hd.arrival
      = true ∧ headReachable (wsl id).dev hd.head.val = true) ∧ (¬(({ hsp with first := 5 } : HoldSpan).first % 4096 = 0 ∧
      ({ hsp with first := 5 } : HoldSpan).count % 4096 = 0 ∧ 0 < ({ hsp with first := 5 } : HoldSpan).count))) := by
  decide +kernel

/-- Obligations.MovesAndPeersComplete: its premises on holdAck hold together. -/
theorem witness_MovesAndPeersComplete_holdAck_1 :
    (powered (wsl (hy none SlotState.running)).dev = true ∧ (hd.dst.val = ownFa (wsl (hy none SlotState.running)).dev ∧
      received (wsl (hy none SlotState.running)).dev hd.arrival = true ∧ headReachable (wsl (hy none SlotState.running)).dev
      hd.head.val = true) ∧ ModelsSettled (wsl (hy none SlotState.running)).dev ∧ (wsl (hy none
      SlotState.running)).dev.srv.slots = [(0, sl (hy none SlotState.running))] ∧ (sl (hy none SlotState.running)).holders =
      [hol none] ∧ (hol none).fa = hd.src.val ∧ (hol none).refused = false ∧ (hol none).slot = none) ∧ (powered (wsl (hy
      none SlotState.ending)).dev = true ∧ (hd.dst.val = ownFa (wsl (hy none SlotState.ending)).dev ∧ received (wsl (hy none
      SlotState.ending)).dev hd.arrival = true ∧ headReachable (wsl (hy none SlotState.ending)).dev hd.head.val = true) ∧
      ModelsSettled (wsl (hy none SlotState.ending)).dev ∧ (wsl (hy none SlotState.ending)).dev.srv.slots =
      [(0, sl (hy none SlotState.ending))] ∧ (sl (hy none SlotState.ending)).holders = [hol none] ∧ (hol none).fa =
      hd.src.val ∧ (hol none).refused = false ∧ (hol none).slot = none) := by
  decide +kernel

/-- Obligations.MovesAndPeersComplete: its premises on holdAck hold together. -/
theorem witness_MovesAndPeersComplete_holdAck_2 :
    (powered (infl (wsl (hy none SlotState.running))).dev = true ∧ (hd.dst.val = ownFa (infl (wsl (hy none
      SlotState.running))).dev ∧ received (infl (wsl (hy none SlotState.running))).dev hd.arrival = true ∧ headReachable
      (infl (wsl (hy none SlotState.running))).dev hd.head.val = true) ∧ ModelsSettled (infl (wsl (hy none
      SlotState.running))).dev ∧ (infl (wsl (hy none SlotState.running))).dev.srv.slots =
      [(0, sl (hy none SlotState.running))] ∧ (sl (hy none SlotState.running)).holders = [hol none] ∧ (hol none).fa =
      hd.src.val ∧ (hol none).refused = false ∧ (hol none).slot = none ∧ (sl (hy none SlotState.running)).state ≠
      SlotState.ending ∧ inFlight (infl (wsl (hy none SlotState.running))).dev 0 = true) ∧ (powered (wsl (hy none
      SlotState.running)).dev = true ∧ (hd.dst.val = ownFa (wsl (hy none SlotState.running)).dev ∧ received (wsl (hy none
      SlotState.running)).dev hd.arrival = true ∧ headReachable (wsl (hy none SlotState.running)).dev hd.head.val = true) ∧
      ModelsSettled (wsl (hy none SlotState.running)).dev ∧ (wsl (hy none SlotState.running)).dev.srv.slots =
      [(0, sl (hy none SlotState.running))] ∧ (sl (hy none SlotState.running)).holders = [hol none] ∧ (hol none).fa =
      hd.src.val ∧ (hol none).refused = false ∧ (hol none).slot = none ∧ (sl (hy none SlotState.running)).state ≠
      SlotState.ending ∧ inFlight (wsl (hy none SlotState.running)).dev 0 = false ∧ List.find? (fun fa =>
      !({ (sl (hy none SlotState.running)) with passed := (sl (hy none SlotState.running)).passed ++ [hd.src.val] } :
      Slot).passed.contains fa) (twins (wsl (hy none SlotState.running)).dev) = none ∧ (sl (hy none
      SlotState.running)).state = SlotState.running) := by
  decide +kernel

/-- Obligations.MovesAndPeersComplete: its premises on holdAck hold together. -/
theorem witness_MovesAndPeersComplete_holdAck_3 :
    powered (twin (wsl (hy none SlotState.running))).dev = true ∧ (hd.dst.val = ownFa (twin (wsl (hy none
      SlotState.running))).dev ∧ received (twin (wsl (hy none SlotState.running))).dev hd.arrival = true ∧ headReachable
      (twin (wsl (hy none SlotState.running))).dev hd.head.val = true) ∧ ModelsSettled (twin (wsl (hy none
      SlotState.running))).dev ∧ (twin (wsl (hy none SlotState.running))).dev.srv.slots =
      [(0, sl (hy none SlotState.running))] ∧ (sl (hy none SlotState.running)).holders = [hol none] ∧ (hol none).fa =
      hd.src.val ∧ (hol none).refused = false ∧ (hol none).slot = none ∧ (sl (hy none SlotState.running)).state ≠
      SlotState.ending ∧ inFlight (twin (wsl (hy none SlotState.running))).dev 0 = false ∧ List.find? (fun fa =>
      !({ (sl (hy none SlotState.running)) with passed := (sl (hy none SlotState.running)).passed ++ [hd.src.val] } :
      Slot).passed.contains fa) (twins (twin (wsl (hy none SlotState.running))).dev) = some 74 := by
  and_intros <;> first | (rw [twins_twin]; decide +kernel) | decide +kernel

/-- Obligations.MovesAndPeersComplete: its premises on released hold together. -/
theorem witness_MovesAndPeersComplete_released :
    (powered (wsl (hy (some 40) SlotState.running)).dev = true ∧ (hd.dst.val = ownFa (wsl (hy (some 40)
      SlotState.running)).dev ∧ received (wsl (hy (some 40) SlotState.running)).dev hd.arrival = true ∧ headReachable (wsl
      (hy (some 40) SlotState.running)).dev hd.head.val = true) ∧ ModelsSettled (wsl (hy (some 40) SlotState.running)).dev ∧
      (wsl (hy (some 40) SlotState.running)).dev.srv.slots = [(0, sl (hy (some 40) SlotState.running))] ∧ (sl (hy (some 40)
      SlotState.running)).holders = [hol (some 40)] ∧ (hol (some 40)).fa = hd.src.val ∧ (hol (some 40)).refused = false ∧
      (hol (some 40)).slot = some 40 ∧ (sl (hy (some 40) SlotState.running)).state ≠ SlotState.ending) ∧ (powered (wsl (hy
      (some 40) SlotState.ending)).dev = true ∧ (hd.dst.val = ownFa (wsl (hy (some 40) SlotState.ending)).dev ∧ received
      (wsl (hy (some 40) SlotState.ending)).dev hd.arrival = true ∧ headReachable (wsl (hy (some 40) SlotState.ending)).dev
      hd.head.val = true) ∧ ModelsSettled (wsl (hy (some 40) SlotState.ending)).dev ∧ (wsl (hy (some 40)
      SlotState.ending)).dev.srv.slots = [(0, sl (hy (some 40) SlotState.ending))] ∧ (sl (hy (some 40)
      SlotState.ending)).holders = [hol (some 40)] ∧ (hol (some 40)).fa = hd.src.val ∧ (hol (some 40)).refused = false ∧
      (hol (some 40)).slot = some 40 ∧ (sl (hy (some 40) SlotState.ending)).state = SlotState.ending ∧ inStep (wsl (hy (some
      40) SlotState.ending)).dev 0 = false) := by
  decide +kernel

/-- Obligations.MovesAndPeersComplete: its premises on migrate hold together. -/
theorem witness_MovesAndPeersComplete_migrate :
    (powered (wsl id).dev = true ∧ (hd.dst.val = ownFa (wsl id).dev ∧ received (wsl id).dev hd.arrival = true ∧
      headReachable (wsl id).dev hd.head.val = true) ∧ parseReq mg.record = some rq ∧ lowestFree (wsl id).dev = some 1) ∧
      (powered (roomy (wsl id)).dev = true ∧ (hd.dst.val = ownFa (roomy (wsl id)).dev ∧ received (roomy (wsl id)).dev
      hd.arrival = true ∧ headReachable (roomy (wsl id)).dev hd.head.val = true) ∧ parseReq mgk.record = some rq ∧
      lowestFree (roomy (wsl id)).dev = some 1) := by
  decide +kernel

/-- Obligations.MovesAndPeersComplete: its premises on relay hold together. -/
theorem witness_MovesAndPeersComplete_relay :
    (powered (wsl mvd).dev = true ∧ (hd.dst.val = ownFa (wsl mvd).dev ∧ received (wsl mvd).dev hd.arrival = true ∧
      headReachable (wsl mvd).dev hd.head.val = true) ∧ slot (wsl mvd).dev 0 = some (sl mvd) ∧ (sl mvd).gone = true ∧ (sl
      mvd).holderOf = some (hd.src.val, 9) ∧ numAt [1, 0, 2] 0 2 ≠ 2) ∧ (powered (wsl mvd).dev = true ∧ (hd.dst.val = ownFa
      (wsl mvd).dev ∧ received (wsl mvd).dev hd.arrival = true ∧ headReachable (wsl mvd).dev hd.head.val = true) ∧ slot (wsl
      mvd).dev 0 = some (sl mvd) ∧ (sl mvd).gone = true ∧ (sl mvd).holderOf = some (hd.src.val, 9) ∧ numAt [2, 0, 2] 0 2 = 2
      ∧ (sl mvd).asked = [] ∧ (∀ (y : Nat × Slot), y ∈ (wsl mvd).dev.srv.slots → y.snd.state ≠ SlotState.ending)) ∧ (powered
      (wsl id).dev = true ∧ (hd.dst.val = ownFa (wsl id).dev ∧ received (wsl id).dev hd.arrival = true ∧ headReachable (wsl
      id).dev hd.head.val = true) ∧ (∀ (x : Slot), slot (wsl id).dev 1 = some x → ¬(x.gone = true ∧ ∃ k, x.holderOf = some
      (hd.src.val, k)))) := by
  and_intros <;> first | decide +kernel | (intro x h; have e : slot (wsl id).dev 1 = none := by decide +kernel
                                           rw [e] at h; cases h)

/-- Obligations.MovesAndPeersComplete: its premises on ctlRead hold together. -/
theorem witness_MovesAndPeersComplete_ctlRead :
    (powered pr.dev = true ∧ (hd.dst.val = ownFa pr.dev ∧ received pr.dev hd.arrival = true ∧ headReachable pr.dev
      hd.head.val = true) ∧ MayRead pr.dev (Path.peer hd.src) (BitVec.toNat A)) ∧ (powered pr.dev = true ∧ (hd.dst.val =
      ownFa pr.dev ∧ received pr.dev hd.arrival = true ∧ headReachable pr.dev hd.head.val = true) ∧ (¬MayRead pr.dev
      (Path.peer hd.src) (209715))) := by
  decide +kernel

/-- Obligations.MovesAndPeersComplete: its premises on ctlWrite hold together. -/
theorem witness_MovesAndPeersComplete_ctlWrite :
    (powered pr.dev = true ∧ (hd.dst.val = ownFa pr.dev ∧ received pr.dev hd.arrival = true ∧ headReachable pr.dev
      hd.head.val = true) ∧ MayWrite pr.dev (Path.peer hd.src) (BitVec.toNat A) ∧ regAt (BitVec.toNat A) = some rA ∧
      ctlPlace (BitVec.toNat A) ∈ [R.FNT_TIMEOUT, R.GAT_CTRL]) ∧ (powered (wd netD).dev = true ∧ (hd.dst.val = ownFa (wd
      netD).dev ∧ received (wd netD).dev hd.arrival = true ∧ headReachable (wd netD).dev hd.head.val = true) ∧ (¬MayWrite
      (wd netD).dev (Path.peer hd.src) (BitVec.toNat A))) := by
  decide +kernel

/-- Obligations.MovesAndPeersComplete: its premises on ctlResp hold together. -/
theorem witness_MovesAndPeersComplete_ctlResp :
    powered (wd netD).dev = true ∧ (hd.dst.val = ownFa (wd netD).dev ∧ received (wd netD).dev hd.arrival = true ∧
      headReachable (wd netD).dev hd.head.val = true) := by
  decide +kernel

/-! ### Every slot in use, and no page free -/

/-- The slots in use. -/
def slotsOf (l : List (Nat × Slot)) := sv 1 fun x => { x with slots := l }

/-- Every slot holds a request. -/
def full := slotsOf ((List.range 65536).map fun i => (i, {}))

theorem mget_listed {v : Slot} {i : Nat} : ∀ l : List Nat, i ∈ l → (mget (l.map fun i => (i, v)) i).isSome
  | a :: l, h => by
    simp only [List.map_cons, mget]
    split
    · rfl
    · exact mget_listed l ((List.mem_cons.mp h).resolve_left ‹_›)

theorem slotsOf_slots (l : List (Nat × Slot)) : (slotsOf l).dev.srv.slots = l := rfl

theorem lowestFree_listed (n : Nat) (h : 65536 ≤ n) (v : Slot) :
    lowestFree (slotsOf ((List.range n).map fun i => (i, v))).dev = none := by
  simp only [lowestFree, slotsOf_slots]
  refine if_neg fun lt => ?_
  cases e : (List.range ((List.map (fun i => (i, v)) (List.range n)).length + 1)).find? fun i =>
      (mget (List.map (fun i => (i, v)) (List.range n)) i).isNone with
  | none => rw [e] at lt; simp at lt
  | some k =>
    rw [e] at lt
    have h1 := List.find?_some e
    have h2 := mget_listed (v := v) (i := k) (List.range n) (List.mem_range.mpr (Nat.lt_of_lt_of_le lt h))
    rw [Option.isNone_iff_eq_none.mp h1] at h2
    exact Bool.noConfusion h2

/-- Obligations.RequestComplete, MovesAndPeersComplete: no slot is FREE. -/
theorem witness_RequestComplete_full :
    powered full.dev = true ∧ ModelsSettled full.dev
      ∧ (hd.dst.val = ownFa full.dev ∧ received full.dev hd.arrival = true ∧ headReachable full.dev hd.head = true)
      ∧ parseReq rb = some rq ∧ lowestFree full.dev = none :=
  ⟨by decide +kernel, by decide +kernel, by decide +kernel, by decide +kernel, lowestFree_listed 65536 (Nat.le_refl _) {}⟩

/-- Further entries of the page table, while tests are under way. -/
def pagesOf (l : List (Nat × Word)) := wd fun d =>
  let e := allUp exc.dev
  { e with regs := e.regs ++ l, cont := { d.cont with testedPages := [1] } }

theorem pagesOf_regs (l : List (Nat × Word)) : (pagesOf l).dev.regs = (allUp exc.dev).regs ++ l := rfl

/-- Every page holds a conversation. -/
def packed := pagesOf (List.replicate 400000 (pageReg 0 0, 5))

theorem freePages_packed (n : Nat) (h : 393216 ≤ n) : freePages (pagesOf (List.replicate n (pageReg 0 0, 5))).dev < 4096 := by
  have c : (decide (pow2 32 ≤ pageReg 0 0) && ctlPlace (pageReg 0 0 % pow2 32) == R.RSV_PT_ENTRY
      && decide (48 ≤ ctlDie (pageReg 0 0 % pow2 32)) && decide (ctlDie (pageReg 0 0 % pow2 32) < 56)
      && entryKind 5 != 0) = true := by decide +kernel
  simp only [freePages, pagesOf_regs, List.filter_append, List.filter_replicate, c, List.length_append, if_true, List.length_replicate, pageCount]
  omega

/-- Obligations.CommitComplete: pages run short while the device condenses. -/
theorem witness_CommitComplete_condensingShort :
    powered packed.dev = true ∧ (∀ k, k < 8 → stackUp packed.dev k = true) ∧ condensingDue (reviewConvs packed.dev) = true
      ∧ freePages packed.dev < 4096
      ∧ earliest (packed.dev.srv.convs.filter fun c => !c.condensed && !c.lost) = some (exc.dev.srv.convs.getD 1 (cv 0)) :=
  ⟨by decide +kernel, by decide +kernel, by decide +kernel, freePages_packed 400000 (by decide), by decide +kernel⟩

end W14

namespace W15

def le (n v : Nat) : List Byte := leBytes n v
def hd : FrameHdr := {head := 2, dst := 77, src := 73}
def upD (d : Dev) : Dev := (List.range 8).foldl (fun d k => fset (fset d (ctl R.BRG_STATUS (48 + k) 0) F.BRG_STATUS_UP 1) (ctl R.RSV_STATUS (48 + k) 0) F.RSV_STATUS_READY 1) d
def n1 := wd fun d => {upD (netD d) with roster := [73], tally := 1000000000}
def pm : PageMsg := {modelId := 5, epoch := 3, page := 7, window := 40, gen := 5}
def mfz (pl : List Nat) (kind : Nat) (len := 1024) : Manifest := {edition := 1, modelId := 5, epoch := 3, slices := 1, sources := [], shards := [{offset := 0, length := len, source := 0, kind, slice := 0, tenant := 0, placeFirst := 0, placeCount := 1, digest := []}], placements := pl, prevEpoch := 4294967295}
def ep (mf : Manifest) (f : EpochRec → EpochRec := id) : EpochRec := f {epoch := 3, modelId := 5, digest := [], manifest := mf, slice := 0, stages := []}
def sm (x : Model) (f : Dev → Dev := id) := wd fun d => let d := n1.dev; f {d with srv := {d.srv with models := [(0, x)]}}
def held := sm {active := some (ep (mfz [7] 1) fun e => {e with scrub := [(rsvPage 7, [])]})}
def h0 : Shard := {offset := 0, length := 3000000, source := 0, kind := 1, slice := 0, tenant := 0, placeFirst := 0, placeCount := 1, digest := [1,1,1,1,1,1,1,1]}
def eL : EpochRec := ep {mfz [7] 1 with shards := [h0]} fun e => {e with stages := [.staged 50], members := [77], loads := [(0, {page := some 50})]}
def mL : Model := {staged := some eL}
def crd (d : Dev) : Dev := {d with credits := [{head := 2, fa := 73, win := 4, gen := 5, have_ := 3}, {head := 2, fa := 73, win := 40, gen := 5, have_ := 2}]}
def sL := sm mL crd
def held2 := sm {active := some (ep (mfz [7] 1) fun e => {e with scrub := [(rsvPage 7, [])]})} crd
def ten (d : Dev) : Dev := {fset d (ctl R.HAL_REMOTE 0 4) F.HAL_REMOTE_TENANT_EN 1 with srv := {d.srv with tenants := [([1,2],6), ([3], 8)]}}
def n2 : State := {n1 with dev := ten n1.dev}
def n3 : State := {n2 with dev := {n2.dev with srv := {n2.dev.srv with tagLines := [⟨9, 76, 4096, 3⟩], tagOwners := [(9, [1])]}}}
def msg (l : List Byte) : Vector Byte 64 := Vector.ofFn fun i => l.getD i 0
def P : Word := 0x80000000
def cm := sm {parts := (List.range 13).map fun i => (i, le 4 0 ++ le 4 1000 ++ List.replicate 40 (BitVec.ofNat 8 i))}
def rmv : Model := {active := some (ep (mfz [7] 1) fun e => {e with scrub := [(rsvPage 7, [])]})}
def pin (d : Dev) : Dev := {d with srv := {d.srv with slots := [(4, {model := 0, epoch := 3})]}}
def rt := msg ([4,0,0,0] ++ le 4 (locId 3 0 4))
def ret (d : Dev) : Dev := {d with cont := {d.cont with due := [locId 3 0 4]}}
def sx1 : State := sm {} ret
def mbytes (ed prev : Nat) : List Byte := le 4 0x4D57545A ++ le 2 1 ++ le 2 ed ++ le 8 5 ++ le 4 3 ++ le 2 1 ++ le 1 1 ++ le 1 0 ++ le 4 1 ++ le 4 1 ++ le 4 prev ++ List.replicate 220 0
  ++ List.replicate 512 0 ++ (le 8 0 ++ le 4 1024 ++ le 1 0 ++ le 1 3 ++ le 2 0 ++ le 2 0 ++ le 4 0 ++ le 4 1 ++ List.replicate 38 0 ++ List.replicate 64 9) ++ le 8 7
def stg0 := sm mL
def ed1 (d : Dev) : Dev := d
def mx (ed : Nat) : Model := {expected := sha512 (mbytes ed 4294967295)}
def KV : List Nat := (kvRun n1.dev 1).getD []
def P1 : Nat := (freeRun (takePages n1.dev KV 6 false false) 1).getD 0
def mfp (ed : Nat) : Manifest := (parseManifest (mbytes ed 4294967295)).getD ⟨0, 0, 0, 0, [], [], [], 0⟩
def so0 : Source := (mfp 1).sources.headD ⟨0, 0, [], 0, [], []⟩
def sx2 : State := sm {}
def pt73 (d : Dev) : Partner := ⟨73, 2, 3, 1, 1, 50, [], (sha512 (modelTable d)).take 8, 4, 18⟩
def two (d : Dev) : Dev := {d with partners := [pt73 d], roster := [73, 77]}
def s2 := sm (mx 1) two
def dig : List Byte := beBytes 64
  0x3300be26bd7a799d093b0d09a2904d4e75c4cd6bdef22bbec0de597ca567a21eda82bdd67dbfe3f54c7e18db796de46895230845c5da89cd60cc9fe9d1ad64ac
def dat : List Byte := [1, 2, 3] ++ List.replicate 1021 0
def so : Source := {kind := 1, port := 9, addr := [1,2], nsid := 4, name := [7], path := []}
def mfd (pl : List Nat) (kind : Nat) : Manifest := {mfz pl kind with sources := [so], shards := (mfz pl kind).shards.map fun h => {h with digest := dig}}
def shd (pl : List Nat) (kind : Nat) : Shard := {offset := 0, length := 1024, source := 0, kind, slice := 0, tenant := 0, placeFirst := 0, placeCount := 1, digest := dig}
def stg (pl : List Nat) (kind : Nat) (st : ShardStage) (f : Dev → Dev := id) (n := 0) := sm {staged := some (ep (mfd pl kind) fun e => {e with asked := [0], members := [77], stages := [st], tries := if n = 0 then [] else [(0,n)]})} f
def epS (pl : List Nat) (kind : Nat) (st : ShardStage) (n := 0) := ep (mfd pl kind) fun e => {e with asked := [0], members := [77], stages := [st], tries := if n = 0 then [] else [(0,n)]}
def re3 (n : Nat) : EpochRec := {epS [7] 1 .waiting n with retries := [(0, 3)]}
def sx3 : State := sm {staged := some (re3 0)}
def sx4 : State := sm {staged := some (re3 2)}
def pd (d : Dev) : Dev := setPage {d with rsv := memWrite { zeroed := [(8*2097152, 10*2097152)] } (9*2097152) dat} 9 6 0 false
def cd (d : Dev) : Dev :=
  let d := pd d
  let d := fset (setBlk d 3 4 (unitBlk (blk d 3 4))) (ctl R.SEQ_US_CTRL 3 4) F.SEQ_US_CTRL_VALID 1
  let x := blk d 3 4
  setBlk d 3 4 {x with ps := memWrite x.ps 0 (le 2 (3*24+4))}
def run0 : Nat := (3*24+4) + 0*2048 + 5*8192
def pgs (k : Nat) (last : Nat) (tally : Nat) (dg : List Byte) (f : Dev → Dev := id) := sm {active := some (ep (mfz [7] 1) fun e => {e with scrub := [(k, dg)], lastScrub := [(k, last)]})} fun d => f {d with tally}
def eP (k last : Nat) (dg : List Byte) := ep (mfz [7] 1) fun e => {e with scrub := [(k, dg)], lastScrub := [(k, last)]}
def T0 : Nat := 14000000000000
def pc : PageRef := .cistern 3 4 5
def pq : PageRef := .reservoir 7
def up7 (d : Dev) : Dev := let d := (List.range 8).foldl (fun d k => fset (fset d (ctl R.BRG_STATUS (48 + k) 0) F.BRG_STATUS_UP 1) (ctl R.RSV_STATUS (48 + k) 0) F.RSV_STATUS_READY 1) d; setPage d 7 3 1 false
def dn7 (d : Dev) : Dev := fset d (ctl R.RSV_STATUS 55 0) F.RSV_STATUS_READY 0
def rdr (d : Dev) : Dev := let x := unitBlk (blk d 3 4); let d := fset (setBlk d 3 4 {x with ps := memWrite x.ps 12 (le 4 4096)}) (ctl R.SEQ_US_CTRL 3 4) F.SEQ_US_CTRL_VALID 1; {d with step := {d.step with running := true}}
def pc0 : PageRef := .cistern 3 4 0
def FR (s : State) : Nat := (freeRun s.dev 1).getD 0
def s0 := pgs pc.key 5 T0 []
def dgs : List Byte := sha512 [1, 2, 3]
def env : RepairEnv := {peer := some (73, [1, 2, 3])}
def env2 : RepairEnv := {source := some [1, 2, 3]}
def tw (d : Dev) : Dev := {d with partners := [pt73 d]}
def s1 := pgs pc.key 5 T0 dgs tw
def s7 := pgs pq.key 5 T0 dgs
def ret7 (d : Dev) : Dev := wr d (pageReg 7 0) 7
def s7r := pgs pq.key 5 T0 dgs ret7
def sx5 : State := wd fun d => wr (wr d (ctl R.CIS_SCRUB_RUN 3 4) 0x2000005) (ctl R.CIS_SCRUB_DEST 3 4) 9
def sx6 : State := wd fun d => fset d (ctl R.CIS_SCRUB_CTRL 3 4) F.CIS_SCRUB_CTRL_BUSY 1
def sr (r : Option ScrubRun) (f : Block → Block := id) (g : Dev → Dev := id) := wd fun d => let d := g (fsets (setBlk d 3 4 (unitBlk (blk d 3 4))) (ctl R.CIS_SCRUB_CTRL 3 4) [(F.CIS_SCRUB_CTRL_GO, 1), (F.CIS_SCRUB_CTRL_BUSY, 1)]); setBlk d 3 4 (f {blk d 3 4 with scrub := r})
def r1 : ScrubRun := ⟨10, 3, 64⟩
def sx7 : State := sr (some r1) fun x => {x with debt := [(0,1)]}
def r0 : ScrubRun := ⟨0, 3, 64⟩
def r2 : ScrubRun := ⟨2045, 3, 64⟩
def srm (dg : List Byte) := sr (some r2) id fun d => {d with srv := {d.srv with scrubbed := [(76*64, 2045)], models := [(0, {active := some (eP (76*64) 5 dg)})]}}
def cdOff (d : Dev) : Dev := wr (cd d) (ctl R.CIS_PWR_RDY 3 4) 0
def dz : List Byte := sha512 (pageBytes (pgs pq.key 5 T0 []).dev pq.key)
def dTwo : Dev := { n1.dev with srv := { n1.dev.srv with models := [(0, mx 1)] } }
theorem precinct_two : precinct s2.dev = [pt73 dTwo, ownRecord (two dTwo)] := by rfl
theorem modelTable_two (d : Dev) : modelTable (two d) = modelTable d := rfl
theorem serving_two : servingMembers s2.dev = [73, 77] := by
  have h : (pt73 dTwo).models = (ownRecord (two dTwo)).models :=
    congrArg (fun l => (sha512 l).take 8) (modelTable_two dTwo).symm
  have f : (pt73 dTwo).fa = 73 ∧ (ownRecord s2.dev).fa = 77 ∧ s2.dev.roster = [73, 77] := by decide +kernel
  simp only [servingMembers, precinct_two, List.filter_cons, List.filter_nil, f, h, show ownRecord s2.dev = ownRecord (two dTwo) from rfl]
  have g : (ownRecord (two dTwo)).fa = 77 := f.2.1
  simp [f.1, g]
theorem windows_s2 (w : Nat) (_ : w < 4096) : (window s2.dev w).state = 0 := by
  have h : s2.dev.windows = [] := by decide +kernel
  simp [window, h, mgetD, mget]
theorem twins_tw (d : Dev) : twins (tw d) = [73] := by
  have h : modelTable (tw d) = modelTable d := rfl
  simp only [twins, h]
  simp [tw, pt73]
theorem twins_s1 : twins s1.dev = [73] := twins_tw _
theorem peer_s1 : repairPeer s1.dev pc.key env = some 73 := by
  have n : s1.dev.srv.noPage = [] := by decide +kernel
  simp [repairPeer, twins_s1, n, env]
theorem scrub_eP (k l : Nat) (dg : List Byte) : mgetD (eP k l dg).scrub k [] = dg := by simp [eP, ep, mgetD, mget]
theorem uses_eP (dg : List Byte) : epochUsing (pgs pq.key 5 T0 dg).dev pq.key = some (eP pq.key 5 dg) := by rfl
theorem pageBytes_congr {d e : Dev} {k : Nat} (hk : 1048576 ≤ k) (hr : d.rsv = e.rsv) (he : d.epoch = e.epoch) :
    pageBytes d k = pageBytes e k := by
  simp only [pageBytes, rsvRead, if_neg (Nat.not_lt.mpr hk), hr, he]
theorem bytes_eP (dg : List Byte) : sha512 (pageBytes (pgs pq.key 5 T0 dg).dev pq.key) = dz :=
  congrArg sha512 (pageBytes_congr (by decide +kernel) (by simp only [pgs, sm, wd, id]) (by simp only [pgs, sm, wd, id]))

/-- Obligations.ModelMessagesComplete: its premises on windowReady hold together. -/
theorem witness_ModelMessagesComplete_windowReady :
    (powered n1.dev = true ∧ (hd.dst.val = ownFa n1.dev ∧ received n1.dev hd.arrival = true ∧ headReachable n1.dev
      hd.head.val = true) ∧ ShardsSettled n1.dev ∧ (∀ (x : Nat × EpochRec), x ∈ modelEpochs n1.dev → ∀ (p : Nat × Shard ×
      ShardStage), p ∈ x.snd.numbered → List.take 8 p.snd.fst.digest = (Vector.replicate 8 1).toList → isLoader n1.dev x.snd
      p.fst = false)) ∧ (powered sL.dev = true ∧ (hd.dst.val = ownFa sL.dev ∧ received sL.dev hd.arrival = true ∧
      headReachable sL.dev hd.head.val = true) ∧ ShardsSettled sL.dev ∧ sL.dev.srv.models = [(0, mL)] ∧ mL.staged = some eL
      ∧ mL.active = none ∧ mL.prev = none ∧ eL.numbered = [(0, h0, ShardStage.staged 50)] ∧ isLoader sL.dev eL 0 = true ∧
      eL.loads = [(0, ({ page := some 50 } : Loading))] ∧ List.take 8 h0.digest = (Vector.replicate 8 1).toList ∧ 1 *
      1048576 < h0.length ∧ 4 < 4096) := by
  decide +kernel

/-- Obligations.ModelMessagesComplete: its premises on pageRequest hold together. -/
theorem witness_ModelMessagesComplete_pageRequest :
    (powered n1.dev = true ∧ (hd.dst.val = ownFa n1.dev ∧ received n1.dev hd.arrival = true ∧ headReachable n1.dev
      hd.head.val = true) ∧ ShardsSettled n1.dev ∧ holdsPage n1.dev pm = false) ∧ (powered held.dev = true ∧ (hd.dst.val =
      ownFa held.dev ∧ received held.dev hd.arrival = true ∧ headReachable held.dev hd.head.val = true) ∧ ShardsSettled
      held.dev ∧ holdsPage held.dev ({ pm with window := 5000 } : PageMsg) = true ∧ 4096 ≤ ↑({ pm with window := 5000 } :
      PageMsg).window) ∧ (powered held2.dev = true ∧ (hd.dst.val = ownFa held2.dev ∧ received held2.dev hd.arrival = true ∧
      headReachable held2.dev hd.head.val = true) ∧ ShardsSettled held2.dev ∧ holdsPage held2.dev pm = true ∧ ↑pm.window <
      4096) := by
  decide +kernel

/-- Obligations.ModelMessagesComplete: its premises on pageRefused hold together. -/
theorem witness_ModelMessagesComplete_pageRefused :
    powered held.dev = true ∧ (hd.dst.val = ownFa held.dev ∧ received held.dev hd.arrival = true ∧ headReachable held.dev
      hd.head.val = true) := by
  decide +kernel

/-- Obligations.ModelMessagesComplete: its premises on tenantSet hold together. -/
theorem witness_ModelMessagesComplete_tenantSet :
    (powered n2.dev = true ∧ (hd.dst.val = ownFa n2.dev ∧ received n2.dev hd.arrival = true ∧ headReachable n2.dev
      hd.head.val = true) ∧ flag n2.dev (ctl R.HAL_REMOTE 0 4) F.HAL_REMOTE_TENANT_EN = true ∧ hd.src.val ∈ n2.dev.roster ∧
      (¬(9 ≠ 0 ∧ (∃ t, t ∈ n2.dev.srv.tagLines ∧ t.tag = 9) ∧ (∃ o, o ∈ n2.dev.srv.tagOwners ∧ o.fst = 9) ∧ ¬(9, List.take
      32 [1, 2]) ∈ n2.dev.srv.tagOwners))) ∧ (powered n1.dev = true ∧ (¬¬(hd.dst.val = ownFa n1.dev ∧ received n1.dev
      hd.arrival = true ∧ headReachable n1.dev hd.head.val = true)) ∧ (¬((hd.dst.val = ownFa n1.dev ∧ received n1.dev
      hd.arrival = true ∧ headReachable n1.dev hd.head.val = true) ∧ flag n1.dev (ctl R.HAL_REMOTE 0 4)
      F.HAL_REMOTE_TENANT_EN = true ∧ hd.src.val ∈ n1.dev.roster))) ∧ (powered n3.dev = true ∧ (¬¬(hd.dst.val = ownFa n3.dev
      ∧ received n3.dev hd.arrival = true ∧ headReachable n3.dev hd.head.val = true)) ∧ (9 ≠ 0 ∧ (∃ t, t ∈
      n3.dev.srv.tagLines ∧ t.tag = 9) ∧ (∃ o, o ∈ n3.dev.srv.tagOwners ∧ o.fst = 9) ∧ ¬(9, List.take 32 [1, 2]) ∈
      n3.dev.srv.tagOwners)) ∧ (powered n3.dev = true ∧ (hd.dst.val = ownFa n3.dev ∧ received n3.dev hd.arrival = true ∧
      headReachable n3.dev hd.head.val = true) ∧ flag n3.dev (ctl R.HAL_REMOTE 0 4) F.HAL_REMOTE_TENANT_EN = true ∧
      hd.src.val ∈ n3.dev.roster ∧ (¬(9 ≠ 0 ∧ (∃ t, t ∈ n3.dev.srv.tagLines ∧ t.tag = 9) ∧ (∃ o, o ∈ n3.dev.srv.tagOwners ∧
      o.fst = 9) ∧ ¬(9, List.take 32 [1]) ∈ n3.dev.srv.tagOwners))) := by
  and_intros <;> first | decide +kernel | rfl

/-- Obligations.ModelMessagesComplete: its premises on modelPart hold together. -/
theorem witness_ModelMessagesComplete_modelPart :
    (powered n1.dev = true ∧ 2 ≤ BitVec.toNat P / 1073741824 ∧ numAt (msg [1, 4, 3, 0, 0, 0, 0, 0, 9, 8]).toList 0 1 = 1 ∧
      numAt (msg [1, 4, 3, 0, 0, 0, 0, 0, 9, 8]).toList 1 1 < 64 ∧ numAt (msg [1, 4, 3, 0, 0, 0, 0, 0, 9, 8]).toList 2 1 <
      13) ∧ (powered n1.dev = true ∧ (¬2 ≤ 1073741824 / 1073741824)) := by
  decide +kernel

/-- Obligations.ModelMessagesComplete: its premises on modelCommit hold together. -/
theorem witness_ModelMessagesComplete_modelCommit :
    (powered cm.dev = true ∧ 2 ≤ BitVec.toNat P / 1073741824 ∧ numAt (msg [2, 0]).toList 0 1 = 2 ∧ numAt (msg
      [2, 0]).toList 1 1 < 64 ∧ (∀ (i : Nat), i < 13 → (mget (model cm.dev (numAt (msg [2, 0]).toList 1 1)).parts i).isSome
      = true) ∧ (model cm.dev (numAt (msg [2, 0]).toList 1 1)).staged = none ∧ (model cm.dev (numAt (msg [2, 0]).toList 1
      1)).active = none ∧ 256 ≤ numAt (List.take 592 (List.flatMap (fun i => (mget (model cm.dev (numAt (msg [2, 0]).toList
      1 1)).parts i).getD []) (List.range 13))) 4 4 ∧ numAt (List.take 592 (List.flatMap (fun i => (mget (model cm.dev
      (numAt (msg [2, 0]).toList 1 1)).parts i).getD []) (List.range 13))) 4 4 ≤ 16777216) ∧ (powered n1.dev = true ∧ (∃ i,
      i < 13 ∧ mget (model n1.dev (numAt (msg [2, 0]).toList 1 1)).parts i = none)) := by
  decide +kernel

/-- Obligations.ModelMessagesComplete: its premises on modelRemove hold together. -/
theorem witness_ModelMessagesComplete_modelRemove :
    (powered (sm rmv).dev = true ∧ 2 ≤ BitVec.toNat P / 1073741824 ∧ numAt (msg [3, 0]).toList 0 1 = 3 ∧ numAt (msg
      [3, 0]).toList 1 1 < 64 ∧ (sm rmv).dev.srv.models =
      [(numAt (msg [3, 0]).toList 1 1, model (sm rmv).dev (numAt (msg [3, 0]).toList 1 1))] ∧ (model (sm rmv).dev (numAt
      (msg [3, 0]).toList 1 1)).prev = none ∧ (model (sm rmv).dev (numAt (msg [3, 0]).toList 1 1)).staged = none ∧ (model
      (sm rmv).dev (numAt (msg [3, 0]).toList 1 1)).active = some (ep (mfz [7] 1) fun e =>
      ({ e with scrub := [(rsvPage 7, [])] } : EpochRec)) ∧ pins (sm rmv).dev (numAt (msg [3, 0]).toList 1 1) (ep (mfz [7]
      1) fun e => ({ e with scrub := [(rsvPage 7, [])] } : EpochRec)).epoch = 0) ∧ (powered (sm rmv pin).dev = true ∧ 2 ≤
      BitVec.toNat P / 1073741824 ∧ numAt (msg [3, 0]).toList 0 1 = 3 ∧ numAt (msg [3, 0]).toList 1 1 < 64 ∧ (sm rmv
      pin).dev.srv.models = [(numAt (msg [3, 0]).toList 1 1, model (sm rmv pin).dev (numAt (msg [3, 0]).toList 1 1))] ∧
      (model (sm rmv pin).dev (numAt (msg [3, 0]).toList 1 1)).prev = none ∧ (model (sm rmv pin).dev (numAt (msg
      [3, 0]).toList 1 1)).staged = none ∧ (model (sm rmv pin).dev (numAt (msg [3, 0]).toList 1 1)).active = some (ep (mfz
      [7] 1) fun e => ({ e with scrub := [(rsvPage 7, [])] } : EpochRec)) ∧ 0 < pins (sm rmv pin).dev (numAt (msg
      [3, 0]).toList 1 1) (ep (mfz [7] 1) fun e => ({ e with scrub := [(rsvPage 7, [])] } : EpochRec)).epoch) := by
  decide +kernel

/-- Obligations.ModelMessagesComplete: its premises on retire hold together. -/
theorem witness_ModelMessagesComplete_retire :
    (powered n1.dev = true ∧ 2 ≤ BitVec.toNat P / 1073741824 ∧ numAt rt.toList 0 1 = 4 ∧ locValid (numAt rt.toList 4 4) =
      true ∧ (¬numAt rt.toList 4 4 ∈ n1.dev.cont.retired) ∧ (¬numAt rt.toList 4 4 ∈ n1.dev.cont.pending) ∧ (¬numAt rt.toList
      4 4 ∈ n1.dev.cont.due)) ∧ (powered sx1.dev = true ∧ 2 ≤ BitVec.toNat P / 1073741824 ∧ numAt rt.toList 0 1 = 4 ∧
      locValid (numAt rt.toList 4 4) = true ∧ numAt rt.toList 4 4 ∈ sx1.dev.cont.due) := by
  decide +kernel

/-- Obligations.LoadComplete: its premises on manifestCheck hold together. -/
theorem witness_LoadComplete_manifestCheck_1 :
    (powered sx2.dev = true ∧ ShardsSettled sx2.dev ∧ (model sx2.dev 0).expected = [] ∧ (model sx2.dev 0).staged = none) ∧
      (powered stg0.dev = true ∧ ShardsSettled stg0.dev ∧ (model stg0.dev 0).staged = some eL ∧ eL.members ≠ []) ∧ (powered
      (sm (mx 1)).dev = true ∧ ShardsSettled (sm (mx 1)).dev ∧ (model (sm (mx 1)).dev 0).expected ≠ [] ∧ (model (sm (mx
      1)).dev 0).staged = none ∧ kvRun (sm (mx 1)).dev ((([1] : List Byte).length + 2097151) / 2097152) = some KV ∧ sha512
      [1] ≠ (model (sm (mx 1)).dev 0).expected) ∧ (powered (sm (mx 2)).dev = true ∧ ShardsSettled (sm (mx 2)).dev ∧ (model
      (sm (mx 2)).dev 0).expected ≠ [] ∧ (model (sm (mx 2)).dev 0).staged = none ∧ kvRun (sm (mx 2)).dev (((mbytes 2
      4294967295).length + 2097151) / 2097152) = some KV ∧ sha512 (mbytes 2 4294967295) = (model (sm (mx 2)).dev 0).expected
      ∧ parseManifest (mbytes 2 4294967295) = some (mfp 2) ∧ (mfp 2).edition ≠ fget (sm (mx 2)).dev (ctl R.DIE_EDITION 0 0)
      F.DIE_EDITION_EDITION) := by
  and_intros <;> first | decide +kernel | rfl

/-- Obligations.LoadComplete: its premises on manifestCheck hold together. -/
theorem witness_LoadComplete_manifestCheck_2 :
    powered (sm (mx 1)).dev = true ∧ ShardsSettled (sm (mx 1)).dev ∧ (model (sm (mx 1)).dev 0).expected ≠ [] ∧ (model (sm
      (mx 1)).dev 0).staged = none ∧ kvRun (sm (mx 1)).dev (((mbytes 1 4294967295).length + 2097151) / 2097152) = some KV ∧
      sha512 (mbytes 1 4294967295) = (model (sm (mx 1)).dev 0).expected ∧ parseManifest (mbytes 1 4294967295) = some (mfp 1)
      ∧ (mfp 1).edition = fget (sm (mx 1)).dev (ctl R.DIE_EDITION 0 0) F.DIE_EDITION_EDITION ∧ (placesOk (sm (mx 1)).dev
      (mfp 1) (if (mfp 1).prevEpoch = 4294967295 then none else List.find? (fun e => decide (e.epoch = (mfp 1).prevEpoch))
      (model (sm (mx 1)).dev 0).epochs) = true) ∧ servingMembers (sm (mx 1)).dev = [ownFa (sm (mx 1)).dev] := by
  decide +kernel

/-- Obligations.LoadComplete: its premises on manifestCheck hold together. -/
theorem witness_LoadComplete_manifestCheck_3 :
    powered (sm (mx 1)).dev = true ∧ ShardsSettled (sm (mx 1)).dev ∧ (model (sm (mx 1)).dev 0).expected ≠ [] ∧ (model (sm
      (mx 1)).dev 0).staged = none ∧ kvRun (sm (mx 1)).dev (((mbytes 1 4294967295).length + 2097151) / 2097152) = some KV ∧
      sha512 (mbytes 1 4294967295) = (model (sm (mx 1)).dev 0).expected ∧ parseManifest (mbytes 1 4294967295) = some (mfp 1)
      ∧ (mfp 1).edition = fget (sm (mx 1)).dev (ctl R.DIE_EDITION 0 0) F.DIE_EDITION_EDITION ∧ (placesOk (sm (mx 1)).dev
      (mfp 1) (if (mfp 1).prevEpoch = 4294967295 then none else List.find? (fun e => decide (e.epoch = (mfp 1).prevEpoch))
      (model (sm (mx 1)).dev 0).epochs) = true) ∧ servingMembers (sm (mx 1)).dev = [ownFa (sm (mx 1)).dev] ∧ (mfp 1).shards
      = [(mfp 1).shards.headD h0] ∧
      ((match if (mfp 1).prevEpoch = 4294967295 then none else List.find? (fun e => decide (e.epoch = (mfp 1).prevEpoch)) (model (sm (mx 1)).dev 0).epochs with | some e => reusable (mfp 1) e ((mfp 1).shards.headD h0) | none => false)
      = false) ∧ 0 < ((mfp 1).shards.headD h0).length ∧ ((mfp 1).shards.headD h0).length ≤ 1048576 ∧ (mfp
      1).sources[((mfp 1).shards.headD h0).source]? = some so0 ∧ (sm (mx 1)).dev.srv.models = [(0, model (sm (mx 1)).dev 0)] := by
  and_intros <;> first | decide +kernel | rfl

/-- Obligations.LoadComplete: its premises on manifestCheck hold together. -/
theorem witness_LoadComplete_manifestCheck_4 :
    powered s2.dev = true ∧ ShardsSettled s2.dev ∧ (model s2.dev 0).expected ≠ [] ∧ (model s2.dev 0).staged = none ∧ kvRun
      s2.dev (((mbytes 1 4294967295).length + 2097151) / 2097152) = some KV ∧ sha512 (mbytes 1 4294967295) = (model s2.dev
      0).expected ∧ parseManifest (mbytes 1 4294967295) = some (mfp 1) ∧ (mfp 1).edition = fget s2.dev (ctl R.DIE_EDITION 0
      0) F.DIE_EDITION_EDITION ∧ (placesOk s2.dev (mfp 1) (if (mfp 1).prevEpoch = 4294967295 then none else List.find? (fun
      e => decide (e.epoch = (mfp 1).prevEpoch)) (model s2.dev 0).epochs) = true) ∧ (mfp 1).shards =
      [(mfp 1).shards.headD h0] ∧
      ((match if (mfp 1).prevEpoch = 4294967295 then none else List.find? (fun e => decide (e.epoch = (mfp 1).prevEpoch)) (model s2.dev 0).epochs with | some e => reusable (mfp 1) e ((mfp 1).shards.headD h0) | none => false)
      = false) ∧ ((mfp 1).shards.headD h0).kind = 3 ∧ servingMembers s2.dev = [73, 77] ∧ 73 ≠ ownFa s2.dev ∧ 0 < ((mfp
      1).shards.headD h0).length ∧ ((mfp 1).shards.headD h0).length ≤ 1048576 ∧ freeRun (takePages s2.dev KV 6 false false)
      1 = some P1 ∧ (∀ (w : Nat), w < 4096 → (window s2.dev w).state = 0) ∧ s2.dev.srv.models = [(0, model s2.dev 0)] ∧
      (model s2.dev 0).active = none ∧ (model s2.dev 0).prev = none := by
  have h : sha512 (mbytes 1 4294967295) = (model s2.dev 0).expected := rfl
  refine ⟨by decide +kernel, by decide +kernel, ?_, by decide +kernel, by decide +kernel, h, by decide +kernel, by decide +kernel,
    by decide +kernel, by decide +kernel, by decide +kernel, by decide +kernel, serving_two, ?_⟩
  · exact h ▸ sha512_ne_nil _
  · refine ⟨by decide +kernel, by decide +kernel, by decide +kernel, by decide +kernel, windows_s2, ?_⟩
    and_intros <;> decide +kernel

/-- Obligations.LoadComplete: its premises on shardStaged hold together. -/
theorem witness_LoadComplete_shardStaged :
    (powered (stg [7] 1 ShardStage.waiting).dev = true ∧ ShardsSettled (stg [7] 1 ShardStage.waiting).dev ∧ stagedShard
      (stg [7] 1 ShardStage.waiting).dev (0) 0 = some (epS [7] 1 ShardStage.waiting, shd [7] 1, ShardStage.waiting) ∧
      isLoader (stg [7] 1 ShardStage.waiting).dev (epS [7] 1 ShardStage.waiting) 0 = true ∧ freeRun (stg [7] 1
      ShardStage.waiting).dev (((shd [7] 1).length + 2097151) / 2097152) = some ((freeRun n1.dev 1).getD 0) ∧ (stg [7] 1
      ShardStage.waiting).dev.rsv.wf = true) ∧ (powered (stg [7] 1 ShardStage.waiting).dev = true ∧ ShardsSettled (stg [7] 1
      ShardStage.waiting).dev ∧ stagedShard (stg [7] 1 ShardStage.waiting).dev (0) 0 = some (epS [7] 1 ShardStage.waiting,
      shd [7] 1, ShardStage.waiting) ∧ (0 ∈ (epS [7] 1 ShardStage.waiting).asked ∧ (isLoader (stg [7] 1
      ShardStage.waiting).dev (epS [7] 1 ShardStage.waiting) 0 = true ∨ 2 ≤ mgetD (epS [7] 1 ShardStage.waiting).tries 0 0)
      ∧ mgetD (epS [7] 1 ShardStage.waiting).retries (0 * 4096 + 0) 0 < 3) ∧ 0 * 1048576 < (shd [7] 1).length ∧ (epS [7] 1
      ShardStage.waiting).manifest.sources[(shd [7] 1).source]? = some so) ∧ (powered sx3.dev = true ∧ ShardsSettled sx3.dev
      ∧ stagedShard sx3.dev (0) 0 = some (re3 0, shd [7] 1, ShardStage.waiting) ∧ (¬(0 ∈ (re3 0).asked ∧ (isLoader sx3.dev
      (re3 0) 0 = true ∨ 2 ≤ mgetD (re3 0).tries 0 0) ∧ mgetD (re3 0).retries (0 * 4096 + 0) 0 < 3))) ∧ (powered sx4.dev =
      true ∧ ShardsSettled sx4.dev ∧ stagedShard sx4.dev (0) 0 = some (re3 2, shd [7] 1, ShardStage.waiting) ∧ (¬(0 ∈ (re3
      2).asked ∧ (isLoader sx4.dev (re3 2) 0 = true ∨ 2 ≤ mgetD (re3 2).tries 0 0) ∧ mgetD (re3 2).retries (0 * 4096 + 0) 0
      < 3))) := by
  and_intros <;> first | decide +kernel | rfl

/-- Obligations.LoadComplete: its premises on shardDigestDone hold together. -/
theorem witness_LoadComplete_shardDigestDone_1 :
    powered (stg [7] 1 (ShardStage.staged 9) pd).dev = true ∧ ShardsSettled (stg [7] 1 (ShardStage.staged 9) pd).dev ∧
      stagedShard (stg [7] 1 (ShardStage.staged 9) pd).dev (0) 0 = some (epS [7] 1 (ShardStage.staged 9), shd [7] 1,
      ShardStage.staged 9) ∧ ShardStage.staged 9 = ShardStage.staged 9 ∧ sha512 (rsvRead (stg [7] 1 (ShardStage.staged 9)
      pd).dev (9 * 2097152) (shd [7] 1).length) = (shd [7] 1).digest ∧ (¬((shd [7] 1).kind = 3 ∧ tokenizerOk (rsvRead (stg
      [7] 1 (ShardStage.staged 9) pd).dev (9 * 2097152) (shd [7] 1).length) = false)) := by
  decide +kernel

/-- Obligations.LoadComplete: its premises on shardDigestDone hold together. -/
theorem witness_LoadComplete_shardDigestDone_2 :
    powered (stg [7] 3 (ShardStage.staged 9) pd).dev = true ∧ ShardsSettled (stg [7] 3 (ShardStage.staged 9) pd).dev ∧
      stagedShard (stg [7] 3 (ShardStage.staged 9) pd).dev (0) 0 = some (epS [7] 3 (ShardStage.staged 9), shd [7] 3,
      ShardStage.staged 9) ∧ ShardStage.staged 9 = ShardStage.staged 9 ∧ sha512 (rsvRead (stg [7] 3 (ShardStage.staged 9)
      pd).dev (9 * 2097152) (shd [7] 3).length) = (shd [7] 3).digest ∧ ((shd [7] 3).kind = 3 ∧ tokenizerOk (rsvRead (stg [7]
      3 (ShardStage.staged 9) pd).dev (9 * 2097152) (shd [7] 3).length) = false) := by
  decide +kernel

/-- Obligations.LoadComplete: its premises on shardDigestDone hold together. -/
theorem witness_LoadComplete_shardDigestDone_3 :
    powered (stg [7] 1 (ShardStage.staged 8) pd).dev = true ∧ ShardsSettled (stg [7] 1 (ShardStage.staged 8) pd).dev ∧
      stagedShard (stg [7] 1 (ShardStage.staged 8) pd).dev (0) 0 = some (epS [7] 1 (ShardStage.staged 8), shd [7] 1,
      ShardStage.staged 8) ∧ ShardStage.staged 8 = ShardStage.staged 8 ∧ sha512 (rsvRead (stg [7] 1 (ShardStage.staged 8)
      pd).dev (8 * 2097152) (shd [7] 1).length) ≠ (shd [7] 1).digest ∧ isLoader (stg [7] 1 (ShardStage.staged 8) pd).dev
      (epS [7] 1 (ShardStage.staged 8)) 0 = true := by
  decide +kernel

/-- Obligations.ScrubComplete: its premises on scrubInterval hold together. -/
theorem witness_ScrubComplete_scrubInterval_1 :
    powered n1.dev = true ∧ epochUsing n1.dev pc.key = none := by
  decide +kernel

/-- Obligations.ScrubComplete: its premises on scrubInterval hold together. -/
theorem witness_ScrubComplete_scrubInterval_2 :
    powered (pgs pc.key 5 1000 []).dev = true ∧ epochUsing (pgs pc.key 5 1000 []).dev pc.key = some (eP pc.key 5 []) ∧
      (¬mgetD (eP pc.key 5 []).lastScrub pc.key 0 + scrubTicks (pgs pc.key 5 1000 []).dev ≤ (pgs pc.key 5 1000
      []).dev.tally) := by
  decide +kernel

/-- Obligations.ScrubComplete: its premises on scrubInterval hold together. -/
theorem witness_ScrubComplete_scrubInterval_3 :
    powered (pgs pc.key 5 T0 []).dev = true ∧ epochUsing (pgs pc.key 5 T0 []).dev pc.key = some (eP pc.key 5 []) ∧ mgetD
      (eP pc.key 5 []).lastScrub pc.key 0 + scrubTicks (pgs pc.key 5 T0 []).dev ≤ (pgs pc.key 5 T0 []).dev.tally ∧ pc.key <
      1048576 := by
  decide +kernel

/-- Obligations.ScrubComplete: its premises on scrubInterval hold together. -/
theorem witness_ScrubComplete_scrubInterval_4 :
    powered (pgs pq.key 5 T0 [] dn7).dev = true ∧ epochUsing (pgs pq.key 5 T0 [] dn7).dev pq.key = some (eP pq.key 5 []) ∧
      pq = PageRef.reservoir 7 ∧ mgetD (eP pq.key 5 []).lastScrub pq.key 0 + scrubTicks (pgs pq.key 5 T0 [] dn7).dev ≤ (pgs
      pq.key 5 T0 [] dn7).dev.tally ∧ pageReadable (pgs pq.key 5 T0 [] dn7).dev 7 = false := by
  decide +kernel

/-- Obligations.ScrubComplete: its premises on scrubInterval hold together. -/
theorem witness_ScrubComplete_scrubInterval_5 :
    powered (pgs pq.key 5 T0 []).dev = true ∧ epochUsing (pgs pq.key 5 T0 []).dev pq.key = some (eP pq.key 5 []) ∧ pq =
      PageRef.reservoir 7 ∧ mgetD (eP pq.key 5 []).lastScrub pq.key 0 + scrubTicks (pgs pq.key 5 T0 []).dev ≤ (pgs pq.key 5
      T0 []).dev.tally ∧ pageReadable (pgs pq.key 5 T0 []).dev 7 = true ∧ sha512 (pageBytes (pgs pq.key 5 T0 []).dev pq.key)
      ≠ mgetD (eP pq.key 5 []).scrub pq.key [] := by
  and_intros <;> first | exact sha512_ne_nil _ | decide +kernel

/-- Obligations.ScrubComplete: its premises on scrubInterval hold together. -/
theorem witness_ScrubComplete_scrubInterval_6 :
    powered (pgs pq.key 5 T0 dz).dev = true ∧ epochUsing (pgs pq.key 5 T0 dz).dev pq.key = some (eP pq.key 5 dz) ∧ pq =
      PageRef.reservoir 7 ∧ mgetD (eP pq.key 5 dz).lastScrub pq.key 0 + scrubTicks (pgs pq.key 5 T0 dz).dev ≤ (pgs pq.key 5
      T0 dz).dev.tally ∧ pageReadable (pgs pq.key 5 T0 dz).dev 7 = true ∧ sha512 (pageBytes (pgs pq.key 5 T0 dz).dev pq.key)
      = mgetD (eP pq.key 5 dz).scrub pq.key [] := by
  exact ⟨by decide +kernel, uses_eP dz, by decide +kernel, by decide +kernel, by decide +kernel,
    (bytes_eP dz).trans (scrub_eP pq.key 5 dz).symm⟩

/-- Obligations.ScrubComplete: its premises on pageRepair hold together. -/
theorem witness_ScrubComplete_pageRepair_1 :
    (powered n1.dev = true ∧ epochUsing n1.dev pc.key = none) ∧ (powered (pgs pc0.key 5 T0 [] rdr).dev = true ∧ epochUsing
      (pgs pc0.key 5 T0 [] rdr).dev pc0.key = some (eP pc0.key 5 []) ∧ stepReads (pgs pc0.key 5 T0 [] rdr).dev pc0 = true) ∧
      (powered s0.dev = true ∧ epochUsing s0.dev pc.key = some (eP pc.key 5 []) ∧ stepReads s0.dev pc = false ∧ freeRun
      s0.dev 1 = some (FR s0) ∧ (List.findSome? (fun c => c.snd.bind fun bs => if sha512 bs = mgetD (eP pc.key 5 []).scrub
      pc.key [] then some (c.fst, bs) else none)
      [(0, if ({} : RepairEnv).groundFails = true then none else groundCopy s0.dev pc.key), (1, if (List.find? (fun w => (window s0.dev w).state == 0) (List.range 4096)).isSome = true then (repairPeer s0.dev pc.key ({} : RepairEnv)).bind fun fa => Option.map Prod.snd (Option.filter (fun x : Fin 65536 × List Byte => x.1.val == fa) ({} : RepairEnv).peer) else none), (2, ({} : RepairEnv).source)]
      = none)) ∧ (powered s1.dev = true ∧ epochUsing s1.dev pc.key = some (eP pc.key 5 dgs) ∧ stepReads s1.dev pc = false ∧
      freeRun s1.dev 1 = some (FR s1) ∧ (List.findSome? (fun c => c.snd.bind fun bs => if sha512 bs = mgetD (eP pc.key 5
      dgs).scrub pc.key [] then some (c.fst, bs) else none)
      [(0, if env.groundFails = true then none else groundCopy s1.dev pc.key), (1, if (List.find? (fun w => (window s1.dev w).state == 0) (List.range 4096)).isSome = true then (repairPeer s1.dev pc.key env).bind fun fa => Option.map Prod.snd (Option.filter (fun x : Fin 65536 × List Byte => x.1.val == fa) env.peer) else none), (2, env.source)]
      = some (1, [1, 2, 3])) ∧ repairPeer s1.dev pc.key env = some 73 ∧ List.find? (fun w => (window s1.dev w).state == 0)
      (List.range 4096) = some 0) ∧ (powered s1.dev = true ∧ epochUsing s1.dev pc.key = some (eP pc.key 5 dgs) ∧ stepReads
      s1.dev pc = false ∧ freeRun s1.dev 1 = some (FR s1) ∧ (List.findSome? (fun c => c.snd.bind fun bs => if sha512 bs =
      mgetD (eP pc.key 5 dgs).scrub pc.key [] then some (c.fst, bs) else none)
      [(0, if env.groundFails = true then none else groundCopy s1.dev pc.key), (1, if (List.find? (fun w => (window s1.dev w).state == 0) (List.range 4096)).isSome = true then (repairPeer s1.dev pc.key env).bind fun fa => Option.map Prod.snd (Option.filter (fun x : Fin 65536 × List Byte => x.1.val == fa) env.peer) else none), (2, env.source)]
      = some (1, [1, 2, 3])) ∧ pc = PageRef.cistern 3 4 5 ∧ (blk s1.dev 3 4).cistern.wf = true) := by
  and_intros <;> first | with_reducible exact peer_s1 | (simp only [peer_s1]; decide +kernel) | decide +kernel

/-- Obligations.ScrubComplete: its premises on pageRepair hold together. -/
theorem witness_ScrubComplete_pageRepair_2 :
    (powered s7.dev = true ∧ epochUsing s7.dev pq.key = some (eP pq.key 5 dgs) ∧ stepReads s7.dev pq = false ∧ freeRun
      s7.dev 1 = some (FR s7) ∧ (List.findSome? (fun c => c.snd.bind fun bs => if sha512 bs = mgetD (eP pq.key 5 dgs).scrub
      pq.key [] then some (c.fst, bs) else none)
      [(0, if env2.groundFails = true then none else groundCopy s7.dev pq.key), (1, if (List.find? (fun w => (window s7.dev w).state == 0) (List.range 4096)).isSome = true then (repairPeer s7.dev pq.key env2).bind fun fa => Option.map Prod.snd (Option.filter (fun x : Fin 65536 × List Byte => x.1.val == fa) env2.peer) else none), (2, env2.source)]
      = some (2, [1, 2, 3])) ∧ pq = PageRef.reservoir 7 ∧ s7.dev.rsv.wf = true ∧ entryKind (pageEntry s7.dev 7) ≠ 7) ∧
      (powered s7r.dev = true ∧ epochUsing s7r.dev pq.key = some (eP pq.key 5 dgs) ∧ stepReads s7r.dev pq = false ∧ freeRun
      s7r.dev 1 = some (FR s7r) ∧ (List.findSome? (fun c => c.snd.bind fun bs => if sha512 bs = mgetD (eP pq.key 5
      dgs).scrub pq.key [] then some (c.fst, bs) else none)
      [(0, if env2.groundFails = true then none else groundCopy s7r.dev pq.key), (1, if (List.find? (fun w => (window s7r.dev w).state == 0) (List.range 4096)).isSome = true then (repairPeer s7r.dev pq.key env2).bind fun fa => Option.map Prod.snd (Option.filter (fun x : Fin 65536 × List Byte => x.1.val == fa) env2.peer) else none), (2, env2.source)]
      = some (2, [1, 2, 3])) ∧ pq = PageRef.reservoir 7 ∧ s7r.dev.rsv.wf = true ∧ entryKind (pageEntry s7r.dev 7) = 7 ∧
      freeRun (setPage s7r.dev (FR s7r) 6 0 false) 1 = some ((freeRun (setPage s7r.dev (FR s7r) 6 0 false) 1).getD 0)) := by
  and_intros <;> first | decide +kernel | rfl

/-- Obligations.ScrubComplete: its premises on scrubRunStart hold together. -/
theorem witness_ScrubComplete_scrubRunStart :
    (powered sx5.dev = true ∧ MayWrite sx5.dev mp (ctl R.CIS_SCRUB_CTRL 3 4) ∧ flag sx5.dev (ctl R.CIS_SCRUB_CTRL 3 4)
      F.CIS_SCRUB_CTRL_BUSY = false) ∧ (powered sx6.dev = true ∧ MayWrite sx6.dev mp (ctl R.CIS_SCRUB_CTRL 3 4) ∧ flag
      sx6.dev (ctl R.CIS_SCRUB_CTRL 3 4) F.CIS_SCRUB_CTRL_BUSY = true) := by
  decide +kernel

/-- Obligations.ScrubComplete: its premises on scrubRunDone hold together. -/
theorem witness_ScrubComplete_scrubRunDone_1 :
    powered (sr none).dev = true ∧ (blk (sr none).dev 3 4).scrub = none := by
  decide +kernel

/-- Obligations.ScrubComplete: its premises on scrubRunDone hold together. -/
theorem witness_ScrubComplete_scrubRunDone_2 :
    powered sx7.dev = true ∧ (blk sx7.dev 3 4).scrub = some r1 ∧ (¬∃ i, i < r1.left ∧ cisReady sx7.dev (3) (4) (r1.line +
      i) = false) ∧ (∃ i, i < r1.left ∧ (0 < mgetD (blk sx7.dev 3 4).debt ((r1.line + i) / 4096) 0 ∨ (mget (blk sx7.dev 3
      4).action ((r1.line + i) / 4096)).isSome = true)) := by
  decide +kernel

/-- Obligations.ScrubComplete: its premises on scrubRunDone hold together. -/
theorem witness_ScrubComplete_scrubRunDone_3 :
    powered (sr (some r1)).dev = true ∧ (blk (sr (some r1)).dev 3 4).scrub = some r1 ∧ (¬∃ i, i < r1.left ∧ cisReady (sr
      (some r1)).dev (3) (4) (r1.line + i) = false) ∧ (¬((∃ q, q ∈ (blk (sr (some r1)).dev 3 4).repairs ∧ q.reader = 2) ∨
      loaderClaims (sr (some r1)).dev 3 4 = true ∨ pumpClaims (blk (sr (some r1)).dev 3 4) = true ∨ ∃ i, i < r1.left ∧ (0 <
      mgetD (blk (sr (some r1)).dev 3 4).debt ((r1.line + i) / 4096) 0 ∨ (mget (blk (sr (some r1)).dev 3 4).action ((r1.line
      + i) / 4096)).isSome = true))) ∧ 0 < r1.left := by
  decide +kernel

/-- Obligations.ScrubComplete: its premises on scrubRunDone hold together. -/
theorem witness_ScrubComplete_scrubRunDone_4 :
    powered (sr (some r1)).dev = true ∧ (blk (sr (some r1)).dev 3 4).scrub = some r1 ∧ (¬∃ i, i < r1.left ∧ cisReady (sr
      (some r1)).dev (3) (4) (r1.line + i) = false) ∧ (¬((∃ q, q ∈ (blk (sr (some r1)).dev 3 4).repairs ∧ q.reader = 2) ∨
      loaderClaims (sr (some r1)).dev 3 4 = true ∨ pumpClaims (blk (sr (some r1)).dev 3 4) = true ∨ ∃ i, i < r1.left ∧ (0 <
      mgetD (blk (sr (some r1)).dev 3 4).debt ((r1.line + i) / 4096) 0 ∨ (mget (blk (sr (some r1)).dev 3 4).action ((r1.line
      + i) / 4096)).isSome = true))) ∧ 0 < r1.left ∧ r1.line % 2048 + r1.left ≤ 2048 ∧ r1.line % 2048 ≠ 0 ∧ r1.line % 2048 ≠
      mgetD (sr (some r1)).dev.srv.scrubbed (gblock 3 4 * 64 + r1.line / 2048) 0 := by
  and_intros <;> first | exact sha512_ne_nil _ | decide +kernel

/-- Obligations.ScrubComplete: its premises on scrubRunDone hold together. -/
theorem witness_ScrubComplete_scrubRunDone_5 :
    powered (sr (some r0)).dev = true ∧ (blk (sr (some r0)).dev 3 4).scrub = some r0 ∧ (¬∃ i, i < r0.left ∧ cisReady (sr
      (some r0)).dev (3) (4) (r0.line + i) = false) ∧ (¬((∃ q, q ∈ (blk (sr (some r0)).dev 3 4).repairs ∧ q.reader = 2) ∨
      loaderClaims (sr (some r0)).dev 3 4 = true ∨ pumpClaims (blk (sr (some r0)).dev 3 4) = true ∨ ∃ i, i < r0.left ∧ (0 <
      mgetD (blk (sr (some r0)).dev 3 4).debt ((r0.line + i) / 4096) 0 ∨ (mget (blk (sr (some r0)).dev 3 4).action ((r0.line
      + i) / 4096)).isSome = true))) ∧ 0 < r0.left ∧ r0.line % 2048 + r0.left ≤ 2048 ∧ r0.line % 2048 = 0 ∧ r0.line % 2048 +
      r0.left < 2048 := by
  decide +kernel

/-- Obligations.ScrubComplete: its premises on scrubRunDone hold together. -/
theorem witness_ScrubComplete_scrubRunDone_6 :
    powered (srm []).dev = true ∧ (blk (srm []).dev 3 4).scrub = some r2 ∧ (¬∃ i, i < r2.left ∧ cisReady (srm []).dev (3)
      (4) (r2.line + i) = false) ∧ (¬((∃ q, q ∈ (blk (srm []).dev 3 4).repairs ∧ q.reader = 2) ∨ loaderClaims (srm []).dev 3
      4 = true ∨ pumpClaims (blk (srm []).dev 3 4) = true ∨ ∃ i, i < r2.left ∧ (0 < mgetD (blk (srm []).dev 3 4).debt
      ((r2.line + i) / 4096) 0 ∨ (mget (blk (srm []).dev 3 4).action ((r2.line + i) / 4096)).isSome = true))) ∧ 0 < r2.left
      ∧ r2.line % 2048 + r2.left ≤ 2048 ∧ r2.line % 2048 = mgetD (srm []).dev.srv.scrubbed (gblock 3 4 * 64 + r2.line /
      2048) 0 ∧ r2.line % 2048 + r2.left = 2048 ∧ epochUsing (srm []).dev (gblock 3 4 * 64 + r2.line / 2048) = some (eP (76
      * 64) 5 []) ∧ sha512 (pageBytes (srm []).dev (gblock 3 4 * 64 + r2.line / 2048)) ≠ mgetD (eP (76 * 64) 5 []).scrub
      (gblock 3 4 * 64 + r2.line / 2048) [] := by
  and_intros <;> first | exact sha512_ne_nil _ | decide +kernel

/-- Obligations.LoadComplete: its premises on shardPlace hold together. -/
theorem witness_LoadComplete_shardPlace_1 :
    (powered (stg [7] 1 (ShardStage.verified 9) pd).dev = true ∧ ShardsSettled (stg [7] 1 (ShardStage.verified 9) pd).dev
      ∧ stagedShard (stg [7] 1 (ShardStage.verified 9) pd).dev (0) 0 = some (epS [7] 1 (ShardStage.verified 9), shd [7] 1,
      ShardStage.verified 9) ∧ ShardStage.verified 9 = ShardStage.verified 9 ∧ (placeable (stg [7] 1 (ShardStage.verified 9)
      pd).dev (shardPages (stg [7] 1 (ShardStage.verified 9) pd).dev (epS [7] 1 (ShardStage.verified 9)).manifest (shd [7]
      1)) = true ∧ shardClear (stg [7] 1 (ShardStage.verified 9) pd).dev (0) (epS [7] 1 (ShardStage.verified 9)) (shd [7] 1)
      (shardPages (stg [7] 1 (ShardStage.verified 9) pd).dev (epS [7] 1 (ShardStage.verified 9)).manifest (shd [7] 1)) =
      true ∧ ((shd [7] 1).kind = 3 ∨ (shd [7] 1).tenant = 0 ∨ atBoundary (stg [7] 1 (ShardStage.verified 9) pd).dev =
      true))) ∧ (powered (stg [7] 1 (ShardStage.verified 9) pd).dev = true ∧ ShardsSettled (stg [7] 1 (ShardStage.verified
      9) pd).dev ∧ stagedShard (stg [7] 1 (ShardStage.verified 9) pd).dev (0) 0 = some (epS [7] 1 (ShardStage.verified 9),
      shd [7] 1, ShardStage.verified 9) ∧ ShardStage.verified 9 = ShardStage.verified 9 ∧ (placeable (stg [7] 1
      (ShardStage.verified 9) pd).dev (shardPages (stg [7] 1 (ShardStage.verified 9) pd).dev (epS [7] 1 (ShardStage.verified
      9)).manifest (shd [7] 1)) = true ∧ shardClear (stg [7] 1 (ShardStage.verified 9) pd).dev (0) (epS [7] 1
      (ShardStage.verified 9)) (shd [7] 1) (shardPages (stg [7] 1 (ShardStage.verified 9) pd).dev (epS [7] 1
      (ShardStage.verified 9)).manifest (shd [7] 1)) = true ∧ ((shd [7] 1).kind = 3 ∨ (shd [7] 1).tenant = 0 ∨ atBoundary
      (stg [7] 1 (ShardStage.verified 9) pd).dev = true)) ∧ (shd [7] 1).kind ≠ 0 ∧ placementsOf (epS [7] 1
      (ShardStage.verified 9)).manifest (shd [7] 1) = [7] ∧ (shd [7] 1).length ≤ (bits 7 19 19 + 1) * 2097152 ∧ (stg [7] 1
      (ShardStage.verified 9) pd).dev.rsv.wf = true) := by
  decide +kernel

/-- Obligations.LoadComplete: its premises on shardPlace hold together. -/
theorem witness_LoadComplete_shardPlace_2 :
    (powered (stg [run0] 0 (ShardStage.verified 9) cd).dev = true ∧ ShardsSettled (stg [run0] 0 (ShardStage.verified 9)
      cd).dev ∧ stagedShard (stg [run0] 0 (ShardStage.verified 9) cd).dev (0) 0 = some (epS [run0] 0 (ShardStage.verified
      9), shd [run0] 0, ShardStage.verified 9) ∧ ShardStage.verified 9 = ShardStage.verified 9 ∧ (placeable (stg [run0] 0
      (ShardStage.verified 9) cd).dev (shardPages (stg [run0] 0 (ShardStage.verified 9) cd).dev (epS [run0] 0
      (ShardStage.verified 9)).manifest (shd [run0] 0)) = true ∧ shardClear (stg [run0] 0 (ShardStage.verified 9) cd).dev
      (0) (epS [run0] 0 (ShardStage.verified 9)) (shd [run0] 0) (shardPages (stg [run0] 0 (ShardStage.verified 9) cd).dev
      (epS [run0] 0 (ShardStage.verified 9)).manifest (shd [run0] 0)) = true ∧ ((shd [run0] 0).kind = 3 ∨ (shd [run0]
      0).tenant = 0 ∨ atBoundary (stg [run0] 0 (ShardStage.verified 9) cd).dev = true)) ∧ (shd [run0] 0).kind = 0 ∧
      placementsOf (epS [run0] 0 (ShardStage.verified 9)).manifest (shd [run0] 0) = [run0] ∧ hostLine (stg [run0] 0
      (ShardStage.verified 9) cd).dev (lineRun run0) 0 = some (76, ((hostLine (cd n1.dev) (lineRun run0) 0).getD (0,
      0)).snd) ∧ 76 = 3 * 24 + 4 ∧ 4 < 24 ∧ (lineRun run0).snd.snd.snd * 1024 = (shd [run0] 0).length ∧ (blk (stg [run0] 0
      (ShardStage.verified 9) cd).dev 3 4).cistern.wf = true) ∧ (powered (stg [run0] 0 (ShardStage.verified 9) cdOff).dev =
      true ∧ ShardsSettled (stg [run0] 0 (ShardStage.verified 9) cdOff).dev ∧ stagedShard (stg [run0] 0 (ShardStage.verified
      9) cdOff).dev (0) 0 = some (epS [run0] 0 (ShardStage.verified 9), shd [run0] 0, ShardStage.verified 9) ∧
      ShardStage.verified 9 = ShardStage.verified 9 ∧ (¬(placeable (stg [run0] 0 (ShardStage.verified 9) cdOff).dev
      (shardPages (stg [run0] 0 (ShardStage.verified 9) cdOff).dev (epS [run0] 0 (ShardStage.verified 9)).manifest (shd
      [run0] 0)) = true ∧ shardClear (stg [run0] 0 (ShardStage.verified 9) cdOff).dev (0) (epS [run0] 0 (ShardStage.verified
      9)) (shd [run0] 0) (shardPages (stg [run0] 0 (ShardStage.verified 9) cdOff).dev (epS [run0] 0 (ShardStage.verified
      9)).manifest (shd [run0] 0)) = true ∧ ((shd [run0] 0).kind = 3 ∨ (shd [run0] 0).tenant = 0 ∨ atBoundary (stg [run0] 0
      (ShardStage.verified 9) cdOff).dev = true)))) := by
  decide +kernel

end W15

namespace W16

def dst (fa loc : Nat) (d : Dev) := fsets d (txReg R.HAL_TX_DST 3 1 2) [(F.HAL_TX_DST_FA, fa), (F.HAL_TX_DST_LOCAL, loc), (F.HAL_TX_DST_DIE, 5), (F.HAL_TX_DST_MAILBOX, 7)]
def sT (fa loc : Nat) (f : Dev → Dev := id) := wd fun d => f (wr (dst fa loc (netD {d with nextId := 65540})) (txReg (R.HAL_TX_DATA + 36) 3 1 2) 77)
def p3 : Path := .core 3 1 .supervisor
def busy (d : Dev) := fset d (txReg R.HAL_TX_CTRL 3 1 2) F.HAL_TX_CTRL_BUSY 1
def mb (seq fu ti : Nat) := wd fun d => {fsets (fsets (netD d) (mbxReg R.MBX_STATUS 3 12) [(F.MBX_STATUS_SEQ, seq), (F.MBX_STATUS_FULL, fu), (F.MBX_STATUS_TIMED_OUT, ti)]) (mbxReg R.MBX_CTRL 3 12) [(F.MBX_CTRL_ENABLE,1),(F.MBX_CTRL_TIMEOUT_US, 3)] with tally := 2000, mailboxes := [(3*64+12, {fa := 73, xid := 9, at_ := 100})]}
def mb2 (t : Nat) : State := let s := mb 9 1 0; {s with dev := {s.dev with tally := t}}
def tm (t : Nat) (l : List Nat) := wd fun d => {wr (wr d (ctl R.HAL_MTIMECMP_LO 3 2) 50) (ctl R.HAL_MTIMECMP_HI 3 2) 0 with tally := t, timerIrq := l}
def e18 (d : Dev) := fsets d (aqdReg R.AQD_STATUS 18) [(F.AQD_STATUS_UP, 1), (F.AQD_STATUS_MODE_ACTIVE, 1)]
def at1 (n : Nat) := wd fun d => {e18 d with boot := {d.boot with signing := List.replicate n (18, 4, 5, [1,2])}}
def nn : Vector Byte 64 := Vector.replicate 64 3
def hb (t : Nat) (f : Dev → Dev := id) := wd fun d => f {d with coord := 5, cont := {d.cont with standby := some 6, heartbeats := 1000}, tally := t, step := {d.step with running := true}}
def dead (d : Dev) := [0,1,2,3].foldl (fun d c => fset d (ctl R.HAL_CORE_STATUS 5 c) F.HAL_CORE_STATUS_RETIRED 1) d
def sA (f : Dev → Dev := id) := wd fun d => f (wr (netD d) (ctl R.WEL_PWR_RDY 3 4) 0xFFFFF)
def of (die b a : Nat) : BitVec 34 := BitVec.ofNat 34 (die * 2^28 + b * 2^23 + a)
def noR (d : Dev) := wr d (ctl R.WEL_PWR_RDY 3 4) 0
def ps (n : Nat) := wd fun d => fset (netD d) (ctl R.SEQ_PS_ADDR 3 4) F.SEQ_PS_ADDR_WORD n

/-- Obligations.MailboxesComplete: its premises on txGo hold together. -/
theorem witness_MailboxesComplete_txGo :
    (powered (sT 73 0).dev = true ∧ MayWrite (sT 73 0).dev mp (txReg R.HAL_TX_CTRL 3 1 2) ∧ flag (sT 73 0).dev (txReg
      R.HAL_TX_CTRL 3 1 2) F.HAL_TX_CTRL_BUSY = false) ∧ (powered (sT 73 0).dev = true ∧ MayWrite (sT 73 0).dev (Path.core 3
      1 CoreMode.user) (txReg R.HAL_TX_CTRL 3 1 2) ∧ flag (sT 73 0).dev (txReg R.HAL_TX_CTRL 3 1 2) F.HAL_TX_CTRL_BUSY =
      false) ∧ (powered (sT 73 0).dev = true ∧ MayWrite (sT 73 0).dev p3 (txReg R.HAL_TX_CTRL 3 1 2) ∧ flag (sT 73 0).dev
      (txReg R.HAL_TX_CTRL 3 1 2) F.HAL_TX_CTRL_BUSY = false) ∧ (powered (sT 73 1).dev = true ∧ MayWrite (sT 73 1).dev mp
      (txReg R.HAL_TX_CTRL 3 1 2) ∧ flag (sT 73 1).dev (txReg R.HAL_TX_CTRL 3 1 2) F.HAL_TX_CTRL_BUSY = false) ∧ (powered
      (sT 73 1 busy).dev = true ∧ MayWrite (sT 73 1 busy).dev mp (txReg R.HAL_TX_CTRL 3 1 2) ∧ flag (sT 73 1 busy).dev
      (txReg R.HAL_TX_CTRL 3 1 2) F.HAL_TX_CTRL_BUSY = true) ∧ (powered (sT 73 1 busy).dev = true ∧ MayWrite (sT 73 1
      busy).dev mp (txReg R.HAL_TX_CTRL 0 5 2) ∧ flag (sT 73 1 busy).dev (txReg R.HAL_TX_CTRL 0 5 2) F.HAL_TX_CTRL_BUSY =
      false) := by
  decide +kernel

/-- Obligations.MailboxesComplete: its premises on mbxDrain hold together. -/
theorem witness_MailboxesComplete_mbxDrain :
    (powered (mb 9 1 0).dev = true ∧ MayWrite (mb 9 1 0).dev mp (mbxReg R.MBX_DRAIN 3 12) ∧ 8 ≠ fget (mb 9 1 0).dev
      (mbxReg R.MBX_STATUS 3 12) F.MBX_STATUS_SEQ) ∧ (powered (mb 9 1 0).dev = true ∧ MayWrite (mb 9 1 0).dev mp (mbxReg
      R.MBX_DRAIN 3 12) ∧ 9 = fget (mb 9 1 0).dev (mbxReg R.MBX_STATUS 3 12) F.MBX_STATUS_SEQ ∧ flag (mb 9 1 0).dev (mbxReg
      R.MBX_STATUS 3 12) F.MBX_STATUS_FULL = true ∧ flag (mb 9 1 0).dev (mbxReg R.MBX_STATUS 3 12) F.MBX_STATUS_TIMED_OUT =
      false) ∧ (powered (mb 9 1 1).dev = true ∧ MayWrite (mb 9 1 1).dev mp (mbxReg R.MBX_DRAIN 3 12) ∧ 9 = fget (mb 9 1
      1).dev (mbxReg R.MBX_STATUS 3 12) F.MBX_STATUS_SEQ ∧ flag (mb 9 1 1).dev (mbxReg R.MBX_STATUS 3 12) F.MBX_STATUS_FULL
      = true ∧ flag (mb 9 1 1).dev (mbxReg R.MBX_STATUS 3 12) F.MBX_STATUS_TIMED_OUT = true) ∧ (powered (mb 9 0 0).dev =
      true ∧ MayWrite (mb 9 0 0).dev mp (mbxReg R.MBX_DRAIN 3 12) ∧ 9 = fget (mb 9 0 0).dev (mbxReg R.MBX_STATUS 3 12)
      F.MBX_STATUS_SEQ ∧ flag (mb 9 0 0).dev (mbxReg R.MBX_STATUS 3 12) F.MBX_STATUS_FULL = false) := by
  decide +kernel

/-- Obligations.MailboxesComplete: its premises on mailboxTimeout hold together. -/
theorem witness_MailboxesComplete_mailboxTimeout :
    (powered (mb 9 1 0).dev = true ∧ (mbxHeld (mb 9 1 0).dev 3 12).at_ + 625 * max 1 (fget (mb 9 1 0).dev (mbxReg
      R.MBX_CTRL 3 12) F.MBX_CTRL_TIMEOUT_US) ≤ (mb 9 1 0).dev.tally ∧ (flag (mb 9 1 0).dev (mbxReg R.MBX_STATUS 3 12)
      F.MBX_STATUS_FULL = true ∧ flag (mb 9 1 0).dev (mbxReg R.MBX_STATUS 3 12) F.MBX_STATUS_TIMED_OUT = false)) ∧ (powered
      (mb2 1974).dev = true ∧ (¬(mbxHeld (mb2 1974).dev 3 12).at_ + 625 * max 1 (fget (mb2 1974).dev (mbxReg R.MBX_CTRL 3
      12) F.MBX_CTRL_TIMEOUT_US) ≤ (mb2 1974).dev.tally)) ∧ (powered (mb2 1975).dev = true ∧ (mbxHeld (mb2 1975).dev 3
      12).at_ + 625 * max 1 (fget (mb2 1975).dev (mbxReg R.MBX_CTRL 3 12) F.MBX_CTRL_TIMEOUT_US) ≤ (mb2 1975).dev.tally ∧
      (flag (mb2 1975).dev (mbxReg R.MBX_STATUS 3 12) F.MBX_STATUS_FULL = true ∧ flag (mb2 1975).dev (mbxReg R.MBX_STATUS 3
      12) F.MBX_STATUS_TIMED_OUT = false)) ∧ (powered (mb 9 1 1).dev = true ∧ (¬(flag (mb 9 1 1).dev (mbxReg R.MBX_STATUS 3
      12) F.MBX_STATUS_FULL = true ∧ flag (mb 9 1 1).dev (mbxReg R.MBX_STATUS 3 12) F.MBX_STATUS_TIMED_OUT = false))) := by
  decide +kernel

/-- Obligations.MailboxesComplete: its premises on mbxEnableClear hold together. -/
theorem witness_MailboxesComplete_mbxEnableClear :
    (powered (mb 9 1 0).dev = true ∧ MayWrite (mb 9 1 0).dev mp (mbxReg R.MBX_CTRL 3 12) ∧ flag (mb 9 1 0).dev (mbxReg
      R.MBX_CTRL 3 12) F.MBX_CTRL_ENABLE = true ∧ flag (mb 9 1 0).dev (mbxReg R.MBX_STATUS 3 12) F.MBX_STATUS_FULL = true ∧
      flag (mb 9 1 0).dev (mbxReg R.MBX_STATUS 3 12) F.MBX_STATUS_TIMED_OUT = false) ∧ (powered (mb 9 1 1).dev = true ∧
      MayWrite (mb 9 1 1).dev mp (mbxReg R.MBX_CTRL 3 12) ∧ flag (mb 9 1 1).dev (mbxReg R.MBX_CTRL 3 12) F.MBX_CTRL_ENABLE =
      true ∧ flag (mb 9 1 1).dev (mbxReg R.MBX_STATUS 3 12) F.MBX_STATUS_FULL = true ∧ flag (mb 9 1 1).dev (mbxReg
      R.MBX_STATUS 3 12) F.MBX_STATUS_TIMED_OUT = true) ∧ (powered (mb 9 0 1).dev = true ∧ MayWrite (mb 9 0 1).dev mp
      (mbxReg R.MBX_CTRL 3 12) ∧ flag (mb 9 0 1).dev (mbxReg R.MBX_CTRL 3 12) F.MBX_CTRL_ENABLE = true ∧ flag (mb 9 0 1).dev
      (mbxReg R.MBX_STATUS 3 12) F.MBX_STATUS_FULL = false) := by
  decide +kernel

/-- Obligations.MailboxesComplete: its premises on machineTimerInterrupt hold together. -/
theorem witness_MailboxesComplete_machineTimerInterrupt :
    (powered (tm 50 []).dev = true ∧ mtimecmp (tm 50 []).dev 3 2 ≤ (tm 50 []).dev.tally ∧ (¬3 * 4 + 2 ∈ (tm 50
      []).dev.timerIrq)) ∧ (powered (tm 49 []).dev = true ∧ (tm 49 []).dev.tally < mtimecmp (tm 49 []).dev 3 2) ∧ (powered
      (tm 50 [14]).dev = true ∧ 3 * 4 + 2 ∈ (tm 50 [14]).dev.timerIrq) := by
  decide +kernel

/-- Obligations.HallsComplete: its premises on attestRequest hold together. -/
theorem witness_HallsComplete_attestRequest :
    (powered on.dev = true ∧ aqdEthernetUp on.dev 18 = false) ∧ (powered (at1 4).dev = true ∧ aqdEthernetUp (at1 4).dev 18
      = true ∧ 4 ≤ (at1 4).dev.boot.signing.length * reportCount (at1 4).dev) ∧ (powered (at1 3).dev = true ∧ aqdEthernetUp
      (at1 3).dev 18 = true ∧ (at1 3).dev.boot.signing.length * reportCount (at1 3).dev < 4) := by
  decide +kernel

/-- Obligations.HallsComplete: its premises on attestSigned hold together. -/
theorem witness_HallsComplete_attestSigned :
    (powered (at1 0).dev = true ∧ (at1 0).dev.boot.signing = []) ∧ (powered (at1 2).dev = true ∧ (at1 2).dev.boot.signing
      = [(18, 4, 5, [1, 2]), (18, 4, 5, [1, 2])]) := by
  decide +kernel

/-- Obligations.HallsComplete: its premises on heartbeat hold together. -/
theorem witness_HallsComplete_heartbeat :
    (powered (hb 63500).dev = true ∧ (hb 63500).dev.cont.standby = some 6 ∧ hallRetired (hb 63500).dev (hb
      63500).dev.coord = false ∧ (hb 63500).dev.cont.heartbeats + 62500 ≤ (hb 63500).dev.tally) ∧ (powered (hb 63499).dev =
      true ∧ (hb 63499).dev.cont.standby = some 6 ∧ (hb 63499).dev.tally < (hb 63499).dev.cont.heartbeats + 62500) ∧
      (powered (hb 63500 dead).dev = true ∧ (hb 63500 dead).dev.cont.standby = some 6 ∧ hallRetired (hb 63500 dead).dev (hb
      63500 dead).dev.coord = true) := by
  decide +kernel

/-- Obligations.HallsComplete: its premises on coordinatorTakeover hold together. -/
theorem witness_HallsComplete_coordinatorTakeover :
    (powered (hb 63500 dead).dev = true ∧ (hb 63500 dead).dev.cont.standby = some 6 ∧ hallRetired (hb 63500 dead).dev (hb
      63500 dead).dev.coord = true) ∧ (powered (hb 188500).dev = true ∧ (hb 188500).dev.cont.standby = some 6 ∧ (hb
      188500).dev.cont.heartbeats + 187500 ≤ (hb 188500).dev.tally) ∧ (powered (hb 188499).dev = true ∧ (hb
      188499).dev.cont.standby = some 6 ∧ hallRetired (hb 188499).dev (hb 188499).dev.coord = false ∧ (hb 188499).dev.tally
      < (hb 188499).dev.cont.heartbeats + 187500) := by
  decide +kernel

/-- Obligations.HallsComplete: its premises on wellApertureWrite hold together. -/
theorem witness_HallsComplete_wellApertureWrite_1 :
    (powered sA.dev = true ∧ (¬(([1, 2, 3] : List Byte).length ∈ [1, 2, 4, 8] ∧ (of 3 4 6291460).toNat % 8388608 %
      ([1, 2, 3] : List Byte).length = 0))) ∧ (powered sA.dev = true ∧ (¬(([1, 2, 3, 4] : List Byte).length ∈ [1, 2, 4, 8] ∧
      (of 3 4 6291462).toNat % 8388608 % ([1, 2, 3, 4] : List Byte).length = 0))) ∧ (powered sA.dev = true ∧ (([1, 2, 3, 4]
      : List Byte).length ∈ [1, 2, 4, 8] ∧ (of 50 4 6291464).toNat % 8388608 % ([1, 2, 3, 4] : List Byte).length = 0) ∧
      (¬((of 50 4 6291464).toNat / 268435456 < 48 ∧ (of 50 4 6291464).toNat / 8388608 % 32 < 24))) ∧ (powered sA.dev = true
      ∧ (([1, 2, 3, 4] : List Byte).length ∈ [1, 2, 4, 8] ∧ (of 3 24 6291464).toNat % 8388608 % ([1, 2, 3, 4] : List
      Byte).length = 0) ∧ (¬((of 3 24 6291464).toNat / 268435456 < 48 ∧ (of 3 24 6291464).toNat / 8388608 % 32 < 24))) ∧
      (powered sA.dev = true ∧ (([1, 2, 3, 4] : List Byte).length ∈ [1, 2, 4, 8] ∧ (of 3 4 64).toNat % 8388608 %
      ([1, 2, 3, 4] : List Byte).length = 0) ∧ ((of 3 4 64).toNat / 268435456 < 48 ∧ (of 3 4 64).toNat / 8388608 % 32 < 24)
      ∧ (of 3 4 64).toNat % 8388608 < 6291456) ∧ (powered (sA noR).dev = true ∧ (([1, 2, 3, 4] : List Byte).length ∈
      [1, 2, 4, 8] ∧ (of 3 4 6291464).toNat % 8388608 % ([1, 2, 3, 4] : List Byte).length = 0) ∧ ((of 3 4 6291464).toNat /
      268435456 < 48 ∧ (of 3 4 6291464).toNat / 8388608 % 32 < 24) ∧ 6291456 ≤ (of 3 4 6291464).toNat % 8388608 ∧ wellReady
      (sA noR).dev ((of 3 4 6291464).toNat / 268435456) ((of 3 4 6291464).toNat / 8388608 % 32) true (((of 3 4
      6291464).toNat % 8388608 - 6291456) / 64) = false) := by
  decide +kernel

/-- Obligations.HallsComplete: its premises on wellApertureWrite hold together. -/
theorem witness_HallsComplete_wellApertureWrite_2 :
    (powered sA.dev = true ∧ (([1, 2, 3, 4, 5, 6, 7, 8] : List Byte).length ∈ [1, 2, 4, 8] ∧ (of 3 4 8388600).toNat %
      8388608 % ([1, 2, 3, 4, 5, 6, 7, 8] : List Byte).length = 0) ∧ ((of 3 4 8388600).toNat / 268435456 < 48 ∧ (of 3 4
      8388600).toNat / 8388608 % 32 < 24) ∧ 6291456 ≤ (of 3 4 8388600).toNat % 8388608 ∧ wellReady sA.dev ((of 3 4
      8388600).toNat / 268435456) ((of 3 4 8388600).toNat / 8388608 % 32) true (((of 3 4 8388600).toNat % 8388608 - 6291456)
      / 64) = true ∧ (blk sA.dev ((of 3 4 8388600).toNat / 268435456) ((of 3 4 8388600).toNat / 8388608 % 32)).well.wf =
      true) ∧ (powered sA.dev = true ∧ (([1, 2, 3, 4] : List Byte).length ∈ [1, 2, 4, 8] ∧ (of 3 4 6291464).toNat % 8388608
      % ([1, 2, 3, 4] : List Byte).length = 0) ∧ ((of 3 4 6291464).toNat / 268435456 < 48 ∧ (of 3 4 6291464).toNat / 8388608
      % 32 < 24) ∧ 6291456 ≤ (of 3 4 6291464).toNat % 8388608 ∧ wellReady sA.dev ((of 3 4 6291464).toNat / 268435456) ((of 3
      4 6291464).toNat / 8388608 % 32) true (((of 3 4 6291464).toNat % 8388608 - 6291456) / 64) = true ∧ (blk sA.dev ((of 3
      4 6291464).toNat / 268435456) ((of 3 4 6291464).toNat / 8388608 % 32)).well.wf = true) := by
  decide +kernel

/-- Obligations.HallsComplete: its premises on programStoreRead hold together. -/
theorem witness_HallsComplete_programStoreRead :
    (powered (ps 2).dev = true ∧ MayRead (ps 2).dev mp (ctl R.SEQ_PS_DATA 3 4)) ∧ (powered (ps 131071).dev = true ∧
      MayRead (ps 131071).dev mp (ctl R.SEQ_PS_DATA 3 4)) := by
  decide +kernel

end W16

namespace W17

def st (n : Nat) (f : Dev → Dev := id) := wd fun d => f (fset (netD d) (ctl R.CFG_STATUS 0 0) F.CFG_STATUS_STAGE n)
def pe (d : Dev) : Dev := {d with i3c := {d.i3c with pending := some (7, none)}}
def w9 : List Byte := [2,0,0,0,0,0,0,0,0]
def r5 : List Byte := [1,0,0,0,0]
def ad (a : Nat) : Word := BitVec.ofNat 32 a
def cl := ad (ctl R.CFG_STATUS 0 0)
def bada := ad (ctl R.SEQ_PS_DATA 60 4)
def gc := ad (gateReg R.GAT_CTRL 3 16)
def grow := (regAt gc.toNat).getD ⟨0,0,0,.every,.one,[]⟩
def txa : Word := ad (txReg (R.HAL_TX_DATA + 36) 0 5 3)
def idd (d : Dev) := wr (fset d (ctl R.CFG_STATUS 0 0) F.CFG_STATUS_IDENT 0) (ctl R.TRU_ID_DIGEST 0 0) 0x12345678
def hasA (d : Dev) : Dev := {d with i3c := {d.i3c with address := some 3}}
def off : State := {State.reset with dev := {State.reset.dev with boot := {State.reset.dev.boot with on := true, inReset := true}}}
def pins : Vector Bool 49 := Vector.ofFn fun i => i.val % 3 == 0
def scn : Vector Bool 147 := Vector.ofFn fun i => i.val % 5 == 0
def gp := wd fun d => wr (wr (fset (netD d) (ctl R.CFG_STATUS 0 0) F.CFG_STATUS_STAGE 6) (ctl R.DIE_GPIO_OUT 0 0) 0xA5C3) (ctl R.DIE_GPIO_OE 0 0) 0x3C5A
def tp (dbg : Nat) (p : Option (Nat × Option Nat) := none) := wd fun d => {fset (netD d) (ctl R.TRU_STATUS 0 0) F.TRU_STATUS_DEBUG dbg with tap := {status := 2, data := 9, pending := p, ir := 7}}

/-- Obligations.I3cComplete: its premises on i3cRead hold together. -/
theorem witness_I3cComplete_i3cRead_1 :
    (powered (st 8).dev = true ∧ (w9.length = 9 ∧ BitVec.toNat (w9.headD 0) = 2)) ∧ (powered (st 0).dev = true ∧
      (¬(r5.length = 9 ∧ BitVec.toNat (r5.headD 0) = 2)) ∧ (¬1 ≤ fget (st 0).dev (ctl R.CFG_STATUS 0 0) F.CFG_STATUS_STAGE ∨
      (st 0).dev.i3c.pending.isSome = true)) ∧ (powered (st 8 pe).dev = true ∧ (¬(r5.length = 9 ∧ BitVec.toNat (r5.headD 0)
      = 2)) ∧ (¬1 ≤ fget (st 8 pe).dev (ctl R.CFG_STATUS 0 0) F.CFG_STATUS_STAGE ∨ (st 8 pe).dev.i3c.pending.isSome = true))
      ∧ (powered (st 8 pe).dev = true ∧ (¬(([] : List Byte).length = 9 ∧ BitVec.toNat (([] : List Byte).headD 0) = 2)) ∧ (¬1
      ≤ fget (st 8 pe).dev (ctl R.CFG_STATUS 0 0) F.CFG_STATUS_STAGE ∨ (st 8 pe).dev.i3c.pending.isSome = true)) ∧ (powered
      (st 1).dev = true ∧ (¬(([7] : List Byte).length = 9 ∧ BitVec.toNat (([7] : List Byte).headD 0) = 2)) ∧ (¬(([7] : List
      Byte).length = 5 ∧ BitVec.toNat (([7] : List Byte).headD 0) = 1)) ∧ (¬(¬1 ≤ fget (st 1).dev (ctl R.CFG_STATUS 0 0)
      F.CFG_STATUS_STAGE ∨ (st 1).dev.i3c.pending.isSome = true))) ∧ (powered (st 1).dev = true ∧ (¬(([1, 2, 3, 4, 5, 6] :
      List Byte).length = 9 ∧ BitVec.toNat (([1, 2, 3, 4, 5, 6] : List Byte).headD 0) = 2)) ∧ (¬(([1, 2, 3, 4, 5, 6] : List
      Byte).length = 5 ∧ BitVec.toNat (([1, 2, 3, 4, 5, 6] : List Byte).headD 0) = 1)) ∧ (¬(¬1 ≤ fget (st 1).dev (ctl
      R.CFG_STATUS 0 0) F.CFG_STATUS_STAGE ∨ (st 1).dev.i3c.pending.isSome = true))) ∧ (powered (st 1).dev = true ∧ (¬(([] :
      List Byte).length = 9 ∧ BitVec.toNat (([] : List Byte).headD 0) = 2)) ∧ (¬(([] : List Byte).length = 5 ∧ BitVec.toNat
      (([] : List Byte).headD 0) = 1)) ∧ (¬(¬1 ≤ fget (st 1).dev (ctl R.CFG_STATUS 0 0) F.CFG_STATUS_STAGE ∨ (st
      1).dev.i3c.pending.isSome = true))) := by
  decide +kernel

/-- Obligations.I3cComplete: its premises on i3cRead hold together. -/
theorem witness_I3cComplete_i3cRead_2 :
    (powered (st 1).dev = true ∧ 1 ≤ fget (st 1).dev (ctl R.CFG_STATUS 0 0) F.CFG_STATUS_STAGE ∧ (st 1).dev.i3c.pending =
      none ∧ ctlClass (BitVec.toNat (ad (srvReg R.SRV_CTRL))) = 32) ∧ (powered (st 1).dev = true ∧ 1 ≤ fget (st 1).dev (ctl
      R.CFG_STATUS 0 0) F.CFG_STATUS_STAGE ∧ (st 1).dev.i3c.pending = none ∧ ctlClass (BitVec.toNat cl) ≠ 32 ∧ MayRead (st
      1).dev Path.i3c (BitVec.toNat cl)) ∧ (powered (st 1).dev = true ∧ 1 ≤ fget (st 1).dev (ctl R.CFG_STATUS 0 0)
      F.CFG_STATUS_STAGE ∧ (st 1).dev.i3c.pending = none ∧ ctlClass (BitVec.toNat bada) ≠ 32 ∧ (¬MayRead (st 1).dev Path.i3c
      (BitVec.toNat bada))) := by
  decide +kernel

/-- Obligations.I3cComplete: its premises on i3cWrite hold together. -/
theorem witness_I3cComplete_i3cWrite :
    (powered (st 8).dev = true ∧ (r5.length = 5 ∧ BitVec.toNat (r5.headD 0) = 1)) ∧ (powered (st 0).dev = true ∧
      (¬(w9.length = 5 ∧ BitVec.toNat (w9.headD 0) = 1)) ∧ (¬1 ≤ fget (st 0).dev (ctl R.CFG_STATUS 0 0) F.CFG_STATUS_STAGE ∨
      (st 0).dev.i3c.pending.isSome = true)) ∧ (powered (st 8 pe).dev = true ∧ (¬(([7] : List Byte).length = 5 ∧
      BitVec.toNat (([7] : List Byte).headD 0) = 1)) ∧ (¬1 ≤ fget (st 8 pe).dev (ctl R.CFG_STATUS 0 0) F.CFG_STATUS_STAGE ∨
      (st 8 pe).dev.i3c.pending.isSome = true)) ∧ (powered (st 1).dev = true ∧ 1 ≤ fget (st 1).dev (ctl R.CFG_STATUS 0 0)
      F.CFG_STATUS_STAGE ∧ (st 1).dev.i3c.pending = none ∧ ctlClass (BitVec.toNat bada) ≠ 32 ∧ (¬MayWrite (st 1).dev
      Path.i3c (BitVec.toNat bada))) ∧ (powered (st 1).dev = true ∧ 1 ≤ fget (st 1).dev (ctl R.CFG_STATUS 0 0)
      F.CFG_STATUS_STAGE ∧ (st 1).dev.i3c.pending = none ∧ ctlClass (BitVec.toNat txa) ≠ 32 ∧ BitVec.toNat txa = txReg
      (R.HAL_TX_DATA + 4 * 9) 0 5 3 ∧ flag (st 1).dev (txReg R.HAL_TX_CTRL 0 5 3) F.HAL_TX_CTRL_BUSY = false) := by
  decide +kernel

/-- Obligations.I3cComplete: its premises on i3cResult hold together. -/
theorem witness_I3cComplete_i3cResult :
    (powered (st 0).dev = true ∧ (¬1 ≤ fget (st 0).dev (ctl R.CFG_STATUS 0 0) F.CFG_STATUS_STAGE)) ∧ (powered (st 1
      pe).dev = true ∧ 1 ≤ fget (st 1 pe).dev (ctl R.CFG_STATUS 0 0) F.CFG_STATUS_STAGE ∧ (st 1 pe).dev.i3c.pending.isSome =
      true) ∧ (powered (st 1).dev = true ∧ 1 ≤ fget (st 1).dev (ctl R.CFG_STATUS 0 0) F.CFG_STATUS_STAGE ∧ (st
      1).dev.i3c.pending = none) := by
  decide +kernel

/-- Obligations.I3cComplete: its premises on getpid hold together. -/
theorem witness_I3cComplete_getpid :
    (powered (st 1).dev = true ∧ 1 ≤ fget (st 1).dev (ctl R.CFG_STATUS 0 0) F.CFG_STATUS_STAGE) ∧ (powered (st 1 idd).dev
      = true ∧ 1 ≤ fget (st 1 idd).dev (ctl R.CFG_STATUS 0 0) F.CFG_STATUS_STAGE) := by
  decide +kernel

/-- Obligations.I3cComplete: its premises on setdasa hold together. -/
theorem witness_I3cComplete_setdasa :
    (powered (st 1).dev = true ∧ (1 ≤ fget (st 1).dev (ctl R.CFG_STATUS 0 0) F.CFG_STATUS_STAGE ∧ (st 1).dev.i3c.address =
      none)) ∧ (powered (st 1).dev = true ∧ 91 ≠ 90) ∧ (powered (st 1 hasA).dev = true ∧ (¬(1 ≤ fget (st 1 hasA).dev (ctl
      R.CFG_STATUS 0 0) F.CFG_STATUS_STAGE ∧ (st 1 hasA).dev.i3c.address = none))) := by
  decide +kernel

/-- Obligations.I3cComplete: its premises on entdaa hold together. -/
theorem witness_I3cComplete_entdaa :
    (powered (st 1).dev = true ∧ (1 ≤ fget (st 1).dev (ctl R.CFG_STATUS 0 0) F.CFG_STATUS_STAGE ∧ (st 1).dev.i3c.address =
      none)) ∧ (powered (st 1 hasA).dev = true ∧ (¬(1 ≤ fget (st 1 hasA).dev (ctl R.CFG_STATUS 0 0) F.CFG_STATUS_STAGE ∧ (st
      1 hasA).dev.i3c.address = none))) := by
  decide +kernel

/-- Obligations.TapComplete: its premises on tapReset hold together. -/
theorem witness_TapComplete_tapReset :
    off.dev.boot.on = true := by
  decide +kernel

/-- Obligations.TapComplete: its premises on idcode hold together. -/
theorem witness_TapComplete_idcode :
    off.dev.boot.on = true := by
  decide +kernel

/-- Obligations.TapComplete: its premises on bypass hold together. -/
theorem witness_TapComplete_bypass :
    (off.dev.boot.on = true ∧ (¬255 ∈ [0, 1, 2, 32])) ∧ (off.dev.boot.on = true ∧ (¬3 ∈ [0, 1, 2, 32])) := by
  decide +kernel

/-- Obligations.TapComplete: its premises hold together. -/
theorem witness_TapComplete :
    (off.dev.boot.on = true) ∧ (gp.dev.boot.on = true) ∧ (gp.dev.boot.on = true ∧ scanContacts[4]? = some (false, 8)) ∧
      (gp.dev.boot.on = true ∧ scanContacts[18]? = some (false, 26)) ∧ (gp.dev.boot.on = true ∧ scanContacts[19]? = some
      (false, 27)) ∧ (gp.dev.boot.on = true ∧ scanContacts[40]? = some (true, 14)) ∧ (gp.dev.boot.on = true ∧
      scanContacts[39]? = some (true, 13)) ∧ (gp.dev.boot.on = true ∧ scanContacts[48]? = some (true, 23)) := by
  decide +kernel

/-- Obligations.TapComplete: its premises on ctlAccessRead hold together. -/
theorem witness_TapComplete_ctlAccessRead :
    (powered (tp 1 (some (7, none))).dev = true ∧ (tp 1 (some (7, none))).dev.tap.pending.isSome = true) ∧ (powered (tp
      1).dev = true ∧ (tp 1).dev.tap.pending = none ∧ flag (tp 1).dev (ctl R.TRU_STATUS 0 0) F.TRU_STATUS_DEBUG = true ∧
      ctlClass (BitVec.toNat (ad (srvReg R.SRV_CTRL))) = 32) ∧ (powered (tp 0).dev = true ∧ (tp 0).dev.tap.pending = none ∧
      flag (tp 0).dev (ctl R.TRU_STATUS 0 0) F.TRU_STATUS_DEBUG = false) ∧ (powered (tp 1).dev = true ∧ (tp
      1).dev.tap.pending = none ∧ flag (tp 1).dev (ctl R.TRU_STATUS 0 0) F.TRU_STATUS_DEBUG = true ∧ ctlClass (BitVec.toNat
      cl) ≠ 32 ∧ MayRead
      ({ (tp 1).dev with tap := ({ (tp 1).dev.tap with ir := 32 } : Tap), out := (tp 1).dev.out ++ [({ kind := EmitKind.tdo, nums := [32, (tp 1).dev.tap.status, (tp 1).dev.tap.data] } : Emit)] }
      : Dev) Path.jtag (BitVec.toNat cl)) ∧ (powered (tp 1).dev = true ∧ (tp 1).dev.tap.pending = none ∧ flag (tp 1).dev
      (ctl R.TRU_STATUS 0 0) F.TRU_STATUS_DEBUG = true ∧ ctlClass (BitVec.toNat bada) ≠ 32 ∧ (¬MayRead
      ({ (tp 1).dev with tap := ({ (tp 1).dev.tap with ir := 32 } : Tap), out := (tp 1).dev.out ++ [({ kind := EmitKind.tdo, nums := [32, (tp 1).dev.tap.status, (tp 1).dev.tap.data] } : Emit)] }
      : Dev) Path.jtag (BitVec.toNat bada))) := by
  decide +kernel

/-- Obligations.TapComplete: its premises on ctlAccessWrite hold together. -/
theorem witness_TapComplete_ctlAccessWrite :
    (powered (tp 1).dev = true ∧ (tp 1).dev.tap.pending = none ∧ flag (tp 1).dev (ctl R.TRU_STATUS 0 0) F.TRU_STATUS_DEBUG
      = true ∧ ctlClass (BitVec.toNat bada) ≠ 32 ∧ (¬MayWrite
      ({ (tp 1).dev with tap := ({ (tp 1).dev.tap with ir := 32 } : Tap), out := (tp 1).dev.out ++ [({ kind := EmitKind.tdo, nums := [32, (tp 1).dev.tap.status, (tp 1).dev.tap.data] } : Emit)] }
      : Dev) Path.jtag (BitVec.toNat bada))) ∧ (powered (tp 1).dev = true ∧ (tp 1).dev.tap.pending = none ∧ flag (tp 1).dev
      (ctl R.TRU_STATUS 0 0) F.TRU_STATUS_DEBUG = true ∧ ctlClass (BitVec.toNat gc) ≠ 32 ∧ MayWrite
      ({ (tp 1).dev with tap := ({ (tp 1).dev.tap with ir := 32 } : Tap), out := (tp 1).dev.out ++ [({ kind := EmitKind.tdo, nums := [32, (tp 1).dev.tap.status, (tp 1).dev.tap.data] } : Emit)] }
      : Dev) Path.jtag (BitVec.toNat gc) ∧ regAt (BitVec.toNat gc) = some grow ∧ ctlPlace (BitVec.toNat gc) ∈
      [R.FNT_TIMEOUT, R.GAT_CTRL]) := by
  decide +kernel

end W17

namespace W18

def keyN : Nat := 0xdeed729cd1653877dfff37ef5873e2d9d25dc5f014dcb337f465ce44fa50d28234a70855a67e15968030331d6ccc18567d97716409cc8d1f64b5d22c2d3331e2ea9256b7e3fcefb606d6c2fbe923eeb18c8b2dae45ff1d54dfa48a1b1097e67c506a07a8bb9f5705a59b45ebc4ddfb9e83ea98c5b4a77cb68da85e602b388dbc60d12a3da822e85caa2537edd6ae5ecbefb7bb91e8ec6e194859f4df7e7b1dc184956e18923d186a77f77eea2f7348cbe1244fd7b98d797d0c2d30f316acff6125913cc4eab680b1c47df709ad39f00dab4818f0339174409147ec6cecffdf7e5c00bcfd449c9373543e9844917e045cbb8c2f64e06f8ec922be4e814d79741b844143d5bc4f14d1b364ea74565cb28f0b7a9e5d67febae30104454b6034832da8deeabb311b640fa781269bdba4e2a5838444faf23c08d147fb4ded2a7cee8a4d80d06efc9c715d27a1edf248df41f5a66a9b31b1753e318adcd5010f0071c5bde5d96e15c26206eab57bfdf120feeff5dae72518a9be4c459e4609d70471724420bd400e051b7cf8f91712303f0f48721637d131b262a00ceb34875dfbcccfd111ffdac939a3d673033ff412bb450e8f8a41d9e429bbf34cdbccf0dfc30ce1a04ea4ba6cbe74426ef811947048b745e5cf77c69b75f8c5f168b2d100ea3a61467b30a757a735336c5a794c9a0a11f4d9efd46b87894f3863efc2cb6db10d69
def sigA : Nat := 0x7f6cdda17aea735ac4ddbab6e8876207b46311c79dfed250ba8fe57a66164a5a9b77154b03ff3b2367b0441a3e2a8eaa1599aea230accaa3a74b06bc3d6ae0f2d64db0616fd5a8616946ff5b967abd609e394db563d01539aadf34faa29c62a090faea7e0d3fe602e9b8817d2d71162a66a09de254e36956d93de5bde35bed3274f5c2757028549230385a60c6bff43a560fe7b157518bd385a890509b447859f0a60680478fbc13268376566abf973b4c9c599f6e7f1d3875d17245b6d97b64075208b1f972a96e2b8711cd6a41290fd580c64a329673b8b26f7a032496cab3705812721106d59a5008adbbdaad7ba9171d849ff2b7a51088148bfbbbc3be635c0eec38839b3459526fdb364751e8380dbd31a2bd03449fa54b5b56c3d4f19a4b8638332ba8977becb0ed40cdb424247b718de3dcc9d6fd73ddb12576387c1a09223658bb7d65056d3f7296bcb1dac13b0f074467052fa1435fa0d0c4100b4ee409b60ceaa0c0e849727df4b0ca44985acd6f4eeb7959d71ae986e63fb2b27c7be7b3ec4a634f01eac72c1f7afc82118036fd04492018b1026391cd8b3cbfc7801d12cfaa10e6ee975161c6618c835f8a5f5744d2d96e0bc322d454fd650085b8e2aa9505a8b248a7e8602f51fee4729c79eaa06f189cc8afabe1cb128159a172c849aef3f90da9d317292b3880b993aa754ceef1c465835cd96a2b7a1d90f7
/-- Header, key, one empty section, signature. -/
def imgA : List Byte := leBytes 4 0x4657545A ++ leBytes 2 1 ++ leBytes 2 1 ++ leBytes 4 2 ++ leBytes 4 0 ++ leBytes 4 2048 ++ leBytes 12 1 ++ beBytes 512 keyN ++ leBytes 16 1 ++ beBytes 64 0xcf83e1357eefb8bdf1542850d66d8007d620e4050b5715dc83f4a921d36ce9ce47d0d13c5d85f2b0ff8318d2877eec2f63b931bd47417a81a538327af927da3e ++ List.replicate 400 0 ++ beBytes 512 sigA ++ List.replicate 512 0
def sigB : Nat := 0x8a4c07c78a1156ec54f7a2d44b81a95043f98e86273fa0b16f5c97344655c7490905e41e5802a46c774927029b00b32ba086a8c0060091017683e8d3f6ed4e27195c91896b486a1ac6ed832487dae22ac81a5cabf8fec4f60f9b548db18a39e935dd73e54b0df8080d3e1f1b26f1ce38fee15d16102a2b6c45ff3b21505855529462a74186e172ec49133f61fc16825c124489de45db04df9563e659be2c43f54c3cf905988b68fc7b9d2be9873751220d8b3b01844efe3df96f6f94e2610482b22d55339b54585df8b924e39a1645eebfc1c1542fa1865421553db0f35dfd50f00f0fc890a3d49cb990a2b701dd748d551d7280d3b4b94e44a4c0792b3f389679c3ed9b6ad3008612e0a5d4297f82db3335e170517aa0453b1de7ed47bec1f056012953b0cf1285c3f56ad2d26fd6cc7e53c3fb7fa22f0e8f44bda48cafa34c479c818ab8aa5c95cc587f07763d5103c5e0540131991a70cb4f9169d6e5d1afee5f80fbbdad3e0de999f767cf841b9f9628768290820e24aa83a0f1d99bc9fd65a4a9863674959903a08027a80a25160dcafe5f00089b1beee8287c200e612f708fde7b12e7ec6bce7901a8aae6fb5fb65bf465ff4c5ab47441c5258ea93a2511ac793afa1e5327fe6d1e2364cd92aa8bac064c00188afdbf182feac2fec44099fa9d64006bb7e92293788c0112ba66b24a14dda9945dd9d2c33cd86750b3
/-- Header, key, one empty section, signature. -/
def imgB : List Byte := leBytes 4 0x4657545A ++ leBytes 2 1 ++ leBytes 2 2 ++ leBytes 4 2 ++ leBytes 4 0 ++ leBytes 4 2048 ++ leBytes 12 1 ++ beBytes 512 keyN ++ leBytes 16 1 ++ beBytes 64 0xcf83e1357eefb8bdf1542850d66d8007d620e4050b5715dc83f4a921d36ce9ce47d0d13c5d85f2b0ff8318d2877eec2f63b931bd47417a81a538327af927da3e ++ List.replicate 400 0 ++ beBytes 512 sigB ++ List.replicate 512 0
def sigC : Nat := 0x99066e1e165346301f6f714ada8b1e3b3149feb5a52446b7a2050a051ad5a16e93909e7e7c2ffdf6c9341c3bafbbb7de2994012195a76419040d912f75f10d9048055015fa5848ba34eb8ca86e110d38a7fb582e8d02f38ea7c81ff8bec0640849586b5e15e7a5ab0796a400dfa4ea8bd41cecb5dce691433854b45c8ef24c78692290fd369ab8de6826a8e1022a16a1fa1773d8284a42564a3681b1e3db1abdc32a8d401b6f65ba042826e9be958cd6297ebbc8c2f5f7792eef0f3b9f316d804e39d52745bfec7f95153316f4133e42893edbc8af73f97f09b1410e6465b466c39c19d5651e7b820338b243ff10ed96bab73fb650f040a1a3b75c00c1d24af348892f398331cc1318790da270c59eadbf2ba68a5eaabe190f15c7abb8ce3462f67e0ec3be0d1cfee35bcc28afbae211c9afff044e2d6ab12737690fe5e4246e9f027d7b604368ec1a38ca1baf09b4e3e156a0f3c095f2dc18c9948bd79b0894904395f6b800eb2cf87396c7f73472031d2467b7ba5b2c72bd892c3c918192b88a63f7ef3033297859ac5fa98164cb099dffa4b0a1219126bf006317ec90a70cd04f2b0838b0827eaf38861c75ae606c8ed8b8b88c4c604161f7c7493e16ac0e0a275ef87c94df6e65043274903ddc470b6bc3bbe30d79395101d1b2633c8826bb7063a0592b78b9fb05f6c91aaa3ad23b207a1095577e987d87b780350dd61
/-- Header, key, one empty section, signature. -/
def imgC : List Byte := leBytes 4 0x4657545A ++ leBytes 2 1 ++ leBytes 2 1 ++ leBytes 4 2 ++ leBytes 4 0 ++ leBytes 4 2048 ++ leBytes 12 1 ++ beBytes 512 keyN ++ leBytes 16 1 ++ beBytes 64 0xa4abd4448c49562d828115d13a1fccea927f52b4d5459297f8b43e42da89238bc13626e43dcb38ddb082488927ec904fb42057443983e88585179d50551afe62 ++ List.replicate 400 0 ++ beBytes 512 sigC ++ List.replicate 512 0
def rootD (d : Dev) : Dev := (List.range 16).foldl (fun d i => wr d (ctl (R.TRU_ROOT_HASH + 4 * i) 0 0) (BitVec.ofNat 32 (0x1586de08ad2bf6b6ac879b8f4b06190f38fb3238dd9b92a4598a19abfbac8c9bca31d7648deb207572626f88b0307e20e3dab2616547a5a3be13f961c7c1277a / 2^(32*i)))) d
def rd_ (run : Bool) (due : List Nat) (f : Dev → Dev := id) := wd fun d => let d := f (netD d); {d with step := {d.step with running := run}, cont := {d.cont with due}, tally := 3000000000000}
def L (die kind idx : Nat) : Nat := locId die kind idx
def errs (d : Dev) : Dev := {d with errors := [(L 5 7 1, 5), (L 5 7 1, 6), (L 5 7 1, 7)]}
def reh (d : Dev) := wr (wr (wr (wr d (ctl R.DIE_GATE_REHOME 3 0) 0x30) (gateReg R.GAT_COUNT 3 40) 5) (gateReg R.GAT_COUNT 3 20) 5) (gateReg R.GAT_CTRL 3 20) 5
def ts (l : List (Nat × Nat)) (t : Nat := 5) (f : Dev → Dev := id) := wd fun d => f {netD d with cont := {d.cont with testing := l, lastTest := [(76, 3)]}, tally := t}
def TT := 3 + 2250000000000 * (max 1 (fget State.reset.dev (srvReg R.SRV_ST_CTRL) F.SRV_ST_CTRL_INTERVAL_H))
def TM := TT - 1
def noRoom (d : Dev) := fset (setBlk d 3 4 {blk d 3 4 with ps := memWrite (blk d 3 4).ps 20 (leBytes 2 0x8000)}) (ctl R.SEQ_US_CTRL 3 4) F.SEQ_US_CTRL_VALID 1
def rt := wd fun d => {fset (netD d) (srvReg R.SRV_ST_CTRL) F.SRV_ST_CTRL_RSV_GO 1 with cont := {d.cont with testedPages := [0,1,2,9]}}
def up (f : Dev → Dev) := wd fun d => f (rootD (netD d))
def ed (n : Nat) (d : Dev) := fset d (ctl R.DIE_EDITION 0 0) F.DIE_EDITION_EDITION n
def im (i : List Byte) := (parseImage (up id).dev i).getD ⟨0, 0, 0, [], []⟩
def ni (i : List Byte) (f : Dev → Dev := id) (d : Dev) : Dev := f {d with boot := {d.boot with newImage := some (im i)}}
def adm (d : Dev) := fset d (srvReg R.SRV_CTRL) F.SRV_CTRL_ADMIT 1
def upd (l h : List Nat) (d : Dev) : Dev := {d with boot := {d.boot with updatedDies := l, updatedHeads := h}}
def allB (n : Nat) := (updateOrder (up id).dev).take n
def dn (d : Dev) : Dev := {d with coord := 60, cont := {d.cont with due := [5]}}
def all48 := List.range 48
def co (d : Dev) : Dev := {d with coord := 5}

/-- Obligations.ContinuityComplete: its premises on retirementDecision hold together. -/
theorem witness_ContinuityComplete_retirementDecision_1 :
    (powered (rd_ true []).dev = true ∧ (collect (rd_ true []).dev).cont.due = []) ∧ (powered (rd_ true [L 3 2 4, 7]).dev
      = true ∧ (collect (rd_ true [L 3 2 4, 7]).dev).cont.due = [L 3 2 4, 7]) ∧ (powered (rd_ true [L 3 2 4, 7]).dev = true
      ∧ (collect (rd_ true [L 3 2 4, 7]).dev).cont.due = [L 3 2 4, 7] ∧ (rd_ true [L 3 2 4, 7]).dev.step.running = true ∧
      locKind (L 3 2 4) ∈ [0, 1, 2, 5, 9, 10]) ∧ (powered (rd_ false [L 3 2 4, 7]).dev = true ∧ (collect (rd_ false
      [L 3 2 4, 7]).dev).cont.due = [L 3 2 4, 7]) ∧ (powered (rd_ true [L 50 3 4, 7]).dev = true ∧ (collect (rd_ true
      [L 50 3 4, 7]).dev).cont.due = [L 50 3 4, 7] ∧ locKind (L 50 3 4) = 3 ∧ entryKind (pageEntry (collect (rd_ true
      [L 50 3 4, 7]).dev) (locIndex (L 50 3 4) * 8 + (locDie (L 50 3 4) - 48))) ≠ 1 ∧ epochUsing (collect (rd_ true
      [L 50 3 4, 7]).dev) (rsvPage (locIndex (L 50 3 4) * 8 + (locDie (L 50 3 4) - 48))) = none) ∧ (powered (rd_ true
      [L 5 7 2, 7]).dev = true ∧ (collect (rd_ true [L 5 7 2, 7]).dev).cont.due = [L 5 7 2, 7] ∧ locKind (L 5 7 2) = 7 ∧
      locDie (L 5 7 2) < 48 ∧ locIndex (L 5 7 2) < 4) := by
  decide +kernel

/-- Obligations.ContinuityComplete: its premises on retirementDecision hold together. -/
theorem witness_ContinuityComplete_retirementDecision_2 :
    powered (rd_ true [] errs).dev = true ∧ (collect (rd_ true [] errs).dev).cont.due = [L 5 7 1] ∧ locKind (L 5 7 1) = 7
      ∧ locDie (L 5 7 1) < 48 ∧ locIndex (L 5 7 1) < 4 := by
  decide +kernel

/-- Obligations.ContinuityComplete: its premises on gateRehome hold together. -/
theorem witness_ContinuityComplete_gateRehome :
    powered (wd reh).dev = true ∧ MayWrite (wd reh).dev mp (ctl R.DIE_GATE_REHOME (3) 0) := by
  decide +kernel

/-- Obligations.ContinuityComplete: its premises on selftestSlice hold together. -/
theorem witness_ContinuityComplete_selftestSlice :
    (powered (ts [(75, 2)]).dev = true ∧ List.find? (fun t => t.fst == gblock 3 4) (ts [(75, 2)]).dev.cont.testing = none)
      ∧ (powered (ts [(75, 2), (76, 7)]).dev = true ∧ List.find? (fun t => t.fst == gblock 3 4) (ts
      [(75, 2), (76, 7)]).dev.cont.testing = some (gblock 3 4, 7) ∧ 7 + 1 ≠ 256) ∧ (powered (ts [(75, 2), (76, 255)]).dev =
      true ∧ List.find? (fun t => t.fst == gblock 3 4) (ts [(75, 2), (76, 255)]).dev.cont.testing = some (gblock 3 4, 255) ∧
      255 + 1 = 256) ∧ (powered (ts [(75, 2), (76, 255)]).dev = true ∧ List.find? (fun t => t.fst == gblock 3 4) (ts
      [(75, 2), (76, 255)]).dev.cont.testing = some (gblock 3 4, 255) ∧ (¬locId (3) 2 4 ∈ (ts
      [(75, 2), (76, 255)]).dev.cont.retired) ∧ (¬locId (3) 2 4 ∈ (ts [(75, 2), (76, 255)]).dev.cont.pending) ∧ (¬locId (3)
      2 4 ∈ (ts [(75, 2), (76, 255)]).dev.cont.due)) := by
  decide +kernel

/-- Obligations.ContinuityComplete: its premises on selftestInterval hold together. -/
theorem witness_ContinuityComplete_selftestInterval :
    (powered (ts [] TM).dev = true ∧ (ts [] TM).dev.tally < mgetD (ts [] TM).dev.cont.lastTest (gblock 3 4) 0 +
      2250000000000 * max 1 (fget (ts [] TM).dev (srvReg R.SRV_ST_CTRL) F.SRV_ST_CTRL_INTERVAL_H)) ∧ (powered (ts [(80, 1)]
      TT).dev = true ∧ (fget (ts [(80, 1)] TT).dev (srvReg R.SRV_ST_CTRL) F.SRV_ST_CTRL_CONCURRENT ≤ (ts [(80, 1)]
      TT).dev.cont.testing.length ∨ ∃ t, t ∈ (ts [(80, 1)] TT).dev.cont.testing ∧ t.fst / 24 = 3)) ∧ (powered (ts [] TT).dev
      = true ∧ (¬((ts [] TT).dev.tally < mgetD (ts [] TT).dev.cont.lastTest (gblock 3 4) 0 + 2250000000000 * max 1 (fget (ts
      [] TT).dev (srvReg R.SRV_ST_CTRL) F.SRV_ST_CTRL_INTERVAL_H) ∨ blockRetired (ts [] TT).dev 3 4 = true ∨ fget (ts []
      TT).dev (srvReg R.SRV_ST_CTRL) F.SRV_ST_CTRL_CONCURRENT ≤ (ts [] TT).dev.cont.testing.length ∨ ∃ t, t ∈ (ts []
      TT).dev.cont.testing ∧ t.fst / 24 = 3)) ∧ leavesRoom (ts [] TT).dev 3 4 = true) ∧ (powered (ts [] TT noRoom).dev =
      true ∧ (¬((ts [] TT noRoom).dev.tally < mgetD (ts [] TT noRoom).dev.cont.lastTest (gblock 3 4) 0 + 2250000000000 * max
      1 (fget (ts [] TT noRoom).dev (srvReg R.SRV_ST_CTRL) F.SRV_ST_CTRL_INTERVAL_H) ∨ blockRetired (ts [] TT noRoom).dev 3
      4 = true ∨ fget (ts [] TT noRoom).dev (srvReg R.SRV_ST_CTRL) F.SRV_ST_CTRL_CONCURRENT ≤ (ts [] TT
      noRoom).dev.cont.testing.length ∨ ∃ t, t ∈ (ts [] TT noRoom).dev.cont.testing ∧ t.fst / 24 = 3)) ∧ leavesRoom (ts []
      TT noRoom).dev 3 4 = false) := by
  decide +kernel

/-- Obligations.ContinuityComplete: its premises on reservoirTestStart hold together. -/
theorem witness_ContinuityComplete_reservoirTestStart :
    powered (ts []).dev = true ∧ MayWrite (ts []).dev (Path.core 0 1 CoreMode.machine) (ctl R.SRV_ST_CTRL (coordCopy (ts
      []).dev (Path.core 0 1 CoreMode.machine)) 0) ∧ flag (ts []).dev (srvReg R.SRV_ST_CTRL) F.SRV_ST_CTRL_RSV_GO = false := by
  decide +kernel

/-- Obligations.ContinuityComplete: its premises on reservoirTestDone hold together. -/
theorem witness_ContinuityComplete_reservoirTestDone :
    (powered (ts []).dev = true ∧ flag (ts []).dev (srvReg R.SRV_ST_CTRL) F.SRV_ST_CTRL_RSV_GO = false) ∧ (powered rt.dev
      = true ∧ flag rt.dev (srvReg R.SRV_ST_CTRL) F.SRV_ST_CTRL_RSV_GO = true) := by
  decide +kernel

/-- Obligations.ContinuityComplete: its premises on liveUpdate hold together. -/
theorem witness_ContinuityComplete_liveUpdate_1 :
    powered (up (ni imgA)).dev = true ∧ (up (ni imgA)).dev.boot.newImage.isSome = true := by
  decide +kernel

/-- Obligations.ContinuityComplete: its premises on liveUpdate hold together. -/
theorem witness_ContinuityComplete_liveUpdate_2 :
    powered (up id).dev = true ∧ (up id).dev.boot.newImage = none ∧ parseImage (up id).dev [1] = none := by
  decide +kernel

/-- Obligations.ContinuityComplete: its premises on liveUpdate hold together. -/
theorem witness_ContinuityComplete_liveUpdate_3 :
    powered (up (ed 1)).dev = true ∧ (up (ed 1)).dev.boot.newImage = none ∧ parseImage (up (ed 1)).dev imgA = some (im
      imgA) ∧ ((im imgA).sectionsOk = true ∧ ((im imgA).edition = fget (up (ed 1)).dev (ctl R.DIE_EDITION 0 0)
      F.DIE_EDITION_EDITION ∨ drainedDevice (up (ed 1)).dev = true)) := by
  decide +kernel

/-- Obligations.ContinuityComplete: its premises on liveUpdate hold together. -/
theorem witness_ContinuityComplete_liveUpdate_4 :
    powered (up (ed 2)).dev = true ∧ (up (ed 2)).dev.boot.newImage = none ∧ parseImage (up (ed 2)).dev imgA = some (im
      imgA) ∧ ((im imgA).sectionsOk = true ∧ ((im imgA).edition = fget (up (ed 2)).dev (ctl R.DIE_EDITION 0 0)
      F.DIE_EDITION_EDITION ∨ drainedDevice (up (ed 2)).dev = true)) := by
  decide +kernel

/-- Obligations.ContinuityComplete: its premises on liveUpdate hold together. -/
theorem witness_ContinuityComplete_liveUpdate_5 :
    powered (up (ed 1)).dev = true ∧ (up (ed 1)).dev.boot.newImage = none ∧ parseImage (up (ed 1)).dev imgC = some (im
      imgC) ∧ (¬((im imgC).sectionsOk = true ∧ ((im imgC).edition = fget (up (ed 1)).dev (ctl R.DIE_EDITION 0 0)
      F.DIE_EDITION_EDITION ∨ drainedDevice (up (ed 1)).dev = true))) := by
  decide +kernel

/-- Obligations.ContinuityComplete: its premises on liveUpdate hold together. -/
theorem witness_ContinuityComplete_liveUpdate_6 :
    powered (up (ed 2 ∘ adm)).dev = true ∧ (up (ed 2 ∘ adm)).dev.boot.newImage = none ∧ parseImage (up (ed 2 ∘ adm)).dev
      imgA = some (im imgA) ∧ (¬((im imgA).sectionsOk = true ∧ ((im imgA).edition = fget (up (ed 2 ∘ adm)).dev (ctl
      R.DIE_EDITION 0 0) F.DIE_EDITION_EDITION ∨ drainedDevice (up (ed 2 ∘ adm)).dev = true))) := by
  decide +kernel

/-- Obligations.ContinuityComplete: its premises on liveUpdate hold together. -/
theorem witness_ContinuityComplete_liveUpdate_7 :
    powered (up id).dev = true ∧ (up id).dev.boot.newImage = none := by
  decide +kernel

/-- Obligations.ContinuityComplete: its premises on liveUpdate hold together. -/
theorem witness_ContinuityComplete_liveUpdate_8 :
    powered (up (ni imgA (upd [] []))).dev = true ∧ (up (ni imgA (upd [] []))).dev.boot.newImage = some (im imgA) ∧ (up
      (ni imgA (upd [] []))).dev.cont.pending = [] ∧ (up (ni imgA (upd [] []))).dev.cont.due = [] ∧ List.find? (fun die =>
      !(up (ni imgA (upd [] []))).dev.boot.updatedDies.contains die) (updateOrder (up (ni imgA (upd [] []))).dev) = some 1 ∧
      1 ≠ (up (ni imgA (upd [] []))).dev.coord := by
  decide +kernel

/-- Obligations.ContinuityComplete: its premises on liveUpdate hold together. -/
theorem witness_ContinuityComplete_liveUpdate_9 :
    powered (up (ni imgA dn)).dev = true ∧ (up (ni imgA dn)).dev.cont.due ≠ [] := by
  decide +kernel

/-- Obligations.ContinuityComplete: its premises on liveUpdate hold together. -/
theorem witness_ContinuityComplete_liveUpdate_10 :
    powered (up (ni imgA (upd (all48.erase 46) [] ∘ co))).dev = true ∧ (up (ni imgA (upd (all48.erase 46) [] ∘
      co))).dev.boot.newImage = some (im imgA) ∧ (up (ni imgA (upd (all48.erase 46) [] ∘ co))).dev.cont.pending = [] ∧ (up
      (ni imgA (upd (all48.erase 46) [] ∘ co))).dev.cont.due = [] ∧ List.find? (fun die => !(up (ni imgA (upd (all48.erase
      46) [] ∘ co))).dev.boot.updatedDies.contains die) (updateOrder (up (ni imgA (upd (all48.erase 46) [] ∘ co))).dev) =
      some 46 ∧ 46 ≠ (up (ni imgA (upd (all48.erase 46) [] ∘ co))).dev.coord := by
  decide +kernel

/-- Obligations.ContinuityComplete: its premises on liveUpdate hold together. -/
theorem witness_ContinuityComplete_liveUpdate_11 :
    powered (up (ni imgA (upd all48 []))).dev = true ∧ (up (ni imgA (upd all48 []))).dev.boot.newImage = some (im imgA) ∧
      (up (ni imgA (upd all48 []))).dev.cont.pending = [] ∧ (up (ni imgA (upd all48 []))).dev.cont.due = [] ∧ (∀ (y : Nat),
      y ∈ updateOrder (up (ni imgA (upd all48 []))).dev → y ∈ (up (ni imgA (upd all48 []))).dev.boot.updatedDies) ∧
      List.find? (fun h => !(up (ni imgA (upd all48 []))).dev.boot.updatedHeads.contains h) (List.range 8) = some 0 ∧ 0 ≠ 7 := by
  decide +kernel

/-- Obligations.ContinuityComplete: its premises on liveUpdate hold together. -/
theorem witness_ContinuityComplete_liveUpdate_12 :
    powered (up (ni imgA (upd all48 [0, 1, 2, 3, 4, 5, 6]))).dev = true ∧ (up (ni imgA (upd all48
      [0, 1, 2, 3, 4, 5, 6]))).dev.boot.newImage = some (im imgA) ∧ (up (ni imgA (upd all48
      [0, 1, 2, 3, 4, 5, 6]))).dev.cont.pending = [] ∧ (up (ni imgA (upd all48 [0, 1, 2, 3, 4, 5, 6]))).dev.cont.due = [] ∧
      (∀ (y : Nat), y ∈ updateOrder (up (ni imgA (upd all48 [0, 1, 2, 3, 4, 5, 6]))).dev → y ∈ (up (ni imgA (upd all48
      [0, 1, 2, 3, 4, 5, 6]))).dev.boot.updatedDies) ∧ List.find? (fun h => !(up (ni imgA (upd all48
      [0, 1, 2, 3, 4, 5, 6]))).dev.boot.updatedHeads.contains h) (List.range 8) = some 7 ∧ (im imgA).edition < 65536 := by
  decide +kernel

end W18

namespace W19

def ac (a : Nat) : CtlAccess := {path := mp, addr := BitVec.ofNat 32 a}
def hole := ac (ctl R.SEQ_PS_DATA 3 4 + 0x800)
def gR := (wd fun d => wr d (ctl R.SEQ_PS_ADDR 3 4) 0xFFFFFFFF)
def ps := ac (ctl R.SEQ_PS_ADDR 3 4)
def psr : RegRow := (regAt ps.addr.toNat).getD ⟨0,0,0,.every,.one,[]⟩
def selw (d : Dev) := wr (fsets d (winReg R.AQD_WIN_CTRL 0) [(F.AQD_WIN_CTRL_SIZE_M1, 3), (F.AQD_WIN_CTRL_WR_EN, 1), (F.AQD_WIN_CTRL_CREDITS_M1, 5)]) (winReg R.AQD_WIN_TGT_LO 0) (BitVec.ofNat 32 (1 + 4000*16 + 4 * 2^27))
def sO (f : Window → Window) (g : Dev → Dev := id) := wd fun d => g (selw (setWindow (netD d) 0 (f {gen := 9})))
def sx1 : State := sO fun x => {x with state := 1}
def sx2 : State := sO fun x => {x with state := 2}
def bad (d : Dev) := wr d (winReg R.AQD_WIN_TGT_LO 0) (BitVec.ofNat 32 (2^31-1))
def tg (v : Nat) (d : Dev) := wr (wr d (winReg R.AQD_WIN_TGT_LO 0) (BitVec.ofNat 32 v)) (winReg R.AQD_WIN_TGT_HI 0) (BitVec.ofNat 32 (v / 2^32))
def Y1 : State := sO id (tg (3 + (393216*2097152 - 16384) * 16))
def Y2 : State := sO id (tg (3 + (393216*2097152 - 16384+4096) * 16))
def Y3 : State := sO id (tg (1 + (8388608-16384)*16 + 4*2^27))
def Y4 : State := sO id (tg (1 + (8388608-16384+16)*16 + 4*2^27))
/-- The target of an OPEN lies whole in the memory it names. -/
def tgtFits (d : Dev) (w : Nat) : Bool :=
  let size := (fget d (winReg R.AQD_WIN_CTRL w) F.AQD_WIN_CTRL_SIZE_M1 + 1) * 4096
  match parseEndpoint ((rd d (winReg R.AQD_WIN_TGT_LO w)).toNat + (rd d (winReg R.AQD_WIN_TGT_HI w)).toNat * 4294967296) 0 with
  | some (some (Endpoint.package _ _ a)) => decide (a + size ≤ 8388608)
  | some (some (Endpoint.reservoir a)) => decide (a + size ≤ 393216 * 2097152)
  | _ => false

/-- Obligations.ReservedBitsReadZero: its premises on rcCounterRead hold together. -/
theorem witness_ReservedBitsReadZero_rcCounterRead :
    (powered (wd netD).dev = true ∧ regAt hole.addr.toNat = none ∧ refusal (wd netD).dev hole false = none) ∧ (powered
      gR.dev = true ∧ regAt ps.addr.toNat = some psr ∧ (∀ (f : FieldRow), f ∈ psr.fields → 31 < f.fld.lo ∨ f.fld.lo +
      f.fld.width ≤ 31) ∧ refusal gR.dev ps false = none) := by
  decide +kernel

/-- Obligations.ReservedBitsReadZero: its premises on registerWrite hold together. -/
theorem witness_ReservedBitsReadZero_registerWrite :
    (powered (wd netD).dev = true ∧ regAt hole.addr.toNat = none ∧ refusal (wd netD).dev hole true = none) ∧ (powered
      gR.dev = true ∧ regAt ps.addr.toNat = some psr ∧ (∀ (f : FieldRow), f ∈ psr.fields → 1 < f.fld.lo ∨ f.fld.lo +
      f.fld.width ≤ 1) ∧ refusal gR.dev ps true = none) := by
  decide +kernel

/-- Obligations.OpenAppliesOrIsIgnored: its premises on windowOpen hold together. -/
theorem witness_OpenAppliesOrIsIgnored_windowOpen_1 :
    (powered (sO id).dev = true ∧ MayWrite (sO id).dev mp (txnReg R.AQD_WIN_OP 2) ∧ 2 = primaryHead (sO id).dev ∧ (window
      (sO id).dev (selWindow (sO id).dev mp 2)).state = 0 ∧
      ((tgtFits (sO id).dev (selWindow (sO id).dev mp 2))
      = true)) ∧ (powered sx1.dev = true ∧ MayWrite sx1.dev mp (txnReg R.AQD_WIN_OP 2) ∧ 2 = primaryHead sx1.dev ∧ (window
      sx1.dev (selWindow sx1.dev mp 2)).state ≠ 0) ∧ (powered sx2.dev = true ∧ MayWrite sx2.dev mp (txnReg R.AQD_WIN_OP 2) ∧
      2 = primaryHead sx2.dev ∧ (window sx2.dev (selWindow sx2.dev mp 2)).state ≠ 0) ∧ (powered (sO id bad).dev = true ∧
      MayWrite (sO id bad).dev mp (txnReg R.AQD_WIN_OP 2) ∧ 2 = primaryHead (sO id bad).dev ∧
      ((tgtFits (sO id bad).dev (selWindow (sO id bad).dev mp 2))
      = false)) ∧ (powered Y1.dev = true ∧ MayWrite Y1.dev mp (txnReg R.AQD_WIN_OP 2) ∧ 2 = primaryHead Y1.dev ∧ (window
      Y1.dev (selWindow Y1.dev mp 2)).state = 0 ∧
      ((tgtFits Y1.dev (selWindow Y1.dev mp 2))
      = true)) := by
  decide +kernel

/-- Obligations.OpenAppliesOrIsIgnored: its premises on windowOpen hold together. -/
theorem witness_OpenAppliesOrIsIgnored_windowOpen_2 :
    (powered Y2.dev = true ∧ MayWrite Y2.dev mp (txnReg R.AQD_WIN_OP 2) ∧ 2 = primaryHead Y2.dev ∧
      ((tgtFits Y2.dev (selWindow Y2.dev mp 2))
      = false)) ∧ (powered Y3.dev = true ∧ MayWrite Y3.dev mp (txnReg R.AQD_WIN_OP 2) ∧ 2 = primaryHead Y3.dev ∧ (window
      Y3.dev (selWindow Y3.dev mp 2)).state = 0 ∧
      ((tgtFits Y3.dev (selWindow Y3.dev mp 2))
      = true)) ∧ (powered Y4.dev = true ∧ MayWrite Y4.dev mp (txnReg R.AQD_WIN_OP 2) ∧ 2 = primaryHead Y4.dev ∧
      ((tgtFits Y4.dev (selWindow Y4.dev mp 2))
      = false)) := by
  decide +kernel

end W19

end Sys2Proof.Tests
end

section
/-! Control accesses that are let through (R8, R9, R328): what a read delivers and does, what a write stores by the access
codes of its register, and the three statements of spec/00_scope.md about them. -/

namespace Sys2Proof.Machine

/-! ## The parts of a control address (R6) -/

theorem ctlOff_lt (a : Nat) : ctlOff a < 2 ^ 12 := bits_lt _ _ _
theorem ctlInst_lt (a : Nat) : ctlInst a < 2 ^ 8 := bits_lt _ _ _

/-- The class is part of the place. -/
theorem ctlClass_eq (a : Nat) : ctlClass a = ctlPlace a / 2 ^ 20 := by
  have := ctlOff_lt a
  simp only [ctlPlace, pow2]
  omega

/-- The offset is part of the place. -/
theorem ctlOff_eq (a : Nat) : ctlOff a = ctlPlace a % 2 ^ 20 := by
  have := ctlOff_lt a
  simp only [ctlPlace, pow2]
  omega

theorem ctlClass_of_place {a place : Nat} (h : ctlPlace a = place) : ctlClass a = place / 2 ^ 20 := h ▸ ctlClass_eq a
theorem ctlOff_of_place {a place : Nat} (h : ctlPlace a = place) : ctlOff a = place % 2 ^ 20 := h ▸ ctlOff_eq a

/-- The place of a register's address, for a place with no bit where the unit's number stands. -/
theorem ctlPlace_ctl {place : Nat} (die : Nat) {inst : Nat} (hp : place / 2 ^ 12 % 2 ^ 8 = 0) (hp' : place < 2 ^ 26)
    (hi : inst < 2 ^ 8) : ctlPlace (ctl place die inst) = place := by
  simp only [ctlPlace, ctlClass, ctlOff, ctl, bits, Nat.shiftRight_eq_div_pow, pow2]
  omega

/-! ## Rows of the register table -/

/-- The row covers a place: it is the register's, or one of its repetitions. -/
def RegRow.covers (r : RegRow) (place : Nat) : Bool :=
  r.place ≤ place
    && (if r.stride = 0 then place == r.place
        else (place - r.place) % r.stride == 0 && (place - r.place) / r.stride < r.count)

/-- The fields of a row lie within 32 bits, hold their reset values, and share no bit. -/
def RegRow.FieldsOk (r : RegRow) : Prop :=
  (∀ f ∈ r.fields, f.fld.lo + f.fld.width ≤ 32 ∧ f.reset < 2 ^ f.fld.width)
    ∧ r.fields.Pairwise fun f g => f.fld.lo + f.fld.width ≤ g.fld.lo ∨ g.fld.lo + g.fld.width ≤ f.fld.lo

theorem mem_regTable_of_regAt {a : Nat} {r : RegRow} (h : regAt a = some r) : r ∈ regTable :=
  List.mem_of_find?_eq_some h

theorem covers_of_regAt {a : Nat} {r : RegRow} (h : regAt a = some r) : r.covers (ctlPlace a) = true := by
  have hhas : r.has a = true := List.find?_some (p := fun r : RegRow => r.has a) h
  simp only [RegRow.has, Bool.and_eq_true] at hhas
  obtain ⟨⟨-, hle⟩, hat⟩ := hhas
  simp only [RegRow.covers, Bool.and_eq_true]
  exact ⟨hle, hat⟩

theorem regTable_fieldsOk : ∀ r ∈ regTable, r.FieldsOk := by
  unfold RegRow.FieldsOk
  decide +kernel

theorem fieldsOk_of_regAt {a : Nat} {r : RegRow} (h : regAt a = some r) : r.FieldsOk :=
  regTable_fieldsOk r (mem_regTable_of_regAt h)

/-- The places whose reads latch or advance another register (R161, R360, R371). -/
def latchPlaces : List Nat := [R.SEQ_PS_DATA, R.CLK_TALLY_LO, R.CLK_TIME_NS]

/-- No register whose read acts on another one has a field that clears. -/
theorem regTable_latch_not_rc :
    ∀ r ∈ regTable, ∀ p ∈ latchPlaces, r.covers p = true → ∀ f ∈ r.fields, f.acc ≠ .rc := by
  decide +kernel

/-- RSV_SHARE is four RW fields that leave no bit out. -/
theorem regTable_share : ∀ r ∈ regTable, r.covers R.RSV_SHARE = true →
    (∀ f ∈ r.fields, f.acc = .rw) ∧ ∀ i < 32, ∃ f ∈ r.fields, f.fld.lo ≤ i ∧ i < f.fld.lo + f.fld.width := by
  decide +kernel

/-! ## Storing every field of a register

`writeByCodes` and `readClears` both go through the fields of a row and store each one's new value, which depends on its
old value alone. -/

/-- Each field in turn takes what `u` makes of it. -/
def storeFields (u : FieldRow → Nat → Nat) (l : List FieldRow) (x : Nat) : Nat :=
  l.foldl (fun x f => setBits x f.fld.lo f.fld.width (u f (bits x f.fld.lo f.fld.width))) x

/-- What a write of `v` makes of a field that holds `o` (R9). -/
def codeUpdate (v : Nat) (f : FieldRow) (o : Nat) : Nat :=
  let n := bits v f.fld.lo f.fld.width
  match f.acc with
  | .rw => n
  | .w1c => o - (o &&& n)
  | .w1s => o ||| n
  | _ => o

/-- What a read leaves in a field that holds `o` (R9). -/
def clearUpdate (f : FieldRow) (o : Nat) : Nat := if f.acc = .rc then f.reset else o

/-- Storing a field's own value changes nothing. -/
theorem setBits_bits_self (x lo w : Nat) : setBits x lo w (bits x lo w) = x := by
  refine Nat.eq_of_testBit_eq fun i => ?_
  rw [testBit_setBits]
  split
  next h =>
    obtain ⟨hlo, hhi⟩ := h
    rw [testBit_bits, Nat.add_sub_cancel' hlo]
    simp [show i - lo < w by omega]
  next => rfl

theorem writeByCodes_eq (r : RegRow) (old v : Nat) : writeByCodes r old v = storeFields (codeUpdate v) r.fields old := by
  unfold writeByCodes storeFields
  congr 1
  funext x f
  cases h : f.acc <;> simp [codeUpdate, h, setBits_bits_self]

theorem readClears_eq (r : RegRow) (old : Nat) : readClears r old = storeFields clearUpdate r.fields old := by
  unfold readClears storeFields
  congr 1
  funext x f
  by_cases h : f.acc = .rc <;> simp [clearUpdate, h, setBits_bits_self]

theorem storeFields_lt (u : FieldRow → Nat → Nat) {l : List FieldRow} (hl : ∀ f ∈ l, f.fld.lo + f.fld.width ≤ 32) {x : Nat}
    (hx : x < 2 ^ 32) : storeFields u l x < 2 ^ 32 := by
  induction l generalizing x with
  | nil => exact hx
  | cons f l ih => exact ih (fun g hg => hl g (by simp [hg])) (setBits_lt hx (hl f (by simp)))

/-- A field that shares no bit with the ones stored stays. -/
theorem bits_storeFields_apart (u : FieldRow → Nat → Nat) {l : List FieldRow} {f : FieldRow}
    (h : ∀ g ∈ l, f.fld.lo + f.fld.width ≤ g.fld.lo ∨ g.fld.lo + g.fld.width ≤ f.fld.lo) (x : Nat) :
    bits (storeFields u l x) f.fld.lo f.fld.width = bits x f.fld.lo f.fld.width := by
  induction l generalizing x with
  | nil => rfl
  | cons g l ih =>
    refine (ih (fun g' hg => h g' (by simp [hg])) _).trans ?_
    exact bits_setBits_other _ _ _ _ (h g (by simp))

/-- Where no two fields share a bit, each one ends at what `u` makes of its old value. -/
theorem bits_storeFields (u : FieldRow → Nat → Nat) {l : List FieldRow}
    (hl : l.Pairwise fun f g => f.fld.lo + f.fld.width ≤ g.fld.lo ∨ g.fld.lo + g.fld.width ≤ f.fld.lo) {f : FieldRow}
    (hf : f ∈ l) (x : Nat) :
    bits (storeFields u l x) f.fld.lo f.fld.width = u f (bits x f.fld.lo f.fld.width) % 2 ^ f.fld.width := by
  induction l generalizing x with
  | nil => simp at hf
  | cons g l ih =>
    obtain ⟨hg, hl⟩ := List.pairwise_cons.1 hl
    rcases List.mem_cons.1 hf with rfl | hf
    · exact (bits_storeFields_apart u hg _).trans (bits_setBits_self _ _ _ _)
    · refine (ih hl hf _).trans ?_
      rw [bits_setBits_other _ _ _ _ (hg f hf).symm]

/-- A field's new value fits the field, where its old value does. -/
theorem codeUpdate_lt (v : Nat) (f : FieldRow) {o : Nat} (ho : o < 2 ^ f.fld.width) : codeUpdate v f o < 2 ^ f.fld.width := by
  have hn := bits_lt v f.fld.lo f.fld.width
  unfold codeUpdate
  cases f.acc
  case rw => exact hn
  case w1c => exact lt_of_le_of_lt (Nat.sub_le _ _) ho
  case w1s => exact Nat.or_lt_two_pow ho hn
  all_goals exact ho

/-- A field of a register after all its fields were stored. -/
theorem fget_wr_storeFields (u : FieldRow → Nat → Nat) {r : RegRow} (hr : r.FieldsOk) {f : FieldRow} (hf : f ∈ r.fields)
    (d e : Dev) (k : Nat) (hu : u f (fget d k f.fld) < 2 ^ f.fld.width) :
    fget (wr e k (BitVec.ofNat 32 (storeFields u r.fields (rd d k).toNat))) k f.fld = u f (fget d k f.fld) := by
  obtain ⟨hfit, hapart⟩ := hr
  have hlt := storeFields_lt u (fun g hg => (hfit g hg).1) (rd d k).isLt
  rw [fget, rd_wr_self, BitVec.toNat_ofNat, Nat.mod_eq_of_lt hlt, bits_storeFields u hapart hf]
  exact Nat.mod_eq_of_lt hu

/-- A register of RW fields alone that leave no bit out takes the word written. -/
theorem writeByCodes_all_rw {r : RegRow} (hr : r.FieldsOk) (hrw : ∀ f ∈ r.fields, f.acc = .rw)
    (hall : ∀ i < 32, ∃ f ∈ r.fields, f.fld.lo ≤ i ∧ i < f.fld.lo + f.fld.width) (old : Nat) (v : Word) :
    BitVec.ofNat 32 (writeByCodes r old v.toNat) = v := by
  refine BitVec.eq_of_getLsbD_eq fun i hi => ?_
  obtain ⟨f, hf, hlo, hhi⟩ := hall i hi
  have hfield : bits (writeByCodes r old v.toNat) f.fld.lo f.fld.width = bits v.toNat f.fld.lo f.fld.width := by
    rw [writeByCodes_eq, bits_storeFields _ hr.2 hf, codeUpdate, hrw f hf]
    exact Nat.mod_eq_of_lt (bits_lt _ _ _)
  have hbit := congrArg (Nat.testBit · (i - f.fld.lo)) hfield
  simp only [testBit_bits, Nat.add_sub_cancel' hlo, show i - f.fld.lo < f.fld.width by omega, decide_true,
    Bool.true_and] at hbit
  rw [BitVec.getLsbD_ofNat, hbit]
  simp [hi, BitVec.getLsbD]

/-! ## The value that a read finds (R8) -/

theorem testBit_foldl_mask (l : List FieldRow) (m i : Nat) :
    (l.foldl (fun m f => m ||| (pow2 f.fld.width - 1) <<< f.fld.lo) m).testBit i
      = (m.testBit i || l.any fun f => decide (f.fld.lo ≤ i ∧ i < f.fld.lo + f.fld.width)) := by
  induction l generalizing m with
  | nil => simp
  | cons f l ih =>
    have hf : ((pow2 f.fld.width - 1) <<< f.fld.lo).testBit i
        = decide (f.fld.lo ≤ i ∧ i < f.fld.lo + f.fld.width) := by
      rw [Nat.testBit_shiftLeft, Nat.testBit_two_pow_sub_one, ← Bool.decide_and, decide_eq_decide]
      omega
    rw [List.foldl_cons, ih, Nat.testBit_or, hf, List.any_cons, Bool.or_assoc]

/-- A bit is in the mask of a register where it belongs to one of its fields. -/
theorem testBit_mask (r : RegRow) (i : Nat) :
    r.mask.testBit i = r.fields.any fun f => decide (f.fld.lo ≤ i ∧ i < f.fld.lo + f.fld.width) := by
  rw [RegRow.mask, testBit_foldl_mask, Nat.zero_testBit, Bool.false_or]

theorem view_of_no_register {a : Nat} (h : regAt a = none) (d : Dev) (p : Path) : view d p a = 0 := by
  simp only [view, h]

/-- A bit that belongs to no field reads 0. -/
theorem view_reserved {a : Nat} {r : RegRow} (h : regAt a = some r) {i : Nat}
    (hi : ∀ f ∈ r.fields, i < f.fld.lo ∨ f.fld.lo + f.fld.width ≤ i) (d : Dev) (p : Path) :
    (view d p a).getLsbD i = false := by
  have hmask : r.mask.testBit i = false := by
    rw [testBit_mask, List.any_eq_false]
    intro f hf
    have := hi f hf
    simp only [decide_eq_true_eq]
    omega
  simp only [view, h, BitVec.getLsbD_and, BitVec.getLsbD_ofNat, hmask, Bool.and_false, Bool.false_and]

/-! ## Accesses that are let through (R330) -/

/-- An access that is not refused is 4 bytes wide. -/
theorem width_of_refusal_none {d : Dev} {c : CtlAccess} {w : Bool} (h : refusal d c w = none) :
    c = { path := c.path, addr := BitVec.ofNat 32 c.addr.toNat } := by
  obtain ⟨p, a, n⟩ := c
  have hn : n = 4 := by
    by_contra hn
    simp [refusal, hn] at h
  simp [hn]

theorem coreRead_of_mayRead {d : Dev} {p : Path} {a : Nat} (h : MayRead d p a) :
    coreRead d p a = emit (readEffect d p a) .readData [p.bank, a, (view d p a).toNat] := by
  simp only [coreRead, ctlRead, h]

theorem ctlPut_of_mayWrite {d : Dev} {p : Path} {a : Nat} (h : MayWrite d p a) (v : Nat) :
    ctlPut d p a v = writeReg d p a v := by
  simp only [ctlPut, ctlWrite, h]

/-- A control read that is let through delivers the value and has the read's effect. -/
theorem exec_rcCounterRead_of_ok {s : State} {c : CtlAccess} (hp : powered s.dev = true) (h : refusal s.dev c false = none) :
    exec (.rcCounterRead c) s = .next (after s (emit (readEffect s.dev c.path c.addr.toNat) .readData
      [c.path.bank, c.addr.toNat, (view s.dev c.path c.addr.toNat).toNat])) := by
  have hr : MayRead s.dev c.path c.addr.toNat := by rwa [MayRead, ← width_of_refusal_none h]
  rw [exec_rcCounterRead, execRcCounterRead, act_powered rfl hp, readAccess, h]
  exact congrArg (fun d => Host.Outcome.next (after s d)) (coreRead_of_mayRead hr)

/-- A control write that is let through acts on its register. -/
theorem exec_registerWrite_of_ok {s : State} {c : CtlAccess} (hp : powered s.dev = true) (h : refusal s.dev c true = none)
    (v : Word) :
    exec (.registerWrite c v) s = .next (after s (writeReg s.dev c.path c.addr.toNat v.toNat)) := by
  rw [exec_registerWrite, execRegisterWrite, act_powered rfl hp, writeAccess, h]

/-! ## What a read does -/

theorem readEffect_of_no_register {a : Nat} (h : regAt a = none) (d : Dev) (p : Path) : readEffect d p a = d := by
  simp only [readEffect, h]

/-- What a read of a measured register marks: its time, at a new epoch. -/
def measureMark (d : Dev) (a : Nat) : Dev :=
  if (measuredAt a).isEmpty then d else bumpEpoch { d with since := mset d.since a d.tally }

@[simp] theorem rd_measureMark (d : Dev) (a b : Nat) : rd (measureMark d a) b = rd d b := by
  unfold measureMark
  split <;> rfl

@[simp] theorem measureMark_out (d : Dev) (a : Nat) : (measureMark d a).out = d.out := by
  unfold measureMark
  split <;> rfl

@[simp] theorem regKey_measureMark (d : Dev) (p : Path) (a b : Nat) : regKey (measureMark d a) p b = regKey d p b := by
  unfold measureMark
  split <;> rfl

theorem tallyRead_out (d : Dev) : (tallyRead d).out = d.out := rfl
theorem timeRead_out (d : Dev) : (timeRead d).out = d.out := rfl

/-- The effect of a read of a register, branch by branch. -/
theorem readEffect_eq {a : Nat} {r : RegRow} (h : regAt a = some r) (d : Dev) (p : Path) :
    readEffect d p a =
      if ctlPlace a = R.SEQ_PS_DATA then
        let pa := ctl R.SEQ_PS_ADDR (ctlDie a) (ctlInst a)
        fset (measureMark d a) pa F.SEQ_PS_ADDR_WORD (fget (measureMark d a) pa F.SEQ_PS_ADDR_WORD + 1)
      else if a = clkReg R.CLK_TALLY_LO then tallyRead (measureMark d a)
      else if a = clkReg R.CLK_TIME_NS then timeRead (measureMark d a)
      else if r.fields.any fun f => f.acc == .rc then
        wr (measureMark d a) (regKey (measureMark d a) p a)
          (BitVec.ofNat 32 (readClears r (rd (measureMark d a) (regKey (measureMark d a) p a)).toNat))
      else measureMark d a := by
  rw [readEffect, h]
  rfl

/-- A read sends nothing itself. -/
theorem readEffect_out (d : Dev) (p : Path) (a : Nat) : (readEffect d p a).out = d.out := by
  cases h : regAt a with
  | none => rw [readEffect_of_no_register h]
  | some r =>
    rw [readEffect_eq h]
    split_ifs
    · rw [fset_out, measureMark_out]
    · rw [tallyRead_out, measureMark_out]
    · rw [timeRead_out, measureMark_out]
    · rw [wr_out, measureMark_out]
    · rw [measureMark_out]

/-- Outside the classes and places that a path selects in, a register is kept at its own address. -/
theorem regKey_of_plain {a : Nat} (h : ctlClass a ∈ [0x01, 0x0A]) (d : Dev) (p : Path) : regKey d p a = a := by
  have hc := ctlClass_eq a
  have hrep : replicated a = false := by
    simp only [List.mem_cons, List.not_mem_nil, or_false] at h
    rcases h with h | h <;> simp [replicated, h]
  simp only [List.mem_cons, List.not_mem_nil, or_false] at h
  have hne : ∀ place : Nat, place / 2 ^ 20 ∉ [0x01, 0x0A] → ctlPlace a ≠ place := by
    rintro place hp rfl
    simp only [List.mem_cons, List.not_mem_nil, or_false] at hp
    omega
  simp only [regKey, hrep, show ctlClass a ≠ 0x20 by omega, hne R.RSV_PT_ENTRY (by decide), hne R.FNT_ENTRY_LO (by decide),
    hne R.FNT_ENTRY_HI (by decide), hne R.FNT_LIST (by decide), or_self, if_false, Bool.false_eq_true]

theorem ctlClass_readClock : ∀ n ∈ [R.CLK_TALLY_LO, R.CLK_TIME_NS], ctlClass (clkReg n) ∈ [0x01, 0x0A] := by decide

/-- The registers that latch with a read of the tally or of device time are others than those read (R360, R371). -/
theorem readClock_ne_latch : ∀ n ∈ [R.CLK_TALLY_LO, R.CLK_TIME_NS],
    ∀ m ∈ [R.CLK_TALLY_HI, R.CLK_TIME_SEC_LO, R.CLK_TIME_SEC_HI], clkReg n ≠ clkReg m := by decide

/-- A read leaves the register that is read as it is where no field of it clears. -/
theorem rd_readEffect_of_not_rc {a : Nat} {r : RegRow} (h : regAt a = some r) (hrc : ∀ f ∈ r.fields, f.acc ≠ .rc) (d : Dev)
    (p : Path) : rd (readEffect d p a) (regKey d p a) = rd d (regKey d p a) := by
  have hclk : ∀ n ∈ [R.CLK_TALLY_LO, R.CLK_TIME_NS], ∀ m ∈ [R.CLK_TALLY_HI, R.CLK_TIME_SEC_LO, R.CLK_TIME_SEC_HI],
      a = clkReg n → regKey d p a ≠ clkReg m := by
    intro n hn m hm ha
    rw [ha, regKey_of_plain (ctlClass_readClock n hn)]
    exact readClock_ne_latch n hn m hm
  rw [readEffect_eq h]
  split_ifs with hps htally htime hany
  · have hne : regKey d p a ≠ ctl R.SEQ_PS_ADDR (ctlDie a) (ctlInst a) := by
      rw [regKey_of_plain (by rw [ctlClass_eq, hps]; decide)]
      intro ha
      have hpl := ctlPlace_ctl (place := R.SEQ_PS_ADDR) (ctlDie a) (by decide) (by decide) (ctlInst_lt a)
      rw [← ha, hps] at hpl
      exact absurd hpl (by decide)
    rw [rd_fset_ne _ hne, rd_measureMark]
  · rw [tallyRead, rd_wr_ne _ (hclk _ (by decide) _ (by decide) htally), rd_measureMark]
  · rw [timeRead, rd_wr_ne _ (hclk _ (by decide) _ (by decide) htime), rd_wr_ne _ (hclk _ (by decide) _ (by decide) htime),
      rd_measureMark]
  · obtain ⟨f, hf, hacc⟩ := List.any_eq_true.1 hany
    exact absurd (eq_of_beq hacc) (hrc f hf)
  · rw [rd_measureMark]

/-- A register with a field that clears has no other effect on registers: it is none of those that latch. -/
theorem readEffect_of_rc {a : Nat} {r : RegRow} (h : regAt a = some r) {f : FieldRow} (hf : f ∈ r.fields) (hrc : f.acc = .rc)
    (d : Dev) (p : Path) :
    readEffect d p a = wr (measureMark d a) (regKey d p a)
      (BitVec.ofNat 32 (storeFields clearUpdate r.fields (rd d (regKey d p a)).toNat)) := by
  have hlatch : ctlPlace a ∉ latchPlaces := fun hm =>
    regTable_latch_not_rc r (mem_regTable_of_regAt h) _ hm (covers_of_regAt h) f hf hrc
  rw [readEffect_eq h, if_neg, if_neg, if_neg, if_pos, regKey_measureMark, rd_measureMark, readClears_eq]
  · exact List.any_eq_true.2 ⟨f, hf, by simp [hrc]⟩
  · exact fun ha => hlatch (by rw [ha]; decide)
  · exact fun ha => hlatch (by rw [ha]; decide)
  · exact fun hpl => hlatch (by rw [hpl]; decide)

/-- Of the register that is read, the fields that clear take their reset values, and the others stay. -/
theorem fget_readEffect {a : Nat} {r : RegRow} (h : regAt a = some r) (d : Dev) (p : Path) {f : FieldRow} (hf : f ∈ r.fields) :
    fget (readEffect d p a) (regKey d p a) f.fld = clearUpdate f (fget d (regKey d p a) f.fld) := by
  by_cases hany : ∃ g ∈ r.fields, g.acc = .rc
  · obtain ⟨g, hg, hrc⟩ := hany
    rw [readEffect_of_rc h hg hrc]
    refine fget_wr_storeFields clearUpdate (fieldsOk_of_regAt h) hf _ _ _ ?_
    unfold clearUpdate
    split
    · exact ((fieldsOk_of_regAt h).1 f hf).2
    · exact fget_lt _ _ _
  · have hnone : ∀ g ∈ r.fields, g.acc ≠ .rc := fun g hg hrc => hany ⟨g, hg, hrc⟩
    rw [fget, rd_readEffect_of_not_rc h hnone, clearUpdate, if_neg (hnone f hf), fget]

/-! ## What a write acts on -/

theorem writeReg_of_no_register {a : Nat} (h : regAt a = none) (d : Dev) (p : Path) (v : Nat) (errs : List LineErr) :
    writeReg d p a v errs = d := by
  simp only [writeReg, h, Option.isNone_none, if_true]

/-- The classes in which selectors stand (R329). -/
theorem class_of_isSelector {place : Nat} (h : isSelector place = true) :
    place / 2 ^ 20 ∈ [0x00, 0x10, 0x18, 0x19, 0x20, 0x3E] := by
  have hall : ∀ n ∈ [R.CFG_SEL, R.DIE_SLIP_SEL, R.RSV_PT_SEL, R.AQD_WIN_SEL, R.AQD_RT_SEL, R.FNT_SEL, R.SRV_MT_SEL,
      R.SRV_LEDGER_SEL], n / 2 ^ 20 ∈ [0x00, 0x10, 0x18, 0x19, 0x20, 0x3E] := by decide
  exact hall place (List.contains_iff_mem.1 h)

section
variable {a : Nat} {r : RegRow} (h : regAt a = some r) (hsel : isSelector (ctlPlace a) = false) (d : Dev) (p : Path) (v : Nat)
include h hsel

/-- Registers of classes without rules of their own act by their access codes. -/
theorem writeReg_codes (hc : ctlClass a ∈ [0x05, 0x07, 0x0C, 0x3F]) : writeReg d p a v = storeCodes d a a v := by
  simp only [List.mem_cons, List.not_mem_nil, or_false] at hc
  rcases hc with hc | hc | hc | hc <;> simp [writeReg, h, hsel, hc]

theorem writeReg_gate (hc : ctlClass a = 0x08) :
    writeReg d p a v = writeGatReg d p (ctlDie a) (ctlInst a) (ctlOff a) a v := by
  simp [writeReg, h, hsel, hc]

theorem writeReg_clock (hc : ctlClass a = 0x0A) :
    writeReg d p a v = if ctlDie a = 0 ∧ ctlInst a = 0 then writeClkReg d (ctlPlace a) a v else storeCodes d a a v := by
  simp [writeReg, h, hsel, hc]

theorem writeReg_hall (hc : ctlClass a = 0x0B) :
    writeReg d p a v = writeHalReg d p (ctlDie a) (ctlInst a) (ctlPlace a) a v := by
  simp [writeReg, h, hsel, hc]

theorem writeReg_stack (hc : ctlClass a = 0x10) :
    writeReg d p a v = writeRsvReg d p (ctlDie a - 48) (ctlPlace a) a v := by
  simp [writeReg, h, hsel, hc]

theorem writeReg_fountain (hc : ctlClass a = 0x19) :
    writeReg d p a v = writeFntReg d p (ctlDie a - 56) (ctlPlace a) a v := by
  simp [writeReg, h, hsel, hc]

end

/-- The places of the operating point group. -/
theorem place_of_mem_pointGroup : ∀ a ∈ pointGroup,
    ctlPlace a ∈ [R.CLK_OP_NEXT, R.PWR_VTARGET, R.CLK_OP_TALLY_LO, R.CLK_OP_TALLY_HI] := by
  decide

/-- Clock registers outside the operating point group and device time act by their access codes. -/
theorem writeClkReg_codes {a : Nat} (hp : ctlPlace a ∉ [R.CLK_OP_NEXT, R.PWR_VTARGET, R.CLK_OP_TALLY_LO, R.CLK_OP_TALLY_HI,
    R.CLK_OP_APPLY, R.CLK_TIME_RATE, R.CLK_TIME_STEP]) (d : Dev) (v : Nat) :
    writeClkReg d (ctlPlace a) a v = storeCodes d a a v := by
  have hgroup : pointGroup.contains a = false := by
    rw [List.contains_eq_mem, decide_eq_false_iff_not]
    intro hm
    have := place_of_mem_pointGroup a hm
    simp only [List.mem_cons, List.not_mem_nil, or_false] at this hp
    omega
  simp only [List.mem_cons, List.not_mem_nil, or_false, not_or] at hp
  obtain ⟨-, -, -, -, happly, hrate, hstep⟩ := hp
  simp only [writeClkReg, hgroup, happly, hrate, hstep, if_false, Bool.false_eq_true]

/-- Clock and power registers of die 0 that act by their access codes, though others of their class do not. -/
def plainClockPlaces : List Nat := [R.CLK_THERM, R.CLK_OP_LIMIT, R.PWR_LIMIT, R.PWR_ALERT]

theorem plainClockPlaces_spec : ∀ n ∈ plainClockPlaces, isSelector n = false ∧ n / 2 ^ 20 = 0x0A
    ∧ n ∉ [R.CLK_OP_NEXT, R.PWR_VTARGET, R.CLK_OP_TALLY_LO, R.CLK_OP_TALLY_HI, R.CLK_OP_APPLY, R.CLK_TIME_RATE,
      R.CLK_TIME_STEP] := by
  decide

/-- A write to a register without rules of its own acts by the access codes of its fields. -/
theorem writeReg_plain {a : Nat} {r : RegRow} (h : regAt a = some r)
    (hp : ctlClass a ∈ [0x05, 0x07, 0x0C, 0x3F] ∨ ctlPlace a ∈ plainClockPlaces ++ [R.FNT_TIMEOUT, R.HAL_REMOTE, R.GAT_CTRL])
    (d : Dev) (p : Path) (v : Nat) : writeReg d p a v = storeCodes d a a v := by
  rcases hp with hc | hp
  · have hsel : isSelector (ctlPlace a) = false := by
      by_contra hs
      have hcls := class_of_isSelector (Bool.eq_true_of_not_eq_false hs)
      rw [← ctlClass_eq] at hcls
      simp only [List.mem_cons, List.not_mem_nil, or_false] at hcls hc
      omega
    exact writeReg_codes h hsel d p v hc
  · rcases List.mem_append.1 hp with hp | hp
    · obtain ⟨hsel, hcls, hplain⟩ := plainClockPlaces_spec _ hp
      rw [writeReg_clock h hsel d p v ((ctlClass_eq a).trans hcls), writeClkReg_codes hplain, ite_self]
    · simp only [List.mem_cons, List.not_mem_nil, or_false] at hp
      rcases hp with hp | hp | hp
      · rw [writeReg_fountain h (by rw [hp]; decide) d p v (ctlClass_of_place hp), hp]
        simp [writeFntReg]
      · have hoff : ctlOff a = 0x004 := ctlOff_of_place hp
        rw [writeReg_hall h (by rw [hp]; decide) d p v (ctlClass_of_place hp), hp]
        simp [writeHalReg, isSendBuffer, hoff]
      · have hoff : ctlOff a = 0x008 := ctlOff_of_place hp
        rw [writeReg_gate h (by rw [hp]; decide) d p v (ctlClass_of_place hp), hoff]
        simp [writeGatReg]

/-- The fields of a register after a write by their access codes, and all else as it was. -/
theorem storeCodes_fields {a : Nat} {r : RegRow} (h : regAt a = some r) (d : Dev) (v : Nat) :
    OnlyRegs d (storeCodes d a a v) [a]
      ∧ ∀ f ∈ r.fields, fget (storeCodes d a a v) a f.fld = codeUpdate v f (fget d a f.fld) := by
  have hs : storeCodes d a a v = wr d a (BitVec.ofNat 32 (storeFields (codeUpdate v) r.fields (rd d a).toNat)) := by
    simp only [storeCodes, h, writeByCodes_eq]
  rw [hs]
  refine ⟨⟨rfl, fun b hb => rd_wr_ne d (by simpa using hb) _⟩, fun f hf => ?_⟩
  exact fget_wr_storeFields _ (fieldsOk_of_regAt h) hf d d a (codeUpdate_lt v f (fget_lt _ _ _))

/-- A write of RSV_SHARE lands whole in its shadow (R200, R334). -/
theorem writeReg_share {a : Nat} {r : RegRow} (h : regAt a = some r) (hp : ctlPlace a = R.RSV_SHARE) (d : Dev) (p : Path)
    (v : Word) : writeReg d p a v.toNat = writeShadow d a v := by
  obtain ⟨hrw, hall⟩ := regTable_share r (mem_regTable_of_regAt h) (hp ▸ covers_of_regAt h)
  rw [writeReg_stack h (by rw [hp]; decide) d p v.toNat (ctlClass_of_place hp)]
  simp only [writeRsvReg, hp, if_true, shadowCodes, h, writeByCodes_all_rw (fieldsOk_of_regAt h) hrw hall]

/-! ## The tally and device time (R360, R371) -/

theorem signed_toNat (v : Word) : signed 32 v.toNat = v.toInt := by
  have := v.isLt
  rw [BitVec.toInt_eq_toNat_cond]
  simp only [signed, pow2, Nat.mod_eq_of_lt this, Int.ofNat_eq_natCast]
  split <;> split <;> omega

theorem writeReg_timeStep (d : Dev) (p : Path) (v : Nat) : writeReg d p (clkReg R.CLK_TIME_STEP) v = timeStep d v := rfl
theorem writeReg_timeRate (d : Dev) (p : Path) (v : Nat) : writeReg d p (clkReg R.CLK_TIME_RATE) v = timeRate d v := rfl
theorem readEffect_tally (d : Dev) (p : Path) : readEffect d p (clkReg R.CLK_TALLY_LO) = tallyRead d := rfl
theorem readEffect_time (d : Dev) (p : Path) : readEffect d p (clkReg R.CLK_TIME_NS) = timeRead d := rfl

theorem measuredFields_of_none {a : Nat} (h : measuredAt a = []) (d : Dev) : measuredFields d a = [] := by
  simp only [measuredFields, h, List.map_nil, ite_self]

/-- What a read finds in a register that is kept at its own address and measures nothing. -/
theorem view_plain {a : Nat} {r : RegRow} (h : regAt a = some r) {d : Dev} {p : Path} (hk : regKey d p a = a)
    (hsel : isSelector (ctlPlace a) = false) (hpt : ctlPlace a ≠ R.RSV_PT_ENTRY) (hm : measuredAt a = []) :
    view d p a = BitVec.ofNat 32 r.mask
      &&& BitVec.ofNat 32 ((derived d p a).foldl (fun v e => setBits v e.1.lo e.1.width e.2) (rd d a).toNat) := by
  simp only [view, h, hk, hsel, hpt, measuredFields_of_none hm, List.append_nil, false_and, if_false, Bool.false_eq_true]

/-- A register of one field, from bit 0 on, that shows a number of the device. -/
theorem toNat_mask_and_setBits {w : Nat} (hw : w ≤ 32) (old : Word) (x : Nat) :
    (BitVec.ofNat 32 (2 ^ w - 1) &&& BitVec.ofNat 32 (setBits old.toNat 0 w x)).toNat = x % 2 ^ w := by
  have hle : 2 ^ w ≤ 2 ^ 32 := Nat.pow_le_pow_right (by norm_num) hw
  have hpos := Nat.two_pow_pos w
  have hlt : setBits old.toNat 0 w x < 2 ^ 32 := setBits_lt old.isLt (by omega)
  rw [BitVec.toNat_and, BitVec.toNat_ofNat, BitVec.toNat_ofNat, Nat.mod_eq_of_lt hlt,
    Nat.mod_eq_of_lt (show 2 ^ w - 1 < 2 ^ 32 by omega), Nat.and_comm, Nat.and_two_pow_sub_one_eq_mod]
  exact bits_setBits_self old.toNat 0 w x

theorem view_tally (d : Dev) (p : Path) : (view d p (clkReg R.CLK_TALLY_LO)).toNat = d.tally % 2 ^ 32 := by
  have hreg : regAt (clkReg R.CLK_TALLY_LO) = some ⟨R.CLK_TALLY_LO, 1, 0, .dieZero, .one, [fr 0 31 .ro 0x0]⟩ := by
    decide +kernel
  have hder : derived d p (clkReg R.CLK_TALLY_LO) = [(F.CLK_TALLY_LO_TALLY, d.tally)] := rfl
  rw [view_plain hreg (regKey_of_plain (by decide) d p) (by decide) (by decide) (by decide), hder]
  exact toNat_mask_and_setBits (le_refl 32) _ _

theorem view_time (d : Dev) (p : Path) : (view d p (clkReg R.CLK_TIME_NS)).toNat = timeNs d % 1000000000 := by
  have hreg : regAt (clkReg R.CLK_TIME_NS) = some ⟨R.CLK_TIME_NS, 1, 0, .dieZero, .one, [fr 0 29 .ro 0x0]⟩ := by
    decide +kernel
  have hder : derived d p (clkReg R.CLK_TIME_NS) = [(F.CLK_TIME_NS_NS, timeNs d % 1000000000)] := rfl
  rw [view_plain hreg (regKey_of_plain (by decide) d p) (by decide) (by decide) (by decide), hder]
  refine (toNat_mask_and_setBits (w := 30) (by norm_num) _ _).trans (Nat.mod_eq_of_lt ?_)
  omega

/-- What a read of device time latches, and that no other register changes. -/
theorem timeRead_latches (d : Dev) :
    rd (timeRead d) (clkReg R.CLK_TIME_SEC_LO) = BitVec.ofNat 32 (timeNs d / 1000000000)
      ∧ (rd (timeRead d) (clkReg R.CLK_TIME_SEC_HI)).toNat = timeNs d / 1000000000 / 2 ^ 32 % 2 ^ 16
      ∧ RegsBut d (timeRead d) [clkReg R.CLK_TIME_SEC_LO, clkReg R.CLK_TIME_SEC_HI] := by
  refine ⟨?_, ?_, fun b hb => ?_⟩
  · rw [timeRead, rd_wr_ne _ (by decide), rd_wr_self]
  · rw [timeRead, rd_wr_self, BitVec.toNat_ofNat, bits, Nat.shiftRight_eq_div_pow]
    exact Nat.mod_eq_of_lt (lt_trans (Nat.mod_lt _ (Nat.two_pow_pos 16)) (by norm_num))
  · simp only [List.mem_cons, List.not_mem_nil, or_false, not_or] at hb
    rw [timeRead, rd_wr_ne _ hb.2, rd_wr_ne _ hb.1]

end Sys2Proof.Machine

namespace Sys2Proof.Proofs

open Sys2Proof.Machine

/-! ## The statements -/

/-- Settles O14: each of the four accesses is let through and acts at once on the device. -/
theorem timeAccessComplete : Obligations.TimeAccessComplete := by
  intro s p hp
  refine ⟨fun v hw => ?_, fun v hw => ?_, fun hr => ?_, fun hr => ?_⟩
  · rw [exec_timeStep, execTimeStep, act_powered rfl hp, ctlPut_of_mayWrite hw, writeReg_timeStep, timeStep, signed_toNat]
  · rw [exec_timeRate, execTimeRate, act_powered rfl hp, ctlPut_of_mayWrite hw, writeReg_timeRate, timeRate, signed_toNat]
  · rw [exec_tallyRead, execTallyRead, act_powered rfl hp, coreRead_of_mayRead hr, view_tally, readEffect_tally, tallyRead,
      Nat.shiftRight_eq_div_pow]
    rfl
  · refine ⟨emit (timeRead s.dev) .readData [p.bank, clkReg R.CLK_TIME_NS, timeNs s.dev % 1000000000], ?_, ?_,
      timeRead_latches s.dev⟩
    · rw [exec_timeRead, execTimeRead, act_powered rfl hp, coreRead_of_mayRead hr, view_time, readEffect_time]
    · rw [emit, timeRead_out]

/-- Settles O15: a read clears, and a write stores, field by field; no two fields of a register share a bit. -/
theorem accessCodesComplete : Obligations.AccessCodesComplete := by
  intro s c r hp hreg
  refine ⟨fun hr => ⟨_, exec_rcCounterRead_of_ok hp hr, ?_, fun f hf hrc => ?_, fun f hf hrc => ?_⟩,
    fun v hw => ⟨fun hplain => ⟨_, exec_registerWrite_of_ok hp hw v, ?_⟩, fun hshare => ?_⟩⟩
  · rw [emit, readEffect_out]
  · exact (fget_readEffect hreg s.dev c.path hf).trans (if_pos hrc)
  · exact (fget_readEffect hreg s.dev c.path hf).trans (if_neg hrc)
  · rw [writeReg_plain hreg hplain]
    exact storeCodes_fields hreg s.dev v.toNat
  · rw [exec_registerWrite_of_ok hp hw v, writeReg_share hreg hshare]
    rfl

/-- Settles O59: where no register is, neither access acts; where one is, its mask covers every value that a read finds. -/
theorem reservedBitsReadZero : Obligations.ReservedBitsReadZero := by
  intro s c hp
  refine ⟨fun hnone => ⟨fun hr => ⟨_, exec_rcCounterRead_of_ok hp hr, ?_⟩, fun v hw => ?_⟩,
    fun r n hreg hn => ⟨fun hr => ⟨_, exec_rcCounterRead_of_ok hp hr, view s.dev c.path c.addr.toNat, ?_, ?_⟩,
      fun v hw => ⟨_, exec_registerWrite_of_ok hp hw v, view_reserved hreg hn _ _⟩⟩⟩
  · rw [readEffect_of_no_register hnone, view_of_no_register hnone]
    exact ⟨rfl, rfl⟩
  · rw [exec_registerWrite_of_ok hp hw v, writeReg_of_no_register hnone]
  · rw [emit, readEffect_out]
  · exact view_reserved hreg hn _ _

end Sys2Proof.Proofs
end

section
/-! The operations of the EAF queue (R102, R172, R173): what their command does where the oldest operation completes, and
the statement of spec/03_canonical_reduction.md about them. The statement fails: it gives GEN no bound, and a fill mark keeps
the three bits of a generation (R119). -/

namespace Sys2Proof.Machine

/-! ## Effects of a unit's work leave the blocks -/

@[simp] theorem irqAll_blocks (d : Dev) (die src : Nat) : (irqAll d die src).blocks = d.blocks := by
  simp [irqAll, irq]

@[simp] theorem requestAbort_blocks (d : Dev) (code : FaultCode) : (requestAbort d code).blocks = d.blocks := by
  unfold requestAbort
  split
  · split <;> rfl
  · rfl

@[simp] theorem writeFault_blocks (d : Dev) (die : Nat) (e : FaultEv) : (writeFault d die e).blocks = d.blocks := by
  simp [writeFault]

@[simp] theorem fault_blocks (d : Dev) (die : Nat) (e : FaultEv) : (fault d die e).blocks = d.blocks := by
  simp only [fault, requestAbort_blocks]
  split
  · exact fcnt_blocks _ _ _ _
  · rw [writeFault_blocks, fcnt_blocks]

@[simp] theorem writeNan_blocks (d : Dev) (die : Nat) (e : NanEv) : (writeNan d die e).blocks = d.blocks := by
  simp [writeNan]

@[simp] theorem nanHalt_blocks (d : Dev) (die : Nat) (e : NanEv) : (nanHalt d die e).blocks = d.blocks := by
  unfold nanHalt
  split
  · rw [fault_blocks]
    split <;> simp
  · rfl

@[simp] theorem nanEvent_blocks (d : Dev) (die : Nat) (e : NanEv) : (nanEvent d die e).blocks = d.blocks := by
  simp only [nanEvent]
  split
  · simp
  · split
    · rw [nanHalt_blocks]
      split <;> simp
    · simp

@[simp] theorem applyFx_blocks (d : Dev) (f : Fx) : (applyFx d f).blocks = d.blocks := by
  cases f <;> simp [applyFx, cvtCount, nanRows]

@[simp] theorem applyAll_blocks (d : Dev) (l : List Fx) : (applyAll d l).blocks = d.blocks := by
  induction l generalizing d with
  | nil => rfl
  | cons f l ih => exact (ih (applyFx d f)).trans (applyFx_blocks d f)

/-- The block that is put is the block found, whatever the effects of its work. -/
@[simp] theorem blk_putBlk_self (d : Dev) (die b : Nat) (y : Block) (fx : List Fx) : blk (putBlk d die b (y, fx)) die b = y := by
  rw [blk, putBlk, applyAll_blocks]
  exact blk_setBlk_self d die b y

/-! ## The oldest operation completes -/

/-- Where nothing was found in error and the oldest operation completes, its block and its effects are put, and it leaves
the queue. -/
theorem eafAdvance_of_done {d : Dev} {die b : Nat} {o p : EafOp} {os : List EafOp} {y : Block} {fx : List Fx}
    (hq : (blk d die b).eafQueue = o :: os) (hturn : eafTurn (blk d die b) o = true)
    (hdone : performEaf d die b o = .done p y fx) :
    eafAdvance d die b [] = putBlk d die b ({ y with eafQueue := os }, fx) := by
  simp [eafAdvance, hq, hturn, hdone, eafParity, wellParitiesAll]

/-- A command of the oldest operation's kind performs it, and issues no other: the queue has changed. -/
theorem seqEaf_of_done {d : Dev} {die b : Nat} {o p : EafOp} {os : List EafOp} {y : Block} {fx : List Fx}
    (hq : (blk d die b).eafQueue = o :: os) (hturn : eafTurn (blk d die b) o = true)
    (hdone : performEaf d die b o = .done p y fx) {is : Cop → Bool} (his : is o.cop = true) :
    seqEaf d die b {} is = putBlk d die b ({ y with eafQueue := os }, fx) := by
  have hlost : arbLost d die b {} = d := rfl
  simp [seqEaf, hq, his, hlost, eafAdvance_of_done hq hturn hdone]

/-- ESTS whose operation is the oldest and completes. -/
theorem exec_ests_of_done {s : State} {die : DieId} {b : BlockId} {o p : EafOp} {os : List EafOp} {y : Block} {fx : List Fx}
    (hp : powered s.dev = true) (hq : (blk s.dev die b).eafQueue = o :: os) (hturn : eafTurn (blk s.dev die b) o = true)
    {reg off gen acc count : Nat} (hcop : o.cop = .ests reg off gen acc count)
    (hdone : performEaf s.dev die b o = .done p y fx) :
    exec (.ests die b {}) s = .next (after s (putBlk s.dev die b ({ y with eafQueue := os }, fx))) := by
  rw [exec_ests, execEsts, act_powered rfl hp, seqEaf_of_done hq hturn hdone (by rw [hcop])]

/-! ## A store of one word -/

/-- A fill mark keeps three bits of the generation (R119). -/
theorem mget_wideMarks_setMark (x : Block) (r gen : Nat) : mget (setMark x false r gen).wideMarks r = some (gen % 8) := by
  simp [setMark]

/-- ESTS of one accumulator writes its storage form to the row's start and sets the row's mark; nothing else happens. -/
theorem performEaf_ests_one {d : Dev} {die b : Nat} {o : EafOp} {reg off gen acc r : Nat} (hcop : o.cop = .ests reg off gen acc 1)
    (hprogress : o.progress = 0) (htaken : o.taken = 0)
    (hrow : runRow d die b (unitCtx d die b o.slot) o.row none = .ok r) :
    performEaf d die b o = .done { o with progress := 1, taken := 1 }
      (setMark { blk d die b with
        well := memWrite (blk d die b).well (rowAddr false r) (eafStorage (accAt (blk d die b).accs acc)) } false r gen) [] := by
  have hstop : ∀ n x q, q.taken = 1 → runStore d die b (unitCtx d die b o.slot) false gen acc 1 n x q [] = .done q x [] := by
    intro n x q hq
    cases n with
    | zero => rfl
    | succ n => simp [runStore, hq]
  simp [performEaf, hcop, runStore, hprogress, htaken, hrow, hstop]

/-! ## A generation of four bits -/

/-- An ESTS of one accumulator to the first row of a unit, of a generation that no bundle can name: GEN has three bits. -/
def estsOfGen8 : EafOp :=
  { seq := 0, bundle := 0, slot := 0, cop := .ests 0 0 8 0 1, row := 0, progress := 0, taken := 0, wait := none }

/-- A device that runs, with that operation alone in the queue of a block whose unit has one wide row. -/
def gen8State : State :=
  { State.reset with
    dev := { blocks := [(0, { ps := { cells := [(16, 1)], zeroed := [(0, 64)] }, eafQueue := [estsOfGen8] })],
             boot := { on := true, inReset := false } } }

theorem gen8State_row : runRow gen8State.dev 0 0 (unitCtx gen8State.dev 0 0 0) 0 none = .ok 0 := by decide +kernel

end Sys2Proof.Machine

namespace Sys2Proof.Proofs

open Sys2Proof.Machine

/-- Refutes O26: an ESTS of generation 8 has its turn, and sets the mark of its row to generation 0, where the statement says 8.
ERND and ESTT fail alike; a premise that GEN is below 8 is missing from the three. -/
theorem not_eafSlotComplete : ¬ Obligations.EafSlotComplete := by
  intro h
  obtain ⟨-, -, -, -, -, hests, -⟩ := h gen8State 0 0 estsOfGen8 [] 0 rfl rfl rfl rfl rfl (by decide)
  obtain ⟨e, he, -, -, hmark, -⟩ := hests 8 0 rfl gen8State_row rfl
  have hnext := exec_ests_of_done (s := gen8State) (die := 0) (b := 0) (o := estsOfGen8) rfl rfl rfl rfl
    (performEaf_ests_one rfl rfl rfl gen8State_row)
  rw [hnext] at he
  obtain rfl : putBlk gen8State.dev _ _ _ = e := congrArg State.dev (Host.Outcome.next.inj he)
  rw [blk_putBlk_self] at hmark
  exact absurd ((mget_wideMarks_setMark _ _ _).symm.trans hmark) (by decide)

end Sys2Proof.Proofs
end

section
/-! Passes and tile loads of the matrix quartet (R68, R75, R76): what a pass that issues notes for the spacing of the pass after
it, and the two statements of spec/04_matrix_quartet.md. Both fail. The statement about passes takes the step cycle of the issue
for the block cycle that the model notes (R169, log entry 96), and the two part at every hold; the statement about tiles gives
EXP_SLOT no bound, and the register of the slots has 32 bits. -/

namespace Sys2Proof.Machine

/-! ## What the sequencer noted of its last pass stays (R68) -/

/-- The pass before, as the sequencer of a block notes it. -/
def lastPassOf (d : Dev) (die b : Nat) : Option (Nat × Nat) := (blk d die b).seq.lastPass

/-- A device with the same blocks has noted the same pass. -/
theorem lastPassOf_of_blocks {d e : Dev} (h : e.blocks = d.blocks) (die b : Nat) : lastPassOf e die b = lastPassOf d die b := by
  rw [lastPassOf, lastPassOf, blk, blk, h]

@[simp] theorem lastPassOf_setBlk (d : Dev) (die b : Nat) (x : Block) : lastPassOf (setBlk d die b x) die b = x.seq.lastPass := by
  rw [lastPassOf, blk_setBlk_self]

@[simp] theorem lastPassOf_fault (d : Dev) (die b die' : Nat) (e : FaultEv) :
    lastPassOf (fault d die' e) die b = lastPassOf d die b :=
  lastPassOf_of_blocks (fault_blocks d die' e) die b

@[simp] theorem lastPassOf_fcnt (d : Dev) (die b a : Nat) (f : Fld) (n : Nat) :
    lastPassOf (fcnt d a f n) die b = lastPassOf d die b :=
  lastPassOf_of_blocks (fcnt_blocks d a f n) die b

/-- A raise stops the sequencer and forgets nothing of its passes. -/
@[simp] theorem lastPassOf_raiseHold (d : Dev) (die b : Nat) (c : Cause) (due : Option Nat) :
    lastPassOf (raiseHold d die b c due) die b = lastPassOf d die b := by
  unfold raiseHold
  dsimp only
  split
  · refine (lastPassOf_of_blocks (fcnt_blocks _ _ _ _) die b).trans ?_
    rw [setSeq, lastPassOf_setBlk, lastPassOf]
  · rfl

@[simp] theorem lastPassOf_stallBlk (d : Dev) (die b : Nat) (w : Option Wait) :
    lastPassOf (stallBlk d die b w) die b = lastPassOf d die b := by
  cases w with
  | none => rfl
  | some v => exact lastPassOf_raiseHold d die b v.cause none

theorem wellParities_none (d : Dev) (die b reader : Nat) (rows : List Nat) : wellParities d die b reader [] rows = d := rfl

/-- A pass that goes on leaves what is noted, also where it stalls or faults. -/
theorem lastPassOf_passStep (d : Dev) (die b : Nat) (u : UnitCtx) (p : PassRun) :
    lastPassOf (passStep d die b u p []) die b = lastPassOf d die b := by
  unfold passStep
  split
  · rfl
  · dsimp only [List.filter_nil, wellParities_none]
    split
    · rw [lastPassOf_stallBlk, lastPassOf_setBlk, lastPassOf]
    · rw [lastPassOf_fault, lastPassOf_stallBlk, lastPassOf_setBlk, lastPassOf]

theorem lastPassOf_slotDone (d : Dev) (die b : Nat) (bu : Bundle) (rest : List SlotId) :
    lastPassOf (slotDone d die b bu rest) die b = lastPassOf d die b := by
  unfold slotDone
  dsimp only
  split
  · split <;> rw [setSeq, lastPassOf_setBlk, lastPassOf]
  · rw [setSeq, lastPassOf_setBlk, lastPassOf]

/-! ## A pass issues (R68, R169) -/

/-- The block cycle of the last issue: the die's elapsed cycles less those that the sequencer has counted since. -/
def issueBlockCycle (d : Dev) (die b : Nat) : Nat := (dieSt d die).elapsed - ((blk d die b).seq.cycle - (blk d die b).seq.lastIssue)

/-- A pass that issues is noted with the block cycle of its issue, whatever its vectors meet. -/
theorem lastPassOf_passIssue {d : Dev} {die b : Nat} {l : TileLoad} (hl : (blk d die b).load = some l) (u : UnitCtx)
    (m : MatrixSlot) : lastPassOf (passIssue d die b u m []) die b = some (issueBlockCycle d die b, m.vcount) := by
  simp only [passIssue, hl, lastPassOf_passStep, lastPassOf_fcnt, lastPassOf_setBlk, issueBlockCycle]

/-- PASS at its slot's turn, with no read in error and no arbitration lost. -/
theorem seqPass_of_turn {d : Dev} {die b : Nat} {bu : Bundle} {rest : List SlotId} {m : MatrixSlot}
    (hturn : SlotTurn d die b .matrix bu rest) (hm : bu.matrix = some m) :
    seqPass d die b {} = slotDone (passIssue d die b (unitCtx d die b (blk d die b).seq.slot) m []) die b bu rest := by
  obtain ⟨hissuing, hbundle⟩ := hturn
  have hlost : arbLost d die b {} = d := rfl
  simp [seqPass, issueSlot, hissuing, hbundle, hm, hlost, fcnt]

theorem exec_pass_of_turn {s : State} {die : DieId} {b : BlockId} {bu : Bundle} {rest : List SlotId} {m : MatrixSlot}
    (hp : powered s.dev = true) (hturn : SlotTurn s.dev die b .matrix bu rest) (hm : bu.matrix = some m) :
    exec (.pass die b {}) s = .next (after s
      (slotDone (passIssue s.dev die b (unitCtx s.dev die b (blk s.dev die b).seq.slot) m []) die b bu rest)) := by
  rw [exec_pass, execPass, act_powered rfl hp, seqPass_of_turn hturn hm]

/-- After PASS the sequencer has noted the block cycle of the issue. -/
theorem lastPass_of_pass {s : State} {die : DieId} {b : BlockId} {bu : Bundle} {rest : List SlotId} {m : MatrixSlot}
    {l : TileLoad} {e : Dev} (hp : powered s.dev = true) (hturn : SlotTurn s.dev die b .matrix bu rest)
    (hm : bu.matrix = some m) (hl : (blk s.dev die b).load = some l) (he : exec (.pass die b {}) s = .next (after s e)) :
    (blk e die b).seq.lastPass = some (issueBlockCycle s.dev die b, m.vcount) := by
  rw [exec_pass_of_turn hp hturn hm] at he
  obtain rfl := congrArg State.dev (Host.Outcome.next.inj he)
  exact (lastPassOf_slotDone _ _ _ _ _).trans (lastPassOf_passIssue hl _ m)

/-! ## A pass after a hold -/

/-- A plain BF16 tile of the cistern's first lines. -/
def plainTile : TileDesc :=
  { tfmt := .bf16, store := 0, scale := false, cbFmt := .bf16, expLoad := false, expSlot := 0, fromWell := false, column := false,
    epochAlt := false, gen := 0, afmt := .bf16, tenant := 0, img0 := 0, exp0 := 0, img1 := 0, exp1 := 0 }

/-- A load whose lines have come: of zeros, for the first bundle of unit slot 0. -/
def plainLoad : TileLoad :=
  { bundle := 0, tile := 0, desc := plainTile, alt := false, rowBase := 0, tag := 0, vcount := 1, plane := 0, nextRow := 0, rows := 0,
    lines := List.replicate 8 (List.replicate 1024 0), expLines := [], repairs := [], ready := false, wait := none }

/-- The pass of one vector and one term that `afterHold` is about to issue. -/
def oneVector : MatrixSlot :=
  { tile := 0, treg := 0, vcount := 1, areg := 0, actOff := 0, actStride := 0, actGen := 0, rreg := 0, rowOff := 0, entry := 0,
    klen := 1, tail := 0, first := false, sealing := false, tag := 0 }

/-- The bundle of that pass. -/
def passBundle : Bundle :=
  { matrix := some oneVector, vector := none, pumpA := none, pumpB := none, control := .nop, address := none, delta := 0 }

/-- A lockstep step in its 10th block cycle, two of which a hold has frozen: the bundle of the pass issues at step cycle 8. Its
unit has one bundle, one wide row, which is filled, and one basin entry. -/
def afterHold : State :=
  { State.reset with
    dev :=
      { blocks := [(0, { ps := { cells := [(4, 1), (16, 1), (22, 1), (28, 64), (64, 1)], zeroed := [(0, 96)] },
                         wideMarks := [(0, 0)], load := some { plainLoad with ready := true },
                         seq := { phase := .running, issuing := [.matrix, .control], lastIssue := 8, fresh := false, cycle := 8 } })],
        dies := [(0, { elapsed := 10 })], step := { running := true, lockstep := true },
        boot := { on := true, inReset := false } } }

theorem afterHold_turn : SlotTurn afterHold.dev 0 0 .matrix passBundle [.control] := by decide +kernel

/-! ## A load for an expansion slot that no descriptor names -/

/-- A load of a tile whose records go to slot 32, with its lines all come: EXP_SLOT of a descriptor has five bits (R73). -/
def slot32Load : TileLoad :=
  { plainLoad with
    desc := { plainTile with expLoad := true, expSlot := 32 }, expLines := List.replicate 2 (List.replicate 1024 0) }

/-- A device that runs, with that load in a block. -/
def slot32State : State :=
  { State.reset with dev := { blocks := [(0, { load := some slot32Load })], boot := { on := true, inReset := false } } }

/-- A register has no bit 32. -/
theorem bit_32_word (v : Word) : bit v.toNat 32 = false := by
  have := v.isLt
  simp only [bit, Nat.shiftRight_eq_div_pow]
  rw [Nat.div_eq_of_lt this]
  rfl

end Sys2Proof.Machine

namespace Sys2Proof.Proofs

open Sys2Proof.Machine

/-- Refutes O27: after a hold of two cycles, a pass that issues at step cycle 8 is noted with block cycle 10, where the statement
says 8. The spacing of passes (R68) goes on in block cycles while a hold stops the step cycle. -/
theorem not_passesComplete : ¬ Obligations.PassesComplete := by
  intro h
  obtain ⟨hpass, -, -⟩ := h afterHold 0 0 rfl
  obtain ⟨e, he, -, -, -, hlast, -⟩ :=
    hpass passBundle [.control] oneVector _ afterHold_turn rfl rfl (by decide +kernel)
  have hnoted := lastPass_of_pass (die := 0) (b := 0) rfl afterHold_turn rfl rfl he
  exact absurd (hnoted.symm.trans hlast) (by decide)

/-- Refutes O28: the tile of a load for slot 32 is ready to be expanded, and whatever its command leaves, SEQ_MQ_EXP_VALID has no
bit for that slot, where the statement says that the bit is set. A premise that EXP_SLOT is below 32 is missing. -/
theorem not_tilesComplete : ¬ Obligations.TilesComplete := by
  intro h
  obtain ⟨-, -, hready, -⟩ := h slot32State 0 0 rfl
  obtain ⟨e, -, -, -, -, -, hloads, -⟩ := hready slot32Load rfl rfl rfl rfl (by decide +kernel) (by decide)
  obtain ⟨-, hvalid⟩ := hloads rfl
  exact Bool.noConfusion ((bit_32_word _).symm.trans hvalid)

end Sys2Proof.Proofs
end

section
/-! Stores of the vector engine (R96, R119): what the oldest store leaves behind where its bank is ready, and the statement of
spec/05_vector_engine.md about chains. The statement fails: it gives the generation of a waiting store no bound, and a fill mark
keeps the three bits of a generation. Every store that a chain forms has a generation below 8 (`formStore`). -/

namespace Sys2Proof.Machine

/-! ## The oldest store lands -/

/-- In a bank that is ready, the oldest store writes its enabled bytes, sets its mark after them and leaves the queue. -/
theorem vectorStoreLand_of_mark {d : Dev} {die b : Nat} {t : VecStore} {ts : List VecStore} (hq : (blk d die b).stores = t :: ts)
    (hready : wellReady d die b t.place.1 t.place.2 = true) {narrow : Bool} {row gen : Nat}
    (hmark : t.mark = some (narrow, row, gen)) :
    vectorStoreLand d die b = setBlk d die b
      (setMark { blk d die b with well := memWriteOpt (blk d die b).well t.addr t.bytes, stores := ts } narrow row gen) := by
  simp [vectorStoreLand, hq, hready, hmark]

/-- VECTOR_STORE_LAND of a store with a mark, in a bank that is ready and with no arbitration lost. -/
theorem exec_vectorStoreLand_of_mark {s : State} {die : DieId} {b : BlockId} {t : VecStore} {ts : List VecStore}
    (hp : powered s.dev = true) (hq : (blk s.dev die b).stores = t :: ts)
    (hready : wellReady s.dev die b t.place.1 t.place.2 = true) {narrow : Bool} {row gen : Nat}
    (hmark : t.mark = some (narrow, row, gen)) :
    exec (.vectorStoreLand die { block := b }) s = .next (after s (setBlk s.dev die b
      (setMark { blk s.dev die b with well := memWriteOpt (blk s.dev die b).well t.addr t.bytes, stores := ts } narrow row
        gen))) := by
  have hlost : storeLost s.dev die b {} = s.dev := by simp [storeLost, unitLost, lostPorts]
  rw [exec_vectorStoreLand, execVectorStoreLand, act_powered rfl hp, hlost, vectorStoreLand_of_mark hq hready hmark]

/-- The mark of a wide row after its store has landed: the generation, in three bits. -/
theorem wideMark_of_vectorStoreLand {s : State} {die : DieId} {b : BlockId} {t : VecStore} {ts : List VecStore} {e : Dev}
    (hp : powered s.dev = true) (hq : (blk s.dev die b).stores = t :: ts)
    (hready : wellReady s.dev die b t.place.1 t.place.2 = true) {row gen : Nat} (hmark : t.mark = some (false, row, gen))
    (he : exec (.vectorStoreLand die { block := b }) s = .next (after s e)) :
    mget (blk e die b).wideMarks row = some (gen % 8) := by
  rw [exec_vectorStoreLand_of_mark hp hq hready hmark] at he
  obtain rfl := congrArg State.dev (Host.Outcome.next.inj he)
  rw [blk_setBlk_self, mget_wideMarks_setMark]

/-! ## A store of a generation that has four bits -/

/-- A store of one byte to wide row 0, which it marks with a generation that no stream can name: GEN has three bits. -/
def storeOfGen8 : VecStore :=
  { addr := 0, bytes := [some 1], mark := some (false, 0, 8), lastOfChain := true, bundle := 0, tag := 0, row := 0 }

/-- A device that runs, with that store alone waiting in a block whose banks are all ready. -/
def gen8StoreState : State :=
  { State.reset with
    dev := { blocks := [(0, { stores := [storeOfGen8] })], boot := { on := true, inReset := false } } }

theorem gen8StoreState_ready :
    wellReady gen8StoreState.dev 0 0 storeOfGen8.place.1 storeOfGen8.place.2 = true := by decide +kernel

end Sys2Proof.Machine

namespace Sys2Proof.Proofs

open Sys2Proof.Machine

/-- Refutes O29: the oldest store has generation 8 and lands in a bank that is ready, and the mark of its row is of generation 0,
where the statement says 8. A premise that the generation of the store is below 8 is missing from the last clause. -/
theorem not_chainsComplete : ¬ Obligations.ChainsComplete := by
  intro h
  obtain ⟨-, -, hstore⟩ := h gen8StoreState 0 0 rfl
  obtain ⟨-, hlands⟩ := hstore storeOfGen8 [] rfl rfl
  obtain ⟨e, he, -, -, -, -, hmark, -⟩ := hlands gen8StoreState_ready
  have hkept := wideMark_of_vectorStoreLand (die := 0) (b := 0) rfl rfl gen8StoreState_ready rfl he
  exact absurd (hkept.symm.trans (hmark false 0 8 rfl)) (by decide)

end Sys2Proof.Proofs
end

section
/-! Refresh and repair of a cistern (R109, R110, R113): the statement of spec/06_cisterns_and_wells.md about them. The statement
fails: a ground read comes after entries of its page that were written before it (R199), and no premise says that none waits. -/

namespace Sys2Proof.Machine

/-- A ground read is not answered while an entry of its page, written before it, waits as a fence (R199). -/
theorem groundReturn_of_fenced {d : Dev} {die b : Nat} {r : Repair} {rs : List Repair} (hr : (blk d die b).repairs = r :: rs)
    (hkind : entryKind (checkEntry d (groundAddr d die b r.line / 2097152 % 8) (groundAddr d die b r.line / 2097152 / 8)) ≠ 0)
    (hfence : fencedBefore d (groundAddr d die b r.line / 2097152) d.nextId = true) (fails : Nat) (bad : Bool) :
    groundReturn d die b fails bad = d := by
  simp [groundReturn, hr, hkind, hfence]

/-- A repair of a line of the first sub-bank, not tried before. -/
def firstLineRepair : Repair := { line := 0, reader := 0, tries := 0 }

/-- A device that runs, with that repair waiting in a block, and with an entry of its ground page waiting as a fence at a stack
that serves and has accepted nothing. -/
def fencedRepair : State :=
  { State.reset with
    dev := fset (fset
      { blocks := [(0, { repairs := [firstLineRepair] })], stackTab := [(0, { fences := [(0, 0, 1)] })],
        boot := { on := true, inReset := false } }
      (ctl R.BRG_STATUS 48 0) F.BRG_STATUS_UP 1) (ctl R.RSV_STATUS 48 0) F.RSV_STATUS_READY 1 }

theorem exec_groundRepairDone_fencedRepair : exec (.groundRepairDone 0 0 0 false) fencedRepair = .next fencedRepair := by
  have hreturn : groundReturn fencedRepair.dev 0 0 0 false = fencedRepair.dev :=
    groundReturn_of_fenced (r := firstLineRepair) (rs := []) rfl (by decide +kernel) (by decide +kernel) 0 false
  rw [exec_groundRepairDone, execGroundRepairDone, act_powered rfl rfl]
  exact congrArg (fun d => Host.Outcome.next (after fencedRepair d)) hreturn

end Sys2Proof.Machine

namespace Sys2Proof.Proofs

open Sys2Proof.Machine

/-- Refutes O19: the ground read of the oldest repair returns good data while an older write of its page's entry waits as a
fence, and the repair goes on waiting (R199), where the statement says that it has ended. A premise that no fence waits for the
page is missing from the last clause. -/
theorem not_refreshAndRepairComplete : ¬ Obligations.RefreshAndRepairComplete := by
  intro h
  obtain ⟨-, -, -, hground⟩ := h fencedRepair 0 0 rfl
  obtain ⟨e, he, hended, -⟩ := hground 0 firstLineRepair [] rfl (by decide) (by decide +kernel) (by decide +kernel)
    (by decide +kernel) (by decide +kernel) (by decide +kernel) (by decide +kernel) rfl rfl
  obtain rfl := congrArg State.dev (Host.Outcome.next.inj (exec_groundRepairDone_fencedRepair.symm.trans he))
  exact absurd hended (by decide +kernel)

end Sys2Proof.Proofs
end

section
/-! One block and registers alone differ (`OnlyBlock`), rule by rule; and the registers of a block by their control addresses:
what a write of one acts on. -/

namespace Sys2Proof

open Sys2Proof.Machine

/-! ## Registers outside a list read as before -/

theorem RegsBut.refl (d : Dev) (l : List Nat) : RegsBut d d l := fun _ _ => rfl

theorem RegsBut.trans {d e f : Dev} {l : List Nat} (h : RegsBut d e l) (h' : RegsBut e f l) : RegsBut d f l := fun a ha =>
  (h' a ha).trans (h a ha)

theorem regsBut_of_regs {d e : Dev} (h : e.regs = d.regs) (l : List Nat) : RegsBut d e l := fun a _ => by rw [rd, rd, h]

theorem regsBut_fset {a : Nat} {l : List Nat} (h : a ∈ l) (d : Dev) (f : Fld) (v : Nat) : RegsBut d (fset d a f v) l :=
  fun _ hb => rd_fset_ne d (ne_of_mem_of_not_mem h hb).symm f v

theorem regsBut_fcnt {a : Nat} {l : List Nat} (h : a ∈ l) (d : Dev) (f : Fld) (n : Nat) : RegsBut d (fcnt d a f n) l :=
  fun _ hb => rd_fcnt_ne d (ne_of_mem_of_not_mem h hb).symm f n

theorem regsBut_fsets {a : Nat} {l : List Nat} (h : a ∈ l) (d : Dev) (fs : List (Fld × Nat)) : RegsBut d (fsets d a fs) l :=
  fun _ hb => rd_fsets_ne d (ne_of_mem_of_not_mem h hb).symm fs

/-! ## One block and registers alone differ -/

theorem OnlyBlock.refl (d : Dev) (die b : Nat) (l : List Nat) : OnlyBlock d d die b l :=
  ⟨rfl, RegsBut.refl d l, fun _ _ => rfl⟩

theorem OnlyBlock.trans {d e f : Dev} {die b : Nat} {l : List Nat} (h : OnlyBlock d e die b l) (h' : OnlyBlock e f die b l) :
    OnlyBlock d f die b l := by
  obtain ⟨heq, hregs, hblocks⟩ := h
  obtain ⟨heq', hregs', hblocks'⟩ := h'
  refine ⟨?_, hregs.trans hregs', fun g hg => (hblocks' g hg).trans (hblocks g hg)⟩
  rw [heq', heq]

theorem onlyBlock_setBlk (d : Dev) (die b : Nat) (x : Block) (l : List Nat) : OnlyBlock d (setBlk d die b x) die b l :=
  ⟨rfl, fun _ _ => rfl, fun _ hg => mgetD_mset_ne _ hg _ _⟩

/-- Where registers alone differ, the blocks are the same. -/
theorem onlyBlock_of_regs {d e : Dev} {l : List Nat} (heq : { e with regs := d.regs } = d) (hregs : RegsBut d e l)
    (die b : Nat) : OnlyBlock d e die b l := by
  have hblocks : e.blocks = d.blocks := (congrArg Dev.blocks heq :)
  refine ⟨?_, hregs, fun g _ => by rw [hblocks]⟩
  conv_rhs => rw [← heq]

theorem onlyBlock_fset {a : Nat} {l : List Nat} (h : a ∈ l) (d : Dev) (die b : Nat) (f : Fld) (v : Nat) :
    OnlyBlock d (fset d a f v) die b l :=
  onlyBlock_of_regs (fset_frame d a f v) (regsBut_fset h d f v) die b

theorem onlyBlock_fcnt {a : Nat} {l : List Nat} (h : a ∈ l) (d : Dev) (die b : Nat) (f : Fld) (n : Nat) :
    OnlyBlock d (fcnt d a f n) die b l :=
  onlyBlock_of_regs (fcnt_frame d a f n) (regsBut_fcnt h d f n) die b

theorem onlyBlock_fsets {a : Nat} {l : List Nat} (h : a ∈ l) (d : Dev) (die b : Nat) (fs : List (Fld × Nat)) :
    OnlyBlock d (fsets d a fs) die b l :=
  onlyBlock_of_regs (fsets_frame d a fs) (regsBut_fsets h d fs) die b

theorem OnlyBlock.epoch {d e : Dev} {die b : Nat} {l : List Nat} (h : OnlyBlock d e die b l) : e.epoch = d.epoch := by
  rw [h.1]

theorem OnlyBlock.rd {d e : Dev} {die b : Nat} {l : List Nat} (h : OnlyBlock d e die b l) {a : Nat} (ha : a ∉ l) :
    rd e a = rd d a := h.2.1 a ha

/-- Fewer registers differ where some of those listed read as before. -/
theorem OnlyBlock.mono {d e : Dev} {die b : Nat} {l l' : List Nat} (h : OnlyBlock d e die b l) (hl : l ⊆ l') :
    OnlyBlock d e die b l' :=
  ⟨h.1, fun a ha => h.2.1 a fun hm => ha (hl hm), h.2.2⟩

end Sys2Proof

namespace Sys2Proof.Machine

@[simp] theorem rd_bumpEpoch (d : Dev) (a : Nat) : rd (bumpEpoch d) a = rd d a := rfl
@[simp] theorem blk_bumpEpoch (d : Dev) (die b : Nat) : blk (bumpEpoch d) die b = blk d die b := rfl
@[simp] theorem blk_fcnt (d : Dev) (a : Nat) (f : Fld) (n die b : Nat) : blk (fcnt d a f n) die b = blk d die b := by
  rw [blk, fcnt_blocks, blk]
@[simp] theorem blk_fsets (d : Dev) (a : Nat) (l : List (Fld × Nat)) (die b : Nat) :
    blk (fsets d a l) die b = blk d die b := by
  rw [blk, fsets_blocks, blk]

theorem flag_fset_self (d : Dev) (a : Nat) (f : Fld) (v : Bool) (h : f.lo + f.width ≤ 32) (hw : f.width = 1) :
    flag (fset d a f (b2n v)) a f = v := by
  rw [flag, fget_fset_self d a f _ h, hw]
  cases v <;> rfl

/-! ## Passing over a list -/

section
variable {σ α : Type} {f : σ → α → σ} {l : List α}

/-- What every step keeps, all of them keep. -/
theorem foldl_keeps {I : σ → Prop} (hstep : ∀ s, ∀ x ∈ l, I s → I (f s x)) {s : σ} (hs : I s) : I (l.foldl f s) := by
  induction l generalizing s with
  | nil => exact hs
  | cons x l ih => exact ih (fun s y hy => hstep s y (List.mem_cons_of_mem _ hy)) (hstep s x (List.mem_cons_self ..) hs)

/-- What one step brings about and every step keeps, holds in the end. -/
theorem foldl_establishes {I P : σ → Prop} {x : α} (hx : x ∈ l) (hI : ∀ s, ∀ y ∈ l, I s → I (f s y))
    (hP : ∀ s, ∀ y ∈ l, I s → P s → P (f s y)) (hmakes : ∀ s, I s → P (f s x)) {s : σ} (hs : I s) : P (l.foldl f s) := by
  induction l generalizing s with
  | nil => cases hx
  | cons y l ih =>
    have hI' : ∀ s, ∀ z ∈ l, I s → I (f s z) := fun s z hz => hI s z (List.mem_cons_of_mem _ hz)
    have hP' : ∀ s, ∀ z ∈ l, I s → P s → P (f s z) := fun s z hz => hP s z (List.mem_cons_of_mem _ hz)
    have hy : I (f s y) := hI s y (List.mem_cons_self ..) hs
    rcases List.mem_cons.1 hx with rfl | hx
    · exact (foldl_keeps (l := l) (I := fun s => I s ∧ P s) (fun s z hz h => ⟨hI' s z hz h.1, hP' s z hz h.1 h.2⟩)
        ⟨hy, hmakes s hs⟩).2
    · exact ih hx hI' hP' hy

/-- Where one element alone acts, passing over the list is that element's act. -/
theorem foldl_of_one {x : α} (hx : x ∈ l) (hl : l.Nodup) {s : σ} (hbefore : ∀ y ∈ l, y ≠ x → f s y = s)
    (hafter : ∀ y ∈ l, y ≠ x → f (f s x) y = f s x) : l.foldl f s = f s x := by
  induction l with
  | nil => cases hx
  | cons y l ih =>
    obtain ⟨hy, hl⟩ := List.nodup_cons.1 hl
    rcases List.mem_cons.1 hx with rfl | hx
    · exact foldl_keeps (l := l) (I := fun t => t = f s x) (fun t z hz ht => by
        rw [ht]
        exact hafter z (List.mem_cons_of_mem _ hz) (ne_of_mem_of_not_mem hz hy)) rfl
    · rw [List.foldl_cons, hbefore y (List.mem_cons_self ..) (ne_of_mem_of_not_mem hx hy).symm]
      exact ih hx hl (fun z hz => hbefore z (List.mem_cons_of_mem _ hz)) fun z hz => hafter z (List.mem_cons_of_mem _ hz)

end

/-! ## The registers of a block -/

/-- Two registers of a unit have two addresses. -/
theorem ctl_ne_of_place {p q : Nat} (h : p ≠ q) (die inst : Nat) : ctl p die inst ≠ ctl q die inst := by
  simpa [ctl] using h

/-- Two places in one unit's numbering have two addresses, whatever the units. -/
theorem ctl_ne_of_places {p q : Nat} (hp : p / 2 ^ 12 % 2 ^ 8 = 0 ∧ p < 2 ^ 26) (hq : q / 2 ^ 12 % 2 ^ 8 = 0 ∧ q < 2 ^ 26)
    (h : p ≠ q) (die die' : Nat) {inst inst' : Nat} (hi : inst < 2 ^ 8) (hi' : inst' < 2 ^ 8) :
    ctl p die inst ≠ ctl q die' inst' := fun heq => h <| by
  rw [← ctlPlace_ctl die hp.1 hp.2 hi, heq, ctlPlace_ctl die' hq.1 hq.2 hi']

/-- Registers of a block whose writes have rules of their own. -/
def ruledBlockPlaces : List Nat := [R.SEQ_PS_DATA, R.CIS_PWR_CTRL, R.WEL_PWR_CTRL, R.WEL_ZERO_CTRL, R.WEL_MARK_CTRL]

theorem ruledBlockPlaces_spec : ∀ p ∈ ruledBlockPlaces, (p / 2 ^ 12 % 2 ^ 8 = 0 ∧ p < 2 ^ 26) ∧ isSelector p = false
    ∧ p / 2 ^ 20 ∈ [0x01, 0x02, 0x03] ∧ ∃ r ∈ regTable, r.place = p ∧ r.stride = 0 ∧ r.dies = .compute ∧ r.insts = .block := by
  decide +kernel

section
variable {place : Nat} (h : place ∈ ruledBlockPlaces) (die : DieId) (b : BlockId)
include h

theorem ctlPlace_block : ctlPlace (ctl place die b) = place :=
  have hp := (ruledBlockPlaces_spec place h).1
  ctlPlace_ctl die hp.1 hp.2 (by omega)

theorem ctlDie_block : ctlDie (ctl place die b) = die := by
  have hp := (ruledBlockPlaces_spec place h).1
  simp only [ctlDie, ctl, bits, Nat.shiftRight_eq_div_pow, pow2]
  omega

theorem ctlInst_block : ctlInst (ctl place die b) = b := by
  have hp := (ruledBlockPlaces_spec place h).1
  simp only [ctlInst, ctl, bits, Nat.shiftRight_eq_div_pow, pow2]
  omega

/-- The register is there on every block of every compute die. -/
theorem regAt_block : ∃ r, regAt (ctl place die b) = some r := by
  obtain ⟨-, -, -, r, hr, hplace, hstride, hdies, hinsts⟩ := ruledBlockPlaces_spec place h
  have hhas : r.has (ctl place die b) = true := by
    simp [RegRow.has, ctlPlace_block h, ctlDie_block h, ctlInst_block h, hplace, hstride, hdies, hinsts, DieSet.has,
      InstSet.has]
  exact Option.isSome_iff_exists.1 (List.find?_isSome.2 ⟨r, hr, hhas⟩)

/-- A write of a register of a block acts by the rules of its class. -/
theorem writeReg_block (d : Dev) (p : Path) (v : Nat) : writeReg d p (ctl place die b) v =
    if place / 2 ^ 20 = 0x01 then writeSeqReg d die b place (ctl place die b) v
    else if place / 2 ^ 20 = 0x02 then writeCisReg d die b place (ctl place die b) v []
    else writeWelReg d p die b place (ctl place die b) v := by
  obtain ⟨r, hr⟩ := regAt_block h die b
  obtain ⟨-, hsel, hcls, -⟩ := ruledBlockPlaces_spec place h
  have hplace := ctlPlace_block h die b
  simp only [List.mem_cons, List.not_mem_nil, or_false] at hcls
  rcases hcls with hc | hc | hc <;>
    simp only [writeReg, hr, (ctlClass_of_place hplace).trans hc, hplace, ctlDie_block h, ctlInst_block h, hsel, hc,
      Option.isNone_some, Bool.false_eq_true, if_false, if_true, OfNat.ofNat_ne_zero, OfNat.one_ne_ofNat, OfNat.ofNat_ne_one,
      one_ne_zero, Nat.reduceEqDiff]

end

section
variable (d : Dev) (p : Path) (die : DieId) (b : BlockId) (v : Nat)

theorem writeReg_cisternPower : writeReg d p (ctl R.CIS_PWR_CTRL die b) v = writePower d die b cisBanks v := by
  rw [writeReg_block (by decide), if_neg (by decide), if_pos (by decide), writeCisReg, if_pos rfl]

theorem writeReg_wellPower : writeReg d p (ctl R.WEL_PWR_CTRL die b) v = writePower d die b welBanks v := by
  rw [writeReg_block (by decide), if_neg (by decide), if_neg (by decide), writeWelReg, if_pos rfl]

theorem writeReg_markCtrl : writeReg d p (ctl R.WEL_MARK_CTRL die b) v = markWrite d p die b v := by
  rw [writeReg_block (by decide), if_neg (by decide), if_neg (by decide), writeWelReg, if_neg (by decide), if_neg (by decide),
    if_neg (fun h => absurd h.1 (by decide)), if_pos rfl]

theorem writeReg_psData : writeReg d p (ctl R.SEQ_PS_DATA die b) v = psWrite d die b v := by
  rw [writeReg_block (by decide), if_pos (by decide), writeSeqReg, if_pos rfl]

/-- GO and CLASS of a ranged zero-fill are written while none runs. -/
theorem writeReg_zeroCtrl (h : flag d (ctl R.WEL_ZERO_CTRL die b) F.WEL_ZERO_CTRL_BUSY = false) :
    writeReg d p (ctl R.WEL_ZERO_CTRL die b) v =
      let e := fset d (ctl R.WEL_ZERO_CTRL die b) F.WEL_ZERO_CTRL_CLASS (bits v 1 1)
      if bit v 0 then zeroRangeGo e die b else e := by
  rw [writeReg_block (by decide), if_neg (by decide), if_neg (by decide), writeWelReg, if_neg (by decide), if_pos rfl, h]
  rfl

end

end Sys2Proof.Machine
end

section
/-! Bank power and fill marks as firmware writes them (R120, R124, R292), and the statement of spec/06_cisterns_and_wells.md
about them. -/

namespace Sys2Proof.Machine

/-! ## Single bits -/

theorem bit_eq_testBit (x i : Nat) : bit x i = x.testBit i := by
  rw [Nat.testBit_eq_decide_div_mod_eq, bit, Nat.shiftRight_eq_div_pow]
  exact beq_eq_decide _ _

/-- A bit after a bit was stored. -/
theorem bit_setBits (x i v j : Nat) : bit (setBits x i 1 v) j = if j = i then bit v 0 else bit x j := by
  simp only [bit_eq_testBit, testBit_setBits]
  by_cases h : j = i
  · subst h
    simp
  · rw [if_neg (by omega), if_neg h]

theorem bit_rd_fset (d : Dev) (a : Nat) {i : Nat} (hi : i < 32) (v j : Nat) :
    bit (rd (fset d a ⟨i, 1⟩ v) a).toNat j = if j = i then bit v 0 else bit (rd d a).toNat j := by
  rw [rd_fset_self d a ⟨i, 1⟩ v (by show i + 1 ≤ 32; omega), bit_setBits]

/-! ## Lost contents -/

/-- Bytes whose contents are lost read as indeterminate. -/
theorem memByte_memForget_in (epoch unit : Nat) (m : Mem) {a n k : Nat} (h1 : a ≤ k) (h2 : k < a + n) :
    memByte epoch unit (memForget m a n) k = Config.indetByte epoch unit k := by
  have hcells : mget (m.cells.filter fun c => decide (c.1 < a) || decide (a + n ≤ c.1)) k = none :=
    mget_filter_of_neg m.cells (fun i => decide (i < a) || decide (a + n ≤ i)) (by simp; omega)
  have hzero : ivHas (ivSub a (a + n) m.zeroed) k = false := by
    rw [Bool.eq_false_iff]
    intro h
    obtain ⟨q, hq, hlo, hhi⟩ := (ivHas_iff _ _).1 h
    rw [ivSub, if_neg (by omega)] at hq
    obtain ⟨p, -, hq⟩ := List.mem_flatMap.1 hq
    have := (List.mem_filter.1 hq).1
    simp only [List.mem_cons, List.not_mem_nil, or_false] at this
    rcases this with rfl | rfl <;> simp only at hlo hhi <;> omega
  simp only [memByte, memKnown, memForget, hcells, hzero]
  rfl

theorem mget_mdelRange_in {α : Type} (m : SMap α) {lo n k : Nat} (h1 : lo ≤ k) (h2 : k < lo + n) :
    mget (mdelRange m lo n) k = none :=
  mget_filter_of_neg m (fun i => decide (i < lo) || decide (lo + n ≤ i)) (by simp; omega)

/-- A bank's contents and marks are lost, and beside its block, registers and the lines noted as tagged (R292) nothing changes but
the count of open values. -/
def BankLost (d e : Dev) (die b : Nat) (k : BankId) (srv : Serving) : Prop :=
  blk e die b = loseBank (blk d die b) k
    ∧ (∀ n row, k = .wide n → row / 512 = n.val → mget (blk e die b).wideMarks row = none)
    ∧ (∀ n row, k = .narrow n → row / 4096 = n.val → mget (blk e die b).narrowMarks row = none)
    ∧ (∀ n a, k = .sub n → a / 4194304 = n.val → memByte e.epoch 0 (blk e die b).cistern a = Config.indetByte e.epoch 0 a)
    ∧ e = { d with regs := e.regs, blocks := e.blocks, srv := srv, epoch := d.epoch + 1 }

theorem bankLost_of_loseBank {d e : Dev} {die b : Nat} {k : BankId} (hblk : blk e die b = loseBank (blk d die b) k)
    (heq : e = { d with regs := e.regs, blocks := e.blocks, srv := e.srv, epoch := d.epoch + 1 }) :
    BankLost d e die b k e.srv := by
  refine ⟨hblk, ?_, ?_, ?_, heq⟩
  · rintro n row rfl hrow
    rw [hblk]
    exact mget_mdelRange_in _ (by omega) (by omega)
  · rintro n row rfl hrow
    rw [hblk]
    exact mget_mdelRange_in _ (by omega) (by omega)
  · rintro n a rfl ha
    rw [hblk]
    exact memByte_memForget_in _ _ _ (by omega) (by omega)

/-! ## The banks of a power register -/

/-- The banks whose power is in one register with a bank's. -/
def BankId.fellows : BankId → List BankId
  | .sub _ => cisBanks
  | _ => welBanks

theorem BankId.mem_fellows (k : BankId) : k ∈ k.fellows := by
  cases k <;> simp [BankId.fellows, cisBanks, welBanks]

theorem BankId.nodup_fellows (k : BankId) : k.fellows.Nodup := by
  have hcis : cisBanks.Nodup := by decide
  have hwel : welBanks.Nodup := by decide
  cases k
  · exact hcis
  · exact hwel
  · exact hwel

/-- The bit of a bank in its registers. -/
abbrev bankBit (die b : Nat) (k : BankId) : Nat := (bankRegs die b k).2.2

theorem bankBit_lt (die b : Nat) (k : BankId) : bankBit die b k < 32 := by
  cases k <;> simp only [bankBit, bankRegs] <;> omega

/-- Banks of one register have a bit each. -/
theorem bankRegs_of_mem_fellows {j k : BankId} (h : j ∈ k.fellows) (die b : Nat) :
    (bankRegs die b j).1 = (bankRegs die b k).1 ∧ (j ≠ k → bankBit die b j ≠ bankBit die b k) := by
  cases k <;> cases j <;> simp [BankId.fellows, cisBanks, welBanks, bankRegs, bankBit, Fin.ext_iff] at h ⊢ <;> omega

theorem bankRegs_ctrl_ne_rdy (die b : Nat) (k : BankId) : (bankRegs die b k).2.1 ≠ (bankRegs die b k).1 := by
  cases k <;> exact ctl_ne_of_place (by decide) die b

/-- A write of a power register as one bank sees it. -/
def powerStep (die b v : Nat) (d : Dev) (k : BankId) : Dev :=
  match bit (rd d (bankRegs die b k).1).toNat (bankBit die b k), bit v (bankBit die b k) with
  | true, false => bankPowerDown d die b k
  | false, true => bankWake d die b k
  | _, _ => d

theorem writePower_eq (d : Dev) (die b : Nat) (banks : List BankId) (v : Nat) :
    writePower d die b banks v = banks.foldl (powerStep die b v) d := rfl

theorem powerStep_of_same {d : Dev} {die b v : Nat} {k : BankId}
    (h : bit v (bankBit die b k) = bit (rd d (bankRegs die b k).1).toNat (bankBit die b k)) : powerStep die b v d k = d := by
  unfold powerStep
  rw [h]
  cases bit (rd d (bankRegs die b k).1).toNat (bankBit die b k) <;> rfl

/-- Where a write changes the bit of one bank alone, that bank alone acts. -/
theorem writePower_of_one {d e : Dev} {die b v : Nat} {k : BankId} (hstep : powerStep die b v d k = e)
    (hv : ∀ j ≠ bankBit die b k, bit v j = bit (rd d (bankRegs die b k).1).toNat j)
    (he : ∀ j ≠ bankBit die b k, bit (rd e (bankRegs die b k).1).toNat j = bit (rd d (bankRegs die b k).1).toNat j) :
    writePower d die b k.fellows v = e := by
  subst hstep
  refine foldl_of_one k.mem_fellows k.nodup_fellows (fun j hj hne => ?_) fun j hj hne => ?_
  all_goals
    obtain ⟨hreg, hbit⟩ := bankRegs_of_mem_fellows hj die b
    refine powerStep_of_same ?_
    rw [hreg, hv _ (hbit hne)]
  exact (he _ (hbit hne)).symm

/-- A control write of a bank's ON bit goes through the banks of its register. -/
theorem bankSwitch_of_mayWrite {d : Dev} {p : Path} {die : DieId} {b : BlockId} {k : BankId}
    (h : MayWrite d p (bankRegs die b k).1) (on : Nat) :
    bankSwitch d p die b k on
      = writePower d die b k.fellows (setBits (rd d (bankRegs die b k).1).toNat (bankBit die b k) 1 on) := by
  rw [bankSwitch, ctlPut_of_mayWrite h]
  cases k with
  | sub n => exact writeReg_cisternPower d p die b _
  | wide n => exact writeReg_wellPower d p die b _
  | narrow n => exact writeReg_wellPower d p die b _

theorem bit_setBits_other (x v : Nat) {i j : Nat} (h : j ≠ i) : bit (setBits x i 1 v) j = bit x j := by
  rw [bit_setBits, if_neg h]

/-! ## Power-down, wake and ready -/

/-- The registers of a device with a bank's ON and READY clear. -/
def bankOff (d : Dev) (die b : Nat) (k : BankId) : Dev :=
  fset (fset d (bankRegs die b k).1 ⟨bankBit die b k, 1⟩ 0) (bankRegs die b k).2.1 ⟨bankBit die b k, 1⟩ 0

/-- A device with a bank powered down, before its contents are lost: no line of a sub-bank stays noted as tagged (R292). -/
def bankDown (d : Dev) (die b : Nat) (k : BankId) : Dev :=
  match k with
  | .sub n => dropTags (bankOff d die b k) (gblock die b) (n * 4096) 4096
  | _ => bankOff d die b k

theorem blk_bankDown (d : Dev) (die b : Nat) (k : BankId) : blk (bankDown d die b k) die b = blk d die b := by
  cases k <;> rfl

theorem regs_bankDown (d : Dev) (die b : Nat) (k : BankId) : (bankDown d die b k).regs = (bankOff d die b k).regs := by
  unfold bankDown
  generalize bankOff d die b k = e
  cases k <;> rfl

theorem bankOff_frame (d : Dev) (die b : Nat) (k : BankId) : { bankOff d die b k with regs := d.regs } = d := by
  have h : ∀ (a a' : Nat) (f : Fld), { fset (fset d a f 0) a' f 0 with regs := d.regs } = d := fun _ _ _ => rfl
  exact h _ _ _

theorem dropTags_frame {d e : Dev} (h : { e with regs := d.regs } = d) (g lo n : Nat) :
    { dropTags e g lo n with regs := d.regs, srv := e.srv } = d := h

theorem bankDown_frame (d : Dev) (die b : Nat) (k : BankId) :
    { bankDown d die b k with regs := d.regs, srv := d.srv } = d := by
  have hoff := bankOff_frame d die b k
  have hsrv : (bankOff d die b k).srv = d.srv := (congrArg Dev.srv hoff :)
  unfold bankDown
  generalize bankOff d die b k = e at hoff hsrv ⊢
  rw [← hsrv]
  cases k with
  | sub n => exact dropTags_frame hoff _ _ _
  | wide n => exact hoff
  | narrow n => exact hoff

section
variable {d : Dev} {die b : Nat} {k : BankId} (hon : bit (rd d (bankRegs die b k).1).toNat (bankBit die b k) = true)
include hon

theorem bankPowerDown_of_on : bankPowerDown d die b k
    = bumpEpoch (setBlk (bankDown d die b k) die b (loseBank (blk d die b) k)) := by
  rw [bankPowerDown, if_neg (by simp [hon]), ← blk_bankDown d die b k]
  cases k <;> rfl

theorem rd_bankPowerDown (a : Nat) : rd (bankPowerDown d die b k) a = rd (bankOff d die b k) a := by
  rw [bankPowerDown_of_on hon, rd_bumpEpoch, rd_setBlk, rd, regs_bankDown, rd]

theorem bankLost_bankPowerDown : BankLost d (bankPowerDown d die b k) die b k (bankDown d die b k).srv := by
  rw [bankPowerDown_of_on hon]
  refine bankLost_of_loseBank (e := bumpEpoch _) (blk_setBlk_self _ _ _ _) ?_
  have hframe := bankDown_frame d die b k
  generalize bankDown d die b k = e at hframe ⊢
  rw [← hframe]
  rfl

theorem bits_bankPowerDown (j : Nat) : bit (rd (bankPowerDown d die b k) (bankRegs die b k).1).toNat j
    = if j = bankBit die b k then false else bit (rd d (bankRegs die b k).1).toNat j := by
  rw [rd_bankPowerDown hon, bankOff, rd_fset_ne _ (bankRegs_ctrl_ne_rdy die b k).symm, bit_rd_fset d _ (bankBit_lt die b k)]
  rfl

end

theorem exec_bankPowerDown_of_on {s : State} {p : Path} {die : DieId} {b : BlockId} {k : BankId} (hp : powered s.dev = true)
    (hw : MayWrite s.dev p (bankRegs die b k).1) (hon : bit (rd s.dev (bankRegs die b k).1).toNat (bankBit die b k) = true) :
    exec (.bankPowerDown p die b k) s = .next (after s (bankPowerDown s.dev die b k)) := by
  have hwrite : bankSwitch s.dev p die b k 0 = bankPowerDown s.dev die b k := by
    rw [bankSwitch_of_mayWrite hw]
    refine writePower_of_one ?_ (fun j hj => bit_setBits_other _ _ hj) fun j hj => ?_
    · simp only [powerStep, hon, bit_setBits, if_true]
      rfl
    · rw [bits_bankPowerDown hon, if_neg hj]
  rw [exec_bankPowerDown, execBankPowerDown, act_powered rfl hp, hwrite]

theorem exec_bankWake_of_off {s : State} {p : Path} {die : DieId} {b : BlockId} {k : BankId} (hp : powered s.dev = true)
    (hw : MayWrite s.dev p (bankRegs die b k).1) (hoff : bit (rd s.dev (bankRegs die b k).1).toNat (bankBit die b k) = false) :
    exec (.bankWake p die b k) s = .next (after s (bankWake s.dev die b k)) := by
  have hwrite : bankSwitch s.dev p die b k 1 = bankWake s.dev die b k := by
    rw [bankSwitch_of_mayWrite hw]
    refine writePower_of_one ?_ (fun j hj => bit_setBits_other _ _ hj) fun j hj => ?_
    · simp only [powerStep, hoff, bit_setBits, if_true]
      rfl
    · rw [bankWake, bit_rd_fset s.dev _ (bankBit_lt die b k), if_neg hj]
  rw [exec_bankWake, execBankWake, act_powered rfl hp, hwrite]

section
variable {d : Dev} {die b : Nat} {k : BankId} (hon : bit (rd d (bankRegs die b k).1).toNat (bankBit die b k) = true)
  (hready : bit (rd d (bankRegs die b k).2.1).toNat (bankBit die b k) = false)
include hon hready

theorem bankReady_of_on : bankReady d die b k
    = bumpEpoch (setBlk (fset d (bankRegs die b k).2.1 ⟨bankBit die b k, 1⟩ 1) die b (loseBank (blk d die b) k)) := by
  simp only [bankReady, hon, hready]
  rfl

theorem bankLost_bankReady : BankLost d (bankReady d die b k) die b k d.srv := by
  rw [bankReady_of_on hon hready]
  exact bankLost_of_loseBank (e := bumpEpoch _) (blk_setBlk_self _ _ _ _) rfl

end

/-! ## Fill marks written by firmware (R120) -/

/-- The marks of a class of rows of a block. -/
def marksOf (x : Block) (narrow : Bool) : SMap Nat := if narrow then x.narrowMarks else x.wideMarks

/-- A row's mark is set to a generation, or cleared, and no other mark of its class changes. -/
theorem marksOf_setMark (x : Block) (narrow : Bool) (row gen : Nat) :
    marksOf (setMark x narrow row gen) narrow = mset (marksOf x narrow) row (gen % 8) := by
  cases narrow <;> rfl

theorem marksOf_clearMark (x : Block) (narrow : Bool) (row : Nat) :
    marksOf (clearMark x narrow row) narrow = mdel (marksOf x narrow) row := by
  cases narrow <;> rfl

/-- The block after firmware has written a mark. -/
def markedBlock (x : Block) (narrow filled : Bool) (row gen : Nat) : Block :=
  if filled then setMark x narrow row gen else clearMark x narrow row

theorem markedBlock_well (x : Block) (narrow filled : Bool) (row gen : Nat) :
    (markedBlock x narrow filled row gen).well = x.well := by
  cases narrow <;> cases filled <;> rfl

theorem mget_markedBlock (x : Block) (narrow filled : Bool) (row : Nat) {gen : Nat} (hgen : gen < 8) :
    mget (marksOf (markedBlock x narrow filled row gen) narrow) row = if filled then some gen else none := by
  cases filled
  · exact (congrArg (mget · row) (marksOf_clearMark x narrow row)).trans (mget_mdel_self _ _)
  · refine (congrArg (mget · row) (marksOf_setMark x narrow row gen)).trans ?_
    rw [mget_mset_self, Nat.mod_eq_of_lt hgen]
    rfl

theorem mget_markedBlock_ne (x : Block) (narrow filled : Bool) {row k : Nat} (h : k ≠ row) (gen : Nat) :
    mget (marksOf (markedBlock x narrow filled row gen) narrow) k = mget (marksOf x narrow) k := by
  cases filled
  · exact (congrArg (mget · k) (marksOf_clearMark x narrow row)).trans (mget_mdel_ne _ h)
  · exact (congrArg (mget · k) (marksOf_setMark x narrow row gen)).trans (mget_mset_ne _ h _)

/-- The fields of a word written to WEL_MARK_CTRL. -/
theorem markCtrl_fields {row gen : Nat} (hrow : row < 32768) (hgen : gen < 8) (narrow filled : Bool) :
    let v := row + b2n narrow * 32768 + gen * 65536 + b2n filled * 524288
    bits v 0 15 = row ∧ bit v 15 = narrow ∧ bits v 16 3 = gen ∧ bit v 19 = filled := by
  cases narrow <;> cases filled <;>
    (simp only [bits, bit, b2n, Nat.shiftRight_eq_div_pow, pow2, beq_iff_eq, beq_eq_false_iff_ne, if_true, if_false,
      Bool.false_eq_true]
     omega)

theorem exec_markWrite_of_ready {s : State} {p : Path} {die : DieId} {b : BlockId} {row : BitVec 15} {narrow : Bool}
    (hp : powered s.dev = true) (hw : MayWrite s.dev p (ctl R.WEL_MARK_CTRL die b))
    (hrow : row.toNat < if narrow then 32768 else 6144) (hready : wellReady s.dev die b narrow row.toNat = true)
    (gen : BitVec 3) (filled : Bool) :
    exec (.markWrite p die b row narrow gen filled) s = .next (after s (setBlk s.dev die b
      (markedBlock (blk s.dev die b) narrow filled row.toNat gen.toNat))) := by
  obtain ⟨hr, hn, hg, hf⟩ := markCtrl_fields row.isLt gen.isLt narrow filled
  have hput : markPut s.dev p die b row.toNat narrow gen.toNat filled
      = markWrite s.dev p die b (row.toNat + b2n narrow * 32768 + gen.toNat * 65536 + b2n filled * 524288) := by
    rw [markPut, ctlPut_of_mayWrite hw, writeReg_markCtrl]
  have hacts : markWrite s.dev p die b (row.toNat + b2n narrow * 32768 + gen.toNat * 65536 + b2n filled * 524288)
      = setBlk s.dev die b (markedBlock (blk s.dev die b) narrow filled row.toNat gen.toNat) := by
    simp only [markWrite, hr, hn, hg, hf, hready, markedBlock, if_neg (Nat.not_le.2 hrow), Bool.not_true,
      Bool.false_eq_true, if_false]
  rw [exec_markWrite, execMarkWrite, act_powered rfl hp, hput, hacts]

end Sys2Proof.Machine

namespace Sys2Proof.Proofs

open Sys2Proof.Machine

/-- Settles O20: a write of a power register changes one bank's bit, so that bank alone acts; what it loses is lost by
`loseBank`, and a mark is written to its row alone. -/
theorem banksAndMarksComplete : Obligations.BanksAndMarksComplete := by
  intro s p die b hp
  refine ⟨fun k => ⟨fun hw hon => ?_, fun hw hoff => exec_bankWake_of_off hp hw hoff, fun hon hready => ?_⟩,
    fun row narrow filled gen hw hrow hready => ?_⟩
  · refine ⟨_, exec_bankPowerDown_of_on hp hw hon, ?_, ?_, ?_, fun a ha => ?_⟩
    · exact (bits_bankPowerDown hon _).trans (if_pos rfl)
    · rw [rd_bankPowerDown hon, bankOff, bit_rd_fset _ _ (bankBit_lt die b k), if_pos rfl]
      rfl
    · cases k <;> exact bankLost_bankPowerDown hon
    · simp only [List.mem_cons, List.not_mem_nil, or_false, not_or] at ha
      rw [rd_bankPowerDown hon, bankOff, rd_fset_ne _ ha.2, rd_fset_ne _ ha.1]
  · refine ⟨bankReady s.dev die b k, ?_, ?_, bankLost_bankReady hon hready, fun a ha => ?_⟩
    · rw [exec_bankReady, execBankReady, act_powered rfl hp]
    · rw [bankReady_of_on hon hready, rd_bumpEpoch, rd_setBlk, bit_rd_fset _ _ (bankBit_lt die b k), if_pos rfl]
      rfl
    · rw [bankReady_of_on hon hready, rd_bumpEpoch, rd_setBlk, rd_fset_ne _ (by simpa using ha)]
  · refine ⟨_, exec_markWrite_of_ready hp hw hrow hready gen filled, ?_, fun k hk => ?_, ?_, onlyBlock_setBlk _ _ _ _ _⟩
    · show mget (marksOf (blk (setBlk s.dev die b _) die b) narrow) _ = _
      rw [blk_setBlk_self]
      exact mget_markedBlock _ _ _ _ gen.isLt
    · show mget (marksOf (blk (setBlk s.dev die b _) die b) narrow) _ = _
      rw [blk_setBlk_self]
      exact mget_markedBlock_ne _ _ _ hk _
    · rw [blk_setBlk_self]
      exact markedBlock_well _ _ _ _ _

end Sys2Proof.Proofs
end

section
/-! Ranged zero-fill (R117, R128) and writes of the program store (R161, R162), and the statement of
spec/06_cisterns_and_wells.md about them. -/

namespace Sys2Proof.Machine

/-! ## GO of a ranged zero-fill -/

/-- The rows of a class of a well. -/
abbrev classRows (narrow : Bool) : Nat := if narrow then 32768 else 6144

theorem zeroRangeGo_of_idle {d : Dev} {die b : Nat} (h : flag d (ctl R.WEL_ZERO_CTRL die b) F.WEL_ZERO_CTRL_BUSY = false) :
    let narrow := flag d (ctl R.WEL_ZERO_CTRL die b) F.WEL_ZERO_CTRL_CLASS
    let first := fget d (ctl R.WEL_ZERO_RANGE die b) F.WEL_ZERO_RANGE_FIRST
    let count := fget d (ctl R.WEL_ZERO_RANGE die b) F.WEL_ZERO_RANGE_COUNT
    zeroRangeGo d die b
      = setBlk (fsets d (ctl R.WEL_ZERO_CTRL die b) [(F.WEL_ZERO_CTRL_GO, 1), (F.WEL_ZERO_CTRL_BUSY, 1)]) die b
        { blk d die b with zeroLeft := some (narrow, first, min (classRows narrow) (first + count) - first) } := by
  simp only [zeroRangeGo, h, Bool.false_eq_true, if_false, blk_fsets]

/-- The registers once GO has been written with a class. -/
def zeroStarted (d : Dev) (die b : Nat) (narrow : Bool) : Dev :=
  fsets d (ctl R.WEL_ZERO_CTRL die b)
    [(F.WEL_ZERO_CTRL_CLASS, b2n narrow), (F.WEL_ZERO_CTRL_GO, 1), (F.WEL_ZERO_CTRL_BUSY, 1)]

theorem flags_zeroStarted (d : Dev) (die b : Nat) (narrow : Bool) :
    flag (zeroStarted d die b narrow) (ctl R.WEL_ZERO_CTRL die b) F.WEL_ZERO_CTRL_GO = true
      ∧ flag (zeroStarted d die b narrow) (ctl R.WEL_ZERO_CTRL die b) F.WEL_ZERO_CTRL_BUSY = true
      ∧ flag (zeroStarted d die b narrow) (ctl R.WEL_ZERO_CTRL die b) F.WEL_ZERO_CTRL_CLASS = narrow := by
  refine ⟨?_, flag_fset_self _ _ _ true (by decide) rfl, ?_⟩
  · rw [flag, zeroStarted, fsets_cons, fsets_cons, fsets_cons, fsets_nil, fget_fset_other _ _ _ _ _ (by decide) (by decide)]
    exact flag_fset_self _ _ _ true (by decide) rfl
  · simp only [flag, zeroStarted, fsets_cons, fsets_nil]
    rw [fget_fset_other _ _ _ _ _ (by decide) (by decide),
      fget_fset_other _ _ _ _ _ (by decide) (by decide)]
    exact flag_fset_self _ _ _ narrow (by decide) rfl

theorem exec_zeroRangeGo_of_idle {s : State} {p : Path} {die : DieId} {b : BlockId} (hp : powered s.dev = true)
    (hw : MayWrite s.dev p (ctl R.WEL_ZERO_CTRL die b))
    (hidle : flag s.dev (ctl R.WEL_ZERO_CTRL die b) F.WEL_ZERO_CTRL_BUSY = false) (narrow : Bool) :
    let first := fget s.dev (ctl R.WEL_ZERO_RANGE die b) F.WEL_ZERO_RANGE_FIRST
    let last := min (classRows narrow) (first + fget s.dev (ctl R.WEL_ZERO_RANGE die b) F.WEL_ZERO_RANGE_COUNT)
    exec (.zeroRangeGo p die b narrow) s = .next (after s (setBlk (zeroStarted s.dev die b narrow) die b
      { blk s.dev die b with zeroLeft := some (narrow, first, last - first) })) := by
  have hv : bits (1 + 2 * b2n narrow) 1 1 = b2n narrow ∧ bit (1 + 2 * b2n narrow) 0 = true := by cases narrow <;> decide
  have hput : ctlPut s.dev p (ctl R.WEL_ZERO_CTRL die b) (1 + 2 * b2n narrow)
      = zeroRangeGo (fset s.dev (ctl R.WEL_ZERO_CTRL die b) F.WEL_ZERO_CTRL_CLASS (b2n narrow)) die b := by
    rw [ctlPut_of_mayWrite hw, writeReg_zeroCtrl _ _ _ _ _ hidle, hv.1, hv.2]
    rfl
  have hbusy : flag (fset s.dev (ctl R.WEL_ZERO_CTRL die b) F.WEL_ZERO_CTRL_CLASS (b2n narrow)) (ctl R.WEL_ZERO_CTRL die b)
      F.WEL_ZERO_CTRL_BUSY = false := by
    rw [flag, fget_fset_other _ _ _ _ _ (by decide) (by decide)]
    exact hidle
  have hrange := ctl_ne_of_place (p := R.WEL_ZERO_RANGE) (q := R.WEL_ZERO_CTRL) (by decide) die b
  rw [exec_zeroRangeGo, execZeroRangeGo, act_powered rfl hp, hput, zeroRangeGo_of_idle hbusy,
    flag_fset_self _ _ _ narrow (by decide) rfl, fget_fset_ne _ hrange, fget_fset_ne _ hrange]
  rfl

/-! ## The rows of a zero-fill, bank by bank -/

theorem rowAddr_add (narrow : Bool) (row n : Nat) : rowAddr narrow (row + n) = rowAddr narrow row + n * rowBytes narrow := by
  cases narrow <;> simp only [rowAddr, rowBytes, if_true, if_false, Bool.false_eq_true] <;> omega

theorem rowAddr_le (narrow : Bool) {row row' : Nat} (h : row ≤ row') : rowAddr narrow row ≤ rowAddr narrow row' := by
  rw [← Nat.add_sub_cancel' h, rowAddr_add]
  exact Nat.le_add_right _ _

/-- Rows of a block from `lo` on are zero, and their marks clear. -/
def zeroedBlock (x : Block) (narrow : Bool) (lo n : Nat) : Block :=
  let y := clearMarks x narrow lo n
  { y with well := memZero y.well (rowAddr narrow lo) (n * rowBytes narrow) }

theorem zeroedBlock_well (x : Block) (narrow : Bool) (lo n : Nat) :
    (zeroedBlock x narrow lo n).well = memZero x.well (rowAddr narrow lo) (n * rowBytes narrow) := by
  cases narrow <;> rfl

theorem zeroedBlock_zeroLeft (x : Block) (narrow : Bool) (lo n : Nat) :
    (zeroedBlock x narrow lo n).zeroLeft = x.zeroLeft := by
  cases narrow <;> rfl

theorem marksOf_zeroedBlock (x : Block) (narrow : Bool) (lo n : Nat) :
    marksOf (zeroedBlock x narrow lo n) narrow = mdelRange (marksOf x narrow) lo n := by
  cases narrow <;> rfl

/-- The rows of a bank. -/
abbrev bankRows (narrow : Bool) : Nat := if narrow then 4096 else 512

/-- The rows of a range that lie in one bank are zero-filled, where the bank is ready. -/
def zeroBank (die b : Nat) (narrow : Bool) (first count : Nat) (d : Dev) (k : Nat) : Dev :=
  let lo := max first (k * bankRows narrow)
  let hi := min (first + count) ((k + 1) * bankRows narrow)
  if hi ≤ lo || !wellReady d die b narrow lo then d
  else setBlk d die b (zeroedBlock (blk d die b) narrow lo (hi - lo))

theorem zeroRows_eq (d : Dev) (die b : Nat) (narrow : Bool) (first count : Nat) : zeroRows d die b narrow first count
    = (List.range (if narrow then 8 else 12)).foldl (zeroBank die b narrow first count) d := rfl

section
variable (d : Dev) (die b : Nat) (narrow : Bool) (first count : Nat)

/-- Beside the rows of the range a block is as in `d`, and all else is. -/
def RestAsBefore (e : Dev) : Prop :=
  OnlyBlock d e die b [] ∧ (blk e die b).well.wf = true ∧ (blk e die b).zeroLeft = (blk d die b).zeroLeft
    ∧ ∀ epoch a, a < rowAddr narrow first ∨ rowAddr narrow (first + count) ≤ a →
      memByte epoch 0 (blk e die b).well a = memByte epoch 0 (blk d die b).well a

/-- A row is zero and its mark is clear. -/
def RowZero (row i : Nat) (e : Dev) : Prop :=
  (∀ epoch, memByte epoch 0 (blk e die b).well (rowAddr narrow row + i) = 0)
    ∧ mget (marksOf (blk e die b) narrow) row = none

variable {d die b narrow first count}

/-- A bank's turn leaves the device as it is, or zero-fills rows of the range. -/
theorem zeroBank_cases (e : Dev) (k : Nat) : zeroBank die b narrow first count e k = e
    ∨ ∃ lo n, first ≤ lo ∧ lo + n ≤ first + count
      ∧ zeroBank die b narrow first count e k = setBlk e die b (zeroedBlock (blk e die b) narrow lo n) := by
  unfold zeroBank
  dsimp only
  split
  next => exact .inl rfl
  next h =>
    simp only [Bool.or_eq_true, decide_eq_true_eq, not_or, Nat.not_le] at h
    exact .inr ⟨_, _, le_max_left _ _, by have := h.1; omega, rfl⟩

theorem restAsBefore_zeroBank {e : Dev} (h : RestAsBefore d die b narrow first count e) (k : Nat) :
    RestAsBefore d die b narrow first count (zeroBank die b narrow first count e k) := by
  rcases zeroBank_cases (first := first) (count := count) e k with heq | ⟨lo, n, hlo, hhi, heq⟩
  · rwa [heq]
  · obtain ⟨honly, hwf, hleft, hout⟩ := h
    rw [heq]
    refine ⟨honly.trans (onlyBlock_setBlk _ _ _ _ _), ?_, ?_, fun epoch a ha => ?_⟩ <;> rw [blk_setBlk_self]
    · rw [zeroedBlock_well]
      exact Mem.wf_memZero hwf _ _
    · rw [zeroedBlock_zeroLeft, hleft]
    · have h1 := rowAddr_le narrow hlo
      have h2 := rowAddr_le narrow hhi
      rw [rowAddr_add] at h2
      rw [zeroedBlock_well, memByte_memZero_out _ _ hwf (by omega), hout epoch a ha]

/-- Rows that were zero stay so. -/
theorem rowZero_zeroBank {e : Dev} (hrest : RestAsBefore d die b narrow first count e) {row i : Nat}
    (h : RowZero die b narrow row i e) (k : Nat) : RowZero die b narrow row i (zeroBank die b narrow first count e k) := by
  rcases zeroBank_cases (first := first) (count := count) e k with heq | ⟨lo, n, -, -, heq⟩
  · rwa [heq]
  · obtain ⟨hbyte, hmark⟩ := h
    rw [heq]
    refine ⟨fun epoch => ?_, ?_⟩ <;> rw [blk_setBlk_self]
    · rw [zeroedBlock_well]
      by_cases hin : rowAddr narrow lo ≤ rowAddr narrow row + i
          ∧ rowAddr narrow row + i < rowAddr narrow lo + n * rowBytes narrow
      · exact memByte_memZero_in _ _ _ hin.1 hin.2
      · rw [memByte_memZero_out _ _ hrest.2.1 (by omega), hbyte]
    · rw [marksOf_zeroedBlock]
      by_cases hin : lo ≤ row ∧ row < lo + n
      · exact mget_mdelRange_in _ hin.1 hin.2
      · rw [mdelRange, mget_filter_of_pos _ (fun i => decide (i < lo) || decide (lo + n ≤ i)) (by simp; omega), hmark]

/-- The turn of a ready bank zero-fills its rows of the range. -/
theorem rowZero_zeroBank_own {e : Dev} (hrest : RestAsBefore d die b narrow first count e) {row i : Nat} (h1 : first ≤ row)
    (h2 : row < first + count) (hi : i < rowBytes narrow) (hready : wellReady d die b narrow row = true) :
    RowZero die b narrow row i (zeroBank die b narrow first count e (row / bankRows narrow)) := by
  have hbank : bankOf narrow (max first (row / bankRows narrow * bankRows narrow)) = bankOf narrow row := by
    cases narrow <;> simp only [bankOf, bankRows, if_true, if_false, Bool.false_eq_true] <;> omega
  have hhi : row < (row / bankRows narrow + 1) * bankRows narrow := by
    cases narrow <;> simp only [bankRows, if_true, if_false, Bool.false_eq_true] <;> omega
  have hlo : row / bankRows narrow * bankRows narrow ≤ row := Nat.div_mul_le_self _ _
  have hready' : wellReady e die b narrow (max first (row / bankRows narrow * bankRows narrow)) = true := by
    rw [wellReady, hbank, hrest.1.rd (List.not_mem_nil)]
    exact hready
  unfold zeroBank
  dsimp only
  rw [hready']
  generalize row / bankRows narrow * bankRows narrow = start at hlo ⊢
  generalize (row / bankRows narrow + 1) * bankRows narrow = stop at hhi ⊢
  have hsome : ¬ min (first + count) stop ≤ max first start := by omega
  rw [if_neg (by simpa only [Bool.not_true, Bool.or_false, decide_eq_true_eq] using hsome)]
  refine ⟨fun epoch => ?_, ?_⟩ <;> rw [blk_setBlk_self]
  · have hstart := rowAddr_le narrow (show max first start ≤ row by omega)
    have hstop := rowAddr_le narrow (show row + 1 ≤ max first start + (min (first + count) stop - max first start) by omega)
    rw [rowAddr_add, rowAddr_add] at hstop
    rw [zeroedBlock_well]
    exact memByte_memZero_in _ _ _ (by omega) (by omega)
  · rw [marksOf_zeroedBlock]
    exact mget_mdelRange_in _ (by omega) (by omega)

theorem restAsBefore_zeroRows (hwf : (blk d die b).well.wf = true) :
    RestAsBefore d die b narrow first count (zeroRows d die b narrow first count) := by
  rw [zeroRows_eq]
  exact foldl_keeps (I := RestAsBefore d die b narrow first count) (fun e k _ he => restAsBefore_zeroBank he k)
    ⟨OnlyBlock.refl d die b [], hwf, rfl, fun _ _ _ => rfl⟩

theorem rowZero_zeroRows (hwf : (blk d die b).well.wf = true) {row i : Nat} (h1 : first ≤ row) (h2 : row < first + count)
    (hlast : row < classRows narrow) (hi : i < rowBytes narrow) (hready : wellReady d die b narrow row = true) :
    RowZero die b narrow row i (zeroRows d die b narrow first count) := by
  have hmem : row / bankRows narrow ∈ List.range (if narrow then 8 else 12) := by
    rw [List.mem_range]
    cases narrow <;> simp only [classRows, bankRows, if_true, if_false, Bool.false_eq_true] at hlast ⊢ <;> omega
  rw [zeroRows_eq]
  exact foldl_establishes (I := RestAsBefore d die b narrow first count) hmem (fun e k _ he => restAsBefore_zeroBank he k)
    (fun e k _ he hz => rowZero_zeroBank he hz k) (fun e he => rowZero_zeroBank_own he h1 h2 hi hready)
    ⟨OnlyBlock.refl d die b [], hwf, rfl, fun _ _ _ => rfl⟩

end

/-! ## The end of a ranged zero-fill -/

/-- Both counts of lost arbitrations go up and stay at their greatest value (R117). -/
theorem fget_countLost (d : Dev) (die b : Nat) (env : WellEnv) :
    let a := ctl R.WEL_ARB_CNT die b
    fget (countLost d die b env) a F.WEL_ARB_CNT_WIDE_LOST
        = min (fget d a F.WEL_ARB_CNT_WIDE_LOST + env.lostWide) (pow2 F.WEL_ARB_CNT_WIDE_LOST.width - 1)
      ∧ fget (countLost d die b env) a F.WEL_ARB_CNT_NARROW_LOST
        = min (fget d a F.WEL_ARB_CNT_NARROW_LOST + env.lostNarrow) (pow2 F.WEL_ARB_CNT_NARROW_LOST.width - 1) := by
  refine ⟨?_, ?_⟩
  · rw [countLost, fget_fcnt_other _ _ _ _ _ (by decide) (by decide), fget_fcnt_self _ _ _ _ (by decide)]
  · rw [countLost, fget_fcnt_self _ _ _ _ (by decide), fget_fcnt_other _ _ _ _ _ (by decide) (by decide)]

theorem onlyBlock_countLost (d : Dev) (die b : Nat) (env : WellEnv) :
    OnlyBlock d (countLost d die b env) die b [ctl R.WEL_ZERO_CTRL die b, ctl R.WEL_ARB_CNT die b] :=
  (onlyBlock_fcnt (by simp) _ _ _ _ _).trans (onlyBlock_fcnt (by simp) _ _ _ _ _)

/-- The device as the rows of a zero-fill that ends are written: the lost arbitrations are counted, and none is left. -/
def zeroEnding (d : Dev) (die b : Nat) (env : WellEnv) : Dev :=
  setBlk (countLost d die b env) die b { blk d die b with zeroLeft := none }

theorem onlyBlock_zeroEnding (d : Dev) (die b : Nat) (env : WellEnv) :
    OnlyBlock d (zeroEnding d die b env) die b [ctl R.WEL_ZERO_CTRL die b, ctl R.WEL_ARB_CNT die b] :=
  (onlyBlock_countLost d die b env).trans (onlyBlock_setBlk _ _ _ _ _)

theorem zeroRangeDone_of_left {d : Dev} {die b : Nat} {narrow : Bool} {first count : Nat}
    (h : (blk d die b).zeroLeft = some (narrow, first, count)) (env : WellEnv) : zeroRangeDone d die b env
      = fsets (zeroRows (zeroEnding d die b env) die b narrow first count) (ctl R.WEL_ZERO_CTRL die b)
        [(F.WEL_ZERO_CTRL_GO, 0), (F.WEL_ZERO_CTRL_BUSY, 0)] := by
  simp only [zeroRangeDone, h]
  rfl

theorem flags_zeroEnded (d : Dev) (a : Nat) :
    let e := fsets d a [(F.WEL_ZERO_CTRL_GO, 0), (F.WEL_ZERO_CTRL_BUSY, 0)]
    flag e a F.WEL_ZERO_CTRL_BUSY = false ∧ flag e a F.WEL_ZERO_CTRL_GO = false := by
  refine ⟨flag_fset_self _ _ _ false (by decide) rfl, ?_⟩
  rw [flag, fsets_cons, fsets_cons, fsets_nil, fget_fset_other _ _ _ _ _ (by decide) (by decide)]
  exact flag_fset_self _ _ _ false (by decide) rfl

/-! ## Words of the program store (R161) -/

theorem psWrite_of_boundary {d : Dev} (h : d.step.running = false) (die b v : Nat) : psWrite d die b v
    = setBlk (fset d (ctl R.SEQ_PS_ADDR die b) F.SEQ_PS_ADDR_WORD
        (fget d (ctl R.SEQ_PS_ADDR die b) F.SEQ_PS_ADDR_WORD + 1)) die b
      { blk d die b with
        ps := memWrite (blk d die b).ps (fget d (ctl R.SEQ_PS_ADDR die b) F.SEQ_PS_ADDR_WORD * 4) (leBytes 4 v) } := by
  simp only [psWrite, fset_step, h, Bool.false_and, Bool.false_eq_true, if_false, blk_fset]

/-! ## Loading a whole program (R162) -/

/-- The placement groups of all dies clear. -/
def placementCleared (d : Dev) : Dev :=
  (computeDies.flatMap placementGroup).foldl (fun d a => if (shadowOf d a) = 0 then d else writeShadow d a 0) d

/-- A unit's image is stored, and its slot and home registers are in the placement group's shadows. -/
def unitPlaced (d : Dev) (p : Placed) : Dev :=
  let x := blk d p.die p.host
  let d := setBlk d p.die p.host { x with ps := memWrite x.ps p.base.ps p.image }
  (slotRegs p.die p.host p.slot p.unit p.base ++ homeRegs p.die p.hdr p.host p.base.wide).foldl
    (fun d r => writeShadow d r.1 (BitVec.ofNat 32 r.2)) d

/-- The placement group of a die is armed. -/
def placementArmed (d : Dev) (die : Nat) : Dev :=
  fsets d (ctl R.DIE_PLACE_APPLY die 0) [(F.DIE_PLACE_APPLY_APPLY, 1), (F.DIE_PLACE_APPLY_PEND, 1)]

/-- The units of a program are placed, and the placement group is armed on every die. -/
def unitsPlaced (d : Dev) (l : List Placed) : Dev :=
  computeDies.foldl placementArmed (l.foldl unitPlaced (placementCleared d))

/-- A program is loaded: the next step is its step, and it is barred no more. -/
def programLoaded (d : Dev) (prog : List Byte) : Dev :=
  let id := (parseStepHdr prog).programId
  let loaded := (d.step.loaded.filter fun x => x.1 != id) ++ [(id, sha512 prog)]
  { d with
    step := { d.step with nextHdr := some (parseStepHdr prog), loaded, barred := d.step.barred.filter fun x => x != id } }

/-- A load ends with the device as it was, or with the units of the program placed. -/
theorem loadProgram_cases (d : Dev) (prog : List Byte) :
    (∃ r, r ≠ .loaded ∧ loadProgram d prog = (d, r))
      ∨ ∃ l, loadProgram d prog = (programLoaded (unitsPlaced d l) prog, .loaded) := by
  unfold loadProgram
  dsimp only
  split
  · exact .inl ⟨.format, by decide, rfl⟩
  · split
    · exact .inl ⟨.edition, by decide, rfl⟩
    · split
      · exact .inl ⟨.format, by decide, rfl⟩
      · split
        · exact .inl ⟨.format, by decide, rfl⟩
        · split
          · exact .inl ⟨.fit, by decide, rfl⟩
          next l _ => exact .inr ⟨l, rfl⟩

theorem loadProgram_of_short {prog : List Byte} (h : prog.length < 64) (d : Dev) : loadProgram d prog = (d, .format) := by
  simp [loadProgram, h]

theorem placementCleared_out (d : Dev) : (placementCleared d).out = d.out := by
  unfold placementCleared
  refine foldl_keeps (I := fun e : Dev => e.out = d.out) (fun e a _ he => ?_) rfl
  split
  · exact he
  · exact he

theorem unitPlaced_out (d : Dev) (p : Placed) : (unitPlaced d p).out = d.out := by
  unfold unitPlaced
  dsimp only
  refine foldl_keeps (I := fun e : Dev => e.out = d.out) (fun e _ _ he => ?_) rfl
  exact he

theorem unitsPlaced_out (d : Dev) (l : List Placed) : (unitsPlaced d l).out = d.out := by
  refine foldl_keeps (I := fun e : Dev => e.out = d.out) (fun e die _ he => (fsets_out _ _ _).trans he) ?_
  exact foldl_keeps (I := fun e : Dev => e.out = d.out) (fun e p _ he => (unitPlaced_out e p).trans he) (placementCleared_out d)

theorem flag_placementArmed_self (d : Dev) (die : Nat) :
    flag (placementArmed d die) (ctl R.DIE_PLACE_APPLY die 0) F.DIE_PLACE_APPLY_APPLY = true := by
  rw [flag, placementArmed, fsets_cons, fsets_cons, fsets_nil, fget_fset_other _ _ _ _ _ (by decide) (by decide)]
  exact flag_fset_self _ _ _ true (by decide) rfl

theorem flag_placementArmed {d : Dev} {die : Nat} (die' : Nat)
    (h : flag d (ctl R.DIE_PLACE_APPLY die 0) F.DIE_PLACE_APPLY_APPLY = true) :
    flag (placementArmed d die') (ctl R.DIE_PLACE_APPLY die 0) F.DIE_PLACE_APPLY_APPLY = true := by
  by_cases hd : die = die'
  · subst hd
    exact flag_placementArmed_self d die
  · rw [flag, placementArmed, fget_fsets_ne _ (by simp only [ctl, pow2]; omega)]
    exact h

/-- After a load the group is armed on every die. -/
theorem unitsPlaced_armed (d : Dev) (l : List Placed) (die : DieId) :
    flag (unitsPlaced d l) (ctl R.DIE_PLACE_APPLY die 0) F.DIE_PLACE_APPLY_APPLY = true :=
  foldl_establishes (I := fun _ => True) (P := fun e => flag e (ctl R.DIE_PLACE_APPLY die 0) F.DIE_PLACE_APPLY_APPLY = true)
    (List.mem_range.2 die.isLt) (fun _ _ _ _ => trivial)
    (fun _ die' _ _ he => flag_placementArmed die' he) (fun e _ => flag_placementArmed_self e die) trivial

/-! ## How a load is reported -/

theorem runLoad_eq {d e : Dev} {prog : List Byte} {r : LoadResult} (h : loadProgram d prog = (e, r)) :
    runLoad d prog = emit e .loadResult [r.code] := by
  rw [runLoad, h]

theorem emit_programLoaded (d : Dev) (prog : List Byte) (k : EmitKind) (nums : List Nat) :
    (emit (programLoaded d prog) k nums).out = d.out ++ [{ kind := k, nums, bytes := [] }]
      ∧ (emit (programLoaded d prog) k nums).step.nextHdr = some (parseStepHdr prog)
      ∧ ∀ a f, flag (emit (programLoaded d prog) k nums) a f = flag d a f :=
  ⟨rfl, rfl, fun _ _ => rfl⟩

end Sys2Proof.Machine

namespace Sys2Proof.Proofs

open Sys2Proof.Machine

/-- Settles O21: a zero-fill goes through the banks of its class, each bank's turn zero-filling the rows of the range that lie in
it; a load of a program ends with the device as it was or with the program's units placed. -/
theorem zeroFillAndProgramStoreComplete : Obligations.ZeroFillAndProgramStoreComplete := by
  intro s p die b hp
  refine ⟨fun narrow hw hidle => ?_, fun narrow first count env hleft hwf => ?_, fun v hw hstep => ?_, fun bytes hstep => ?_,
    fun bytes hstep => ?_⟩
  · obtain ⟨hgo, hbusy, hcls⟩ := flags_zeroStarted s.dev die b narrow
    exact ⟨_, exec_zeroRangeGo_of_idle hp hw hidle narrow, blk_setBlk_self _ _ _ _, hgo, hbusy, hcls,
      (onlyBlock_fsets (by simp) _ _ _ _).trans (onlyBlock_setBlk _ _ _ _ _)⟩
  · have hending := onlyBlock_zeroEnding s.dev die b env
    have hblk : blk (zeroEnding s.dev die b env) die b = { blk s.dev die b with zeroLeft := none } := blk_setBlk_self _ _ _ _
    have hwf' : (blk (zeroEnding s.dev die b env) die b).well.wf = true := by rw [hblk]; exact hwf
    obtain ⟨honly, -, hleft', hout⟩ := restAsBefore_zeroRows (narrow := narrow) (first := first) (count := count) hwf'
    have hne := ctl_ne_of_place (p := R.WEL_ARB_CNT) (q := R.WEL_ZERO_CTRL) (by decide) die b
    have hcnt : ∀ f, fget (fsets (zeroRows (zeroEnding s.dev die b env) die b narrow first count)
        (ctl R.WEL_ZERO_CTRL die b) [(F.WEL_ZERO_CTRL_GO, 0), (F.WEL_ZERO_CTRL_BUSY, 0)]) (ctl R.WEL_ARB_CNT die b) f
          = fget (countLost s.dev die b env) (ctl R.WEL_ARB_CNT die b) f := fun f => by
      rw [fget_fsets_ne _ hne, fget, honly.rd List.not_mem_nil]
      rfl
    obtain ⟨hbusy, hgo⟩ := flags_zeroEnded (zeroRows (zeroEnding s.dev die b env) die b narrow first count)
      (ctl R.WEL_ZERO_CTRL die b)
    obtain ⟨hwide, hnarrow⟩ := fget_countLost s.dev die b env
    refine ⟨_, by rw [exec_zeroRangeDone, execZeroRangeDone, act_powered rfl hp, zeroRangeDone_of_left hleft],
      (hcnt _).trans hwide, (hcnt _).trans hnarrow, fun row i h1 h2 h3 hi hready => ?_, fun a ha => ?_, hbusy, hgo, ?_, ?_⟩
    · have hready' : wellReady (zeroEnding s.dev die b env) die b narrow row = true := by
        rw [wellReady, hending.rd]
        · exact hready
        · simp only [List.mem_cons, List.not_mem_nil, or_false, not_or]
          exact ⟨ctl_ne_of_place (by decide) _ _, ctl_ne_of_place (by decide) _ _⟩
      obtain ⟨hbyte, hmark⟩ := rowZero_zeroRows hwf' h1 h2 h3 hi hready'
      rw [blk_fsets]
      exact ⟨hbyte _, hmark⟩
    · rw [blk_fsets, hout _ a ha, hblk, fsets_epoch, honly.epoch, hending.epoch]
    · rw [blk_fsets, hleft', hblk]
    · exact (hending.trans (honly.mono (List.nil_subset _))).trans (onlyBlock_fsets (by simp) _ _ _ _)
  · refine ⟨_, by rw [exec_programStoreWrite, execProgramStoreWrite, act_powered rfl hp, storeWrite, ctlPut_of_mayWrite hw,
      writeReg_psData, psWrite_of_boundary hstep], blk_setBlk_self _ _ _ _,
      by rw [fget_setBlk]; exact fget_fset_self _ _ _ _ (by decide),
      (onlyBlock_fset (by simp) _ _ _ _ _).trans (onlyBlock_setBlk _ _ _ _ _)⟩
  · rw [exec_programStoreWrite, execProgramStoreWrite, act_powered rfl hp, storeWrite, if_pos hstep]
  · refine ⟨runLoad s.dev bytes, ?_, ?_⟩
    · rw [exec_programStoreWrite, execProgramStoreWrite, act_powered rfl hp, storeWrite, if_neg (by simp [hstep])]
    · rcases loadProgram_cases s.dev bytes with ⟨r, hr, heq⟩ | ⟨l, heq⟩ <;> rw [runLoad_eq heq]
      · refine ⟨r, rfl, fun hshort => ⟨?_, rfl⟩, fun hloaded => absurd hloaded hr⟩
        rw [loadProgram_of_short hshort] at heq
        exact (congrArg Prod.snd heq).symm
      · obtain ⟨hout, hnext, hflags⟩ := emit_programLoaded (unitsPlaced s.dev l) bytes .loadResult [LoadResult.loaded.code]
        refine ⟨.loaded, by rw [hout, unitsPlaced_out], fun hshort => ?_, fun _ => ⟨hnext, fun x => ?_⟩⟩
        · rw [loadProgram_of_short hshort] at heq
          cases congrArg Prod.snd heq
        · rw [hflags, unitsPlaced_armed]

end Sys2Proof.Proofs
end

section
/-! Attestation (R354), the standby (R386), the well aperture (R325, R330) and the program store as it is read (R161), and the
statement of spec/06_cisterns_and_wells.md about them. -/

namespace Sys2Proof.Machine

/-! ## Attestation -/

theorem attestRequest_of_down {d : Dev} {g : Nat} (h : aqdEthernetUp d g = false) (conn stream : Nat) (nonce : List Byte) :
    attestRequest d g conn stream nonce = d := by
  rw [attestRequest, h]
  rfl

theorem attestRequest_of_busy {d : Dev} {g : Nat} (h : aqdEthernetUp d g = true)
    (hbusy : 4 ≤ d.boot.signing.length * reportCount d) (conn stream : Nat) (nonce : List Byte) :
    attestRequest d g conn stream nonce = emit d .attestResponse [g, conn, stream, 503] := by
  rw [attestRequest, h, if_neg (by decide), if_pos hbusy]

theorem attestRequest_of_free {d : Dev} {g : Nat} (h : aqdEthernetUp d g = true)
    (hfree : d.boot.signing.length * reportCount d < 4) (conn stream : Nat) (nonce : List Byte) :
    attestRequest d g conn stream nonce
      = { d with boot := { d.boot with signing := d.boot.signing ++ [(g, conn, stream, nonce)] } } := by
  rw [attestRequest, h, if_neg (by decide), if_neg (Nat.not_le.2 hfree)]

theorem attestSigned_of_nil {d : Dev} (h : d.boot.signing = []) : attestSigned d = d := by
  simp only [attestSigned, h]

theorem leBytes_zero (n : Nat) : leBytes n 0 = List.replicate n 0 := by
  induction n with
  | zero => rfl
  | succ n ih => simp [leBytes, ih, List.replicate_succ]

/-- The requests that wait say nothing about the images that run. -/
theorem runningImages_signing (d : Dev) (l : List (Nat × Nat × Nat × List Byte)) :
    runningImages { d with boot := { d.boot with signing := l } } = runningImages d := rfl

theorem attestSigned_of_cons {d : Dev} {g conn stream : Nat} {nonce : List Byte} {rest : List (Nat × Nat × Nat × List Byte)}
    (h : d.boot.signing = (g, conn, stream, nonce) :: rest) :
    let e := { d with boot := { d.boot with signing := rest } }
    let l := runningImages d
    let cert := if fget d cfgStatus F.CFG_STATUS_IDENT = 0 then d.boot.certificate else []
    attestSigned d = emit e .attestResponse [g, conn, stream, 200]
      (leBytes 4 l.length ++ leBytes 4 cert.length ++ List.replicate 8 0 ++ l.flatMap (report e nonce) ++ cert) := by
  simp only [attestSigned, h, runningImages_signing, leBytes_zero]
  rfl

/-! ## The standby -/

section
variable {d : Dev} {x : Nat} (h : d.cont.standby = some x)
include h

theorem heartbeat_eq : heartbeat d = if hallRetired d d.coord = false ∧ d.cont.heartbeats + 62500 ≤ d.tally then
    emit { d with cont := { d.cont with heartbeats := d.tally } } .heartbeat [d.coord, x] else d := by
  rw [heartbeat, h]
  refine if_congr ?_ rfl rfl
  rw [Bool.and_eq_true, decide_eq_true_eq, Bool.not_eq_true', and_comm]
  rfl

theorem takeover_eq : takeover d = if hallRetired d d.coord = true ∨ d.cont.heartbeats + 187500 ≤ d.tally then
    requestAbort (handOver d x) .abortRemote else d := by
  rw [takeover, h]
  refine if_congr ?_ rfl rfl
  rw [Bool.or_eq_true, decide_eq_true_eq]
  rfl

end

/-- A die's copy of HAL_COORD is stored. -/
def coordStored (dest : Nat) (d : Dev) (die : Nat) : Dev := fset d (ctl R.HAL_COORD die 4) F.HAL_COORD_DIE dest

/-- The device of a new coordinator, before its standby is chosen. -/
def coordMoved (d : Dev) (dest : Nat) : Dev := computeDies.foldl (coordStored dest) { d with coord := dest }

/-- A standby is chosen, and its wait for heartbeats begins. -/
def standbyChosen (d : Dev) : Dev := { d with cont := { d.cont with standby := chooseStandby d, heartbeats := d.tally } }

theorem handOver_eq (d : Dev) (dest : Nat) : handOver d dest = standbyChosen (coordMoved d dest) := rfl

theorem rd_standbyChosen (d : Dev) (a : Nat) : rd (standbyChosen d) a = rd d a := rfl
theorem standbyChosen_coord (d : Dev) : (standbyChosen d).coord = d.coord := rfl
theorem standbyChosen_step (d : Dev) : (standbyChosen d).step = d.step := rfl
theorem standbyChosen_heartbeats (d : Dev) : (standbyChosen d).cont.heartbeats = d.tally := rfl
theorem standbyChosen_standby (d : Dev) : (standbyChosen d).cont.standby = chooseStandby d := rfl

theorem coordMoved_kept (d : Dev) (dest : Nat) : (coordMoved d dest).coord = dest ∧ (coordMoved d dest).tally = d.tally
    ∧ (coordMoved d dest).step = d.step := by
  unfold coordMoved
  exact foldl_keeps (f := coordStored dest) (s := { d with coord := dest })
    (I := fun e : Dev => e.coord = dest ∧ e.tally = d.tally ∧ e.step = d.step) (fun _ _ _ he => he) ⟨rfl, rfl, rfl⟩

theorem coord_ne {die die' : Nat} (h : die ≠ die') : ctl R.HAL_COORD die 4 ≠ ctl R.HAL_COORD die' 4 := by
  simp only [ctl, pow2]
  omega

theorem fget_coordMoved (d : Dev) (dest : Nat) (die : DieId) :
    fget (coordMoved d dest) (ctl R.HAL_COORD die 4) F.HAL_COORD_DIE = dest % 64 := by
  refine foldl_establishes (I := fun _ => True)
    (P := fun e => fget e (ctl R.HAL_COORD die 4) F.HAL_COORD_DIE = dest % 64) (List.mem_range.2 die.isLt)
    (fun _ _ _ _ => trivial) (fun e die' _ _ he => ?_) (fun e _ => fget_fset_self _ _ _ _ (by decide)) trivial
  by_cases hd : die = die'
  · subst hd
    exact fget_fset_self _ _ _ _ (by decide)
  · rw [coordStored, fget_fset_ne _ (coord_ne hd), he]

theorem regsBut_coordMoved (d : Dev) (dest : Nat) :
    RegsBut d (coordMoved d dest) ((List.range 48).map fun die => ctl R.HAL_COORD die 4) :=
  foldl_keeps (I := fun e : Dev => RegsBut d e ((List.range 48).map fun die => ctl R.HAL_COORD die 4))
    (fun _ _ hdie he => he.trans (regsBut_fset (List.mem_map_of_mem hdie) _ _ _)) (fun _ _ => rfl)

/-- The standby of a coordinator is another die. -/
theorem chooseStandby_ne {d : Dev} {y : Nat} (h : chooseStandby d = some y) : y ≠ d.coord := by
  have hy := List.find?_some h
  simp only [Bool.and_eq_true, bne_iff_ne] at hy
  exact hy.1

theorem requestAbort_of_running {d : Dev} (hrun : d.step.running = true) (hnone : d.step.abort = .none) (code : FaultCode) :
    (requestAbort d code).step.abort = .requested code := by
  simp only [requestAbort, hnone, hrun, if_true]

/-- An abort that is asked for concerns the step alone. -/
theorem requestAbort_frame (d : Dev) (code : FaultCode) : { requestAbort d code with step := d.step } = d := by
  unfold requestAbort
  split
  · split <;> rfl
  · rfl

theorem requestAbort_coord (d : Dev) (code : FaultCode) : (requestAbort d code).coord = d.coord :=
  (congrArg Dev.coord (requestAbort_frame d code) :)
theorem requestAbort_cont (d : Dev) (code : FaultCode) : (requestAbort d code).cont = d.cont :=
  (congrArg Dev.cont (requestAbort_frame d code) :)
theorem rd_requestAbort (d : Dev) (code : FaultCode) (a : Nat) : rd (requestAbort d code) a = rd d a := by
  rw [rd, (congrArg Dev.regs (requestAbort_frame d code) :), rd]

/-- What a hand-over leaves: the new coordinator, named on every compute die, and another standby. -/
theorem handOver_spec (d : Dev) (dest : Nat) : (handOver d dest).coord = dest
    ∧ (∀ die : DieId, fget (handOver d dest) (ctl R.HAL_COORD die 4) F.HAL_COORD_DIE = dest % 64)
    ∧ (handOver d dest).cont.heartbeats = d.tally ∧ (∀ y, (handOver d dest).cont.standby = some y → y ≠ dest)
    ∧ (handOver d dest).step = d.step
    ∧ RegsBut d (handOver d dest) ((List.range 48).map fun die => ctl R.HAL_COORD die 4) := by
  obtain ⟨hcoord, htally, hstep⟩ := coordMoved_kept d dest
  rw [handOver_eq]
  refine ⟨(standbyChosen_coord _).trans hcoord, fun die => ?_, (standbyChosen_heartbeats _).trans htally,
    fun y hy => ?_, (standbyChosen_step _).trans hstep, fun a ha => ?_⟩
  · rw [fget, rd_standbyChosen]
    exact fget_coordMoved d dest die
  · rw [standbyChosen_standby] at hy
    rw [← hcoord]
    exact chooseStandby_ne hy
  · rw [rd_standbyChosen, regsBut_coordMoved d dest a ha]

/-! ## Accesses that are refused (R330) -/

/-- The registers of a refused access (R330): it is counted, and the first since VALID was cleared is recorded. -/
def refusalRecorded (d : Dev) (p : Path) (write : Bool) (addr : Nat) (r : Reason) : Dev :=
  let st := ctl R.HAL_ACC_STATUS p.die 4
  let d := fcnt d st F.HAL_ACC_STATUS_COUNT 1
  if flag d st F.HAL_ACC_STATUS_VALID then d
  else
    let d := fsets d st [(F.HAL_ACC_STATUS_VALID, 1), (F.HAL_ACC_STATUS_REASON, r.code),
      (F.HAL_ACC_STATUS_PATH, p.code), (F.HAL_ACC_STATUS_WRITE, b2n write)]
    irqAll (wr d (ctl R.HAL_ACC_ADDR p.die 4) (BitVec.ofNat 32 addr)) p.die 6

/-- A refused access leaves all but the records, and what a core is told. -/
theorem refuse_records (d : Dev) (p : Path) (write : Bool) (addr : Nat) (r : Reason) (a : Nat) :
    rd (refuse d p write addr r) a = rd (refusalRecorded d p write addr r) a
      ∧ (refuse d p write addr r).blocks = (refusalRecorded d p write addr r).blocks := by
  unfold refuse
  cases p <;> exact ⟨rfl, rfl⟩

theorem refusalRecorded_blocks (d : Dev) (p : Path) (write : Bool) (addr : Nat) (r : Reason) :
    (refusalRecorded d p write addr r).blocks = d.blocks := by
  simp only [refusalRecorded]
  split
  · exact fcnt_blocks _ _ _ _
  · rw [irqAll_blocks, wr_blocks, fsets_blocks, fcnt_blocks]

/-- Interrupts of the cores are others than the registers of their Town Hall. -/
theorem rd_irqAll_hall (d : Dev) (die src die' place : Nat)
    (h : ∀ c ∈ [0, 1, 2, 3], ctl place die' 4 ≠ ctl R.HAL_IRQ_PEND die c) :
    rd (irqAll d die src) (ctl place die' 4) = rd d (ctl place die' 4) := by
  unfold irqAll
  exact foldl_keeps (I := fun e : Dev => rd e (ctl place die' 4) = rd d (ctl place die' 4))
    (fun e c hc he => (rd_fset_ne e (h c hc) _ _).trans he) rfl

theorem accStatus_ne_irqPend (die : Nat) : ∀ c ∈ [0, 1, 2, 3], ctl R.HAL_ACC_STATUS die 4 ≠ ctl R.HAL_IRQ_PEND die c := by
  intro c hc
  simp only [List.mem_cons, List.not_mem_nil, or_false] at hc
  simp only [ctl, pow2, R.HAL_ACC_STATUS, R.HAL_IRQ_PEND]
  omega

section
variable (d : Dev) (p : Path) (write : Bool) (addr : Nat) (r : Reason)

/-- The status register of refusals after a refusal. -/
theorem fget_refusalRecorded (f : Fld) :
    let st := ctl R.HAL_ACC_STATUS p.die 4
    let e := fcnt d st F.HAL_ACC_STATUS_COUNT 1
    fget (refusalRecorded d p write addr r) st f = if flag d st F.HAL_ACC_STATUS_VALID then fget e st f
      else fget (fsets e st [(F.HAL_ACC_STATUS_VALID, 1), (F.HAL_ACC_STATUS_REASON, r.code),
        (F.HAL_ACC_STATUS_PATH, p.code), (F.HAL_ACC_STATUS_WRITE, b2n write)]) st f := by
  have hvalid : flag (fcnt d (ctl R.HAL_ACC_STATUS p.die 4) F.HAL_ACC_STATUS_COUNT 1) (ctl R.HAL_ACC_STATUS p.die 4)
      F.HAL_ACC_STATUS_VALID = flag d (ctl R.HAL_ACC_STATUS p.die 4) F.HAL_ACC_STATUS_VALID := by
    rw [flag, fget_fcnt_other _ _ _ _ _ (by decide) (by decide), flag]
  dsimp only [refusalRecorded]
  rw [hvalid]
  split
  · rfl
  · rw [fget, rd_irqAll_hall _ _ _ _ _ (accStatus_ne_irqPend _), rd_wr_ne _ (ctl_ne_of_place (by decide) _ _), fget]

theorem counted_refusalRecorded :
    Counted d (refusalRecorded d p write addr r) (ctl R.HAL_ACC_STATUS p.die 4) F.HAL_ACC_STATUS_COUNT := by
  rw [Counted, fget_refusalRecorded]
  split
  · exact fget_fcnt_self _ _ _ _ (by decide)
  · simp only [fsets_cons, fsets_nil]
    rw [fget_fset_other _ _ _ _ _ (by decide) (by decide), fget_fset_other _ _ _ _ _ (by decide) (by decide),
      fget_fset_other _ _ _ _ _ (by decide) (by decide), fget_fset_other _ _ _ _ _ (by decide) (by decide)]
    exact fget_fcnt_self _ _ _ _ (by decide)

theorem reason_lt : r.code < 8 := by
  cases r <;> decide

/-- The first refusal is recorded with its reason. -/
theorem first_refusalRecorded (h : flag d (ctl R.HAL_ACC_STATUS p.die 4) F.HAL_ACC_STATUS_VALID = false) :
    let e := refusalRecorded d p write addr r
    flag e (ctl R.HAL_ACC_STATUS p.die 4) F.HAL_ACC_STATUS_VALID = true
      ∧ fget e (ctl R.HAL_ACC_STATUS p.die 4) F.HAL_ACC_STATUS_REASON = r.code
      ∧ fget e (ctl R.HAL_ACC_STATUS p.die 4) F.HAL_ACC_STATUS_WRITE = b2n write := by
  dsimp only
  rw [flag]
  simp only [fget_refusalRecorded, h, Bool.false_eq_true, if_false, fsets_cons, fsets_nil]
  refine ⟨?_, ?_, ?_⟩
  · rw [fget_fset_other _ _ _ _ _ (by decide) (by decide), fget_fset_other _ _ _ _ _ (by decide) (by decide),
      fget_fset_other _ _ _ _ _ (by decide) (by decide), fget_fset_self _ _ _ _ (by decide)]
    rfl
  · rw [fget_fset_other _ _ _ _ _ (by decide) (by decide), fget_fset_other _ _ _ _ _ (by decide) (by decide),
      fget_fset_self _ _ _ _ (by decide)]
    exact Nat.mod_eq_of_lt (reason_lt r)
  · rw [fget_fset_self _ _ _ _ (by decide)]
    cases write <;> rfl

end

/-! ## Stores through the well aperture -/

/-- What a store is refused with, and at what row of a block it lands. -/
theorem apertureWrite_core (d : Dev) (die : DieId) (c : CoreId) (m : CoreMode) (off : Nat) (bytes : List Byte) (env : WellEnv) :
    let hd := off / 268435456
    let hb := off / 8388608 % 32
    let a := off % 8388608
    let refused (r : Reason) : Dev := refuse d (.core die c m) true (bits (pow2 34 + off) 0 32) r
    apertureWrite d (.core die c m) off bytes env =
      if ¬ (bytes.length ∈ [1, 2, 4, 8] ∧ a % bytes.length = 0) then refused .width
      else if ¬ (hd < 48 ∧ hb < 24) then refused .notDecoded
      else if a < 6291456 then refused .cls
      else if wellReady d hd hb true ((a - 6291456) / 64) = false then refused .target
      else fcnt (setBlk d hd hb { blk d hd hb with well := memWrite (blk d hd hb).well a bytes }) (ctl R.WEL_ARB_CNT hd hb)
        F.WEL_ARB_CNT_NARROW_LOST env.lostNarrow := by
  have hhb : bits off 23 5 = off / 8388608 % 32 := by
    simp only [bits, pow2, Nat.shiftRight_eq_div_pow, Nat.reducePow]
  have ha : bits off 0 23 = off % 8388608 := by
    simp only [bits, pow2, Nat.shiftRight_zero, Nat.reducePow]
  have hhd : off >>> 28 = off / 268435456 := Nat.shiftRight_eq_div_pow _ _
  have hwidth : (!([1, 2, 4, 8].contains bytes.length) || decide (off % 8388608 % bytes.length ≠ 0)) = true
      ↔ ¬ (bytes.length ∈ [1, 2, 4, 8] ∧ off % 8388608 % bytes.length = 0) := by
    rw [Bool.or_eq_true, Bool.not_eq_true', decide_eq_true_eq, not_and_or, ← List.contains_iff_mem, Bool.not_eq_true]
  have hdies : (48 ≤ off / 268435456 ∨ 24 ≤ off / 8388608 % 32)
      ↔ ¬ (off / 268435456 < 48 ∧ off / 8388608 % 32 < 24) := by omega
  dsimp only [apertureWrite]
  rw [hhb, ha, hhd]
  refine if_congr hwidth rfl (if_congr hdies rfl (if_congr Iff.rfl rfl (if_congr ?_ rfl rfl)))
  exact Iff.of_eq (Bool.not_eq_true' _)

/-- A count of spilled selection records is of one register. -/
theorem onlyBlock_countSpill (d : Dev) (die b die' b' addr n : Nat) :
    OnlyBlock d (countSpill d die b addr n) die' b' [srvReg R.SRV_SEL_CNT] := by
  unfold countSpill
  split
  · exact OnlyBlock.refl _ _ _ _
  · dsimp only
    split
    · exact onlyBlock_fcnt (by simp) _ _ _ _ _
    · exact OnlyBlock.refl _ _ _ _

theorem countSpill_blocks (d : Dev) (die b addr n : Nat) : (countSpill d die b addr n).blocks = d.blocks := by
  unfold countSpill
  split
  · rfl
  · dsimp only
    split
    · exact fcnt_blocks _ _ _ _
    · rfl

theorem accStatus_ne_selCnt (die : Nat) : ctl R.HAL_ACC_STATUS die 4 ≠ srvReg R.SRV_SEL_CNT :=
  ctl_ne_of_places (by decide) (by decide) (by decide) _ _ (by decide) (by decide)

/-- What a refused store leaves. -/
theorem wellStore_refused (d : Dev) (die : DieId) (c : CoreId) (m : CoreMode) (addr : Nat) (r : Reason) (sd sb sa n : Nat) :
    let e := countSpill (refuse d (.core die c m) true addr r) sd sb sa n
    let acc := ctl R.HAL_ACC_STATUS die 4
    Counted d e acc F.HAL_ACC_STATUS_COUNT ∧ e.blocks = d.blocks
      ∧ (flag d acc F.HAL_ACC_STATUS_VALID = false → flag e acc F.HAL_ACC_STATUS_VALID = true
        ∧ fget e acc F.HAL_ACC_STATUS_REASON = r.code ∧ fget e acc F.HAL_ACC_STATUS_WRITE = 1) := by
  have hfget : ∀ f, fget (countSpill (refuse d (.core die c m) true addr r) sd sb sa n) (ctl R.HAL_ACC_STATUS die 4) f
      = fget (refusalRecorded d (.core die c m) true addr r) (ctl R.HAL_ACC_STATUS die 4) f := fun f => by
    rw [fget, (onlyBlock_countSpill _ _ _ 0 0 _ _).rd (by simpa using accStatus_ne_selCnt die), (refuse_records _ _ _ _ _ _).1,
      fget]
  refine ⟨(hfget _).trans (counted_refusalRecorded d (.core die c m) true addr r), ?_, fun hfree => ?_⟩
  · rw [countSpill_blocks, (refuse_records _ _ _ _ _ 0).2, refusalRecorded_blocks]
  · rw [flag, hfget, hfget, hfget]
    exact first_refusalRecorded d (.core die c m) true addr r hfree

/-- What a store that lands leaves. -/
theorem wellStore_landed (d : Dev) (die b a : Nat) (bytes : List Byte) (k sd sb sa n : Nat) :
    let x := blk d die b
    let e := countSpill (fcnt (setBlk d die b { x with well := memWrite x.well a bytes }) (ctl R.WEL_ARB_CNT die b)
      F.WEL_ARB_CNT_NARROW_LOST k) sd sb sa n
    wellRead e die b a bytes.length = bytes
      ∧ (∀ n, n < a ∨ a + bytes.length ≤ n → memByte e.epoch (unitWell (gblock die b)) (blk e die b).well n
        = memByte d.epoch (unitWell (gblock die b)) (blk d die b).well n)
      ∧ { blk e die b with well := (blk d die b).well } = blk d die b
      ∧ RegsBut d e [ctl R.WEL_ARB_CNT die b, srvReg R.SRV_SEL_CNT] := by
  intro x e
  have honly : OnlyBlock d e die b [ctl R.WEL_ARB_CNT die b, srvReg R.SRV_SEL_CNT] :=
    ((onlyBlock_setBlk d die b _ _).trans (onlyBlock_fcnt (by simp) _ _ _ _ _)).trans
      ((onlyBlock_countSpill _ _ _ _ _ _ _).mono (by simp))
  have hblk : blk e die b = { x with well := memWrite x.well a bytes } := by
    rw [blk, countSpill_blocks]
    exact (blk_fcnt _ _ _ _ _ _).trans (blk_setBlk_self _ _ _ _)
  refine ⟨?_, fun n hn => ?_, ?_, honly.2.1⟩
  · rw [wellRead, hblk]
    exact memRead_memWrite _ _ _ _ _
  · rw [hblk, honly.epoch]
    exact memByte_memWrite_out _ _ _ _ _ hn
  · rw [hblk]

/-! ## The program store as it is read (R161) -/

theorem ofLeBytes_lt (l : List Byte) : ofLeBytes l < 256 ^ l.length := by
  induction l with
  | nil => exact Nat.one_pos
  | cons x l ih =>
    have hx := x.isLt
    rw [ofLeBytes, List.length_cons, Nat.pow_succ]
    omega

theorem psWord_lt (d : Dev) (die b : Nat) : psWord d die b < 2 ^ 32 := by
  have h := ofLeBytes_lt (memRead d.epoch (unitPs (gblock die b)) (blk d die b).ps
    (fget d (ctl R.SEQ_PS_ADDR die b) F.SEQ_PS_ADDR_WORD * 4) 4)
  have hlen : (memRead d.epoch (unitPs (gblock die b)) (blk d die b).ps
      (fget d (ctl R.SEQ_PS_ADDR die b) F.SEQ_PS_ADDR_WORD * 4) 4).length = 4 := by
    rw [memRead, List.length_map, List.length_range]
  rw [hlen] at h
  exact h

theorem regTable_psData : ∀ r ∈ regTable, r.covers R.SEQ_PS_DATA = true → r.mask = 2 ^ 32 - 1 := by
  decide +kernel

section
variable (d : Dev) (p : Path) (die : DieId) (b : BlockId)

theorem measuredAt_psData : measuredAt (ctl R.SEQ_PS_DATA die b) = [] := by
  rw [measuredAt, ctlPlace_block (by decide)]
  rw [if_neg (by decide), if_neg fun h => absurd h.1 (by decide), if_neg fun h => absurd h.1 (by decide)]
  decide

theorem derived_psData : derived d p (ctl R.SEQ_PS_DATA die b) = [(F.SEQ_PS_DATA_DATA, psWord d die b)] := by
  have hplace := ctlPlace_block (place := R.SEQ_PS_DATA) (by decide) die b
  dsimp only [derived]
  rw [ctlClass_of_place hplace, hplace, ctlDie_block (by decide), ctlInst_block (by decide), if_pos (by decide),
    if_neg (by decide), if_neg (by decide), if_neg (by decide), if_pos rfl]

theorem view_psData : (view d p (ctl R.SEQ_PS_DATA die b)).toNat = psWord d die b := by
  have hplace := ctlPlace_block (place := R.SEQ_PS_DATA) (by decide) die b
  obtain ⟨r, hr⟩ := regAt_block (place := R.SEQ_PS_DATA) (by decide) die b
  have hmask := regTable_psData r (mem_regTable_of_regAt hr) (hplace ▸ covers_of_regAt hr)
  rw [view_plain hr (regKey_of_plain (by rw [ctlClass_of_place hplace]; decide) d p) (by rw [hplace]; decide)
    (by rw [hplace]; decide) (measuredAt_psData die b), hmask, derived_psData]
  exact (toNat_mask_and_setBits (le_refl 32) _ _).trans (Nat.mod_eq_of_lt (psWord_lt d die b))

theorem readEffect_psData : readEffect d p (ctl R.SEQ_PS_DATA die b)
    = fset d (ctl R.SEQ_PS_ADDR die b) F.SEQ_PS_ADDR_WORD (fget d (ctl R.SEQ_PS_ADDR die b) F.SEQ_PS_ADDR_WORD + 1) := by
  obtain ⟨r, hr⟩ := regAt_block (place := R.SEQ_PS_DATA) (by decide) die b
  rw [readEffect_eq hr, if_pos (ctlPlace_block (by decide) die b), ctlDie_block (by decide), ctlInst_block (by decide),
    measureMark, measuredAt_psData]
  rfl

end

end Sys2Proof.Machine

namespace Sys2Proof.Proofs

open Sys2Proof.Machine

section
variable {s : State} (hp : powered s.dev = true)
include hp

theorem exec_attestRequest_powered (g : AqdId) (conn stream : Nat) (nonce : Vector Byte 64) :
    exec (.attestRequest g conn stream nonce) s = .next (after s (attestRequest s.dev g conn stream nonce.toList)) := by
  rw [exec_attestRequest, execAttestRequest, act_powered rfl hp]

theorem exec_attestSigned_powered : exec .attestSigned s = .next (after s (attestSigned s.dev)) := by
  rw [exec_attestSigned, execAttestSigned, act_powered rfl hp]

theorem exec_heartbeat_powered : exec .heartbeat s = .next (after s (heartbeat s.dev)) := by
  rw [exec_heartbeat, execHeartbeat, act_powered rfl hp]

theorem exec_takeover_powered : exec .coordinatorTakeover s = .next (after s (takeover s.dev)) := by
  rw [exec_coordinatorTakeover, execCoordinatorTakeover, act_powered rfl hp]

theorem exec_wellApertureWrite_powered (die : DieId) (core : CoreId) (mode : CoreMode) (off : BitVec 34) (bytes : List Byte)
    (env : WellEnv) : exec (.wellApertureWrite die core mode off bytes env) s
      = .next (after s (wellStore s.dev (.core die core mode) off.toNat bytes env)) := by
  rw [exec_wellApertureWrite, execWellApertureWrite, act_powered rfl hp]

theorem exec_programStoreRead_of_mayRead {p : Path} {die : DieId} {b : BlockId} (h : MayRead s.dev p (ctl R.SEQ_PS_DATA die b)) :
    exec (.programStoreRead p die b) s
      = .next (after s (emit (fset s.dev (ctl R.SEQ_PS_ADDR die b) F.SEQ_PS_ADDR_WORD
          (fget s.dev (ctl R.SEQ_PS_ADDR die b) F.SEQ_PS_ADDR_WORD + 1)) .readData
          [p.bank, ctl R.SEQ_PS_DATA die b, psWord s.dev die b])) := by
  rw [exec_programStoreRead, execProgramStoreRead, act_powered rfl hp, coreRead_of_mayRead h, view_psData, readEffect_psData]

end

/-- Settles O55: each command completes by the branch of its operation that the premises choose. -/
theorem hallsComplete : Obligations.HallsComplete := by
  intro s hp
  refine ⟨fun g conn stream nonce => ?_, fun hnil => ?_, fun g conn stream nonce rest hcons => ?_, fun x hx => ?_,
    fun die core mode off bytes env => ?_, fun p die b hr => ?_⟩
  · have hexec := exec_attestRequest_powered hp g conn stream nonce
    refine ⟨fun hdown => ?_, fun hup hbusy => ⟨_, hexec, ?_⟩, fun hup hfree => ⟨_, hexec, ?_⟩⟩
    · rw [hexec, attestRequest_of_down hdown]
    · rw [attestRequest_of_busy hup hbusy]
      rfl
    · exact attestRequest_of_free hup hfree conn stream nonce.toList
  · rw [exec_attestSigned_powered hp, attestSigned_of_nil hnil]
  · refine ⟨_, exec_attestSigned_powered hp, ?_⟩
    rw [attestSigned_of_cons hcons]
    rfl
  · have hbeat := exec_heartbeat_powered hp
    have htake := exec_takeover_powered hp
    rw [heartbeat_eq hx] at hbeat
    rw [takeover_eq hx] at htake
    refine ⟨fun halive hdue => ?_, fun hno => ?_, fun hdue => ?_, fun halive hearly => ?_⟩
    · rw [if_pos ⟨halive, hdue⟩] at hbeat
      exact ⟨_, hbeat, rfl⟩
    · refine hbeat.trans ?_
      rw [if_neg]
      rintro ⟨halive, hdue⟩
      rcases hno with hdead | hearly
      · exact absurd (halive.symm.trans hdead) (by decide)
      · omega
    · rw [if_pos hdue] at htake
      obtain ⟨hcoord, hcopies, hwait, hstandby, hstep, hregs⟩ := handOver_spec s.dev x
      refine ⟨_, htake, (requestAbort_coord _ _).trans hcoord, fun die => ?_, ?_, fun y hy => ?_, fun hrun hnone => ?_,
        fun a ha => (rd_requestAbort _ _ a).trans (hregs a ha)⟩
      · rw [fget, rd_requestAbort]
        exact hcopies die
      · rw [requestAbort_cont, hwait]
      · rw [requestAbort_cont] at hy
        exact hstandby y hy
      · exact requestAbort_of_running (by rw [hstep, hrun]) (by rw [hstep, hnone]) _
    · refine htake.trans ?_
      rw [if_neg]
      rintro (hdead | hlate)
      · exact absurd (halive.symm.trans hdead) (by decide)
      · omega
  · have hexec := exec_wellApertureWrite_powered hp die core mode off bytes env
    rw [wellStore, apertureWrite_core] at hexec
    dsimp only at hexec
    refine ⟨fun hwide => ?_, fun hwide hreached => ?_, fun hwide hreached hlow => ?_, fun hwide hreached hhigh hdown => ?_,
      fun hwide hreached hhigh hready _ => ?_⟩
    · rw [if_pos hwide] at hexec
      exact ⟨_, hexec, wellStore_refused ..⟩
    · rw [if_neg (not_not.2 hwide), if_pos hreached] at hexec
      exact ⟨_, hexec, wellStore_refused ..⟩
    · rw [if_neg (not_not.2 hwide), if_neg (not_not.2 hreached), if_pos hlow] at hexec
      exact ⟨_, hexec, wellStore_refused ..⟩
    · rw [if_neg (not_not.2 hwide), if_neg (not_not.2 hreached), if_neg (Nat.not_lt.2 hhigh), if_pos hdown] at hexec
      exact ⟨_, hexec, wellStore_refused ..⟩
    · rw [if_neg (not_not.2 hwide), if_neg (not_not.2 hreached), if_neg (Nat.not_lt.2 hhigh), if_neg (by rw [hready]; decide)]
        at hexec
      exact ⟨_, hexec, wellStore_landed ..⟩
  · refine ⟨_, exec_programStoreRead_of_mayRead hp hr, ?_, fget_fset_self _ _ _ _ (by decide), rfl,
      fun a ha => rd_fset_ne _ (by simpa using ha) _ _⟩
    rw [psWord, Nat.mul_comm]
    rfl

end Sys2Proof.Proofs
end

section
/-! Writes that wait and reads of a pump (R133, R137, R154): what a write that waits for an earlier one does to its block, and
the two statements of spec/07_pumps.md. Both fail. The statement about descriptors has a waiting write change nothing, and in a
lockstep step that of a bundle raises the hold (R183, log entry 106). The statement about operations says that a read of the
pump's own well changes no read that is listed, and the model answers it under number 0, whoever has that number. The device
gives it to none: `Dev.nextId` begins at 1. -/

namespace Sys2Proof.Machine

/-! ## A raise marks its sequencer (R183) -/

/-- In a live lockstep step a sequencer that neither raises nor awaits its resumption comes to raise the hold. -/
theorem raising_raiseHold {d : Dev} {die b : Nat} (hlock : d.step.lockstep = true) (hlive : stepLive d = true)
    (hraising : (blk d die b).seq.raising = false) (hresume : (blk d die b).seq.resumeAt = none) (c : Cause)
    (due : Option Nat) : (blk (raiseHold d die b c due) die b).seq.raising = true := by
  have hjoin : ∀ (e : Dev) (n : Nat), blk (joinRaise e n) die b = blk e die b := fun _ _ => rfl
  simp [raiseHold, hlock, hlive, hraising, hresume, hjoin, setSeq]

/-! ## A write that waits for an earlier one (R137) -/

section
variable {i : PumpItem} {k : Nat} {before : Bool} {p : PumpPiece} {q : QueueId} (hpiece : i.pieces[k]? = some p)
  (hwhole : p.whole = true) (hbundle : i.ring = false)
include hpiece hwhole hbundle

/-- A bundle's write that waits raises the hold with cause BANK (log entry 106). -/
theorem pumpLand_of_earlierWrite {d : Dev} {die b : Nat} {pb : Bool}
    (hnext : nextLanding (pumpQueue d die b pb q) true = some (i, k, before)) (hearlier : earlierWrite d die b pb p = true)
    (env : WellEnv) : pumpLand d die b pb q env = raiseHold d die b .bank := by
  simp [pumpLand, hnext, hpiece, hwhole, hearlier, hbundle]

/-- In a live lockstep step PUMP_WRITE_LAND does not leave the state as it is where a bundle's write waits. -/
theorem exec_pumpWriteLand_ne_self {s : State} {die : DieId} {b : BlockId} {pump : PumpId} (hp : powered s.dev = true)
    (hnext : nextLanding (pumpQueue s.dev die b (pump == .b) q) true = some (i, k, before))
    (hearlier : earlierWrite s.dev die b (pump == .b) p = true) (hlock : s.dev.step.lockstep = true)
    (hlive : stepLive s.dev = true) (hraising : (blk s.dev die b).seq.raising = false)
    (hresume : (blk s.dev die b).seq.resumeAt = none) :
    exec (.pumpWriteLand die { block := b } pump q) s ≠ .next s := by
  intro hsame
  rw [exec_pumpWriteLand, execPumpWriteLand, act_powered rfl hp,
    pumpLand_of_earlierWrite hpiece hwhole hbundle hnext hearlier] at hsame
  have hdev : raiseHold s.dev die b .bank = s.dev := congrArg State.dev (Host.Outcome.next.inj hsame)
  have hraised := raising_raiseHold hlock hlive hraising hresume .bank none
  rw [hdev, hraising] at hraised
  exact Bool.noConfusion hraised

end

/-- A transfer row of one byte, from the first row of an own well to the second. -/
def oneByteCopy : PumpDesc :=
  { op := .copy, sfmt := .raw8, dfmt := .raw8, logOff := 0, sbase := none, dbase := none, sgen := 0, scheck := false, dgen := 0,
    dmark := false, vc := 0, src := .ownWell 0, dst := .ownWell 1024, sstride := 0, dstride := 0, len := 1, rows := 1, wgen := 0,
    gate := 0, gateDie := 0, gateFa := 0, gateEn := false, gateRemote := false, idxAddr := 0, idxGen := 0, idxCheck := false,
    tag := 0 }

/-- The write of that byte, by its place in the order of issue. -/
def oneByteWrite (no : Nat) : PumpPiece :=
  { no, rid := 0, row := 0, parts := [(0, some [1])], dst := some (.ownWell 1024), marks := [], sent := false, landed := false }

/-- That descriptor, of a ring or of a bundle, with everything read and its write to land. -/
def oneByteRead (ring : Bool) (no : Nat) : PumpItem :=
  { desc := oneByteCopy, serial := no, index := 0, ring, bundle := 0, slot := 0, genOffset := 0, started := true, row := 1,
    pieces := [oneByteWrite no] }

/-- A lockstep step with two writes of pump A to its block's well, the ring's issued before the bundle's. -/
def twoWritesState : State :=
  { State.reset with
    dev :=
      { blocks := [(0, { pumpA := { direct := [oneByteRead false 2], ring := [oneByteRead true 1] },
                         seq := { phase := .running } })],
        step := { running := true, lockstep := true }, boot := { on := true, inReset := false } } }

theorem twoWritesState_next :
    nextLanding (pumpQueue twoWritesState.dev 0 0 false .direct) true = some (oneByteRead false 2, 0, true) := by
  decide +kernel

theorem twoWritesState_earlier : earlierWrite twoWritesState.dev 0 0 false (oneByteWrite 2) = true := by
  decide +kernel

/-! ## A read of an own well is answered under number 0 -/

theorem exec_copy_powered {s : State} (hp : powered s.dev = true) (die : DieId) (b : BlockId) (pump : PumpId) :
    exec (.copy die b pump {}) s = .next (after s (pumpStart s.dev die b (pump == .b) .copy {})) := by
  rw [exec_copy, execCopy, act_powered rfl hp]

/-- The descriptor of one byte as a ring brings it. -/
def oneByteItem : PumpItem :=
  { desc := oneByteCopy, serial := 1, index := 0, ring := true, bundle := 0, slot := 0, genOffset := 0 }

/-- A read of another block's well that waits for its answer, under number 0. -/
def readZero : WellAsk :=
  { id := 0, serial := 2, die := 0, block := 1, addr := 0, len := 1, vc := 0, gen := 0, byDie := 0, byBlock := 2,
    byPumpB := false }

/-- A device with that read listed, and with the descriptor of one byte at pump A of a block whose first wide rows are zero and
ready. -/
def readZeroState : State :=
  { State.reset with
    dev :=
      { regs := [(ctl R.WEL_PWR_RDY 0 0, 1)],
        blocks := [(0, { well := { zeroed := [(0, 2048)] }, pumpA := { ring := [oneByteItem] } })], asks := [readZero],
        boot := { on := true, inReset := false } } }

theorem readZeroState_locPump : locPump readZeroState.dev 0 0 oneByteItem (.ownWell 0) 0 = .well 0 0 0
    ∧ locPump readZeroState.dev 0 0 oneByteItem (.ownWell 1024) 1024 = .well 0 0 1024 := by
  decide +kernel

/-- The byte that the pump reads in its own well becomes the answer of the other read. -/
theorem readZeroState_answered :
    (pumpStart readZeroState.dev 0 0 false .copy {}).asks = [{ readZero with reply := .data [0] false }] := by
  decide +kernel

end Sys2Proof.Machine

namespace Sys2Proof.Proofs

open Sys2Proof.Machine

/-- Refutes O30: in a lockstep step a bundle's write waits for one that the pump issued before it for its ring, and raises the
hold, where the statement says that the state stays as it is. The clause on writes that wait needs a premise that the step is
not in lockstep, or has to name the raise. -/
theorem not_descriptorsComplete : ¬ Obligations.DescriptorsComplete := by
  intro h
  obtain ⟨-, -, hland, -⟩ := h twoWritesState 0 0 .a rfl
  obtain ⟨-, hwaits, -⟩ := hland .direct _ 0 true (oneByteWrite 2) twoWritesState_next rfl rfl
  exact exec_pumpWriteLand_ne_self (die := 0) (b := 0) (pump := .a) rfl rfl rfl rfl twoWritesState_next
    twoWritesState_earlier rfl rfl rfl rfl (hwaits twoWritesState_earlier)

/-- Refutes O31: a COPY between two rows of an own well answers a listed read of number 0, where the statement says that beside
the block and the count of numbers nothing changes. A premise that no listed read has number 0 is missing. -/
theorem not_pumpOperationsComplete : ¬ Obligations.PumpOperationsComplete := by
  intro h
  obtain ⟨hsrc, hdst⟩ := readZeroState_locPump
  obtain ⟨hcopy, -⟩ := h readZeroState 0 0 .a .ring oneByteItem rfl rfl rfl rfl rfl rfl rfl rfl rfl rfl rfl rfl rfl rfl rfl rfl
    rfl rfl
  obtain ⟨e, he, -, -, honly, -⟩ :=
    hcopy 0 rfl (by decide) 0 ⟨by decide, hsrc⟩ (by decide) ⟨by decide, by decide, 0, 0, 1024, hdst⟩ rfl
  rw [exec_copy_powered rfl] at he
  have hdev : pumpStart readZeroState.dev 0 0 false .copy {} = e := congrArg State.dev (Host.Outcome.next.inj he)
  have hasks : e.asks = [readZero] := (congrArg Dev.asks honly :)
  rw [← hdev, readZeroState_answered] at hasks
  exact absurd hasks (by decide)

end Sys2Proof.Proofs
end

section
/-! The fountains: the numbers kept for places (R156), a returned credit and the offer that it brings (R156), the committed
tables (R155), and the last refusal of a relayed frame (R158, R264); and two statements of spec/08_streets_and_bridges.md. The
one about frames fails: it has a refused target stay marked in its descriptor, and a relay entry none of whose frames is left
begins anew, its descriptor forgotten. -/

namespace Sys2Proof.Machine

/-! ## A fountain as it is stored -/

@[simp] theorem fountain_setFountain_self (d : Dev) (h : Nat) (k : Fountain) : fountain (setFountain d h k) h = k :=
  mgetD_mset_self _ _ _ _

/-- A device with the same fountains has the same fountain. -/
theorem fountain_of_fountains {d e : Dev} (heq : e.fountains = d.fountains) (h : Nat) : fountain e h = fountain d h := by
  rw [fountain, heq, fountain]

@[simp] theorem fountain_fcnt (d : Dev) (a : Nat) (f : Fld) (n h : Nat) : fountain (fcnt d a f n) h = fountain d h :=
  fountain_of_fountains (fcnt_fountains d a f n) h

/-! ## Numbers kept for places -/

theorem placeGet_placeSet_self (l : List (FtnPlace × Nat)) (p : FtnPlace) (n : Nat) : placeGet (placeSet l p n) p = n := by
  simp [placeGet, placeSet]

/-- The number of another place stays. -/
theorem placeGet_placeSet_ne (l : List (FtnPlace × Nat)) {p m : FtnPlace} (hm : m ≠ p) (n : Nat) :
    placeGet (placeSet l p n) m = placeGet l m := by
  have hfind : (l.filter fun e => e.1 != p).find? (fun e => e.1 == m) = l.find? fun e => e.1 == m := by
    rw [List.find?_filter]
    congr 1
    funext e
    by_cases he : e.1 = m <;> simp [he, hm]
  rw [placeGet, placeSet, List.find?_cons_of_neg (by simpa using hm.symm), hfind, placeGet]

/-! ## Credits of remote windows -/

/-- The credits of a head for a window are filed under that head and window. -/
def SendCredit.isFor (head fa win gen : Nat) (c : SendCredit) : Bool :=
  c.head == head && c.fa == fa && c.win == win && c.gen == gen

theorem SendCredit.isFor_iff {head fa win gen : Nat} {c : SendCredit} :
    c.isFor head fa win gen = true ↔ c.head = head ∧ c.fa = fa ∧ c.win = win ∧ c.gen = gen := by
  simp [SendCredit.isFor, and_assoc]

theorem creditAt_eq (d : Dev) (head fa win gen : Nat) :
    creditAt d head fa win gen = (d.credits.find? (SendCredit.isFor head fa win gen)).getD
      { head, fa, win, gen, have_ := 0 } := rfl

theorem isFor_creditAt (d : Dev) (head fa win gen : Nat) : (creditAt d head fa win gen).isFor head fa win gen = true := by
  rw [creditAt_eq]
  cases hfind : d.credits.find? (SendCredit.isFor head fa win gen) with
  | none => simp [SendCredit.isFor]
  | some c => exact List.find?_some hfind

/-- More credits are filed as the ones before. -/
theorem isFor_credited (d : Dev) (head fa win gen n : Nat) : SendCredit.isFor head fa win gen
    { creditAt d head fa win gen with have_ := (creditAt d head fa win gen).have_ + n, asked := none } = true :=
  isFor_creditAt d head fa win gen

theorem credits_setCredit {c : SendCredit} {head fa win gen : Nat} (hc : c.isFor head fa win gen = true) (d : Dev) :
    (setCredit d c).credits = (d.credits.filter fun o => !o.isFor head fa win gen) ++ [c] := by
  obtain ⟨rfl, rfl, rfl, rfl⟩ := SendCredit.isFor_iff.1 hc
  rfl

theorem creditAt_setCredit_self {c : SendCredit} {head fa win gen : Nat} (hc : c.isFor head fa win gen = true) (d : Dev) :
    creditAt (setCredit d c) head fa win gen = c := by
  have hnone : (d.credits.filter fun o => !o.isFor head fa win gen).find? (SendCredit.isFor head fa win gen) = none := by
    rw [List.find?_eq_none]
    intro o ho
    simpa using (List.mem_filter.1 ho).2
  rw [creditAt_eq, credits_setCredit hc, List.find?_append, hnone, List.find?_cons_of_pos hc]
  rfl

/-- Credits are filed under one head and window alone. -/
theorem SendCredit.isFor_of_ne {c : SendCredit} {head fa win gen head' fa' win' gen' : Nat}
    (hc : c.isFor head' fa' win' gen' = true) (hne : (head', fa', win', gen') ≠ (head, fa, win, gen)) :
    c.isFor head fa win gen = false := by
  obtain ⟨rfl, rfl, rfl, rfl⟩ := SendCredit.isFor_iff.1 hc
  rw [Bool.eq_false_iff]
  intro hsame
  obtain ⟨rfl, rfl, rfl, rfl⟩ := SendCredit.isFor_iff.1 hsame
  exact hne rfl

/-- The credits for another window, or of another head, stay. -/
theorem creditAt_setCredit_ne {c : SendCredit} {head fa win gen head' fa' win' gen' : Nat}
    (hc : c.isFor head fa win gen = true) (hne : (head', fa', win', gen') ≠ (head, fa, win, gen)) (d : Dev) :
    creditAt (setCredit d c) head' fa' win' gen' = creditAt d head' fa' win' gen' := by
  have hnot : c.isFor head' fa' win' gen' = false := SendCredit.isFor_of_ne hc hne.symm
  have hfind : (d.credits.filter fun o => !o.isFor head fa win gen).find? (SendCredit.isFor head' fa' win' gen')
      = d.credits.find? (SendCredit.isFor head' fa' win' gen') := by
    rw [List.find?_filter]
    congr 1
    funext o
    cases ho : o.isFor head' fa' win' gen' with
    | false => simp
    | true => simp [SendCredit.isFor_of_ne ho hne]
  rw [creditAt_eq, credits_setCredit hc, List.find?_append, hfind, List.find?_cons_of_neg (by simp [hnot]), List.find?_nil,
    Option.or_none, creditAt_eq]

/-! ## Flits that travel count at squares alone (R144) -/

/-- Two addresses whose offsets differ are two, whatever the units. -/
theorem ctl_ne_of_offset {p q : Nat} (h : p % 2 ^ 12 ≠ q % 2 ^ 12) (die inst die' inst' : Nat) :
    ctl p die inst ≠ ctl q die' inst' := by
  simp only [ctl, pow2]
  omega

/-- A square counts the flits that are detoured at it. -/
def detourCounted (n : Nat) (d : Dev) (x : Nat × Nat) : Dev :=
  let d := fcnt d (ctl R.SQR_RETRY_CNT x.1 x.2) F.SQR_RETRY_CNT_DETOURED n
  if n = 0 then d else fset d (ctl R.SQR_STATUS x.1 x.2) F.SQR_STATUS_DETOUR 1

/-- Flits that travel are counted at some squares, one after another. -/
theorem travel_eq (d : Dev) (a b : Place) (n : Nat) :
    ∃ l : List (Nat × Nat), travel d a b n = l.foldl (detourCounted n) d := by
  unfold travel
  split
  · exact ⟨[], rfl⟩
  split
  · exact ⟨[], rfl⟩
  next w _ => exact ⟨w.detours, rfl⟩

theorem detourCounted_fountains (n : Nat) (d : Dev) (x : Nat × Nat) : (detourCounted n d x).fountains = d.fountains := by
  unfold detourCounted
  dsimp only
  split <;> simp

theorem travel_fountains (d : Dev) (a b : Place) (n : Nat) : (travel d a b n).fountains = d.fountains := by
  obtain ⟨l, hl⟩ := travel_eq d a b n
  rw [hl]
  exact foldl_keeps (I := fun e : Dev => e.fountains = d.fountains)
    (fun e x _ he => (detourCounted_fountains n e x).trans he) rfl

section
variable {place : Nat} (hcnt : place % 2 ^ 12 ≠ R.SQR_RETRY_CNT % 2 ^ 12) (hst : place % 2 ^ 12 ≠ R.SQR_STATUS % 2 ^ 12)
include hcnt hst

/-- A register of another offset than those of the squares reads as before. -/
theorem rd_detourCounted (n : Nat) (d : Dev) (x : Nat × Nat) (die inst : Nat) :
    rd (detourCounted n d x) (ctl place die inst) = rd d (ctl place die inst) := by
  have hcount := rd_fcnt_ne d (ctl_ne_of_offset hcnt die inst x.1 x.2) F.SQR_RETRY_CNT_DETOURED n
  unfold detourCounted
  dsimp only
  split
  · exact hcount
  · exact (rd_fset_ne _ (ctl_ne_of_offset hst die inst x.1 x.2) _ _).trans hcount

theorem rd_travel (d : Dev) (a b : Place) (n die inst : Nat) :
    rd (travel d a b n) (ctl place die inst) = rd d (ctl place die inst) := by
  obtain ⟨l, hl⟩ := travel_eq d a b n
  rw [hl]
  exact foldl_keeps (I := fun e : Dev => rd e (ctl place die inst) = rd d (ctl place die inst))
    (fun e x _ he => (rd_detourCounted hcnt hst n e x die inst).trans he) rfl

end

/-! ## A returned credit (R156) -/

/-- A returned credit is added to those of its place. -/
def creditAdded (d : Dev) (h : Nat) (p : FtnPlace) (n : Nat) : Dev :=
  match p with
  | .window fa win gen =>
    let c := creditAt d h fa win gen
    setCredit d { c with have_ := c.have_ + n, asked := none }
  | .square .. =>
    let k := fountain d h
    setFountain d h { k with credits := placeSet k.credits p (placeGet k.credits p + n) }

/-- A stall waits for credits of a place. -/
def stalledFor (k : Fountain) (p : FtnPlace) (x : Nat × Nat) : Bool :=
  (mget k.descs x.1).any fun y => k.held.any fun f => f.desc == x.1 && fntPlace f y x.2 == some p

/-- The stalls that wait for credits of a place have ended, and a credit of it has been seen now. -/
def stallsEnded (d : Dev) (h : Nat) (p : FtnPlace) : Dev :=
  let k := fountain d h
  setFountain d h { k with stalled := k.stalled.filter fun x => !stalledFor k p x,
                           lastCredit := placeSet k.lastCredit p d.tally }

/-- A credit has returned, and no frame has been offered yet. -/
def creditReturned (d : Dev) (h : Nat) (p : FtnPlace) (n : Nat) : Dev := stallsEnded (creditAdded d h p n) h p

theorem fntCredit_eq (d : Dev) (h : Nat) (p : FtnPlace) (n : Nat) :
    fntCredit d h p n = offerAll (creditReturned d h p n) h true := by
  cases p <;> rfl

section
variable (d : Dev) (h : Nat) (p : FtnPlace) (n : Nat)

theorem offerAll_of_none (again : Bool) (hnone : (fountain d h).held = []) : offerAll d h again = d := by
  rw [offerAll, hnone]
  rfl

/-- Beside the credits of its place a credit that is added leaves the fountain as it was, and the device with it. -/
theorem creditAdded_kept : (creditAdded d h p n).regs = d.regs ∧ (creditAdded d h p n).tally = d.tally
    ∧ fountain (creditAdded d h p n) h = { fountain d h with credits := (fountain (creditAdded d h p n) h).credits } := by
  cases p with
  | window fa win gen => exact ⟨rfl, rfl, rfl⟩
  | square die b vc =>
    refine ⟨rfl, rfl, ?_⟩
    dsimp only [creditAdded]
    rw [fountain_setFountain_self]

theorem fntCredits_creditAdded_self : fntCredits (creditAdded d h p n) h p = fntCredits d h p + n := by
  cases p with
  | window fa win gen =>
    exact congrArg SendCredit.have_ (creditAt_setCredit_self (isFor_credited d h fa win gen n) d)
  | square die b vc =>
    dsimp only [creditAdded, fntCredits]
    rw [fountain_setFountain_self, placeGet_placeSet_self]

/-- A credit is of one place alone. -/
theorem fntCredits_creditAdded_ne {m : FtnPlace} (hm : m ≠ p) : fntCredits (creditAdded d h p n) h m = fntCredits d h m := by
  cases p with
  | window fa win gen =>
    cases m with
    | window fa' win' gen' =>
      refine congrArg SendCredit.have_ (creditAt_setCredit_ne (isFor_credited d h fa win gen n) ?_ d)
      rintro ⟨rfl, rfl, rfl, rfl⟩
      exact hm rfl
    | square die b vc => rfl
  | square die b vc =>
    cases m with
    | window fa win gen => rfl
    | square die' b' vc' =>
      dsimp only [creditAdded, fntCredits]
      rw [fountain_setFountain_self, placeGet_placeSet_ne _ hm]

/-- The end of a stall uses and grants no credit. -/
theorem fntCredits_stallsEnded (m : FtnPlace) : fntCredits (stallsEnded d h p) h m = fntCredits d h m := by
  cases m with
  | window fa win gen => rfl
  | square die b vc =>
    dsimp only [stallsEnded, fntCredits]
    rw [fountain_setFountain_self]

theorem fntCredits_creditReturned_self : fntCredits (creditReturned d h p n) h p = fntCredits d h p + n := by
  rw [creditReturned, fntCredits_stallsEnded, fntCredits_creditAdded_self]

theorem fntCredits_creditReturned_ne {m : FtnPlace} (hm : m ≠ p) :
    fntCredits (creditReturned d h p n) h m = fntCredits d h m := by
  rw [creditReturned, fntCredits_stallsEnded, fntCredits_creditAdded_ne _ _ _ _ hm]

theorem regs_creditReturned : (creditReturned d h p n).regs = d.regs := (creditAdded_kept d h p n).1

/-- The frames held and their descriptors stay, and the credit has been seen now. -/
theorem fountain_creditReturned : (fountain (creditReturned d h p n) h).held = (fountain d h).held
    ∧ (fountain (creditReturned d h p n) h).descs = (fountain d h).descs
    ∧ placeGet (fountain (creditReturned d h p n) h).lastCredit p = d.tally := by
  obtain ⟨-, htally, hk⟩ := creditAdded_kept d h p n
  rw [creditReturned, stallsEnded, fountain_setFountain_self, placeGet_placeSet_self, htally, hk]
  exact ⟨rfl, rfl, rfl⟩

/-- Where no frame is held, a returned credit offers none. -/
theorem fntCredit_of_none (hnone : (fountain d h).held = []) : fntCredit d h p n = creditReturned d h p n := by
  rw [fntCredit_eq, offerAll_of_none _ _ _ ((fountain_creditReturned d h p n).1.trans hnone)]

end

/-! ## A frame is offered to a package well (R156) -/

/-- Credits of a square are granted for package wells alone. -/
theorem fntEndpoint_of_square {f : FtnFrame} {y : FtnDesc} {t die b vc : Nat} (h : fntPlace f y t = some (.square die b vc)) :
    ∃ addr, fntEndpoint (y.entries.getD t 0) f.off = some (.package die b addr) := by
  unfold fntPlace at h
  split at h
  · simp at h
  next d' b' addr heq =>
    simp only [Option.some.injEq, FtnPlace.square.injEq] at h
    obtain ⟨rfl, rfl, -⟩ := h
    exact ⟨addr, heq⟩
  · simp at h

/-- A frame notes that it has been offered to a target, and a re-offer is counted. -/
def frameOffered (d : Dev) (h : Nat) (again : Bool) (f : FtnFrame) (t : Nat) : Dev :=
  let d := setFrame d h { f with offered := f.offered.set t true }
  if again then fcnt d (ctl R.FNT_REOFFER_CNT (56 + h) 0) F.FNT_REOFFER_CNT_COUNT 1 else d

/-- A frame is offered to a target: a credit is used now, and no stall of the target is left. -/
def offerMarked (d : Dev) (h : Nat) (again : Bool) (f : FtnFrame) (y : FtnDesc) (t : Nat) : Dev :=
  let e := frameOffered d h again f t
  let k := fountain e h
  setFountain e h
    { k with lastCredit := ((fntPlace f y t).map fun p => placeSet k.lastCredit p e.tally).getD k.lastCredit,
             stalled := k.stalled.filter fun p => p != (f.desc, t) }

/-- A marked frame leaves for a square of the device, and one of its credits is used. -/
def sentToSquare (d : Dev) (h : Nat) (f : FtnFrame) (p : FtnPlace) (die b c : Nat) : Dev :=
  let d := travel d (.edge (56 + h)) (.square die b) (flitsOf f.bytes.length)
  setFountain d h { fountain d h with credits := placeSet (fountain d h).credits p (c - 1) }

/-- A frame that may be offered to a package well goes there where the square has granted credits. -/
theorem offerOne_square {d : Dev} {h t : Nat} {f : FtnFrame} {y : FtnDesc} {die b vc : Nat} (again : Bool)
    (hfind : (fountain d h).held.find? (fun g => g.id = f.id) = some f) (hy : mget (fountain d h).descs f.desc = some y)
    (hopen : (f.delivered.getD t false || f.offered.getD t false || y.refused.getD t false
      || !earlierSent (fountain d h).held f t) = false)
    (hplace : fntPlace f y t = some (.square die b vc)) (hcredit : fntCredits d h (.square die b vc) ≠ 0) :
    offerOne h again d f.id t = sentToSquare (offerMarked d h again f y t) h f (.square die b vc) die b
      (fntCredits d h (.square die b vc)) := by
  obtain ⟨addr, hend⟩ := fntEndpoint_of_square hplace
  rw [offerOne, offerMarked]
  simp only [hfind, hy, hopen, hend, hplace, if_neg hcredit, Bool.false_eq_true, if_false]
  rfl

/-- The one frame of a fountain is offered to its one target. -/
theorem offerAll_of_one {d : Dev} {h : Nat} {f : FtnFrame} (hheld : (fountain d h).held = [f])
    (hdelivered : f.delivered = [false]) (again : Bool) : offerAll d h again = offerOne h again d f.id 0 := by
  rw [offerAll, hheld, List.foldl_cons, List.foldl_nil, hdelivered]
  rfl

section
variable (d : Dev) (h : Nat) (f : FtnFrame) (p : FtnPlace) (die b c : Nat)

/-- What is left of a fountain whose frame has gone to a square. -/
theorem fountain_sentToSquare : fountain (sentToSquare d h f p die b c) h
    = { fountain d h with credits := placeSet (fountain d h).credits p (c - 1) } := by
  dsimp only [sentToSquare]
  rw [fountain_setFountain_self, fountain_of_fountains (travel_fountains d _ _ _)]

theorem fntCredits_sentToSquare (vc : Nat) :
    fntCredits (sentToSquare d h f (.square die b vc) die b c) h (.square die b vc) = c - 1 := by
  dsimp only [fntCredits]
  rw [fountain_sentToSquare, placeGet_placeSet_self]

theorem fget_reoffer_sentToSquare : fget (sentToSquare d h f p die b c) (ctl R.FNT_REOFFER_CNT (56 + h) 0) F.FNT_REOFFER_CNT_COUNT
    = fget d (ctl R.FNT_REOFFER_CNT (56 + h) 0) F.FNT_REOFFER_CNT_COUNT :=
  congrArg (fun w : Word => bits w.toNat _ _) (rd_travel (by decide) (by decide) d _ _ _ (56 + h) 0)

end

section
variable (d : Dev) (h : Nat) (f : FtnFrame) (y : FtnDesc) (t : Nat)

theorem rd_offerMarked (again : Bool) (a : Nat) : rd (offerMarked d h again f y t) a = rd (frameOffered d h again f t) a := rfl

/-- A re-offer is counted. -/
theorem fget_reoffer_offerMarked : fget (offerMarked d h true f y t) (ctl R.FNT_REOFFER_CNT (56 + h) 0) F.FNT_REOFFER_CNT_COUNT
    = min (fget d (ctl R.FNT_REOFFER_CNT (56 + h) 0) F.FNT_REOFFER_CNT_COUNT + 1) (2 ^ F.FNT_REOFFER_CNT_COUNT.width - 1) := by
  rw [fget, rd_offerMarked, frameOffered, if_pos rfl]
  exact fget_fcnt_self _ _ _ _ (by decide)

theorem fountain_frameOffered (again : Bool) :
    fountain (frameOffered d h again f t) h = fountain (setFrame d h { f with offered := f.offered.set t true }) h := by
  rw [frameOffered]
  cases again with
  | false => rfl
  | true => rw [if_pos rfl, fountain_fcnt]

/-- The mark on the one frame held, and no stall of its target. -/
theorem fountain_offerMarked (again : Bool) (hheld : (fountain d h).held = [f]) :
    (fountain (offerMarked d h again f y t) h).held = [{ f with offered := f.offered.set t true }]
      ∧ (f.desc, t) ∉ (fountain (offerMarked d h again f y t) h).stalled := by
  have hframe : (fountain (frameOffered d h again f t) h).held = [{ f with offered := f.offered.set t true }] := by
    rw [fountain_frameOffered, setFrame, fountain_setFountain_self, hheld, List.map_cons, if_pos rfl, List.map_nil]
  rw [offerMarked, fountain_setFountain_self]
  exact ⟨hframe, fun hmem => by simpa using (List.mem_filter.1 hmem).2⟩

end

section
variable {d : Dev} {h : Nat} {f : FtnFrame} {y : FtnDesc} {die b vc n : Nat} (hheld : (fountain d h).held = [f])
  (hdelivered : f.delivered = [false]) (hoffered : f.offered = [false]) (hrefused : y.refused = [false])
  (hy : mget (fountain d h).descs f.desc = some y) (hplace : fntPlace f y 0 = some (.square die b vc)) (hn : 0 < n)
include hheld hdelivered hoffered hrefused hy hplace hn

/-- A credit of a square, where the one frame held waits for it, offers the frame and is used. -/
theorem fntCredit_of_one : fntCredit d h (.square die b vc) n
    = sentToSquare (offerMarked (creditReturned d h (.square die b vc) n) h true f y 0) h f (.square die b vc) die b
      (fntCredits d h (.square die b vc) + n) := by
  obtain ⟨hheld', hdescs, -⟩ := fountain_creditReturned d h (.square die b vc) n
  have hcredits := fntCredits_creditReturned_self d h (.square die b vc) n
  rw [hheld] at hheld'
  rw [fntCredit_eq, offerAll_of_one hheld' hdelivered, offerOne_square true ?_ ?_ ?_ hplace ?_, hcredits]
  · rw [hheld', List.find?_cons_of_pos (by simp)]
  · rw [hdescs, hy]
  · rw [hheld', hdelivered, hoffered, hrefused]
    simp [earlierSent]
  · omega

/-- The frame is then marked, one credit is used, the re-offer is counted, and no stall of the target is left. -/
theorem fntCredit_of_one_spec :
    let e := fntCredit d h (.square die b vc) n
    let c := ctl R.FNT_REOFFER_CNT (56 + h) 0
    (fountain e h).held = [{ f with offered := [true] }]
      ∧ fntCredits e h (.square die b vc) + 1 = fntCredits d h (.square die b vc) + n
      ∧ fget e c F.FNT_REOFFER_CNT_COUNT
        = min (fget d c F.FNT_REOFFER_CNT_COUNT + 1) (2 ^ F.FNT_REOFFER_CNT_COUNT.width - 1)
      ∧ (f.desc, 0) ∉ (fountain e h).stalled := by
  obtain ⟨hmarked, hstalled⟩ := fountain_offerMarked (creditReturned d h (.square die b vc) n) h f y 0 true
    ((fountain_creditReturned d h _ n).1.trans hheld)
  rw [hoffered] at hmarked
  rw [fntCredit_of_one hheld hdelivered hoffered hrefused hy hplace hn]
  refine ⟨?_, ?_, ?_, ?_⟩
  · rw [fountain_sentToSquare]
    exact hmarked
  · rw [fntCredits_sentToSquare]
    omega
  · rw [fget_reoffer_sentToSquare, fget_reoffer_offerMarked, fget, rd, regs_creditReturned, fget, rd]
  · rw [fountain_sentToSquare]
    exact hstalled

end

/-! ## The committed tables (R155) -/

/-- The registers of a fountain whose writes commit an entry or a list. -/
def fountainTablePlaces : List Nat := [R.FNT_ENTRY_HI, R.FNT_LIST]

theorem fountainTablePlaces_spec : ∀ p ∈ fountainTablePlaces, (p / 2 ^ 12 % 2 ^ 8 = 0 ∧ p < 2 ^ 26) ∧ isSelector p = false
    ∧ p / 2 ^ 20 = 0x19 ∧ ∃ r ∈ regTable, r.place = p ∧ r.stride = 0 ∧ r.dies = .head ∧ r.insts = .one := by
  decide +kernel

section
variable {place : Nat} (hplace : place ∈ fountainTablePlaces) (h : HeadId)
include hplace

theorem ctlPlace_fountain : ctlPlace (ctl place (56 + h) 0) = place :=
  have hp := (fountainTablePlaces_spec place hplace).1
  ctlPlace_ctl (56 + h) hp.1 hp.2 (by decide)

theorem ctlDie_fountain : ctlDie (ctl place (56 + h) 0) = 56 + h := by
  have hp := (fountainTablePlaces_spec place hplace).1
  simp only [ctlDie, ctl, bits, Nat.shiftRight_eq_div_pow, pow2]
  omega

theorem ctlInst_fountain : ctlInst (ctl place (56 + h) 0) = 0 := by
  have hp := (fountainTablePlaces_spec place hplace).1
  simp only [ctlInst, ctl, bits, Nat.shiftRight_eq_div_pow, pow2]
  omega

/-- The register is there on every head. -/
theorem regAt_fountain : ∃ r, regAt (ctl place (56 + h) 0) = some r := by
  obtain ⟨-, -, -, r, hr, hrow, hstride, hdies, hinsts⟩ := fountainTablePlaces_spec place hplace
  have hhas : r.has (ctl place (56 + h) 0) = true := by
    simp [RegRow.has, ctlPlace_fountain hplace, ctlDie_fountain hplace, ctlInst_fountain hplace, hrow, hstride, hdies, hinsts,
      DieSet.has, InstSet.has]
    omega
  exact Option.isSome_iff_exists.1 (List.find?_isSome.2 ⟨r, hr, hhas⟩)

theorem ctlPut_fountain {d : Dev} {p : Path} (hw : MayWrite d p (ctl place (56 + h) 0)) (v : Nat) :
    ctlPut d p (ctl place (56 + h) 0) v = writeFntReg d p h place (ctl place (56 + h) 0) v := by
  obtain ⟨r, hr⟩ := regAt_fountain hplace h
  obtain ⟨-, hsel, hcls, -⟩ := fountainTablePlaces_spec place hplace
  have hat := ctlPlace_fountain hplace h
  rw [ctlPut_of_mayWrite hw, writeReg_fountain hr (by rw [hat]; exact hsel) d p v ((ctlClass_of_place hat).trans hcls), hat,
    ctlDie_fountain hplace, Nat.add_sub_cancel_left]

end

theorem applyShadows_of_none {d : Dev} {a : Nat} (hs : mget d.shadow a = none) : applyShadows d [a] = d := by
  simp only [applyShadows, List.foldl_cons, List.foldl_nil, hs]

theorem applyShadows_of_some {d : Dev} {a : Nat} {v : Word} (hs : mget d.shadow a = some v) :
    applyShadows d [a] = { wr d a v with shadow := mdel d.shadow a } := by
  simp only [applyShadows, List.foldl_cons, List.foldl_nil, hs]

theorem rd_with_shadow (d : Dev) (m : SMap Word) (a : Nat) : rd { d with shadow := m } a = rd d a := rfl

/-- A register takes its shadow, where it has one. -/
theorem rd_applyShadows_self (d : Dev) (a : Nat) : rd (applyShadows d [a]) a = shadowOf d a := by
  rw [shadowOf]
  cases hs : mget d.shadow a with
  | none => rw [applyShadows_of_none hs, Option.getD_none]
  | some v => rw [applyShadows_of_some hs, rd_with_shadow, rd_wr_self, Option.getD_some]

/-- Then it has none, and nothing else has changed. -/
theorem applyShadows_one_frame (d : Dev) (a : Nat) : mget (applyShadows d [a]).shadow a = none
    ∧ RegsBut d (applyShadows d [a]) [a] ∧ (applyShadows d [a]).fountains = d.fountains := by
  rcases Option.eq_none_or_eq_some (mget d.shadow a) with hs | ⟨v, hs⟩
  · rw [applyShadows_of_none hs]
    exact ⟨hs, RegsBut.refl d _, rfl⟩
  · rw [applyShadows_of_some hs]
    exact ⟨mget_mdel_self _ _, fun b hb => rd_wr_ne d (by simpa using hb) v, rfl⟩

/-- An entry that is committed holds the word written and the half that waited. -/
theorem fntEntryCommit_spec (d : Dev) (p : Path) (h : Nat) (v : Word) :
    let n := selField d p (ctl R.FNT_SEL (56 + h) 0) F.FNT_SEL_ENTRY
    let lo := ctlSel R.FNT_ENTRY_LO (56 + h) 0 n
    let hi := ctlSel R.FNT_ENTRY_HI (56 + h) 0 n
    let e := fntEntryCommit d p h v
    rd e hi = v ∧ rd e lo = shadowOf d lo ∧ mget e.shadow lo = none ∧ RegsBut d e [hi, lo] ∧ e.fountains = d.fountains := by
  intro n lo hi e
  obtain ⟨hshadow, hregs, hfountains⟩ := applyShadows_one_frame d lo
  have hne : lo ≠ hi := by
    simp only [lo, hi, ctlSel, ctl, R.FNT_ENTRY_LO, R.FNT_ENTRY_HI]
    omega
  refine ⟨rd_wr_self _ _ _, (rd_wr_ne _ hne v).trans (rd_applyShadows_self d lo), hshadow, fun a ha => ?_, hfountains⟩
  simp only [List.mem_cons, List.not_mem_nil, or_false, not_or] at ha
  exact (rd_wr_ne _ ha.1 v).trans (hregs a (by simpa using ha.2))

/-- The fields of a word written to FNT_LIST. -/
theorem listWord_fields {first count : Nat} (hfirst : first < 2 ^ 13) (hcount : count < 2 ^ 6) (valid : Bool) :
    let v := first + count * 8192 + b2n valid * 2147483648
    bits v 0 13 = first ∧ bits v 13 6 = count ∧ bits v 31 1 = b2n valid := by
  cases valid <;>
    (simp only [bits, b2n, Nat.shiftRight_eq_div_pow, pow2, if_true, if_false, Bool.false_eq_true]
     omega)

/-- A list that is committed holds its three fields, and registers of other lists stay. -/
theorem fntList_fields (d : Dev) (a : Nat) (first : BitVec 13) (count : BitVec 6) (valid : Bool) :
    let e := fsets d a [(F.FNT_LIST_FIRST, first.toNat), (F.FNT_LIST_COUNT_M1, count.toNat), (F.FNT_LIST_VALID, b2n valid)]
    fget e a F.FNT_LIST_FIRST = first.toNat ∧ fget e a F.FNT_LIST_COUNT_M1 = count.toNat ∧ flag e a F.FNT_LIST_VALID = valid
      ∧ OnlyRegs d e [a] := by
  refine ⟨?_, ?_, ?_, rfl, regsBut_fsets (by simp) _ _⟩
  · simp only [fsets_cons, fsets_nil]
    rw [fget_fset_other _ _ _ _ _ (by decide) (by decide), fget_fset_other _ _ _ _ _ (by decide) (by decide),
      fget_fset_self _ _ _ _ (by decide)]
    exact Nat.mod_eq_of_lt first.isLt
  · simp only [fsets_cons, fsets_nil]
    rw [fget_fset_other _ _ _ _ _ (by decide) (by decide), fget_fset_self _ _ _ _ (by decide)]
    exact Nat.mod_eq_of_lt count.isLt
  · exact flag_fset_self _ a F.FNT_LIST_VALID valid (by decide) rfl

section
variable {s : State} (hp : powered s.dev = true) {p : Path} {h : HeadId}
include hp

theorem exec_fntEntryCommit_of_mayWrite (hw : MayWrite s.dev p (ctl R.FNT_ENTRY_HI (56 + h) 0)) (v : Word) :
    exec (.fntEntryCommit p h v) s = .next (after s (fntEntryCommit s.dev p h v)) := by
  have hput : ctlPut s.dev p (ctl R.FNT_ENTRY_HI (56 + h) 0) v.toNat = fntEntryCommit s.dev p h v := by
    rw [ctlPut_fountain (by decide) h hw, writeFntReg, if_neg (by decide), if_pos rfl, BitVec.ofNat_toNat, BitVec.setWidth_eq]
  rw [exec_fntEntryCommit, execFntEntryCommit, act_powered rfl hp, hput]

theorem exec_fntListCommit_of_mayWrite (hw : MayWrite s.dev p (ctl R.FNT_LIST (56 + h) 0)) (first : BitVec 13)
    (countM1 : BitVec 6) (valid : Bool) :
    exec (.fntListCommit p h first countM1 valid) s = .next (after s
      (fsets s.dev (ctlSel R.FNT_LIST (56 + h) 0 (selField s.dev p (ctl R.FNT_SEL (56 + h) 0) F.FNT_SEL_LIST))
        [(F.FNT_LIST_FIRST, first.toNat), (F.FNT_LIST_COUNT_M1, countM1.toNat), (F.FNT_LIST_VALID, b2n valid)])) := by
  obtain ⟨hfirst, hcount, hvalid⟩ := listWord_fields first.isLt countM1.isLt valid
  rw [exec_fntListCommit, execFntListCommit, act_powered rfl hp, ctlPut_fountain (by decide) h hw, writeFntReg,
    if_neg (by decide), if_neg (by decide), if_pos rfl, fntListCommit, hfirst, hcount, hvalid]

theorem exec_fountainCreditReturn_powered (target : CreditFrom) (n : Fin 65) :
    exec (.fountainCreditReturn h target n) s = .next (after s (fntCredit s.dev h target.place n)) := by
  rw [exec_fountainCreditReturn, execFountainCreditReturn, act_powered rfl hp]

theorem exec_fountainTargetRefused_powered (frame : Nat) (target : Fin 64) :
    exec (.fountainTargetRefused h frame target) s
      = .next (after s (fntTargetRefused (takeFntTxn s.dev h frame target) h frame target)) := by
  rw [exec_fountainTargetRefused, execFountainTargetRefused, act_powered rfl hp]

end

/-! ## The last refusal of a relayed frame (R158, R264) -/

/-- A relay entry whose window list is not valid is not complete. -/
theorem relayDone_of_invalid {d : Dev} {h e : Nat}
    (hlist : flag d (ctl (R.GAT_RLY_WIN + 0x10 * e) (56 + h) 1) F.GAT_RLY_WIN_VALID = false) :
    relayDone d h e = d := by
  simp only [relayDone, hlist, Bool.false_and, Bool.false_eq_true, if_false]

/-- Every target holds a frame or has refused its descriptor (R156, R158). -/
def frameFinished (k : Fountain) (f : FtnFrame) : Bool :=
  (List.range f.delivered.length).all fun t =>
    f.delivered.getD t false || (((mget k.descs f.desc).map fun y => y.refused.getD t false).getD false)

/-- A relay entry's one frame is released, and its descriptor is forgotten. -/
theorem releaseFrames_of_relayed {d : Dev} {h e : Nat} {f : FtnFrame} (hheld : (fountain d h).held = [f])
    (hincoming : (fountain d h).incoming = []) (hdone : frameFinished (fountain d h) f = true) (hrelay : f.relay = some e)
    (hlist : flag d (ctl (R.GAT_RLY_WIN + 0x10 * e) (56 + h) 1) F.GAT_RLY_WIN_VALID = false) :
    releaseFrames d h = setFountain d h
      { fountain d h with held := [], descs := (fountain d h).descs.filter fun y => decide (y.1 < relayDesc) } := by
  have hheld' : (fountain d h).held.filter (fun g => !frameFinished (fountain d h) g) = [] := by simp [hheld, hdone]
  have hdone' : (fountain d h).held.filter (frameFinished (fountain d h)) = [f] := by simp [hheld, hdone]
  have hrelease : releaseFrames d h = ((fountain d h).held.filter (frameFinished (fountain d h))).foldl
      (fun d f => match f.relay with
        | some e => relayDone d h e
        | none => pumpLanded d f.die f.block f.pumpB f.rid)
      (setFountain d h
        { fountain d h with
          held := (fountain d h).held.filter fun g => !frameFinished (fountain d h) g,
          descs := (fountain d h).descs.filter fun y => decide (y.1 < relayDesc)
            || ((fountain d h).incoming ++ (fountain d h).held.filter fun g => !frameFinished (fountain d h) g).any
              fun g => g.desc == y.1 }) := rfl
  rw [hrelease, hheld', hdone', hincoming]
  simp only [List.foldl_cons, List.foldl_nil, hrelay, List.append_nil, List.any_nil, Bool.or_false]
  exact relayDone_of_invalid (d := setFountain d h _) hlist

/-- A relayed frame of one byte, offered to the one target of its list: it is of relay entry 0 of head 0. -/
def relayedFrame : FtnFrame :=
  { id := 1, die := 56, block := 0, pumpB := false, rid := 0, relay := some 0, desc := relayDesc, list := 0, off := 0, wgen := 0,
    vc := 3, bytes := [1], delivered := [false], offered := [true] }

/-- Its descriptor: window 0 of the device of fabric address 1. -/
def relayedDesc : FtnDesc := { targets := [0], entries := [4 + 2 ^ 48], refused := [false] }

/-- A device that runs, with that frame alone in the fountain of head 0 and its write to the window outstanding. -/
def relayedState : State :=
  { State.reset with
    dev := { fountains := [(0, { held := [relayedFrame], descs := [(relayDesc, relayedDesc)] })],
             txns := [{ head := 0, kind := .write 1 0 0 0 1, origin := .fountain 0 1 0, start := 0 }],
             boot := { on := true, inReset := false } } }

/-- The device once the target is counted and marked refused, before the frame is released. -/
def relayedRefused : Dev :=
  setFountain (fcnt { relayedState.dev with txns := [] } (ctl R.FNT_REFUSE_CNT 56 0) F.FNT_REFUSE_CNT_COUNT 1) 0
    { held := [relayedFrame], descs := [(relayDesc, { relayedDesc with refused := [true] })] }

theorem fntTargetRefused_relayedState : fntTargetRefused (takeFntTxn relayedState.dev 0 relayedFrame.id 0) 0 relayedFrame.id 0
    = releaseFrames relayedRefused 0 := rfl

/-- The refusal releases the frame, and no descriptor is left. -/
theorem descs_relayedState : mget (fountain (fntTargetRefused (takeFntTxn relayedState.dev 0 relayedFrame.id 0) 0
    relayedFrame.id 0) 0).descs relayDesc = none := by
  rw [fntTargetRefused_relayedState, releaseFrames_of_relayed (e := 0) (f := relayedFrame) rfl rfl rfl rfl (by decide +kernel),
    fountain_setFountain_self]
  rfl

end Sys2Proof.Machine

namespace Sys2Proof.Proofs

open Sys2Proof.Machine

/-- Settles O34: a returned credit is added to its place's, and with one frame held the offer that it brings is to a package
well, as the place is a square; a committed entry takes the half that waited, and a committed list its three fields. -/
theorem fountainTablesComplete : Obligations.FountainTablesComplete := by
  intro s h hp k
  refine ⟨fun target n => ⟨fun hnone => ⟨_, exec_fountainCreditReturn_powered hp target n, ?_⟩,
      fun f y hheld hdelivered hoffered hrefused hy hplace hn ⟨die, b, vc, hsquare⟩ =>
        ⟨_, exec_fountainCreditReturn_powered hp target n, ?_⟩⟩,
    fun p v hw => ⟨_, exec_fntEntryCommit_of_mayWrite hp hw v, fntEntryCommit_spec s.dev p h v⟩,
    fun p first countM1 valid hw =>
      ⟨_, exec_fntListCommit_of_mayWrite hp hw first countM1 valid, fntList_fields s.dev _ first countM1 valid⟩⟩
  · rw [fntCredit_of_none _ _ _ _ hnone]
    exact ⟨fntCredits_creditReturned_self _ _ _ _, (fountain_creditReturned _ _ _ _).2.2,
      fun m hm => fntCredits_creditReturned_ne _ _ _ _ hm, regs_creditReturned _ _ _ _⟩
  · subst hsquare
    exact fntCredit_of_one_spec hheld hdelivered hoffered hrefused hy hplace hn

/-- Refutes O33: the one target of a relayed frame refuses it. The frame is released, and with no frame left its relay entry
begins anew (R155, R264): the descriptor is forgotten, where the statement says that it stays, with the target marked. The
clause on refusals needs a premise that the descriptor is a pump's, of a number below `relayDesc`. -/
theorem not_fountainFramesComplete : ¬ Obligations.FountainFramesComplete := by
  intro h
  obtain ⟨-, htargets⟩ := h relayedState 0 rfl
  obtain ⟨hoffered, -⟩ := htargets relayedFrame relayedDesc 0 (List.mem_singleton_self _) (by decide) rfl (by decide) (by decide)
    (by decide) rfl
  obtain ⟨-, -, hrefuses⟩ := hoffered rfl
  obtain ⟨e, he, -, hkept, -⟩ := hrefuses rfl
  rw [exec_fountainTargetRefused_powered rfl] at he
  obtain rfl := congrArg State.dev (Host.Outcome.next.inj he)
  exact absurd (descs_relayedState.symm.trans hkept) (by decide)

end Sys2Proof.Proofs
end

section
/-! Bundles in issue (R167 to R174): what the next slot's command does, the four address operations, and three statements of
spec/09_block_programs.md. The address slot does as stated (R170). The statements about control flow and about gates fail in their
frames: the layer mark's mask load times cancels (R303, R307), and a signal's flit is counted where it is detoured (R144, R179). -/

namespace Sys2Proof.Machine

/-! ## The next slot of a bundle in issue (R167, R168) -/

theorem arbLost_of_none {env : WellEnv} (h : env.lostWide + env.lostNarrow = 0) (d : Dev) (die b : Nat) :
    arbLost d die b env = d := by
  simp [arbLost, lostPorts, h]

/-- A command of the slot whose turn it is performs its operation, and the slot is done. -/
theorem issueSlot_of_turn {d : Dev} {die b : Nat} {env : WellEnv} {slot : SlotId} {bu : Bundle} {rest : List SlotId}
    (hturn : SlotTurn d die b slot bu rest) (henv : env.lostWide + env.lostNarrow = 0) {fits : Bundle → Bool}
    (hfits : fits bu = true) (perform : UnitCtx → Bundle → Dev → Dev) :
    issueSlot d die b env slot fits perform
      = slotDone (perform (unitCtx d die b (blk d die b).seq.slot) bu d) die b bu rest := by
  obtain ⟨hissuing, hbundle⟩ := hturn
  simp [issueSlot, hissuing, hbundle, hfits, arbLost_of_none henv]

theorem seqControl_of_turn {d : Dev} {die b : Nat} {env : WellEnv} {bu : Bundle} {rest : List SlotId}
    (hturn : SlotTurn d die b .control bu rest) (henv : env.lostWide + env.lostNarrow = 0) {is : Cop → Bool}
    (hfits : is bu.control = true) :
    seqControl d die b env is
      = slotDone (controlEffect die b (unitCtx d die b (blk d die b).seq.slot) bu env.bad d) die b bu rest :=
  issueSlot_of_turn hturn henv hfits _

theorem seqAddress_of_turn {d : Dev} {die b : Nat} {env : WellEnv} {bu : Bundle} {rest : List SlotId} {o : Aop}
    (hturn : SlotTurn d die b .address bu rest) (henv : env.lostWide + env.lostNarrow = 0) (ho : bu.address = some o)
    {is : Aop → Bool} (hfits : is o = true) : seqAddress d die b env is = slotDone d die b bu rest :=
  issueSlot_of_turn hturn henv (by simp [ho, hfits]) _

/-- That a slot is done stands in its sequencer alone. -/
theorem rd_slotDone (d : Dev) (die b : Nat) (bu : Bundle) (rest : List SlotId) (a : Nat) :
    rd (slotDone d die b bu rest) a = rd d a := by
  unfold slotDone
  dsimp only
  split
  · split <;> rfl
  · rfl

/-- After the last slot the position is the one that control goes on to. -/
theorem slotDone_last {d : Dev} {die b : Nat} {bu : Bundle} {p : SeqPos} (h : advance (blk d die b).seq.pos bu = some p) :
    slotDone d die b bu [] = setSeq d die b { (blk d die b).seq with issuing := [], pos := p } := by
  simp [slotDone, h]

/-! ## Address operations (R170) -/

/-- A bundle that does not end its unit goes on with its address operation done. -/
theorem advance_of_address {bu : Bundle} {o : Aop} (hend : bu.control ≠ .end_) (ho : bu.address = some o) (q : SeqPos) :
    ∃ p, advance q bu = some p ∧ p.regs = applyAop q.regs o := by
  simp only [advance, ho]
  split
  next h => exact absurd h hend
  · exact ⟨_, rfl, rfl⟩
  · exact ⟨_, rfl, rfl⟩

theorem areg_set_self {l : List Nat} {r : Nat} (h : r < l.length) (v : Nat) : areg (l.set r v) r = v := by
  simp [areg, h]

theorem areg_set_ne (l : List Nat) {r n : Nat} (h : n ≠ r) (v : Nat) : areg (l.set r v) n = areg l n := by
  simp [areg, List.getElem?_set_ne h.symm]

/-- A sum with a signed 24-bit immediate, modulo 2^32. -/
theorem unsigned_add_signed24 (x : Nat) {imm : Nat} (h : imm < 16777216) :
    unsigned 32 (Int.ofNat x + signed 24 imm)
      = (x + (if imm < 8388608 then imm else 4278190080 + imm)) % 4294967296 := by
  simp only [unsigned, signed, pow2, Int.ofNat_eq_natCast, Nat.reducePow]
  split <;> split <;> omega

/-- As `unsigned_add_signed24`, of the 21 bits that MOV has for its immediate. -/
theorem unsigned_add_signed21 (x : Nat) {k : Nat} (h : k < 2097152) :
    unsigned 32 (Int.ofNat x + signed 21 k)
      = (x + (if k < 1048576 then k else 4292870144 + k)) % 4294967296 := by
  simp only [unsigned, signed, pow2, Int.ofNat_eq_natCast, Nat.reducePow]
  split <;> split <;> omega

/-- SETHI replaces the top byte of a register. -/
theorem setBits_top_byte {x : Nat} (h : x < 4294967296) (v : Nat) : setBits x 24 8 v = x % 16777216 + v % 256 * 16777216 := by
  simp only [setBits, pow2, Nat.shiftRight_eq_div_pow, Nat.shiftLeft_eq]
  omega

/-- The command of an address operation. -/
def addrCommand (die : DieId) (b : BlockId) (env : WellEnv) : Aop → Instr
  | .set .. => .addrSet die b env
  | .add .. => .addrAdd die b env
  | .sethi .. => .addrSethi die b env
  | .mov .. => .addrMov die b env

/-- The command of the operation that the address slot names finds it done: it takes effect as control goes on. -/
theorem exec_addrCommand_of_turn {s : State} {die : DieId} {b : BlockId} {env : WellEnv} {bu : Bundle} {rest : List SlotId}
    {o : Aop} (hp : powered s.dev = true) (hturn : SlotTurn s.dev die b .address bu rest)
    (henv : env.lostWide + env.lostNarrow = 0) (ho : bu.address = some o) :
    exec (addrCommand die b env o) s = .next (after s (slotDone s.dev die b bu rest)) := by
  cases o with
  | set r imm => rw [addrCommand, exec_addrSet, execAddrSet, act_powered rfl hp, seqAddress_of_turn hturn henv ho rfl]
  | add r imm => rw [addrCommand, exec_addrAdd, execAddrAdd, act_powered rfl hp, seqAddress_of_turn hturn henv ho rfl]
  | sethi r imm => rw [addrCommand, exec_addrSethi, execAddrSethi, act_powered rfl hp, seqAddress_of_turn hturn henv ho rfl]
  | mov r imm => rw [addrCommand, exec_addrMov, execAddrMov, act_powered rfl hp, seqAddress_of_turn hturn henv ho rfl]

/-- What an address slot leaves: one address register holds a value, control goes on, and nothing else has changed. -/
def AddressWritten (d e : Dev) (die b : Nat) (bu : Bundle) (r v : Nat) : Prop :=
  areg (blk e die b).seq.pos.regs r = v ∧ areg (blk e die b).seq.pos.regs 0 = 0
    ∧ (∀ n, n ≠ r → areg (blk e die b).seq.pos.regs n = areg (blk d die b).seq.pos.regs n)
    ∧ (blk e die b).seq.pos.regs.length = 8 ∧ SlotPast d e die b bu []
    ∧ blk e die b = { blk d die b with seq := (blk e die b).seq } ∧ OnlyBlock d e die b []

/-- The last slot of a bundle whose address operation sets a register other than A0. -/
theorem addressWritten_slotDone {d : Dev} {die b r v : Nat} {bu : Bundle} {o : Aop} (hend : bu.control ≠ .end_)
    (ho : bu.address = some o) (hr : 0 < r) (hr8 : r < 8) (hlen : (blk d die b).seq.pos.regs.length = 8)
    (hzero : areg (blk d die b).seq.pos.regs 0 = 0)
    (hset : applyAop (blk d die b).seq.pos.regs o = (blk d die b).seq.pos.regs.set r v) :
    AddressWritten d (slotDone d die b bu []) die b bu r v := by
  obtain ⟨p, hp, hregs⟩ := advance_of_address hend ho (blk d die b).seq.pos
  rw [hset] at hregs
  have hblk : blk (slotDone d die b bu []) die b
      = { blk d die b with seq := { (blk d die b).seq with issuing := [], pos := p } } := by
    rw [slotDone_last hp, setSeq, blk_setBlk_self]
  unfold AddressWritten SlotPast
  rw [hblk]
  simp only [hregs, hp, List.length_set, if_true]
  refine ⟨areg_set_self (by omega) v, ?_, fun n hn => areg_set_ne _ hn v, hlen, ⟨trivial, trivial, trivial⟩, trivial, ?_⟩
  · rw [areg_set_ne _ (by omega), hzero]
  · rw [slotDone_last hp]
    exact onlyBlock_setBlk d die b _ []

/-! ## A layer mark times the cancels that it shows (R303, R307) -/

/-- The active mask as the layer marks issued so far give it. -/
def markedMask (x : Block) : Nat := (x.maskLoads.getLast?.map Prod.fst).getD x.mask

/-- Of the registers, a layer mark changes those that note cancels. -/
theorem rd_gwait_layerMark {s : State} {die : DieId} {b : BlockId} {bu : Bundle} {rest : List SlotId} {m : Nat} {e : Dev}
    (hp : powered s.dev = true) (hturn : SlotTurn s.dev die b .control bu rest) (hc : bu.control = .gwait 255)
    (hm : rowMask s.dev die b (unitCtx s.dev die b (blk s.dev die b).seq.slot) = some m)
    (he : exec (.gwait die b {}) s = .next (after s e)) (a : Nat) :
    rd e a = rd (noteCancels s.dev (markedMask (blk s.dev die b)) m) a := by
  rw [exec_gwait, execGwait, act_powered rfl hp, seqControl_of_turn hturn rfl (by rw [hc])] at he
  obtain rfl := congrArg State.dev (Host.Outcome.next.inj he)
  refine (rd_slotDone _ _ _ _ _ _).trans ?_
  simp only [controlEffect, hc, hm, if_true]
  rfl

/-- GWAIT of gate 255. -/
def layerMark : Bundle :=
  { matrix := none, vector := none, pumpA := none, pumpB := none, control := .gwait 255, address := none, delta := 0 }

/-- A step in which batch row 0 is of slot 0, whose request was cancelled at tally 0, 625 ticks ago. The row is in the active mask
of block 0, which issues a layer mark, and no longer in the row mask that its well holds: the well is all zero, and the unit's
narrow segment is just the row area. -/
def cancelledRow : State :=
  { State.reset with
    dev :=
      { tally := 625,
        blocks := [(0, { ps := { cells := [(4, 1), (20, 16), (21, 8), (28, 64), (85, 64), (86, 252), (87, 3)], zeroed := [(0, 96)] },
                         well := { zeroed := [(0, 0x800000)] }, mask := 1,
                         seq := { phase := .running, issuing := [.control] } })],
        step := { running := true, rows := [{ row := 0, slot := 0, pos := 0, prefill := false, sample := false, vidx := 0,
                                              proposal := false }] },
        srv := { slots := [(0, { cancel := some 0 })] },
        boot := { on := true, inReset := false } } }

theorem cancelledRow_turn : SlotTurn cancelledRow.dev 0 0 .control layerMark [] := by decide +kernel

theorem cancelledRow_mask :
    rowMask cancelledRow.dev 0 0 (unitCtx cancelledRow.dev 0 0 (blk cancelledRow.dev 0 0).seq.slot) = some 0 := by decide +kernel

/-- The cancel took effect after 1 µs. -/
theorem cancelledRow_noted :
    rd (noteCancels cancelledRow.dev (markedMask (blk cancelledRow.dev 0 0)) 0) (srvReg R.SRV_CANCEL_LAT) = 1 := by
  decide +kernel

/-! ## A signal's flit may be detoured (R144, R179) -/

/-- GSIG of 1 to gate 70 of die 0. -/
def signalGate70 : Bundle :=
  { matrix := none, vector := none, pumpA := none, pumpB := none, control := .gsig 70 0 1 false 0, address := none, delta := 0 }

/-- Block 0 of die 0 issues that signal. Gate 70 is at block 7, one square to the east and one to the south, and has count 0 and
threshold 5; the link from block 0's square to the east is retired. -/
def detouredSignal : State :=
  { State.reset with
    dev :=
      { regs := [(ctl R.SQR_STATUS 0 0, 0x40), (gateReg R.GAT_THRESH 0 70, 5)],
        blocks := [(0, { ps := { cells := [(4, 1), (28, 64), (85, 48), (86, 24), (87, 1)], zeroed := [(0, 96)] },
                         seq := { phase := .running, issuing := [.control] } })],
        boot := { on := true, inReset := false } } }

theorem detouredSignal_turn : SlotTurn detouredSignal.dev 0 0 .control signalGate70 [] := by decide +kernel

/-- The square of block 0 has counted the flit. -/
theorem detouredSignal_counted :
    rd (controlEffect 0 0 (unitCtx detouredSignal.dev 0 0 (blk detouredSignal.dev 0 0).seq.slot) signalGate70 [] detouredSignal.dev)
      (ctl R.SQR_RETRY_CNT 0 0) ≠ rd detouredSignal.dev (ctl R.SQR_RETRY_CNT 0 0) := by decide +kernel

/-- Of the registers, GSIG changes those that its signal does. -/
theorem rd_gsig {s : State} {die : DieId} {b : BlockId} {bu : Bundle} {rest : List SlotId} {gate gdie n fareg : Nat}
    {remote : Bool} {e : Dev} (hp : powered s.dev = true) (hturn : SlotTurn s.dev die b .control bu rest)
    (hc : bu.control = .gsig gate gdie n remote fareg) (he : exec (.gsig die b {}) s = .next (after s e)) (a : Nat) :
    rd e a = rd (controlEffect die b (unitCtx s.dev die b (blk s.dev die b).seq.slot) bu [] s.dev) a := by
  rw [exec_gsig, execGsig, act_powered rfl hp, seqControl_of_turn hturn rfl (by rw [hc])] at he
  obtain rfl := congrArg State.dev (Host.Outcome.next.inj he)
  exact rd_slotDone _ _ _ _ _ _

end Sys2Proof.Machine

namespace Sys2Proof.Proofs

open Sys2Proof.Machine

/-- Settles O25: the slot is the bundle's last, so control goes on with the registers as the operation leaves them, and that is
one register set. -/
theorem addressSlotComplete : Obligations.AddressSlotComplete := by
  intro s die b env bu r imm hp henv hturn hend hr hr8 himm hlen hzero x a writes
  have hwrites : ∀ {o v}, bu.address = some o →
      applyAop (blk s.dev die b).seq.pos.regs o = (blk s.dev die b).seq.pos.regs.set r v → writes (addrCommand die b env o) v :=
    fun ho hset => ⟨_, exec_addrCommand_of_turn hp hturn henv ho, addressWritten_slotDone hend ho hr hr8 hlen hzero hset⟩
  refine ⟨fun ho => hwrites ho rfl, fun ho => hwrites ho ?_, fun ho hword => hwrites ho ?_, fun ho => hwrites ho ?_⟩
  · rw [applyAop, unsigned_add_signed24 _ himm]
    rfl
  · exact congrArg _ (setBits_top_byte hword imm)
  · have hreg : bits imm 0 3 = imm % 8 := by simp [bits, pow2]
    have himm21 : bits imm 3 21 = imm / 8 := by
      simp only [bits, pow2, Nat.shiftRight_eq_div_pow]
      omega
    rw [applyAop, hreg, himm21, unsigned_add_signed21 _ (by omega)]
    rfl

/-- Refutes O23: a layer mark takes the row of a cancelled request out of the active mask. The time since the cancel is kept in
SRV_CANCEL_LAT (R307), where the statement says that no register changes. -/
theorem not_controlFlowComplete : ¬ Obligations.ControlFlowComplete := by
  intro h
  obtain ⟨hslots, -⟩ := h cancelledRow 0 0 {} layerMark rfl rfl
  obtain ⟨-, -, -, -, -, hmark, -⟩ := hslots [] cancelledRow_turn
  obtain ⟨e, he, -, -, -, hregs, -⟩ := hmark 0 rfl rfl cancelledRow_mask
  have hkept := hregs (srvReg R.SRV_CANCEL_LAT) (by simp)
  rw [rd_gwait_layerMark (die := 0) (b := 0) rfl cancelledRow_turn rfl cancelledRow_mask he] at hkept
  exact absurd (cancelledRow_noted.symm.trans hkept) (by decide +kernel)

/-- Refutes O24: the flit of a signal that leaves its gate below the threshold is detoured round a retired link. The square counts
it and sets DETOUR (R144), where the statement says that no registers but the gate's change. -/
theorem not_gateSlotComplete : ¬ Obligations.GateSlotComplete := by
  intro h
  obtain ⟨hlocal, -⟩ := h detouredSignal 0 0 {} signalGate70 [] rfl rfl detouredSignal_turn
  obtain ⟨hsignal, -⟩ := hlocal 70 0 1 0 rfl (by decide) (by decide)
  obtain ⟨e, he, -, hcount, hthresh, -, hbelow⟩ := hsignal (by decide +kernel)
  obtain ⟨-, hregs, -⟩ := hbelow (hcount.trans_lt (lt_of_lt_of_eq (by decide +kernel) hthresh.symm))
  have hkept := hregs (ctl R.SQR_RETRY_CNT 0 0) (by decide)
  rw [rd_gsig (die := 0) (b := 0) rfl detouredSignal_turn rfl he] at hkept
  exact detouredSignal_counted hkept

end Sys2Proof.Proofs
end

section
/-! Apply groups of placements, shares, aqueducts, barrier slots and models (R165, R200, R230, R259, R287, R334): a group takes its
shadows, what firmware settles after it leaves the group as it is, and the statement of spec/09_block_programs.md about them. -/

namespace Sys2Proof.Machine

/-! ## A group takes its shadows (R334) -/

theorem applyShadows_cons (d : Dev) (a : Nat) (l : List Nat) : applyShadows d (a :: l) = applyShadows (applyShadows d [a]) l := rfl

/-- Nothing but registers and shadows changes. -/
theorem applyShadows_frame (d : Dev) (l : List Nat) : { applyShadows d l with regs := d.regs, shadow := d.shadow } = d :=
  foldl_keeps (I := fun e : Dev => { e with regs := d.regs, shadow := d.shadow } = d)
    (fun e a _ he => by split <;> exact he) rfl

theorem applyShadows_step (d : Dev) (l : List Nat) : (applyShadows d l).step = d.step :=
  (congrArg Dev.step (applyShadows_frame d l) :)

theorem applyShadows_srv (d : Dev) (l : List Nat) : (applyShadows d l).srv = d.srv := (congrArg Dev.srv (applyShadows_frame d l) :)

theorem applyShadows_barEvents (d : Dev) (l : List Nat) : (applyShadows d l).barEvents = d.barEvents :=
  (congrArg Dev.barEvents (applyShadows_frame d l) :)

/-- Registers outside the group stay. -/
theorem regsBut_applyShadows (d : Dev) (l : List Nat) : RegsBut d (applyShadows d l) l := by
  induction l generalizing d with
  | nil => exact RegsBut.refl d []
  | cons b l ih =>
    intro a ha
    obtain ⟨hab, hal⟩ := not_or.1 (mt List.mem_cons.2 ha)
    rw [applyShadows_cons, ih _ a hal, (applyShadows_one_frame d b).2.1 a (by simpa using hab)]

theorem regsBut_of_subset {d e : Dev} {l l' : List Nat} (h : RegsBut d e l) (hl : l ⊆ l') : RegsBut d e l' :=
  fun a ha => h a fun hmem => ha (hl hmem)

/-- A shadow that is taken is the register's value. -/
theorem shadowOf_applyShadows_one (d : Dev) (b a : Nat) : shadowOf (applyShadows d [b]) a = shadowOf d a := by
  by_cases hab : a = b
  · subst hab
    rw [shadowOf, (applyShadows_one_frame d a).1, Option.getD_none, rd_applyShadows_self]
  · rcases Option.eq_none_or_eq_some (mget d.shadow b) with hs | ⟨v, hs⟩
    · rw [applyShadows_of_none hs]
    · rw [applyShadows_of_some hs, shadowOf, shadowOf, rd_with_shadow, rd_wr_ne d hab, mget_mdel_ne _ hab]

/-- Each register of the group takes its shadow. -/
theorem rd_applyShadows (d : Dev) {l : List Nat} {a : Nat} (ha : a ∈ l) : rd (applyShadows d l) a = shadowOf d a := by
  induction l generalizing d with
  | nil => cases ha
  | cons b l ih =>
    rw [applyShadows_cons]
    by_cases hal : a ∈ l
    · rw [ih _ hal, shadowOf_applyShadows_one]
    · obtain rfl := (List.mem_cons.1 ha).resolve_right hal
      rw [regsBut_applyShadows _ l a hal, rd_applyShadows_self]

/-! ## Shares (R200) -/

theorem bits_defaultShares : (BitVec.ofNat 32 defaultShares).toNat = defaultShares := by decide

theorem shareRegs_ne (s : Nat) : ctl R.RSV_SHARE (48 + s) 0 ≠ ctl R.RSV_APPLY (48 + s) 0
    ∧ ctl R.RSV_SHARE (48 + s) 0 ≠ ctl R.RSV_STATUS (48 + s) 0 ∧ ctl R.RSV_STATUS (48 + s) 0 ≠ ctl R.RSV_APPLY (48 + s) 0 :=
  ⟨ctl_ne_of_place (by decide) _ _, ctl_ne_of_place (by decide) _ _, ctl_ne_of_place (by decide) _ _⟩

/-- The shares of RSV_SHARE add up to more than 100. -/
def sharesErr (v : Nat) : Bool := decide (100 < bits v 0 8 + bits v 8 8 + bits v 16 8 + bits v 24 8)

/-- RSV_SHARE as it applies. -/
def shareTaken (d : Dev) (s : Nat) : Dev :=
  let a := ctl R.RSV_SHARE (48 + s) 0
  let e := applyShadows d [a]
  if sharesErr (shadowOf d a).toNat then wr e a (BitVec.ofNat 32 defaultShares) else e

theorem shareApply_of_armed {d : Dev} {s : Nat} (harmed : flag d (ctl R.RSV_APPLY (48 + s) 0) F.RSV_APPLY_APPLY = true)
    (hidle : d.step.running = false) : shareApply d s
      = fset (fset (shareTaken d s) (ctl R.RSV_STATUS (48 + s) 0) F.RSV_STATUS_SHARE_ERR
          (b2n (sharesErr (shadowOf d (ctl R.RSV_SHARE (48 + s) 0)).toNat))) (ctl R.RSV_APPLY (48 + s) 0) F.RSV_APPLY_APPLY 0 := by
  simp only [shareApply, harmed, atBoundary, hidle, Bool.not_false, Bool.and_self, if_true, rd_applyShadows_self]
  rfl

theorem rd_shareTaken (d : Dev) (s : Nat) : (rd (shareTaken d s) (ctl R.RSV_SHARE (48 + s) 0)).toNat
    = if sharesErr (shadowOf d (ctl R.RSV_SHARE (48 + s) 0)).toNat then defaultShares
      else (shadowOf d (ctl R.RSV_SHARE (48 + s) 0)).toNat := by
  unfold shareTaken
  dsimp only
  split
  · rw [rd_wr_self, bits_defaultShares]
  · rw [rd_applyShadows_self]

theorem regsBut_shareTaken (d : Dev) (s : Nat) : RegsBut d (shareTaken d s) [ctl R.RSV_SHARE (48 + s) 0] := by
  unfold shareTaken
  dsimp only
  split
  · exact (regsBut_applyShadows d _).trans fun a ha => rd_wr_ne _ (by simpa using ha) _
  · exact regsBut_applyShadows d _

/-! ## Aqueducts (R218, R230) -/

/-- Registers of an aqueduct lie at its own addresses. -/
theorem aqdReg_ne {p q g k : Nat} (hp : p < 2 ^ 26 ∧ p / 2 ^ 12 % 2 ^ 8 = 0) (hq : q < 2 ^ 26 ∧ q / 2 ^ 12 % 2 ^ 8 = 0)
    (h : p ≠ q ∨ g ≠ k) : aqdReg p g ≠ aqdReg q k := by
  simp only [aqdReg, ctl, pow2]
  omega

/-- The registers that training writes. -/
def trainPlaces : List Nat := [R.AQD_STATUS, R.AQD_LANE_RET, R.AQD_PEER]

/-- The registers of an aqueduct that training writes. -/
def trainRegs (g : Nat) : List Nat := trainPlaces.map fun p => aqdReg p g

theorem aqdReg_notMem_trainRegs {p g k : Nat} (hp : p < 2 ^ 26 ∧ p / 2 ^ 12 % 2 ^ 8 = 0) (h : p ∉ trainPlaces ∨ g ≠ k) :
    aqdReg p g ∉ trainRegs k := by
  have hplaces : ∀ q ∈ trainPlaces, q < 2 ^ 26 ∧ q / 2 ^ 12 % 2 ^ 8 = 0 := by decide
  intro hmem
  obtain ⟨q, hq, heq⟩ := List.mem_map.1 hmem
  exact aqdReg_ne (hplaces q hq) hp (h.imp (ne_of_mem_of_not_mem hq) Ne.symm) heq

theorem regsBut_setTrain (d : Dev) (g st : Nat) : RegsBut d (setTrain d g st) (trainRegs g) := by
  unfold setTrain
  dsimp only
  split
  · exact (regsBut_fsets (by simp [trainRegs, trainPlaces]) d _).trans (regsBut_fset (by simp [trainRegs, trainPlaces]) _ _ _)
  · exact regsBut_fsets (by simp [trainRegs, trainPlaces]) d _

theorem trainState_setTrain (d : Dev) (g : Nat) {st : Nat} (hst : st < 8) : trainState (setTrain d g st) g = st := by
  have hpeer : aqdReg R.AQD_STATUS g ≠ aqdReg R.AQD_PEER g := aqdReg_ne (by decide) (by decide) (.inl (by decide))
  have hstate : fget (fsets d (aqdReg R.AQD_STATUS g) [(F.AQD_STATUS_STATE, st), (F.AQD_STATUS_UP, b2n (st == 5))])
      (aqdReg R.AQD_STATUS g) F.AQD_STATUS_STATE = st := by
    rw [fsets_cons, fsets_cons, fsets_nil, fget_fset_other _ _ F.AQD_STATUS_UP F.AQD_STATUS_STATE _ (by decide) (by decide),
      fget_fset_self _ _ F.AQD_STATUS_STATE _ (by decide)]
    exact Nat.mod_eq_of_lt hst
  unfold setTrain
  dsimp only
  split
  · exact (fget_fset_ne _ hpeer _ _ _).trans hstate
  · exact hstate

theorem regsBut_unmapped (d : Dev) (g : Nat) : RegsBut d (unmapped d g) (trainRegs g) := by
  have hret : aqdReg R.AQD_LANE_RET g ∈ trainRegs g := by simp [trainRegs, trainPlaces]
  have hst : aqdReg R.AQD_STATUS g ∈ trainRegs g := by simp [trainRegs, trainPlaces]
  have hshow : ∀ e : Dev, RegsBut e (fset (showLanes (setAqd e g (aqd e g).unsettled) g) (aqdReg R.AQD_STATUS g)
      F.AQD_STATUS_HALF 0) (trainRegs g) := fun e =>
    RegsBut.trans (e := setAqd e g (aqd e g).unsettled) (fun _ _ => rfl)
      ((regsBut_fsets hst _ _).trans (regsBut_fset hst _ _ _))
  unfold unmapped
  dsimp only
  split
  · exact ((regsBut_fsets hret d _).trans (regsBut_fset hret _ _ _)).trans (hshow _)
  · exact hshow d

theorem regsBut_takeMode (l : List Nat) (changed : Bool) (d : Dev) (g : Nat) :
    RegsBut d (takeMode l changed d g) (trainRegs g) := by
  have hst : aqdReg R.AQD_STATUS g ∈ trainRegs g := by simp [trainRegs, trainPlaces]
  have htrain : ∀ (e : Dev) (st : Nat), RegsBut e (setTrain (unmapped e g) g st) (trainRegs g) := fun e st =>
    (regsBut_unmapped e g).trans (regsBut_setTrain _ g st)
  have hhead : ∀ fs : List (Fld × Nat), RegsBut d (fset (fsets d (aqdReg R.AQD_STATUS g) fs) (aqdReg R.AQD_STATUS g)
      F.AQD_STATUS_HALF 0) (trainRegs g) := fun fs => (regsBut_fsets hst d fs).trans (regsBut_fset hst _ _ _)
  unfold takeMode
  dsimp only
  split
  · exact regsBut_fsets hst d _
  · split
    · exact (hhead _).trans (htrain _ 1)
    · exact (hhead _).trans (htrain _ 0)

/-- A change on an enabled aqueduct with a lane left starts its training at EQ. -/
theorem trainState_takeMode_of_changed {l : List Nat} {d : Dev} {g : Nat}
    (hon : flag d (aqdReg R.AQD_CTRL g) F.AQD_CTRL_ENABLE = true) (hlane : lanesOut d g ≠ 0xFF) :
    trainState (takeMode l true d g) g = 1 := by
  have hctrl : aqdReg R.AQD_CTRL g ≠ aqdReg R.AQD_STATUS g := aqdReg_ne (by decide) (by decide) (.inl (by decide))
  have hret : aqdReg R.AQD_LANE_RET g ≠ aqdReg R.AQD_STATUS g := aqdReg_ne (by decide) (by decide) (.inl (by decide))
  unfold takeMode
  dsimp only
  rw [if_neg (by simp), if_pos]
  · exact trainState_setTrain _ g (by decide)
  · rw [flag, fget_fset_ne _ hctrl, fget_fsets_ne _ hctrl, lanesOut, fget_fset_ne _ hret, fget_fsets_ne _ hret]
    simp only [Bool.and_eq_true, decide_eq_true_eq]
    exact ⟨hon, hlane⟩

/-- AQD_CTRL of an armed aqueduct as it applies, before any aqueduct takes its mode. -/
def ctrlTaken (d : Dev) (g : Nat) : Dev :=
  let e := fset (applyShadows d [aqdReg R.AQD_CTRL g]) (aqdReg R.AQD_APPLY g) F.AQD_APPLY_APPLY 0
  fset e (aqdReg R.AQD_STATUS g) F.AQD_STATUS_PEND (b2n (pend e [aqdReg R.AQD_CTRL g]))

theorem aqueductCtrlApply_of_armed {d : Dev} {g : Nat} (h : flag d (aqdReg R.AQD_APPLY g) F.AQD_APPLY_APPLY = true) :
    aqueductCtrlApply d g = (List.range 64).foldl
      (fun e k => takeMode (ethernetSet (ctrlTaken d g))
        (k == g && fget e (aqdReg R.AQD_CTRL g) ⟨0, 3⟩ != fget d (aqdReg R.AQD_CTRL g) ⟨0, 3⟩) e k) (ctrlTaken d g) := by
  simp only [aqueductCtrlApply, h, Bool.not_true, Bool.false_eq_true, if_false]
  rfl

/-- Passing over a list with one element that acts: what holds before it is kept up to it, and what it brings about from then on. -/
theorem foldl_through {σ α : Type} {f : σ → α → σ} {l : List α} {J P : σ → Prop} {x : α} (hx : x ∈ l) (hl : l.Nodup)
    (hJ : ∀ s, ∀ y ≠ x, J s → J (f s y)) (hmakes : ∀ s, J s → P (f s x)) (hP : ∀ s, ∀ y ≠ x, P s → P (f s y)) {s : σ}
    (hs : J s) : P (l.foldl f s) := by
  obtain ⟨l₁, l₂, rfl⟩ := List.append_of_mem hx
  obtain ⟨hx₁, hx₂⟩ : x ∉ l₁ ∧ x ∉ l₂ := by
    rw [List.nodup_middle, List.nodup_cons, List.mem_append, not_or] at hl
    exact hl.1
  rw [List.foldl_append, List.foldl_cons]
  have hbefore : J (l₁.foldl f s) := foldl_keeps (fun t y hy => hJ t y (ne_of_mem_of_not_mem hy hx₁)) hs
  exact foldl_keeps (fun t y hy => hP t y (ne_of_mem_of_not_mem hy hx₂)) (hmakes _ hbefore)

/-- A register that training writes for no aqueduct stays as all of them take their modes. -/
theorem rd_takeModes {p : Nat} (hp : p < 2 ^ 26 ∧ p / 2 ^ 12 % 2 ^ 8 = 0) (hne : p ∉ trainPlaces) (g : Nat)
    {f : Dev → Nat → Dev} (hf : ∀ e k, RegsBut e (f e k) (trainRegs k)) (l : List Nat) (d : Dev) :
    rd (l.foldl f d) (aqdReg p g) = rd d (aqdReg p g) :=
  foldl_keeps (I := fun e => rd e (aqdReg p g) = rd d (aqdReg p g))
    (fun e k _ he => (hf e k _ (aqdReg_notMem_trainRegs hp (.inl hne))).trans he) rfl

theorem rd_ctrlTaken (d : Dev) (g : Nat) : rd (ctrlTaken d g) (aqdReg R.AQD_CTRL g) = shadowOf d (aqdReg R.AQD_CTRL g) := by
  rw [ctrlTaken, rd_fset_ne _ (aqdReg_ne (by decide) (by decide) (.inl (by decide))),
    rd_fset_ne _ (aqdReg_ne (by decide) (by decide) (.inl (by decide))), rd_applyShadows_self]

theorem flag_ctrlTaken (d : Dev) (g : Nat) : flag (ctrlTaken d g) (aqdReg R.AQD_APPLY g) F.AQD_APPLY_APPLY = false := by
  rw [ctrlTaken, flag, fget_fset_ne _ (aqdReg_ne (by decide) (by decide) (.inl (by decide))), fget_fset_self _ _ _ _ (by decide)]
  rfl

theorem lanesOut_ctrlTaken (d : Dev) (g : Nat) : lanesOut (ctrlTaken d g) g = lanesOut d g := by
  rw [lanesOut, ctrlTaken, fget_fset_ne _ (aqdReg_ne (by decide) (by decide) (.inl (by decide))),
    fget_fset_ne _ (aqdReg_ne (by decide) (by decide) (.inl (by decide))), fget,
    regsBut_applyShadows d [aqdReg R.AQD_CTRL g] _ (by simp), lanesOut,
    fget]

/-- What AQD_CTRL leaves where it applies. -/
theorem aqueductCtrlApply_spec {d : Dev} {g : Nat} (hg : g < 64)
    (harmed : flag d (aqdReg R.AQD_APPLY g) F.AQD_APPLY_APPLY = true) :
    rd (aqueductCtrlApply d g) (aqdReg R.AQD_CTRL g) = shadowOf d (aqdReg R.AQD_CTRL g)
      ∧ flag (aqueductCtrlApply d g) (aqdReg R.AQD_APPLY g) F.AQD_APPLY_APPLY = false
      ∧ (shadowField d (aqdReg R.AQD_CTRL g) ⟨0, 3⟩ ≠ fget d (aqdReg R.AQD_CTRL g) ⟨0, 3⟩ →
          shadowField d (aqdReg R.AQD_CTRL g) F.AQD_CTRL_ENABLE = 1 → lanesOut d g ≠ 0xFF →
          trainState (aqueductCtrlApply d g) g = 1) := by
  have hmode : ∀ e k, RegsBut e (takeMode (ethernetSet (ctrlTaken d g))
      (k == g && fget e (aqdReg R.AQD_CTRL g) ⟨0, 3⟩ != fget d (aqdReg R.AQD_CTRL g) ⟨0, 3⟩) e k) (trainRegs k) :=
    fun e k => regsBut_takeMode _ _ e k
  rw [aqueductCtrlApply_of_armed harmed]
  refine ⟨?_, ?_, fun hchanged hon hlane => ?_⟩
  · rw [rd_takeModes (by decide) (by decide) g hmode, rd_ctrlTaken]
  · rw [flag, fget, rd_takeModes (by decide) (by decide) g hmode, ← fget, ← flag, flag_ctrlTaken]
  · refine foldl_through (J := fun e => rd e (aqdReg R.AQD_CTRL g) = shadowOf d (aqdReg R.AQD_CTRL g) ∧ lanesOut e g = lanesOut d g)
      (P := fun e => trainState e g = 1) (List.mem_range.2 hg) List.nodup_range (fun e k hk he => ?_) (fun e he => ?_)
      (fun e k hk he => ?_) ⟨rd_ctrlTaken d g, lanesOut_ctrlTaken d g⟩
    · obtain ⟨hctrl, hlanes⟩ := he
      refine ⟨(hmode e k _ (aqdReg_notMem_trainRegs (by decide) (.inr hk.symm))).trans hctrl, ?_⟩
      rw [lanesOut, fget, hmode e k (aqdReg R.AQD_LANE_RET g) (aqdReg_notMem_trainRegs (by decide) (.inr hk.symm))]
      exact hlanes
    · obtain ⟨hctrl, hlanes⟩ := he
      have hmoved : (g == g && fget e (aqdReg R.AQD_CTRL g) ⟨0, 3⟩ != fget d (aqdReg R.AQD_CTRL g) ⟨0, 3⟩) = true := by
        rw [fget, hctrl]
        simpa [shadowField] using hchanged
      rw [hmoved]
      refine trainState_takeMode_of_changed ?_ (by rwa [hlanes])
      rw [flag, fget, hctrl]
      simpa [shadowField] using hon
    · rw [trainState, fget, hmode e k _ (aqdReg_notMem_trainRegs (by decide) (.inr hk.symm))]
      exact he

/-! ## Barrier slots (R259) -/

/-- A slot whose local part is not complete and whose arrive gate is below its threshold waits. -/
theorem barStep_of_waiting {d : Dev} {h s : Nat}
    (hlocal : flag d (barReg R.GAT_BAR_ARRIVED h s) F.GAT_BAR_ARRIVED_LOCAL = false)
    (hgate : gateMet d (56 + h) (fget d (barReg R.GAT_BAR_CTRL h s) F.GAT_BAR_CTRL_ARRIVE_GATE) = false) (n : Nat) :
    barStep h s n d = d := by
  cases n with
  | zero => rfl
  | succ n => simp [barStep, hlocal, hgate]

theorem afterBarriers_of_none {d : Dev} (h : d.barEvents = []) (n : Nat) : afterBarriers n d = d := by
  cases n with
  | zero => rfl
  | succ n => simp [afterBarriers, h]

theorem settleBarriers_of_none {d : Dev} (h : d.barEvents = []) : settleBarriers d = d := afterBarriers_of_none h _

/-- A barrier slot's group as it applies. -/
def barTaken (d : Dev) (h s : Nat) : Dev :=
  fsets (applyShadows d (barGroup h s)) (barReg R.GAT_BAR_ARRIVED h s) [(F.GAT_BAR_ARRIVED_APPLY, 0), (F.GAT_BAR_ARRIVED_PEND, 0)]

theorem barSlotApply_of_armed {d : Dev} {h s : Nat} (harmed : flag d (barReg R.GAT_BAR_ARRIVED h s) F.GAT_BAR_ARRIVED_APPLY = true)
    (hlocal : flag d (barReg R.GAT_BAR_ARRIVED h s) F.GAT_BAR_ARRIVED_LOCAL = false) (hcur : (barSlot d h s).cur = [])
    (hnext : (barSlot d h s).next = []) : barSlotApply d h s = settleBarriers (barEngine (barTaken d h s) h s) := by
  simp only [barSlotApply, harmed, hlocal, hcur, hnext, List.isEmpty_nil, Bool.not_false, Bool.and_self, if_true]
  rfl

/-- GAT_BAR_ARRIVED is not of the group. -/
theorem barArrived_notMem (h s : Nat) : barReg R.GAT_BAR_ARRIVED h s ∉ barGroup h s := by
  simp [barGroup, barReg, ctl]

theorem regsBut_barTaken (d : Dev) (h s : Nat) :
    RegsBut d (barTaken d h s) (barReg R.GAT_BAR_ARRIVED h s :: barGroup h s) := fun a ha => by
  obtain ⟨hne, hgroup⟩ := not_or.1 (mt List.mem_cons.2 ha)
  rw [barTaken, rd_fsets_ne _ hne, regsBut_applyShadows d _ a hgroup]

theorem rd_barTaken (d : Dev) (h s : Nat) {r : Nat} (hr : r ∈ barGroup h s) : rd (barTaken d h s) r = shadowOf d r := by
  rw [barTaken, rd_fsets_ne _ (ne_of_mem_of_not_mem hr (barArrived_notMem h s)), rd_applyShadows d hr]

/-- Gates are no registers of barrier slots. -/
theorem gateReg_notMem_barRegs {p : Nat} (hp : p ∈ [R.GAT_COUNT, R.GAT_THRESH]) (die gate h : Nat) {s : Nat} (hs : s < 64) :
    gateReg p die gate ∉ barReg R.GAT_BAR_ARRIVED h s :: barGroup h s := by
  have hgates : ∀ p ∈ [R.GAT_COUNT, R.GAT_THRESH], p % 2 ^ 12 ≤ 4 := by decide
  have hbars : ∀ q ∈ [R.GAT_BAR_ARRIVED, R.GAT_BAR_CTRL, R.GAT_BAR_PARENT, R.GAT_BAR_DIES_LO, R.GAT_BAR_DIES_HI],
      0x500 ≤ q % 2 ^ 12 ∧ q % 2 ^ 12 ≤ 0x514 := by decide
  have hne : ∀ q ∈ [R.GAT_BAR_ARRIVED, R.GAT_BAR_CTRL, R.GAT_BAR_PARENT, R.GAT_BAR_DIES_LO, R.GAT_BAR_DIES_HI],
      gateReg p die gate ≠ barReg q h s := by
    intro q hq
    refine ctl_ne_of_offset ?_ _ _ _ _
    have hgate : p % 2 ^ 12 ≤ 4 := hgates p hp
    have hbar : 0x500 ≤ q % 2 ^ 12 ∧ q % 2 ^ 12 ≤ 0x514 := hbars q hq
    omega
  intro hmem
  simp only [barGroup, List.map_cons, List.map_nil, List.mem_cons, List.not_mem_nil, or_false] at hmem
  rcases hmem with hmem | hmem | hmem | hmem | hmem <;> exact hne _ (by simp) hmem

theorem gateMet_barTaken (d : Dev) (h : Nat) {s : Nat} (hs : s < 64) (die gate : Nat) :
    gateMet (barTaken d h s) die gate = gateMet d die gate := by
  rw [gateMet, gateCount, gateThresh, regsBut_barTaken d h s _ (gateReg_notMem_barRegs (by simp) die gate h hs),
    regsBut_barTaken d h s _ (gateReg_notMem_barRegs (by simp) die gate h hs), gateMet, gateCount, gateThresh]

theorem flag_local_barTaken (d : Dev) (h s : Nat) : flag (barTaken d h s) (barReg R.GAT_BAR_ARRIVED h s) F.GAT_BAR_ARRIVED_LOCAL
    = flag d (barReg R.GAT_BAR_ARRIVED h s) F.GAT_BAR_ARRIVED_LOCAL := by
  rw [barTaken, flag, fget_fsets_other _ _ _ _ (by decide), fget, regsBut_applyShadows d _ _ (barArrived_notMem h s), flag, fget]

theorem flag_apply_barTaken (d : Dev) (h s : Nat) :
    flag (barTaken d h s) (barReg R.GAT_BAR_ARRIVED h s) F.GAT_BAR_ARRIVED_APPLY = false := by
  rw [barTaken, fsets_cons, fsets_cons, fsets_nil, flag, fget_fset_other _ _ _ _ _ (by decide) (by decide),
    fget_fset_self _ _ _ _ (by decide)]
  rfl

/-- An armed slot without arrivals takes its shadows, and its engine waits. -/
theorem barSlotApply_of_waiting {d : Dev} {h s : Nat} (hs : s < 64)
    (harmed : flag d (barReg R.GAT_BAR_ARRIVED h s) F.GAT_BAR_ARRIVED_APPLY = true)
    (hlocal : flag d (barReg R.GAT_BAR_ARRIVED h s) F.GAT_BAR_ARRIVED_LOCAL = false) (hcur : (barSlot d h s).cur = [])
    (hnext : (barSlot d h s).next = []) (hevents : d.barEvents = [])
    (hgate : gateMet d (56 + h) (shadowField d (barReg R.GAT_BAR_CTRL h s) F.GAT_BAR_CTRL_ARRIVE_GATE) = false) :
    barSlotApply d h s = barTaken d h s := by
  have hctrl : fget (barTaken d h s) (barReg R.GAT_BAR_CTRL h s) F.GAT_BAR_CTRL_ARRIVE_GATE
      = shadowField d (barReg R.GAT_BAR_CTRL h s) F.GAT_BAR_CTRL_ARRIVE_GATE := by
    rw [fget, rd_barTaken d h s (by simp [barGroup]), shadowField]
  have hnone : (barTaken d h s).barEvents = [] := by
    rw [barTaken, fsets_barEvents, applyShadows_barEvents, hevents]
  rw [barSlotApply_of_armed harmed hlocal hcur hnext, barEngine, barStep_of_waiting, settleBarriers_of_none hnone]
  · rw [flag_local_barTaken, hlocal]
  · rw [hctrl, gateMet_barTaken d h hs, hgate]


/-! ## Epochs, pages and the model table (R279, R281, R287) -/

theorem ctlClass_ctl {place inst : Nat} (hp : place / 2 ^ 12 % 2 ^ 8 = 0) (hp' : place < 2 ^ 26) (hi : inst < 2 ^ 8) (die : Nat) :
    ctlClass (ctl place die inst) = place / 2 ^ 20 := ctlClass_of_place (ctlPlace_ctl die hp hp' hi)

theorem ctlClass_ctlSel (place die inst n : Nat) : ctlClass (ctlSel place die inst n) = ctlClass (ctl place die inst) := by
  simp only [ctlClass, bits, ctlSel, ctl, pow2, Nat.shiftRight_eq_div_pow]
  omega

theorem ctlClass_modelReg {p : Nat} (hp : p / 2 ^ 12 % 2 ^ 8 = 0 ∧ p < 2 ^ 26) (m : Nat) : ctlClass (modelReg p m) = p / 2 ^ 20 := by
  rw [ctlClass_ctlSel, ctlClass_ctl hp.1 hp.2 (by decide)]

/-- Registers of the model table lie at addresses of their own. -/
theorem modelReg_ne {p q m k : Nat} (hp : p < 2 ^ 32) (hq : q < 2 ^ 32) (h : p ≠ q ∨ m ≠ k) : modelReg p m ≠ modelReg q k := by
  simp only [modelReg, ctlSel, ctl, pow2]
  omega

/-- The classes that hold the ground copies and the page tables: what the release of a page may write. -/
def pageClasses : List Nat := [0x02, 0x10]

/-- Between the two devices registers of the page tables and those of `l` may differ, and the step and its header may not. -/
def PagesBut (l : List Nat) (d e : Dev) : Prop :=
  e.step = d.step ∧ ∀ a, ctlClass a ∉ pageClasses → a ∉ l → rd e a = rd d a

theorem PagesBut.refl (l : List Nat) (d : Dev) : PagesBut l d d := ⟨rfl, fun _ _ _ => rfl⟩

theorem PagesBut.trans {l : List Nat} {d e f : Dev} (h : PagesBut l d e) (h' : PagesBut l e f) : PagesBut l d f :=
  ⟨h'.1.trans h.1, fun a ha hl => (h'.2 a ha hl).trans (h.2 a ha hl)⟩

theorem PagesBut.mono {l l' : List Nat} {d e : Dev} (h : PagesBut l d e) (hl : l ⊆ l') : PagesBut l' d e :=
  ⟨h.1, fun a ha hl' => h.2 a ha fun hmem => hl' (hl hmem)⟩

/-- The serving state stays too. -/
def Released (d e : Dev) : Prop := e.srv = d.srv ∧ PagesBut [] d e

theorem Released.refl (d : Dev) : Released d d := ⟨rfl, PagesBut.refl [] d⟩

theorem Released.trans {d e f : Dev} (h : Released d e) (h' : Released e f) : Released d f :=
  ⟨h'.1.trans h.1, h.2.trans h'.2⟩

theorem released_of_regs {d e : Dev} {a : Nat} (ha : ctlClass a ∈ pageClasses) (hframe : { e with regs := d.regs } = d)
    (hrd : ∀ b, b ≠ a → rd e b = rd d b) : Released d e :=
  ⟨(congrArg Dev.srv hframe :), (congrArg Dev.step hframe :), fun b hb _ => hrd b fun heq => hb (heq ▸ ha)⟩

theorem released_fset {a : Nat} (ha : ctlClass a ∈ pageClasses) (d : Dev) (f : Fld) (v : Nat) : Released d (fset d a f v) :=
  released_of_regs ha rfl fun _ hb => rd_fset_ne d hb f v

theorem released_fsets {a : Nat} (ha : ctlClass a ∈ pageClasses) (d : Dev) (l : List (Fld × Nat)) : Released d (fsets d a l) :=
  released_of_regs ha (fsets_frame d a l) fun _ hb => rd_fsets_ne d hb l

theorem released_fcnt {a : Nat} (ha : ctlClass a ∈ pageClasses) (d : Dev) (f : Fld) (n : Nat) : Released d (fcnt d a f n) :=
  released_of_regs ha (fcnt_frame d a f n) fun _ hb => rd_fcnt_ne d hb f n

theorem class_of_stackReg {place : Nat} (h : place ∈ [R.RSV_PT_ENTRY, R.RSV_REFUSE_CNT, R.RSV_STATUS]) (die : Nat) :
    ctlClass (ctl place die 0) ∈ pageClasses := by
  have hplace : ∀ p ∈ [R.RSV_PT_ENTRY, R.RSV_REFUSE_CNT, R.RSV_STATUS],
      p / 2 ^ 12 % 2 ^ 8 = 0 ∧ p < 2 ^ 26 ∧ p / 2 ^ 20 ∈ pageClasses := by decide
  obtain ⟨hinst, hlt, hclass⟩ := hplace place h
  rwa [ctlClass_ctl hinst hlt (by decide)]

theorem class_of_groundReg (k g : Nat) : ctlClass (ctl (R.CIS_GROUND + 4 * (k % 64 / 2)) (g / 24) (g % 24)) ∈ pageClasses := by
  have hground : R.CIS_GROUND = 0x200100 := rfl
  have hclass : ctlClass (ctl (R.CIS_GROUND + 4 * (k % 64 / 2)) (g / 24) (g % 24)) = 0x02 := by
    rw [ctlClass_ctl (by omega) (by omega) (by omega)]
    omega
  rw [hclass]
  decide

theorem released_countRsvRefusal (d : Dev) (s : Nat) : Released d (countRsvRefusal d s) :=
  released_fcnt (class_of_stackReg (by simp) _) d _ 1

theorem released_applyEntry (d : Dev) (s lp : Nat) (v : Word) : Released d (applyEntry d s lp v) := by
  have hpage : ctlClass (pageReg s lp) ∈ pageClasses := by
    rw [ctlClass_ctlSel]
    exact class_of_stackReg (by simp) _
  have hretired : ∀ e : Dev, Released e (fcnt e (ctl R.RSV_STATUS (48 + s) 0) F.RSV_STATUS_RETIRED 1) := fun e =>
    released_fcnt (class_of_stackReg (by simp) _) e _ 1
  unfold applyEntry
  dsimp only
  split
  · exact released_countRsvRefusal d s
  · split <;> split
    · exact ((released_fsets hpage d _).trans (released_fset hpage _ _ _)).trans (hretired _)
    · exact (released_fsets hpage d _).trans (hretired _)
    · exact (released_fsets hpage d _).trans (released_fset hpage _ _ _)
    · exact released_fsets hpage d _

theorem released_setStack (d : Dev) (s : Nat) (k : Stack) : Released d (setStack d s k) := ⟨rfl, rfl, fun _ _ _ => rfl⟩

theorem released_applyFences (s n : Nat) (d : Dev) : Released d (applyFences s n d) := by
  induction n generalizing d with
  | zero => exact Released.refl d
  | succ n ih =>
    unfold applyFences
    dsimp only
    split
    · exact Released.refl d
    · exact ((released_setStack d s _).trans (released_applyEntry _ s _ _)).trans (ih _)

theorem released_fenceEntry (d : Dev) (s lp : Nat) (v : Word) : Released d (fenceEntry d s lp v) :=
  Released.trans (e := (freshId d).1) ⟨rfl, rfl, fun _ _ _ => rfl⟩
    ((released_setStack _ s _).trans (released_applyFences s _ _))

theorem released_setPage (d : Dev) (p kind refs : Nat) (stepRd stepWr : Bool) : Released d (setPage d p kind refs stepRd stepWr) := by
  unfold setPage
  split
  · exact released_countRsvRefusal d _
  · exact released_fenceEntry d _ _ _

theorem released_freePage (d : Dev) (p : Nat) : Released d (freePage d p) := by
  unfold freePage
  split
  · exact Released.refl d
  · exact released_setPage d p 0 0 false false

theorem released_foldl {α : Type} {f : Dev → α → Dev} (hf : ∀ d x, Released d (f d x)) (l : List α) (d : Dev) :
    Released d (l.foldl f d) :=
  foldl_keeps (I := Released d) (fun e x _ he => he.trans (hf e x)) (Released.refl d)

theorem released_freePageList (d : Dev) (l : List Nat) : Released d (freePageList d l) := released_foldl released_freePage l d

theorem released_unrefPage (d : Dev) (k : Nat) : Released d (unrefPage d k) := by
  unfold unrefPage
  split
  · exact Released.refl d
  · dsimp only
    split
    · exact released_setPage d _ _ _ _ _
    · split
      · split
        · exact released_setPage d _ _ _ _ _
        · exact ((released_setPage d _ _ _ _ _).trans (released_freePageList _ _)).trans
            (released_fset (class_of_groundReg k _) _ _ _)
      · exact released_setPage d _ _ _ _ _

/-- The release of an epoch changes no register but of the ground copies and the page tables, and no model. -/
theorem released_releaseEpoch (d : Dev) (r : EpochRec) : Released d (releaseEpoch d r) :=
  (released_foldl (fun e x => released_unrefPage e x.1) r.scrub d).trans (released_freePageList _ _)

/-- An epoch that was kept for steps in progress goes when no admission pins it (R287). -/
def dropPrev (d : Dev) (m : Nat) : Dev :=
  match (model d m).prev with
  | some r =>
    if pins d m r.epoch = 0 then
      wr (setModel (releaseEpoch d r) m { model d m with prev := none }) (modelReg R.SRV_MT_PREV m) (BitVec.ofNat 32 (pow2 32 - 1))
    else d
  | none => d

/-- A model that is being removed goes when no admission pins it (R287). -/
def endRemoved (d : Dev) (m : Nat) : Dev :=
  if (model d m).removing && (model d m).prev.isNone
      && (((model d m).active.map EpochRec.epoch).map (pins d m)).getD 0 = 0 then
    fset (wr (wr (setModel ((model d m).epochs.foldl releaseEpoch d) m {}) (modelReg R.SRV_MT_EPOCH m)
      (BitVec.ofNat 32 (pow2 32 - 1))) (modelReg R.SRV_MT_LOAD m) 0) (modelReg R.SRV_MT_CTRL m) F.SRV_MT_CTRL_VALID 0
  else d

/-- What a step boundary settles of one model. -/
def settleModel (d : Dev) (m : Nat) : Dev := endRemoved (dropPrev (showStaged d m) m) m

theorem settleModels_eq (d : Dev) :
    settleModels d = showServing (d.srv.models.foldl (fun e x => settleModel e x.1) d) := rfl

/-- The registers of the model table that settling a model writes. -/
def loadRegs (m : Nat) : List Nat := [modelReg R.SRV_MT_LOAD m, srvReg R.SRV_CTRL]

theorem showStaged_spec (d : Dev) (m : Nat) :
    (showStaged d m).srv = d.srv ∧ (showStaged d m).step = d.step ∧ RegsBut d (showStaged d m) (loadRegs m) := by
  have hload : modelReg R.SRV_MT_LOAD m ∈ loadRegs m := by simp [loadRegs]
  have hctrl : srvReg R.SRV_CTRL ∈ loadRegs m := by simp [loadRegs]
  have hshards := fun v => regsBut_fset hload d F.SRV_MT_LOAD_SHARDS v
  have hstate := fun v => (hshards v).trans (regsBut_fset hload _ F.SRV_MT_LOAD_STATE 3)
  unfold showStaged
  split
  · split
    · next hlive =>
      unfold showLoad
      simp only [hlive, if_true]
      split
      · exact ⟨rfl, rfl, hshards _⟩
      · split
        · exact ⟨rfl, rfl, hshards _⟩
        · split
          · exact ⟨rfl, rfl, hstate _⟩
          · exact ⟨rfl, rfl, (hstate _).trans fun a ha => rd_fset_ne _ (ne_of_mem_of_not_mem hctrl ha).symm _ _⟩
    · exact ⟨rfl, rfl, RegsBut.refl d _⟩
  · exact ⟨rfl, rfl, RegsBut.refl d _⟩

theorem dropPrev_of_none {d : Dev} {m : Nat} (h : (model d m).prev = none) : dropPrev d m = d := by
  simp only [dropPrev, h]

theorem endRemoved_of_kept {d : Dev} {m : Nat} (h : (model d m).removing = false) : endRemoved d m = d := by
  simp [endRemoved, h]

theorem model_setModel_self (d : Dev) (m : Nat) (x : Model) : model (setModel d m x) m = x := mgetD_mset_self _ m x _

theorem model_setModel_ne (d : Dev) {m k : Nat} (h : k ≠ m) (x : Model) : model (setModel d m x) k = model d k :=
  mgetD_mset_ne _ h x _

theorem rd_setModel (d : Dev) (m : Nat) (x : Model) (a : Nat) : rd (setModel d m x) a = rd d a := rfl

theorem model_of_srv {d e : Dev} (h : e.srv = d.srv) (m : Nat) : model e m = model d m := by rw [model, h, model]

theorem PagesBut.of_regs {l : List Nat} {d e : Dev} (hstep : e.step = d.step) (h : RegsBut d e l) : PagesBut l d e :=
  ⟨hstep, fun a _ => h a⟩

theorem Released.pagesBut {d e : Dev} (h : Released d e) (l : List Nat) : PagesBut l d e := h.2.mono (List.nil_subset l)

/-- Of a model only what it keeps of an epoch before the active one changes. -/
theorem dropPrev_spec (d : Dev) (m : Nat) :
    PagesBut [modelReg R.SRV_MT_PREV m] d (dropPrev d m) ∧ ∀ k, { model (dropPrev d m) k with prev := (model d k).prev } = model d k := by
  unfold dropPrev
  split
  · next r _ =>
    split
    · obtain hrel := released_releaseEpoch d r
      have hpages : PagesBut [modelReg R.SRV_MT_PREV m] (releaseEpoch d r) (wr (setModel (releaseEpoch d r) m
          { model d m with prev := none }) (modelReg R.SRV_MT_PREV m) (BitVec.ofNat 32 (pow2 32 - 1))) :=
        ⟨rfl, fun a _ ha => rd_wr_ne _ (by simpa using ha) _⟩
      refine ⟨(hrel.pagesBut _).trans hpages, fun k => ?_⟩
      change { model (setModel (releaseEpoch d r) m { model d m with prev := none }) k with prev := (model d k).prev } = model d k
      by_cases hk : k = m
      · subst hk
        rw [model_setModel_self]
      · rw [model_setModel_ne _ hk, model_of_srv hrel.1]
    · exact ⟨PagesBut.refl _ d, fun _ => rfl⟩
  · exact ⟨PagesBut.refl _ d, fun _ => rfl⟩

/-- The registers that the end of a model's removal writes. -/
def removalRegs (m : Nat) : List Nat := [modelReg R.SRV_MT_EPOCH m, modelReg R.SRV_MT_LOAD m, modelReg R.SRV_MT_CTRL m]

theorem endRemoved_spec (d : Dev) (m : Nat) :
    PagesBut (removalRegs m) d (endRemoved d m) ∧ ∀ k ≠ m, model (endRemoved d m) k = model d k := by
  unfold endRemoved
  split
  · have hrel : Released d ((model d m).epochs.foldl releaseEpoch d) := released_foldl released_releaseEpoch _ d
    refine ⟨(hrel.pagesBut _).trans ⟨rfl, fun a _ ha => ?_⟩, fun k hk => ?_⟩
    · obtain ⟨hepoch, hload, hctrl⟩ : a ≠ modelReg R.SRV_MT_EPOCH m ∧ a ≠ modelReg R.SRV_MT_LOAD m ∧ a ≠ modelReg R.SRV_MT_CTRL m := by
        simpa [removalRegs] using ha
      rw [rd_fset_ne _ hctrl, rd_wr_ne _ hload, rd_wr_ne _ hepoch]
      rfl
    · change model (setModel ((model d m).epochs.foldl releaseEpoch d) m {}) k = model d k
      rw [model_setModel_ne _ hk, model_of_srv hrel.1]
  · exact ⟨PagesBut.refl _ d, fun _ _ => rfl⟩

/-- The counts that software is shown of the model table. -/
def pinRegs (m : Nat) : List Nat := [modelReg R.SRV_MT_PIN_ACT m, modelReg R.SRV_MT_PIN_PREV m]

/-- What every write of a register field keeps, the counts that software is shown keep. -/
theorem showServing_keeps {I : Dev → Prop} (hset : ∀ e a f v, I e → I (fset e a f v)) {d : Dev} (hd : I d) : I (showServing d) := by
  unfold showServing
  refine foldl_keeps (I := I) (fun e _ _ he => hset _ _ _ _ (hset _ _ _ _ he)) (hset _ _ _ _ ?_)
  rw [fsets_cons, fsets_cons, fsets_nil]
  exact hset _ _ _ _ (hset _ _ _ _ hd)

theorem showServing_frame (d : Dev) : { showServing d with regs := d.regs } = d :=
  showServing_keeps (I := fun e => { e with regs := d.regs } = d) (fun _ _ _ _ he => he) rfl

theorem showServing_step (d : Dev) : (showServing d).step = d.step := (congrArg Dev.step (showServing_frame d) :)

theorem showServing_srv (d : Dev) : (showServing d).srv = d.srv := (congrArg Dev.srv (showServing_frame d) :)

theorem rd_showServing (d : Dev) {a : Nat} (hstatus : a ≠ srvReg R.SRV_STATUS) (hconv : a ≠ srvReg R.SRV_CONV)
    (hpins : ∀ m, a ∉ pinRegs m) : rd (showServing d) a = rd d a := by
  unfold showServing
  refine foldl_keeps (I := fun e => rd e a = rd d a) (fun e x _ he => ?_) ?_
  · obtain ⟨hact, hprev⟩ : a ≠ modelReg R.SRV_MT_PIN_ACT x.1 ∧ a ≠ modelReg R.SRV_MT_PIN_PREV x.1 := by
      simpa [pinRegs] using hpins x.1
    rw [rd_fset_ne _ hprev, rd_fset_ne _ hact, he]
  · rw [rd_fset_ne _ hconv, rd_fsets_ne _ hstatus]

/-! ### What settling the models leaves as it is -/

/-- Class 0x20 holds all registers of serving. -/
theorem not_mem_of_class {a : Nat} {l : List Nat} (hl : ∀ b ∈ l, ctlClass b = 0x20) (ha : ctlClass a ≠ 0x20) : a ∉ l :=
  fun h => ha (hl a h)

theorem class_of_modelReg {p : Nat} (hp : p ∈ [R.SRV_MT_EPOCH, R.SRV_MT_CTRL, R.SRV_MT_PREV, R.SRV_MT_PIN_ACT, R.SRV_MT_PIN_PREV,
    R.SRV_MT_LOAD]) (m : Nat) : ctlClass (modelReg p m) = 0x20 := by
  have hplace : ∀ q ∈ [R.SRV_MT_EPOCH, R.SRV_MT_CTRL, R.SRV_MT_PREV, R.SRV_MT_PIN_ACT, R.SRV_MT_PIN_PREV, R.SRV_MT_LOAD],
      (q / 2 ^ 12 % 2 ^ 8 = 0 ∧ q < 2 ^ 26) ∧ q / 2 ^ 20 = 0x20 := by decide
  obtain ⟨hat, hclass⟩ := hplace p hp
  rw [ctlClass_modelReg hat, hclass]

theorem class_of_srvReg : ∀ p ∈ [R.SRV_STATUS, R.SRV_CONV, R.SRV_CTRL], ctlClass (srvReg p) = 0x20 := by decide

theorem class_of_loadRegs (m : Nat) : ∀ b ∈ loadRegs m, ctlClass b = 0x20 := by
  simp only [loadRegs, List.forall_mem_cons]
  exact ⟨class_of_modelReg (by simp) m, class_of_srvReg _ (by simp), by simp⟩

theorem class_of_removalRegs (m : Nat) : ∀ b ∈ removalRegs m, ctlClass b = 0x20 := by
  simp only [removalRegs, List.forall_mem_cons]
  exact ⟨class_of_modelReg (by simp) m, class_of_modelReg (by simp) m, class_of_modelReg (by simp) m, by simp⟩

theorem class_of_pinRegs (m : Nat) : ∀ b ∈ pinRegs m, ctlClass b = 0x20 := by
  simp only [pinRegs, List.forall_mem_cons]
  exact ⟨class_of_modelReg (by simp) m, class_of_modelReg (by simp) m, by simp⟩

theorem rd_showServing_of_class (d : Dev) {a : Nat} (ha : ctlClass a ≠ 0x20) : rd (showServing d) a = rd d a :=
  rd_showServing d (fun h => ha (h ▸ class_of_srvReg _ (by simp))) (fun h => ha (h ▸ class_of_srvReg _ (by simp)))
    fun m => not_mem_of_class (class_of_pinRegs m) ha

/-- Outside the page tables, the ground copies and serving no register changes, and no header. -/
def OutsideServing (d e : Dev) : Prop := e.step = d.step ∧ ∀ a, ctlClass a ∉ 0x20 :: pageClasses → rd e a = rd d a

theorem PagesBut.outside {l : List Nat} {d e : Dev} (h : PagesBut l d e) (hl : ∀ b ∈ l, ctlClass b = 0x20) :
    OutsideServing d e := ⟨h.1, fun a ha => by
  obtain ⟨hserving, hpages⟩ := not_or.1 (mt List.mem_cons.2 ha)
  exact h.2 a hpages (not_mem_of_class hl hserving)⟩

theorem OutsideServing.trans {d e f : Dev} (h : OutsideServing d e) (h' : OutsideServing e f) : OutsideServing d f :=
  ⟨h'.1.trans h.1, fun a ha => (h'.2 a ha).trans (h.2 a ha)⟩

theorem showStaged_pagesBut (d : Dev) (m : Nat) : PagesBut (loadRegs m) d (showStaged d m) :=
  have ⟨_, hstep, hregs⟩ := showStaged_spec d m
  PagesBut.of_regs hstep hregs

theorem outside_settleModel (d : Dev) (m : Nat) : OutsideServing d (settleModel d m) :=
  (((showStaged_pagesBut d m).outside (class_of_loadRegs m)).trans ((dropPrev_spec _ m).1.outside
    (by simp only [List.forall_mem_singleton]; exact class_of_modelReg (by simp) m))).trans
    ((endRemoved_spec _ m).1.outside (class_of_removalRegs m))

theorem outside_settleModels (d : Dev) : OutsideServing d (settleModels d) := by
  have hfold : OutsideServing d (d.srv.models.foldl (fun e x => settleModel e x.1) d) :=
    foldl_keeps (I := OutsideServing d) (fun e x _ he => he.trans (outside_settleModel e x.1)) ⟨rfl, fun _ _ => rfl⟩
  rw [settleModels_eq]
  exact hfold.trans ⟨showServing_step _, fun a ha =>
    rd_showServing_of_class _ fun h => ha (h ▸ List.mem_cons_self ..)⟩

theorem mem_of_mget {α : Type} {l : SMap α} {k : Nat} {v : α} (h : mget l k = some v) : (k, v) ∈ l := by
  induction l with
  | nil => cases h
  | cons x l ih =>
    obtain ⟨i, y⟩ := x
    rw [mget] at h
    split at h
    · next hk =>
      subst hk
      obtain rfl := Option.some.inj h
      exact List.mem_cons_self ..
    · exact List.mem_cons_of_mem _ (ih h)

theorem model_of_settled {d : Dev} (h : ModelsSettled d) (m : Nat) : (model d m).prev = none ∧ (model d m).removing = false := by
  rw [model, mgetD]
  cases hx : mget d.srv.models m with
  | none => exact ⟨rfl, rfl⟩
  | some x => exact h _ (mem_of_mget hx)

/-- With no epoch kept and no removal in progress only registers of serving change. -/
theorem rd_settleModels_of_settled {d : Dev} (h : ModelsSettled d) {a : Nat} (ha : ctlClass a ≠ 0x20) :
    rd (settleModels d) a = rd d a := by
  have hfold : (d.srv.models.foldl (fun e x => settleModel e x.1) d).srv = d.srv
      ∧ rd (d.srv.models.foldl (fun e x => settleModel e x.1) d) a = rd d a := by
    refine foldl_keeps (I := fun e => e.srv = d.srv ∧ rd e a = rd d a) (fun e x _ he => ?_) ⟨rfl, rfl⟩
    obtain ⟨hsrv, hrd⟩ := he
    obtain ⟨hsrv', _, hregs⟩ := showStaged_spec e x.1
    obtain ⟨hprev, hkept⟩ := model_of_settled h x.1
    have hmodel : model (showStaged e x.1) x.1 = model d x.1 := model_of_srv (hsrv'.trans hsrv) x.1
    rw [settleModel, dropPrev_of_none (by rw [hmodel, hprev]), endRemoved_of_kept (by rw [hmodel, hkept])]
    exact ⟨hsrv'.trans hsrv, (hregs a (not_mem_of_class (class_of_loadRegs _) ha)).trans hrd⟩
  rw [settleModels_eq, rd_showServing_of_class _ ha, hfold.2]

/-- Settling other models, and the counts, leave a model that is neither being removed nor staged active, and its group. -/
def ActiveKept (m : Nat) (d e : Dev) : Prop :=
  (model e m).active = (model d m).active ∧ (model e m).staged = none ∧ (model e m).removing = false
    ∧ ∀ r ∈ modelReg R.SRV_MT_APPLY m :: modelGroup m, rd e r = rd d r

/-- Where the registers of a model's group stand, with the one that arms it. -/
def groupPlaces : List Nat := [R.SRV_MT_APPLY, R.SRV_MT_EPOCH, R.SRV_MT_PROG_LO, R.SRV_MT_PROG_HI, R.SRV_MT_CTRL]

theorem place_of_modelGroup {m r : Nat} (hr : r ∈ modelReg R.SRV_MT_APPLY m :: modelGroup m) : ∃ p ∈ groupPlaces, modelReg p m = r :=
  List.mem_map.1 hr

/-- The registers of a model's group are not those that settling writes of another model, nor the counts. -/
theorem group_ne {m k q : Nat} (hq : q < 2 ^ 32) {r : Nat} (hr : r ∈ modelReg R.SRV_MT_APPLY m :: modelGroup m)
    (h : m ≠ k ∨ q ∉ groupPlaces) : r ≠ modelReg q k := by
  obtain ⟨p, hp, rfl⟩ := place_of_modelGroup hr
  have hplaces : ∀ p ∈ groupPlaces, p < 2 ^ 32 := by decide
  exact modelReg_ne (hplaces p hp) hq (h.symm.imp_left (ne_of_mem_of_not_mem hp))

theorem group_class {m r : Nat} (hr : r ∈ modelReg R.SRV_MT_APPLY m :: modelGroup m) : ctlClass r ∉ pageClasses := by
  obtain ⟨p, hp, rfl⟩ := place_of_modelGroup hr
  have hplaces : ∀ p ∈ groupPlaces,
      (p / 2 ^ 12 % 2 ^ 8 = 0 ∧ p < 2 ^ 26) ∧ p / 2 ^ 20 ∉ pageClasses := by decide
  obtain ⟨hat, hclass⟩ := hplaces p hp
  rwa [ctlClass_modelReg hat]

theorem group_ne_srvReg {m r : Nat} (hr : r ∈ modelReg R.SRV_MT_APPLY m :: modelGroup m) {q : Nat} (hq : q < 2 ^ 32) :
    r ≠ srvReg q := by
  obtain ⟨p, _, rfl⟩ := place_of_modelGroup hr
  simp only [modelReg, srvReg, ctlSel, ctl, pow2]
  omega

theorem group_notMem_loadRegs {m r : Nat} (hr : r ∈ modelReg R.SRV_MT_APPLY m :: modelGroup m) (k : Nat) : r ∉ loadRegs k := by
  simp only [loadRegs, List.mem_cons, List.not_mem_nil, or_false, not_or]
  exact ⟨group_ne (by decide) hr (.inr (by decide)), group_ne_srvReg hr (by decide)⟩

theorem group_notMem_removalRegs {m r : Nat} (hr : r ∈ modelReg R.SRV_MT_APPLY m :: modelGroup m) {k : Nat} (hk : m ≠ k) :
    r ∉ removalRegs k := by
  simp only [removalRegs, List.mem_cons, List.not_mem_nil, or_false, not_or]
  exact ⟨group_ne (by decide) hr (.inl hk), group_ne (by decide) hr (.inl hk), group_ne (by decide) hr (.inl hk)⟩

theorem ActiveKept.trans {m : Nat} {d e f : Dev} (h : ActiveKept m d e) (h' : ActiveKept m e f) : ActiveKept m d f := by
  obtain ⟨hactive, _, _, hregs⟩ := h
  obtain ⟨hactive', hstaged, hkept, hregs'⟩ := h'
  exact ⟨hactive'.trans hactive, hstaged, hkept, fun r hr => (hregs' r hr).trans (hregs r hr)⟩

theorem activeKept_settleModel {d : Dev} {m : Nat} (hstaged : (model d m).staged = none) (hkept : (model d m).removing = false)
    (k : Nat) : ActiveKept m d (settleModel d k) := by
  have hshow : ActiveKept m d (showStaged d k) := by
    obtain ⟨hsrv, _, hregs⟩ := showStaged_spec d k
    rw [ActiveKept, model_of_srv hsrv]
    exact ⟨rfl, hstaged, hkept, fun r hr => hregs r (group_notMem_loadRegs hr k)⟩
  have hdrop : ActiveKept m (showStaged d k) (dropPrev (showStaged d k) k) := by
    obtain ⟨_, hstaged', hkept', _⟩ := hshow
    obtain ⟨hpages, hmodel⟩ := dropPrev_spec (showStaged d k) k
    refine ⟨(congrArg Model.active (hmodel m) :), (congrArg Model.staged (hmodel m) :).trans hstaged',
      (congrArg Model.removing (hmodel m) :).trans hkept', fun r hr => hpages.2 r (group_class hr) ?_⟩
    simpa using group_ne (by decide) hr (.inr (by decide))
  have hend : ActiveKept m (dropPrev (showStaged d k) k) (settleModel d k) := by
    obtain ⟨_, hstaged', hkept', _⟩ := hdrop
    by_cases hk : m = k
    · subst hk
      rw [settleModel, endRemoved_of_kept hkept']
      exact ⟨rfl, hstaged', hkept', fun _ _ => rfl⟩
    · obtain ⟨hpages, hmodel⟩ := endRemoved_spec (dropPrev (showStaged d k) k) k
      rw [settleModel, ActiveKept, hmodel m hk]
      exact ⟨rfl, hstaged', hkept', fun r hr => hpages.2 r (group_class hr) (group_notMem_removalRegs hr hk)⟩
  exact (hshow.trans hdrop).trans hend

theorem activeKept_settleModels {d : Dev} {m : Nat} (hstaged : (model d m).staged = none) (hkept : (model d m).removing = false) :
    ActiveKept m d (settleModels d) := by
  have hfold : ActiveKept m d (d.srv.models.foldl (fun e x => settleModel e x.1) d) :=
    foldl_keeps (I := ActiveKept m d) (fun e x _ he => he.trans (activeKept_settleModel he.2.1 he.2.2.1 x.1))
      ⟨rfl, hstaged, hkept, fun _ _ => rfl⟩
  refine hfold.trans ?_
  obtain ⟨_, hstaged', hkept', _⟩ := hfold
  rw [settleModels_eq, ActiveKept, model_of_srv (showServing_srv _)]
  refine ⟨rfl, hstaged', hkept', fun r hr => rd_showServing _ (group_ne_srvReg hr (by decide)) (group_ne_srvReg hr (by decide))
    fun k => ?_⟩
  simp only [pinRegs, List.mem_cons, List.not_mem_nil, or_false, not_or]
  exact ⟨group_ne (by decide) hr (.inr (by decide)), group_ne (by decide) hr (.inr (by decide))⟩

/-! ## Placements (R165) -/

/-- A die's placement group as it applies. -/
def placeTaken (d : Dev) (die : Nat) : Dev :=
  fsets (applyShadows d (placementGroup die)) (ctl R.DIE_PLACE_APPLY die 0) [(F.DIE_PLACE_APPLY_APPLY, 0), (F.DIE_PLACE_APPLY_PEND, 0)]

/-- A waiting header in place, before the models are settled. -/
def headerPlaced (d : Dev) (h : StepHdr) : Dev :=
  d.srv.tagLines.foldl tagTiles { d with step := { d.step with hdr := h, nextHdr := none } }

theorem placementApply_of_armed {d : Dev} {die : Nat}
    (harmed : flag d (ctl R.DIE_PLACE_APPLY die 0) F.DIE_PLACE_APPLY_APPLY = true) (hidle : d.step.running = false) :
    placementApply d die
      = if computeDies.any fun x => flag (placeTaken d die) (ctl R.DIE_PLACE_APPLY x 0) F.DIE_PLACE_APPLY_APPLY then placeTaken d die
        else (placeTaken d die).step.nextHdr.elim (placeTaken d die) fun h => settleModels (headerPlaced (placeTaken d die) h) := by
  have hgo : ¬(!flag d (ctl R.DIE_PLACE_APPLY die 0) F.DIE_PLACE_APPLY_APPLY || !atBoundary d) = true := by
    simp [harmed, atBoundary, hidle]
  unfold placementApply placeTaken headerPlaced
  rw [if_neg hgo]
  generalize placementGroup die = l, computeDies = dies
  dsimp only
  generalize fsets (applyShadows d l) _ _ = e
  refine if_congr Iff.rfl rfl ?_
  cases e.step.nextHdr with
  | none => rfl
  | some h => rfl

/-- The registers of a placement group are of class 0 or 1, and none is the one that arms it. -/
theorem place_of_group {die a : Nat} (ha : a ∈ placementGroup die) :
    ctlClass a ∈ [0, 1] ∧ ctlPlace a ≠ R.DIE_PLACE_APPLY := by
  have hslot : ∀ p ∈ [R.SEQ_US_CTRL, R.SEQ_US_PS, R.SEQ_US_CIS, R.SEQ_US_WIDE, R.SEQ_US_NARROW, R.SEQ_US_ENTRY],
      0x100040 ≤ p ∧ p < 0x100080 := by decide
  have harm : R.DIE_PLACE_APPLY = 0x3F0 := rfl
  have hat : ∃ place inst, a = ctl place die inst ∧ inst < 24 ∧ (0x400 ≤ place ∧ place < 0x800 ∨ 0x100040 ≤ place ∧ place < 0x100800) := by
    rcases List.mem_append.1 ha with ha | ha
    · obtain ⟨b, hb, s, hs, v, hv, rfl⟩ : ∃ b ∈ dieBlocks, ∃ s ∈ List.range 4, ∃ v ∈ slotRegs die b s 0 {}, v.1 = a := by
        simpa only [List.mem_flatMap, List.mem_map] using ha
      obtain ⟨p, hp, hv⟩ : ∃ p ∈ [R.SEQ_US_CTRL, R.SEQ_US_PS, R.SEQ_US_CIS, R.SEQ_US_WIDE, R.SEQ_US_NARROW, R.SEQ_US_ENTRY],
          ctl (p + 0x20 * s) die b = v.1 := by
        have := List.mem_map_of_mem (f := Prod.fst) hv
        simp only [slotRegs, List.map_cons, List.map_nil] at this
        simpa only [List.mem_cons, List.not_mem_nil, or_false, exists_eq_or_imp, exists_eq_left, eq_comm] using this
      have := hslot p hp
      have := List.mem_range.1 hs
      exact ⟨_, b, hv.symm, List.mem_range.1 hb, .inr (by omega)⟩
    · obtain ⟨n, hn, hv⟩ := List.mem_flatMap.1 ha
      have := List.mem_range.1 hn
      have hA : R.DIE_HOME_A = 0x400 := rfl
      have hB : R.DIE_HOME_B = 0x404 := rfl
      simp only [List.mem_cons, List.not_mem_nil, or_false] at hv
      rcases hv with rfl | rfl
      · exact ⟨_, 0, rfl, by decide, .inl (by omega)⟩
      · exact ⟨_, 0, rfl, by decide, .inl (by omega)⟩
  obtain ⟨place, inst, rfl, hinst, hplace⟩ := hat
  rw [ctlClass_ctl (by omega) (by omega) (by omega), ctlPlace_ctl die (by omega) (by omega) (by omega)]
  refine ⟨?_, by omega⟩
  simp only [List.mem_cons, List.not_mem_nil, or_false]
  omega

theorem ctlPlace_placeReg (die : Nat) : ctlPlace (ctl R.DIE_PLACE_APPLY die 0) = R.DIE_PLACE_APPLY :=
  ctlPlace_ctl die (by decide) (by decide) (by decide)

theorem placeReg_notMem (x die : Nat) : ctl R.DIE_PLACE_APPLY x 0 ∉ placementGroup die := fun h =>
  (place_of_group h).2 (ctlPlace_placeReg x)

theorem rd_placeTaken (d : Dev) {die a : Nat} (ha : a ∈ placementGroup die) : rd (placeTaken d die) a = shadowOf d a := by
  rw [placeTaken, rd_fsets_ne _ (ne_of_mem_of_not_mem ha (placeReg_notMem die die)), rd_applyShadows d ha]

theorem regsBut_placeTaken (d : Dev) (die : Nat) :
    RegsBut d (placeTaken d die) (ctl R.DIE_PLACE_APPLY die 0 :: placementGroup die) := fun a ha => by
  obtain ⟨hne, hgroup⟩ := not_or.1 (mt List.mem_cons.2 ha)
  rw [placeTaken, rd_fsets_ne _ hne, regsBut_applyShadows d _ a hgroup]

theorem flag_placeTaken (d : Dev) (die : Nat) :
    flag (placeTaken d die) (ctl R.DIE_PLACE_APPLY die 0) F.DIE_PLACE_APPLY_APPLY = false := by
  rw [placeTaken, fsets_cons, fsets_cons, fsets_nil, flag, fget_fset_other _ _ _ _ _ (by decide) (by decide),
    fget_fset_self _ _ _ _ (by decide)]
  rfl

theorem flag_placeTaken_ne (d : Dev) {x die : Nat} (h : x ≠ die) :
    flag (placeTaken d die) (ctl R.DIE_PLACE_APPLY x 0) F.DIE_PLACE_APPLY_APPLY
      = flag d (ctl R.DIE_PLACE_APPLY x 0) F.DIE_PLACE_APPLY_APPLY := by
  have hne : ctl R.DIE_PLACE_APPLY x 0 ≠ ctl R.DIE_PLACE_APPLY die 0 := by
    simp only [ctl, pow2]
    omega
  rw [flag, fget, regsBut_placeTaken d die _ (List.mem_cons.not.2 (not_or.2 ⟨hne, placeReg_notMem x die⟩)), flag, fget]

theorem placeTaken_frame (d : Dev) (die : Nat) : (placeTaken d die).step = d.step ∧ (placeTaken d die).srv = d.srv := by
  rw [placeTaken, fsets_step, fsets_srv]
  exact ⟨applyShadows_step d _, applyShadows_srv d _⟩

/-- Tags change nothing but program stores. -/
theorem tagTiles_frame (d : Dev) (l : TagLines) : { tagTiles d l with blocks := d.blocks } = d := by
  unfold tagTiles
  refine foldl_keeps (I := fun e : Dev => { e with blocks := d.blocks } = d) (fun e s _ he => ?_) rfl
  split
  · exact he
  · refine foldl_keeps (I := fun e : Dev => { e with blocks := d.blocks } = d) (fun e i _ he => ?_) he
    split
    · exact he
    · split <;> exact he

theorem headerPlaced_frame (d : Dev) (h : StepHdr) :
    { headerPlaced d h with blocks := d.blocks } = { d with step := { d.step with hdr := h, nextHdr := none } } :=
  foldl_keeps (I := fun e : Dev => { e with blocks := d.blocks } = { d with step := { d.step with hdr := h, nextHdr := none } })
    (fun e l _ he => by
      calc { tagTiles e l with blocks := d.blocks } = { ({ tagTiles e l with blocks := e.blocks } : Dev) with blocks := d.blocks } := rfl
        _ = _ := by rw [tagTiles_frame]; exact he) rfl

theorem headerPlaced_step (d : Dev) (h : StepHdr) : (headerPlaced d h).step = { d.step with hdr := h, nextHdr := none } :=
  (congrArg Dev.step (headerPlaced_frame d h) :)

theorem headerPlaced_srv (d : Dev) (h : StepHdr) : (headerPlaced d h).srv = d.srv := (congrArg Dev.srv (headerPlaced_frame d h) :)

theorem rd_headerPlaced (d : Dev) (h : StepHdr) (a : Nat) : rd (headerPlaced d h) a = rd d a := by
  rw [rd, (congrArg Dev.regs (headerPlaced_frame d h) :), rd]

/-- After a placement applies: its device, or one in which a waiting header is in place and the models are settled. -/
theorem placementApply_cases {d : Dev} {die : Nat}
    (harmed : flag d (ctl R.DIE_PLACE_APPLY die 0) F.DIE_PLACE_APPLY_APPLY = true) (hidle : d.step.running = false) :
    placementApply d die = placeTaken d die
        ∧ (d.step.nextHdr = none ∨ ∃ x ∈ computeDies, x ≠ die ∧ flag d (ctl R.DIE_PLACE_APPLY x 0) F.DIE_PLACE_APPLY_APPLY = true)
      ∨ ∃ h, d.step.nextHdr = some h ∧ placementApply d die = settleModels (headerPlaced (placeTaken d die) h) := by
  rw [placementApply_of_armed harmed hidle, (placeTaken_frame d die).1]
  split
  · next hany =>
    obtain ⟨x, hx, hflag⟩ := List.any_eq_true.1 hany
    have hne : x ≠ die := fun heq => by
      rw [heq, flag_placeTaken] at hflag
      cases hflag
    exact .inl ⟨rfl, .inr ⟨x, hx, hne, by rwa [flag_placeTaken_ne d hne] at hflag⟩⟩
  · cases hnext : d.step.nextHdr with
    | none => exact .inl ⟨Option.elim_none _ _, .inl rfl⟩
    | some h => exact .inr ⟨h, rfl, Option.elim_some _ _ _⟩

theorem outside_placementApply {d : Dev} {die : Nat}
    (harmed : flag d (ctl R.DIE_PLACE_APPLY die 0) F.DIE_PLACE_APPLY_APPLY = true) (hidle : d.step.running = false) {a : Nat}
    (ha : ctlClass a ∉ 0x20 :: pageClasses) : rd (placementApply d die) a = rd (placeTaken d die) a := by
  obtain ⟨happly, _⟩ | ⟨h, _, happly⟩ := placementApply_cases harmed hidle
  · rw [happly]
  · rw [happly, (outside_settleModels _).2 a ha, rd_headerPlaced]

/-- Without a header that waits, or with the models settled, no register but the model table's changes beyond the group. -/
theorem rd_placementApply {d : Dev} {die : Nat}
    (harmed : flag d (ctl R.DIE_PLACE_APPLY die 0) F.DIE_PLACE_APPLY_APPLY = true) (hidle : d.step.running = false) {a : Nat}
    (hwait : d.step.nextHdr = none ∨ (ModelsSettled d ∧ ctlClass a ≠ 0x20)) :
    rd (placementApply d die) a = rd (placeTaken d die) a := by
  obtain ⟨happly, _⟩ | ⟨h, hnext, happly⟩ := placementApply_cases harmed hidle
  · rw [happly]
  · obtain ⟨hsettled, ha⟩ := hwait.resolve_left (by simp [hnext])
    have hsrv : (headerPlaced (placeTaken d die) h).srv = d.srv :=
      (headerPlaced_srv _ h).trans (placeTaken_frame d die).2
    rw [happly, rd_settleModels_of_settled (by rwa [ModelsSettled, hsrv]) ha, rd_headerPlaced]

/-- The last die to apply puts the waiting header in place. -/
theorem step_placementApply {d : Dev} {die : Nat}
    (harmed : flag d (ctl R.DIE_PLACE_APPLY die 0) F.DIE_PLACE_APPLY_APPLY = true) (hidle : d.step.running = false)
    (hlast : ∀ x ∈ computeDies, x ≠ die → flag d (ctl R.DIE_PLACE_APPLY x 0) F.DIE_PLACE_APPLY_APPLY = false) {h : StepHdr}
    (hnext : d.step.nextHdr = some h) : (placementApply d die).step = { d.step with hdr := h, nextHdr := none } := by
  obtain ⟨_, hnone | ⟨x, hx, hne, hflag⟩⟩ | ⟨h', hnext', happly⟩ := placementApply_cases harmed hidle
  · simp [hnext] at hnone
  · simp [hlast x hx hne] at hflag
  · obtain rfl : h' = h := Option.some.inj (hnext'.symm.trans hnext)
    rw [happly, (outside_settleModels _).1, headerPlaced_step, (placeTaken_frame d die).1]

/-! ## The model table (R287) -/

/-- The alternative that an epoch takes: the one its predecessor does not use, or as SRV_MT_CTRL says. -/
def nextAlt (d : Dev) (m : Nat) : Bool :=
  ((model d m).active.map fun r => !r.alt).getD (bit (shadowOf d (modelReg R.SRV_MT_CTRL m)).toNat 1)

/-- A model's group as it applies, with the alternative that the epoch takes. -/
def modelGroupTaken (d : Dev) (m : Nat) : Dev :=
  fset (fsets (applyShadows d (modelGroup m)) (modelReg R.SRV_MT_APPLY m) [(F.SRV_MT_APPLY_APPLY, 0), (F.SRV_MT_APPLY_PEND, 0)])
    (modelReg R.SRV_MT_CTRL m) F.SRV_MT_CTRL_ALT (b2n (nextAlt d m))

/-- A staged epoch as it becomes active. -/
def epochActive (d : Dev) (m : Nat) (x : EpochRec) : EpochRec :=
  { x with live := true, program := modelProgram (modelGroupTaken d m) m, alt := nextAlt d m }

/-- A model as its staged epoch becomes active. -/
def modelActive (d : Dev) (m : Nat) (x : EpochRec) : Model :=
  { model d m with staged := none, active := some (epochActive d m x), prev := (model d m).active }

theorem modelArm_notMem (m : Nat) : modelReg R.SRV_MT_APPLY m ∉ modelGroup m := by
  simp [modelGroup, modelReg, ctlSel, ctl]

theorem modelCtrl_mem (m : Nat) : modelReg R.SRV_MT_CTRL m ∈ modelGroup m := by simp [modelGroup]

theorem rd_armCleared (d : Dev) {m r : Nat} (hr : r ∈ modelGroup m) (fs : List (Fld × Nat)) :
    rd (fsets (applyShadows d (modelGroup m)) (modelReg R.SRV_MT_APPLY m) fs) r = shadowOf d r := by
  rw [rd_fsets_ne _ (ne_of_mem_of_not_mem hr (modelArm_notMem m)), rd_applyShadows d hr]

theorem flag_alt_eq_bit (e : Dev) (a : Nat) : flag e a F.SRV_MT_CTRL_ALT = bit (rd e a).toNat 1 := rfl

theorem modelApply_of_placed {d : Dev} {m : Nat} {t : Option Nat} {x : EpochRec}
    (harmed : flag d (modelReg R.SRV_MT_APPLY m) F.SRV_MT_APPLY_APPLY = true) (hidle : d.step.running = false)
    (hstaged : (model d m).staged = some x) (hprev : (model d m).prev = none)
    (hplaced : ((x.stages.zip x.manifest.shards).all fun p => p.1 == .placed || !needed x p.2) = true) :
    modelApply d m t = settleModels (wr (setModel (modelGroupTaken d m) m (modelActive d m x)) (modelReg R.SRV_MT_PREV m)
      (BitVec.ofNat 32 (((model d m).active.map EpochRec.epoch).getD (pow2 32 - 1)))) := by
  have hgo : ¬(!flag d (modelReg R.SRV_MT_APPLY m) F.SRV_MT_APPLY_APPLY || !atBoundary d) = true := by
    simp [harmed, atBoundary, hidle]
  have hplaced' : ¬(!(x.stages.zip x.manifest.shards).all fun p => p.1 == .placed || !needed x p.2) = true := by simp [hplaced]
  have hmodel : ∀ e : Dev, e.srv = d.srv → (model e m).staged = some x ∧ (model e m).prev = none ∧ model e m = model d m :=
    fun e he => by rw [model_of_srv he]; exact ⟨hstaged, hprev, rfl⟩
  obtain ⟨hstaged', hprev', hsame⟩ := hmodel (fsets (applyShadows d (modelGroup m)) (modelReg R.SRV_MT_APPLY m)
    [(F.SRV_MT_APPLY_APPLY, 0), (F.SRV_MT_APPLY_PEND, 0)]) (by rw [fsets_srv, applyShadows_srv])
  unfold modelApply
  rw [if_neg hgo]
  dsimp only
  rw [hstaged']
  dsimp only
  rw [if_neg hplaced', hprev', flag_alt_eq_bit, rd_armCleared d (modelCtrl_mem m), hsame]
  rfl

theorem rd_modelGroupTaken_ne (d : Dev) {m r : Nat} (hr : r ∈ modelGroup m) (hne : r ≠ modelReg R.SRV_MT_CTRL m) :
    rd (modelGroupTaken d m) r = shadowOf d r := by
  rw [modelGroupTaken, rd_fset_ne _ hne, rd_armCleared d hr]

theorem rd_modelGroupTaken_ctrl (d : Dev) (m : Nat) : rd (modelGroupTaken d m) (modelReg R.SRV_MT_CTRL m)
    = BitVec.ofNat 32 (setBits (shadowOf d (modelReg R.SRV_MT_CTRL m)).toNat 1 1 (b2n (nextAlt d m))) := by
  rw [modelGroupTaken, fset, rd_wr_self, rd_armCleared d (modelCtrl_mem m)]

theorem flag_modelGroupTaken (d : Dev) (m : Nat) :
    flag (modelGroupTaken d m) (modelReg R.SRV_MT_APPLY m) F.SRV_MT_APPLY_APPLY = false := by
  rw [modelGroupTaken, fsets_cons, fsets_cons, fsets_nil, flag,
    fget_fset_ne _ (ne_of_mem_of_not_mem (modelCtrl_mem m) (modelArm_notMem m)).symm,
    fget_fset_other _ _ _ _ _ (by decide) (by decide), fget_fset_self _ _ _ _ (by decide)]
  rfl

/-- An armed model whose staged epoch is placed: what settling it leaves. -/
theorem modelApply_spec {d : Dev} {m : Nat} {t : Option Nat} {x : EpochRec}
    (harmed : flag d (modelReg R.SRV_MT_APPLY m) F.SRV_MT_APPLY_APPLY = true) (hidle : d.step.running = false)
    (hstaged : (model d m).staged = some x) (hprev : (model d m).prev = none) (hkept : (model d m).removing = false)
    (hplaced : ((x.stages.zip x.manifest.shards).all fun p => p.1 == .placed || !needed x p.2) = true) :
    (model (modelApply d m t) m).active = some (epochActive d m x) ∧ (model (modelApply d m t) m).staged = none
      ∧ ∀ r ∈ modelReg R.SRV_MT_APPLY m :: modelGroup m, rd (modelApply d m t) r = rd (modelGroupTaken d m) r := by
  rw [modelApply_of_placed harmed hidle hstaged hprev hplaced]
  generalize BitVec.ofNat 32 _ = v
  have hmodel : model (wr (setModel (modelGroupTaken d m) m (modelActive d m x)) (modelReg R.SRV_MT_PREV m) v) m
      = modelActive d m x := (model_of_srv (wr_srv _ _ _) m).trans (model_setModel_self _ m _)
  obtain ⟨hactive, hgone, _, hregs⟩ := activeKept_settleModels (m := m)
    (d := wr (setModel (modelGroupTaken d m) m (modelActive d m x)) (modelReg R.SRV_MT_PREV m) v)
    (by rw [hmodel]; rfl) (by rw [hmodel]; exact hkept)
  refine ⟨by rw [hactive, hmodel]; rfl, hgone, fun r hr => ?_⟩
  rw [hregs r hr, rd_wr_ne _ (group_ne (by decide) hr (.inr (by decide))), rd_setModel]

end Sys2Proof.Machine

namespace Sys2Proof.Proofs

open Sys2Proof.Machine

/-- Settles O18: each command takes its group's shadows, and settling the models, the mode of the aqueducts or the engine of the
slot, which it goes on to, writes none of the group. -/
theorem groupsTakeTheirShadows : Obligations.GroupsTakeTheirShadows := by
  intro s hp
  refine ⟨?_, ?_, ?_, ?_, ?_⟩
  · intro die ap harmed hidle
    have hclear : rd (placementApply s.dev die) ap = rd (placeTaken s.dev die) ap :=
      outside_placementApply harmed hidle (by rw [ctlClass_ctl (by decide) (by decide) (by decide)]; decide)
    refine ⟨_, (exec_placementApply die s).trans (act_powered rfl hp _), fun a ha => ?_, ?_, fun a ha hwait => ?_,
      fun hlast h hnext => ?_⟩
    · have hclass : ctlClass a = 0 ∨ ctlClass a = 1 := by simpa using (place_of_group ha).1
      rw [outside_placementApply harmed hidle (by rcases hclass with h | h <;> rw [h] <;> decide), rd_placeTaken _ ha]
    · rw [flag, fget, hclear]
      exact flag_placeTaken s.dev die
    · rw [rd_placementApply harmed hidle hwait, regsBut_placeTaken s.dev die a ha]
    · exact step_placementApply harmed hidle
        (fun x hx hne => hlast ⟨x, List.mem_range.1 hx⟩ fun heq => hne (congrArg Fin.val heq)) hnext
  · intro stack ap a v sum harmed hidle
    obtain ⟨hshare, hstatus, harm⟩ := shareRegs_ne stack
    refine ⟨_, (exec_reservoirShareApply stack s).trans (act_powered rfl hp _), ?_⟩
    rw [shareApply_of_armed harmed hidle]
    refine ⟨?_, ?_, ?_, ?_⟩
    · rw [rd_fset_ne _ hshare, rd_fset_ne _ hstatus, rd_shareTaken]
      simp [sharesErr, v, sum, a]
    · rw [flag, fget_fset_ne _ harm, ← flag, flag_fset_self _ _ _ _ (by decide) rfl]
      rfl
    · exact flag_fset_self _ _ _ false (by decide) rfl
    · exact ((regsBut_of_subset (regsBut_shareTaken s.dev stack) (by simp [a])).trans (regsBut_fset (by simp) _ _ _)).trans
        (regsBut_fset (by simp [ap]) _ _ _)
  · intro g ap c harmed
    exact ⟨_, (exec_aqueductCtrlApply g s).trans (act_powered rfl hp _), aqueductCtrlApply_spec g.isLt harmed⟩
  · intro h slot a harmed hlocal hcur hnext hevents hgate
    refine ⟨_, (exec_barrierSlotApply h slot s).trans (act_powered rfl hp _), ?_⟩
    rw [barSlotApply_of_waiting slot.isLt harmed hlocal hcur hnext hevents hgate]
    exact ⟨fun r hr => rd_barTaken s.dev h slot hr, flag_apply_barTaken s.dev h slot, regsBut_barTaken s.dev h slot⟩
  · intro m upto x harmed hidle hstaged hprev hkept hplaced
    obtain ⟨hactive, hgone, hregs⟩ := modelApply_spec (t := upto.map Fin.val) harmed hidle hstaged hprev hkept hplaced
    have hgroup : ∀ r ∈ modelGroup m, rd (modelApply s.dev m (upto.map Fin.val)) r = rd (modelGroupTaken s.dev m) r :=
      fun r hr => hregs r (List.mem_cons_of_mem _ hr)
    refine ⟨_, (exec_modelTableApply m upto s).trans (act_powered rfl hp _), ?_, hgone, fun r hr hne => ?_, ?_, ?_⟩
    · rw [hactive, epochActive, modelProgram, modelProgram, hgroup _ (by simp [modelGroup]), hgroup _ (by simp [modelGroup])]
      rfl
    · rw [hgroup r hr, rd_modelGroupTaken_ne _ hr hne]
    · rw [hgroup _ (modelCtrl_mem m), rd_modelGroupTaken_ctrl]
      rfl
    · rw [flag, fget, hregs _ (List.mem_cons_self ..)]
      exact flag_modelGroupTaken s.dev m

end Sys2Proof.Proofs
end

section
/-! Window reads at the reservoir (R202, R248): what a base die does with an access that still has its turn to wait for, and the
statement of spec/11_reservoir.md about the reservoir. The statement fails: a window read is served after the writes that its
sender sent before it on its VC (R248), and no premise says that none is left to land. -/

namespace Sys2Proof.Machine

/-! ## A window read whose turn has not come -/

/-- A window read gives way to a write of its sender on its VC that was accepted before it and has not landed (R248). -/
theorem mayServe_of_earlier_write {d : Dev} {s n : Nat} {a : RsvAcc} {w : Accepted}
    (ha : (mgetD d.stackTab s {}).accepted[n]? = some a) (hw : w ∈ d.accepted)
    (hsender : winSender d a.origin = some (w.src, w.vc)) (hseq : w.seq < a.seq) : mayServe d s n = false := by
  have hwrite : (d.accepted.any fun w => winSender d a.origin == some (w.src, w.vc) && w.seq < a.seq) = true :=
    List.any_eq_true.2 ⟨w, hw, by simp [hsender, hseq]⟩
  simp [mayServe, ha, hwrite]

/-- A base die leaves an access whose turn has not come as it is. -/
theorem rsvServe_of_not_mayServe {d : Dev} {s n : Nat} (h : mayServe d s n = false) (fails : Nat) :
    rsvServe d s n fails = d := by
  cases ha : (mgetD d.stackTab s {}).accepted[n]? with
  | none => simp only [rsvServe, ha]
  | some a => simp only [rsvServe, ha, h, Bool.not_false, if_true]

/-- No window read is answered while accesses of each are on their way or accepted. -/
theorem settleReads_of_pending {d : Dev} (h : ∀ r ∈ d.winReads, originPending d (.window r.id) = true) : settleReads d = d :=
  foldl_keeps (I := fun e => e = d) (fun e r hr he => by rw [he, h r hr]; rfl) rfl

/-- The service of an access whose turn has not come changes nothing where no window read can be answered. -/
theorem exec_reservoirService_of_waiting {s : State} {stack : StackId} {n : Nat} (hp : powered s.dev = true)
    (hturn : mayServe s.dev stack n = false) (hreads : ∀ r ∈ s.dev.winReads, originPending s.dev (.window r.id) = true)
    (fails : Fin 4) : exec (.reservoirService stack n fails) s = .next s := by
  rw [exec_reservoirService, execReservoirService, act_powered rfl hp, rsvServe_of_not_mayServe hturn,
    settleReads_of_pending hreads]

/-- A read of 8 bytes of a window whose target lies in stack 2, page 1, by device 73 on VC 1. -/
def readAfterWrite : WinRead :=
  { id := 30, head := 0, src := 73, vc := 1, win := 5, gen := 3, off := 4096, addr := 20975616, len := 8 }

/-- That read's access to its segment. -/
def readAfterWriteAccess : RsvAcc :=
  { addr := 20975616, len := 8, data := none, vc := 1, ring := true, origin := .window 30, seq := 31 }

/-- A write to the same bytes that device 73 sent on VC 1 before the read. -/
def writeBeforeRead : Accepted :=
  { seq := 29, head := 0, src := 73, win := 5, gen := 3, off := 4096, vc := 1, bytes := [1, 2, 3, 4, 5, 6, 7, 8] }

/-- A device that runs, with a stack that serves; the write has been accepted and has not landed, and the read has been accepted
after it. -/
def readBehindWrite : State :=
  { State.reset with
    dev := fset (fset
      { stackTab := [(2, { accepted := [readAfterWriteAccess] })], winReads := [readAfterWrite], accepted := [writeBeforeRead],
        nextId := 32, boot := { on := true, inReset := false } }
      (ctl R.BRG_STATUS 50 0) F.BRG_STATUS_UP 1) (ctl R.RSV_STATUS 50 0) F.RSV_STATUS_READY 1 }

/-- The read waits for the write. -/
theorem exec_reservoirService_readBehindWrite : exec (.reservoirService 2 0 0) readBehindWrite = .next readBehindWrite :=
  exec_reservoirService_of_waiting rfl
    (mayServe_of_earlier_write (a := readAfterWriteAccess) (w := writeBeforeRead) rfl (List.mem_singleton_self _) rfl
      (by decide))
    (by decide +kernel) 0

end Sys2Proof.Machine

namespace Sys2Proof.Proofs

open Sys2Proof.Machine

/-- Refutes O38: a window read's one access is accepted at a stack that serves, behind a write of its sender on its VC that has not
landed. The service leaves both as they are (R248), where the statement says that the read is answered. A premise that the access
may be served is missing from the clause on window reads. -/
theorem not_reservoirComplete : ¬ Obligations.ReservoirComplete := by
  intro h
  obtain ⟨-, -, -, hwindow, -⟩ := h readBehindWrite 2 rfl
  obtain ⟨hanswered, -⟩ := hwindow readAfterWrite readAfterWriteAccess 0 rfl rfl rfl rfl rfl rfl rfl rfl (by decide)
    (by decide) (by decide) (by decide) (by decide) (by decide +kernel) (by decide +kernel)
  obtain ⟨e, he, hnone, -⟩ := hanswered (by decide)
  obtain rfl := congrArg State.dev (Host.Outcome.next.inj (exec_reservoirService_readBehindWrite.symm.trans he))
  exact List.cons_ne_nil _ _ hnone

end Sys2Proof.Proofs
end

section
/-! Frames that an Ethernet port answers (R231, R234) and lanes that a restored laser offers again (R228, R229), and the two
statements of spec/12_aqueducts.md about training and lanes. Neither holds as it stands, and each refutation names the premise or
the register that is missing. -/

namespace Sys2Proof.Machine

/-! ## An Ethernet port with a leased address (R231) -/

/-- The port that is asked. -/
def port0 : AqdId := 0

/-- A device that runs, whose aqueduct 0 is UP in Ethernet mode and has leased the address 10.0.0.5. -/
def leasedPort : { s : State // powered s.dev = true } :=
  ⟨{ State.reset with
    dev := fsets { nets := [(port0, { lease := some (24, [10, 0, 0, 5]) })], boot := { on := true, inReset := false } }
      (aqdReg R.AQD_STATUS port0) [(F.AQD_STATUS_UP, 1), (F.AQD_STATUS_MODE_ACTIVE, 1)] },
    by decide +kernel⟩

end Sys2Proof.Machine

namespace Sys2Proof

open Sys2Proof.Machine

/-- A command completes in the one device that it answers. -/
theorem completes_iff_of_next {c : Instr} {s : State} {d : Dev} {P : Dev → Prop} (h : exec c s = .next (after s d)) :
    Completes c s P ↔ P d := by
  refine ⟨fun ⟨e, he, hP⟩ => ?_, fun hP => ⟨d, h, hP⟩⟩
  obtain rfl := congrArg State.dev (Host.Outcome.next.inj (h.symm.trans he))
  exact hP

theorem exec_ethFrameRx_powered {s : State} (hp : powered s.dev = true) (g : AqdId) (f : List Byte) :
    exec (.ethFrameRx g f) s = .next (after s (netFrameRx s.dev g f)) := by
  rw [exec_ethFrameRx, execEthFrameRx, act_powered rfl hp]

theorem exec_laserRestored_powered {s : State} (hp : powered s.dev = true) (h : HeadId) (i : LaserInput) :
    exec (.laserRestored h i) s = .next (after s (laserRestored s.dev h i)) := by
  rw [exec_laserRestored, execLaserRestored, act_powered rfl hp]

end Sys2Proof

namespace Sys2Proof.Machine

/-! ## An ARP request is answered (R231, R234) -/

/-- A frame that a port sends counts in AQD_ETH_TX. -/
theorem fget_ethTx_sendEther (d : Dev) (g : Nat) (dst : List Byte) (ty : Nat) (body : List Byte) :
    fget (sendEther d g dst ty body) (aqdReg R.AQD_ETH_TX g) F.AQD_ETH_TX_FRAMES
      = min (fget d (aqdReg R.AQD_ETH_TX g) F.AQD_ETH_TX_FRAMES + 1) (2 ^ F.AQD_ETH_TX_FRAMES.width - 1) :=
  fget_fcnt_self _ _ _ 1 (by decide)

/-- The address that a port has leased is served there while its addresses have not moved (R304, R348). -/
theorem mem_servedAddrs_of_lease {d : Dev} {g n : Nat} {ip : List Byte} (hg : g < 64) (hat : servedAt d g = g)
    (hlease : (portNet d g).lease = some (n, ip)) : ip ∈ servedAddrs d g false := by
  refine List.mem_flatMap.2 ⟨g, List.mem_filter.2 ⟨List.mem_range.2 hg, by simpa using hat⟩, ?_⟩
  simp [hlease]

/-- A good frame of a supported class is counted, passed on and answered. -/
theorem netFrameRx_of_plain {d : Dev} {g : Nat} {f : List Byte} (hup : flag d (aqdReg R.AQD_STATUS g) F.AQD_STATUS_UP = true)
    (heth : ethernet d g = true) (hgood : frameGood f = true) (hclass : frameClass (portVlan d g) f = .plain) :
    netFrameRx d g f
      = answerFrame (emit (fcnt d (aqdReg R.AQD_ETH_RX g) F.AQD_ETH_RX_FRAMES 1) .ethFrame [g, 0] f) g
          (frameStamp (emit (fcnt d (aqdReg R.AQD_ETH_RX g) F.AQD_ETH_RX_FRAMES 1) .ethFrame [g, 0] f) g) f := by
  have hrx : aqdReg R.AQD_CTRL g ≠ aqdReg R.AQD_ETH_RX g := aqdReg_ne (by decide) (by decide) (.inl (by decide))
  have hframe : ethFrameRx d g f = emit (fcnt d (aqdReg R.AQD_ETH_RX g) F.AQD_ETH_RX_FRAMES 1) .ethFrame [g, 0] f := by
    rw [portVlan] at hclass
    simp [ethFrameRx, hup, heth, hgood, fget_fcnt_ne _ hrx, hclass]
  simp [netFrameRx, hup, heth, hgood, hclass, hframe]

/-- An ARP request for an address that the port serves is answered by one frame. -/
theorem answerArp_of_request {d : Dev} {g : Nat} {p : List Byte} (hop : beAt p 6 2 = 1)
    (hserved : (p.drop 24).take 4 ∈ servedAddrs d g false) :
    answerArp d g p = sendEther d g ((p.drop 8).take 6) 0x0806
      (arpPacket 2 (portMac d g) ((p.drop 24).take 4) ((p.drop 8).take 6) ((p.drop 14).take 4)) := by
  simp [answerArp, hop, hserved]

/-- An untagged ARP packet, as the answer to a frame finds it. -/
theorem answerFrame_of_arp {d : Dev} {g rx : Nat} {f : List Byte} (hty : beAt (f.take (f.length - 4)) 12 2 = 0x0806)
    (hat : beAt ((f.take (f.length - 4)).drop 12) 0 2 = 0x0806) :
    answerFrame d g rx f = answerArp d g (((f.take (f.length - 4)).drop 12).drop 2) := by
  simp [answerFrame, hty, hat]

/-- A broadcast ARP request for address 10.0.0.5, with its padding and FCS. -/
def arpRequest : List Byte :=
  let f := List.replicate 6 0xFF ++ [2, 0, 0, 0, 0, 1] ++ beBytes 2 0x0806
    ++ arpPacket 1 [2, 0, 0, 0, 0, 1] [10, 0, 0, 1] (List.replicate 6 0) [10, 0, 0, 5] ++ List.replicate 18 0
  f ++ leBytes 4 (crc32 f)

/-- The port answers the request, and AQD_ETH_TX counts the answer. -/
theorem ethTx_leasedPort : fget (netFrameRx leasedPort.1.dev port0 arpRequest) (aqdReg R.AQD_ETH_TX port0) F.AQD_ETH_TX_FRAMES = 1 := by
  rw [netFrameRx_of_plain (by decide +kernel) (by decide +kernel) (by decide +kernel) (by decide +kernel),
    answerFrame_of_arp (by decide +kernel) (by decide +kernel),
    answerArp_of_request (by decide +kernel) (mem_servedAddrs_of_lease (n := 24) (by decide) rfl (by decide +kernel)),
    fget_ethTx_sendEther]
  decide +kernel

/-- It had counted none. -/
theorem ethTx_before : fget leasedPort.1.dev (aqdReg R.AQD_ETH_TX port0) F.AQD_ETH_TX_FRAMES = 0 := by decide +kernel

/-! ## Lanes offered again with a change pending (R228, R229) -/

/-- A device that runs, whose head 0 has regained laser input B after a second of sufficient power: aqueduct 0 is UP on lanes 0 to
3, lanes 4 to 7 are retired for cause LASER, and firmware has asked for the retirement of lane 4, which a codeword pair ahead is
to bring about. -/
def changePending : State :=
  { State.reset with
    dev := setAqd (setLaser (fset (fsets (fset
        { tally := 625000000, boot := { on := true, inReset := false } }
        (aqdReg R.AQD_CTRL 0) F.AQD_CTRL_ENABLE 1)
        (aqdReg R.AQD_LANE_RET 0) [(F.AQD_LANE_RET_RETIRED, 0xF0), (F.AQD_LANE_RET_CAUSE_LASER, 0xF0), (F.AQD_LANE_RET_RETIRE_REQ, 0x10)])
        (aqdReg R.AQD_STATUS 0) F.AQD_STATUS_STATE 5)
        0 .b { low := 0, lost := true, okSince := some 0 })
      0 { map := 0x0F, mapped := true, ownLaser := 0xF0, change := some (0x10, 100) } }

/-- The partial retraining that offers the lanes again retires lane 4 as asked. -/
theorem lane4_changePending : bit (lanesOut (laserRestored changePending.dev 0 .b) 0) 4 = true := by decide +kernel

end Sys2Proof.Machine

namespace Sys2Proof.Proofs

open Sys2Proof.Machine

/-- Refutes O39: an Ethernet port that has leased 10.0.0.5 receives an ARP request for it. The frame is good, supported and counted
in AQD_ETH_RX, where the statement says that no other register changes; the answer that the port sends is counted in AQD_ETH_TX
(R231). -/
theorem not_aqueductTrainingComplete : ¬ Obligations.AqueductTrainingComplete := by
  intro h
  have hp := leasedPort.2
  obtain ⟨-, -, -, -, -, -, hframe⟩ := h leasedPort.1 port0 hp
  obtain ⟨-, hplain, -⟩ := hframe arpRequest (by decide +kernel) (by decide +kernel)
  obtain ⟨-, -, hregs⟩ := (completes_iff_of_next (exec_ethFrameRx_powered hp _ _)).1 (hplain (by decide +kernel) (by decide +kernel))
  have hsame : rd (netFrameRx leasedPort.1.dev port0 arpRequest) (aqdReg R.AQD_ETH_TX port0)
      = rd leasedPort.1.dev (aqdReg R.AQD_ETH_TX port0) :=
    hregs _ (List.mem_singleton.not.2 (aqdReg_ne (by decide) (by decide) (.inl (by decide))))
  have hnone : fget (netFrameRx leasedPort.1.dev port0 arpRequest) (aqdReg R.AQD_ETH_TX port0) F.AQD_ETH_TX_FRAMES = 0 := by
    rw [fget, hsame]
    exact ethTx_before
  exact absurd (hnone.symm.trans ethTx_leasedPort) zero_ne_one

/-- Refutes O40: laser input B of head 0 is restored while the retirement of lane 4 waits for its codeword pair. The retraining
that offers lanes 4 to 7 again retires lane 4 as asked (R228), where the statement says that none of the four is retired. A premise
on pending changes is missing. -/
theorem not_aqueductLanesComplete : ¬ Obligations.AqueductLanesComplete := by
  intro h
  have hp : powered changePending.dev = true := by decide +kernel
  obtain ⟨hlaser, -⟩ := h changePending 0 hp
  obtain ⟨-, -, -, hrestored⟩ := hlaser 0 .b 0
  obtain ⟨-, hagain⟩ := hrestored 0 (by decide +kernel)
  obtain ⟨-, hlanes⟩ := (completes_iff_of_next (exec_laserRestored_powered hp _ _)).1 (hagain (by decide +kernel) (by decide +kernel))
  have hfalse := hlanes (by decide +kernel) (by decide +kernel) (by decide +kernel) 4 (by decide) (by decide +kernel)
  exact Bool.false_ne_true (hfalse.symm.trans lane4_changePending)

end Sys2Proof.Proofs
end

section
/-! Requests (R234, R294 to R314): what a request record changes by each route, refused or admitted, and the statement of
spec/12_aqueducts.md about it. -/

namespace Sys2Proof.Machine

/-! ## Sending on an aqueduct that takes a frame at once (R222, R226, R252) -/

/-- Where nothing waits, no VC has a frame. -/
theorem queue_eq_nil_iff {a : Aqd} : a.queue = [] ↔ a.express = [] ∧ ∀ x ∈ a.waiting, x.2 = [] := by
  simp [Aqd.queue]

theorem mgetD_of_all_nil {α : Type} {m : SMap (List α)} (h : ∀ x ∈ m, x.2 = []) (k : Nat) : mgetD m k [] = [] := by
  rw [mgetD]
  cases hm : mget m k with
  | none => rfl
  | some l => exact h _ (mem_of_mget hm)

/-- Of lists that are all empty but one, that one is the whole. -/
theorem flatMap_mset_of_all_nil {α : Type} {m : SMap (List α)} (h : ∀ x ∈ m, x.2 = []) (k : Nat) (l : List α) :
    (mset m k l).flatMap Prod.snd = l := by
  induction m with
  | nil => simp [mset]
  | cons x m ih =>
    obtain ⟨hx, hm⟩ := List.forall_mem_cons.1 h
    have hrest : m.flatMap Prod.snd = [] := by simpa using hm
    simp only [mset]
    split
    · simp [hx, hrest]
    · split
      · simp [hrest]
      · simp [hx, ih hm]

/-- A record of at most 4,096 bytes goes in one frame. -/
theorem frames_of_short {m : Emit} (h : m.bytes.length ≤ 4096) : m.frames = [m] := by
  have hone : max 1 ((m.bytes.length + 4095) / 4096) = 1 := by omega
  simp [Emit.frames, hone, chunks, List.take_of_length_le h]

/-- The only VC with a frame and a credit is the next. -/
theorem nextVc_of_only {a : Aqd} {vc : Nat} (hvc : vc < 8) (hframe : mgetD a.waiting vc [] ≠ [])
    (hcredit : 0 < mgetD a.credits vc 0) (hothers : ∀ v ≠ vc, mgetD a.waiting v [] = []) : nextVc a = some vc := by
  have honly : ((List.range 8).filter fun v => !(mgetD a.waiting v []).isEmpty && 0 < mgetD a.credits v 0) = [vc] := by
    rw [List.filter_congr (q := (· == vc)) fun v _ => ?_]
    · interval_cases vc <;> rfl
    · by_cases hv : v = vc
      · simp [hv, hframe, hcredit]
      · simp [hv, hothers v hv]
  simp only [nextVc, honly, List.find?_singleton, List.head?_cons]
  split <;> rfl

/-- The record of an aqueduct that takes a frame, with the frame in its turn. -/
theorem join_of_short {a : Aqd} {m : Emit} (hkind : m.kind.express = false) (hshort : m.bytes.length ≤ 4096)
    (hempty : a.queue = []) : a.join m = { a with waiting := mset a.waiting m.vc [m] } := by
  simp [Aqd.join, hkind, frames_of_short hshort, mgetD_of_all_nil (queue_eq_nil_iff.1 hempty).2]

/-- The frame goes out alone. -/
theorem sendOn_of_takes {d : Dev} {g : Nat} {m : Emit} (hkind : m.kind.express = false) (h : Takes d g m.vc m) :
    ∃ pair, (sendOn d g m).out = d.out ++ [{ m with pair := pair }] := by
  obtain ⟨hup, hempty, hroom, hturn⟩ := h
  obtain ⟨hvc, hcredit, hshort⟩ := hturn.resolve_left (by simp [hkind])
  obtain ⟨hexpress, hwaiting⟩ := queue_eq_nil_iff.1 hempty
  have hqueue : ({ aqd d g with waiting := mset (aqd d g).waiting m.vc [m] } : Aqd).queue.length = 1 := by
    simp [Aqd.queue, hexpress, flatMap_mset_of_all_nil hwaiting]
  have hnext : nextVc { aqd d g with waiting := mset (aqd d g).waiting m.vc [m] } = some m.vc :=
    nextVc_of_only hvc (by simp) hcredit fun v hv =>
      (mgetD_mset_ne _ hv _ _).trans (mgetD_of_all_nil hwaiting v)
  have haqd : ∀ a, aqd (setAqd d g a) g = a := fun a => mgetD_mset_self _ _ _ _
  have hfabric : ∀ a, aqdFabricUp (setAqd d g a) g = true := fun _ => hup
  rw [sendOn, join_of_short hkind hshort hempty]
  generalize ha : ({ aqd d g with waiting := mset (aqd d g).waiting m.vc [m] } : Aqd) = a at hqueue hnext
  have hwait : mgetD a.waiting m.vc [] = [m] := by rw [← ha]; exact mgetD_mset_self _ _ _ _
  have hexp : a.express = [] := by rw [← ha]; exact hexpress
  have hrep : a.unacked = (aqd d g).unacked := by rw [← ha]
  rw [← hrep] at hroom
  simp only [hqueue, drainQueue, haqd, hfabric, hexp, hnext, hwait, hroom, Bool.not_true, Bool.false_eq_true, if_false]
  exact ⟨_, rfl⟩

theorem drainQueue_frame (g n : Nat) (d : Dev) : { drainQueue g n d with aqds := d.aqds, out := d.out } = d := by
  induction n generalizing d with
  | zero => rfl
  | succ n ih =>
    have hgo : ∀ a m, { drainQueue g n (goOut d g a m) with aqds := d.aqds, out := d.out } = d := fun a m => by
      have h := congrArg (fun e : Dev => { e with aqds := d.aqds, out := d.out }) (ih (goOut d g a m))
      exact h
    unfold drainQueue
    dsimp only
    split
    · rfl
    · split
      · split
        · exact hgo _ _
        · rfl
      · split
        · rfl
        · split
          · rfl
          · split
            · rfl
            · exact hgo _ _

/-- What is sent changes aqueducts and what has gone out alone. -/
theorem sendTo_frame (d : Dev) (fa vc : Nat) (kind : EmitKind) (nums : List Nat) (bytes : List Byte) (by_ to_ : Nat) :
    { sendTo d fa vc kind nums bytes by_ to_ with aqds := d.aqds, out := d.out } = d := by
  unfold sendTo
  dsimp only
  split
  · rfl
  · split
    · rfl
    · split
      · exact congrArg (fun e : Dev => { e with aqds := d.aqds, out := d.out }) (drainQueue_frame _ _ (setAqd d _ _))
      · rfl

/-- Two devices send alike: as much has gone out, and registers outside serving, the page tables and the ground copies and the
records of aqueducts are the same, but for what is to be returned as credits. -/
def SendsAlike (d e : Dev) : Prop :=
  e.out = d.out ∧ (∀ a, ctlClass a ∉ 0x20 :: pageClasses → rd e a = rd d a)
    ∧ ∀ g, aqd e g = { aqd d g with got := (aqd e g).got }

section
variable {d e : Dev} (h : SendsAlike d e)
include h

theorem SendsAlike.rd_ctl {p : Nat} (hp : p / 2 ^ 12 % 2 ^ 8 = 0) (hp' : p < 2 ^ 26) (hclass : p / 2 ^ 20 ∉ 0x20 :: pageClasses)
    (die : Nat) {inst : Nat} (hi : inst < 2 ^ 8) : rd e (ctl p die inst) = rd d (ctl p die inst) :=
  h.2.1 _ (by rwa [ctlClass_ctl hp hp' hi])

theorem SendsAlike.ownFa : Machine.ownFa e = Machine.ownFa d := by
  rw [Machine.ownFa, fget, h.rd_ctl (by decide) (by decide) (by decide) _ (by decide), Machine.ownFa, fget]

theorem SendsAlike.faValid : Machine.faValid e = Machine.faValid d := by
  rw [Machine.faValid, flag, fget, h.rd_ctl (by decide) (by decide) (by decide) _ (by decide), Machine.faValid, flag, fget]

theorem SendsAlike.headReachable (k : Nat) : Machine.headReachable e k = Machine.headReachable d k := by
  rw [Machine.headReachable, bridgeUp, flag, fget, h.rd_ctl (by decide) (by decide) (by decide) _ (by decide),
    Machine.headReachable, bridgeUp, flag, fget]

theorem SendsAlike.aqdFabricUp (g : Nat) : Machine.aqdFabricUp e g = Machine.aqdFabricUp d g := by
  simp only [Machine.aqdFabricUp, flag, fget,
    h.rd_ctl (p := R.AQD_STATUS) (by decide) (by decide) (by decide) (56 + g / 8) (show g % 8 < 2 ^ 8 by omega)]

theorem SendsAlike.routeMask (n : Nat) : Machine.routeMask e n = Machine.routeMask d n := by
  have hsel : ∀ p ∈ [R.AQD_RT_LO, R.AQD_RT_HI], rd e (ctlSel p 56 9 n) = rd d (ctlSel p 56 9 n) := fun p hp => by
    have hplace : ∀ q ∈ [R.AQD_RT_LO, R.AQD_RT_HI], q / 2 ^ 12 % 2 ^ 8 = 0 ∧ q < 2 ^ 26
        ∧ q / 2 ^ 20 ∉ 0x20 :: pageClasses := by decide
    obtain ⟨hinst, hlt, hclass⟩ := hplace p hp
    exact h.2.1 _ (by rwa [ctlClass_ctlSel, ctlClass_ctl hinst hlt (by decide)])
  rw [Machine.routeMask, hsel _ (by simp), hsel _ (by simp), Machine.routeMask]

theorem SendsAlike.peerIsolated (g : Nat) : (aqd e g).peerIsolated = (aqd d g).peerIsolated := by rw [h.2.2 g]

theorem SendsAlike.routeAqd (fa vc : Nat) : Machine.routeAqd e fa vc = Machine.routeAqd d fa vc := by
  simp only [Machine.routeAqd, h.routeMask, routeIndex, h.ownFa, h.aqdFabricUp, h.peerIsolated]
  rfl

theorem SendsAlike.primaryHead : Machine.primaryHead e = Machine.primaryHead d := by
  simp only [Machine.primaryHead, funext h.headReachable]

theorem SendsAlike.leaveBy (fa : Nat) : Machine.leaveBy e fa = Machine.leaveBy d fa := by
  simp only [Machine.leaveBy, routeHead, h.ownFa, h.primaryHead, h.routeAqd, h.headReachable, h.faValid]

/-- An aqueduct that takes a record takes it on both. -/
theorem SendsAlike.takes {g vc : Nat} {m : Emit} (ht : Takes d g vc m) : Takes e g vc m := by
  rw [Takes, h.aqdFabricUp, h.2.2 g]
  exact ht

/-- A frame that is sent is sent as by the device that sends alike. -/
theorem SendsAlike.sent {fa vc : Nat} {m : Emit} (hkind : m.kind.express = false) :
    Sent d (sendTo e fa vc m.kind m.nums m.bytes) fa vc m := by
  intro hroute
  have hdressed : ∀ by_ to_, dressed e vc m.kind m.nums m.bytes by_ to_
      = { kind := m.kind, nums := m.nums, bytes := m.bytes, vc, src := Machine.ownFa e } := fun _ _ => by simp [dressed, hkind]
  by_cases hown : fa = Machine.ownFa e
  · simp only [sendTo, hdressed, if_pos hown]
    exact ⟨_, congrArg (· ++ [_]) h.1, rfl, rfl, rfl, rfl, fun _ => h.ownFa⟩
  · obtain ⟨g, hg, hhead, htakes⟩ := hroute.resolve_left (by rwa [h.ownFa] at hown)
    have hframe : Takes e g vc { kind := m.kind, nums := m.nums, bytes := m.bytes, vc, src := Machine.ownFa e } := h.takes htakes
    obtain ⟨pair, hpair⟩ := sendOn_of_takes
      (m := { kind := m.kind, nums := m.nums, bytes := m.bytes, vc, src := Machine.ownFa e }) hkind hframe
    rw [← h.routeAqd] at hg
    rw [← h.headReachable] at hhead
    simp only [sendTo, hdressed, if_neg hown, hg, if_pos hhead]
    exact ⟨_, hpair.trans (congrArg (· ++ [_]) h.1), rfl, rfl, rfl, rfl, fun _ => h.ownFa⟩

end

theorem SendsAlike.refl (d : Dev) : SendsAlike d d := ⟨rfl, fun _ _ => rfl, fun _ => rfl⟩

theorem SendsAlike.trans {d e f : Dev} (h : SendsAlike d e) (h' : SendsAlike e f) : SendsAlike d f := by
  obtain ⟨hout, hregs, haqds⟩ := h
  obtain ⟨hout', hregs', haqds'⟩ := h'
  refine ⟨hout'.trans hout, fun a ha => (hregs' a ha).trans (hregs a ha), fun g => ?_⟩
  rw [haqds' g, haqds g]

/-! ## What settling the models shows of a request (R287, R306) -/

/-- Between the two devices registers alone differ, of them not the count of refusals, and that requests were admitted once. -/
def ShowsOnly (d e : Dev) : Prop :=
  { e with regs := d.regs, boot := d.boot } = d ∧ rd e (srvReg R.SRV_END_CNT_D) = rd d (srvReg R.SRV_END_CNT_D)

theorem ShowsOnly.trans {d e f : Dev} (h : ShowsOnly d e) (h' : ShowsOnly e f) : ShowsOnly d f := by
  obtain ⟨hframe, hcount⟩ := h
  obtain ⟨hframe', hcount'⟩ := h'
  exact ⟨(congrArg (fun x : Dev => { x with regs := d.regs, boot := d.boot }) hframe' :).trans hframe, hcount'.trans hcount⟩

theorem ShowsOnly.srv {d e : Dev} (h : ShowsOnly d e) : e.srv = d.srv := (congrArg Dev.srv h.1 :)

theorem ShowsOnly.out {d e : Dev} (h : ShowsOnly d e) : e.out = d.out := (congrArg Dev.out h.1 :)

theorem ShowsOnly.rsv {d e : Dev} (h : ShowsOnly d e) : e.rsv = d.rsv := (congrArg Dev.rsv h.1 :)

theorem ShowsOnly.epoch {d e : Dev} (h : ShowsOnly d e) : e.epoch = d.epoch := (congrArg Dev.epoch h.1 :)

theorem showsOnly_fset {a : Nat} (ha : srvReg R.SRV_END_CNT_D ≠ a) (d : Dev) (f : Fld) (v : Nat) : ShowsOnly d (fset d a f v) :=
  ⟨rfl, rd_fset_ne d ha f v⟩

/-- The count of refusals is no register of the model table. -/
theorem endCntD_ne_modelReg (p m : Nat) : srvReg R.SRV_END_CNT_D ≠ modelReg p m := by
  have hplace : R.SRV_END_CNT_D < 2 ^ 32 := by decide
  simp only [modelReg, srvReg, ctlSel, ctl, pow2]
  omega

theorem showsOnly_showStaged (d : Dev) (m : Nat) : ShowsOnly d (showStaged d m) := by
  have hshards := fun v => showsOnly_fset (endCntD_ne_modelReg R.SRV_MT_LOAD m) d F.SRV_MT_LOAD_SHARDS v
  have hstate := fun v => (hshards v).trans (showsOnly_fset (endCntD_ne_modelReg R.SRV_MT_LOAD m) _ F.SRV_MT_LOAD_STATE 3)
  unfold showStaged
  split
  · split
    · next hlive =>
      unfold showLoad
      simp only [hlive, if_true]
      split
      · exact hshards _
      · split
        · exact hshards _
        · split
          · exact hstate _
          · exact (hstate _).trans ⟨rfl, rd_fset_ne _ (by decide) _ _⟩
    · exact ⟨rfl, rfl⟩
  · exact ⟨rfl, rfl⟩

theorem showsOnly_showServing (d : Dev) : ShowsOnly d (showServing d) := by
  refine ⟨(congrArg (fun x : Dev => { x with boot := d.boot }) (showServing_frame d) :),
    rd_showServing d (by decide) (by decide) fun m => ?_⟩
  simp [pinRegs, endCntD_ne_modelReg]

theorem showsOnly_settleModels {d : Dev} (h : ModelsSettled d) : ShowsOnly d (settleModels d) := by
  have hfold : ShowsOnly d (d.srv.models.foldl (fun e x => settleModel e x.1) d) := by
    refine foldl_keeps (I := ShowsOnly d) (fun e x _ he => ?_) ⟨rfl, rfl⟩
    have hshow := he.trans (showsOnly_showStaged e x.1)
    obtain ⟨hprev, hkept⟩ := model_of_settled h x.1
    have hmodel : model (showStaged e x.1) x.1 = model d x.1 := model_of_srv hshow.srv x.1
    rwa [settleModel, dropPrev_of_none (by rw [hmodel, hprev]), endRemoved_of_kept (by rw [hmodel, hkept])]
  rw [settleModels_eq]
  exact hfold.trans (showsOnly_showServing _)

/-! ## A request that is not admitted (R295, R300, R309) -/

/-- What goes out alone says what was sent. -/
theorem Sent.of_out {d e e' : Dev} {fa vc : Nat} {m : Emit} (h : Sent d e fa vc m) (hout : e'.out = e.out) : Sent d e' fa vc m := by
  intro hroute
  obtain ⟨r, hr, hrest⟩ := h hroute
  exact ⟨r, hout.trans hr, hrest⟩

theorem Responded.of_out {d e e' : Dev} {c : Conn} {kind : EmitKind} {bytes : List Byte} (h : Responded d e c kind bytes)
    (hout : e'.out = e.out) : Responded d e' c kind bytes := by
  cases c with
  | http => exact hout.trans h
  | fabric => exact Sent.of_out h hout
  | relay => exact Sent.of_out h hout

theorem countEnd_frame (d : Dev) (st : Status) : { countEnd d st with regs := d.regs } = d := by
  cases st <;> exact fcnt_frame d _ _ _

/-- Registers alone say what is read of one. -/
theorem rd_of_regs {d e : Dev} (h : e.regs = d.regs) (a : Nat) : rd e a = rd d a := by rw [rd, h, rd]

/-- What is sent changes neither serving nor a register. -/
theorem sendTo_srv (d : Dev) (fa vc : Nat) (kind : EmitKind) (nums : List Nat) (bytes : List Byte) (by_ to_ : Nat) :
    (sendTo d fa vc kind nums bytes by_ to_).srv = d.srv :=
  (congrArg Dev.srv (sendTo_frame d fa vc kind nums bytes by_ to_) :)

theorem sendTo_regs (d : Dev) (fa vc : Nat) (kind : EmitKind) (nums : List Nat) (bytes : List Byte) (by_ to_ : Nat) :
    (sendTo d fa vc kind nums bytes by_ to_).regs = d.regs :=
  (congrArg Dev.regs (sendTo_frame d fa vc kind nums bytes by_ to_) :)

theorem endCntD_ne_ethTx (g : Nat) : srvReg R.SRV_END_CNT_D ≠ aqdReg R.AQD_ETH_TX g := fun h => by
  have hclass := congrArg ctlClass h
  rw [aqdReg, ctlClass_ctl (by decide) (by decide) (show g % 8 < 2 ^ 8 by omega)] at hclass
  exact absurd hclass (by decide)

/-- Of serving an answer changes the number of the next frame to a front end alone. -/
theorem respond_srv (d : Dev) (c : Conn) (kind : EmitKind) (bytes : List Byte) :
    { (respond d c kind bytes).srv with responses := d.srv.responses } = d.srv := by
  cases c with
  | http a n k =>
    rw [show (respond d (.http a n k) kind bytes).srv = d.srv from (congrArg Dev.srv (fcnt_frame _ _ _ _) :)]
  | fabric fa =>
    rw [respond]
    split
    · rw [sendTo_srv]
    · rw [responseFrame, sendTo_srv]
  | relay fa k => rw [respond, sendTo_srv]

/-- An answer leaves the count of refusals as it is. -/
theorem rd_endCntD_respond (d : Dev) (c : Conn) (kind : EmitKind) (bytes : List Byte) :
    rd (respond d c kind bytes) (srvReg R.SRV_END_CNT_D) = rd d (srvReg R.SRV_END_CNT_D) := by
  cases c with
  | http a n k => exact rd_fcnt_ne _ (endCntD_ne_ethTx a) _ _
  | fabric fa =>
    rw [respond]
    split
    · exact rd_of_regs (sendTo_regs ..) _
    · exact rd_of_regs (sendTo_regs ..) _
  | relay fa k => exact rd_of_regs (sendTo_regs ..) _

/-- An answer goes out as by the device that sends alike. -/
theorem SendsAlike.responded {d e : Dev} (h : SendsAlike d e) (hresponses : e.srv.responses = d.srv.responses) (c : Conn)
    (kind : EmitKind) (hkind : kind.express = false) (bytes : List Byte) : Responded d (respond e c kind bytes) c kind bytes := by
  cases c with
  | http a n k =>
    have hout : (respond e (.http a n k) kind bytes).out = e.out ++ [{ kind, nums := [0, a, n, k], bytes }] :=
      (congrArg Dev.out (fcnt_frame _ _ _ _) :)
    exact hout.trans (congrArg (· ++ _) h.1)
  | fabric fa =>
    rw [respond, Responded]
    split
    · rw [h.leaveBy]
      exact h.sent (m := { kind, nums := [Machine.leaveBy d fa, fa], bytes }) hkind
    · have hframe : SendsAlike d { e with
          srv := { e.srv with responses := mset e.srv.responses fa ((mgetD e.srv.responses fa 0 + 1) % 65536) } } := h
      rw [responseFrame, hframe.leaveBy, ← hresponses]
      exact hframe.sent (m := { kind, nums := [Machine.leaveBy d fa, fa, mgetD e.srv.responses fa 0], bytes }) hkind
  | relay fa k =>
    rw [respond, Responded, h.leaveBy]
    exact h.sent (m := { kind := .relay, nums := [Machine.leaveBy d fa, fa, k], bytes }) rfl

/-- A request has been answered with a status and a reason, and counted, and holds no slot. -/
structure Refused (d e : Dev) (c : Conn) (reqId conv : Nat) (st : Status) : Prop where
  slots : e.srv.slots = d.srv.slots
  convs : e.srv.convs = d.srv.convs
  models : e.srv.models = d.srv.models
  counted : Counted d e (srvReg R.SRV_END_CNT_D) (if st.codes.1 = 7 then F.SRV_END_CNT_D_NOT_FOUND else F.SRV_END_CNT_D_REFUSED)
  answered : Responded d e c .endRecord (endRecord d { reqId, conn := c } st {} conv)

/-- The statuses of a request that is not admitted. -/
def Status.unadmitted : Status → Bool
  | .refused _ | .notFound => true
  | _ => false

theorem countEnd_of_unadmitted (d : Dev) {st : Status} (h : st.unadmitted = true) :
    countEnd d st = fcnt d (srvReg R.SRV_END_CNT_D)
      (if st.codes.1 = 7 then F.SRV_END_CNT_D_NOT_FOUND else F.SRV_END_CNT_D_REFUSED) 1 := by
  cases st with
  | refused r => rfl
  | notFound => rfl
  | _ => cases h

theorem refuseReq_spec {d e : Dev} (h : SendsAlike d e) (hsrv : e.srv = { d.srv with intake := e.srv.intake })
    (hregs : e.regs = d.regs) (c : Conn) (reqId conv : Nat) {st : Status} (hst : st.unadmitted = true) :
    Refused d (refuseReq e c reqId conv st) c reqId conv st := by
  have hrecord : endRecord e { reqId, conn := c } st {} conv = endRecord d { reqId, conn := c } st {} conv := by
    simp only [endRecord, h.ownFa, edition, fget, rd_of_regs hregs]
  have hrespond := respond_srv e c .endRecord (endRecord e { reqId, conn := c } st {} conv)
  have hframe := countEnd_frame (respond e c .endRecord (endRecord e { reqId, conn := c } st {} conv)) st
  have hend : (refuseReq e c reqId conv st).srv = (respond e c .endRecord (endRecord e { reqId, conn := c } st {} conv)).srv :=
    (congrArg Dev.srv hframe :)
  refine ⟨?_, ?_, ?_, ?_, ?_⟩
  · rw [hend]
    exact (congrArg Serving.slots hrespond :).trans (congrArg Serving.slots hsrv :)
  · rw [hend]
    exact (congrArg Serving.convs hrespond :).trans (congrArg Serving.convs hsrv :)
  · rw [hend]
    exact (congrArg Serving.models hrespond :).trans (congrArg Serving.models hsrv :)
  · rw [refuseReq, countEnd_of_unadmitted _ hst, Counted, fget_fcnt_self _ _ _ _ (by split <;> decide)]
    rw [fget, rd_endCntD_respond, rd_of_regs hregs, fget]
  · rw [← hrecord]
    exact Responded.of_out (h.responded (congrArg Serving.responses hsrv :) c .endRecord rfl _) (congrArg Dev.out hframe :)

/-! ## Pages that firmware takes (R199) -/

/-- Registers of a stack and what waits in it alone differ, and numbers have been given. -/
def PagesOnly (d e : Dev) : Prop := { e with regs := d.regs, stackTab := d.stackTab, nextId := d.nextId } = d ∧ Released d e

theorem PagesOnly.refl (d : Dev) : PagesOnly d d := ⟨rfl, Released.refl d⟩

theorem PagesOnly.trans {d e f : Dev} (h : PagesOnly d e) (h' : PagesOnly e f) : PagesOnly d f := by
  obtain ⟨hframe, hrel⟩ := h
  obtain ⟨hframe', hrel'⟩ := h'
  exact ⟨(congrArg (fun x : Dev => { x with regs := d.regs, stackTab := d.stackTab, nextId := d.nextId }) hframe' :).trans hframe,
    hrel.trans hrel'⟩

/-- Registers alone differ. -/
def RegsAlone (d e : Dev) : Prop := { e with regs := d.regs } = d

theorem RegsAlone.refl (d : Dev) : RegsAlone d d := rfl

theorem RegsAlone.fcnt {d e : Dev} (h : RegsAlone d e) (a : Nat) (f : Fld) (n : Nat) : RegsAlone d (fcnt e a f n) := by
  unfold Machine.fcnt
  split
  · exact h
  · exact h

theorem RegsAlone.fset {d e : Dev} (h : RegsAlone d e) (a : Nat) (f : Fld) (v : Nat) : RegsAlone d (fset e a f v) := h

theorem RegsAlone.pagesOnly {d e : Dev} (h : RegsAlone d e) (hrel : Released d e) : PagesOnly d e :=
  ⟨(congrArg (fun x : Dev => { x with stackTab := d.stackTab, nextId := d.nextId }) h :), hrel⟩

theorem regsAlone_countRsvRefusal (d : Dev) (s : Nat) : RegsAlone d (countRsvRefusal d s) := (RegsAlone.refl d).fcnt _ _ 1

theorem regsAlone_applyEntry (d : Dev) (s lp : Nat) (v : Word) : RegsAlone d (applyEntry d s lp v) := by
  have hentry : ∀ l, RegsAlone d (fsets d (pageReg s lp) l) := fsets_frame d _
  unfold applyEntry
  dsimp only
  split
  · exact regsAlone_countRsvRefusal d s
  · split <;> split
    · exact ((hentry _).fset _ _ 1).fcnt _ _ 1
    · exact (hentry _).fcnt _ _ 1
    · exact (hentry _).fset _ _ 1
    · exact hentry _

theorem pagesOnly_applyEntry (d : Dev) (s lp : Nat) (v : Word) : PagesOnly d (applyEntry d s lp v) :=
  (regsAlone_applyEntry d s lp v).pagesOnly (released_applyEntry d s lp v)

theorem pagesOnly_setStack (d : Dev) (s : Nat) (k : Stack) : PagesOnly d (setStack d s k) := ⟨rfl, released_setStack d s k⟩

theorem pagesOnly_applyFences (s n : Nat) (d : Dev) : PagesOnly d (applyFences s n d) := by
  induction n generalizing d with
  | zero => exact PagesOnly.refl d
  | succ n ih =>
    unfold applyFences
    dsimp only
    split
    · exact PagesOnly.refl d
    · exact ((pagesOnly_setStack d s _).trans (pagesOnly_applyEntry _ s _ _)).trans (ih _)

theorem pagesOnly_fenceEntry (d : Dev) (s lp : Nat) (v : Word) : PagesOnly d (fenceEntry d s lp v) :=
  PagesOnly.trans (e := (freshId d).1) ⟨rfl, rfl, rfl, fun _ _ _ => rfl⟩
    ((pagesOnly_setStack _ s _).trans (pagesOnly_applyFences s _ _))

theorem pagesOnly_setPage (d : Dev) (p kind refs : Nat) (stepRd stepWr : Bool) : PagesOnly d (setPage d p kind refs stepRd stepWr) := by
  unfold setPage
  split
  · exact (regsAlone_countRsvRefusal d _).pagesOnly (released_countRsvRefusal d _)
  · exact pagesOnly_fenceEntry d _ _ _

theorem pagesOnly_takePages (l : List Nat) (kind : Nat) (stepRd stepWr : Bool) (d : Dev) :
    PagesOnly d (takePages d l kind stepRd stepWr) :=
  foldl_keeps (I := PagesOnly d) (fun e p _ he => he.trans (pagesOnly_setPage e p kind 0 stepRd stepWr)) (PagesOnly.refl d)

/-! ### A page that has been taken is not FREE -/

/-- Entries of pages lie at addresses of their own. -/
theorem pageReg_eq_iff {s s' lp lp' : Nat} (hs : s < 8) (hs' : s' < 8) : pageReg s lp = pageReg s' lp' ↔ s = s' ∧ lp = lp' := by
  simp only [pageReg, ctlSel, ctl, pow2, R.RSV_PT_ENTRY]
  omega

theorem pageReg_ne_ctl {s s' lp p : Nat} (hs' : s' < 8) (hp : p < 2 ^ 26) : pageReg s lp ≠ ctl p (48 + s') 0 := by
  simp only [pageReg, ctlSel, ctl, pow2]
  omega

theorem entryKind_rd (d : Dev) (a : Nat) : entryKind (rd d a) = fget d a F.RSV_PT_ENTRY_KIND := rfl

/-- An entry applied to another page leaves that of a page as it is. -/
theorem rd_applyEntry_ne {d : Dev} {s lp s' lp' : Nat} (hs : s < 8) (hs' : s' < 8) (hne : ¬ (s = s' ∧ lp = lp')) (v : Word) :
    rd (applyEntry d s' lp' v) (pageReg s lp) = rd d (pageReg s lp) := by
  have hreg : pageReg s lp ≠ pageReg s' lp' := mt (pageReg_eq_iff hs hs').1 hne
  have hstatus : pageReg s lp ≠ ctl R.RSV_STATUS (48 + s') 0 := pageReg_ne_ctl hs' (by decide)
  have hrefuse : pageReg s lp ≠ ctl R.RSV_REFUSE_CNT (48 + s') 0 := pageReg_ne_ctl hs' (by decide)
  unfold applyEntry
  dsimp only
  split
  · exact rd_fcnt_ne d hrefuse _ _
  · split <;> split <;> simp only [rd_fcnt_ne _ hstatus, rd_fset_ne _ hreg, rd_fsets_ne _ hreg]

/-- A page whose entry is applied has its kind, unless it is withdrawn. -/
theorem entryKind_applyEntry {d : Dev} {s lp : Nat} (hs : s < 8) (v : Word) :
    entryKind (rd (applyEntry d s lp v) (pageReg s lp))
      = if entryKind (rd d (pageReg s lp)) = 7 then 7 else entryKind v := by
  have hstatus : pageReg s lp ≠ ctl R.RSV_STATUS (48 + s) 0 := pageReg_ne_ctl hs (by decide)
  have hrefuse : pageReg s lp ≠ ctl R.RSV_REFUSE_CNT (48 + s) 0 := pageReg_ne_ctl hs (by decide)
  have hkind : entryKind v % 2 ^ F.RSV_PT_ENTRY_KIND.width = entryKind v := Nat.mod_eq_of_lt (bits_lt _ _ _)
  have hentry : fget (fsets d (pageReg s lp) [(F.RSV_PT_ENTRY_KIND, entryKind v), (F.RSV_PT_ENTRY_STEP_RD, bits v.toNat 3 1),
      (F.RSV_PT_ENTRY_STEP_WR, bits v.toNat 4 1), (F.RSV_PT_ENTRY_REFS, bits v.toNat 16 16)]) (pageReg s lp) F.RSV_PT_ENTRY_KIND
      = entryKind v := by
    rw [fsets_cons, fget_fsets_other _ _ _ _ (by simp), fget_fset_self _ _ F.RSV_PT_ENTRY_KIND _ (by decide), hkind]
  have hzero : ∀ e : Dev, fget (fset e (pageReg s lp) F.RSV_PT_ENTRY_ZEROING 1) (pageReg s lp) F.RSV_PT_ENTRY_KIND
      = fget e (pageReg s lp) F.RSV_PT_ENTRY_KIND := fun e => fget_fset_other e _ _ _ 1 (by decide) (.inl (by decide))
  unfold applyEntry
  dsimp only
  split
  · next hold => rw [countRsvRefusal, rd_fcnt_ne d hrefuse, hold]
  · split <;> split <;> simp only [rd_fcnt_ne _ hstatus, entryKind_rd, hzero, hentry]

/-- The entries of a page that wait. -/
def waitingFences (d : Dev) (s : Nat) : List (Nat × Nat × Word) := (mgetD d.stackTab s {}).fences

/-- No entry that waits for a page frees it. -/
def NoneFrees (d : Dev) (s lp : Nat) : Prop := ∀ f ∈ waitingFences d s, f.1 = lp → entryKind f.2.2 ≠ 0

/-- A page is in use, or will be once what waits has been done, and nothing that waits frees it. -/
def Held (d : Dev) (s lp : Nat) : Prop :=
  NoneFrees d s lp ∧ (entryKind (rd d (pageReg s lp)) ≠ 0 ∨ ∃ f ∈ waitingFences d s, f.1 = lp)

theorem waitingFences_setStack_ne (d : Dev) {s s' : Nat} (h : s ≠ s') (k : Stack) :
    waitingFences (setStack d s' k) s = waitingFences d s := by
  rw [waitingFences, setStack, mgetD_mset_ne _ h, waitingFences]

theorem waitingFences_setStack_self (d : Dev) (s : Nat) (k : Stack) : waitingFences (setStack d s k) s = k.fences := by
  rw [waitingFences, setStack, mgetD_mset_self]

theorem waitingFences_applyEntry (d : Dev) (s s' lp : Nat) (v : Word) :
    waitingFences (applyEntry d s' lp v) s = waitingFences d s := by
  have h : (applyEntry d s' lp v).stackTab = d.stackTab := (congrArg Dev.stackTab (regsAlone_applyEntry d s' lp v) :)
  rw [waitingFences, h, waitingFences]

/-- An entry that waits, applied: it waits no longer. -/
def applyFence (d : Dev) (s : Nat) (f : Nat × Nat × Word) : Dev :=
  applyEntry (setStack d s { mgetD d.stackTab s {} with fences := (waitingFences d s).filter fun g => g != f }) s f.1 f.2.2

theorem mem_waitingFences_applyFence {d : Dev} {s s' : Nat} {f g : Nat × Nat × Word} :
    g ∈ waitingFences (applyFence d s' f) s ↔ g ∈ waitingFences d s ∧ (s = s' → g ≠ f) := by
  rw [applyFence, waitingFences_applyEntry]
  by_cases hs : s = s'
  · subst hs
    simp [waitingFences_setStack_self]
  · simp [waitingFences_setStack_ne d hs, hs]

theorem NoneFrees.applyFence {d : Dev} {s lp : Nat} (h : NoneFrees d s lp) (s' : Nat) (f : Nat × Nat × Word) :
    NoneFrees (applyFence d s' f) s lp := fun g hg => h g (mem_waitingFences_applyFence.1 hg).1

theorem Held.applyFence {d : Dev} {s s' lp : Nat} (hs : s < 8) (hs' : s' < 8) (h : Held d s lp) {f : Nat × Nat × Word}
    (hf : f ∈ waitingFences d s') : Held (applyFence d s' f) s lp := by
  obtain ⟨hnone, huse⟩ := h
  refine ⟨hnone.applyFence s' f, ?_⟩
  by_cases hsame : s = s' ∧ lp = f.1
  · obtain ⟨rfl, rfl⟩ := hsame
    left
    rw [Machine.applyFence, entryKind_applyEntry hs]
    split
    · decide
    · exact hnone f hf rfl
  · rw [Machine.applyFence, rd_applyEntry_ne hs hs' hsame]
    refine huse.imp id fun ⟨g, hg, hglp⟩ => ⟨g, mem_waitingFences_applyFence.2 ⟨hg, fun hss hgf => hsame ⟨hss, ?_⟩⟩, hglp⟩
    rw [← hglp, hgf]

/-- What every entry that waits keeps as it applies, settling the entries of a stack keeps. -/
theorem applyFences_keeps {I : Dev → Prop} {s : Nat} (hstep : ∀ d f, f ∈ waitingFences d s → I d → I (applyFence d s f))
    (n : Nat) (d : Dev) (hd : I d) : I (applyFences s n d) := by
  induction n generalizing d with
  | zero => exact hd
  | succ n ih =>
    unfold applyFences
    dsimp only
    split
    · exact hd
    · next f hf => exact ih _ (hstep d f (List.mem_of_find?_eq_some hf) hd)

/-- A new value for a page's entry waits behind what waits already. -/
def fenceAdded (d : Dev) (s lp : Nat) (v : Word) : Dev :=
  setStack (freshId d).1 s { mgetD d.stackTab s {} with fences := waitingFences d s ++ [(lp, d.nextId, v)] }

theorem fenceEntry_eq (d : Dev) (s lp : Nat) (v : Word) :
    fenceEntry d s lp v = applyFences s ((waitingFences d s).length + 1) (fenceAdded d s lp v) := rfl

theorem mem_waitingFences_fenceAdded {d : Dev} {s s' lp : Nat} {v : Word} {g : Nat × Nat × Word} :
    g ∈ waitingFences (fenceAdded d s' lp v) s ↔ g ∈ waitingFences d s ∨ (s = s' ∧ g = (lp, d.nextId, v)) := by
  rw [fenceAdded]
  by_cases hs : s = s'
  · subst hs
    simp [waitingFences_setStack_self]
  · simp only [waitingFences_setStack_ne _ hs, hs, false_and, or_false]
    rfl

theorem NoneFrees.fenceAdded {d : Dev} {s lp : Nat} (h : NoneFrees d s lp) (s' lp' : Nat) {v : Word} (hv : entryKind v ≠ 0) :
    NoneFrees (fenceAdded d s' lp' v) s lp := fun g hg hglp => by
  obtain hg | ⟨_, rfl⟩ := mem_waitingFences_fenceAdded.1 hg
  · exact h g hg hglp
  · exact hv

theorem Held.fenceAdded {d : Dev} {s lp : Nat} (h : Held d s lp) (s' lp' : Nat) {v : Word} (hv : entryKind v ≠ 0) :
    Held (fenceAdded d s' lp' v) s lp := by
  obtain ⟨hnone, huse⟩ := h
  exact ⟨hnone.fenceAdded s' lp' hv, huse.imp id fun ⟨g, hg, hglp⟩ => ⟨g, mem_waitingFences_fenceAdded.2 (.inl hg), hglp⟩⟩

theorem held_fenceAdded {d : Dev} {s lp : Nat} (h : NoneFrees d s lp) {v : Word} (hv : entryKind v ≠ 0) :
    Held (fenceAdded d s lp v) s lp :=
  ⟨h.fenceAdded s lp hv, .inr ⟨_, mem_waitingFences_fenceAdded.2 (.inr ⟨rfl, rfl⟩), rfl⟩⟩

/-- Settling the entries of a stack keeps pages from being freed. -/
theorem NoneFrees.applyFences {d : Dev} {s lp : Nat} (h : NoneFrees d s lp) (s' n : Nat) : NoneFrees (applyFences s' n d) s lp :=
  applyFences_keeps (I := (NoneFrees · s lp)) (fun _ f _ he => he.applyFence s' f) n d h

theorem Held.applyFences {d : Dev} {s s' lp : Nat} (hs : s < 8) (hs' : s' < 8) (h : Held d s lp) (n : Nat) :
    Held (applyFences s' n d) s lp :=
  applyFences_keeps (I := (Held · s lp)) (fun _ _ hf he => he.applyFence hs hs' hf) n d h

/-- What an access is checked against waits for the page, or is its entry. -/
theorem checkEntry_cases (d : Dev) (s lp : Nat) :
    (∃ f ∈ waitingFences d s, f.1 = lp) ∨ checkEntry d s lp = rd d (pageReg s lp) := by
  rw [checkEntry]
  cases hlast : ((mgetD d.stackTab s {}).fences.filter fun f => f.1 = lp).getLast? with
  | none => exact .inr (by rw [Option.map_none, Option.getD_none])
  | some f =>
    obtain ⟨hmem, hlp⟩ := List.mem_filter.1 (List.mem_of_getLast? hlast)
    exact .inl ⟨f, hmem, of_decide_eq_true hlp⟩

/-- A page that a checked access finds withdrawn is in use. -/
theorem held_of_retired {d : Dev} {p : Nat} (h : NoneFrees d (p % 8) (p / 8)) (hretired : entryKind (pageEntry d p) = 7) :
    Held d (p % 8) (p / 8) := by
  refine ⟨h, (checkEntry_cases d (p % 8) (p / 8)).symm.imp (fun hentry hzero => ?_) id⟩
  rw [pageEntry, hentry, hzero] at hretired
  cases hretired

theorem waitingFences_countRsvRefusal (d : Dev) (s s' : Nat) : waitingFences (countRsvRefusal d s') s = waitingFences d s := by
  have h : (countRsvRefusal d s').stackTab = d.stackTab := (congrArg Dev.stackTab (regsAlone_countRsvRefusal d s') :)
  rw [waitingFences, h, waitingFences]

theorem Held.countRsvRefusal {d : Dev} {s s' lp : Nat} (hs' : s' < 8) (h : Held d s lp) : Held (countRsvRefusal d s') s lp := by
  have hrd : rd (Machine.countRsvRefusal d s') (pageReg s lp) = rd d (pageReg s lp) :=
    rd_fcnt_ne d (pageReg_ne_ctl hs' (by decide)) _ _
  rw [Held, NoneFrees, waitingFences_countRsvRefusal, hrd]
  exact h

/-- The entry that firmware writes has the kind that it is given. -/
theorem entryKind_ofNat {kind : Nat} (h : kind < 8) (refs : Nat) (stepRd stepWr : Bool) :
    entryKind (BitVec.ofNat 32 (kind + 8 * b2n stepRd + 16 * b2n stepWr + refs * pow2 16)) = kind := by
  simp only [entryKind, bits, BitVec.toNat_ofNat, Nat.shiftRight_zero, pow2]
  omega

section
variable {d : Dev} {kind : Nat} (hkind : kind ≠ 0) (hkind' : kind < 8) (p refs : Nat) (stepRd stepWr : Bool)
include hkind hkind'

/-- A kind other than FREE that firmware writes frees no page. -/
theorem NoneFrees.setPage {s lp : Nat} (h : NoneFrees d s lp) : NoneFrees (setPage d p kind refs stepRd stepWr) s lp := by
  unfold Machine.setPage
  split
  · rw [NoneFrees, waitingFences_countRsvRefusal]
    exact h
  · rw [fenceEntry_eq]
    exact (h.fenceAdded _ _ (by rwa [entryKind_ofNat hkind'])).applyFences _ _

theorem Held.setPage {s lp : Nat} (hs : s < 8) (h : Held d s lp) : Held (setPage d p kind refs stepRd stepWr) s lp := by
  have hp : p % 8 < 8 := Nat.mod_lt _ (by decide)
  unfold Machine.setPage
  split
  · exact h.countRsvRefusal hp
  · rw [fenceEntry_eq]
    exact (h.fenceAdded _ _ (by rwa [entryKind_ofNat hkind'])).applyFences hs hp _

/-- The page itself is held from then on. -/
theorem held_setPage (h : NoneFrees d (p % 8) (p / 8)) : Held (setPage d p kind refs stepRd stepWr) (p % 8) (p / 8) := by
  have hp : p % 8 < 8 := Nat.mod_lt _ (by decide)
  unfold Machine.setPage
  split
  · next hretired => exact (held_of_retired h hretired).countRsvRefusal hp
  · rw [fenceEntry_eq]
    exact (held_fenceAdded h (by rwa [entryKind_ofNat hkind'])).applyFences hp hp _

/-- Of pages that are taken each is held. -/
theorem held_takePages {l : List Nat} (h : ∀ q ∈ l, NoneFrees d (q % 8) (q / 8)) :
    ∀ q ∈ l, Held (takePages d l kind stepRd stepWr) (q % 8) (q / 8) := by
  have hkeep : ∀ (l : List Nat) (e : Dev) (q : Nat), Held e (q % 8) (q / 8) →
      Held (takePages e l kind stepRd stepWr) (q % 8) (q / 8) := fun l e q he =>
    foldl_keeps (I := fun e => Held e (q % 8) (q / 8))
      (fun e p _ he => he.setPage hkind hkind' p 0 stepRd stepWr (Nat.mod_lt _ (by decide))) he
  induction l generalizing d with
  | nil => exact fun _ hq => absurd hq List.not_mem_nil
  | cons p l ih =>
    obtain ⟨hp, hl⟩ := List.forall_mem_cons.1 h
    rw [List.forall_mem_cons]
    exact ⟨hkeep l _ p (held_setPage hkind hkind' p 0 stepRd stepWr hp),
      ih fun q hq => (hl q hq).setPage hkind hkind' p 0 stepRd stepWr⟩

end

theorem pageFree_of_held {d : Dev} {p : Nat} (h : Held d (p % 8) (p / 8)) : pageFree d p = false := by
  obtain ⟨_, huse⟩ := h
  rcases huse with hkind | ⟨f, hf, hlp⟩
  · simp [pageFree, hkind]
  · have hany : ((mgetD d.stackTab (p % 8) {}).fences.any fun f => f.1 == p / 8) = true :=
      List.any_eq_true.2 ⟨f, hf, by simpa using hlp⟩
    simp [pageFree, hany]

theorem noneFrees_of_pageFree {d : Dev} {p : Nat} (h : pageFree d p = true) : NoneFrees d (p % 8) (p / 8) := fun f hf hlp => by
  have hany : ((mgetD d.stackTab (p % 8) {}).fences.any fun f => f.1 == p / 8) = true :=
    List.any_eq_true.2 ⟨f, hf, by simpa using hlp⟩
  simp [pageFree, hany] at h

/-! ## Runs of FREE pages, and what is written into pages (R196, R208) -/

theorem ok_of_firstFrom {ok : Nat → Bool} {n i p : Nat} (h : firstFrom ok n i = some p) : ok p = true := by
  induction n generalizing i with
  | zero => cases h
  | succ n ih =>
    rw [firstFrom] at h
    split at h
    · next hok => rwa [← Option.some.inj h]
    · exact ih h

/-- Numbers that a test accepts are found in rising order. -/
theorem takeFrom_rising (ok : Nat → Bool) (n i k : Nat) :
    (takeFrom ok n i k).Pairwise (· < ·) ∧ ∀ q ∈ takeFrom ok n i k, i ≤ q := by
  induction n generalizing i k with
  | zero => exact ⟨List.Pairwise.nil, fun _ h => absurd h List.not_mem_nil⟩
  | succ n ih =>
    obtain ⟨hrise, hfrom⟩ := ih (i + 1) (k - 1)
    obtain ⟨hrise', hfrom'⟩ := ih (i + 1) k
    rw [takeFrom]
    split
    · exact ⟨List.Pairwise.nil, fun _ h => absurd h List.not_mem_nil⟩
    · split
      · refine ⟨List.pairwise_cons.2 ⟨hfrom, hrise⟩, List.forall_mem_cons.2 ⟨le_rfl, fun q hq => ?_⟩⟩
        exact (Nat.le_succ i).trans (hfrom q hq)
      · exact ⟨hrise', fun q hq => (Nat.le_succ i).trans (hfrom' q hq)⟩

/-- A run of KV pages has as many pages as were asked for, each once and FREE. -/
theorem kvRun_spec {d : Dev} {n : Nat} {l : List Nat} (h : kvRun d n = some l) :
    l.length = n ∧ l.Nodup ∧ ∀ q ∈ l, pageFree d q = true := by
  obtain ⟨p, hp, rfl⟩ := Option.map_eq_some_iff.1 h
  have hok := ok_of_firstFrom hp
  simp only [Bool.and_eq_true, beq_iff_eq, List.all_eq_true] at hok
  obtain ⟨hlength, hfree⟩ := hok
  exact ⟨hlength, (takeFrom_rising _ _ _ _).1.imp fun hlt => ne_of_lt hlt, fun q hq => (hfree q hq).2⟩

theorem freeRun_free {d : Dev} {n p : Nat} (h : freeRun d n = some p) :
    ∀ q ∈ (List.range n).map fun i => p + i, pageFree d q = true := by
  have hok := List.all_eq_true.1 (ok_of_firstFrom h)
  exact List.forall_mem_map.2 hok

theorem putPages_frame (l : List Nat) (bs : List Byte) (d : Dev) : { putPages l bs d with rsv := d.rsv } = d := by
  induction l generalizing bs d with
  | nil => rfl
  | cons p l ih =>
    exact (congrArg (fun x : Dev => { x with rsv := d.rsv }) (ih (bs.drop 2097152) (putRsv d (p * 2097152) (bs.take 2097152))) :)

/-- Bytes of other pages stay. -/
theorem memByte_putPages_out (epoch unit : Nat) {l : List Nat} {k : Nat} (h : k / 2097152 ∉ l) (bs : List Byte) (d : Dev) :
    memByte epoch unit (putPages l bs d).rsv k = memByte epoch unit d.rsv k := by
  induction l generalizing bs d with
  | nil => rfl
  | cons p l ih =>
    obtain ⟨hp, hl⟩ := not_or.1 (mt List.mem_cons.2 h)
    have hlength : (bs.take 2097152).length ≤ 2097152 := List.length_take_le ..
    rw [putPages, ih hl]
    exact memByte_memWrite_out epoch unit d.rsv _ _ (by omega)

theorem memByte_memWrite_in (epoch unit : Nat) (m : Mem) (a : Nat) {bs : List Byte} {i : Nat} {v : Byte} (h : bs[i]? = some v) :
    memByte epoch unit (memWrite m a bs) (a + i) = v := by
  obtain ⟨hi, rfl⟩ := List.getElem?_eq_some_iff.1 h
  rw [memWrite, memByte_memWriteOpt_in epoch unit m a i _ (by simpa using hi)]
  simp

/-- Bytes lie page after page. -/
theorem memByte_putPages_in (epoch unit : Nat) {l : List Nat} (hl : l.Nodup) {bs : List Byte} {i : Nat} {v : Byte}
    (hi : i < l.length * 2097152) (hv : bs[i]? = some v) (d : Dev) :
    memByte epoch unit (putPages l bs d).rsv (l.getD (i / 2097152) 0 * 2097152 + i % 2097152) = v := by
  induction l generalizing bs d i with
  | nil => simp at hi
  | cons p l ih =>
    obtain ⟨hp, hl⟩ := List.nodup_cons.1 hl
    rw [putPages]
    by_cases hfirst : i < 2097152
    · have hplace : (p :: l).getD (i / 2097152) 0 * 2097152 + i % 2097152 = p * 2097152 + i := by
        rw [Nat.div_eq_of_lt hfirst, Nat.mod_eq_of_lt hfirst, List.getD_cons_zero]
      have hpage : (p * 2097152 + i) / 2097152 ∉ l := by
        rwa [show (p * 2097152 + i) / 2097152 = p by omega]
      rw [hplace, memByte_putPages_out epoch unit hpage]
      exact memByte_memWrite_in epoch unit d.rsv _ (by rw [List.getElem?_take_of_lt hfirst, hv])
    · obtain ⟨j, rfl⟩ := Nat.exists_eq_add_of_le (Nat.le_of_not_lt hfirst)
      rw [List.length_cons] at hi
      have hdiv : (2097152 + j) / 2097152 = j / 2097152 + 1 := by omega
      have hmod : (2097152 + j) % 2097152 = j % 2097152 := by omega
      rw [hdiv, hmod, List.getD_cons_succ]
      exact ih hl (by omega) (by rw [List.getElem?_drop, hv]) _

/-! ## A request runs (R300, R308, R314) -/

/-- Pages of the reservoir have been taken or freed, and bytes of it written. -/
def PagesWritten (d e : Dev) : Prop := PagesOnly d { e with rsv := d.rsv }

theorem PagesOnly.rsv {d e : Dev} (h : PagesOnly d e) : e.rsv = d.rsv := (congrArg Dev.rsv h.1 :)

theorem PagesOnly.epoch {d e : Dev} (h : PagesOnly d e) : e.epoch = d.epoch := (congrArg Dev.epoch h.1 :)

theorem PagesOnly.written {d e : Dev} (h : PagesOnly d e) : PagesWritten d e := by
  rw [PagesWritten, ← h.rsv]
  exact h

theorem PagesWritten.trans {d e f : Dev} (h : PagesWritten d e) (h' : PagesWritten e f) : PagesWritten d f := by
  obtain ⟨hframe, hsrv, hstep, hregs⟩ := h
  obtain ⟨hframe', hsrv', hstep', hregs'⟩ := h'
  exact ⟨(congrArg (fun x : Dev => { x with rsv := d.rsv, regs := d.regs, stackTab := d.stackTab, nextId := d.nextId }) hframe' :).trans
    hframe, hsrv'.trans hsrv, hstep'.trans hstep, fun a ha hl => (hregs' a ha hl).trans (hregs a ha hl)⟩

theorem pagesWritten_putPages (l : List Nat) (bs : List Byte) (d : Dev) : PagesWritten d (putPages l bs d) := by
  rw [PagesWritten, putPages_frame]
  exact PagesOnly.refl d

theorem PagesWritten.srv {d e : Dev} (h : PagesWritten d e) : e.srv = d.srv := h.2.1

theorem PagesWritten.out {d e : Dev} (h : PagesWritten d e) : e.out = d.out := (congrArg Dev.out h.1 :)

theorem PagesWritten.sendsAlike {d e : Dev} (h : PagesWritten d e) : SendsAlike d e := by
  have haqds : e.aqds = d.aqds := (congrArg Dev.aqds h.1 :)
  obtain ⟨_, _, _, hregs⟩ := id h
  refine ⟨h.out, fun a ha => hregs a (mt (List.mem_cons_of_mem _) ha) List.not_mem_nil, fun g => ?_⟩
  rw [aqd, haqds, aqd]

/-- A page of a list that has been written is held as before. -/
theorem Held.putPages {d : Dev} {s lp : Nat} (h : Held d s lp) (l : List Nat) (bs : List Byte) : Held (putPages l bs d) s lp := by
  have hframe : Held { Machine.putPages l bs d with rsv := d.rsv } s lp := by rwa [putPages_frame]
  exact hframe

/-- What a count list takes beyond the pool goes into pages that were FREE, or nowhere (R314). -/
theorem spillCounts_spec (d : Dev) (n : Nat) {s : Slot} (hs : s.spill = []) :
    ∃ e l, spillCounts d n s = setSlot e n { s with spill := l } ∧ PagesWritten d e
      ∧ ∀ epoch k, pageFree d (k / 2097152) = false → memByte epoch unitRsv e.rsv k = memByte epoch unitRsv d.rsv k := by
  have hnone : { s with spill := [] } = s := by rw [← hs]
  rw [spillCounts, spillBeyond]
  simp only [hs, List.isEmpty_nil, Bool.and_true, List.length_nil, freePageList, List.foldl_nil]
  split
  · exact ⟨d, [], by rw [hnone], (PagesOnly.refl d).written, fun _ _ _ => rfl⟩
  · next hneed =>
    rw [if_neg (by simpa using hneed)]
    split
    · exact ⟨d, [], rfl, (PagesOnly.refl d).written, fun _ _ _ => rfl⟩
    · next p hp =>
      have htake := pagesOnly_takePages ((List.range (pagesFor (8 * (s.counts.drop poolEntries).length))).map fun i => p + i) 4 true true d
      refine ⟨_, _, rfl, htake.written.trans (pagesWritten_putPages _ _ _), fun epoch k hk => ?_⟩
      have hother : k / 2097152 ∉ (List.range (pagesFor (8 * (s.counts.drop poolEntries).length))).map fun i => p + i := fun hmem =>
        Bool.false_ne_true (hk.symm.trans (freeRun_free hp _ hmem))
      rw [memByte_putPages_out epoch unitRsv hother, htake.rsv]

theorem convKv_of_rsv {d e : Dev} (hrsv : e.rsv = d.rsv) (hepoch : e.epoch = d.epoch) (c : Conv) : convKv e c = convKv d c := by
  simp only [convKv, pagesRead, hrsv, hepoch]

/-- As admission does with a run of pages: they are taken, and what a record holds is written there. -/
def withRun (d : Dev) (old : Option Conv) : Option (List Nat) → Dev × List Nat
  | none => (d, [])
  | some l => ((match old with
        | some c => putPages l (convKv (takePages d l 4 true true) c) (takePages d l 4 true true)
        | none => takePages d l 4 true true), l)

/-- The definition of `admitKv` says so of every run, before the run that it finds is looked at. -/
theorem admitKv_eq (d : Dev) (k : KvShape) (n : Nat) (old : Option Conv) :
    admitKv d k n old = withRun d old (kvRun d (pagesFor (n * k.posBytes))) := by
  have hdef : ∃ f, f = @admitKv ∧ f d k n old = withRun d old (kvRun d (pagesFor (n * k.posBytes))) := by
    refine ⟨_, by delta admitKv; exact rfl, ?_⟩
    generalize kvRun d (pagesFor (n * k.posBytes)) = x
    cases x <;> rfl
  obtain ⟨f, rfl, hf⟩ := hdef
  exact hf
/-- With a run of FREE pages admission takes them, and writes there what a record holds; without one it takes none. -/
theorem admitKv_spec (d : Dev) (k : KvShape) (n : Nat) (old : Option Conv) :
    PagesWritten d (admitKv d k n old).1 ∧ (admitKv d k n old).2 = (kvRun d (pagesFor (n * k.posBytes))).getD []
      ∧ ∀ l, kvRun d (pagesFor (n * k.posBytes)) = some l → (∀ q ∈ l, pageFree (admitKv d k n old).1 q = false)
        ∧ ∀ c, old = some c → ∀ i v, i < l.length * 2097152 → (convKv d c)[i]? = some v → ∀ epoch,
          memByte epoch unitRsv (admitKv d k n old).1.rsv (l.getD (i / 2097152) 0 * 2097152 + i % 2097152) = v := by
  rw [admitKv_eq]
  cases hrun : kvRun d (pagesFor (n * k.posBytes)) with
  | none => exact ⟨(PagesOnly.refl d).written, rfl, fun l hl => by cases hl⟩
  | some l =>
    obtain ⟨_, hnodup, hfree⟩ := kvRun_spec hrun
    have htake := pagesOnly_takePages l 4 true true d
    have hheld : ∀ q ∈ l, Held (takePages d l 4 true true) (q % 8) (q / 8) :=
      held_takePages (by decide) (by decide) true true fun q hq => noneFrees_of_pageFree (hfree q hq)
    cases old with
    | none =>
      refine ⟨htake.written, rfl, fun l' hl' => ?_⟩
      obtain rfl := Option.some.inj hl'
      exact ⟨fun q hq => pageFree_of_held (hheld q hq), fun c hc => by cases hc⟩
    | some c =>
      refine ⟨htake.written.trans (pagesWritten_putPages _ _ _), rfl, fun l' hl' => ?_⟩
      obtain rfl := Option.some.inj hl'
      refine ⟨fun q hq => pageFree_of_held ((hheld q hq).putPages _ _), fun c' hc' i v hi hv epoch => ?_⟩
      obtain rfl := Option.some.inj hc'
      exact memByte_putPages_in epoch unitRsv hnodup hi (by rwa [convKv_of_rsv htake.rsv htake.epoch]) _

/-! ## Holders are asked for their spans again (R305, R308) -/

/-- A holder that is asked again: its slot is not known. -/
def Holder.asked (y : Holder) : Holder := { fa := y.fa, slot := none, first := y.first, count := y.count }

/-- A holder of a request's conversation is asked for its span. -/
def askAgain (n : Nat) (d : Dev) (y : Holder) : Dev :=
  match slot d n with
  | some s => askHold d n s y.fa y.first y.count
  | none => d

/-- A request of a named conversation asks without a new identifier. -/
theorem askAgain_of_slot {d : Dev} {n : Nat} {s : Slot} (hs : slot d n = some s) (hconv : s.conv ≠ 0) (y : Holder) :
    askAgain n d y = sendTo (setSlot d n { s with holders := s.holders ++ [y.asked] }) y.fa 5 .hold [leaveBy d y.fa, y.fa, n]
      (spanOf s y.first y.count).bytes := by
  simp only [askAgain, hs, askHold, hconv, decide_false, Bool.false_and, Bool.false_eq_true, if_false]
  rfl

/-- Slots, aqueducts and what has gone out alone differ. -/
def SlotsOnly (d e : Dev) : Prop := { e with srv := { e.srv with slots := d.srv.slots }, aqds := d.aqds, out := d.out } = d

theorem SlotsOnly.trans {d e f : Dev} (h : SlotsOnly d e) (h' : SlotsOnly e f) : SlotsOnly d f :=
  (congrArg (fun x : Dev => { x with srv := { x.srv with slots := d.srv.slots }, aqds := d.aqds, out := d.out }) h' :).trans h

theorem slotsOnly_setSlot (d : Dev) (n : Nat) (s : Slot) : SlotsOnly d (setSlot d n s) := rfl

theorem slotsOnly_sendTo (d : Dev) (fa vc : Nat) (kind : EmitKind) (nums : List Nat) (bytes : List Byte) :
    SlotsOnly d (sendTo d fa vc kind nums bytes) :=
  (congrArg (fun x : Dev => { x with srv := { x.srv with slots := d.srv.slots } }) (sendTo_frame d fa vc kind nums bytes 64 64) :)

theorem slot_setSlot_self (d : Dev) (n : Nat) (s : Slot) : slot (setSlot d n s) n = some s := mget_mset_self _ n s

theorem slot_of_srv {d e : Dev} (h : e.srv = d.srv) (n : Nat) : slot e n = slot d n := by rw [slot, h, slot]

/-- All holders are asked, one after another. -/
theorem askAgain_foldl {n : Nat} (l : List Holder) {d : Dev} {s : Slot} (hs : slot d n = some s) (hconv : s.conv ≠ 0) :
    slot (l.foldl (askAgain n) d) n = some { s with holders := s.holders ++ l.map Holder.asked }
      ∧ SlotsOnly d (l.foldl (askAgain n) d) := by
  induction l generalizing d s with
  | nil => exact ⟨by rw [List.map_nil, List.append_nil, List.foldl_nil, hs], rfl⟩
  | cons y l ih =>
    have hslot : slot (askAgain n d y) n = some { s with holders := s.holders ++ [y.asked] } := by
      rw [askAgain_of_slot hs hconv, slot_of_srv (sendTo_srv ..), slot_setSlot_self]
    have honly : SlotsOnly d (askAgain n d y) := by
      rw [askAgain_of_slot hs hconv]
      exact (slotsOnly_setSlot d n _).trans (slotsOnly_sendTo _ _ _ _ _ _)
    obtain ⟨hrest, hrest'⟩ := ih hslot hconv
    exact ⟨by rw [List.foldl_cons, hrest, List.map_cons, List.append_assoc, List.singleton_append], honly.trans hrest'⟩

/-! ## A request runs (R300, R308) -/

/-- What a record brings back: its edition and KV shape are those of the request, and its pages answer. -/
def broughtBack (d : Dev) (k : KvShape) (old : Option Conv) : Option Conv :=
  old.filter fun o => o.edition == edition d && o.kvShape == k && kvReadable d o

/-- The slot of a request that runs on KV pages, with spilled counts on others. -/
def runningSlot (d : Dev) (s : Slot) (old : Option Conv) (kv spill : List Nat) : Slot :=
  let back := broughtBack d s.kvShape old
  let got := back.filter fun _ => !kv.isEmpty || s.kvShape.vectors = 0
  { s with
    state := .running, condensed := (old.any fun o => o.marked) || (back.any fun o => o.condensed), kv,
    stored := (got.map Conv.count).getD 0, gaps := (got.map Conv.gaps).getD [],
    counts := countList (penScope s.sampling) s.prompts s.tokens, spill }

/-- What a record brings back counts where the request has KV pages, or needs none. -/
theorem runningSlot_brought (d : Dev) {s : Slot} {kv : List Nat} (h : kv ≠ [] ∨ s.kvShape.vectors = 0) (old : Option Conv)
    (spill : List Nat) :
    (runningSlot d s old kv spill).stored = ((broughtBack d s.kvShape old).map Conv.count).getD 0
      ∧ (runningSlot d s old kv spill).gaps = ((broughtBack d s.kvShape old).map Conv.gaps).getD [] := by
  have hcond : (!kv.isEmpty || decide (s.kvShape.vectors = 0)) = true := by simpa [List.isEmpty_iff] using h
  have hgot : ∀ o : Option Conv, (o.filter fun _ => !kv.isEmpty || decide (s.kvShape.vectors = 0)) = o := fun o => by
    cases o <;> simp [Option.filter, hcond]
  simp only [runningSlot, hgot, and_self]

/-- The holders of what a resumption found. -/
def oldHolders (old : Option Conv) : List Holder := (old.map Conv.holders).getD []

theorem startRunning_eq (d : Dev) (n : Nat) (s : Slot) (old : Option Conv) :
    startRunning d n s old = (oldHolders old).foldl (askAgain n) (showServing (spillCounts
      (admitKv d s.kvShape s.tokens.length (broughtBack d s.kvShape old)).1 n
      (runningSlot d s old (admitKv d s.kvShape s.tokens.length (broughtBack d s.kvShape old)).2 s.spill))) := rfl

/-- The KV pages that a request takes, none where no run is free. -/
def kvPages (d : Dev) (s : Slot) : List Nat := (kvRun d (pagesFor (s.tokens.length * s.kvShape.posBytes))).getD []

/-- A request runs in a slot: its holders have been asked again, and what a record held of it lies in its KV pages. -/
structure Running (d e : Dev) (n : Nat) (s : Slot) (old : Option Conv) : Prop where
  slot : ∃ spill, slot e n = some { runningSlot d s old (kvPages d s) spill with holders := (oldHolders old).map Holder.asked }
  models : e.srv.models = d.srv.models
  silent : oldHolders old = [] → e.out = d.out
  asked : ∀ y, oldHolders old = [y] →
    Sent d e y.fa 5 { kind := .hold, nums := [leaveBy d y.fa, y.fa, n], bytes := (spanOf s y.first y.count).bytes }
  brought : ∀ l, kvRun d (pagesFor (s.tokens.length * s.kvShape.posBytes)) = some l → ∀ o, broughtBack d s.kvShape old = some o →
    ∀ i v, i < l.length * 2097152 → (convKv d o)[i]? = some v →
      memByte e.epoch unitRsv e.rsv (l.getD (i / 2097152) 0 * 2097152 + i % 2097152) = v

theorem sendsAlike_setSlot (d : Dev) (n : Nat) (s : Slot) : SendsAlike d (setSlot d n s) := ⟨rfl, fun _ _ => rfl, fun _ => rfl⟩

theorem sendsAlike_showServing (d : Dev) : SendsAlike d (showServing d) := by
  have haqds : (showServing d).aqds = d.aqds := (congrArg Dev.aqds (showServing_frame d) :)
  refine ⟨(showsOnly_showServing d).out, fun a ha => rd_showServing_of_class d fun h => ha (h ▸ List.mem_cons_self ..),
    fun g => ?_⟩
  rw [aqd, haqds, aqd]

/-- A slot that is stored and shown, on pages that have been written. -/
theorem shown_setSlot {d e : Dev} (h : PagesWritten d e) (n : Nat) (x : Slot) :
    slot (showServing (setSlot e n x)) n = some x ∧ SendsAlike d (showServing (setSlot e n x))
      ∧ (showServing (setSlot e n x)).srv.models = d.srv.models ∧ (showServing (setSlot e n x)).rsv = e.rsv := by
  have hshown := showsOnly_showServing (setSlot e n x)
  refine ⟨?_, (h.sendsAlike.trans (sendsAlike_setSlot _ _ _)).trans (sendsAlike_showServing _), ?_, hshown.rsv⟩
  · rw [slot_of_srv hshown.srv, slot_setSlot_self]
  · rw [hshown.srv, setSlot, h.srv]

/-- The holders of what a resumption found are asked, if there are any. -/
theorem slot_askAgain_foldl {d : Dev} {n : Nat} {x : Slot} (hslot : slot d n = some x) (hholders : x.holders = []) {l : List Holder}
    (hconv : l ≠ [] → x.conv ≠ 0) :
    slot (l.foldl (askAgain n) d) n = some { x with holders := l.map Holder.asked } ∧ SlotsOnly d (l.foldl (askAgain n) d) := by
  by_cases hnone : l = []
  · subst hnone
    refine ⟨hslot.trans (congrArg some ?_), rfl⟩
    rw [List.map_nil, ← hholders]
  · obtain ⟨hasked, honly⟩ := askAgain_foldl l hslot (hconv hnone)
    rw [hholders, List.nil_append] at hasked
    exact ⟨hasked, honly⟩

/-- A request of whose slot nothing is spilled and no holder known runs. -/
theorem running_startRunning (d : Dev) (n : Nat) {s : Slot} {old : Option Conv} (hspill : s.spill = []) (hholders : s.holders = [])
    (hconv : oldHolders old ≠ [] → s.conv ≠ 0) : Running d (startRunning d n s old) n s old := by
  obtain ⟨hadmit, hkv, hrun⟩ := admitKv_spec d s.kvShape s.tokens.length (broughtBack d s.kvShape old)
  rw [startRunning_eq, hkv]
  generalize (admitKv d s.kvShape s.tokens.length (broughtBack d s.kvShape old)).1 = d₁ at hadmit hrun
  obtain ⟨d₂, spill, hcounts, hspilled, hmem⟩ := spillCounts_spec d₁ n (s := runningSlot d s old (kvPages d s) s.spill) hspill
  have hrunning : ({ runningSlot d s old (kvPages d s) s.spill with spill } : Slot) = runningSlot d s old (kvPages d s) spill := rfl
  rw [← kvPages, hcounts, hrunning]
  obtain ⟨hslot, halike, hmodels, hrsv⟩ := shown_setSlot (hadmit.trans hspilled) n (runningSlot d s old (kvPages d s) spill)
  generalize showServing (setSlot d₂ n (runningSlot d s old (kvPages d s) spill)) = e at hslot halike hmodels hrsv
  obtain ⟨hasked, honly⟩ := slot_askAgain_foldl hslot hholders hconv
  refine ⟨⟨spill, hasked⟩, (congrArg (fun x : Dev => x.srv.models) honly :).trans hmodels, fun hnone => ?_, fun y hy => ?_,
    fun l hl o ho i v hi hv => ?_⟩
  · rw [hnone]
    exact halike.1
  · rw [hy, List.foldl_cons, List.foldl_nil, askAgain_of_slot hslot (hconv (by rw [hy]; exact List.cons_ne_nil _ _)), halike.leaveBy]
    exact (halike.trans (sendsAlike_setSlot e n _)).sent (m := { kind := .hold, nums := _, bytes := _ }) rfl
  · obtain ⟨hheld, hbytes⟩ := hrun l hl
    have hpage : l.getD (i / 2097152) 0 ∈ l := by
      rw [List.getD_eq_getElem _ _ (Nat.div_lt_of_lt_mul (by rwa [Nat.mul_comm]))]
      exact List.getElem_mem _
    have hplace : (l.getD (i / 2097152) 0 * 2097152 + i % 2097152) / 2097152 = l.getD (i / 2097152) 0 := by omega
    rw [(congrArg Dev.rsv honly :).trans hrsv, hmem _ _ (by rw [hplace]; exact hheld _ hpage)]
    exact hbytes o ho i v hi hv _

/-! ## A request arrives (R234, R299) -/

/-- Of the device what is to be returned as credits, what has arrived of records and the conversations alone differ, and both
send alike. -/
def Admits (d e : Dev) : Prop :=
  (∃ aqds intake convs, e = { d with aqds, srv := { d.srv with intake, convs } }) ∧ SendsAlike d e

section
variable {d e : Dev} (h : Admits d e)
include h

theorem Admits.regs : e.regs = d.regs := by
  obtain ⟨⟨aqds, intake, convs, rfl⟩, _⟩ := h
  rfl

theorem Admits.epoch : e.epoch = d.epoch := by
  obtain ⟨⟨aqds, intake, convs, rfl⟩, _⟩ := h
  rfl

theorem Admits.rsv : e.rsv = d.rsv := by
  obtain ⟨⟨aqds, intake, convs, rfl⟩, _⟩ := h
  rfl

theorem Admits.slots : e.srv.slots = d.srv.slots := by
  obtain ⟨⟨aqds, intake, convs, rfl⟩, _⟩ := h
  rfl

theorem Admits.models : e.srv.models = d.srv.models := by
  obtain ⟨⟨aqds, intake, convs, rfl⟩, _⟩ := h
  rfl

theorem Admits.lowestFree : Machine.lowestFree e = Machine.lowestFree d := by rw [Machine.lowestFree, h.slots, Machine.lowestFree]

theorem Admits.model (m : Nat) : Machine.model e m = Machine.model d m := by rw [Machine.model, h.models, Machine.model]

theorem Admits.flag (a : Nat) (f : Fld) : Machine.flag e a f = Machine.flag d a f := by
  rw [Machine.flag, fget, rd_of_regs h.regs, Machine.flag, fget]

theorem Admits.modelReady (m : Nat) : Machine.modelReady e m = Machine.modelReady d m := by
  simp only [Machine.modelReady, h.flag, h.model, fget, rd_of_regs h.regs]

theorem Admits.inputTokens (r : Req) (x : EpochRec) : Machine.inputTokens e r x = Machine.inputTokens d r x := by
  obtain ⟨⟨aqds, intake, convs, rfl⟩, _⟩ := h
  rfl

theorem Admits.stackUp (k : Nat) : Machine.stackUp e k = Machine.stackUp d k := by
  simp only [Machine.stackUp, stackReachable, bridgeUp, stackServes, h.flag]

theorem Admits.pageFree (p : Nat) : Machine.pageFree e p = Machine.pageFree d p := by
  obtain ⟨⟨aqds, intake, convs, rfl⟩, _⟩ := h
  rfl

theorem Admits.kvRun (n : Nat) : Machine.kvRun e n = Machine.kvRun d n := by
  have hpages : upPages e n = upPages d n := funext fun p => by simp only [upPages, h.stackUp]
  simp only [Machine.kvRun, hpages, h.pageFree]

theorem Admits.broughtBack (k : KvShape) (old : Option Conv) : Machine.broughtBack e k old = Machine.broughtBack d k old := by
  have hread : ∀ o, kvReadable e o = kvReadable d o := fun o => by
    have hpage : ∀ p, pageReadable e p = pageReadable d p := fun p => by
      rw [pageReadable, h.stackUp]
      obtain ⟨⟨aqds, intake, convs, rfl⟩, _⟩ := h
      rfl
    simp only [kvReadable, funext hpage]
  have hedition : edition e = edition d := by rw [edition, fget, rd_of_regs h.regs, edition, fget]
  simp only [Machine.broughtBack, hread, hedition]

end

theorem Admits.refl (d : Dev) : Admits d d := ⟨⟨d.aqds, d.srv.intake, d.srv.convs, rfl⟩, SendsAlike.refl d⟩

theorem Admits.setConvs {d e : Dev} (h : Admits d e) (l : List Conv) : Admits d (setConvs e l) := by
  obtain ⟨⟨aqds, intake, convs, rfl⟩, hsend⟩ := h
  exact ⟨⟨aqds, intake, l, rfl⟩, hsend⟩

theorem Admits.withIntake {d e : Dev} (h : Admits d e) (l : SMap (List Byte)) :
    Admits d { e with srv := { e.srv with intake := l } } := by
  obtain ⟨⟨aqds, intake, convs, rfl⟩, hsend⟩ := h
  exact ⟨⟨aqds, l, convs, rfl⟩, hsend⟩

/-- A frame that is taken changes only what is to be returned as credits. -/
theorem admits_noteTaken (d : Dev) (a : Arrival) (vc : Nat) : Admits d (noteTaken d a vc) := by
  rw [noteTaken]
  split
  · next l _ =>
    refine ⟨⟨_, d.srv.intake, d.srv.convs, rfl⟩, rfl, fun _ _ => rfl, fun g => ?_⟩
    by_cases hg : g = a.head * 8 + l
    · subst hg
      rw [aqd, setAqd, mgetD_mset_self]
    · rw [aqd, setAqd, mgetD_mset_ne _ hg, ← aqd]
  · exact Admits.refl d

theorem noteTaken_srv (d : Dev) (a : Arrival) (vc : Nat) : (noteTaken d a vc).srv = d.srv := by
  rw [noteTaken]
  split <;> rfl

/-- What is sent alike from a device that sends alike. -/
theorem SendsAlike.sent_of {d e f : Dev} (h : SendsAlike d e) {fa vc : Nat} {m : Emit} (hs : Sent e f fa vc m) :
    Sent d f fa vc m := by
  intro hroute
  obtain ⟨r, hout, hkind, hnums, hbytes, hvc, hsrc⟩ := hs (hroute.imp (·.trans h.ownFa.symm) fun ⟨g, hg, hhead, htakes⟩ =>
    ⟨g, (h.routeAqd fa vc).trans hg, (h.headReachable _).trans hhead, h.takes htakes⟩)
  exact ⟨r, hout.trans (congrArg (· ++ [r]) h.1), hkind, hnums, hbytes, hvc, fun hm => (hsrc hm).trans h.ownFa⟩

/-- A frame of a record arrives at its front end's head: it is taken, and what has arrived so far is looked at. -/
theorem requestBy_fabric {d : Dev} {h : FrameHdr} (hdst : h.dst.val = ownFa d) (hreceived : received d h.arrival = true)
    (hhead : headReachable d h.head = true) (tag : Fin 65536) (kv : KvShape) (bytes : List Byte) :
    requestBy d (.fabric h tag) kv bytes = requestFrame (noteTaken d h.arrival 5) h.src tag kv bytes := by
  have hadmits := admits_noteTaken d h.arrival 5
  have hown : h.arrival.dst = ownFa (noteTaken d h.arrival 5) := hdst.trans hadmits.2.ownFa.symm
  have hreach : headReachable (noteTaken d h.arrival 5) h.arrival.head = true := (hadmits.2.headReachable _).trans hhead
  simp only [requestBy, arriveAt, arriveElse, hreceived, Bool.not_true, Bool.false_eq_true, if_false, ← hown, hreach, if_true,
    ne_eq, not_true_eq_false]

/-! ## The order of refusals (R300, R301, R308, R309) -/

/-- An active request of the tenant has the identifier. -/
def sameActive (tenant reqId : Nat) (x : Slot) : Bool :=
  x.tenant == tenant && x.reqId == reqId && (x.holderOf.isNone || x.gone) && x.state != .ending

/-- The conversation that a request resumes. -/
def oldConv (d : Dev) (r : Req) (tenant : Nat) : Option Conv := if r.resume then resumed d r tenant d.tally else none

/-- The tokens of the conversation that a request resumes. -/
def oldTokens (old : Option Conv) : List Nat := (old.map Conv.tokens).getD []

/-- The slot of a request as it is admitted. -/
def freshSlot (d : Dev) (c : Conn) (tenant : Nat) (kv : KvShape) (record : List Byte) (r : Req) (x : EpochRec) (old : Option Conv)
    (t : List Nat) : Slot :=
  { state := .admitted, record, conn := c, tenant, model := r.model, reqId := r.reqId, conv := r.conv,
    textOut := r.textOut, keep := r.keep, maxTokens := r.maxTokens,
    deadline := if r.deadlineUs = 0 then none else some (d.tally + 625 * r.deadlineUs),
    ttl := if r.ttl = 4294967295 then defaultTtl d else min r.ttl 2592000, seed := r.seed,
    sampling := r.sampling, stops := r.stops, tokens := oldTokens old ++ t, epoch := x.epoch, alt := x.alt, stamp := d.tally,
    kvShape := kv, prompts := ((old.map Conv.prompts).getD []) ++ [((oldTokens old).length, t.length)] }

/-- A resumption pins its conversation. -/
def pinOld (d : Dev) : Option Conv → Dev
  | some o => setConv d o { o with pinned := true }
  | none => d

section
variable {d : Dev} {record : List Byte} (c : Conn) (tenant : Nat) (kv : KvShape)

theorem request_malformed (h : parseReq record = none) :
    request d c tenant d.tally kv record = refuseReq d c (numAt record 8 8) (numAt record 16 16) (.refused 5) := by
  simp only [request, h]

variable {r : Req} (hr : parseReq record = some r)
include hr

theorem request_full (h : lowestFree d = none) :
    request d c tenant d.tally kv record = refuseReq d c r.reqId r.conv (.refused 1) := by
  simp only [request, hr, h]

variable {n : Nat} (hn : lowestFree d = some n)
include hn

theorem request_unready (h : modelReady d r.model = false) :
    request d c tenant d.tally kv record = refuseReq d c r.reqId r.conv (.refused 2) := by
  cases hx : (model d r.model).active with
  | none => simp only [request, hr, hn, hx]
  | some x => simp only [request, hr, hn, hx, h, Bool.not_false, if_true]

variable {x : EpochRec} (hready : modelReady d r.model = true) (hx : (model d r.model).active = some x)
include hready hx

theorem request_closed (h : flag d (srvReg R.SRV_CTRL) F.SRV_CTRL_ADMIT = false) :
    request d c tenant d.tally kv record = refuseReq d c r.reqId r.conv (.refused 3) := by
  simp only [request, hr, hn, hx, hready, h, Bool.not_true, Bool.not_false, Bool.false_eq_true, if_true, if_false]

variable (hopen : flag d (srvReg R.SRV_CTRL) F.SRV_CTRL_ADMIT = true)
include hopen

theorem request_twice (h : (d.srv.slots.any fun y => sameActive tenant r.reqId y.2) = true) :
    request d c tenant d.tally kv record = refuseReq d c r.reqId r.conv (.refused 4) := by
  simp only [sameActive] at h
  simp only [request, hr, hn, hx, hready, hopen, h, Bool.not_true, Bool.false_eq_true, if_true, if_false]

end

/-- Nothing but its input, its conversation or its length stands against a request: a slot is FREE, its model is ready, requests
are admitted, and no active one of the tenant has its identifier. -/
structure Admissible (d : Dev) (tenant : Nat) (r : Req) (n : Nat) (x : EpochRec) : Prop where
  lowest : lowestFree d = some n
  ready : modelReady d r.model = true
  active : (model d r.model).active = some x
  accepts : flag d (srvReg R.SRV_CTRL) F.SRV_CTRL_ADMIT = true
  once : (d.srv.slots.any fun y => sameActive tenant r.reqId y.2) = false

section
variable {d : Dev} {record : List Byte} (c : Conn) {tenant : Nat} (kv : KvShape) {r : Req} (hr : parseReq record = some r)
  {n : Nat} {x : EpochRec} (h : Admissible d tenant r n x)
include hr h

theorem request_badInput (ht : inputTokens d r x = none) :
    request d c tenant d.tally kv record = refuseReq d c r.reqId r.conv (.refused 5) := by
  obtain ⟨hn, hready, hx, hopen, honce⟩ := h
  simp only [sameActive] at honce
  simp only [request, hr, hn, hx, hready, hopen, honce, ht, Bool.not_true, Bool.false_eq_true, if_false]

variable {t : List Nat} (ht : inputTokens d r x = some t)
include ht

theorem request_notFound (hlost : (r.resume && (oldConv d r tenant).isNone) = true) :
    request d c tenant d.tally kv record = refuseReq d c r.reqId r.conv .notFound := by
  obtain ⟨hn, hready, hx, hopen, honce⟩ := h
  simp only [sameActive] at honce
  simp only [oldConv] at hlost
  simp only [request, hr, hn, hx, hready, hopen, honce, ht, hlost, Bool.not_true, Bool.false_eq_true, if_true, if_false]

variable (hfound : (r.resume && (oldConv d r tenant).isNone) = false)
include hfound

theorem request_tooLong (hlong : 16777216 < (oldTokens (oldConv d r tenant) ++ t).length) :
    request d c tenant d.tally kv record = refuseReq d c r.reqId r.conv (.refused 6) := by
  obtain ⟨hn, hready, hx, hopen, honce⟩ := h
  simp only [sameActive] at honce
  simp only [oldConv] at hfound
  simp only [oldTokens, oldConv] at hlong
  simp only [request, hr, hn, hx, hready, hopen, honce, ht, hfound, hlong, Bool.not_true, Bool.false_eq_true, if_true, if_false]

/-- A request that nothing refuses waits for the copy of its conversation, or runs. -/
theorem request_admitted (hshort : (oldTokens (oldConv d r tenant) ++ t).length ≤ 16777216) :
    request d c tenant d.tally kv record =
      if (oldConv d r tenant).any fun o => !o.landed then
        showServing (setSlot (pinOld d (oldConv d r tenant)) n (freshSlot d c tenant kv record r x (oldConv d r tenant) t))
      else startRunning (pinOld d (oldConv d r tenant)) n (freshSlot d c tenant kv record r x (oldConv d r tenant) t)
        (oldConv d r tenant) := by
  obtain ⟨hn, hready, hx, hopen, honce⟩ := h
  have hplace : (oldTokens (oldConv d r tenant) ++ t).length - t.length = (oldTokens (oldConv d r tenant)).length := by simp
  have hlong : ¬ 16777216 < (oldTokens (oldConv d r tenant) ++ t).length := Nat.not_lt.2 hshort
  simp only [sameActive] at honce
  rw [freshSlot, ← hplace, Nat.mul_comm 625]
  simp only [oldTokens, oldConv] at *
  simp only [request, hr, hn, hx, hready, hopen, honce, ht, hfound, hlong, Bool.not_true, Bool.false_eq_true, if_false]
  rfl

end

/-! ## A request by its route, and how it completes (R234, R299, R301) -/

/-- A request has arrived: as `Admits`, with the conversations as they were. -/
def Arrived (d e : Dev) : Prop := Admits d e ∧ e.srv.convs = d.srv.convs

theorem Arrived.srv {d e : Dev} (h : Arrived d e) : e.srv = { d.srv with intake := e.srv.intake } := by
  obtain ⟨⟨⟨aqds, intake, convs, rfl⟩, _⟩, hconvs⟩ := h
  obtain rfl : convs = d.srv.convs := hconvs
  rfl

theorem Arrived.tally {d e : Dev} (h : Arrived d e) : e.tally = d.tally := by
  obtain ⟨⟨⟨aqds, intake, convs, rfl⟩, _⟩, _⟩ := h
  rfl

theorem Arrived.oldConv {d e : Dev} (h : Arrived d e) (r : Req) (tenant : Nat) : oldConv e r tenant = Machine.oldConv d r tenant := by
  rw [Machine.oldConv, resumed, h.2, h.tally, Machine.oldConv, resumed]

theorem Arrived.freshSlot {d e : Dev} (h : Arrived d e) (c : Conn) (tenant : Nat) (kv : KvShape) (record : List Byte) (r : Req)
    (x : EpochRec) (old : Option Conv) (t : List Nat) :
    freshSlot e c tenant kv record r x old t = Machine.freshSlot d c tenant kv record r x old t := by
  obtain ⟨⟨⟨aqds, intake, convs, rfl⟩, _⟩, _⟩ := h
  rfl

theorem Arrived.admissible {d e : Dev} (h : Arrived d e) {tenant : Nat} {r : Req} {n : Nat} {x : EpochRec}
    (ha : Admissible d tenant r n x) : Admissible e tenant r n x := by
  obtain ⟨hn, hready, hx, hopen, honce⟩ := ha
  exact ⟨h.1.lowestFree.trans hn, (h.1.modelReady _).trans hready, by rw [h.1.model, hx], (h.1.flag _ _).trans hopen,
    by rw [h.1.slots, honce]⟩

theorem Arrived.pinOld {d e : Dev} (h : Arrived d e) (old : Option Conv) : Admits d (pinOld e old) := by
  cases old with
  | none => exact h.1
  | some o => exact h.1.setConvs _

/-- What runs on a device with the request runs on that it came to. -/
theorem Running.of_admits {d e f : Dev} (h : Admits d e) {n : Nat} {s : Slot} {old : Option Conv} (hrun : Running e f n s old) :
    Running d f n s old := by
  obtain ⟨⟨spill, hslot⟩, hmodels, hsilent, hasked, hbrought⟩ := hrun
  have hpages : kvPages e s = kvPages d s := by rw [kvPages, h.kvRun, kvPages]
  have hrunning : ∀ kv, runningSlot e s old kv spill = runningSlot d s old kv spill := fun kv => by
    simp only [runningSlot, h.broughtBack]
  refine ⟨⟨spill, ?_⟩, hmodels.trans h.models, fun hnone => (hsilent hnone).trans h.2.1, fun y hy => ?_,
    fun l hl o ho i v hi hv => ?_⟩
  · rw [hslot, hpages, hrunning]
  · have hsent := h.2.sent_of (hasked y hy)
    rwa [h.2.leaveBy] at hsent
  · rw [← h.kvRun] at hl
    rw [← h.broughtBack] at ho
    rw [← convKv_of_rsv h.rsv h.epoch] at hv
    exact hbrought l hl o ho i v hi hv

theorem Running.of_shows {d e f : Dev} (h : ShowsOnly e f) {n : Nat} {s : Slot} {old : Option Conv} (hrun : Running d e n s old) :
    Running d f n s old := by
  obtain ⟨⟨spill, hslot⟩, hmodels, hsilent, hasked, hbrought⟩ := hrun
  refine ⟨⟨spill, ?_⟩, ?_, fun hnone => h.out.trans (hsilent hnone), fun y hy => Sent.of_out (hasked y hy) h.out, ?_⟩
  · rw [slot_of_srv h.srv, hslot]
  · rw [h.srv, hmodels]
  · rw [h.epoch, h.rsv]
    exact hbrought

end Sys2Proof.Machine

namespace Sys2Proof

open Sys2Proof.Machine

section
variable {s : State} {conn : ClientConn} {kv : KvShape} {bytes : List Byte} (hp : powered s.dev = true)
  (hsettled : ModelsSettled s.dev)
include hp hsettled

/-- A request completes in what serving shows of the device that has taken it. -/
theorem completes_request {f : Dev} (hf : requestBy s.dev conn kv bytes = f) (hmodels : f.srv.models = s.dev.srv.models)
    {P : Dev → Prop} (h : ∀ e, ShowsOnly f e → P e) : Completes (.request conn ⟨bytes, kv⟩) s P := by
  refine ⟨settleModels f, ?_, h _ (showsOnly_settleModels ?_)⟩
  · rw [exec_request, execRequest, act_powered rfl hp]
    simp only [hf]
  · rw [ModelsSettled, hmodels]
    exact hsettled

/-- A request that is refused completes with its end record and its count alone. -/
theorem completes_refused {c : Conn} {reqId conv : Nat} {st : Status} {e : Dev} (he : Arrived s.dev e) (hst : st.unadmitted = true)
    (hf : requestBy s.dev conn kv bytes = refuseReq e c reqId conv st) :
    Completes (.request conn ⟨bytes, kv⟩) s fun f => f.srv.slots = s.dev.srv.slots ∧ f.srv.convs = s.dev.srv.convs
      ∧ Counted s.dev f (srvReg R.SRV_END_CNT_D) (if st.codes.1 = 7 then F.SRV_END_CNT_D_NOT_FOUND else F.SRV_END_CNT_D_REFUSED)
      ∧ Responded s.dev f c .endRecord (endRecord s.dev { reqId, conn := c } st {} conv) := by
  obtain ⟨hslots, hconvs, hmodels, hcount, hanswer⟩ := refuseReq_spec he.1.2 he.srv he.1.regs c reqId conv hst
  refine completes_request hp hsettled hf hmodels fun f hshow => ⟨?_, ?_, ?_, Responded.of_out hanswer hshow.out⟩
  · rw [hshow.srv, hslots]
  · rw [hshow.srv, hconvs]
  · rwa [Counted, fget, hshow.2, ← fget]

/-- A request whose conversation's copy has not landed waits in its slot. -/
theorem completes_waiting {e : Dev} (he : Arrived s.dev e) {n : Nat} {x : Slot} {old : Option Conv}
    (hf : requestBy s.dev conn kv bytes = showServing (setSlot (pinOld e old) n x)) :
    Completes (.request conn ⟨bytes, kv⟩) s fun f =>
      slot f n = some x ∧ f.out = s.dev.out ∧ f.srv.convs = (pinOld e old).srv.convs := by
  have hpin := he.pinOld old
  have hwait := showsOnly_showServing (setSlot (pinOld e old) n x)
  refine completes_request hp hsettled hf (by rw [hwait.srv, ← hpin.models]; rfl) fun f hshow => ⟨?_, ?_, ?_⟩
  · rw [slot_of_srv (hshow.srv.trans hwait.srv), slot_setSlot_self]
  · exact (hshow.out.trans hwait.out).trans hpin.2.1
  · rw [hshow.srv, hwait.srv]
    rfl

/-- A request that waits for nothing runs. -/
theorem completes_running {e : Dev} (he : Arrived s.dev e) {n : Nat} {x : Slot} {old : Option Conv} (hspill : x.spill = [])
    (hholders : x.holders = []) (hconv : oldHolders old ≠ [] → x.conv ≠ 0)
    (hf : requestBy s.dev conn kv bytes = startRunning (pinOld e old) n x old) :
    Completes (.request conn ⟨bytes, kv⟩) s fun f => Running s.dev f n x old := by
  have hrun := (running_startRunning (pinOld e old) n hspill hholders hconv).of_admits (he.pinOld old)
  exact completes_request hp hsettled hf hrun.models fun f hshow => hrun.of_shows hshow

end

/-- Who a request is answered to. -/
def connOf : ClientConn → Conn
  | .http a n k _ => .http a n k
  | .fabric h _ => .fabric h.src

/-- The tenant that a request counts for. -/
def tenantOf (d : Dev) : ClientConn → Nat
  | .http _ _ _ ident => tenantTag d ident
  | .fabric _ tag => tag

/-- What has arrived of a request's record. -/
def recordOf (d : Dev) (bytes : List Byte) : ClientConn → List Byte
  | .http .. => bytes
  | .fabric h _ => mgetD d.srv.intake h.src [] ++ bytes

/-- The record is there. -/
def wholeBy (record : List Byte) : ClientConn → Bool
  | .http .. => true
  | .fabric .. => recordWhole record

/-- The route takes the request. -/
def takenBy (d : Dev) : ClientConn → Prop
  | .http a n _ _ => aqdEthernetUp d a = true ∧ openStreams d a n < 1024
  | .fabric h _ => h.dst.val = ownFa d ∧ received d h.arrival = true ∧ headReachable d h.head = true

/-- On an aqueduct that is not UP in Ethernet mode a request is not received. -/
theorem requestBy_of_down {d : Dev} {a : AqdId} (h : aqdEthernetUp d a = false) (n k : Nat) (ident : List Byte) (kv : KvShape)
    (bytes : List Byte) : requestBy d (.http a n k ident) kv bytes = d := by
  simp only [requestBy, h, Bool.not_false, if_true]

/-- A connection with 1,024 streams takes no further one. -/
theorem requestBy_of_streams {d : Dev} {a : AqdId} {n : Nat} (hup : aqdEthernetUp d a = true) (h : 1024 ≤ openStreams d a n)
    (k : Nat) (ident : List Byte) (kv : KvShape) (bytes : List Byte) :
    requestBy d (.http a n k ident) kv bytes = emit d .refusal [a, n, k] := by
  simp only [requestBy, hup, h, Bool.not_true, Bool.false_eq_true, if_true, if_false]

/-- A request whose record is there has arrived, and is judged. -/
theorem requestBy_of_taken {d : Dev} {conn : ClientConn} (kv : KvShape) {bytes : List Byte} (htaken : takenBy d conn)
    (hwhole : wholeBy (recordOf d bytes conn) conn = true) :
    ∃ e, Arrived d e ∧ requestBy d conn kv bytes = request e (connOf conn) (tenantOf d conn) e.tally kv (recordOf d bytes conn) := by
  cases conn with
  | http a n k ident =>
    obtain ⟨hup, hroom⟩ := htaken
    refine ⟨d, ⟨Admits.refl d, rfl⟩, ?_⟩
    simp only [requestBy, hup, Bool.not_true, Bool.false_eq_true, if_false, Nat.not_le.2 hroom]
    rfl
  | fabric h tag =>
    obtain ⟨hdst, hreceived, hhead⟩ := htaken
    have hadmits := admits_noteTaken d h.arrival 5
    have hsrv := noteTaken_srv d h.arrival 5
    have hwhole : recordWhole (mgetD (noteTaken d h.arrival 5).srv.intake h.src [] ++ bytes) = true := by rw [hsrv]; exact hwhole
    refine ⟨_, ⟨hadmits.withIntake (mdel (noteTaken d h.arrival 5).srv.intake h.src), (congrArg Serving.convs hsrv :)⟩, ?_⟩
    rw [requestBy_fabric hdst hreceived hhead]
    simp only [requestFrame, hwhole, if_true]
    rw [hsrv]
    rfl

/-- Frames of a record that is not whole are kept. -/
theorem requestBy_of_part {d : Dev} {h : FrameHdr} {tag : Fin 65536} (kv : KvShape) {bytes : List Byte}
    (htaken : takenBy d (.fabric h tag))
    (hpart : recordWhole (mgetD d.srv.intake h.src [] ++ bytes) = false) :
    requestBy d (.fabric h tag) kv bytes = { noteTaken d h.arrival 5 with
      srv := { d.srv with intake := mset d.srv.intake h.src (mgetD d.srv.intake h.src [] ++ bytes) } } := by
  obtain ⟨hdst, hreceived, hhead⟩ := htaken
  have hsrv := noteTaken_srv d h.arrival 5
  rw [requestBy_fabric hdst hreceived hhead]
  simp only [requestFrame, hsrv, hpart, Bool.false_eq_true, if_false]

end Sys2Proof

namespace Sys2Proof.Machine

/-- An active request of the tenant has the identifier, as a slot says. -/
theorem any_sameActive_iff (l : SMap Slot) (tenant reqId : Nat) :
    (l.any fun y => sameActive tenant reqId y.2) = true ↔ ∃ y ∈ l, y.2.tenant = tenant ∧ y.2.reqId = reqId
      ∧ (y.2.holderOf = none ∨ y.2.gone = true) ∧ y.2.state ≠ .ending := by
  simp [sameActive, and_assoc]

theorem any_notLanded_eq_false {old : Option Conv} (h : ∀ o, old = some o → o.landed = true) :
    (old.any fun o => !o.landed) = false := by
  cases old with
  | none => rfl
  | some o => rw [Option.any_some, h o rfl]; rfl

end Sys2Proof.Machine

namespace Sys2Proof.Proofs

open Sys2Proof.Machine

/-- Settles O47: each refusal is one branch of `request`, and of an admitted request `Running` says what it holds. -/
theorem requestComplete : Obligations.RequestComplete := by
  intro s conn kv bytes hp hsettled d record whole here c tenant refused
  have hno : ∀ {reqId conv : Nat} (st : Status), st.unadmitted = true → here → whole = true →
      (∀ e, Arrived d e → request e c tenant e.tally kv record = refuseReq e c reqId conv st) →
      refused st.codes.1 st.codes.2 reqId conv := by
    intro reqId conv st hst hhere hwhole hreq
    obtain ⟨e, he, hby⟩ := requestBy_of_taken (d := d) (conn := conn) kv (bytes := bytes) hhere hwhole
    exact completes_refused hp hsettled he hst (hby.trans (hreq e he))
  refine ⟨?_, ?_, fun hhere hwhole hbad => hno (.refused 5) rfl hhere hwhole fun e _ => request_malformed _ _ _ hbad, ?_⟩
  · rintro a n k ident rfl
    exact ⟨fun hdown => completes_request hp hsettled (requestBy_of_down hdown n k ident kv bytes) rfl fun f hshow =>
        ⟨hshow.srv, hshow.out⟩,
      fun hup hfull => completes_request hp hsettled (requestBy_of_streams hup hfull k ident kv bytes) rfl fun f hshow =>
        ⟨hshow.srv, hshow.out⟩⟩
  · rintro h tag rfl hhere hpart
    have htaken := admits_noteTaken d h.arrival 5
    exact completes_request hp hsettled (requestBy_of_part kv hhere hpart) rfl fun f hshow =>
      ⟨hshow.srv, hshow.out.trans htaken.2.1⟩
  intro r hhere hwhole hr old before no twice
  refine ⟨fun hfull => hno (.refused 1) rfl hhere hwhole fun e he => request_full _ _ _ hr (he.1.lowestFree.trans hfull), ?_⟩
  intro n hn
  have hlowest : ∀ e, Arrived d e → lowestFree e = some n := fun e he => he.1.lowestFree.trans hn
  refine ⟨fun hunready => hno (.refused 2) rfl hhere hwhole fun e he =>
    request_unready _ _ _ hr (hlowest e he) ((he.1.modelReady _).trans hunready), ?_⟩
  intro x hready hx admits
  have hactive : ∀ e, Arrived d e → (model e r.model).active = some x := fun e he => by rw [he.1.model, hx]
  have hready' : ∀ e, Arrived d e → modelReady e r.model = true := fun e he => (he.1.modelReady _).trans hready
  refine ⟨fun hclosed => hno (.refused 3) rfl hhere hwhole fun e he =>
    request_closed _ _ _ hr (hlowest e he) (hready' e he) (hactive e he) ((he.1.flag _ _).trans hclosed), ?_, ?_⟩
  · intro hopen htwice
    refine hno (.refused 4) rfl hhere hwhole fun e he => request_twice _ _ _ hr (hlowest e he) (hready' e he) (hactive e he)
      ((he.1.flag _ _).trans hopen) ?_
    rw [he.1.slots]
    exact (any_sameActive_iff _ _ _).2 htwice
  intro hopen honce
  have hadmissible : Admissible d tenant r n x :=
    ⟨hn, hready, hx, hopen, Bool.eq_false_iff.2 (mt (any_sameActive_iff _ _ _).1 honce)⟩
  refine ⟨fun hbad => hno (.refused 5) rfl hhere hwhole fun e he =>
    request_badInput _ _ hr (he.admissible hadmissible) ((he.1.inputTokens r x).trans hbad), ?_⟩
  intro t ht
  have htokens : ∀ e, Arrived d e → inputTokens e r x = some t := fun e he => (he.1.inputTokens r x).trans ht
  have hold : ∀ e, Arrived d e → oldConv e r tenant = old := fun e he => he.oldConv r tenant
  refine ⟨fun hresume hnone => hno .notFound rfl hhere hwhole fun e he =>
    request_notFound _ _ hr (he.admissible hadmissible) (htokens e he) (by rw [hold e he, hnone, hresume]; rfl), ?_⟩
  intro hfound tokens prompts fresh back holders pages
  have hfound' : ∀ e, Arrived d e → (r.resume && (oldConv e r tenant).isNone) = false := fun e he => by
    rw [hold e he]
    cases hresume : r.resume with
    | false => rfl
    | true => simpa using hfound hresume
  refine ⟨fun hlong => hno (.refused 6) rfl hhere hwhole fun e he =>
    request_tooLong _ _ hr (he.admissible hadmissible) (htokens e he) (hfound' e he) (by rw [hold e he]; exact hlong), ?_⟩
  intro hshort
  obtain ⟨e, he, hby⟩ := requestBy_of_taken (d := d) (conn := conn) kv (bytes := bytes) hhere hwhole
  have hjudged := request_admitted (connOf conn) kv hr (he.admissible hadmissible) (htokens e he) (hfound' e he)
    (by rw [hold e he]; exact hshort)
  rw [hold e he, he.freshSlot] at hjudged
  refine ⟨fun o ho hwaits => ?_, fun hlanded hconv => ?_⟩
  · have hwait : (old.any fun o => !o.landed) = true := by rw [ho, Option.any_some, hwaits]; rfl
    rw [if_pos hwait] at hjudged
    obtain ⟨f, hf, hslot, hout, hconvs⟩ := completes_waiting hp hsettled he (hby.trans hjudged)
    refine ⟨f, hf, hslot, hout, hconvs.trans ?_⟩
    rw [ho, pinOld, setConv, he.2]
    rfl
  · rw [any_notLanded_eq_false hlanded, if_neg Bool.false_ne_true] at hjudged
    obtain ⟨f, hf, ⟨spill, hslot⟩, -, hsilent, hasked, hbrought⟩ :=
      completes_running hp hsettled he (x := fresh) (old := old) rfl rfl hconv (hby.trans hjudged)
    refine ⟨f, hf, by rw [hslot]; rfl, hsilent, ?_, fun l hl => ⟨?_, fun hpages => ?_, fun _ o ho i v hi hv => ?_⟩⟩
    · intro y hy span
      have hnamed : fresh.conv ≠ 0 := hconv (hy ▸ List.cons_ne_nil _ _)
      have hspan : spanOf fresh y.first y.count = span := by
        simp only [spanOf, if_pos hnamed]
        rfl
      rw [← hspan]
      exact hasked y hy
    · rw [hslot]
      exact congrArg (fun run => some (Option.getD run [])) hl
    · have hkv : kvPages d fresh = l := congrArg (fun run => Option.getD run []) hl
      obtain ⟨hstored, hgaps⟩ := runningSlot_brought d (s := fresh) hpages old spill
      rw [hslot, hkv]
      exact congrArg some (Prod.ext hstored hgaps)
    · have hlength : l.length = pages := (kvRun_spec hl).1
      exact hbrought l hl o ho i v (by rw [hlength]; exact hi) hv

end Sys2Proof.Proofs
end
